-- ==== Sys2Proof/Word.lean ====
section
/-! DEFINITION. The word types of the machine and their plainest arithmetic (R4, R26, R62). -/

namespace Sys2Proof

/-- A 32-bit register word (R62). -/
abbrev Word := BitVec 32
/-- A 64-bit register pair (R62). -/
abbrev DWord := BitVec 64
/-- A byte (R4). -/
abbrev Byte := BitVec 8
/-- One bit per lane of a wave: bit L is lane L (R26). -/
abbrev LaneMask := BitVec 32

end Sys2Proof
end

