-- ==== Sys2Proof/Machine/Flags.lean ====
section
/-! DEFINITION. Every flag computation: the sticky flags (R96), the element formats (R77, R78), rounding (R83 to R88), FP32
arithmetic with its special operands (R79, R89, R194 to R198), conversions to and from integers (R90, R202, R203), and clamping
(R80). Real values are exact: a sign, a natural number and a power of two. -/

namespace Sys2Proof.Machine

open Sys2Proof

/-! The sticky bits of R96. -/
/-- Invalid. -/
def fIV : Word := 1
/-- Division by zero. -/
def fDZ : Word := 2
/-- Overflow. -/
def fOF : Word := 4
/-- Underflow. -/
def fUF : Word := 8
/-- Inexact. -/
def fNX : Word := 16
/-- An integer clamp. -/
def fIS : Word := 32

/-- Limit an integer to a range; a change sets IS (R80). -/
def clampInt (x lo hi : Int) : Int × Word :=
  if x < lo then (lo, fIS) else if hi < x then (hi, fIS) else (x, 0)

/-- A floating-point format (R77, R78). `top` tells what the all-ones exponent encodes. -/
inductive TopExp where
  | infNan | nanOnly | finite
  deriving DecidableEq, Repr

/-- The fields of a format: exponent bits, fraction bits, and its all-ones exponent (R77, R78). -/
structure Fmt where
  eb  : Nat
  mb  : Nat
  top : TopExp
  deriving DecidableEq, Repr

/-- The bias of R78; E2M1 has bias 1. -/
def Fmt.bias (f : Fmt) : Nat := 2 ^ (f.eb - 1) - 1
/-- Bits of an element. -/
def Fmt.width (f : Fmt) : Nat := 1 + f.eb + f.mb
/-- Emin = 1 − bias (R84). -/
def Fmt.emin (f : Fmt) : Int := 1 - (f.bias : Int)

def fp32 : Fmt := ⟨8, 23, .infNan⟩
def bf16 : Fmt := ⟨8, 7, .infNan⟩
def fp16 : Fmt := ⟨5, 10, .infNan⟩
def e4m3 : Fmt := ⟨4, 3, .nanOnly⟩
def e5m2 : Fmt := ⟨5, 2, .infNan⟩
def e2m1 : Fmt := ⟨2, 1, .finite⟩

/-- An exact value (R77): NaN, an infinity, or (−1)^neg · m · 2^e; m = 0 is a zero with its sign. -/
inductive FVal where
  | nan
  | inf (neg : Bool)
  | fin (neg : Bool) (m : Nat) (e : Int)
  deriving DecidableEq, Repr

/-- 2 to an integer power that is at least 0, else 1. -/
def pow2 (k : Int) : Nat := 2 ^ k.toNat

/-- The magnitude bits of the largest finite value (R78). -/
def Fmt.maxBits (f : Fmt) : Nat :=
  match f.top with
  | .infNan => (2 ^ f.eb - 1) * 2 ^ f.mb - 1
  | .nanOnly => 2 ^ (f.eb + f.mb) - 2
  | .finite => 2 ^ (f.eb + f.mb) - 1

/-- The canonical NaN (R79); E2M1 has none, and a NaN converts to +0 there (R88). -/
def Fmt.nanBits (f : Fmt) : Nat :=
  match f.top with
  | .infNan => (2 ^ f.eb - 1) * 2 ^ f.mb + 2 ^ (f.mb - 1)
  | .nanOnly => 2 ^ (f.eb + f.mb) - 1
  | .finite => 0

/-- Put a sign on magnitude bits. -/
def Fmt.signed (f : Fmt) (neg : Bool) (b : Nat) : Nat := if neg then 2 ^ (f.eb + f.mb) + b else b

/-- Read an element (R77, R78). -/
def Fmt.read (f : Fmt) (b : Nat) : FVal :=
  let neg := decide (b / 2 ^ (f.eb + f.mb) % 2 = 1)
  let ex := b / 2 ^ f.mb % 2 ^ f.eb
  let fr := b % 2 ^ f.mb
  let normal : FVal := .fin neg (2 ^ f.mb + fr) ((ex : Int) - (f.bias : Int) - (f.mb : Int))
  if ex = 0 then .fin neg fr (f.emin - (f.mb : Int))
  else if ex = 2 ^ f.eb - 1 then
    match f.top with
    | .infNan => if fr = 0 then .inf neg else .nan
    | .nanOnly => if fr = 2 ^ f.mb - 1 then .nan else normal
    | .finite => normal
  else normal

/-- The magnitude bits of m · 2^q, a value that the format holds (q is its spacing there). -/
def Fmt.encodeMag (f : Fmt) (m : Nat) (q : Int) : Nat :=
  -- m has at most mb + 2 bits; a carry into the next binade is absorbed by the addition
  (q - (f.emin - (f.mb : Int))).toNat * 2 ^ f.mb + m

/-- Rounding modes (R83); `.sr` carries the weight s, as its power of two, and the random word (R84, R85). -/
inductive Rnd where
  | rn | rz | ru | rd
  | sr (s : Int) (r : Word)
  deriving DecidableEq, Repr

/-- The rounding code of R194. -/
def Rnd.ofCode (c : Nat) : Rnd :=
  match c with
  | 0 => .rn
  | 1 => .rz
  | 2 => .ru
  | _ => .rd

/-- A magnitude rounds away from zero: `n` whole steps, remainder `rem` of `2 ^ sh`, sign and mode (R84). `d` is the number of
fraction bits that `.sr` compares. -/
def roundsUp (mode : Rnd) (neg : Bool) (n rem sh : Nat) (q : Int) : Bool :=
  match mode with
  | .rn => decide (2 * rem > 2 ^ sh) || (decide (2 * rem = 2 ^ sh) && decide (n % 2 = 1))
  | .rz => false
  | .ru => !neg
  | .rd => neg
  | .sr s r =>
    let d := (min (q - s) 24).toNat
    decide (rem * 2 ^ d / 2 ^ sh + r.toNat % 2 ^ d ≥ 2 ^ d)

/-- An infinite or largest result by the table of R87. -/
def Fmt.overflow (f : Fmt) (mode : Rnd) (neg : Bool) : Nat :=
  let max := f.signed neg f.maxBits
  let inf := f.signed neg ((2 ^ f.eb - 1) * 2 ^ f.mb)
  match f.top with
  | .infNan =>
    match mode with
    | .rn => inf
    | .rz => max
    | .ru => if neg then max else inf
    | .rd => if neg then inf else max
    | .sr _ _ => max
  | _ => max

/-- RoundTo (R84, R87): the bits and the flags of the exact value (−1)^neg · m · 2^e. -/
def Fmt.round (f : Fmt) (mode : Rnd) (neg : Bool) (m : Nat) (e : Int) : Nat × Word :=
  if m = 0 then (f.signed neg 0, 0)
  else
    let lg : Int := (Nat.log2 m : Int) + e
    let q : Int := max lg f.emin - (f.mb : Int)
    let sh : Nat := (q - e).toNat
    let n : Nat := if q ≤ e then m * pow2 (e - q) else m / 2 ^ sh
    let rem : Nat := if q ≤ e then 0 else m % 2 ^ sh
    let inexact := rem ≠ 0 && (match mode with | .sr s _ => decide (s < q) | _ => true)
    let n' : Nat := if inexact && roundsUp mode neg n rem sh q then n + 1 else n
    let mag := if lg < f.emin then n' else f.encodeMag n' q
    if mag > f.maxBits then (f.overflow mode neg, fOF ||| fNX)
    else
      let tiny := decide (mag < 2 ^ f.mb)
      (f.signed neg mag, if inexact then (if tiny then fUF ||| fNX else fNX) else 0)

/-- Round a value, special operands by R79 and R88: a NaN sets IV; an infinity saturates with OF where the format has none. -/
def Fmt.ofVal (f : Fmt) (mode : Rnd) : FVal → Nat × Word
  | .nan => (f.nanBits, fIV)
  | .inf neg =>
    match f.top with
    | .infNan => (f.signed neg ((2 ^ f.eb - 1) * 2 ^ f.mb), 0)
    | _ => (f.signed neg f.maxBits, fOF)
  | .fin neg m e => f.round mode neg m e

/-- The power of two of the spacing of the format at a value (R84, R85). -/
def Fmt.ulpExp (f : Fmt) (m : Nat) (e : Int) : Int := max ((Nat.log2 m : Int) + e) f.emin - (f.mb : Int)

/-! Exact arithmetic (R194). -/

/-- The exact sum of two finite values as a signed integer times 2^e. -/
def addExact (n₁ : Bool) (m₁ : Nat) (e₁ : Int) (n₂ : Bool) (m₂ : Nat) (e₂ : Int) : Int × Int :=
  let e := min e₁ e₂
  let a : Int := (m₁ * pow2 (e₁ - e) : Nat)
  let b : Int := (m₂ * pow2 (e₂ - e) : Nat)
  ((if n₁ then -a else a) + (if n₂ then -b else b), e)

/-- The sum of two values; an exact zero of two different signs is +0, or −0 in `.rd` (R194). -/
def FVal.add (mode : Rnd) : FVal → FVal → FVal
  | .nan, _ => .nan
  | _, .nan => .nan
  | .inf a, .inf b => if a = b then .inf a else .nan
  | .inf a, .fin _ _ _ => .inf a
  | .fin _ _ _, .inf b => .inf b
  | .fin n₁ m₁ e₁, .fin n₂ m₂ e₂ =>
    let (x, e) := addExact n₁ m₁ e₁ n₂ m₂ e₂
    if x = 0 then
      if m₁ = 0 && m₂ = 0 && n₁ = n₂ then .fin n₁ 0 e else .fin (decide (mode = .rd)) 0 e
    else .fin (decide (x < 0)) x.natAbs e

/-- The opposite of a value. -/
def FVal.neg : FVal → FVal
  | .nan => .nan
  | .inf n => .inf !n
  | .fin n m e => .fin (!n) m e

/-- The product of two values: 0 · ∞ is NaN (R194). -/
def FVal.mul : FVal → FVal → FVal
  | .nan, _ => .nan
  | _, .nan => .nan
  | .inf a, .inf b => .inf (a != b)
  | .inf a, .fin b m _ => if m = 0 then .nan else .inf (a != b)
  | .fin a m _, .inf b => if m = 0 then .nan else .inf (a != b)
  | .fin a m₁ e₁, .fin b m₂ e₂ => .fin (a != b) (m₁ * m₂) (e₁ + e₂)

/-- With `.ftz` a subnormal operand is read as zero of its sign (R89). -/
def FVal.ftzIn (f : Fmt) (ftz : Bool) : FVal → FVal
  | .fin n m e => if ftz && decide (m < 2 ^ f.mb) && decide (e = f.emin - (f.mb : Int)) then .fin n 0 e else .fin n m e
  | x => x

/-- With `.ftz` a subnormal result is replaced by zero of its sign, with UF and NX (R89). -/
def ftzOut (f : Fmt) (ftz : Bool) (r : Nat × Word) : Nat × Word :=
  let mag := r.1 % 2 ^ (f.eb + f.mb)
  if ftz && decide (0 < mag) && decide (mag < 2 ^ f.mb) then (r.1 - mag, r.2 ||| fUF ||| fNX) else r

/-- Read an FP32 word, with `.ftz` (R89). -/
def rd32 (ftz : Bool) (w : Word) : FVal := (fp32.read w.toNat).ftzIn fp32 ftz

/-- Round to an FP32 word, with `.ftz`. -/
def wr32 (ftz : Bool) (mode : Rnd) (x : FVal) : Word × Word :=
  let r := ftzOut fp32 ftz (fp32.ofVal mode x)
  (BitVec.ofNat 32 r.1, r.2)

/-- `FADD` (R194). -/
def fadd (ftz : Bool) (mode : Rnd) (a b : Word) : Word × Word := wr32 ftz mode ((rd32 ftz a).add mode (rd32 ftz b))
/-- `FSUB` (R194). -/
def fsub (ftz : Bool) (mode : Rnd) (a b : Word) : Word × Word := wr32 ftz mode ((rd32 ftz a).add mode (rd32 ftz b).neg)
/-- `FMUL` (R194). -/
def fmul (ftz : Bool) (mode : Rnd) (a b : Word) : Word × Word := wr32 ftz mode ((rd32 ftz a).mul (rd32 ftz b))
/-- `FFMA` (R194): the product is not rounded. -/
def ffma (ftz : Bool) (mode : Rnd) (a b c : Word) : Word × Word :=
  wr32 ftz mode (((rd32 ftz a).mul (rd32 ftz b)).add mode (rd32 ftz c))

/-- a < b on values, with −0 less than +0 when `signedZero` (R193, R195). -/
def FVal.lt (signedZero : Bool) : FVal → FVal → Bool
  | .nan, _ => false
  | _, .nan => false
  | .inf a, .inf b => a && !b
  | .inf a, .fin _ _ _ => a
  | .fin _ _ _, .inf b => !b
  | .fin n₁ m₁ e₁, .fin n₂ m₂ e₂ =>
    if m₁ = 0 && m₂ = 0 then signedZero && n₁ && !n₂
    else decide ((addExact n₁ m₁ e₁ (!n₂) m₂ e₂).1 < 0)

/-- The lesser or greater of two elements of a format by R195: a single NaN gives the other operand, two give the canonical NaN with
IV. The operands' own bits pass unchanged, except that `.ftz` reads a subnormal as zero of its sign. -/
def Fmt.minmax (f : Fmt) (ftz greater : Bool) (a b : Nat) : Nat × Word :=
  let z (x : Nat) : Nat :=
    let mag := x % 2 ^ (f.eb + f.mb)
    if ftz && decide (mag < 2 ^ f.mb) then x - mag else x
  let a := z a
  let b := z b
  match f.read a, f.read b with
  | .nan, .nan => (f.nanBits, fIV)
  | .nan, _ => (b, 0)
  | _, .nan => (a, 0)
  | x, y => (if greater then (if x.lt true y then b else a) else (if y.lt true x then b else a), 0)

/-- `FMIN` and `FMAX` (R195). -/
def fminmax (ftz greater : Bool) (a b : Word) : Word × Word :=
  let r := fp32.minmax ftz greater a.toNat b.toNat
  (BitVec.ofNat 32 r.1, r.2)

/-- The integer that a finite magnitude rounds to, and whether rounding changed it (R90, R196). -/
def roundInt (mode : Rnd) (neg : Bool) (m : Nat) (e : Int) : Nat × Bool :=
  if 0 ≤ e then (m * pow2 e, false)
  else
    let sh := (-e).toNat
    let n := m / 2 ^ sh
    let rem := m % 2 ^ sh
    (if rem ≠ 0 && roundsUp mode neg n rem sh 0 then n + 1 else n, decide (rem ≠ 0))

/-- `FRND` (R196): an integral value in its mode; only a NaN sets a flag. -/
def frnd (ftz : Bool) (mode : Rnd) (a : Word) : Word × Word :=
  match rd32 ftz a with
  | .fin neg m e => ((wr32 ftz .rn (.fin neg (roundInt mode neg m e).1 0)).1, 0)
  | x => wr32 ftz .rn x

/-- `FCLASS` (R197). -/
def fclass (a : Word) : Word :=
  let bit (n : Nat) : Word := BitVec.ofNat 32 (2 ^ n)
  match fp32.read a.toNat with
  | .nan => bit 8
  | .inf neg => if neg then bit 0 else bit 7
  | .fin neg m _ =>
    if m = 0 then (if neg then bit 3 else bit 4)
    else if m < 2 ^ 23 then (if neg then bit 2 else bit 5)
    else (if neg then bit 1 else bit 6)

/-- `FSCALE` (R198). -/
def fscale (ftz : Bool) (mode : Rnd) (a b : Word) : Word × Word :=
  match rd32 ftz a with
  | .fin neg m e =>
    if m = 0 then wr32 false mode (.fin neg 0 e)
    else wr32 ftz mode (.fin neg m (e + max (-300) (min 300 b.toInt)))
  | x => wr32 ftz mode x

/-- The conditions of `FCMP` in fn order (R193). -/
inductive FCond where
  | eq | ne | lt | le | gt | ge | ord | uno
  deriving DecidableEq, Repr

/-- `FCMP` (R193). -/
def fcmp (c : FCond) (a b : Word) : Bool :=
  let x := fp32.read a.toNat
  let y := fp32.read b.toNat
  let un := decide (x = .nan) || decide (y = .nan)
  match c with
  | .eq => !un && !x.lt false y && !y.lt false x
  | .ne => un || x.lt false y || y.lt false x
  | .lt => !un && x.lt false y
  | .le => !un && !y.lt false x
  | .gt => !un && y.lt false x
  | .ge => !un && !x.lt false y
  | .ord => !un
  | .uno => un

/-! Integer types (R201). -/

/-- The integer types in index order (R201). -/
inductive ITy where
  | i8 | i16 | i32 | n8 | n16 | n32
  deriving DecidableEq, Repr

/-- The type of an index 0 to 5. -/
def ITy.ofIdx : Nat → ITy
  | 0 => .i8 | 1 => .i16 | 2 => .i32 | 3 => .n8 | 4 => .n16 | _ => .n32

/-- The width of a type. -/
def ITy.width : ITy → Nat
  | .i8 | .n8 => 8
  | .i16 | .n16 => 16
  | .i32 | .n32 => 32
/-- The type is signed. -/
def ITy.sgn : ITy → Bool
  | .i8 | .i16 | .i32 => true
  | _ => false
/-- The least value of a type. -/
def ITy.lo (t : ITy) : Int := if t.sgn then -(2 ^ (t.width - 1) : Int) else 0
/-- The greatest value of a type. -/
def ITy.hi (t : ITy) : Int := if t.sgn then 2 ^ (t.width - 1) - 1 else 2 ^ t.width - 1
/-- The value of bits [w−1:0] read by a type (R201). -/
def ITy.val (t : ITy) (a : Word) : Int :=
  let u : Nat := a.toNat % 2 ^ t.width
  if t.sgn && decide (u ≥ 2 ^ (t.width - 1)) then (u : Int) - 2 ^ t.width else u
/-- The low bits of an integer, extended to 32 bits by the type (R202, R203). -/
def ITy.word (t : ITy) (x : Int) : Word := BitVec.ofInt 32 (t.val (BitVec.ofInt 32 x))

/-- `F2I` (R90, R202). -/
def f2i (t : ITy) (mode : Rnd) (a : Word) : Word × Word :=
  match fp32.read a.toNat with
  | .nan => (0, fIV)
  | .inf neg => (t.word (if neg then t.lo else t.hi), fIV)
  | .fin neg m e =>
    let (n, ch) := roundInt mode neg m e
    let x : Int := if neg then -(n : Int) else n
    if x < t.lo then (t.word t.lo, fIV)
    else if t.hi < x then (t.word t.hi, fIV)
    else (t.word x, if ch then fNX else 0)

/-- `I2F` (R202). -/
def i2f (t : ITy) (mode : Rnd) (a : Word) : Word × Word :=
  let x := t.val a
  wr32 false mode (.fin (decide (x < 0)) x.natAbs 0)

/-- `I2I` (R203). -/
def i2i (dst src : ITy) (sat : Bool) (a : Word) : Word × Word :=
  let x := src.val a
  if sat then
    let (y, fl) := clampInt x dst.lo dst.hi
    (dst.word y, fl)
  else (dst.word x, 0)

/-- The random word of element j of k by R86: rotated right by 32 · j / k. -/
def srWord (r : Word) (j k : Nat) : Word := r.rotateRight (32 * j / k)

/-- Round an FP32 word to a narrow format (R204). -/
def narrow (f : Fmt) (mode : Rnd) (a : Word) : Nat × Word := f.ofVal mode (fp32.read a.toNat)

/-- The stochastic mode of a conversion from FP32: s is the FP32 spacing at the source (R85). -/
def srFrom32 (a r : Word) : Rnd :=
  match fp32.read a.toNat with
  | .fin _ m e => .sr (fp32.ulpExp m e) r
  | _ => .sr 0 r

/-- Widen an element exactly to FP32 (R88, R205). -/
def widen (f : Fmt) (b : Nat) : Word × Word := wr32 false .rn (f.read b)

/-- Element j of width w of a word (R81). -/
def elem (w : Nat) (x : Word) (j : Nat) : Nat := x.toNat / 2 ^ (w * j) % 2 ^ w

/-- The exact sum of terms in the order of special values of R94: a NaN term, or infinities of both signs, give NaN; an exact zero is
−0 only when every term is −0. -/
def exactSum (xs : List FVal) : FVal :=
  match xs with
  | [] => .fin false 0 0
  | x :: rest => rest.foldl (fun acc y => acc.add .rn y) x

/-- The SC20 scale of a word (R82): none for the reserved exponent 255. -/
def sc20 (w : Word) : Option FVal :=
  let ex := w.toNat / 4096 % 256
  let fr := w.toNat % 4096
  if ex = 255 then none
  else if ex = 0 then some (.fin false 0 0)
  else some (.fin false (4096 + fr) ((ex : Int) - 127 - 12))

/-- The format of a floating-point format code (R78); none for integer and reserved codes. -/
def fmtOfCode : Nat → Option Fmt
  | 0 => some fp32
  | 1 => some bf16
  | 2 => some fp16
  | 3 => some e4m3
  | 4 => some e5m2
  | 5 => some e2m1
  | _ => none

end Sys2Proof.Machine
end

