-- ==== Sys2Proof/Config.lean ====
section
/-! DEFINITION. What the spec leaves to an implementation, and the free values: constants without a body, so that no proof
can see a value of theirs. A statement about them holds whatever they are. -/

namespace Sys2Proof

/-- `DV_ID.STEP`: the silicon stepping, "by stepping" (R334). Free value; DESIGN CHOICE, log entry 5. -/
opaque Config.stepping : BitVec 8

/-- The vendor's root LMS public key, of which the boot ROM holds the SHA-256 hash (R425). Free value; DESIGN CHOICE, log entry 5. -/
opaque Config.rootKey : List Byte

/-- The n-th outcome that the spec leaves open between two (R2): one of two racing orders, or of two allowed values. The machine
applies it to the counter `State.freeCtr` and advances the counter. Free value; DESIGN CHOICE, log entry 3. -/
opaque Config.choose : Nat → Bool

/-- The n-th word whose value no rule states. Free value; DESIGN CHOICE, log entry 3. -/
opaque Config.freeWord : Nat → Word

end Sys2Proof
end

