-- ==== Sys2Proof/Names.lean ====
section
/-! DEFINITION. Names of the machine's units and the contents of requests that reach the module from outside. They
stand as operands of the events of the opcode table, whose rows have no encoding. -/

namespace Sys2Proof

/-- A grid: its context (2 · partition + slot) and its `sr.grid` (R31). -/
structure GridKey where
  ctx : Nat
  gid : Nat
  deriving DecidableEq, Repr

/-- A team: its grid and its linear team number (R30). -/
structure TeamKey where
  grid : GridKey
  num  : Nat
  deriving DecidableEq, Repr

/-- A wave: its team and its number in the team (R26). -/
structure WaveKey where
  team : TeamKey
  idx  : Nat
  deriving DecidableEq, Repr

/-- Who issues instructions: a wave, or the command processor of a context (R350, R351). -/
inductive Agent where
  | wave (w : WaveKey)
  | cp (ctx : Nat)
  deriving DecidableEq, Repr

/-- The operation of a collective work entry (R272, R274). -/
inductive CollOp where
  | write | add | max
  deriving DecidableEq, Repr

/-- What a collective delivery brings to a target (R274, R276, R293): `fmt` is the element format code of R78, `rank` the source's
coordinate on `axis` and `others` its coordinates on the two other axes, in order, `counter` the target completion counter when its increment
is enabled, `hops` the modules that a multicast (`mc`) still reaches after this one (R422), and `codes` the poison code of each 16 bytes of the
data (R393). -/
structure Delivery where
  chip    : Nat
  job     : Nat
  addr    : DWord
  data    : List Byte
  op      : CollOp
  fmt     : Nat
  ord     : Bool
  axis    : Nat
  rank    : Nat
  counter : Option Nat
  hops    : Nat := 0
  others  : Nat × Nat := (0, 0)
  mc      : Bool := false
  codes   : List Nat := []
  deriving DecidableEq, Repr

/-- The kind of an inbound request (R424, KIND 0 to 2). -/
inductive InKind where
  | read (len : Nat)
  | write (data : List Byte)
  | atomic (op : BitVec 5) (operand compare : DWord)
  deriving DecidableEq, Repr

/-- An inbound request of a peer module (R423): a virtual address bound by job, or a global physical address. -/
structure InRequest where
  chip     : Nat
  job      : Nat
  physical : Bool
  addr     : DWord
  kind     : InKind
  deriving DecidableEq, Repr

/-- An access of the host: `HDM` through CXL.mem, a register of a BAR, or an MSI-X mask (R417, R418). -/
inductive HostReq where
  | read (addr len : Nat)
  | write (addr : Nat) (data : List Byte)
  | regRead (fn part num : Nat)
  | regWrite (fn part num : Nat) (val : Word)
  | own (addr : Nat) (data : List Byte)
  | maskVector (fn vec : Nat)
  deriving DecidableEq, Repr

/-- Where a storage error is detected (R392); a register line is named by its wave and the 64-byte granule of the wave block, and the vertical
bus by the granule that a `ROWCON` or a `ROWPUT` fills. -/
inductive ErrSite where
  | dram (addr : Nat) | llc (addr : Nat) | l1 (core addr : Nat) | lagoon (team : TeamKey) (off : Nat)
  | tile (team : TeamKey) (off : Nat) | accum (team : TeamKey) (off : Nat)
  | regLine (wave : WaveKey) (granule : Nat)
  | busTile (team : TeamKey) (off : Nat) | busRow (addr : Nat)
  | causeway (addr : Nat) | strait (addr : Nat) | hostLink (addr : Nat)
  deriving DecidableEq, Repr

/-- How a detected error ends (R392): the retry succeeds, or the error is lasting and the copy is clean or not. -/
inductive ErrOutcome where
  | transient | lastingClean | lastingDirty
  deriving DecidableEq, Repr

/-- A negative acknowledgment (R394, R420): the number of the transfer or delivery that it refuses, and whether a module sent it that was to forward
the request and knows no route. -/
structure Nack where
  id  : Nat
  far : Bool
  deriving DecidableEq, Repr

/-- An image as the security controller finds it (R425): its bytes, its security version, the root LMS public key under which it is signed, and
whether its HSS signature verifies under that key by NIST SP 800-208, which is an outcome from outside (log entry 39). -/
structure Image where
  bytes   : List Byte
  version : Nat
  key     : List Byte
  signed  : Bool
  deriving DecidableEq, Repr

/-- A configuration block (R428): an image that holds the enabled-core mask, the budget ceiling and its security version. -/
structure ConfigBlock where
  image       : Image
  enabledMask : BitVec 320
  ceiling     : Nat
  deriving DecidableEq, Repr

/-- What bring-up finds (R425, R428, R430): the hub firmware, a configuration block that has come to flash since the latest accepted one, if one has,
and the straits that train. `fails` names the step that fails for a reason that no rule fixes, if one does. -/
structure BringUp where
  firmware : Image
  block    : Option ConfigBlock
  straitUp : BitVec 6
  fails    : Option Nat
  deriving DecidableEq, Repr

/-- A flit that travels between modules (R420). -/
structure Flit where
  chip : BitVec 18
  hops : Nat
  body : List Byte
  deriving DecidableEq, Repr

/-- A power intent (R416). -/
structure Intent where
  chip : BitVec 18
  rank : BitVec 16
  seq  : BitVec 16
  plan : List Word
  deriving DecidableEq, Repr

/-- The clock of the unit that holds an internal queue (R22): the fclk of a core's cluster, the memory-side clock for the LLC request paths, or the
hub fclk. -/
inductive QueueClock where
  | cluster (c : Nat) | memory | hub
  deriving DecidableEq, Repr

/-- An internal queue that can send a probe token (R362): the partition whose `PT_PROBE` counts its grants, a number, and its clock. -/
structure QueueName where
  part : Nat
  num  : Nat
  clock : QueueClock := .hub
  deriving DecidableEq, Repr

end Sys2Proof
end

