-- ==== Sys2Proof/Syntax.lean ====
section
/-! DEFINITION. The instruction set: one constructor for each row of the opcode table. Operands of encoded rows are the
fields of the encoding at their exact widths, least significant field first; operands of events name the unit that moves.
Order: encoded rows with fields, those of them that issue as the first row of their family does, events with operands, then the
rows without either. Lean's runtime cannot build an object of a constructor beyond the 244th that has fields, so the decoder and the
step are noncomputable; the kernel evaluates them. -/

namespace Sys2Proof

/-- The operations and events of the Psivon P4 (R153 to R172, and the events of the table). -/
inductive Instr where
  /-- `MOV16` (R156): 16-bit form: copies register vb into vd. -/
  | mov16 (d : BitVec 5) (b : BitVec 6)
  /-- `MOVI16` (R156): 16-bit form: writes a sign-extended 6-bit immediate into vd. -/
  | movi16 (d : BitVec 5) (i : BitVec 6)
  /-- `IADD16` (R156): 16-bit form: vd := vd + vb, modulo 2^32. -/
  | iadd16 (d : BitVec 5) (b : BitVec 6)
  /-- `IADDI16` (R156): 16-bit form: vd := vd + sign-extended immediate. -/
  | iaddi16 (d : BitVec 5) (i : BitVec 6)
  /-- `ISUB16` (R156): 16-bit form: vd := vd - vb. -/
  | isub16 (d : BitVec 5) (b : BitVec 6)
  /-- `AND16` (R156): 16-bit form: bitwise AND of vd and vb. -/
  | and16 (d : BitVec 5) (b : BitVec 6)
  /-- `OR16` (R156): 16-bit form: bitwise OR of vd and vb. -/
  | or16 (d : BitVec 5) (b : BitVec 6)
  /-- `XOR16` (R156): 16-bit form: bitwise XOR of vd and vb. -/
  | xor16 (d : BitVec 5) (b : BitVec 6)
  /-- `SHLI16` (R156): 16-bit form: shifts vd left by an immediate count. -/
  | shli16 (d : BitVec 5) (i : BitVec 5)
  /-- `SHRI16` (R156): 16-bit form: shifts vd right logically by an immediate count. -/
  | shri16 (d : BitVec 5) (i : BitVec 5)
  /-- `SARI16` (R156): 16-bit form: shifts vd right arithmetically by an immediate count. -/
  | sari16 (d : BitVec 5) (i : BitVec 5)
  /-- `FADD16` (R156): 16-bit form: FP32 vd := vd + vb rounded to nearest. -/
  | fadd16 (d : BitVec 5) (b : BitVec 6)
  /-- `FSUB16` (R156): 16-bit form: FP32 vd := vd - vb rounded to nearest. -/
  | fsub16 (d : BitVec 5) (b : BitVec 6)
  /-- `FMUL16` (R156): 16-bit form: FP32 vd := vd * vb rounded to nearest. -/
  | fmul16 (d : BitVec 5) (b : BitVec 6)
  /-- `FMAX16` (R156): 16-bit form: FP32 maximum of vd and vb. -/
  | fmax16 (d : BitVec 5) (b : BitVec 6)
  /-- `FMIN16` (R156): 16-bit form: FP32 minimum of vd and vb. -/
  | fmin16 (d : BitVec 5) (b : BitVec 6)
  /-- `IADD` (R186): Adds two registers modulo 2^32. -/
  | iadd (u : BitVec 1) (d : BitVec 6) (a : BitVec 6) (b : BitVec 6)
  /-- `IADD_SAT_I32` (R186): Signed saturating add. -/
  | iaddSatI32 (u : BitVec 1) (d : BitVec 6) (a : BitVec 6) (b : BitVec 6)
  /-- `IADD_SAT_N32` (R186): Unsigned saturating add. -/
  | iaddSatN32 (u : BitVec 1) (d : BitVec 6) (a : BitVec 6) (b : BitVec 6)
  /-- `IADDC` (R186): Writes the carry out of a + b. -/
  | iaddc (u : BitVec 1) (d : BitVec 6) (a : BitVec 6) (b : BitVec 6)
  /-- `ISUB` (R186): Subtracts modulo 2^32. -/
  | isub (u : BitVec 1) (d : BitVec 6) (a : BitVec 6) (b : BitVec 6)
  /-- `ISUB_SAT_I32` (R186): Signed saturating subtract. -/
  | isubSatI32 (u : BitVec 1) (d : BitVec 6) (a : BitVec 6) (b : BitVec 6)
  /-- `ISUB_SAT_N32` (R186): Unsigned saturating subtract. -/
  | isubSatN32 (u : BitVec 1) (d : BitVec 6) (a : BitVec 6) (b : BitVec 6)
  /-- `ISUBB` (R186): Writes the borrow out of a - b. -/
  | isubb (u : BitVec 1) (d : BitVec 6) (a : BitVec 6) (b : BitVec 6)
  /-- `INEG` (R186): Negates modulo 2^32. -/
  | ineg (u : BitVec 1) (d : BitVec 6) (a : BitVec 6)
  /-- `INEG_SAT` (R186): Saturating signed negate. -/
  | inegSat (u : BitVec 1) (d : BitVec 6) (a : BitVec 6)
  /-- `IABS` (R186): Absolute value modulo 2^32. -/
  | iabs (u : BitVec 1) (d : BitVec 6) (a : BitVec 6)
  /-- `IABS_SAT` (R186): Saturating absolute value. -/
  | iabsSat (u : BitVec 1) (d : BitVec 6) (a : BitVec 6)
  /-- `IMIN_I32` (R186): Signed minimum. -/
  | iminI32 (u : BitVec 1) (d : BitVec 6) (a : BitVec 6) (b : BitVec 6)
  /-- `IMIN_N32` (R186): Unsigned minimum. -/
  | iminN32 (u : BitVec 1) (d : BitVec 6) (a : BitVec 6) (b : BitVec 6)
  /-- `IMAX_I32` (R186): Signed maximum. -/
  | imaxI32 (u : BitVec 1) (d : BitVec 6) (a : BitVec 6) (b : BitVec 6)
  /-- `IMAX_N32` (R186): Unsigned maximum. -/
  | imaxN32 (u : BitVec 1) (d : BitVec 6) (a : BitVec 6) (b : BitVec 6)
  /-- `AND` (R186): Bitwise AND. -/
  | andI (u : BitVec 1) (d : BitVec 6) (a : BitVec 6) (b : BitVec 6)
  /-- `OR` (R186): Bitwise OR. -/
  | orI (u : BitVec 1) (d : BitVec 6) (a : BitVec 6) (b : BitVec 6)
  /-- `XOR` (R186): Bitwise XOR. -/
  | xorI (u : BitVec 1) (d : BitVec 6) (a : BitVec 6) (b : BitVec 6)
  /-- `NOT` (R186): Bitwise NOT. -/
  | notI (u : BitVec 1) (d : BitVec 6) (a : BitVec 6)
  /-- `ANDN` (R186): a AND NOT b. -/
  | andn (u : BitVec 1) (d : BitVec 6) (a : BitVec 6) (b : BitVec 6)
  /-- `SHL` (R186): Shift left by a register count. -/
  | shl (u : BitVec 1) (d : BitVec 6) (a : BitVec 6) (b : BitVec 6)
  /-- `SHR` (R186): Logical shift right by a register count. -/
  | shr (u : BitVec 1) (d : BitVec 6) (a : BitVec 6) (b : BitVec 6)
  /-- `SAR` (R186): Arithmetic shift right by a register count. -/
  | sar (u : BitVec 1) (d : BitVec 6) (a : BitVec 6) (b : BitVec 6)
  /-- `ROTL` (R186): Rotate left by b[4:0]. -/
  | rotl (u : BitVec 1) (d : BitVec 6) (a : BitVec 6) (b : BitVec 6)
  /-- `IADD64` (R186): 64-bit add of register pairs. -/
  | iadd64 (u : BitVec 1) (d : BitVec 6) (a : BitVec 6) (b : BitVec 6)
  /-- `TRILOG` (R187): Computes each bit of d from a, b and old d through an 8-bit truth table. -/
  | trilog (z : BitVec 1) (d : BitVec 5) (y : BitVec 1) (a : BitVec 5) (x : BitVec 1) (b : BitVec 5) (w : BitVec 1) (t : BitVec 4)
  /-- `IADD_IMM` (R188): Adds a sign-extended 9-bit immediate. -/
  | iaddImm (u : BitVec 1) (d : BitVec 6) (a : BitVec 6) (i : BitVec 9)
  /-- `AND_IMM` (R188): AND with a sign-extended immediate. -/
  | andImm (u : BitVec 1) (d : BitVec 6) (a : BitVec 6) (i : BitVec 9)
  /-- `OR_IMM` (R188): OR with a sign-extended immediate. -/
  | orImm (u : BitVec 1) (d : BitVec 6) (a : BitVec 6) (i : BitVec 9)
  /-- `XOR_IMM` (R188): XOR with a sign-extended immediate. -/
  | xorImm (u : BitVec 1) (d : BitVec 6) (a : BitVec 6) (i : BitVec 9)
  /-- `SHL_IMM` (R188): Shift left by an immediate count. -/
  | shlImm (u : BitVec 1) (d : BitVec 6) (a : BitVec 6) (i : BitVec 5)
  /-- `SHR_IMM` (R188): Logical shift right by an immediate count. -/
  | shrImm (u : BitVec 1) (d : BitVec 6) (a : BitVec 6) (i : BitVec 5)
  /-- `SAR_IMM` (R188): Arithmetic shift right by an immediate count. -/
  | sarImm (u : BitVec 1) (d : BitVec 6) (a : BitVec 6) (i : BitVec 5)
  /-- `ROTL_IMM` (R188): Rotate left by an immediate count. -/
  | rotlImm (u : BitVec 1) (d : BitVec 6) (a : BitVec 6) (i : BitVec 5)
  /-- `IMUL` (R189): Low 32 bits of a product. -/
  | imul (u : BitVec 1) (d : BitVec 5) (a : BitVec 5) (b : BitVec 5)
  /-- `IMULH_I32` (R189): High 32 bits of a signed product. -/
  | imulhI32 (u : BitVec 1) (d : BitVec 5) (a : BitVec 5) (b : BitVec 5)
  /-- `IMULH_N32` (R189): High 32 bits of an unsigned product. -/
  | imulhN32 (u : BitVec 1) (d : BitVec 5) (a : BitVec 5) (b : BitVec 5)
  /-- `IMAD` (R189): Multiply-add, low 32 bits. -/
  | imad (u : BitVec 1) (d : BitVec 5) (a : BitVec 5) (b : BitVec 5) (c : BitVec 5)
  /-- `IMADW_I32` (R189): Signed widening multiply-add into a pair. -/
  | imadwI32 (u : BitVec 1) (d : BitVec 5) (a : BitVec 5) (b : BitVec 5) (c : BitVec 5)
  /-- `IMADW_N32` (R189): Unsigned widening multiply-add into a pair. -/
  | imadwN32 (u : BitVec 1) (d : BitVec 5) (a : BitVec 5) (b : BitVec 5) (c : BitVec 5)
  /-- `ISAD` (R189): Sum of absolute difference and c. -/
  | isad (u : BitVec 1) (d : BitVec 5) (a : BitVec 5) (b : BitVec 5) (c : BitVec 5)
  /-- `BFX_N32` (R190): Unsigned bit-field extract. -/
  | bfxN32 (u : BitVec 1) (d : BitVec 5) (a : BitVec 5) (b : BitVec 5)
  /-- `BFX_I32` (R190): Signed bit-field extract. -/
  | bfxI32 (u : BitVec 1) (d : BitVec 5) (a : BitVec 5) (b : BitVec 5)
  /-- `BFI` (R190): Bit-field insert of a into c. -/
  | bfi (u : BitVec 1) (d : BitVec 5) (a : BitVec 5) (b : BitVec 5) (c : BitVec 5)
  /-- `POPC` (R191): Population count. -/
  | popc (u : BitVec 1) (d : BitVec 5) (a : BitVec 5)
  /-- `CLZ` (R191): Count leading zeros. -/
  | clz (u : BitVec 1) (d : BitVec 5) (a : BitVec 5)
  /-- `CTZ` (R191): Count trailing zeros. -/
  | ctz (u : BitVec 1) (d : BitVec 5) (a : BitVec 5)
  /-- `BREV` (R191): Bit reverse. -/
  | brev (u : BitVec 1) (d : BitVec 5) (a : BitVec 5)
  /-- `SHF_L` (R191): Funnel shift left of a ++ b. -/
  | shfL (u : BitVec 1) (d : BitVec 5) (a : BitVec 5) (b : BitVec 5) (c : BitVec 5)
  /-- `SHF_R` (R191): Funnel shift right of a ++ b. -/
  | shfR (u : BitVec 1) (d : BitVec 5) (a : BitVec 5) (b : BitVec 5) (c : BitVec 5)
  /-- `ICMP_EQ_I32` (R192): Sets pd if a equals b. -/
  | icmpEqI32 (d : BitVec 3) (a : BitVec 6) (b : BitVec 6)
  /-- `FCMP_EQ` (R193): FP32 ordered equality into pd. -/
  | fcmpEq (d : BitVec 3) (a : BitVec 6) (b : BitVec 6)
  /-- `PLOG_AND` (R192): pd := pa AND pb. -/
  | plogAnd (d : BitVec 3) (a : BitVec 3) (b : BitVec 3)
  /-- `PLOG_OR` (R192): pd := pa OR pb. -/
  | plogOr (d : BitVec 3) (a : BitVec 3) (b : BitVec 3)
  /-- `PLOG_XOR` (R192): pd := pa XOR pb. -/
  | plogXor (d : BitVec 3) (a : BitVec 3) (b : BitVec 3)
  /-- `PLOG_ANDN` (R192): pd := pa AND NOT pb. -/
  | plogAndn (d : BitVec 3) (a : BitVec 3) (b : BitVec 3)
  /-- `PLOG_ORN` (R192): pd := pa OR NOT pb. -/
  | plogOrn (d : BitVec 3) (a : BitVec 3) (b : BitVec 3)
  /-- `PLOG_XNOR` (R192): pd := pa XNOR pb. -/
  | plogXnor (d : BitVec 3) (a : BitVec 3) (b : BitVec 3)
  /-- `SEL` (R192): Selects a or b by predicate pn. -/
  | sel (d : BitVec 6) (a : BitVec 6) (b : BitVec 6) (p : BitVec 3)
  /-- `FADD` (R194): FP32 add rounded once in the coded mode. -/
  | fadd (z : BitVec 1) (d : BitVec 5) (a : BitVec 5) (b : BitVec 5) (r : BitVec 5)
  /-- `FSUB` (R194): FP32 subtract rounded once. -/
  | fsub (z : BitVec 1) (d : BitVec 5) (a : BitVec 5) (b : BitVec 5) (r : BitVec 5)
  /-- `FMUL` (R194): FP32 multiply rounded once. -/
  | fmul (z : BitVec 1) (d : BitVec 5) (a : BitVec 5) (b : BitVec 5) (r : BitVec 5)
  /-- `FFMA_RN` (R194): Fused multiply-add rounded to nearest. -/
  | ffmaRn (z : BitVec 1) (d : BitVec 5) (a : BitVec 5) (b : BitVec 5) (c : BitVec 5)
  /-- `FFMA_RZ` (R194): Fused multiply-add rounded toward zero. -/
  | ffmaRz (z : BitVec 1) (d : BitVec 5) (a : BitVec 5) (b : BitVec 5) (c : BitVec 5)
  /-- `FFMA_RU` (R194): Fused multiply-add rounded up. -/
  | ffmaRu (z : BitVec 1) (d : BitVec 5) (a : BitVec 5) (b : BitVec 5) (c : BitVec 5)
  /-- `FFMA_RD` (R194): Fused multiply-add rounded down. -/
  | ffmaRd (z : BitVec 1) (d : BitVec 5) (a : BitVec 5) (b : BitVec 5) (c : BitVec 5)
  /-- `FMIN` (R195): FP32 minimum with the NaN and signed-zero rules. -/
  | fmin (z : BitVec 1) (d : BitVec 5) (a : BitVec 5) (b : BitVec 5)
  /-- `FMAX` (R195): FP32 maximum with the NaN and signed-zero rules. -/
  | fmax (z : BitVec 1) (d : BitVec 5) (a : BitVec 5) (b : BitVec 5)
  /-- `FRND` (R196): Rounds to an integral FP32 value. -/
  | frnd (z : BitVec 1) (d : BitVec 5) (a : BitVec 5) (r : BitVec 5)
  /-- `FCLASS` (R197): Writes a one-hot class mask of a. -/
  | fclass (d : BitVec 5) (a : BitVec 5)
  /-- `FSCALE` (R198): Multiplies a by 2^b and rounds. -/
  | fscale (z : BitVec 1) (d : BitVec 5) (a : BitVec 5) (b : BitVec 5) (r : BitVec 5)
  /-- `FRCP` (R199): Reciprocal rounded once. -/
  | frcp (z : BitVec 1) (d : BitVec 6) (a : BitVec 6)
  /-- `FRSQ` (R199): Reciprocal square root rounded once. -/
  | frsq (z : BitVec 1) (d : BitVec 6) (a : BitVec 6)
  /-- `FSQRT` (R199): Square root rounded once. -/
  | fsqrt (z : BitVec 1) (d : BitVec 6) (a : BitVec 6)
  /-- `FEX2` (R199): 2^a rounded once. -/
  | fex2 (z : BitVec 1) (d : BitVec 6) (a : BitVec 6)
  /-- `FLG2` (R199): log2 a rounded once. -/
  | flg2 (z : BitVec 1) (d : BitVec 6) (a : BitVec 6)
  /-- `FSIN` (R199): Sine rounded once. -/
  | fsin (z : BitVec 1) (d : BitVec 6) (a : BitVec 6)
  /-- `FCOS` (R199): Cosine rounded once. -/
  | fcos (z : BitVec 1) (d : BitVec 6) (a : BitVec 6)
  /-- `FTANH` (R199): Hyperbolic tangent rounded once. -/
  | ftanh (z : BitVec 1) (d : BitVec 6) (a : BitVec 6)
  /-- `F2I_I8` (R202): FP32 to saturated i8. -/
  | f2iI8 (d : BitVec 6) (a : BitVec 6) (r : BitVec 6)
  /-- `I2F_I8` (R202): i8 to FP32. -/
  | i2fI8 (d : BitVec 6) (a : BitVec 6) (r : BitVec 6)
  /-- `I2I_I8` (R203): Integer conversion to i8, optionally saturating. -/
  | i2iI8 (d : BitVec 6) (a : BitVec 6) (y : BitVec 6) (x : BitVec 1)
  /-- `I2I_I16` (R203): Integer conversion to i16. -/
  | i2iI16 (d : BitVec 6) (a : BitVec 6) (y : BitVec 6) (x : BitVec 1)
  /-- `I2I_I32` (R203): Integer conversion to i32. -/
  | i2iI32 (d : BitVec 6) (a : BitVec 6) (y : BitVec 6) (x : BitVec 1)
  /-- `I2I_N8` (R203): Integer conversion to n8. -/
  | i2iN8 (d : BitVec 6) (a : BitVec 6) (y : BitVec 6) (x : BitVec 1)
  /-- `I2I_N16` (R203): Integer conversion to n16. -/
  | i2iN16 (d : BitVec 6) (a : BitVec 6) (y : BitVec 6) (x : BitVec 1)
  /-- `I2I_N32` (R203): Integer conversion to n32. -/
  | i2iN32 (d : BitVec 6) (a : BitVec 6) (y : BitVec 6) (x : BitVec 1)
  /-- `FCVT_BF16` (R204): FP32 to BF16 in a coded mode. -/
  | fcvtBf16 (d : BitVec 6) (a : BitVec 6) (r : BitVec 6)
  /-- `FCVT_F16` (R204): FP32 to FP16 in a coded mode. -/
  | fcvtF16 (d : BitVec 6) (a : BitVec 6) (r : BitVec 6)
  /-- `FCVT_E4M3` (R204): FP32 to E4M3 in a coded mode. -/
  | fcvtE4m3 (d : BitVec 6) (a : BitVec 6) (r : BitVec 6)
  /-- `FCVT_E5M2` (R204): FP32 to E5M2 in a coded mode. -/
  | fcvtE5m2 (d : BitVec 6) (a : BitVec 6) (r : BitVec 6)
  /-- `FCVT_E2M1` (R204): FP32 to E2M1 in a coded mode. -/
  | fcvtE2m1 (d : BitVec 6) (a : BitVec 6) (r : BitVec 6)
  /-- `FCVT_SR_BF16` (R204): FP32 to BF16 with stochastic rounding from vb. -/
  | fcvtSrBf16 (d : BitVec 6) (a : BitVec 6) (b : BitVec 6)
  /-- `FCVT_SR_F16` (R204): FP32 to FP16 with stochastic rounding. -/
  | fcvtSrF16 (d : BitVec 6) (a : BitVec 6) (b : BitVec 6)
  /-- `FCVT_SR_E4M3` (R204): FP32 to E4M3 with stochastic rounding. -/
  | fcvtSrE4m3 (d : BitVec 6) (a : BitVec 6) (b : BitVec 6)
  /-- `FCVT_SR_E5M2` (R204): FP32 to E5M2 with stochastic rounding. -/
  | fcvtSrE5m2 (d : BitVec 6) (a : BitVec 6) (b : BitVec 6)
  /-- `FCVT_SR_E2M1` (R204): FP32 to E2M1 with stochastic rounding. -/
  | fcvtSrE2m1 (d : BitVec 6) (a : BitVec 6) (b : BitVec 6)
  /-- `FPK_BF16` (R204): Packs two FP32 registers into BF16 pairs. -/
  | fpkBf16 (d : BitVec 6) (a : BitVec 6)
  /-- `FPK_F16` (R204): Packs two FP32 registers into FP16 pairs. -/
  | fpkF16 (d : BitVec 6) (a : BitVec 6)
  /-- `FPK_E4M3` (R204): Packs four FP32 registers into E4M3. -/
  | fpkE4m3 (d : BitVec 6) (a : BitVec 6)
  /-- `FPK_E5M2` (R204): Packs four FP32 registers into E5M2. -/
  | fpkE5m2 (d : BitVec 6) (a : BitVec 6)
  /-- `FPK_SR_BF16` (R204): Stochastic packed conversion to BF16. -/
  | fpkSrBf16 (d : BitVec 6) (a : BitVec 6) (b : BitVec 6)
  /-- `FPK_SR_F16` (R204): Stochastic packed conversion to FP16. -/
  | fpkSrF16 (d : BitVec 6) (a : BitVec 6) (b : BitVec 6)
  /-- `FPK_SR_E4M3` (R204): Stochastic packed conversion to E4M3. -/
  | fpkSrE4m3 (d : BitVec 6) (a : BitVec 6) (b : BitVec 6)
  /-- `FPK_SR_E5M2` (R204): Stochastic packed conversion to E5M2. -/
  | fpkSrE5m2 (d : BitVec 6) (a : BitVec 6) (b : BitVec 6)
  /-- `FUNPK_BF16` (R205): Widens BF16 element j exactly to FP32. -/
  | funpkBf16 (d : BitVec 6) (a : BitVec 6) (j : BitVec 6)
  /-- `FUNPK_F16` (R205): Widens FP16 element j to FP32. -/
  | funpkF16 (d : BitVec 6) (a : BitVec 6) (j : BitVec 6)
  /-- `FUNPK_E4M3` (R205): Widens E4M3 element j to FP32. -/
  | funpkE4m3 (d : BitVec 6) (a : BitVec 6) (j : BitVec 6)
  /-- `FUNPK_E5M2` (R205): Widens E5M2 element j to FP32. -/
  | funpkE5m2 (d : BitVec 6) (a : BitVec 6) (j : BitVec 6)
  /-- `FUNPK_E2M1` (R205): Widens E2M1 element j to FP32. -/
  | funpkE2m1 (d : BitVec 6) (a : BitVec 6) (j : BitVec 6)
  /-- `DOT4I8` (R206): c plus four INT8 products, wrapping. -/
  | dot4i8 (d : BitVec 5) (a : BitVec 5) (b : BitVec 5) (c : BitVec 5)
  /-- `DOT4I8_SAT` (R206): c plus four INT8 products, saturating. -/
  | dot4i8Sat (d : BitVec 5) (a : BitVec 5) (b : BitVec 5) (c : BitVec 5)
  /-- `DOT8I4` (R206): c plus eight INT4 products, wrapping. -/
  | dot8i4 (d : BitVec 5) (a : BitVec 5) (b : BitVec 5) (c : BitVec 5)
  /-- `DOT8I4_SAT` (R206): c plus eight INT4 products, saturating. -/
  | dot8i4Sat (d : BitVec 5) (a : BitVec 5) (b : BitVec 5) (c : BitVec 5)
  /-- `DOT4F8_E4M3` (R207): E4M3 four-element dot product plus c, rounded once. -/
  | dot4f8E4m3 (d : BitVec 5) (a : BitVec 5) (b : BitVec 5) (c : BitVec 5)
  /-- `DOT4F8_E5M2` (R207): E5M2 four-element dot product plus c, rounded once. -/
  | dot4f8E5m2 (d : BitVec 5) (a : BitVec 5) (b : BitVec 5) (c : BitVec 5)
  /-- `HFMA2_BF16` (R208): Paired BF16 fused multiply-add. -/
  | hfma2Bf16 (d : BitVec 5) (a : BitVec 5) (b : BitVec 5) (c : BitVec 5)
  /-- `HFMA2_F16` (R208): Paired FP16 fused multiply-add. -/
  | hfma2F16 (d : BitVec 5) (a : BitVec 5) (b : BitVec 5) (c : BitVec 5)
  /-- `HADD2_BF16` (R208): Paired BF16 add. -/
  | hadd2Bf16 (d : BitVec 5) (a : BitVec 5) (b : BitVec 5)
  /-- `HADD2_F16` (R208): Paired FP16 add. -/
  | hadd2F16 (d : BitVec 5) (a : BitVec 5) (b : BitVec 5)
  /-- `HMUL2_BF16` (R208): Paired BF16 multiply. -/
  | hmul2Bf16 (d : BitVec 5) (a : BitVec 5) (b : BitVec 5)
  /-- `HMUL2_F16` (R208): Paired FP16 multiply. -/
  | hmul2F16 (d : BitVec 5) (a : BitVec 5) (b : BitVec 5)
  /-- `HMAX2_BF16` (R208): Paired BF16 maximum. -/
  | hmax2Bf16 (d : BitVec 5) (a : BitVec 5) (b : BitVec 5)
  /-- `HMAX2_F16` (R208): Paired FP16 maximum. -/
  | hmax2F16 (d : BitVec 5) (a : BitVec 5) (b : BitVec 5)
  /-- `MOV` (R209): Copies any v register into any v register. -/
  | mov (d : BitVec 8) (s : BitVec 8)
  /-- `MOVI` (R209): Writes a sign-extended 16-bit immediate to a v register. -/
  | movi (d : BitVec 6) (i : BitVec 16)
  /-- `MOVIH` (R209): Writes the high half of a v register. -/
  | movih (d : BitVec 6) (i : BitVec 16)
  /-- `MOVK_V_K` (R210): Copies a k register into vd of each thread. -/
  | movkVK (d : BitVec 6) (s : BitVec 6)
  /-- `MOVK_K_V` (R210): Copies the lowest thread's v register into kd. -/
  | movkKV (d : BitVec 6) (s : BitVec 6)
  /-- `MOVK_K_S` (R210): Copies a team-shared s register into kd. -/
  | movkKS (d : BitVec 6) (s : BitVec 6)
  /-- `MOVK_S_K` (R210): Writes a team-shared s register from ka. -/
  | movkSK (d : BitVec 6) (s : BitVec 6)
  /-- `MOVS` (R211): Reads a special value into v or k registers. -/
  | movs (d : BitVec 6) (c : BitVec 8) (k : BitVec 1)
  /-- `MOVI_K` (R209): Writes a sign-extended immediate to a k register. -/
  | moviK (d : BitVec 6) (i : BitVec 16)
  /-- `MOVIH_K` (R209): Writes the high half of a k register. -/
  | movihK (d : BitVec 6) (i : BitVec 16)
  /-- `LANEX_PICK` (R213): Each member takes a from lane n. -/
  | lanexPick (d : BitVec 6) (a : BitVec 6) (b : BitVec 6)
  /-- `LANEX_LO` (R213): Each member takes a from lane L-n. -/
  | lanexLo (d : BitVec 6) (a : BitVec 6) (b : BitVec 6)
  /-- `LANEX_HI` (R213): Each member takes a from lane L+n. -/
  | lanexHi (d : BitVec 6) (a : BitVec 6) (b : BitVec 6)
  /-- `LANEX_FLIP` (R213): Each member takes a from lane L XOR n. -/
  | lanexFlip (d : BitVec 6) (a : BitVec 6) (b : BitVec 6)
  /-- `LANEX_ROT` (R213): Each member takes a from lane (L+n) mod 32. -/
  | lanexRot (d : BitVec 6) (a : BitVec 6) (b : BitVec 6)
  /-- `PCONS_ALL` (R214): True in every member if pa is true in all. -/
  | pconsAll (d : BitVec 3) (a : BitVec 3)
  /-- `PCONS_SOME` (R214): True if pa is true in some member. -/
  | pconsSome (d : BitVec 3) (a : BitVec 3)
  /-- `PCONS_SAME` (R214): True if pa agrees in every member. -/
  | pconsSame (d : BitVec 3) (a : BitVec 3)
  /-- `PMASK` (R214): Writes the mask of members whose pa is true. -/
  | pmask (d : BitVec 6) (a : BitVec 3)
  /-- `WFOLD_ADD_I32` (R215): Folds a by integer add over members in lane order. -/
  | wfoldAddI32 (d : BitVec 6) (a : BitVec 6)
  /-- `BRA` (R218): Moves every thread of the group to the target. -/
  | bra (o : BitVec 22)
  /-- `BR` (R218): Per-thread conditional branch that sets reconvergence mask j. -/
  | br (p : BitVec 3) (n : BitVec 1) (j : BitVec 3) (o : BitVec 15)
  /-- `BRK` (R218): Conditional break that removes leaving threads from mask j. -/
  | brk (p : BitVec 3) (n : BitVec 1) (j : BitVec 3) (o : BitVec 15)
  /-- `JMPT` (R219): Per-thread jump through a target table, setting mask j. -/
  | jmpt (a : BitVec 6) (j : BitVec 3) (o : BitVec 13)
  /-- `CALL` (R220): Pushes the return address and jumps. -/
  | call (o : BitVec 22)
  /-- `CALLT` (R219): Per-thread call through a target table. -/
  | callt (a : BitVec 6) (j : BitVec 3) (o : BitVec 13)
  /-- `JOIN` (R43): Waits at reconvergence barrier j or passes on if its mask is empty. -/
  | joinI (j : BitVec 3)
  /-- `TRAP` (R221): Raises cause TRAP with a recorded code. -/
  | trap (c : BitVec 8)
  /-- `BREAK` (R221): Raises cause BREAK with a recorded code. -/
  | breakI (c : BitVec 8)
  /-- `LD` (R226): Per-thread load from memory. -/
  | ld (f : BitVec 1) (d : BitVec 6) (b : BitVec 6) (t : BitVec 3) (s : BitVec 4) (o : BitVec 5)
  /-- `LD_LAST` (R227): Load that then discards its line from L1 and LLC. -/
  | ldLast (f : BitVec 1) (d : BitVec 6) (b : BitVec 6) (t : BitVec 3) (o : BitVec 5)
  /-- `PREF` (R227): Prefetches each thread's line into L1 or LLC. -/
  | pref (d : BitVec 6) (b : BitVec 6) (o : BitVec 5)
  /-- `ST` (R226): Per-thread store to memory. -/
  | st (d : BitVec 6) (b : BitVec 6) (t : BitVec 3) (s : BitVec 4) (o : BitVec 5)
  /-- `LDK` (R228): One load for the group into k registers. -/
  | ldk (f : BitVec 1) (d : BitVec 6) (b : BitVec 5) (t : BitVec 3) (s : BitVec 4) (o : BitVec 5)
  /-- `STK` (R228): One store for the group from k registers. -/
  | stk (d : BitVec 6) (b : BitVec 5) (t : BitVec 3) (s : BitVec 4) (o : BitVec 5)
  /-- `SPOP` (R230): Pops one word per thread from the spill stack. -/
  | spop (d : BitVec 6)
  /-- `SPUSH` (R230): Pushes one word per thread onto the spill stack. -/
  | spush (d : BitVec 6)
  /-- `LDL` (R229): Per-thread load from a lagoon. -/
  | ldl (f : BitVec 1) (d : BitVec 6) (b : BitVec 5) (t : BitVec 3) (s : BitVec 4) (o : BitVec 5)
  /-- `STL` (R229): Per-thread store to a lagoon. -/
  | stl (d : BitVec 6) (b : BitVec 5) (t : BitVec 3) (s : BitVec 4) (o : BitVec 5)
  /-- `ATOM` (R233): Memory atomic returning the old value. -/
  | atom (f : BitVec 1) (d : BitVec 6) (b : BitVec 6) (o : BitVec 5) (s : BitVec 5)
  /-- `RED` (R233): Memory reduction performed at the home point. -/
  | red (d : BitVec 6) (b : BitVec 6) (o : BitVec 5) (s : BitVec 5)
  /-- `ATOML` (R233): Lagoon atomic returning the old value. -/
  | atoml (f : BitVec 1) (d : BitVec 6) (b : BitVec 6) (o : BitVec 5) (s : BitVec 5)
  /-- `REDL` (R233): Lagoon reduction. -/
  | redl (d : BitVec 6) (b : BitVec 6) (o : BitVec 5) (s : BitVec 5)
  /-- `FENCE` (R236): Acquire, release or both at a scope. -/
  | fence (s : BitVec 5)
  /-- `BAR` (R238): Waits at team barrier b until every live wave arrives. -/
  | bar (b : BitVec 4)
  /-- `BARX` (R240): Arrives at or waits on a byte-counting barrier object. -/
  | barx (d : BitVec 6) (k : BitVec 5) (s : BitVec 5)
  /-- `SEMWAIT` (R243): Waits until a semaphore VALUE reaches v. -/
  | semwait (d : BitVec 6) (k : BitVec 5) (s : BitVec 5)
  /-- `SEMSIG` (R243): Adds v to a semaphore VALUE and releases passing waiters. -/
  | semsig (d : BitVec 6) (k : BitVec 5) (s : BitVec 5)
  /-- `SEMTK` (R243): Takes the next ticket of a semaphore. -/
  | semtk (f : BitVec 1) (d : BitVec 6) (k : BitVec 5) (s : BitVec 5)
  /-- `SEMRD` (R243): Reads a semaphore VALUE. -/
  | semrd (f : BitVec 1) (d : BitVec 6) (k : BitVec 5) (s : BitVec 5)
  /-- `BCOPY` (R254): Engine copy of LEN bytes, optionally counted on a barrier. -/
  | bcopy (f : BitVec 1) (g : BitVec 3) (i : BitVec 3)
  /-- `BCOPYT` (R255): Fills a tile from strided memory rows. -/
  | bcopyt (f : BitVec 1) (g : BitVec 3) (i : BitVec 3) (m : BitVec 6)
  /-- `BCOPYO` (R255): Drains a tile to strided memory rows. -/
  | bcopyo (f : BitVec 1) (g : BitVec 3) (i : BitVec 3) (m : BitVec 6)
  /-- `TDEF` (R257): Defines the fields of an EMPTY tile entry. -/
  | tdef (g : BitVec 3) (m : BitVec 6) (n : BitVec 5)
  /-- `TREL` (R257): Releases a READY tile entry to EMPTY after its readers. -/
  | trel (g : BitVec 3) (m : BitVec 6)
  /-- `TSTATE` (R257): Reads a tile entry with its state. -/
  | tstate (g : BitVec 3) (m : BitVec 6) (n : BitVec 5)
  /-- `GANG` (R258): Writes a gang register with 2 to 6 waves. -/
  | gang (g : BitVec 3) (h : BitVec 3) (a : BitVec 6) (c : BitVec 3)
  /-- `MMA` (R262): Matrix multiply-accumulate into accumulator tiles. -/
  | mma (f : BitVec 1) (g : BitVec 3) (h : BitVec 3) (e : BitVec 1) (a : BitVec 3) (m : BitVec 6) (q : BitVec 3) (t : BitVec 1) (u : BitVec 1)
  /-- `MMA_X` (R260): FP8 matrix multiply with A in the other FP8 format. -/
  | mmaX (f : BitVec 1) (g : BitVec 3) (h : BitVec 3) (e : BitVec 1) (a : BitVec 3) (m : BitVec 6) (q : BitVec 3) (t : BitVec 1) (u : BitVec 1)
  /-- `MMAQ` (R264): Matrix multiply with INT4 weights expanded to BF16. -/
  | mmaq (f : BitVec 1) (g : BitVec 3) (h : BitVec 3) (e : BitVec 1) (a : BitVec 3) (m : BitVec 6) (q : BitVec 3) (t : BitVec 1) (u : BitVec 1)
  /-- `ZCLR` (R266): Clears N accumulator tiles. -/
  | zclr (g : BitVec 3) (z : BitVec 5) (n : BitVec 5)
  /-- `ZLD` (R266): Loads an accumulator tile from memory. -/
  | zld (f : BitVec 1) (g : BitVec 3) (z : BitVec 5) (n : BitVec 5)
  /-- `ZST` (R266): Stores an accumulator tile to memory. -/
  | zst (f : BitVec 1) (g : BitVec 3) (z : BitVec 5) (n : BitVec 5)
  /-- `ZEPI` (R267): Converts an accumulator tile and writes it to an address. -/
  | zepi (f : BitVec 1) (g : BitVec 3) (z : BitVec 5) (n : BitVec 5) (o : BitVec 3) (r : BitVec 2)
  /-- `ZEPI_ROUTE` (R276): Converts a tile and sends it through a route register. -/
  | zepiRoute (f : BitVec 1) (g : BitVec 3) (z : BitVec 5) (e : BitVec 2) (n : BitVec 5) (o : BitVec 3) (r : BitVec 2)
  /-- `ZMOV_TO_V` (R266): Copies 16 accumulator columns into each thread's registers. -/
  | zmovToV (f : BitVec 1) (g : BitVec 3) (z : BitVec 5) (q : BitVec 2) (b : BitVec 4)
  /-- `ZMOV_TO_Z` (R266): Copies registers into 16 accumulator columns. -/
  | zmovToZ (f : BitVec 1) (g : BitVec 3) (z : BitVec 5) (q : BitVec 2) (b : BitVec 4)
  /-- `ROWACT` (R115): Opens the DRAM row of an address in a row slot. -/
  | rowact (f : BitVec 1) (g : BitVec 3) (w : BitVec 2) (n : BitVec 5) (p : BitVec 3) (y : BitVec 1)
  /-- `ROWCON` (R270): Copies the open row into a tile. -/
  | rowcon (f : BitVec 1) (g : BitVec 3) (w : BitVec 2) (m : BitVec 6) (p : BitVec 3) (y : BitVec 1)
  /-- `ROWPUT` (R270): Writes a tile into the open row. -/
  | rowput (f : BitVec 1) (g : BitVec 3) (w : BitVec 2) (m : BitVec 6) (p : BitVec 3) (y : BitVec 1)
  /-- `ROWPRE` (R116): Closes a row slot after its transfers. -/
  | rowpre (g : BitVec 3) (w : BitVec 2) (p : BitVec 3) (y : BitVec 1)
  /-- `ROWQ` (R270): Reads a row slot word. -/
  | rowq (g : BitVec 3) (w : BitVec 2) (a : BitVec 6)
  /-- `CPOST` (R273): Posts a collective work entry to a queue pair. -/
  | cpost (g : BitVec 3) (i : BitVec 3) (q : BitVec 8) (p : BitVec 3)
  /-- `CCTR` (R275): Adds to a collective counter as a release. -/
  | cctr (g : BitVec 3) (n : BitVec 10) (a : BitVec 6) (p : BitVec 1)
  /-- `CCTR_SET` (R275): Writes a collective counter. -/
  | cctrSet (g : BitVec 3) (n : BitVec 10) (a : BitVec 6)
  /-- `CWAIT` (R275): Waits until a counter reaches a value. -/
  | cwait (g : BitVec 3) (n : BitVec 10) (a : BitVec 6)
  /-- `EROUTE` (R276): Writes a route register. -/
  | eroute (g : BitVec 3) (e : BitVec 2) (i : BitVec 3)
  /-- `LAUNCH` (R32): Team leader launches a child grid. -/
  | launch (f : BitVec 1) (g : BitVec 3) (i : BitVec 3) (d : BitVec 5)
  /-- `GWAIT` (R282): Waits for named child grids to retire and consumes them. -/
  | gwait (g : BitVec 3) (d : BitVec 6) (a : BitVec 6)
  /-- `QLAUNCH` (R283): Appends a grid launch to a command queue. -/
  | qlaunch (g : BitVec 3) (q : BitVec 4) (i : BitVec 3)
  /-- `QCOPY` (R283): Appends a copy to a copy queue. -/
  | qcopy (g : BitVec 3) (q : BitVec 4) (i : BitVec 3)
  /-- `QSEMW` (R283): Appends a semaphore wait entry. -/
  | qsemw (g : BitVec 3) (q : BitVec 4) (n : BitVec 5) (a : BitVec 6)
  /-- `QSEMS` (R283): Appends a semaphore signal entry. -/
  | qsems (g : BitVec 3) (q : BitVec 4) (n : BitVec 5) (a : BitVec 6)
  /-- `QIRQ` (R283): Appends a host interrupt entry. -/
  | qirq (g : BitVec 3) (q : BitVec 4) (v : BitVec 8)
  /-- `QSWAP` (R339): Switches the partition to resident context C. -/
  | qswap (g : BitVec 3) (c : BitVec 1)
  /-- `PHASE` (R285): Gives a power phase hint. -/
  | phase (a : BitVec 6)
  /-- `PERF` (R285): Requests a clock ratio setting. -/
  | perf (a : BitVec 6)
  /-- `TOKQ` (R286): Reads a token quantity. -/
  | tokq (u : BitVec 1) (d : BitVec 6) (a : BitVec 6)
  /-- `CAPQ` (R310): Reads the capacitor reserve. -/
  | capq (u : BitVec 1) (d : BitVec 6)
  /-- `TIME_REF` (R284): Reads the reference tick count. -/
  | timeRef (u : BitVec 1) (d : BitVec 6)
  /-- `TIME_CYC` (R284): Reads the cluster fclk count. -/
  | timeCyc (u : BitVec 1) (d : BitVec 6)
  /-- `RNG` (R287): Computes Mix(key, counter). -/
  | rng (u : BitVec 1) (d : BitVec 6) (a : BitVec 6) (b : BitVec 6)
  /-- `MFSR` (R346): Reads a system register into a k register. -/
  | mfsr (d : BitVec 6) (r : BitVec 16)
  /-- `MTSR` (R346): Writes a system register from a k register. -/
  | mtsr (d : BitVec 6) (r : BitVec 16)
  /-- `CTXFL` (R347): Writes back, and optionally drops, a target's context lines. -/
  | ctxfl (d : BitVec 6) (l : BitVec 2) (i : BitVec 1)
  /-- `TLBI_CTX` (R348): Invalidates every translation of a context. -/
  | tlbiCtx (d : BitVec 6)
  /-- `TLBI_PAGE` (R348): Invalidates translations and L1 lines of one page. -/
  | tlbiPage (d : BitVec 6)
  /-- `PARK` (R347): Stops target waves and sets SPK. -/
  | park (d : BitVec 6) (l : BitVec 2)
  /-- `UNPARK` (R347): Clears SPK and optionally resumes faulted threads. -/
  | unpark (d : BitVec 6) (l : BitVec 2) (x : BitVec 1)
  /-- `HALTC` (R349): Raises the halt line of context C. -/
  | haltc (c : BitVec 1)
  /-- `ICMP_NE_I32` (R192): Sets pd if a differs from b. -/
  | icmpNeI32 (d : BitVec 3) (a : BitVec 6) (b : BitVec 6)
  /-- `ICMP_LT_I32` (R192): Signed less-than compare into pd. -/
  | icmpLtI32 (d : BitVec 3) (a : BitVec 6) (b : BitVec 6)
  /-- `ICMP_LE_I32` (R192): Signed less-or-equal compare into pd. -/
  | icmpLeI32 (d : BitVec 3) (a : BitVec 6) (b : BitVec 6)
  /-- `ICMP_GT_I32` (R192): Signed greater-than compare into pd. -/
  | icmpGtI32 (d : BitVec 3) (a : BitVec 6) (b : BitVec 6)
  /-- `ICMP_GE_I32` (R192): Signed greater-or-equal compare into pd. -/
  | icmpGeI32 (d : BitVec 3) (a : BitVec 6) (b : BitVec 6)
  /-- `ICMP_EQ_N32` (R192): Unsigned equality compare into pd. -/
  | icmpEqN32 (d : BitVec 3) (a : BitVec 6) (b : BitVec 6)
  /-- `ICMP_NE_N32` (R192): Unsigned inequality compare into pd. -/
  | icmpNeN32 (d : BitVec 3) (a : BitVec 6) (b : BitVec 6)
  /-- `ICMP_LT_N32` (R192): Unsigned less-than compare into pd. -/
  | icmpLtN32 (d : BitVec 3) (a : BitVec 6) (b : BitVec 6)
  /-- `ICMP_LE_N32` (R192): Unsigned less-or-equal compare into pd. -/
  | icmpLeN32 (d : BitVec 3) (a : BitVec 6) (b : BitVec 6)
  /-- `ICMP_GT_N32` (R192): Unsigned greater-than compare into pd. -/
  | icmpGtN32 (d : BitVec 3) (a : BitVec 6) (b : BitVec 6)
  /-- `ICMP_GE_N32` (R192): Unsigned greater-or-equal compare into pd. -/
  | icmpGeN32 (d : BitVec 3) (a : BitVec 6) (b : BitVec 6)
  /-- `FCMP_NE` (R193): FP32 unordered-or-unequal into pd. -/
  | fcmpNe (d : BitVec 3) (a : BitVec 6) (b : BitVec 6)
  /-- `FCMP_LT` (R193): FP32 ordered less-than into pd. -/
  | fcmpLt (d : BitVec 3) (a : BitVec 6) (b : BitVec 6)
  /-- `FCMP_LE` (R193): FP32 ordered less-or-equal into pd. -/
  | fcmpLe (d : BitVec 3) (a : BitVec 6) (b : BitVec 6)
  /-- `FCMP_GT` (R193): FP32 ordered greater-than into pd. -/
  | fcmpGt (d : BitVec 3) (a : BitVec 6) (b : BitVec 6)
  /-- `FCMP_GE` (R193): FP32 ordered greater-or-equal into pd. -/
  | fcmpGe (d : BitVec 3) (a : BitVec 6) (b : BitVec 6)
  /-- `FCMP_ORD` (R193): Sets pd if neither operand is NaN. -/
  | fcmpOrd (d : BitVec 3) (a : BitVec 6) (b : BitVec 6)
  /-- `FCMP_UNO` (R193): Sets pd if either operand is NaN. -/
  | fcmpUno (d : BitVec 3) (a : BitVec 6) (b : BitVec 6)
  /-- `F2I_I16` (R202): FP32 to saturated i16. -/
  | f2iI16 (d : BitVec 6) (a : BitVec 6) (r : BitVec 6)
  /-- `F2I_I32` (R202): FP32 to saturated i32. -/
  | f2iI32 (d : BitVec 6) (a : BitVec 6) (r : BitVec 6)
  /-- `F2I_N8` (R202): FP32 to saturated n8. -/
  | f2iN8 (d : BitVec 6) (a : BitVec 6) (r : BitVec 6)
  /-- `F2I_N16` (R202): FP32 to saturated n16. -/
  | f2iN16 (d : BitVec 6) (a : BitVec 6) (r : BitVec 6)
  /-- `F2I_N32` (R202): FP32 to saturated n32. -/
  | f2iN32 (d : BitVec 6) (a : BitVec 6) (r : BitVec 6)
  /-- `I2F_I16` (R202): i16 to FP32. -/
  | i2fI16 (d : BitVec 6) (a : BitVec 6) (r : BitVec 6)
  /-- `I2F_I32` (R202): i32 to FP32 rounded in the mode. -/
  | i2fI32 (d : BitVec 6) (a : BitVec 6) (r : BitVec 6)
  /-- `I2F_N8` (R202): n8 to FP32. -/
  | i2fN8 (d : BitVec 6) (a : BitVec 6) (r : BitVec 6)
  /-- `I2F_N16` (R202): n16 to FP32. -/
  | i2fN16 (d : BitVec 6) (a : BitVec 6) (r : BitVec 6)
  /-- `I2F_N32` (R202): n32 to FP32 rounded in the mode. -/
  | i2fN32 (d : BitVec 6) (a : BitVec 6) (r : BitVec 6)
  /-- `WFOLD_MIN_I32` (R215): Signed minimum fold. -/
  | wfoldMinI32 (d : BitVec 6) (a : BitVec 6)
  /-- `WFOLD_MAX_I32` (R215): Signed maximum fold. -/
  | wfoldMaxI32 (d : BitVec 6) (a : BitVec 6)
  /-- `WFOLD_MIN_N32` (R215): Unsigned minimum fold. -/
  | wfoldMinN32 (d : BitVec 6) (a : BitVec 6)
  /-- `WFOLD_MAX_N32` (R215): Unsigned maximum fold. -/
  | wfoldMaxN32 (d : BitVec 6) (a : BitVec 6)
  /-- `WFOLD_AND` (R215): Bitwise AND fold. -/
  | wfoldAnd (d : BitVec 6) (a : BitVec 6)
  /-- `WFOLD_OR` (R215): Bitwise OR fold. -/
  | wfoldOr (d : BitVec 6) (a : BitVec 6)
  /-- `WFOLD_XOR` (R215): Bitwise XOR fold. -/
  | wfoldXor (d : BitVec 6) (a : BitVec 6)
  /-- `WFOLD_ADD_F32` (R215): FP32 add fold in ascending lane order. -/
  | wfoldAddF32 (d : BitVec 6) (a : BitVec 6)
  /-- `WFOLD_MIN_F32` (R215): FP32 minimum fold. -/
  | wfoldMinF32 (d : BitVec 6) (a : BitVec 6)
  /-- `WFOLD_MAX_F32` (R215): FP32 maximum fold. -/
  | wfoldMaxF32 (d : BitVec 6) (a : BitVec 6)
  /-- `BARRIER_ADDITION` (R241): An engine's byte-count addition reaches a barrier object's home point. -/
  | barrierAddition (op : Nat) (n : Nat)
  /-- `LAUNCH_COMPLETION` (R281): LAUNCH writes its status and child identifier. -/
  | launchCompletion (op : Nat)
  /-- `REGISTER_MISS` (R73): An instruction names an absent register line and its wave is demoted. -/
  | registerMiss (w : WaveKey)
  /-- `REGISTER_LINE_FILL` (R73): An absent register line arrives and the wave becomes ready. -/
  | registerLineFill (w : WaveKey) (line : Nat)
  /-- `WAVE_ACTIVATION` (R358): A ready pending wave becomes active when budget admits it. -/
  | waveActivation (w : WaveKey)
  /-- `WAVE_PENDING_ENTRY` (R358): A ready memory-only wave enters a free pending entry. -/
  | wavePendingEntry (w : WaveKey)
  /-- `FLAG_WAIT_DEMOTION` (R50): A completion-flag wait longer than 64 fclk demotes the wave. -/
  | flagWaitDemotion (w : WaveKey)
  /-- `WAVE_HANG` (R42): The hang count reaches 2^20 and the partition event is reported. -/
  | waveHang (w : WaveKey)
  /-- `LOAD_COMPLETION` (R224): A counted load or atomic writes its destination and its flag falls. -/
  | loadCompletion (op : Nat)
  /-- `RELEASE_PROMOTION` (R132): An outside access to a marked line makes the owning core promote its release. -/
  | releasePromotion (core : Nat)
  /-- `ENGINE_TRANSFER_COMPLETION` (R249): A copy or accumulator transfer has all bytes home and its flag falls. -/
  | engineTransferCompletion (op : Nat)
  /-- `TILE_FILL_COMPLETION` (R111): The last byte of a fill is written and the tile becomes READY. -/
  | tileFillCompletion (op : Nat)
  /-- `TILE_DRAIN_COMPLETION` (R111): The last byte of a drain is read and the tile returns to READY. -/
  | tileDrainCompletion (op : Nat)
  /-- `MMA_COMPLETION` (R262): The matrix engine finishes and destination tiles are written. -/
  | mmaCompletion (op : Nat)
  /-- `ENGINE_PAGE_FAULT` (R250): A running transfer meets an absent page and holds. -/
  | enginePageFault (op : Nat)
  /-- `ENGINE_TRANSFER_STOP` (R250): A running transfer meets a refused access and stops. -/
  | engineTransferStop (op : Nat)
  /-- `ROW_SENSED` (R116): The row is sensed, the slot becomes OPEN and the flag falls. -/
  | rowSensed (op : Nat)
  /-- `LEASE_EXPIRY` (R116): 2,048 lclk after OPEN the slot expires and held writes apply. -/
  | leaseExpiry (t : TeamKey) (slot : Nat)
  /-- `ROWPUT_COMPLETION` (R118): A ROWPUT's bytes are in the DRAM array and its flag falls. -/
  | rowputCompletion (op : Nat)
  /-- `ENTRY_SOURCE_READ` (R274): All source bytes of a fired entry are read and SCNT rises. -/
  | entrySourceRead (ctx : Nat) (qp : Nat) (n : Nat)
  /-- `COLLECTIVE_DELIVERY` (R274): A target applies a delivered entry and raises TCNT. -/
  | collectiveDelivery (d : Delivery)
  /-- `ORDERED_CONTRIBUTION` (R293): A target takes an ordered contribution into a held range. -/
  | orderedContribution (d : Delivery)
  /-- `QUEUE_LAUNCH_START` (R283): A QLAUNCH entry starts and its grid is accepted. -/
  | queueLaunchStart (ctx : Nat) (q : Nat)
  /-- `QUEUE_COPY_START` (R283): A QCOPY entry starts its copy. -/
  | queueCopyStart (ctx : Nat) (q : Nat)
  /-- `QUEUE_SEMWAIT_START` (R283): A QSEMW entry starts waiting on its semaphore. -/
  | queueSemwaitStart (ctx : Nat) (q : Nat)
  /-- `QUEUE_SEMSIG_START` (R283): A QSEMS entry adds to its semaphore as a release. -/
  | queueSemsigStart (ctx : Nat) (q : Nat)
  /-- `QUEUE_IRQ_START` (R283): A QIRQ entry raises a host interrupt. -/
  | queueIrqStart (ctx : Nat) (q : Nat)
  /-- `BATCH_DISPATCH` (R354): The global dispatcher sends a batch of teams to a die. -/
  | batchDispatch (p : Nat)
  /-- `TEAM_PLACEMENT` (R356): The die dispatcher places a team on a core. -/
  | teamPlacement (die : Nat)
  /-- `BATCH_RETURN` (R357): A team waits 65,536 clocks and the batch rest returns. -/
  | batchReturn (die : Nat)
  /-- `HALT_COMPLETE` (R388): Stop records are written and the context marked halted. -/
  | haltComplete (ctx : Nat)
  /-- `SWAP_EXCHANGE` (R341): Cores exchange their images with the harbour rows. -/
  | swapExchange (p : Nat)
  /-- `SWAP_RESTORE` (R339): The incoming context's scheduler state is rebuilt and it issues. -/
  | swapRestore (p : Nat)
  /-- `VACATE_CLUSTER` (R397): A PT_VAC write removes clusters from dispatch rings for vacation. -/
  | vacateCluster (p : Nat) (die : Nat) (cluster : Nat)
  /-- `TEAM_MOVE` (R398): A stopped team is saved to a move slot and requeued. -/
  | teamMove (t : TeamKey)
  /-- `PREEMPT_TIMEOUT` (R398): A masked handler does not stop within 16,384 fclk and the context halts. -/
  | preemptTimeout (w : WaveKey)
  /-- `CORE_GATE` (R415): A core idle for 4 us is gated. -/
  | coreGate (core : Nat)
  /-- `CORE_WAKE` (R72): A gated core wakes in 2 us on a waking event. -/
  | coreWake (core : Nat)
  /-- `RATIO_VOTE` (R308): Every 4 us a cluster chooses its clock ratio. -/
  | ratioVote (cluster : Nat)
  /-- `DROOP_TRIP` (R309): A droop above threshold stretches 6 lclk and halves issue. -/
  | droopTrip (cluster : Nat) (mv : Nat)
  /-- `DROOP_ISSUE_END` (R309): 64 fclk after the stretch the halved issue ends. -/
  | droopIssueEnd (cluster : Nat)
  /-- `CORE_REFILL` (R304): Every 64 fclk the die grant is divided among quarter shares. -/
  | coreRefill (core : Nat)
  /-- `DIE_REFILL` (R407): Every 16 ticks each die bucket draws from the package bucket. -/
  | dieRefill (die : Nat)
  /-- `PACKAGE_REFILL` (R407): Each tick the package bucket gains RATE/1,000. -/
  | packageRefill (ticks : Nat)
  /-- `GOVERNOR_STEP` (R409): Each us RATE moves one slew step toward its target. -/
  | governorStep (demand : Nat) (boost : Bool) (scrubbed : Nat)
  /-- `HEAT_UPDATE` (R414): Each us a core's heat is recomputed. -/
  | heatUpdate (cluster : Nat) (temp : Nat)
  /-- `POWER_INTENT_SEND` (R416): Every 20 us an intent is sent on each strait. -/
  | powerIntentSend (plan : List Word)
  /-- `POWER_INTENT_RECEIVE` (R416): A received intent may delay the module's rise by a slot. -/
  | powerIntentReceive (port : Nat) (i : Intent)
  /-- `PROBE_TOKEN` (R362): A queue full for 256 clocks sends a probe token. -/
  | probeToken (origin : QueueName) (blocked : QueueName)
  /-- `PROBE_PASS` (R362): A probe is passed on, dropped, or returns and grants the reserve. -/
  | probePass (q : QueueName) (next : Option QueueName)
  /-- `FLIT_FORWARD` (R420): A flit for another chip is looked up and forwarded. -/
  | flitForward (f : Flit)
  /-- `INBOUND_REQUEST` (R423): An inbound request is bound by job and performed or refused. -/
  | inboundRequest (r : InRequest)
  /-- `REMOTE_NACK` (R394): A negative acknowledgment makes REMOTE pending. -/
  | remoteNack (op : Nack) (lanes : LaneMask)
  /-- `REMOTE_TIMEOUT` (R395): A request unanswered after 1 ms makes REMOTE_TIMEOUT pending. -/
  | remoteTimeout (op : Nat) (lanes : LaneMask) (performed : LaneMask)
  /-- `HOST_MEM_ACCESS` (R418): A CXL.mem access from the host is served at the LLC. -/
  | hostMemAccess (r : HostReq)
  /-- `EVENT_RECORD` (R401): The arbiter writes an event record into the ring. -/
  | eventRecord (p : Nat)
  /-- `EVENT_RING_GET` (R403): Advancing PT_EVPTR.GET frees room for held events. -/
  | eventRingGet (p : Nat) (n : BitVec 16)
  /-- `FAULT_RING_GET` (R375): Advancing CT_PFPTR.GET lets a waiting fault record be written. -/
  | faultRingGet (ctx : Nat) (n : BitVec 16)
  /-- `PFACK_RETRY` (R375): Every held engine transfer of the context retries translation. -/
  | pfackRetry (ctx : Nat)
  /-- `CP_START` (R350): CT_CPCTL.GO starts the command-processor program at PC. -/
  | cpStart (ctx : Nat)
  /-- `SWAPREQ` (R340): PT_SWAPREQ.GO requests a switch to context C. -/
  | swapreq (p : Nat) (c : BitVec 1)
  /-- `LLC_WAY_GATE` (R400): A DV_LLCWAY write gates or wakes LLC ways. -/
  | llcWayGate (die : Nat)
  /-- `ATTESTATION_COMPLETE` (R426): The report is signed and written and BUSY clears. -/
  | attestationComplete (status : BitVec 3) (report : List Byte)
  /-- `STORAGE_ERROR` (R392): A detected read error is retried, then counted or poisoned. -/
  | storageError (site : ErrSite) (outcome : ErrOutcome)
  /-- `READ_CLEAR` (R7): A read of an RC field returns it and clears it. -/
  | readClear (p : Nat) (num : BitVec 16)
  /-- `REGISTER_WRITE` (R329): A write to a system register with no behaviour of its own. -/
  | registerWrite (level : Nat) (p : Nat) (num : BitVec 16) (val : Word)
  /-- `POWER_GOOD` (R430): Bring-up runs ROM, firmware, configuration, training, zeroing and host steps. -/
  | powerGood (b : BringUp)
  /-- `STRAIT_PORT_DOWN` (R420): A strait port stops being up, and flits that need it are discarded so that their initiators later time out. -/
  | straitPortDown (port : Nat)
  /-- `PRIVILEGED_COMPLETION` (R345): A waiting PARK, CTXFL or TLBI completes and releases its group from wait kind 12. -/
  | privilegedCompletion (a : Agent)
  /-- `LLC_WAY_DARK` (R400): A gated LLC way's dirty lines finish writing back, the way goes dark and BUSY clears. -/
  | llcWayDark (die : Nat) (way : Nat)
  /-- `MSI_X_UNMASK` (R418): The host unmasks an MSI-X vector that is pending, and the device sends its message. -/
  | msiXUnmask (fn : Nat) (vec : Nat)
  /-- `RET` (R220): Pops each thread's return address from its spill stack. -/
  | ret
  /-- `EXIT` (R221): Makes each thread of the group exited. -/
  | exitI
  /-- `NOP` (R221): Does nothing. -/
  | nop
  /-- `YIELD` (R221): The group gives up the leading role. -/
  | yieldI
  /-- `ERET` (R384): Rendezvous of the handler's threads, then return to the recorded point. -/
  | eret
  /-- `CLAUSE_START` (R173): An issue group begins a clause once every WAIT flag is 0. -/
  | clauseStart
  /-- `ASYNC_CAUSE_DELIVERY` (R380): The lowest pending cause is taken at an issue boundary. -/
  | asyncCauseDelivery
  /-- `CGATE_CLEAR` (R415): Clearing PW_CTL.CGATE wakes every gated core. -/
  | cgateClear
  /-- `ATTESTATION_START` (R427): DV_SCCMD.GO starts a signed attestation report. -/
  | attestationStart
  /-- `RESERVED_ENCODING` (R167): An instruction word whose major opcode or function value is reserved reaches issue and raises ILLEGAL. -/
  | reservedEncoding
  /-- `CAPACITOR_RESERVE_EXHAUSTED` (R409): The capacitor reserve reaches 0 and RATE is set to the budget at once, without regard to the slew. -/
  | capacitorReserveExhausted
  /-- `POWER_LOSS` (R426): Power to the module is lost, for example after the identity index has been written to flash. -/
  | powerLoss
  deriving DecidableEq, Repr

end Sys2Proof
end

