-- ==== Sys2Proof/Decode.lean ====
section
/-! DEFINITION. The decoder and the encoder, both read from one table of layouts (R153 to R172). A layout lists the
segments of a word from bit 0 upwards: `(width, some v)` is a fixed segment, `(width, none)` an operand field. -/

namespace Sys2Proof

/-- A word's segments from bit 0 upwards. -/
abbrev Layout := List (Nat × Option Nat)

/-- The word that a layout gives for its operand fields, lowest field first. -/
def Layout.pack : Layout → List Nat → Nat
  | [], _ => 0
  | (n, some v) :: l, fs => v + 2 ^ n * Layout.pack l fs
  | (n, none) :: l, f :: fs => f + 2 ^ n * Layout.pack l fs
  | (n, none) :: l, [] => 2 ^ n * Layout.pack l []

/-- The operand fields that a word holds by a layout, or none when a fixed segment differs. -/
def Layout.unpack : Layout → Nat → Option (List Nat)
  | [], _ => some []
  | (n, some v) :: l, w => if w % 2 ^ n = v then Layout.unpack l (w / 2 ^ n) else none
  | (n, none) :: l, w => (Layout.unpack l (w / 2 ^ n)).map (w % 2 ^ n :: ·)

/-- The bits that a layout fixes. -/
def Layout.mask : Layout → Nat
  | [] => 0
  | (n, some _) :: l => (2 ^ n - 1) + 2 ^ n * Layout.mask l
  | (n, none) :: l => 2 ^ n * Layout.mask l

/-- The values of the bits that a layout fixes. -/
def Layout.match : Layout → Nat
  | [] => 0
  | (n, some v) :: l => v + 2 ^ n * Layout.match l
  | (n, none) :: l => 2 ^ n * Layout.match l

/-- Two layouts that no word fits at once: they fix one bit differently. -/
def Layout.clash (a b : Layout) : Bool := a.match &&& b.mask != b.match &&& a.mask

/-- One row of the decoder: a layout, and the instruction that its fields make. -/
abbrev DecodeRow := Layout × (List Nat → Option Instr)

/-- The instruction of the first row that a word fits. -/
def decodeRows : List DecodeRow → Nat → Option Instr
  | [], _ => none
  | (l, mk) :: rs, w =>
    match l.unpack w with
    | some fs => mk fs
    | none => decodeRows rs w

namespace Layout
/-- `MOV16` (R156). -/
def mov16 : Layout := [(5, some 0x0), (5, none), (6, none)]
/-- `MOVI16` (R156). -/
def movi16 : Layout := [(5, some 0x2), (5, none), (6, none)]
/-- `IADD16` (R156). -/
def iadd16 : Layout := [(5, some 0x4), (5, none), (6, none)]
/-- `IADDI16` (R156). -/
def iaddi16 : Layout := [(5, some 0x6), (5, none), (6, none)]
/-- `ISUB16` (R156). -/
def isub16 : Layout := [(5, some 0x8), (5, none), (6, none)]
/-- `AND16` (R156). -/
def and16 : Layout := [(5, some 0xa), (5, none), (6, none)]
/-- `OR16` (R156). -/
def or16 : Layout := [(5, some 0xc), (5, none), (6, none)]
/-- `XOR16` (R156). -/
def xor16 : Layout := [(5, some 0xe), (5, none), (6, none)]
/-- `SHLI16` (R156). -/
def shli16 : Layout := [(5, some 0x10), (5, none), (5, none), (1, some 0x0)]
/-- `SHRI16` (R156). -/
def shri16 : Layout := [(5, some 0x12), (5, none), (5, none), (1, some 0x0)]
/-- `SARI16` (R156). -/
def sari16 : Layout := [(5, some 0x14), (5, none), (5, none), (1, some 0x0)]
/-- `FADD16` (R156). -/
def fadd16 : Layout := [(5, some 0x16), (5, none), (6, none)]
/-- `FSUB16` (R156). -/
def fsub16 : Layout := [(5, some 0x18), (5, none), (6, none)]
/-- `FMUL16` (R156). -/
def fmul16 : Layout := [(5, some 0x1a), (5, none), (6, none)]
/-- `FMAX16` (R156). -/
def fmax16 : Layout := [(5, some 0x1c), (5, none), (6, none)]
/-- `FMIN16` (R156). -/
def fmin16 : Layout := [(5, some 0x1e), (5, none), (6, none)]
/-- `IADD` (R186). -/
def iadd : Layout := [(7, some 0x3), (1, none), (6, none), (6, none), (6, none), (6, some 0x0)]
/-- `IADD_SAT_I32` (R186). -/
def iaddSatI32 : Layout := [(7, some 0x3), (1, none), (6, none), (6, none), (6, none), (6, some 0x1)]
/-- `IADD_SAT_N32` (R186). -/
def iaddSatN32 : Layout := [(7, some 0x3), (1, none), (6, none), (6, none), (6, none), (6, some 0x2)]
/-- `IADDC` (R186). -/
def iaddc : Layout := [(7, some 0x3), (1, none), (6, none), (6, none), (6, none), (6, some 0x3)]
/-- `ISUB` (R186). -/
def isub : Layout := [(7, some 0x3), (1, none), (6, none), (6, none), (6, none), (6, some 0x4)]
/-- `ISUB_SAT_I32` (R186). -/
def isubSatI32 : Layout := [(7, some 0x3), (1, none), (6, none), (6, none), (6, none), (6, some 0x5)]
/-- `ISUB_SAT_N32` (R186). -/
def isubSatN32 : Layout := [(7, some 0x3), (1, none), (6, none), (6, none), (6, none), (6, some 0x6)]
/-- `ISUBB` (R186). -/
def isubb : Layout := [(7, some 0x3), (1, none), (6, none), (6, none), (6, none), (6, some 0x7)]
/-- `INEG` (R186). -/
def ineg : Layout := [(7, some 0x3), (1, none), (6, none), (6, none), (12, some 0x200)]
/-- `INEG_SAT` (R186). -/
def inegSat : Layout := [(7, some 0x3), (1, none), (6, none), (6, none), (12, some 0x240)]
/-- `IABS` (R186). -/
def iabs : Layout := [(7, some 0x3), (1, none), (6, none), (6, none), (12, some 0x280)]
/-- `IABS_SAT` (R186). -/
def iabsSat : Layout := [(7, some 0x3), (1, none), (6, none), (6, none), (12, some 0x2c0)]
/-- `IMIN_I32` (R186). -/
def iminI32 : Layout := [(7, some 0x3), (1, none), (6, none), (6, none), (6, none), (6, some 0xc)]
/-- `IMIN_N32` (R186). -/
def iminN32 : Layout := [(7, some 0x3), (1, none), (6, none), (6, none), (6, none), (6, some 0xd)]
/-- `IMAX_I32` (R186). -/
def imaxI32 : Layout := [(7, some 0x3), (1, none), (6, none), (6, none), (6, none), (6, some 0xe)]
/-- `IMAX_N32` (R186). -/
def imaxN32 : Layout := [(7, some 0x3), (1, none), (6, none), (6, none), (6, none), (6, some 0xf)]
/-- `AND` (R186). -/
def andI : Layout := [(7, some 0x3), (1, none), (6, none), (6, none), (6, none), (6, some 0x10)]
/-- `OR` (R186). -/
def orI : Layout := [(7, some 0x3), (1, none), (6, none), (6, none), (6, none), (6, some 0x11)]
/-- `XOR` (R186). -/
def xorI : Layout := [(7, some 0x3), (1, none), (6, none), (6, none), (6, none), (6, some 0x12)]
/-- `NOT` (R186). -/
def notI : Layout := [(7, some 0x3), (1, none), (6, none), (6, none), (12, some 0x4c0)]
/-- `ANDN` (R186). -/
def andn : Layout := [(7, some 0x3), (1, none), (6, none), (6, none), (6, none), (6, some 0x14)]
/-- `SHL` (R186). -/
def shl : Layout := [(7, some 0x3), (1, none), (6, none), (6, none), (6, none), (6, some 0x15)]
/-- `SHR` (R186). -/
def shr : Layout := [(7, some 0x3), (1, none), (6, none), (6, none), (6, none), (6, some 0x16)]
/-- `SAR` (R186). -/
def sar : Layout := [(7, some 0x3), (1, none), (6, none), (6, none), (6, none), (6, some 0x17)]
/-- `ROTL` (R186). -/
def rotl : Layout := [(7, some 0x3), (1, none), (6, none), (6, none), (6, none), (6, some 0x18)]
/-- `IADD64` (R186). -/
def iadd64 : Layout := [(7, some 0x3), (1, none), (6, none), (6, none), (6, none), (6, some 0x19)]
/-- `TRILOG` (R187). -/
def trilog : Layout := [(7, some 0x3), (1, none), (5, none), (1, none), (5, none), (1, none), (5, none), (1, none), (4, none), (2, some 0x3)]
/-- `IADD_IMM` (R188). -/
def iaddImm : Layout := [(7, some 0x5), (1, none), (6, none), (6, none), (3, some 0x0), (9, none)]
/-- `AND_IMM` (R188). -/
def andImm : Layout := [(7, some 0x5), (1, none), (6, none), (6, none), (3, some 0x1), (9, none)]
/-- `OR_IMM` (R188). -/
def orImm : Layout := [(7, some 0x5), (1, none), (6, none), (6, none), (3, some 0x2), (9, none)]
/-- `XOR_IMM` (R188). -/
def xorImm : Layout := [(7, some 0x5), (1, none), (6, none), (6, none), (3, some 0x3), (9, none)]
/-- `SHL_IMM` (R188). -/
def shlImm : Layout := [(7, some 0x5), (1, none), (6, none), (6, none), (3, some 0x4), (5, none), (4, some 0x0)]
/-- `SHR_IMM` (R188). -/
def shrImm : Layout := [(7, some 0x5), (1, none), (6, none), (6, none), (3, some 0x5), (5, none), (4, some 0x0)]
/-- `SAR_IMM` (R188). -/
def sarImm : Layout := [(7, some 0x5), (1, none), (6, none), (6, none), (3, some 0x6), (5, none), (4, some 0x0)]
/-- `ROTL_IMM` (R188). -/
def rotlImm : Layout := [(7, some 0x5), (1, none), (6, none), (6, none), (3, some 0x7), (5, none), (4, some 0x0)]
/-- `IMUL` (R189). -/
def imul : Layout := [(7, some 0x7), (1, none), (4, some 0x0), (5, none), (5, none), (5, none), (5, some 0x0)]
/-- `IMULH_I32` (R189). -/
def imulhI32 : Layout := [(7, some 0x7), (1, none), (4, some 0x1), (5, none), (5, none), (5, none), (5, some 0x0)]
/-- `IMULH_N32` (R189). -/
def imulhN32 : Layout := [(7, some 0x7), (1, none), (4, some 0x2), (5, none), (5, none), (5, none), (5, some 0x0)]
/-- `IMAD` (R189). -/
def imad : Layout := [(7, some 0x7), (1, none), (4, some 0x3), (5, none), (5, none), (5, none), (5, none)]
/-- `IMADW_I32` (R189). -/
def imadwI32 : Layout := [(7, some 0x7), (1, none), (4, some 0x4), (5, none), (5, none), (5, none), (5, none)]
/-- `IMADW_N32` (R189). -/
def imadwN32 : Layout := [(7, some 0x7), (1, none), (4, some 0x5), (5, none), (5, none), (5, none), (5, none)]
/-- `ISAD` (R189). -/
def isad : Layout := [(7, some 0x7), (1, none), (4, some 0x6), (5, none), (5, none), (5, none), (5, none)]
/-- `BFX_N32` (R190). -/
def bfxN32 : Layout := [(7, some 0x9), (1, none), (4, some 0x0), (5, none), (5, none), (5, none), (5, some 0x0)]
/-- `BFX_I32` (R190). -/
def bfxI32 : Layout := [(7, some 0x9), (1, none), (4, some 0x1), (5, none), (5, none), (5, none), (5, some 0x0)]
/-- `BFI` (R190). -/
def bfi : Layout := [(7, some 0x9), (1, none), (4, some 0x2), (5, none), (5, none), (5, none), (5, none)]
/-- `POPC` (R191). -/
def popc : Layout := [(7, some 0x9), (1, none), (4, some 0x3), (5, none), (5, none), (10, some 0x0)]
/-- `CLZ` (R191). -/
def clz : Layout := [(7, some 0x9), (1, none), (4, some 0x4), (5, none), (5, none), (10, some 0x0)]
/-- `CTZ` (R191). -/
def ctz : Layout := [(7, some 0x9), (1, none), (4, some 0x5), (5, none), (5, none), (10, some 0x0)]
/-- `BREV` (R191). -/
def brev : Layout := [(7, some 0x9), (1, none), (4, some 0x6), (5, none), (5, none), (10, some 0x0)]
/-- `SHF_L` (R191). -/
def shfL : Layout := [(7, some 0x9), (1, none), (4, some 0x7), (5, none), (5, none), (5, none), (5, none)]
/-- `SHF_R` (R191). -/
def shfR : Layout := [(7, some 0x9), (1, none), (4, some 0x8), (5, none), (5, none), (5, none), (5, none)]
/-- `ICMP_EQ_I32` (R192). -/
def icmpEqI32 : Layout := [(8, some 0xb), (3, none), (3, some 0x0), (6, none), (6, none), (6, some 0x0)]
/-- `ICMP_NE_I32` (R192). -/
def icmpNeI32 : Layout := [(8, some 0xb), (3, none), (3, some 0x0), (6, none), (6, none), (6, some 0x1)]
/-- `ICMP_LT_I32` (R192). -/
def icmpLtI32 : Layout := [(8, some 0xb), (3, none), (3, some 0x0), (6, none), (6, none), (6, some 0x2)]
/-- `ICMP_LE_I32` (R192). -/
def icmpLeI32 : Layout := [(8, some 0xb), (3, none), (3, some 0x0), (6, none), (6, none), (6, some 0x3)]
/-- `ICMP_GT_I32` (R192). -/
def icmpGtI32 : Layout := [(8, some 0xb), (3, none), (3, some 0x0), (6, none), (6, none), (6, some 0x4)]
/-- `ICMP_GE_I32` (R192). -/
def icmpGeI32 : Layout := [(8, some 0xb), (3, none), (3, some 0x0), (6, none), (6, none), (6, some 0x5)]
/-- `ICMP_EQ_N32` (R192). -/
def icmpEqN32 : Layout := [(8, some 0xb), (3, none), (3, some 0x0), (6, none), (6, none), (6, some 0x6)]
/-- `ICMP_NE_N32` (R192). -/
def icmpNeN32 : Layout := [(8, some 0xb), (3, none), (3, some 0x0), (6, none), (6, none), (6, some 0x7)]
/-- `ICMP_LT_N32` (R192). -/
def icmpLtN32 : Layout := [(8, some 0xb), (3, none), (3, some 0x0), (6, none), (6, none), (6, some 0x8)]
/-- `ICMP_LE_N32` (R192). -/
def icmpLeN32 : Layout := [(8, some 0xb), (3, none), (3, some 0x0), (6, none), (6, none), (6, some 0x9)]
/-- `ICMP_GT_N32` (R192). -/
def icmpGtN32 : Layout := [(8, some 0xb), (3, none), (3, some 0x0), (6, none), (6, none), (6, some 0xa)]
/-- `ICMP_GE_N32` (R192). -/
def icmpGeN32 : Layout := [(8, some 0xb), (3, none), (3, some 0x0), (6, none), (6, none), (6, some 0xb)]
/-- `FCMP_EQ` (R193). -/
def fcmpEq : Layout := [(8, some 0xb), (3, none), (3, some 0x0), (6, none), (6, none), (6, some 0x10)]
/-- `FCMP_NE` (R193). -/
def fcmpNe : Layout := [(8, some 0xb), (3, none), (3, some 0x0), (6, none), (6, none), (6, some 0x11)]
/-- `FCMP_LT` (R193). -/
def fcmpLt : Layout := [(8, some 0xb), (3, none), (3, some 0x0), (6, none), (6, none), (6, some 0x12)]
/-- `FCMP_LE` (R193). -/
def fcmpLe : Layout := [(8, some 0xb), (3, none), (3, some 0x0), (6, none), (6, none), (6, some 0x13)]
/-- `FCMP_GT` (R193). -/
def fcmpGt : Layout := [(8, some 0xb), (3, none), (3, some 0x0), (6, none), (6, none), (6, some 0x14)]
/-- `FCMP_GE` (R193). -/
def fcmpGe : Layout := [(8, some 0xb), (3, none), (3, some 0x0), (6, none), (6, none), (6, some 0x15)]
/-- `FCMP_ORD` (R193). -/
def fcmpOrd : Layout := [(8, some 0xb), (3, none), (3, some 0x0), (6, none), (6, none), (6, some 0x16)]
/-- `FCMP_UNO` (R193). -/
def fcmpUno : Layout := [(8, some 0xb), (3, none), (3, some 0x0), (6, none), (6, none), (6, some 0x17)]
/-- `PLOG_AND` (R192). -/
def plogAnd : Layout := [(8, some 0xb), (3, none), (3, some 0x0), (3, none), (3, some 0x0), (3, none), (9, some 0x100)]
/-- `PLOG_OR` (R192). -/
def plogOr : Layout := [(8, some 0xb), (3, none), (3, some 0x0), (3, none), (3, some 0x0), (3, none), (9, some 0x108)]
/-- `PLOG_XOR` (R192). -/
def plogXor : Layout := [(8, some 0xb), (3, none), (3, some 0x0), (3, none), (3, some 0x0), (3, none), (9, some 0x110)]
/-- `PLOG_ANDN` (R192). -/
def plogAndn : Layout := [(8, some 0xb), (3, none), (3, some 0x0), (3, none), (3, some 0x0), (3, none), (9, some 0x118)]
/-- `PLOG_ORN` (R192). -/
def plogOrn : Layout := [(8, some 0xb), (3, none), (3, some 0x0), (3, none), (3, some 0x0), (3, none), (9, some 0x120)]
/-- `PLOG_XNOR` (R192). -/
def plogXnor : Layout := [(8, some 0xb), (3, none), (3, some 0x0), (3, none), (3, some 0x0), (3, none), (9, some 0x128)]
/-- `SEL` (R192). -/
def sel : Layout := [(8, some 0xb), (6, none), (6, none), (6, none), (3, none), (3, some 0x6)]
/-- `FADD` (R194). -/
def fadd : Layout := [(7, some 0xd), (1, none), (4, some 0x0), (5, none), (5, none), (5, none), (5, none)]
/-- `FSUB` (R194). -/
def fsub : Layout := [(7, some 0xd), (1, none), (4, some 0x1), (5, none), (5, none), (5, none), (5, none)]
/-- `FMUL` (R194). -/
def fmul : Layout := [(7, some 0xd), (1, none), (4, some 0x2), (5, none), (5, none), (5, none), (5, none)]
/-- `FFMA_RN` (R194). -/
def ffmaRn : Layout := [(7, some 0xd), (1, none), (4, some 0x3), (5, none), (5, none), (5, none), (5, none)]
/-- `FFMA_RZ` (R194). -/
def ffmaRz : Layout := [(7, some 0xd), (1, none), (4, some 0x4), (5, none), (5, none), (5, none), (5, none)]
/-- `FFMA_RU` (R194). -/
def ffmaRu : Layout := [(7, some 0xd), (1, none), (4, some 0x5), (5, none), (5, none), (5, none), (5, none)]
/-- `FFMA_RD` (R194). -/
def ffmaRd : Layout := [(7, some 0xd), (1, none), (4, some 0x6), (5, none), (5, none), (5, none), (5, none)]
/-- `FMIN` (R195). -/
def fmin : Layout := [(7, some 0xd), (1, none), (4, some 0x7), (5, none), (5, none), (5, none), (5, some 0x0)]
/-- `FMAX` (R195). -/
def fmax : Layout := [(7, some 0xd), (1, none), (4, some 0x8), (5, none), (5, none), (5, none), (5, some 0x0)]
/-- `FRND` (R196). -/
def frnd : Layout := [(7, some 0xd), (1, none), (4, some 0x9), (5, none), (5, none), (5, some 0x0), (5, none)]
/-- `FCLASS` (R197). -/
def fclass : Layout := [(12, some 0xa0d), (5, none), (5, none), (10, some 0x0)]
/-- `FSCALE` (R198). -/
def fscale : Layout := [(7, some 0xd), (1, none), (4, some 0xb), (5, none), (5, none), (5, none), (5, none)]
/-- `FRCP` (R199). -/
def frcp : Layout := [(7, some 0xf), (1, none), (6, none), (6, none), (12, some 0x0)]
/-- `FRSQ` (R199). -/
def frsq : Layout := [(7, some 0xf), (1, none), (6, none), (6, none), (12, some 0x40)]
/-- `FSQRT` (R199). -/
def fsqrt : Layout := [(7, some 0xf), (1, none), (6, none), (6, none), (12, some 0x80)]
/-- `FEX2` (R199). -/
def fex2 : Layout := [(7, some 0xf), (1, none), (6, none), (6, none), (12, some 0xc0)]
/-- `FLG2` (R199). -/
def flg2 : Layout := [(7, some 0xf), (1, none), (6, none), (6, none), (12, some 0x100)]
/-- `FSIN` (R199). -/
def fsin : Layout := [(7, some 0xf), (1, none), (6, none), (6, none), (12, some 0x140)]
/-- `FCOS` (R199). -/
def fcos : Layout := [(7, some 0xf), (1, none), (6, none), (6, none), (12, some 0x180)]
/-- `FTANH` (R199). -/
def ftanh : Layout := [(7, some 0xf), (1, none), (6, none), (6, none), (12, some 0x1c0)]
/-- `F2I_I8` (R202). -/
def f2iI8 : Layout := [(8, some 0x11), (6, none), (6, none), (6, none), (6, some 0x0)]
/-- `F2I_I16` (R202). -/
def f2iI16 : Layout := [(8, some 0x11), (6, none), (6, none), (6, none), (6, some 0x1)]
/-- `F2I_I32` (R202). -/
def f2iI32 : Layout := [(8, some 0x11), (6, none), (6, none), (6, none), (6, some 0x2)]
/-- `F2I_N8` (R202). -/
def f2iN8 : Layout := [(8, some 0x11), (6, none), (6, none), (6, none), (6, some 0x3)]
/-- `F2I_N16` (R202). -/
def f2iN16 : Layout := [(8, some 0x11), (6, none), (6, none), (6, none), (6, some 0x4)]
/-- `F2I_N32` (R202). -/
def f2iN32 : Layout := [(8, some 0x11), (6, none), (6, none), (6, none), (6, some 0x5)]
/-- `I2F_I8` (R202). -/
def i2fI8 : Layout := [(8, some 0x11), (6, none), (6, none), (6, none), (6, some 0x6)]
/-- `I2F_I16` (R202). -/
def i2fI16 : Layout := [(8, some 0x11), (6, none), (6, none), (6, none), (6, some 0x7)]
/-- `I2F_I32` (R202). -/
def i2fI32 : Layout := [(8, some 0x11), (6, none), (6, none), (6, none), (6, some 0x8)]
/-- `I2F_N8` (R202). -/
def i2fN8 : Layout := [(8, some 0x11), (6, none), (6, none), (6, none), (6, some 0x9)]
/-- `I2F_N16` (R202). -/
def i2fN16 : Layout := [(8, some 0x11), (6, none), (6, none), (6, none), (6, some 0xa)]
/-- `I2F_N32` (R202). -/
def i2fN32 : Layout := [(8, some 0x11), (6, none), (6, none), (6, none), (6, some 0xb)]
/-- `I2I_I8` (R203). -/
def i2iI8 : Layout := [(8, some 0x11), (6, none), (6, none), (6, none), (1, none), (5, some 0x6)]
/-- `I2I_I16` (R203). -/
def i2iI16 : Layout := [(8, some 0x11), (6, none), (6, none), (6, none), (1, none), (5, some 0x7)]
/-- `I2I_I32` (R203). -/
def i2iI32 : Layout := [(8, some 0x11), (6, none), (6, none), (6, none), (1, none), (5, some 0x8)]
/-- `I2I_N8` (R203). -/
def i2iN8 : Layout := [(8, some 0x11), (6, none), (6, none), (6, none), (1, none), (5, some 0x9)]
/-- `I2I_N16` (R203). -/
def i2iN16 : Layout := [(8, some 0x11), (6, none), (6, none), (6, none), (1, none), (5, some 0xa)]
/-- `I2I_N32` (R203). -/
def i2iN32 : Layout := [(8, some 0x11), (6, none), (6, none), (6, none), (1, none), (5, some 0xb)]
/-- `FCVT_BF16` (R204). -/
def fcvtBf16 : Layout := [(8, some 0x11), (6, none), (6, none), (6, none), (6, some 0x18)]
/-- `FCVT_F16` (R204). -/
def fcvtF16 : Layout := [(8, some 0x11), (6, none), (6, none), (6, none), (6, some 0x19)]
/-- `FCVT_E4M3` (R204). -/
def fcvtE4m3 : Layout := [(8, some 0x11), (6, none), (6, none), (6, none), (6, some 0x1a)]
/-- `FCVT_E5M2` (R204). -/
def fcvtE5m2 : Layout := [(8, some 0x11), (6, none), (6, none), (6, none), (6, some 0x1b)]
/-- `FCVT_E2M1` (R204). -/
def fcvtE2m1 : Layout := [(8, some 0x11), (6, none), (6, none), (6, none), (6, some 0x1c)]
/-- `FCVT_SR_BF16` (R204). -/
def fcvtSrBf16 : Layout := [(8, some 0x11), (6, none), (6, none), (6, none), (6, some 0x1d)]
/-- `FCVT_SR_F16` (R204). -/
def fcvtSrF16 : Layout := [(8, some 0x11), (6, none), (6, none), (6, none), (6, some 0x1e)]
/-- `FCVT_SR_E4M3` (R204). -/
def fcvtSrE4m3 : Layout := [(8, some 0x11), (6, none), (6, none), (6, none), (6, some 0x1f)]
/-- `FCVT_SR_E5M2` (R204). -/
def fcvtSrE5m2 : Layout := [(8, some 0x11), (6, none), (6, none), (6, none), (6, some 0x20)]
/-- `FCVT_SR_E2M1` (R204). -/
def fcvtSrE2m1 : Layout := [(8, some 0x11), (6, none), (6, none), (6, none), (6, some 0x21)]
/-- `FPK_BF16` (R204). -/
def fpkBf16 : Layout := [(8, some 0x11), (6, none), (6, none), (12, some 0x880)]
/-- `FPK_F16` (R204). -/
def fpkF16 : Layout := [(8, some 0x11), (6, none), (6, none), (12, some 0x8c0)]
/-- `FPK_E4M3` (R204). -/
def fpkE4m3 : Layout := [(8, some 0x11), (6, none), (6, none), (12, some 0x900)]
/-- `FPK_E5M2` (R204). -/
def fpkE5m2 : Layout := [(8, some 0x11), (6, none), (6, none), (12, some 0x940)]
/-- `FPK_SR_BF16` (R204). -/
def fpkSrBf16 : Layout := [(8, some 0x11), (6, none), (6, none), (6, none), (6, some 0x26)]
/-- `FPK_SR_F16` (R204). -/
def fpkSrF16 : Layout := [(8, some 0x11), (6, none), (6, none), (6, none), (6, some 0x27)]
/-- `FPK_SR_E4M3` (R204). -/
def fpkSrE4m3 : Layout := [(8, some 0x11), (6, none), (6, none), (6, none), (6, some 0x28)]
/-- `FPK_SR_E5M2` (R204). -/
def fpkSrE5m2 : Layout := [(8, some 0x11), (6, none), (6, none), (6, none), (6, some 0x29)]
/-- `FUNPK_BF16` (R205). -/
def funpkBf16 : Layout := [(8, some 0x11), (6, none), (6, none), (6, none), (6, some 0x2a)]
/-- `FUNPK_F16` (R205). -/
def funpkF16 : Layout := [(8, some 0x11), (6, none), (6, none), (6, none), (6, some 0x2b)]
/-- `FUNPK_E4M3` (R205). -/
def funpkE4m3 : Layout := [(8, some 0x11), (6, none), (6, none), (6, none), (6, some 0x2c)]
/-- `FUNPK_E5M2` (R205). -/
def funpkE5m2 : Layout := [(8, some 0x11), (6, none), (6, none), (6, none), (6, some 0x2d)]
/-- `FUNPK_E2M1` (R205). -/
def funpkE2m1 : Layout := [(8, some 0x11), (6, none), (6, none), (6, none), (6, some 0x2e)]
/-- `DOT4I8` (R206). -/
def dot4i8 : Layout := [(12, some 0x13), (5, none), (5, none), (5, none), (5, none)]
/-- `DOT4I8_SAT` (R206). -/
def dot4i8Sat : Layout := [(12, some 0x113), (5, none), (5, none), (5, none), (5, none)]
/-- `DOT8I4` (R206). -/
def dot8i4 : Layout := [(12, some 0x213), (5, none), (5, none), (5, none), (5, none)]
/-- `DOT8I4_SAT` (R206). -/
def dot8i4Sat : Layout := [(12, some 0x313), (5, none), (5, none), (5, none), (5, none)]
/-- `DOT4F8_E4M3` (R207). -/
def dot4f8E4m3 : Layout := [(12, some 0x413), (5, none), (5, none), (5, none), (5, none)]
/-- `DOT4F8_E5M2` (R207). -/
def dot4f8E5m2 : Layout := [(12, some 0x513), (5, none), (5, none), (5, none), (5, none)]
/-- `HFMA2_BF16` (R208). -/
def hfma2Bf16 : Layout := [(12, some 0x613), (5, none), (5, none), (5, none), (5, none)]
/-- `HFMA2_F16` (R208). -/
def hfma2F16 : Layout := [(12, some 0x713), (5, none), (5, none), (5, none), (5, none)]
/-- `HADD2_BF16` (R208). -/
def hadd2Bf16 : Layout := [(12, some 0x813), (5, none), (5, none), (5, none), (5, some 0x0)]
/-- `HADD2_F16` (R208). -/
def hadd2F16 : Layout := [(12, some 0x913), (5, none), (5, none), (5, none), (5, some 0x0)]
/-- `HMUL2_BF16` (R208). -/
def hmul2Bf16 : Layout := [(12, some 0xa13), (5, none), (5, none), (5, none), (5, some 0x0)]
/-- `HMUL2_F16` (R208). -/
def hmul2F16 : Layout := [(12, some 0xb13), (5, none), (5, none), (5, none), (5, some 0x0)]
/-- `HMAX2_BF16` (R208). -/
def hmax2Bf16 : Layout := [(12, some 0xc13), (5, none), (5, none), (5, none), (5, some 0x0)]
/-- `HMAX2_F16` (R208). -/
def hmax2F16 : Layout := [(12, some 0xd13), (5, none), (5, none), (5, none), (5, some 0x0)]
/-- `MOV` (R209). -/
def mov : Layout := [(16, some 0x15), (8, none), (8, none)]
/-- `MOVI` (R209). -/
def movi : Layout := [(10, some 0x95), (6, none), (16, none)]
/-- `MOVIH` (R209). -/
def movih : Layout := [(10, some 0x115), (6, none), (16, none)]
/-- `MOVK_V_K` (R210). -/
def movkVK : Layout := [(10, some 0x195), (6, none), (6, none), (10, some 0x0)]
/-- `MOVK_K_V` (R210). -/
def movkKV : Layout := [(10, some 0x195), (6, none), (6, none), (10, some 0x1)]
/-- `MOVK_K_S` (R210). -/
def movkKS : Layout := [(10, some 0x195), (6, none), (6, none), (10, some 0x2)]
/-- `MOVK_S_K` (R210). -/
def movkSK : Layout := [(10, some 0x195), (6, none), (6, none), (10, some 0x3)]
/-- `MOVS` (R211). -/
def movs : Layout := [(10, some 0x215), (6, none), (8, none), (1, none), (7, some 0x0)]
/-- `MOVI_K` (R209). -/
def moviK : Layout := [(10, some 0x295), (6, none), (16, none)]
/-- `MOVIH_K` (R209). -/
def movihK : Layout := [(10, some 0x315), (6, none), (16, none)]
/-- `LANEX_PICK` (R213). -/
def lanexPick : Layout := [(8, some 0x17), (6, none), (6, none), (6, none), (6, some 0x0)]
/-- `LANEX_LO` (R213). -/
def lanexLo : Layout := [(8, some 0x17), (6, none), (6, none), (6, none), (6, some 0x1)]
/-- `LANEX_HI` (R213). -/
def lanexHi : Layout := [(8, some 0x17), (6, none), (6, none), (6, none), (6, some 0x2)]
/-- `LANEX_FLIP` (R213). -/
def lanexFlip : Layout := [(8, some 0x17), (6, none), (6, none), (6, none), (6, some 0x3)]
/-- `LANEX_ROT` (R213). -/
def lanexRot : Layout := [(8, some 0x17), (6, none), (6, none), (6, none), (6, some 0x13)]
/-- `PCONS_ALL` (R214). -/
def pconsAll : Layout := [(8, some 0x17), (3, none), (3, some 0x0), (3, none), (15, some 0x800)]
/-- `PCONS_SOME` (R214). -/
def pconsSome : Layout := [(8, some 0x17), (3, none), (3, some 0x0), (3, none), (15, some 0xa00)]
/-- `PCONS_SAME` (R214). -/
def pconsSame : Layout := [(8, some 0x17), (3, none), (3, some 0x0), (3, none), (15, some 0xc00)]
/-- `PMASK` (R214). -/
def pmask : Layout := [(8, some 0x17), (6, none), (3, none), (15, some 0xe00)]
/-- `WFOLD_ADD_I32` (R215). -/
def wfoldAddI32 : Layout := [(8, some 0x17), (6, none), (6, none), (12, some 0x200)]
/-- `WFOLD_MIN_I32` (R215). -/
def wfoldMinI32 : Layout := [(8, some 0x17), (6, none), (6, none), (12, some 0x240)]
/-- `WFOLD_MAX_I32` (R215). -/
def wfoldMaxI32 : Layout := [(8, some 0x17), (6, none), (6, none), (12, some 0x280)]
/-- `WFOLD_MIN_N32` (R215). -/
def wfoldMinN32 : Layout := [(8, some 0x17), (6, none), (6, none), (12, some 0x2c0)]
/-- `WFOLD_MAX_N32` (R215). -/
def wfoldMaxN32 : Layout := [(8, some 0x17), (6, none), (6, none), (12, some 0x300)]
/-- `WFOLD_AND` (R215). -/
def wfoldAnd : Layout := [(8, some 0x17), (6, none), (6, none), (12, some 0x340)]
/-- `WFOLD_OR` (R215). -/
def wfoldOr : Layout := [(8, some 0x17), (6, none), (6, none), (12, some 0x380)]
/-- `WFOLD_XOR` (R215). -/
def wfoldXor : Layout := [(8, some 0x17), (6, none), (6, none), (12, some 0x3c0)]
/-- `WFOLD_ADD_F32` (R215). -/
def wfoldAddF32 : Layout := [(8, some 0x17), (6, none), (6, none), (12, some 0x400)]
/-- `WFOLD_MIN_F32` (R215). -/
def wfoldMinF32 : Layout := [(8, some 0x17), (6, none), (6, none), (12, some 0x440)]
/-- `WFOLD_MAX_F32` (R215). -/
def wfoldMaxF32 : Layout := [(8, some 0x17), (6, none), (6, none), (12, some 0x480)]
/-- `BRA` (R218). -/
def bra : Layout := [(10, some 0x19), (22, none)]
/-- `BR` (R218). -/
def br : Layout := [(10, some 0x99), (3, none), (1, none), (3, none), (15, none)]
/-- `BRK` (R218). -/
def brk : Layout := [(10, some 0x119), (3, none), (1, none), (3, none), (15, none)]
/-- `JMPT` (R219). -/
def jmpt : Layout := [(10, some 0x1b), (6, none), (3, none), (13, none)]
/-- `CALL` (R220). -/
def call : Layout := [(10, some 0x9b), (22, none)]
/-- `CALLT` (R219). -/
def callt : Layout := [(10, some 0x11b), (6, none), (3, none), (13, none)]
/-- `RET` (R220). -/
def ret : Layout := [(32, some 0x19b)]
/-- `JOIN` (R43). -/
def joinI : Layout := [(10, some 0x1d), (3, none), (19, some 0x0)]
/-- `EXIT` (R221). -/
def exitI : Layout := [(32, some 0x9d)]
/-- `NOP` (R221). -/
def nop : Layout := [(32, some 0x11d)]
/-- `YIELD` (R221). -/
def yieldI : Layout := [(32, some 0x19d)]
/-- `TRAP` (R221). -/
def trap : Layout := [(10, some 0x21d), (8, none), (14, some 0x0)]
/-- `BREAK` (R221). -/
def breakI : Layout := [(10, some 0x29d), (8, none), (14, some 0x0)]
/-- `ERET` (R384). -/
def eret : Layout := [(32, some 0x31d)]
/-- `LD` (R226). -/
def ld : Layout := [(7, some 0x1f), (1, none), (6, none), (6, none), (3, none), (4, none), (5, none)]
/-- `LD_LAST` (R227). -/
def ldLast : Layout := [(7, some 0x1f), (1, none), (6, none), (6, none), (3, none), (4, some 0xb), (5, none)]
/-- `PREF` (R227). -/
def pref : Layout := [(8, some 0x1f), (6, none), (6, none), (7, some 0x7), (5, none)]
/-- `ST` (R226). -/
def st : Layout := [(8, some 0x21), (6, none), (6, none), (3, none), (4, none), (5, none)]
/-- `LDK` (R228). -/
def ldk : Layout := [(7, some 0x23), (1, none), (6, none), (5, none), (1, some 0x0), (3, none), (4, none), (5, none)]
/-- `STK` (R228). -/
def stk : Layout := [(8, some 0x23), (6, none), (5, none), (1, some 0x1), (3, none), (4, none), (5, none)]
/-- `SPOP` (R230). -/
def spop : Layout := [(8, some 0x23), (6, none), (18, some 0x1c0)]
/-- `SPUSH` (R230). -/
def spush : Layout := [(8, some 0x23), (6, none), (18, some 0x1e0)]
/-- `LDL` (R229). -/
def ldl : Layout := [(7, some 0x25), (1, none), (6, none), (5, none), (1, some 0x0), (3, none), (4, none), (5, none)]
/-- `STL` (R229). -/
def stl : Layout := [(8, some 0x25), (6, none), (5, none), (1, some 0x1), (3, none), (4, none), (5, none)]
/-- `ATOM` (R233). -/
def atom : Layout := [(7, some 0x27), (1, none), (6, none), (6, none), (5, none), (5, none), (2, some 0x0)]
/-- `RED` (R233). -/
def red : Layout := [(8, some 0x27), (6, none), (6, none), (5, none), (5, none), (2, some 0x1)]
/-- `ATOML` (R233). -/
def atoml : Layout := [(7, some 0x27), (1, none), (6, none), (6, none), (5, none), (5, none), (2, some 0x2)]
/-- `REDL` (R233). -/
def redl : Layout := [(8, some 0x27), (6, none), (6, none), (5, none), (5, none), (2, some 0x3)]
/-- `FENCE` (R236). -/
def fence : Layout := [(25, some 0x29), (5, none), (2, some 0x0)]
/-- `BAR` (R238). -/
def bar : Layout := [(8, some 0x2b), (4, none), (20, some 0x0)]
/-- `BARX` (R240). -/
def barx : Layout := [(8, some 0x2b), (6, none), (5, none), (6, some 0x3), (5, none), (2, some 0x0)]
/-- `SEMWAIT` (R243). -/
def semwait : Layout := [(8, some 0x2b), (6, none), (5, none), (6, some 0x5), (5, none), (2, some 0x0)]
/-- `SEMSIG` (R243). -/
def semsig : Layout := [(8, some 0x2b), (6, none), (5, none), (6, some 0x7), (5, none), (2, some 0x0)]
/-- `SEMTK` (R243). -/
def semtk : Layout := [(7, some 0x2b), (1, none), (6, none), (5, none), (6, some 0x9), (5, none), (2, some 0x0)]
/-- `SEMRD` (R243). -/
def semrd : Layout := [(7, some 0x2b), (1, none), (6, none), (5, none), (6, some 0xb), (5, none), (2, some 0x0)]
/-- `BCOPY` (R254). -/
def bcopy : Layout := [(7, some 0x2d), (1, none), (3, none), (3, some 0x0), (3, none), (15, some 0x0)]
/-- `BCOPYT` (R255). -/
def bcopyt : Layout := [(7, some 0x2d), (1, none), (3, none), (3, some 0x1), (3, none), (6, none), (9, some 0x0)]
/-- `BCOPYO` (R255). -/
def bcopyo : Layout := [(7, some 0x2d), (1, none), (3, none), (3, some 0x2), (3, none), (6, none), (9, some 0x0)]
/-- `TDEF` (R257). -/
def tdef : Layout := [(8, some 0x2d), (3, none), (6, some 0x3), (6, none), (5, none), (4, some 0x0)]
/-- `TREL` (R257). -/
def trel : Layout := [(8, some 0x2d), (3, none), (6, some 0x4), (6, none), (9, some 0x0)]
/-- `TSTATE` (R257). -/
def tstate : Layout := [(8, some 0x2d), (3, none), (6, some 0x5), (6, none), (5, none), (4, some 0x0)]
/-- `GANG` (R258). -/
def gang : Layout := [(8, some 0x2d), (3, none), (3, some 0x6), (3, none), (6, none), (3, none), (6, some 0x0)]
/-- `MMA` (R262). -/
def mma : Layout := [(7, some 0x2f), (1, none), (3, none), (3, some 0x0), (3, none), (1, none), (3, none), (6, none), (3, none), (1, none), (1, none)]
/-- `MMA_X` (R260). -/
def mmaX : Layout := [(7, some 0x2f), (1, none), (3, none), (3, some 0x1), (3, none), (1, none), (3, none), (6, none), (3, none), (1, none), (1, none)]
/-- `MMAQ` (R264). -/
def mmaq : Layout := [(7, some 0x2f), (1, none), (3, none), (3, some 0x2), (3, none), (1, none), (3, none), (6, none), (3, none), (1, none), (1, none)]
/-- `ZCLR` (R266). -/
def zclr : Layout := [(8, some 0x2f), (3, none), (3, some 0x3), (5, none), (5, none), (8, some 0x0)]
/-- `ZLD` (R266). -/
def zld : Layout := [(7, some 0x2f), (1, none), (3, none), (3, some 0x4), (5, none), (5, none), (8, some 0x0)]
/-- `ZST` (R266). -/
def zst : Layout := [(7, some 0x2f), (1, none), (3, none), (3, some 0x5), (5, none), (5, none), (8, some 0x0)]
/-- `ZEPI` (R267). -/
def zepi : Layout := [(7, some 0x2f), (1, none), (3, none), (3, some 0x6), (5, none), (3, some 0x0), (5, none), (3, none), (2, none)]
/-- `ZEPI_ROUTE` (R276). -/
def zepiRoute : Layout := [(7, some 0x2f), (1, none), (3, none), (3, some 0x6), (5, none), (2, none), (1, some 0x1), (5, none), (3, none), (2, none)]
/-- `ZMOV_TO_V` (R266). -/
def zmovToV : Layout := [(7, some 0x2f), (1, none), (3, none), (3, some 0x7), (5, none), (2, none), (4, none), (7, some 0x0)]
/-- `ZMOV_TO_Z` (R266). -/
def zmovToZ : Layout := [(7, some 0x2f), (1, none), (3, none), (3, some 0x7), (5, none), (2, none), (4, none), (7, some 0x1)]
/-- `ROWACT` (R115). -/
def rowact : Layout := [(7, some 0x31), (1, none), (3, none), (3, some 0x0), (2, none), (5, none), (3, none), (1, none), (7, some 0x0)]
/-- `ROWCON` (R270). -/
def rowcon : Layout := [(7, some 0x31), (1, none), (3, none), (3, some 0x1), (2, none), (6, none), (3, none), (1, none), (6, some 0x0)]
/-- `ROWPUT` (R270). -/
def rowput : Layout := [(7, some 0x31), (1, none), (3, none), (3, some 0x2), (2, none), (6, none), (3, none), (1, none), (6, some 0x0)]
/-- `ROWPRE` (R116). -/
def rowpre : Layout := [(8, some 0x31), (3, none), (3, some 0x3), (2, none), (3, none), (1, none), (12, some 0x0)]
/-- `ROWQ` (R270). -/
def rowq : Layout := [(8, some 0x31), (3, none), (3, some 0x4), (2, none), (6, none), (10, some 0x0)]
/-- `CPOST` (R273). -/
def cpost : Layout := [(8, some 0x33), (3, none), (3, some 0x0), (3, none), (8, none), (3, none), (4, some 0x0)]
/-- `CCTR` (R275). -/
def cctr : Layout := [(8, some 0x33), (3, none), (3, some 0x1), (10, none), (6, none), (1, none), (1, some 0x0)]
/-- `CCTR_SET` (R275). -/
def cctrSet : Layout := [(8, some 0x33), (3, none), (3, some 0x1), (10, none), (6, none), (2, some 0x2)]
/-- `CWAIT` (R275). -/
def cwait : Layout := [(8, some 0x33), (3, none), (3, some 0x2), (10, none), (6, none), (2, some 0x0)]
/-- `EROUTE` (R276). -/
def eroute : Layout := [(8, some 0x33), (3, none), (3, some 0x3), (2, none), (3, none), (13, some 0x0)]
/-- `LAUNCH` (R32). -/
def launch : Layout := [(7, some 0x35), (1, none), (3, none), (3, some 0x0), (3, none), (5, none), (10, some 0x0)]
/-- `GWAIT` (R282). -/
def gwait : Layout := [(8, some 0x35), (3, none), (3, some 0x1), (6, none), (6, none), (6, some 0x0)]
/-- `QLAUNCH` (R283). -/
def qlaunch : Layout := [(8, some 0x35), (3, none), (3, some 0x2), (4, none), (3, none), (11, some 0x0)]
/-- `QCOPY` (R283). -/
def qcopy : Layout := [(8, some 0x35), (3, none), (3, some 0x3), (4, none), (3, none), (11, some 0x0)]
/-- `QSEMW` (R283). -/
def qsemw : Layout := [(8, some 0x35), (3, none), (3, some 0x4), (4, none), (5, none), (6, none), (3, some 0x0)]
/-- `QSEMS` (R283). -/
def qsems : Layout := [(8, some 0x35), (3, none), (3, some 0x5), (4, none), (5, none), (6, none), (3, some 0x0)]
/-- `QIRQ` (R283). -/
def qirq : Layout := [(8, some 0x35), (3, none), (3, some 0x6), (4, none), (8, none), (6, some 0x0)]
/-- `QSWAP` (R339). -/
def qswap : Layout := [(8, some 0x35), (3, none), (3, some 0x7), (1, none), (17, some 0x0)]
/-- `PHASE` (R285). -/
def phase : Layout := [(14, some 0x37), (6, none), (12, some 0x0)]
/-- `PERF` (R285). -/
def perf : Layout := [(14, some 0x37), (6, none), (12, some 0x40)]
/-- `TOKQ` (R286). -/
def tokq : Layout := [(7, some 0x37), (1, none), (6, none), (6, none), (12, some 0x80)]
/-- `CAPQ` (R310). -/
def capq : Layout := [(7, some 0x37), (1, none), (6, none), (18, some 0x3000)]
/-- `TIME_REF` (R284). -/
def timeRef : Layout := [(7, some 0x37), (1, none), (6, none), (18, some 0x4000)]
/-- `TIME_CYC` (R284). -/
def timeCyc : Layout := [(7, some 0x37), (1, none), (6, none), (18, some 0x5000)]
/-- `RNG` (R287). -/
def rng : Layout := [(7, some 0x37), (1, none), (6, none), (6, none), (6, none), (6, some 0x6)]
/-- `MFSR` (R346). -/
def mfsr : Layout := [(10, some 0x39), (6, none), (16, none)]
/-- `MTSR` (R346). -/
def mtsr : Layout := [(10, some 0xb9), (6, none), (16, none)]
/-- `CTXFL` (R347). -/
def ctxfl : Layout := [(10, some 0x139), (6, none), (2, none), (1, none), (13, some 0x0)]
/-- `TLBI_CTX` (R348). -/
def tlbiCtx : Layout := [(10, some 0x1b9), (6, none), (16, some 0x0)]
/-- `TLBI_PAGE` (R348). -/
def tlbiPage : Layout := [(10, some 0x1b9), (6, none), (16, some 0x1)]
/-- `PARK` (R347). -/
def park : Layout := [(10, some 0x239), (6, none), (2, none), (14, some 0x0)]
/-- `UNPARK` (R347). -/
def unpark : Layout := [(10, some 0x2b9), (6, none), (2, none), (1, none), (13, some 0x0)]
/-- `HALTC` (R349). -/
def haltc : Layout := [(16, some 0x339), (1, none), (15, some 0x0)]
end Layout

/-- The 16-bit forms (R156), the rows that fix more bits first. -/
def rowsShort : List DecodeRow := [
  (Layout.shli16, fun fs => match fs with | [d, i] => some (.shli16 (.ofNat 5 d) (.ofNat 5 i)) | _ => none),
  (Layout.shri16, fun fs => match fs with | [d, i] => some (.shri16 (.ofNat 5 d) (.ofNat 5 i)) | _ => none),
  (Layout.sari16, fun fs => match fs with | [d, i] => some (.sari16 (.ofNat 5 d) (.ofNat 5 i)) | _ => none),
  (Layout.mov16, fun fs => match fs with | [d, b] => some (.mov16 (.ofNat 5 d) (.ofNat 6 b)) | _ => none),
  (Layout.movi16, fun fs => match fs with | [d, i] => some (.movi16 (.ofNat 5 d) (.ofNat 6 i)) | _ => none),
  (Layout.iadd16, fun fs => match fs with | [d, b] => some (.iadd16 (.ofNat 5 d) (.ofNat 6 b)) | _ => none),
  (Layout.iaddi16, fun fs => match fs with | [d, i] => some (.iaddi16 (.ofNat 5 d) (.ofNat 6 i)) | _ => none),
  (Layout.isub16, fun fs => match fs with | [d, b] => some (.isub16 (.ofNat 5 d) (.ofNat 6 b)) | _ => none),
  (Layout.and16, fun fs => match fs with | [d, b] => some (.and16 (.ofNat 5 d) (.ofNat 6 b)) | _ => none),
  (Layout.or16, fun fs => match fs with | [d, b] => some (.or16 (.ofNat 5 d) (.ofNat 6 b)) | _ => none),
  (Layout.xor16, fun fs => match fs with | [d, b] => some (.xor16 (.ofNat 5 d) (.ofNat 6 b)) | _ => none),
  (Layout.fadd16, fun fs => match fs with | [d, b] => some (.fadd16 (.ofNat 5 d) (.ofNat 6 b)) | _ => none),
  (Layout.fsub16, fun fs => match fs with | [d, b] => some (.fsub16 (.ofNat 5 d) (.ofNat 6 b)) | _ => none),
  (Layout.fmul16, fun fs => match fs with | [d, b] => some (.fmul16 (.ofNat 5 d) (.ofNat 6 b)) | _ => none),
  (Layout.fmax16, fun fs => match fs with | [d, b] => some (.fmax16 (.ofNat 5 d) (.ofNat 6 b)) | _ => none),
  (Layout.fmin16, fun fs => match fs with | [d, b] => some (.fmin16 (.ofNat 5 d) (.ofNat 6 b)) | _ => none)]

/-- Major 0x01 (R167), the rows that fix more bits first. -/
def rowsInteger0 : List DecodeRow := [
  (Layout.ineg, fun fs => match fs with | [u, d, a] => some (.ineg (.ofNat 1 u) (.ofNat 6 d) (.ofNat 6 a)) | _ => none),
  (Layout.inegSat, fun fs => match fs with | [u, d, a] => some (.inegSat (.ofNat 1 u) (.ofNat 6 d) (.ofNat 6 a)) | _ => none),
  (Layout.iabs, fun fs => match fs with | [u, d, a] => some (.iabs (.ofNat 1 u) (.ofNat 6 d) (.ofNat 6 a)) | _ => none),
  (Layout.iabsSat, fun fs => match fs with | [u, d, a] => some (.iabsSat (.ofNat 1 u) (.ofNat 6 d) (.ofNat 6 a)) | _ => none),
  (Layout.notI, fun fs => match fs with | [u, d, a] => some (.notI (.ofNat 1 u) (.ofNat 6 d) (.ofNat 6 a)) | _ => none),
  (Layout.iadd, fun fs => match fs with | [u, d, a, b] => some (.iadd (.ofNat 1 u) (.ofNat 6 d) (.ofNat 6 a) (.ofNat 6 b)) | _ => none),
  (Layout.iaddSatI32, fun fs => match fs with | [u, d, a, b] => some (.iaddSatI32 (.ofNat 1 u) (.ofNat 6 d) (.ofNat 6 a) (.ofNat 6 b)) | _ => none),
  (Layout.iaddSatN32, fun fs => match fs with | [u, d, a, b] => some (.iaddSatN32 (.ofNat 1 u) (.ofNat 6 d) (.ofNat 6 a) (.ofNat 6 b)) | _ => none),
  (Layout.iaddc, fun fs => match fs with | [u, d, a, b] => some (.iaddc (.ofNat 1 u) (.ofNat 6 d) (.ofNat 6 a) (.ofNat 6 b)) | _ => none),
  (Layout.isub, fun fs => match fs with | [u, d, a, b] => some (.isub (.ofNat 1 u) (.ofNat 6 d) (.ofNat 6 a) (.ofNat 6 b)) | _ => none),
  (Layout.isubSatI32, fun fs => match fs with | [u, d, a, b] => some (.isubSatI32 (.ofNat 1 u) (.ofNat 6 d) (.ofNat 6 a) (.ofNat 6 b)) | _ => none),
  (Layout.isubSatN32, fun fs => match fs with | [u, d, a, b] => some (.isubSatN32 (.ofNat 1 u) (.ofNat 6 d) (.ofNat 6 a) (.ofNat 6 b)) | _ => none),
  (Layout.isubb, fun fs => match fs with | [u, d, a, b] => some (.isubb (.ofNat 1 u) (.ofNat 6 d) (.ofNat 6 a) (.ofNat 6 b)) | _ => none),
  (Layout.iminI32, fun fs => match fs with | [u, d, a, b] => some (.iminI32 (.ofNat 1 u) (.ofNat 6 d) (.ofNat 6 a) (.ofNat 6 b)) | _ => none),
  (Layout.iminN32, fun fs => match fs with | [u, d, a, b] => some (.iminN32 (.ofNat 1 u) (.ofNat 6 d) (.ofNat 6 a) (.ofNat 6 b)) | _ => none),
  (Layout.imaxI32, fun fs => match fs with | [u, d, a, b] => some (.imaxI32 (.ofNat 1 u) (.ofNat 6 d) (.ofNat 6 a) (.ofNat 6 b)) | _ => none)]
/-- More rows of `rowsInteger`. -/
def rowsInteger1 : List DecodeRow := [
  (Layout.imaxN32, fun fs => match fs with | [u, d, a, b] => some (.imaxN32 (.ofNat 1 u) (.ofNat 6 d) (.ofNat 6 a) (.ofNat 6 b)) | _ => none),
  (Layout.andI, fun fs => match fs with | [u, d, a, b] => some (.andI (.ofNat 1 u) (.ofNat 6 d) (.ofNat 6 a) (.ofNat 6 b)) | _ => none),
  (Layout.orI, fun fs => match fs with | [u, d, a, b] => some (.orI (.ofNat 1 u) (.ofNat 6 d) (.ofNat 6 a) (.ofNat 6 b)) | _ => none),
  (Layout.xorI, fun fs => match fs with | [u, d, a, b] => some (.xorI (.ofNat 1 u) (.ofNat 6 d) (.ofNat 6 a) (.ofNat 6 b)) | _ => none),
  (Layout.andn, fun fs => match fs with | [u, d, a, b] => some (.andn (.ofNat 1 u) (.ofNat 6 d) (.ofNat 6 a) (.ofNat 6 b)) | _ => none),
  (Layout.shl, fun fs => match fs with | [u, d, a, b] => some (.shl (.ofNat 1 u) (.ofNat 6 d) (.ofNat 6 a) (.ofNat 6 b)) | _ => none),
  (Layout.shr, fun fs => match fs with | [u, d, a, b] => some (.shr (.ofNat 1 u) (.ofNat 6 d) (.ofNat 6 a) (.ofNat 6 b)) | _ => none),
  (Layout.sar, fun fs => match fs with | [u, d, a, b] => some (.sar (.ofNat 1 u) (.ofNat 6 d) (.ofNat 6 a) (.ofNat 6 b)) | _ => none),
  (Layout.rotl, fun fs => match fs with | [u, d, a, b] => some (.rotl (.ofNat 1 u) (.ofNat 6 d) (.ofNat 6 a) (.ofNat 6 b)) | _ => none),
  (Layout.iadd64, fun fs => match fs with | [u, d, a, b] => some (.iadd64 (.ofNat 1 u) (.ofNat 6 d) (.ofNat 6 a) (.ofNat 6 b)) | _ => none),
  (Layout.trilog, fun fs => match fs with | [z, d, y, a, x, b, w, t] => some (.trilog (.ofNat 1 z) (.ofNat 5 d) (.ofNat 1 y) (.ofNat 5 a) (.ofNat 1 x) (.ofNat 5 b) (.ofNat 1 w) (.ofNat 4 t)) | _ => none)]
/-- All the rows of the group. -/
def rowsInteger : List DecodeRow := rowsInteger0 ++ rowsInteger1

/-- Major 0x02 (R167), the rows that fix more bits first. -/
def rowsIntegerImm : List DecodeRow := [
  (Layout.shlImm, fun fs => match fs with | [u, d, a, i] => some (.shlImm (.ofNat 1 u) (.ofNat 6 d) (.ofNat 6 a) (.ofNat 5 i)) | _ => none),
  (Layout.shrImm, fun fs => match fs with | [u, d, a, i] => some (.shrImm (.ofNat 1 u) (.ofNat 6 d) (.ofNat 6 a) (.ofNat 5 i)) | _ => none),
  (Layout.sarImm, fun fs => match fs with | [u, d, a, i] => some (.sarImm (.ofNat 1 u) (.ofNat 6 d) (.ofNat 6 a) (.ofNat 5 i)) | _ => none),
  (Layout.rotlImm, fun fs => match fs with | [u, d, a, i] => some (.rotlImm (.ofNat 1 u) (.ofNat 6 d) (.ofNat 6 a) (.ofNat 5 i)) | _ => none),
  (Layout.iaddImm, fun fs => match fs with | [u, d, a, i] => some (.iaddImm (.ofNat 1 u) (.ofNat 6 d) (.ofNat 6 a) (.ofNat 9 i)) | _ => none),
  (Layout.andImm, fun fs => match fs with | [u, d, a, i] => some (.andImm (.ofNat 1 u) (.ofNat 6 d) (.ofNat 6 a) (.ofNat 9 i)) | _ => none),
  (Layout.orImm, fun fs => match fs with | [u, d, a, i] => some (.orImm (.ofNat 1 u) (.ofNat 6 d) (.ofNat 6 a) (.ofNat 9 i)) | _ => none),
  (Layout.xorImm, fun fs => match fs with | [u, d, a, i] => some (.xorImm (.ofNat 1 u) (.ofNat 6 d) (.ofNat 6 a) (.ofNat 9 i)) | _ => none)]

/-- Major 0x03 (R167), the rows that fix more bits first. -/
def rowsMultiply : List DecodeRow := [
  (Layout.imul, fun fs => match fs with | [u, d, a, b] => some (.imul (.ofNat 1 u) (.ofNat 5 d) (.ofNat 5 a) (.ofNat 5 b)) | _ => none),
  (Layout.imulhI32, fun fs => match fs with | [u, d, a, b] => some (.imulhI32 (.ofNat 1 u) (.ofNat 5 d) (.ofNat 5 a) (.ofNat 5 b)) | _ => none),
  (Layout.imulhN32, fun fs => match fs with | [u, d, a, b] => some (.imulhN32 (.ofNat 1 u) (.ofNat 5 d) (.ofNat 5 a) (.ofNat 5 b)) | _ => none),
  (Layout.imad, fun fs => match fs with | [u, d, a, b, c] => some (.imad (.ofNat 1 u) (.ofNat 5 d) (.ofNat 5 a) (.ofNat 5 b) (.ofNat 5 c)) | _ => none),
  (Layout.imadwI32, fun fs => match fs with | [u, d, a, b, c] => some (.imadwI32 (.ofNat 1 u) (.ofNat 5 d) (.ofNat 5 a) (.ofNat 5 b) (.ofNat 5 c)) | _ => none),
  (Layout.imadwN32, fun fs => match fs with | [u, d, a, b, c] => some (.imadwN32 (.ofNat 1 u) (.ofNat 5 d) (.ofNat 5 a) (.ofNat 5 b) (.ofNat 5 c)) | _ => none),
  (Layout.isad, fun fs => match fs with | [u, d, a, b, c] => some (.isad (.ofNat 1 u) (.ofNat 5 d) (.ofNat 5 a) (.ofNat 5 b) (.ofNat 5 c)) | _ => none)]

/-- Major 0x04 (R167), the rows that fix more bits first. -/
def rowsBitField : List DecodeRow := [
  (Layout.popc, fun fs => match fs with | [u, d, a] => some (.popc (.ofNat 1 u) (.ofNat 5 d) (.ofNat 5 a)) | _ => none),
  (Layout.clz, fun fs => match fs with | [u, d, a] => some (.clz (.ofNat 1 u) (.ofNat 5 d) (.ofNat 5 a)) | _ => none),
  (Layout.ctz, fun fs => match fs with | [u, d, a] => some (.ctz (.ofNat 1 u) (.ofNat 5 d) (.ofNat 5 a)) | _ => none),
  (Layout.brev, fun fs => match fs with | [u, d, a] => some (.brev (.ofNat 1 u) (.ofNat 5 d) (.ofNat 5 a)) | _ => none),
  (Layout.bfxN32, fun fs => match fs with | [u, d, a, b] => some (.bfxN32 (.ofNat 1 u) (.ofNat 5 d) (.ofNat 5 a) (.ofNat 5 b)) | _ => none),
  (Layout.bfxI32, fun fs => match fs with | [u, d, a, b] => some (.bfxI32 (.ofNat 1 u) (.ofNat 5 d) (.ofNat 5 a) (.ofNat 5 b)) | _ => none),
  (Layout.bfi, fun fs => match fs with | [u, d, a, b, c] => some (.bfi (.ofNat 1 u) (.ofNat 5 d) (.ofNat 5 a) (.ofNat 5 b) (.ofNat 5 c)) | _ => none),
  (Layout.shfL, fun fs => match fs with | [u, d, a, b, c] => some (.shfL (.ofNat 1 u) (.ofNat 5 d) (.ofNat 5 a) (.ofNat 5 b) (.ofNat 5 c)) | _ => none),
  (Layout.shfR, fun fs => match fs with | [u, d, a, b, c] => some (.shfR (.ofNat 1 u) (.ofNat 5 d) (.ofNat 5 a) (.ofNat 5 b) (.ofNat 5 c)) | _ => none)]

/-- Major 0x05 (R167), the rows that fix more bits first. -/
noncomputable def rowsCompare0 : List DecodeRow := [
  (Layout.plogAnd, fun fs => match fs with | [d, a, b] => some (.plogAnd (.ofNat 3 d) (.ofNat 3 a) (.ofNat 3 b)) | _ => none),
  (Layout.plogOr, fun fs => match fs with | [d, a, b] => some (.plogOr (.ofNat 3 d) (.ofNat 3 a) (.ofNat 3 b)) | _ => none),
  (Layout.plogXor, fun fs => match fs with | [d, a, b] => some (.plogXor (.ofNat 3 d) (.ofNat 3 a) (.ofNat 3 b)) | _ => none),
  (Layout.plogAndn, fun fs => match fs with | [d, a, b] => some (.plogAndn (.ofNat 3 d) (.ofNat 3 a) (.ofNat 3 b)) | _ => none),
  (Layout.plogOrn, fun fs => match fs with | [d, a, b] => some (.plogOrn (.ofNat 3 d) (.ofNat 3 a) (.ofNat 3 b)) | _ => none),
  (Layout.plogXnor, fun fs => match fs with | [d, a, b] => some (.plogXnor (.ofNat 3 d) (.ofNat 3 a) (.ofNat 3 b)) | _ => none),
  (Layout.icmpEqI32, fun fs => match fs with | [d, a, b] => some (.icmpEqI32 (.ofNat 3 d) (.ofNat 6 a) (.ofNat 6 b)) | _ => none),
  (Layout.icmpNeI32, fun fs => match fs with | [d, a, b] => some (.icmpNeI32 (.ofNat 3 d) (.ofNat 6 a) (.ofNat 6 b)) | _ => none),
  (Layout.icmpLtI32, fun fs => match fs with | [d, a, b] => some (.icmpLtI32 (.ofNat 3 d) (.ofNat 6 a) (.ofNat 6 b)) | _ => none),
  (Layout.icmpLeI32, fun fs => match fs with | [d, a, b] => some (.icmpLeI32 (.ofNat 3 d) (.ofNat 6 a) (.ofNat 6 b)) | _ => none),
  (Layout.icmpGtI32, fun fs => match fs with | [d, a, b] => some (.icmpGtI32 (.ofNat 3 d) (.ofNat 6 a) (.ofNat 6 b)) | _ => none),
  (Layout.icmpGeI32, fun fs => match fs with | [d, a, b] => some (.icmpGeI32 (.ofNat 3 d) (.ofNat 6 a) (.ofNat 6 b)) | _ => none),
  (Layout.icmpEqN32, fun fs => match fs with | [d, a, b] => some (.icmpEqN32 (.ofNat 3 d) (.ofNat 6 a) (.ofNat 6 b)) | _ => none),
  (Layout.icmpNeN32, fun fs => match fs with | [d, a, b] => some (.icmpNeN32 (.ofNat 3 d) (.ofNat 6 a) (.ofNat 6 b)) | _ => none),
  (Layout.icmpLtN32, fun fs => match fs with | [d, a, b] => some (.icmpLtN32 (.ofNat 3 d) (.ofNat 6 a) (.ofNat 6 b)) | _ => none),
  (Layout.icmpLeN32, fun fs => match fs with | [d, a, b] => some (.icmpLeN32 (.ofNat 3 d) (.ofNat 6 a) (.ofNat 6 b)) | _ => none)]
/-- More rows of `rowsCompare`. -/
noncomputable def rowsCompare1 : List DecodeRow := [
  (Layout.icmpGtN32, fun fs => match fs with | [d, a, b] => some (.icmpGtN32 (.ofNat 3 d) (.ofNat 6 a) (.ofNat 6 b)) | _ => none),
  (Layout.icmpGeN32, fun fs => match fs with | [d, a, b] => some (.icmpGeN32 (.ofNat 3 d) (.ofNat 6 a) (.ofNat 6 b)) | _ => none),
  (Layout.fcmpEq, fun fs => match fs with | [d, a, b] => some (.fcmpEq (.ofNat 3 d) (.ofNat 6 a) (.ofNat 6 b)) | _ => none),
  (Layout.fcmpNe, fun fs => match fs with | [d, a, b] => some (.fcmpNe (.ofNat 3 d) (.ofNat 6 a) (.ofNat 6 b)) | _ => none),
  (Layout.fcmpLt, fun fs => match fs with | [d, a, b] => some (.fcmpLt (.ofNat 3 d) (.ofNat 6 a) (.ofNat 6 b)) | _ => none),
  (Layout.fcmpLe, fun fs => match fs with | [d, a, b] => some (.fcmpLe (.ofNat 3 d) (.ofNat 6 a) (.ofNat 6 b)) | _ => none),
  (Layout.fcmpGt, fun fs => match fs with | [d, a, b] => some (.fcmpGt (.ofNat 3 d) (.ofNat 6 a) (.ofNat 6 b)) | _ => none),
  (Layout.fcmpGe, fun fs => match fs with | [d, a, b] => some (.fcmpGe (.ofNat 3 d) (.ofNat 6 a) (.ofNat 6 b)) | _ => none),
  (Layout.fcmpOrd, fun fs => match fs with | [d, a, b] => some (.fcmpOrd (.ofNat 3 d) (.ofNat 6 a) (.ofNat 6 b)) | _ => none),
  (Layout.fcmpUno, fun fs => match fs with | [d, a, b] => some (.fcmpUno (.ofNat 3 d) (.ofNat 6 a) (.ofNat 6 b)) | _ => none),
  (Layout.sel, fun fs => match fs with | [d, a, b, p] => some (.sel (.ofNat 6 d) (.ofNat 6 a) (.ofNat 6 b) (.ofNat 3 p)) | _ => none)]
/-- All the rows of the group. -/
noncomputable def rowsCompare : List DecodeRow := rowsCompare0 ++ rowsCompare1

/-- Major 0x06 (R167), the rows that fix more bits first. -/
def rowsFp32 : List DecodeRow := [
  (Layout.fclass, fun fs => match fs with | [d, a] => some (.fclass (.ofNat 5 d) (.ofNat 5 a)) | _ => none),
  (Layout.fmin, fun fs => match fs with | [z, d, a, b] => some (.fmin (.ofNat 1 z) (.ofNat 5 d) (.ofNat 5 a) (.ofNat 5 b)) | _ => none),
  (Layout.fmax, fun fs => match fs with | [z, d, a, b] => some (.fmax (.ofNat 1 z) (.ofNat 5 d) (.ofNat 5 a) (.ofNat 5 b)) | _ => none),
  (Layout.frnd, fun fs => match fs with | [z, d, a, r] => some (.frnd (.ofNat 1 z) (.ofNat 5 d) (.ofNat 5 a) (.ofNat 5 r)) | _ => none),
  (Layout.fadd, fun fs => match fs with | [z, d, a, b, r] => some (.fadd (.ofNat 1 z) (.ofNat 5 d) (.ofNat 5 a) (.ofNat 5 b) (.ofNat 5 r)) | _ => none),
  (Layout.fsub, fun fs => match fs with | [z, d, a, b, r] => some (.fsub (.ofNat 1 z) (.ofNat 5 d) (.ofNat 5 a) (.ofNat 5 b) (.ofNat 5 r)) | _ => none),
  (Layout.fmul, fun fs => match fs with | [z, d, a, b, r] => some (.fmul (.ofNat 1 z) (.ofNat 5 d) (.ofNat 5 a) (.ofNat 5 b) (.ofNat 5 r)) | _ => none),
  (Layout.ffmaRn, fun fs => match fs with | [z, d, a, b, c] => some (.ffmaRn (.ofNat 1 z) (.ofNat 5 d) (.ofNat 5 a) (.ofNat 5 b) (.ofNat 5 c)) | _ => none),
  (Layout.ffmaRz, fun fs => match fs with | [z, d, a, b, c] => some (.ffmaRz (.ofNat 1 z) (.ofNat 5 d) (.ofNat 5 a) (.ofNat 5 b) (.ofNat 5 c)) | _ => none),
  (Layout.ffmaRu, fun fs => match fs with | [z, d, a, b, c] => some (.ffmaRu (.ofNat 1 z) (.ofNat 5 d) (.ofNat 5 a) (.ofNat 5 b) (.ofNat 5 c)) | _ => none),
  (Layout.ffmaRd, fun fs => match fs with | [z, d, a, b, c] => some (.ffmaRd (.ofNat 1 z) (.ofNat 5 d) (.ofNat 5 a) (.ofNat 5 b) (.ofNat 5 c)) | _ => none),
  (Layout.fscale, fun fs => match fs with | [z, d, a, b, r] => some (.fscale (.ofNat 1 z) (.ofNat 5 d) (.ofNat 5 a) (.ofNat 5 b) (.ofNat 5 r)) | _ => none)]

/-- Major 0x07 (R167), the rows that fix more bits first. -/
def rowsSpecial : List DecodeRow := [
  (Layout.frcp, fun fs => match fs with | [z, d, a] => some (.frcp (.ofNat 1 z) (.ofNat 6 d) (.ofNat 6 a)) | _ => none),
  (Layout.frsq, fun fs => match fs with | [z, d, a] => some (.frsq (.ofNat 1 z) (.ofNat 6 d) (.ofNat 6 a)) | _ => none),
  (Layout.fsqrt, fun fs => match fs with | [z, d, a] => some (.fsqrt (.ofNat 1 z) (.ofNat 6 d) (.ofNat 6 a)) | _ => none),
  (Layout.fex2, fun fs => match fs with | [z, d, a] => some (.fex2 (.ofNat 1 z) (.ofNat 6 d) (.ofNat 6 a)) | _ => none),
  (Layout.flg2, fun fs => match fs with | [z, d, a] => some (.flg2 (.ofNat 1 z) (.ofNat 6 d) (.ofNat 6 a)) | _ => none),
  (Layout.fsin, fun fs => match fs with | [z, d, a] => some (.fsin (.ofNat 1 z) (.ofNat 6 d) (.ofNat 6 a)) | _ => none),
  (Layout.fcos, fun fs => match fs with | [z, d, a] => some (.fcos (.ofNat 1 z) (.ofNat 6 d) (.ofNat 6 a)) | _ => none),
  (Layout.ftanh, fun fs => match fs with | [z, d, a] => some (.ftanh (.ofNat 1 z) (.ofNat 6 d) (.ofNat 6 a)) | _ => none)]

/-- Major 0x08 (R167), the rows that fix more bits first. -/
noncomputable def rowsConvert0 : List DecodeRow := [
  (Layout.fpkBf16, fun fs => match fs with | [d, a] => some (.fpkBf16 (.ofNat 6 d) (.ofNat 6 a)) | _ => none),
  (Layout.fpkF16, fun fs => match fs with | [d, a] => some (.fpkF16 (.ofNat 6 d) (.ofNat 6 a)) | _ => none),
  (Layout.fpkE4m3, fun fs => match fs with | [d, a] => some (.fpkE4m3 (.ofNat 6 d) (.ofNat 6 a)) | _ => none),
  (Layout.fpkE5m2, fun fs => match fs with | [d, a] => some (.fpkE5m2 (.ofNat 6 d) (.ofNat 6 a)) | _ => none),
  (Layout.f2iI8, fun fs => match fs with | [d, a, r] => some (.f2iI8 (.ofNat 6 d) (.ofNat 6 a) (.ofNat 6 r)) | _ => none),
  (Layout.f2iI16, fun fs => match fs with | [d, a, r] => some (.f2iI16 (.ofNat 6 d) (.ofNat 6 a) (.ofNat 6 r)) | _ => none),
  (Layout.f2iI32, fun fs => match fs with | [d, a, r] => some (.f2iI32 (.ofNat 6 d) (.ofNat 6 a) (.ofNat 6 r)) | _ => none),
  (Layout.f2iN8, fun fs => match fs with | [d, a, r] => some (.f2iN8 (.ofNat 6 d) (.ofNat 6 a) (.ofNat 6 r)) | _ => none),
  (Layout.f2iN16, fun fs => match fs with | [d, a, r] => some (.f2iN16 (.ofNat 6 d) (.ofNat 6 a) (.ofNat 6 r)) | _ => none),
  (Layout.f2iN32, fun fs => match fs with | [d, a, r] => some (.f2iN32 (.ofNat 6 d) (.ofNat 6 a) (.ofNat 6 r)) | _ => none),
  (Layout.i2fI8, fun fs => match fs with | [d, a, r] => some (.i2fI8 (.ofNat 6 d) (.ofNat 6 a) (.ofNat 6 r)) | _ => none),
  (Layout.i2fI16, fun fs => match fs with | [d, a, r] => some (.i2fI16 (.ofNat 6 d) (.ofNat 6 a) (.ofNat 6 r)) | _ => none),
  (Layout.i2fI32, fun fs => match fs with | [d, a, r] => some (.i2fI32 (.ofNat 6 d) (.ofNat 6 a) (.ofNat 6 r)) | _ => none),
  (Layout.i2fN8, fun fs => match fs with | [d, a, r] => some (.i2fN8 (.ofNat 6 d) (.ofNat 6 a) (.ofNat 6 r)) | _ => none),
  (Layout.i2fN16, fun fs => match fs with | [d, a, r] => some (.i2fN16 (.ofNat 6 d) (.ofNat 6 a) (.ofNat 6 r)) | _ => none),
  (Layout.i2fN32, fun fs => match fs with | [d, a, r] => some (.i2fN32 (.ofNat 6 d) (.ofNat 6 a) (.ofNat 6 r)) | _ => none)]
/-- More rows of `rowsConvert`. -/
def rowsConvert1 : List DecodeRow := [
  (Layout.fcvtBf16, fun fs => match fs with | [d, a, r] => some (.fcvtBf16 (.ofNat 6 d) (.ofNat 6 a) (.ofNat 6 r)) | _ => none),
  (Layout.fcvtF16, fun fs => match fs with | [d, a, r] => some (.fcvtF16 (.ofNat 6 d) (.ofNat 6 a) (.ofNat 6 r)) | _ => none),
  (Layout.fcvtE4m3, fun fs => match fs with | [d, a, r] => some (.fcvtE4m3 (.ofNat 6 d) (.ofNat 6 a) (.ofNat 6 r)) | _ => none),
  (Layout.fcvtE5m2, fun fs => match fs with | [d, a, r] => some (.fcvtE5m2 (.ofNat 6 d) (.ofNat 6 a) (.ofNat 6 r)) | _ => none),
  (Layout.fcvtE2m1, fun fs => match fs with | [d, a, r] => some (.fcvtE2m1 (.ofNat 6 d) (.ofNat 6 a) (.ofNat 6 r)) | _ => none),
  (Layout.fcvtSrBf16, fun fs => match fs with | [d, a, b] => some (.fcvtSrBf16 (.ofNat 6 d) (.ofNat 6 a) (.ofNat 6 b)) | _ => none),
  (Layout.fcvtSrF16, fun fs => match fs with | [d, a, b] => some (.fcvtSrF16 (.ofNat 6 d) (.ofNat 6 a) (.ofNat 6 b)) | _ => none),
  (Layout.fcvtSrE4m3, fun fs => match fs with | [d, a, b] => some (.fcvtSrE4m3 (.ofNat 6 d) (.ofNat 6 a) (.ofNat 6 b)) | _ => none),
  (Layout.fcvtSrE5m2, fun fs => match fs with | [d, a, b] => some (.fcvtSrE5m2 (.ofNat 6 d) (.ofNat 6 a) (.ofNat 6 b)) | _ => none),
  (Layout.fcvtSrE2m1, fun fs => match fs with | [d, a, b] => some (.fcvtSrE2m1 (.ofNat 6 d) (.ofNat 6 a) (.ofNat 6 b)) | _ => none),
  (Layout.fpkSrBf16, fun fs => match fs with | [d, a, b] => some (.fpkSrBf16 (.ofNat 6 d) (.ofNat 6 a) (.ofNat 6 b)) | _ => none),
  (Layout.fpkSrF16, fun fs => match fs with | [d, a, b] => some (.fpkSrF16 (.ofNat 6 d) (.ofNat 6 a) (.ofNat 6 b)) | _ => none),
  (Layout.fpkSrE4m3, fun fs => match fs with | [d, a, b] => some (.fpkSrE4m3 (.ofNat 6 d) (.ofNat 6 a) (.ofNat 6 b)) | _ => none),
  (Layout.fpkSrE5m2, fun fs => match fs with | [d, a, b] => some (.fpkSrE5m2 (.ofNat 6 d) (.ofNat 6 a) (.ofNat 6 b)) | _ => none),
  (Layout.funpkBf16, fun fs => match fs with | [d, a, j] => some (.funpkBf16 (.ofNat 6 d) (.ofNat 6 a) (.ofNat 6 j)) | _ => none),
  (Layout.funpkF16, fun fs => match fs with | [d, a, j] => some (.funpkF16 (.ofNat 6 d) (.ofNat 6 a) (.ofNat 6 j)) | _ => none)]
/-- More rows of `rowsConvert`. -/
def rowsConvert2 : List DecodeRow := [
  (Layout.funpkE4m3, fun fs => match fs with | [d, a, j] => some (.funpkE4m3 (.ofNat 6 d) (.ofNat 6 a) (.ofNat 6 j)) | _ => none),
  (Layout.funpkE5m2, fun fs => match fs with | [d, a, j] => some (.funpkE5m2 (.ofNat 6 d) (.ofNat 6 a) (.ofNat 6 j)) | _ => none),
  (Layout.funpkE2m1, fun fs => match fs with | [d, a, j] => some (.funpkE2m1 (.ofNat 6 d) (.ofNat 6 a) (.ofNat 6 j)) | _ => none),
  (Layout.i2iI8, fun fs => match fs with | [d, a, y, x] => some (.i2iI8 (.ofNat 6 d) (.ofNat 6 a) (.ofNat 6 y) (.ofNat 1 x)) | _ => none),
  (Layout.i2iI16, fun fs => match fs with | [d, a, y, x] => some (.i2iI16 (.ofNat 6 d) (.ofNat 6 a) (.ofNat 6 y) (.ofNat 1 x)) | _ => none),
  (Layout.i2iI32, fun fs => match fs with | [d, a, y, x] => some (.i2iI32 (.ofNat 6 d) (.ofNat 6 a) (.ofNat 6 y) (.ofNat 1 x)) | _ => none),
  (Layout.i2iN8, fun fs => match fs with | [d, a, y, x] => some (.i2iN8 (.ofNat 6 d) (.ofNat 6 a) (.ofNat 6 y) (.ofNat 1 x)) | _ => none),
  (Layout.i2iN16, fun fs => match fs with | [d, a, y, x] => some (.i2iN16 (.ofNat 6 d) (.ofNat 6 a) (.ofNat 6 y) (.ofNat 1 x)) | _ => none),
  (Layout.i2iN32, fun fs => match fs with | [d, a, y, x] => some (.i2iN32 (.ofNat 6 d) (.ofNat 6 a) (.ofNat 6 y) (.ofNat 1 x)) | _ => none)]
/-- All the rows of the group. -/
noncomputable def rowsConvert : List DecodeRow := rowsConvert0 ++ rowsConvert1 ++ rowsConvert2

/-- Major 0x09 (R167), the rows that fix more bits first. -/
def rowsPacked : List DecodeRow := [
  (Layout.hadd2Bf16, fun fs => match fs with | [d, a, b] => some (.hadd2Bf16 (.ofNat 5 d) (.ofNat 5 a) (.ofNat 5 b)) | _ => none),
  (Layout.hadd2F16, fun fs => match fs with | [d, a, b] => some (.hadd2F16 (.ofNat 5 d) (.ofNat 5 a) (.ofNat 5 b)) | _ => none),
  (Layout.hmul2Bf16, fun fs => match fs with | [d, a, b] => some (.hmul2Bf16 (.ofNat 5 d) (.ofNat 5 a) (.ofNat 5 b)) | _ => none),
  (Layout.hmul2F16, fun fs => match fs with | [d, a, b] => some (.hmul2F16 (.ofNat 5 d) (.ofNat 5 a) (.ofNat 5 b)) | _ => none),
  (Layout.hmax2Bf16, fun fs => match fs with | [d, a, b] => some (.hmax2Bf16 (.ofNat 5 d) (.ofNat 5 a) (.ofNat 5 b)) | _ => none),
  (Layout.hmax2F16, fun fs => match fs with | [d, a, b] => some (.hmax2F16 (.ofNat 5 d) (.ofNat 5 a) (.ofNat 5 b)) | _ => none),
  (Layout.dot4i8, fun fs => match fs with | [d, a, b, c] => some (.dot4i8 (.ofNat 5 d) (.ofNat 5 a) (.ofNat 5 b) (.ofNat 5 c)) | _ => none),
  (Layout.dot4i8Sat, fun fs => match fs with | [d, a, b, c] => some (.dot4i8Sat (.ofNat 5 d) (.ofNat 5 a) (.ofNat 5 b) (.ofNat 5 c)) | _ => none),
  (Layout.dot8i4, fun fs => match fs with | [d, a, b, c] => some (.dot8i4 (.ofNat 5 d) (.ofNat 5 a) (.ofNat 5 b) (.ofNat 5 c)) | _ => none),
  (Layout.dot8i4Sat, fun fs => match fs with | [d, a, b, c] => some (.dot8i4Sat (.ofNat 5 d) (.ofNat 5 a) (.ofNat 5 b) (.ofNat 5 c)) | _ => none),
  (Layout.dot4f8E4m3, fun fs => match fs with | [d, a, b, c] => some (.dot4f8E4m3 (.ofNat 5 d) (.ofNat 5 a) (.ofNat 5 b) (.ofNat 5 c)) | _ => none),
  (Layout.dot4f8E5m2, fun fs => match fs with | [d, a, b, c] => some (.dot4f8E5m2 (.ofNat 5 d) (.ofNat 5 a) (.ofNat 5 b) (.ofNat 5 c)) | _ => none),
  (Layout.hfma2Bf16, fun fs => match fs with | [d, a, b, c] => some (.hfma2Bf16 (.ofNat 5 d) (.ofNat 5 a) (.ofNat 5 b) (.ofNat 5 c)) | _ => none),
  (Layout.hfma2F16, fun fs => match fs with | [d, a, b, c] => some (.hfma2F16 (.ofNat 5 d) (.ofNat 5 a) (.ofNat 5 b) (.ofNat 5 c)) | _ => none)]

/-- Major 0x0A (R167), the rows that fix more bits first. -/
def rowsMove : List DecodeRow := [
  (Layout.movkVK, fun fs => match fs with | [d, s] => some (.movkVK (.ofNat 6 d) (.ofNat 6 s)) | _ => none),
  (Layout.movkKV, fun fs => match fs with | [d, s] => some (.movkKV (.ofNat 6 d) (.ofNat 6 s)) | _ => none),
  (Layout.movkKS, fun fs => match fs with | [d, s] => some (.movkKS (.ofNat 6 d) (.ofNat 6 s)) | _ => none),
  (Layout.movkSK, fun fs => match fs with | [d, s] => some (.movkSK (.ofNat 6 d) (.ofNat 6 s)) | _ => none),
  (Layout.movs, fun fs => match fs with | [d, c, k] => some (.movs (.ofNat 6 d) (.ofNat 8 c) (.ofNat 1 k)) | _ => none),
  (Layout.mov, fun fs => match fs with | [d, s] => some (.mov (.ofNat 8 d) (.ofNat 8 s)) | _ => none),
  (Layout.movi, fun fs => match fs with | [d, i] => some (.movi (.ofNat 6 d) (.ofNat 16 i)) | _ => none),
  (Layout.movih, fun fs => match fs with | [d, i] => some (.movih (.ofNat 6 d) (.ofNat 16 i)) | _ => none),
  (Layout.moviK, fun fs => match fs with | [d, i] => some (.moviK (.ofNat 6 d) (.ofNat 16 i)) | _ => none),
  (Layout.movihK, fun fs => match fs with | [d, i] => some (.movihK (.ofNat 6 d) (.ofNat 16 i)) | _ => none)]

/-- Major 0x0B (R167), the rows that fix more bits first. -/
noncomputable def rowsCrossLane0 : List DecodeRow := [
  (Layout.pconsAll, fun fs => match fs with | [d, a] => some (.pconsAll (.ofNat 3 d) (.ofNat 3 a)) | _ => none),
  (Layout.pconsSome, fun fs => match fs with | [d, a] => some (.pconsSome (.ofNat 3 d) (.ofNat 3 a)) | _ => none),
  (Layout.pconsSame, fun fs => match fs with | [d, a] => some (.pconsSame (.ofNat 3 d) (.ofNat 3 a)) | _ => none),
  (Layout.pmask, fun fs => match fs with | [d, a] => some (.pmask (.ofNat 6 d) (.ofNat 3 a)) | _ => none),
  (Layout.wfoldAddI32, fun fs => match fs with | [d, a] => some (.wfoldAddI32 (.ofNat 6 d) (.ofNat 6 a)) | _ => none),
  (Layout.wfoldMinI32, fun fs => match fs with | [d, a] => some (.wfoldMinI32 (.ofNat 6 d) (.ofNat 6 a)) | _ => none),
  (Layout.wfoldMaxI32, fun fs => match fs with | [d, a] => some (.wfoldMaxI32 (.ofNat 6 d) (.ofNat 6 a)) | _ => none),
  (Layout.wfoldMinN32, fun fs => match fs with | [d, a] => some (.wfoldMinN32 (.ofNat 6 d) (.ofNat 6 a)) | _ => none),
  (Layout.wfoldMaxN32, fun fs => match fs with | [d, a] => some (.wfoldMaxN32 (.ofNat 6 d) (.ofNat 6 a)) | _ => none),
  (Layout.wfoldAnd, fun fs => match fs with | [d, a] => some (.wfoldAnd (.ofNat 6 d) (.ofNat 6 a)) | _ => none),
  (Layout.wfoldOr, fun fs => match fs with | [d, a] => some (.wfoldOr (.ofNat 6 d) (.ofNat 6 a)) | _ => none),
  (Layout.wfoldXor, fun fs => match fs with | [d, a] => some (.wfoldXor (.ofNat 6 d) (.ofNat 6 a)) | _ => none),
  (Layout.wfoldAddF32, fun fs => match fs with | [d, a] => some (.wfoldAddF32 (.ofNat 6 d) (.ofNat 6 a)) | _ => none),
  (Layout.wfoldMinF32, fun fs => match fs with | [d, a] => some (.wfoldMinF32 (.ofNat 6 d) (.ofNat 6 a)) | _ => none),
  (Layout.wfoldMaxF32, fun fs => match fs with | [d, a] => some (.wfoldMaxF32 (.ofNat 6 d) (.ofNat 6 a)) | _ => none),
  (Layout.lanexPick, fun fs => match fs with | [d, a, b] => some (.lanexPick (.ofNat 6 d) (.ofNat 6 a) (.ofNat 6 b)) | _ => none)]
/-- More rows of `rowsCrossLane`. -/
def rowsCrossLane1 : List DecodeRow := [
  (Layout.lanexLo, fun fs => match fs with | [d, a, b] => some (.lanexLo (.ofNat 6 d) (.ofNat 6 a) (.ofNat 6 b)) | _ => none),
  (Layout.lanexHi, fun fs => match fs with | [d, a, b] => some (.lanexHi (.ofNat 6 d) (.ofNat 6 a) (.ofNat 6 b)) | _ => none),
  (Layout.lanexFlip, fun fs => match fs with | [d, a, b] => some (.lanexFlip (.ofNat 6 d) (.ofNat 6 a) (.ofNat 6 b)) | _ => none),
  (Layout.lanexRot, fun fs => match fs with | [d, a, b] => some (.lanexRot (.ofNat 6 d) (.ofNat 6 a) (.ofNat 6 b)) | _ => none)]
/-- All the rows of the group. -/
noncomputable def rowsCrossLane : List DecodeRow := rowsCrossLane0 ++ rowsCrossLane1

/-- Major 0x0C (R167), the rows that fix more bits first. -/
def rowsBranch : List DecodeRow := [
  (Layout.bra, fun fs => match fs with | [o] => some (.bra (.ofNat 22 o)) | _ => none),
  (Layout.br, fun fs => match fs with | [p, n, j, o] => some (.br (.ofNat 3 p) (.ofNat 1 n) (.ofNat 3 j) (.ofNat 15 o)) | _ => none),
  (Layout.brk, fun fs => match fs with | [p, n, j, o] => some (.brk (.ofNat 3 p) (.ofNat 1 n) (.ofNat 3 j) (.ofNat 15 o)) | _ => none)]

/-- Major 0x0D (R167), the rows that fix more bits first. -/
def rowsJump : List DecodeRow := [
  (Layout.ret, fun _ => some .ret),
  (Layout.jmpt, fun fs => match fs with | [a, j, o] => some (.jmpt (.ofNat 6 a) (.ofNat 3 j) (.ofNat 13 o)) | _ => none),
  (Layout.call, fun fs => match fs with | [o] => some (.call (.ofNat 22 o)) | _ => none),
  (Layout.callt, fun fs => match fs with | [a, j, o] => some (.callt (.ofNat 6 a) (.ofNat 3 j) (.ofNat 13 o)) | _ => none)]

/-- Major 0x0E (R167), the rows that fix more bits first. -/
def rowsExit : List DecodeRow := [
  (Layout.exitI, fun _ => some .exitI),
  (Layout.nop, fun _ => some .nop),
  (Layout.yieldI, fun _ => some .yieldI),
  (Layout.eret, fun _ => some .eret),
  (Layout.joinI, fun fs => match fs with | [j] => some (.joinI (.ofNat 3 j)) | _ => none),
  (Layout.trap, fun fs => match fs with | [c] => some (.trap (.ofNat 8 c)) | _ => none),
  (Layout.breakI, fun fs => match fs with | [c] => some (.breakI (.ofNat 8 c)) | _ => none)]

/-- Major 0x0F (R167), the rows that fix more bits first. -/
def rowsLoad : List DecodeRow := [
  (Layout.pref, fun fs => match fs with | [d, b, o] => some (.pref (.ofNat 6 d) (.ofNat 6 b) (.ofNat 5 o)) | _ => none),
  (Layout.ldLast, fun fs => match fs with | [f, d, b, t, o] => some (.ldLast (.ofNat 1 f) (.ofNat 6 d) (.ofNat 6 b) (.ofNat 3 t) (.ofNat 5 o)) | _ => none),
  (Layout.ld, fun fs => match fs with | [f, d, b, t, s, o] => some (.ld (.ofNat 1 f) (.ofNat 6 d) (.ofNat 6 b) (.ofNat 3 t) (.ofNat 4 s) (.ofNat 5 o)) | _ => none)]

/-- Major 0x10 (R167), the rows that fix more bits first. -/
def rowsStore : List DecodeRow := [
  (Layout.st, fun fs => match fs with | [d, b, t, s, o] => some (.st (.ofNat 6 d) (.ofNat 6 b) (.ofNat 3 t) (.ofNat 4 s) (.ofNat 5 o)) | _ => none)]

/-- Major 0x11 (R167), the rows that fix more bits first. -/
def rowsUniform : List DecodeRow := [
  (Layout.spop, fun fs => match fs with | [d] => some (.spop (.ofNat 6 d)) | _ => none),
  (Layout.spush, fun fs => match fs with | [d] => some (.spush (.ofNat 6 d)) | _ => none),
  (Layout.stk, fun fs => match fs with | [d, b, t, s, o] => some (.stk (.ofNat 6 d) (.ofNat 5 b) (.ofNat 3 t) (.ofNat 4 s) (.ofNat 5 o)) | _ => none),
  (Layout.ldk, fun fs => match fs with | [f, d, b, t, s, o] => some (.ldk (.ofNat 1 f) (.ofNat 6 d) (.ofNat 5 b) (.ofNat 3 t) (.ofNat 4 s) (.ofNat 5 o)) | _ => none)]

/-- Major 0x12 (R167), the rows that fix more bits first. -/
def rowsLagoon : List DecodeRow := [
  (Layout.stl, fun fs => match fs with | [d, b, t, s, o] => some (.stl (.ofNat 6 d) (.ofNat 5 b) (.ofNat 3 t) (.ofNat 4 s) (.ofNat 5 o)) | _ => none),
  (Layout.ldl, fun fs => match fs with | [f, d, b, t, s, o] => some (.ldl (.ofNat 1 f) (.ofNat 6 d) (.ofNat 5 b) (.ofNat 3 t) (.ofNat 4 s) (.ofNat 5 o)) | _ => none)]

/-- Major 0x13 (R167), the rows that fix more bits first. -/
def rowsAtomic : List DecodeRow := [
  (Layout.red, fun fs => match fs with | [d, b, o, s] => some (.red (.ofNat 6 d) (.ofNat 6 b) (.ofNat 5 o) (.ofNat 5 s)) | _ => none),
  (Layout.redl, fun fs => match fs with | [d, b, o, s] => some (.redl (.ofNat 6 d) (.ofNat 6 b) (.ofNat 5 o) (.ofNat 5 s)) | _ => none),
  (Layout.atom, fun fs => match fs with | [f, d, b, o, s] => some (.atom (.ofNat 1 f) (.ofNat 6 d) (.ofNat 6 b) (.ofNat 5 o) (.ofNat 5 s)) | _ => none),
  (Layout.atoml, fun fs => match fs with | [f, d, b, o, s] => some (.atoml (.ofNat 1 f) (.ofNat 6 d) (.ofNat 6 b) (.ofNat 5 o) (.ofNat 5 s)) | _ => none)]

/-- Major 0x14 (R167), the rows that fix more bits first. -/
def rowsFence : List DecodeRow := [
  (Layout.fence, fun fs => match fs with | [s] => some (.fence (.ofNat 5 s)) | _ => none)]

/-- Major 0x15 (R167), the rows that fix more bits first. -/
def rowsBarrier : List DecodeRow := [
  (Layout.bar, fun fs => match fs with | [b] => some (.bar (.ofNat 4 b)) | _ => none),
  (Layout.barx, fun fs => match fs with | [d, k, s] => some (.barx (.ofNat 6 d) (.ofNat 5 k) (.ofNat 5 s)) | _ => none),
  (Layout.semwait, fun fs => match fs with | [d, k, s] => some (.semwait (.ofNat 6 d) (.ofNat 5 k) (.ofNat 5 s)) | _ => none),
  (Layout.semsig, fun fs => match fs with | [d, k, s] => some (.semsig (.ofNat 6 d) (.ofNat 5 k) (.ofNat 5 s)) | _ => none),
  (Layout.semtk, fun fs => match fs with | [f, d, k, s] => some (.semtk (.ofNat 1 f) (.ofNat 6 d) (.ofNat 5 k) (.ofNat 5 s)) | _ => none),
  (Layout.semrd, fun fs => match fs with | [f, d, k, s] => some (.semrd (.ofNat 1 f) (.ofNat 6 d) (.ofNat 5 k) (.ofNat 5 s)) | _ => none)]

/-- Major 0x16 (R167), the rows that fix more bits first. -/
def rowsCopy : List DecodeRow := [
  (Layout.bcopy, fun fs => match fs with | [f, g, i] => some (.bcopy (.ofNat 1 f) (.ofNat 3 g) (.ofNat 3 i)) | _ => none),
  (Layout.trel, fun fs => match fs with | [g, m] => some (.trel (.ofNat 3 g) (.ofNat 6 m)) | _ => none),
  (Layout.bcopyt, fun fs => match fs with | [f, g, i, m] => some (.bcopyt (.ofNat 1 f) (.ofNat 3 g) (.ofNat 3 i) (.ofNat 6 m)) | _ => none),
  (Layout.bcopyo, fun fs => match fs with | [f, g, i, m] => some (.bcopyo (.ofNat 1 f) (.ofNat 3 g) (.ofNat 3 i) (.ofNat 6 m)) | _ => none),
  (Layout.tdef, fun fs => match fs with | [g, m, n] => some (.tdef (.ofNat 3 g) (.ofNat 6 m) (.ofNat 5 n)) | _ => none),
  (Layout.tstate, fun fs => match fs with | [g, m, n] => some (.tstate (.ofNat 3 g) (.ofNat 6 m) (.ofNat 5 n)) | _ => none),
  (Layout.gang, fun fs => match fs with | [g, h, a, c] => some (.gang (.ofNat 3 g) (.ofNat 3 h) (.ofNat 6 a) (.ofNat 3 c)) | _ => none)]

/-- Major 0x17 (R167), the rows that fix more bits first. -/
def rowsMatrix : List DecodeRow := [
  (Layout.zclr, fun fs => match fs with | [g, z, n] => some (.zclr (.ofNat 3 g) (.ofNat 5 z) (.ofNat 5 n)) | _ => none),
  (Layout.zld, fun fs => match fs with | [f, g, z, n] => some (.zld (.ofNat 1 f) (.ofNat 3 g) (.ofNat 5 z) (.ofNat 5 n)) | _ => none),
  (Layout.zst, fun fs => match fs with | [f, g, z, n] => some (.zst (.ofNat 1 f) (.ofNat 3 g) (.ofNat 5 z) (.ofNat 5 n)) | _ => none),
  (Layout.zmovToV, fun fs => match fs with | [f, g, z, q, b] => some (.zmovToV (.ofNat 1 f) (.ofNat 3 g) (.ofNat 5 z) (.ofNat 2 q) (.ofNat 4 b)) | _ => none),
  (Layout.zmovToZ, fun fs => match fs with | [f, g, z, q, b] => some (.zmovToZ (.ofNat 1 f) (.ofNat 3 g) (.ofNat 5 z) (.ofNat 2 q) (.ofNat 4 b)) | _ => none),
  (Layout.zepi, fun fs => match fs with | [f, g, z, n, o, r] => some (.zepi (.ofNat 1 f) (.ofNat 3 g) (.ofNat 5 z) (.ofNat 5 n) (.ofNat 3 o) (.ofNat 2 r)) | _ => none),
  (Layout.zepiRoute, fun fs => match fs with | [f, g, z, e, n, o, r] => some (.zepiRoute (.ofNat 1 f) (.ofNat 3 g) (.ofNat 5 z) (.ofNat 2 e) (.ofNat 5 n) (.ofNat 3 o) (.ofNat 2 r)) | _ => none),
  (Layout.mma, fun fs => match fs with | [f, g, h, e, a, m, q, t, u] => some (.mma (.ofNat 1 f) (.ofNat 3 g) (.ofNat 3 h) (.ofNat 1 e) (.ofNat 3 a) (.ofNat 6 m) (.ofNat 3 q) (.ofNat 1 t) (.ofNat 1 u)) | _ => none),
  (Layout.mmaX, fun fs => match fs with | [f, g, h, e, a, m, q, t, u] => some (.mmaX (.ofNat 1 f) (.ofNat 3 g) (.ofNat 3 h) (.ofNat 1 e) (.ofNat 3 a) (.ofNat 6 m) (.ofNat 3 q) (.ofNat 1 t) (.ofNat 1 u)) | _ => none),
  (Layout.mmaq, fun fs => match fs with | [f, g, h, e, a, m, q, t, u] => some (.mmaq (.ofNat 1 f) (.ofNat 3 g) (.ofNat 3 h) (.ofNat 1 e) (.ofNat 3 a) (.ofNat 6 m) (.ofNat 3 q) (.ofNat 1 t) (.ofNat 1 u)) | _ => none)]

/-- Major 0x18 (R167), the rows that fix more bits first. -/
def rowsRow : List DecodeRow := [
  (Layout.rowpre, fun fs => match fs with | [g, w, p, y] => some (.rowpre (.ofNat 3 g) (.ofNat 2 w) (.ofNat 3 p) (.ofNat 1 y)) | _ => none),
  (Layout.rowq, fun fs => match fs with | [g, w, a] => some (.rowq (.ofNat 3 g) (.ofNat 2 w) (.ofNat 6 a)) | _ => none),
  (Layout.rowact, fun fs => match fs with | [f, g, w, n, p, y] => some (.rowact (.ofNat 1 f) (.ofNat 3 g) (.ofNat 2 w) (.ofNat 5 n) (.ofNat 3 p) (.ofNat 1 y)) | _ => none),
  (Layout.rowcon, fun fs => match fs with | [f, g, w, m, p, y] => some (.rowcon (.ofNat 1 f) (.ofNat 3 g) (.ofNat 2 w) (.ofNat 6 m) (.ofNat 3 p) (.ofNat 1 y)) | _ => none),
  (Layout.rowput, fun fs => match fs with | [f, g, w, m, p, y] => some (.rowput (.ofNat 1 f) (.ofNat 3 g) (.ofNat 2 w) (.ofNat 6 m) (.ofNat 3 p) (.ofNat 1 y)) | _ => none)]

/-- Major 0x19 (R167), the rows that fix more bits first. -/
def rowsCollective : List DecodeRow := [
  (Layout.eroute, fun fs => match fs with | [g, e, i] => some (.eroute (.ofNat 3 g) (.ofNat 2 e) (.ofNat 3 i)) | _ => none),
  (Layout.cpost, fun fs => match fs with | [g, i, q, p] => some (.cpost (.ofNat 3 g) (.ofNat 3 i) (.ofNat 8 q) (.ofNat 3 p)) | _ => none),
  (Layout.cctrSet, fun fs => match fs with | [g, n, a] => some (.cctrSet (.ofNat 3 g) (.ofNat 10 n) (.ofNat 6 a)) | _ => none),
  (Layout.cwait, fun fs => match fs with | [g, n, a] => some (.cwait (.ofNat 3 g) (.ofNat 10 n) (.ofNat 6 a)) | _ => none),
  (Layout.cctr, fun fs => match fs with | [g, n, a, p] => some (.cctr (.ofNat 3 g) (.ofNat 10 n) (.ofNat 6 a) (.ofNat 1 p)) | _ => none)]

/-- Major 0x1A (R167), the rows that fix more bits first. -/
def rowsLaunch : List DecodeRow := [
  (Layout.qswap, fun fs => match fs with | [g, c] => some (.qswap (.ofNat 3 g) (.ofNat 1 c)) | _ => none),
  (Layout.qlaunch, fun fs => match fs with | [g, q, i] => some (.qlaunch (.ofNat 3 g) (.ofNat 4 q) (.ofNat 3 i)) | _ => none),
  (Layout.qcopy, fun fs => match fs with | [g, q, i] => some (.qcopy (.ofNat 3 g) (.ofNat 4 q) (.ofNat 3 i)) | _ => none),
  (Layout.launch, fun fs => match fs with | [f, g, i, d] => some (.launch (.ofNat 1 f) (.ofNat 3 g) (.ofNat 3 i) (.ofNat 5 d)) | _ => none),
  (Layout.gwait, fun fs => match fs with | [g, d, a] => some (.gwait (.ofNat 3 g) (.ofNat 6 d) (.ofNat 6 a)) | _ => none),
  (Layout.qirq, fun fs => match fs with | [g, q, v] => some (.qirq (.ofNat 3 g) (.ofNat 4 q) (.ofNat 8 v)) | _ => none),
  (Layout.qsemw, fun fs => match fs with | [g, q, n, a] => some (.qsemw (.ofNat 3 g) (.ofNat 4 q) (.ofNat 5 n) (.ofNat 6 a)) | _ => none),
  (Layout.qsems, fun fs => match fs with | [g, q, n, a] => some (.qsems (.ofNat 3 g) (.ofNat 4 q) (.ofNat 5 n) (.ofNat 6 a)) | _ => none)]

/-- Major 0x1B (R167), the rows that fix more bits first. -/
def rowsPower : List DecodeRow := [
  (Layout.phase, fun fs => match fs with | [a] => some (.phase (.ofNat 6 a)) | _ => none),
  (Layout.perf, fun fs => match fs with | [a] => some (.perf (.ofNat 6 a)) | _ => none),
  (Layout.capq, fun fs => match fs with | [u, d] => some (.capq (.ofNat 1 u) (.ofNat 6 d)) | _ => none),
  (Layout.timeRef, fun fs => match fs with | [u, d] => some (.timeRef (.ofNat 1 u) (.ofNat 6 d)) | _ => none),
  (Layout.timeCyc, fun fs => match fs with | [u, d] => some (.timeCyc (.ofNat 1 u) (.ofNat 6 d)) | _ => none),
  (Layout.tokq, fun fs => match fs with | [u, d, a] => some (.tokq (.ofNat 1 u) (.ofNat 6 d) (.ofNat 6 a)) | _ => none),
  (Layout.rng, fun fs => match fs with | [u, d, a, b] => some (.rng (.ofNat 1 u) (.ofNat 6 d) (.ofNat 6 a) (.ofNat 6 b)) | _ => none)]

/-- Major 0x1C (R167), the rows that fix more bits first. -/
def rowsSystem : List DecodeRow := [
  (Layout.haltc, fun fs => match fs with | [c] => some (.haltc (.ofNat 1 c)) | _ => none),
  (Layout.tlbiCtx, fun fs => match fs with | [d] => some (.tlbiCtx (.ofNat 6 d)) | _ => none),
  (Layout.tlbiPage, fun fs => match fs with | [d] => some (.tlbiPage (.ofNat 6 d)) | _ => none),
  (Layout.park, fun fs => match fs with | [d, l] => some (.park (.ofNat 6 d) (.ofNat 2 l)) | _ => none),
  (Layout.ctxfl, fun fs => match fs with | [d, l, i] => some (.ctxfl (.ofNat 6 d) (.ofNat 2 l) (.ofNat 1 i)) | _ => none),
  (Layout.unpark, fun fs => match fs with | [d, l, x] => some (.unpark (.ofNat 6 d) (.ofNat 2 l) (.ofNat 1 x)) | _ => none),
  (Layout.mfsr, fun fs => match fs with | [d, r] => some (.mfsr (.ofNat 6 d) (.ofNat 16 r)) | _ => none),
  (Layout.mtsr, fun fs => match fs with | [d, r] => some (.mtsr (.ofNat 6 d) (.ofNat 16 r)) | _ => none)]

/-- The rows of a 32-bit word's major opcode, bits [6:1] (R153, R167). Major 0 is the clause header, and majors 0x1D to 0x3F
are reserved: they have no rows. -/
noncomputable def rowsOfMajor (major : Nat) : List DecodeRow :=
  match major with
  | 1 => rowsInteger
  | 2 => rowsIntegerImm
  | 3 => rowsMultiply
  | 4 => rowsBitField
  | 5 => rowsCompare
  | 6 => rowsFp32
  | 7 => rowsSpecial
  | 8 => rowsConvert
  | 9 => rowsPacked
  | 10 => rowsMove
  | 11 => rowsCrossLane
  | 12 => rowsBranch
  | 13 => rowsJump
  | 14 => rowsExit
  | 15 => rowsLoad
  | 16 => rowsStore
  | 17 => rowsUniform
  | 18 => rowsLagoon
  | 19 => rowsAtomic
  | 20 => rowsFence
  | 21 => rowsBarrier
  | 22 => rowsCopy
  | 23 => rowsMatrix
  | 24 => rowsRow
  | 25 => rowsCollective
  | 26 => rowsLaunch
  | 27 => rowsPower
  | 28 => rowsSystem
  | _ => []

/-- Why a word is not an instruction (R153, R167, R172). -/
inductive DecodeError where
  /-- A 32-bit word of major opcode 0x00: a clause header in an instruction position (R172). -/
  | clauseHeader
  /-- A reserved encoding (R167). -/
  | reserved
  /-- Fewer bytes than the length that bit [0] gives (R153). -/
  | short
  deriving DecidableEq, Repr

/-- Decode a 16-bit form (R155, R156). -/
def decode16 (w : Nat) : Except DecodeError Instr :=
  match decodeRows rowsShort w with
  | some i => .ok i
  | none => .error .reserved

/-- Decode a 32-bit word (R157, R167). -/
noncomputable def decode32 (w : Nat) : Except DecodeError Instr :=
  if w / 2 % 64 = 0 then .error .clauseHeader
  else
    match decodeRows (rowsOfMajor (w / 2 % 64)) w with
    | some i => .ok i
    | none => .error .reserved

/-- Decode the instruction that starts a list of bytes, and answer the rest of them: bit [0] of the first halfword gives the
length, and the bytes are little-endian (R153). -/
noncomputable def decode : List Byte → Except DecodeError (Instr × List Byte)
  | b0 :: b1 :: rest =>
    if b0.toNat % 2 = 0 then (decode16 (b0.toNat + 256 * b1.toNat)).map (·, rest)
    else
      match rest with
      | b2 :: b3 :: rest' =>
        (decode32 (b0.toNat + 256 * b1.toNat + 65536 * b2.toNat + 16777216 * b3.toNat)).map (·, rest')
      | _ => .error .short
  | _ => .error .short

/-- The little-endian bytes of a number (R4). -/
def leBytes : Nat → Nat → List Byte
  | 0, _ => []
  | n + 1, w => BitVec.ofNat 8 w :: leBytes n (w / 256)

/-- The number of little-endian bytes (R4). -/
def ofLeBytes : List Byte → Nat
  | [] => 0
  | b :: bs => b.toNat + 256 * ofLeBytes bs

/-- The length in bits and the word of an encoded instruction; none for the events of the table, which have no encoding. -/
def encodeWord : Instr → Option (Nat × Nat)
  | .mov16 d b => some (16, Layout.mov16.pack [d.toNat, b.toNat])
  | .movi16 d i => some (16, Layout.movi16.pack [d.toNat, i.toNat])
  | .iadd16 d b => some (16, Layout.iadd16.pack [d.toNat, b.toNat])
  | .iaddi16 d i => some (16, Layout.iaddi16.pack [d.toNat, i.toNat])
  | .isub16 d b => some (16, Layout.isub16.pack [d.toNat, b.toNat])
  | .and16 d b => some (16, Layout.and16.pack [d.toNat, b.toNat])
  | .or16 d b => some (16, Layout.or16.pack [d.toNat, b.toNat])
  | .xor16 d b => some (16, Layout.xor16.pack [d.toNat, b.toNat])
  | .shli16 d i => some (16, Layout.shli16.pack [d.toNat, i.toNat])
  | .shri16 d i => some (16, Layout.shri16.pack [d.toNat, i.toNat])
  | .sari16 d i => some (16, Layout.sari16.pack [d.toNat, i.toNat])
  | .fadd16 d b => some (16, Layout.fadd16.pack [d.toNat, b.toNat])
  | .fsub16 d b => some (16, Layout.fsub16.pack [d.toNat, b.toNat])
  | .fmul16 d b => some (16, Layout.fmul16.pack [d.toNat, b.toNat])
  | .fmax16 d b => some (16, Layout.fmax16.pack [d.toNat, b.toNat])
  | .fmin16 d b => some (16, Layout.fmin16.pack [d.toNat, b.toNat])
  | .iadd u d a b => some (32, Layout.iadd.pack [u.toNat, d.toNat, a.toNat, b.toNat])
  | .iaddSatI32 u d a b => some (32, Layout.iaddSatI32.pack [u.toNat, d.toNat, a.toNat, b.toNat])
  | .iaddSatN32 u d a b => some (32, Layout.iaddSatN32.pack [u.toNat, d.toNat, a.toNat, b.toNat])
  | .iaddc u d a b => some (32, Layout.iaddc.pack [u.toNat, d.toNat, a.toNat, b.toNat])
  | .isub u d a b => some (32, Layout.isub.pack [u.toNat, d.toNat, a.toNat, b.toNat])
  | .isubSatI32 u d a b => some (32, Layout.isubSatI32.pack [u.toNat, d.toNat, a.toNat, b.toNat])
  | .isubSatN32 u d a b => some (32, Layout.isubSatN32.pack [u.toNat, d.toNat, a.toNat, b.toNat])
  | .isubb u d a b => some (32, Layout.isubb.pack [u.toNat, d.toNat, a.toNat, b.toNat])
  | .ineg u d a => some (32, Layout.ineg.pack [u.toNat, d.toNat, a.toNat])
  | .inegSat u d a => some (32, Layout.inegSat.pack [u.toNat, d.toNat, a.toNat])
  | .iabs u d a => some (32, Layout.iabs.pack [u.toNat, d.toNat, a.toNat])
  | .iabsSat u d a => some (32, Layout.iabsSat.pack [u.toNat, d.toNat, a.toNat])
  | .iminI32 u d a b => some (32, Layout.iminI32.pack [u.toNat, d.toNat, a.toNat, b.toNat])
  | .iminN32 u d a b => some (32, Layout.iminN32.pack [u.toNat, d.toNat, a.toNat, b.toNat])
  | .imaxI32 u d a b => some (32, Layout.imaxI32.pack [u.toNat, d.toNat, a.toNat, b.toNat])
  | .imaxN32 u d a b => some (32, Layout.imaxN32.pack [u.toNat, d.toNat, a.toNat, b.toNat])
  | .andI u d a b => some (32, Layout.andI.pack [u.toNat, d.toNat, a.toNat, b.toNat])
  | .orI u d a b => some (32, Layout.orI.pack [u.toNat, d.toNat, a.toNat, b.toNat])
  | .xorI u d a b => some (32, Layout.xorI.pack [u.toNat, d.toNat, a.toNat, b.toNat])
  | .notI u d a => some (32, Layout.notI.pack [u.toNat, d.toNat, a.toNat])
  | .andn u d a b => some (32, Layout.andn.pack [u.toNat, d.toNat, a.toNat, b.toNat])
  | .shl u d a b => some (32, Layout.shl.pack [u.toNat, d.toNat, a.toNat, b.toNat])
  | .shr u d a b => some (32, Layout.shr.pack [u.toNat, d.toNat, a.toNat, b.toNat])
  | .sar u d a b => some (32, Layout.sar.pack [u.toNat, d.toNat, a.toNat, b.toNat])
  | .rotl u d a b => some (32, Layout.rotl.pack [u.toNat, d.toNat, a.toNat, b.toNat])
  | .iadd64 u d a b => some (32, Layout.iadd64.pack [u.toNat, d.toNat, a.toNat, b.toNat])
  | .trilog z d y a x b w t => some (32, Layout.trilog.pack [z.toNat, d.toNat, y.toNat, a.toNat, x.toNat, b.toNat, w.toNat, t.toNat])
  | .iaddImm u d a i => some (32, Layout.iaddImm.pack [u.toNat, d.toNat, a.toNat, i.toNat])
  | .andImm u d a i => some (32, Layout.andImm.pack [u.toNat, d.toNat, a.toNat, i.toNat])
  | .orImm u d a i => some (32, Layout.orImm.pack [u.toNat, d.toNat, a.toNat, i.toNat])
  | .xorImm u d a i => some (32, Layout.xorImm.pack [u.toNat, d.toNat, a.toNat, i.toNat])
  | .shlImm u d a i => some (32, Layout.shlImm.pack [u.toNat, d.toNat, a.toNat, i.toNat])
  | .shrImm u d a i => some (32, Layout.shrImm.pack [u.toNat, d.toNat, a.toNat, i.toNat])
  | .sarImm u d a i => some (32, Layout.sarImm.pack [u.toNat, d.toNat, a.toNat, i.toNat])
  | .rotlImm u d a i => some (32, Layout.rotlImm.pack [u.toNat, d.toNat, a.toNat, i.toNat])
  | .imul u d a b => some (32, Layout.imul.pack [u.toNat, d.toNat, a.toNat, b.toNat])
  | .imulhI32 u d a b => some (32, Layout.imulhI32.pack [u.toNat, d.toNat, a.toNat, b.toNat])
  | .imulhN32 u d a b => some (32, Layout.imulhN32.pack [u.toNat, d.toNat, a.toNat, b.toNat])
  | .imad u d a b c => some (32, Layout.imad.pack [u.toNat, d.toNat, a.toNat, b.toNat, c.toNat])
  | .imadwI32 u d a b c => some (32, Layout.imadwI32.pack [u.toNat, d.toNat, a.toNat, b.toNat, c.toNat])
  | .imadwN32 u d a b c => some (32, Layout.imadwN32.pack [u.toNat, d.toNat, a.toNat, b.toNat, c.toNat])
  | .isad u d a b c => some (32, Layout.isad.pack [u.toNat, d.toNat, a.toNat, b.toNat, c.toNat])
  | .bfxN32 u d a b => some (32, Layout.bfxN32.pack [u.toNat, d.toNat, a.toNat, b.toNat])
  | .bfxI32 u d a b => some (32, Layout.bfxI32.pack [u.toNat, d.toNat, a.toNat, b.toNat])
  | .bfi u d a b c => some (32, Layout.bfi.pack [u.toNat, d.toNat, a.toNat, b.toNat, c.toNat])
  | .popc u d a => some (32, Layout.popc.pack [u.toNat, d.toNat, a.toNat])
  | .clz u d a => some (32, Layout.clz.pack [u.toNat, d.toNat, a.toNat])
  | .ctz u d a => some (32, Layout.ctz.pack [u.toNat, d.toNat, a.toNat])
  | .brev u d a => some (32, Layout.brev.pack [u.toNat, d.toNat, a.toNat])
  | .shfL u d a b c => some (32, Layout.shfL.pack [u.toNat, d.toNat, a.toNat, b.toNat, c.toNat])
  | .shfR u d a b c => some (32, Layout.shfR.pack [u.toNat, d.toNat, a.toNat, b.toNat, c.toNat])
  | .icmpEqI32 d a b => some (32, Layout.icmpEqI32.pack [d.toNat, a.toNat, b.toNat])
  | .icmpNeI32 d a b => some (32, Layout.icmpNeI32.pack [d.toNat, a.toNat, b.toNat])
  | .icmpLtI32 d a b => some (32, Layout.icmpLtI32.pack [d.toNat, a.toNat, b.toNat])
  | .icmpLeI32 d a b => some (32, Layout.icmpLeI32.pack [d.toNat, a.toNat, b.toNat])
  | .icmpGtI32 d a b => some (32, Layout.icmpGtI32.pack [d.toNat, a.toNat, b.toNat])
  | .icmpGeI32 d a b => some (32, Layout.icmpGeI32.pack [d.toNat, a.toNat, b.toNat])
  | .icmpEqN32 d a b => some (32, Layout.icmpEqN32.pack [d.toNat, a.toNat, b.toNat])
  | .icmpNeN32 d a b => some (32, Layout.icmpNeN32.pack [d.toNat, a.toNat, b.toNat])
  | .icmpLtN32 d a b => some (32, Layout.icmpLtN32.pack [d.toNat, a.toNat, b.toNat])
  | .icmpLeN32 d a b => some (32, Layout.icmpLeN32.pack [d.toNat, a.toNat, b.toNat])
  | .icmpGtN32 d a b => some (32, Layout.icmpGtN32.pack [d.toNat, a.toNat, b.toNat])
  | .icmpGeN32 d a b => some (32, Layout.icmpGeN32.pack [d.toNat, a.toNat, b.toNat])
  | .fcmpEq d a b => some (32, Layout.fcmpEq.pack [d.toNat, a.toNat, b.toNat])
  | .fcmpNe d a b => some (32, Layout.fcmpNe.pack [d.toNat, a.toNat, b.toNat])
  | .fcmpLt d a b => some (32, Layout.fcmpLt.pack [d.toNat, a.toNat, b.toNat])
  | .fcmpLe d a b => some (32, Layout.fcmpLe.pack [d.toNat, a.toNat, b.toNat])
  | .fcmpGt d a b => some (32, Layout.fcmpGt.pack [d.toNat, a.toNat, b.toNat])
  | .fcmpGe d a b => some (32, Layout.fcmpGe.pack [d.toNat, a.toNat, b.toNat])
  | .fcmpOrd d a b => some (32, Layout.fcmpOrd.pack [d.toNat, a.toNat, b.toNat])
  | .fcmpUno d a b => some (32, Layout.fcmpUno.pack [d.toNat, a.toNat, b.toNat])
  | .plogAnd d a b => some (32, Layout.plogAnd.pack [d.toNat, a.toNat, b.toNat])
  | .plogOr d a b => some (32, Layout.plogOr.pack [d.toNat, a.toNat, b.toNat])
  | .plogXor d a b => some (32, Layout.plogXor.pack [d.toNat, a.toNat, b.toNat])
  | .plogAndn d a b => some (32, Layout.plogAndn.pack [d.toNat, a.toNat, b.toNat])
  | .plogOrn d a b => some (32, Layout.plogOrn.pack [d.toNat, a.toNat, b.toNat])
  | .plogXnor d a b => some (32, Layout.plogXnor.pack [d.toNat, a.toNat, b.toNat])
  | .sel d a b p => some (32, Layout.sel.pack [d.toNat, a.toNat, b.toNat, p.toNat])
  | .fadd z d a b r => some (32, Layout.fadd.pack [z.toNat, d.toNat, a.toNat, b.toNat, r.toNat])
  | .fsub z d a b r => some (32, Layout.fsub.pack [z.toNat, d.toNat, a.toNat, b.toNat, r.toNat])
  | .fmul z d a b r => some (32, Layout.fmul.pack [z.toNat, d.toNat, a.toNat, b.toNat, r.toNat])
  | .ffmaRn z d a b c => some (32, Layout.ffmaRn.pack [z.toNat, d.toNat, a.toNat, b.toNat, c.toNat])
  | .ffmaRz z d a b c => some (32, Layout.ffmaRz.pack [z.toNat, d.toNat, a.toNat, b.toNat, c.toNat])
  | .ffmaRu z d a b c => some (32, Layout.ffmaRu.pack [z.toNat, d.toNat, a.toNat, b.toNat, c.toNat])
  | .ffmaRd z d a b c => some (32, Layout.ffmaRd.pack [z.toNat, d.toNat, a.toNat, b.toNat, c.toNat])
  | .fmin z d a b => some (32, Layout.fmin.pack [z.toNat, d.toNat, a.toNat, b.toNat])
  | .fmax z d a b => some (32, Layout.fmax.pack [z.toNat, d.toNat, a.toNat, b.toNat])
  | .frnd z d a r => some (32, Layout.frnd.pack [z.toNat, d.toNat, a.toNat, r.toNat])
  | .fclass d a => some (32, Layout.fclass.pack [d.toNat, a.toNat])
  | .fscale z d a b r => some (32, Layout.fscale.pack [z.toNat, d.toNat, a.toNat, b.toNat, r.toNat])
  | .frcp z d a => some (32, Layout.frcp.pack [z.toNat, d.toNat, a.toNat])
  | .frsq z d a => some (32, Layout.frsq.pack [z.toNat, d.toNat, a.toNat])
  | .fsqrt z d a => some (32, Layout.fsqrt.pack [z.toNat, d.toNat, a.toNat])
  | .fex2 z d a => some (32, Layout.fex2.pack [z.toNat, d.toNat, a.toNat])
  | .flg2 z d a => some (32, Layout.flg2.pack [z.toNat, d.toNat, a.toNat])
  | .fsin z d a => some (32, Layout.fsin.pack [z.toNat, d.toNat, a.toNat])
  | .fcos z d a => some (32, Layout.fcos.pack [z.toNat, d.toNat, a.toNat])
  | .ftanh z d a => some (32, Layout.ftanh.pack [z.toNat, d.toNat, a.toNat])
  | .f2iI8 d a r => some (32, Layout.f2iI8.pack [d.toNat, a.toNat, r.toNat])
  | .f2iI16 d a r => some (32, Layout.f2iI16.pack [d.toNat, a.toNat, r.toNat])
  | .f2iI32 d a r => some (32, Layout.f2iI32.pack [d.toNat, a.toNat, r.toNat])
  | .f2iN8 d a r => some (32, Layout.f2iN8.pack [d.toNat, a.toNat, r.toNat])
  | .f2iN16 d a r => some (32, Layout.f2iN16.pack [d.toNat, a.toNat, r.toNat])
  | .f2iN32 d a r => some (32, Layout.f2iN32.pack [d.toNat, a.toNat, r.toNat])
  | .i2fI8 d a r => some (32, Layout.i2fI8.pack [d.toNat, a.toNat, r.toNat])
  | .i2fI16 d a r => some (32, Layout.i2fI16.pack [d.toNat, a.toNat, r.toNat])
  | .i2fI32 d a r => some (32, Layout.i2fI32.pack [d.toNat, a.toNat, r.toNat])
  | .i2fN8 d a r => some (32, Layout.i2fN8.pack [d.toNat, a.toNat, r.toNat])
  | .i2fN16 d a r => some (32, Layout.i2fN16.pack [d.toNat, a.toNat, r.toNat])
  | .i2fN32 d a r => some (32, Layout.i2fN32.pack [d.toNat, a.toNat, r.toNat])
  | .i2iI8 d a y x => some (32, Layout.i2iI8.pack [d.toNat, a.toNat, y.toNat, x.toNat])
  | .i2iI16 d a y x => some (32, Layout.i2iI16.pack [d.toNat, a.toNat, y.toNat, x.toNat])
  | .i2iI32 d a y x => some (32, Layout.i2iI32.pack [d.toNat, a.toNat, y.toNat, x.toNat])
  | .i2iN8 d a y x => some (32, Layout.i2iN8.pack [d.toNat, a.toNat, y.toNat, x.toNat])
  | .i2iN16 d a y x => some (32, Layout.i2iN16.pack [d.toNat, a.toNat, y.toNat, x.toNat])
  | .i2iN32 d a y x => some (32, Layout.i2iN32.pack [d.toNat, a.toNat, y.toNat, x.toNat])
  | .fcvtBf16 d a r => some (32, Layout.fcvtBf16.pack [d.toNat, a.toNat, r.toNat])
  | .fcvtF16 d a r => some (32, Layout.fcvtF16.pack [d.toNat, a.toNat, r.toNat])
  | .fcvtE4m3 d a r => some (32, Layout.fcvtE4m3.pack [d.toNat, a.toNat, r.toNat])
  | .fcvtE5m2 d a r => some (32, Layout.fcvtE5m2.pack [d.toNat, a.toNat, r.toNat])
  | .fcvtE2m1 d a r => some (32, Layout.fcvtE2m1.pack [d.toNat, a.toNat, r.toNat])
  | .fcvtSrBf16 d a b => some (32, Layout.fcvtSrBf16.pack [d.toNat, a.toNat, b.toNat])
  | .fcvtSrF16 d a b => some (32, Layout.fcvtSrF16.pack [d.toNat, a.toNat, b.toNat])
  | .fcvtSrE4m3 d a b => some (32, Layout.fcvtSrE4m3.pack [d.toNat, a.toNat, b.toNat])
  | .fcvtSrE5m2 d a b => some (32, Layout.fcvtSrE5m2.pack [d.toNat, a.toNat, b.toNat])
  | .fcvtSrE2m1 d a b => some (32, Layout.fcvtSrE2m1.pack [d.toNat, a.toNat, b.toNat])
  | .fpkBf16 d a => some (32, Layout.fpkBf16.pack [d.toNat, a.toNat])
  | .fpkF16 d a => some (32, Layout.fpkF16.pack [d.toNat, a.toNat])
  | .fpkE4m3 d a => some (32, Layout.fpkE4m3.pack [d.toNat, a.toNat])
  | .fpkE5m2 d a => some (32, Layout.fpkE5m2.pack [d.toNat, a.toNat])
  | .fpkSrBf16 d a b => some (32, Layout.fpkSrBf16.pack [d.toNat, a.toNat, b.toNat])
  | .fpkSrF16 d a b => some (32, Layout.fpkSrF16.pack [d.toNat, a.toNat, b.toNat])
  | .fpkSrE4m3 d a b => some (32, Layout.fpkSrE4m3.pack [d.toNat, a.toNat, b.toNat])
  | .fpkSrE5m2 d a b => some (32, Layout.fpkSrE5m2.pack [d.toNat, a.toNat, b.toNat])
  | .funpkBf16 d a j => some (32, Layout.funpkBf16.pack [d.toNat, a.toNat, j.toNat])
  | .funpkF16 d a j => some (32, Layout.funpkF16.pack [d.toNat, a.toNat, j.toNat])
  | .funpkE4m3 d a j => some (32, Layout.funpkE4m3.pack [d.toNat, a.toNat, j.toNat])
  | .funpkE5m2 d a j => some (32, Layout.funpkE5m2.pack [d.toNat, a.toNat, j.toNat])
  | .funpkE2m1 d a j => some (32, Layout.funpkE2m1.pack [d.toNat, a.toNat, j.toNat])
  | .dot4i8 d a b c => some (32, Layout.dot4i8.pack [d.toNat, a.toNat, b.toNat, c.toNat])
  | .dot4i8Sat d a b c => some (32, Layout.dot4i8Sat.pack [d.toNat, a.toNat, b.toNat, c.toNat])
  | .dot8i4 d a b c => some (32, Layout.dot8i4.pack [d.toNat, a.toNat, b.toNat, c.toNat])
  | .dot8i4Sat d a b c => some (32, Layout.dot8i4Sat.pack [d.toNat, a.toNat, b.toNat, c.toNat])
  | .dot4f8E4m3 d a b c => some (32, Layout.dot4f8E4m3.pack [d.toNat, a.toNat, b.toNat, c.toNat])
  | .dot4f8E5m2 d a b c => some (32, Layout.dot4f8E5m2.pack [d.toNat, a.toNat, b.toNat, c.toNat])
  | .hfma2Bf16 d a b c => some (32, Layout.hfma2Bf16.pack [d.toNat, a.toNat, b.toNat, c.toNat])
  | .hfma2F16 d a b c => some (32, Layout.hfma2F16.pack [d.toNat, a.toNat, b.toNat, c.toNat])
  | .hadd2Bf16 d a b => some (32, Layout.hadd2Bf16.pack [d.toNat, a.toNat, b.toNat])
  | .hadd2F16 d a b => some (32, Layout.hadd2F16.pack [d.toNat, a.toNat, b.toNat])
  | .hmul2Bf16 d a b => some (32, Layout.hmul2Bf16.pack [d.toNat, a.toNat, b.toNat])
  | .hmul2F16 d a b => some (32, Layout.hmul2F16.pack [d.toNat, a.toNat, b.toNat])
  | .hmax2Bf16 d a b => some (32, Layout.hmax2Bf16.pack [d.toNat, a.toNat, b.toNat])
  | .hmax2F16 d a b => some (32, Layout.hmax2F16.pack [d.toNat, a.toNat, b.toNat])
  | .mov d s => some (32, Layout.mov.pack [d.toNat, s.toNat])
  | .movi d i => some (32, Layout.movi.pack [d.toNat, i.toNat])
  | .movih d i => some (32, Layout.movih.pack [d.toNat, i.toNat])
  | .movkVK d s => some (32, Layout.movkVK.pack [d.toNat, s.toNat])
  | .movkKV d s => some (32, Layout.movkKV.pack [d.toNat, s.toNat])
  | .movkKS d s => some (32, Layout.movkKS.pack [d.toNat, s.toNat])
  | .movkSK d s => some (32, Layout.movkSK.pack [d.toNat, s.toNat])
  | .movs d c k => some (32, Layout.movs.pack [d.toNat, c.toNat, k.toNat])
  | .moviK d i => some (32, Layout.moviK.pack [d.toNat, i.toNat])
  | .movihK d i => some (32, Layout.movihK.pack [d.toNat, i.toNat])
  | .lanexPick d a b => some (32, Layout.lanexPick.pack [d.toNat, a.toNat, b.toNat])
  | .lanexLo d a b => some (32, Layout.lanexLo.pack [d.toNat, a.toNat, b.toNat])
  | .lanexHi d a b => some (32, Layout.lanexHi.pack [d.toNat, a.toNat, b.toNat])
  | .lanexFlip d a b => some (32, Layout.lanexFlip.pack [d.toNat, a.toNat, b.toNat])
  | .lanexRot d a b => some (32, Layout.lanexRot.pack [d.toNat, a.toNat, b.toNat])
  | .pconsAll d a => some (32, Layout.pconsAll.pack [d.toNat, a.toNat])
  | .pconsSome d a => some (32, Layout.pconsSome.pack [d.toNat, a.toNat])
  | .pconsSame d a => some (32, Layout.pconsSame.pack [d.toNat, a.toNat])
  | .pmask d a => some (32, Layout.pmask.pack [d.toNat, a.toNat])
  | .wfoldAddI32 d a => some (32, Layout.wfoldAddI32.pack [d.toNat, a.toNat])
  | .wfoldMinI32 d a => some (32, Layout.wfoldMinI32.pack [d.toNat, a.toNat])
  | .wfoldMaxI32 d a => some (32, Layout.wfoldMaxI32.pack [d.toNat, a.toNat])
  | .wfoldMinN32 d a => some (32, Layout.wfoldMinN32.pack [d.toNat, a.toNat])
  | .wfoldMaxN32 d a => some (32, Layout.wfoldMaxN32.pack [d.toNat, a.toNat])
  | .wfoldAnd d a => some (32, Layout.wfoldAnd.pack [d.toNat, a.toNat])
  | .wfoldOr d a => some (32, Layout.wfoldOr.pack [d.toNat, a.toNat])
  | .wfoldXor d a => some (32, Layout.wfoldXor.pack [d.toNat, a.toNat])
  | .wfoldAddF32 d a => some (32, Layout.wfoldAddF32.pack [d.toNat, a.toNat])
  | .wfoldMinF32 d a => some (32, Layout.wfoldMinF32.pack [d.toNat, a.toNat])
  | .wfoldMaxF32 d a => some (32, Layout.wfoldMaxF32.pack [d.toNat, a.toNat])
  | .bra o => some (32, Layout.bra.pack [o.toNat])
  | .br p n j o => some (32, Layout.br.pack [p.toNat, n.toNat, j.toNat, o.toNat])
  | .brk p n j o => some (32, Layout.brk.pack [p.toNat, n.toNat, j.toNat, o.toNat])
  | .jmpt a j o => some (32, Layout.jmpt.pack [a.toNat, j.toNat, o.toNat])
  | .call o => some (32, Layout.call.pack [o.toNat])
  | .callt a j o => some (32, Layout.callt.pack [a.toNat, j.toNat, o.toNat])
  | .ret => some (32, Layout.ret.pack [])
  | .joinI j => some (32, Layout.joinI.pack [j.toNat])
  | .exitI => some (32, Layout.exitI.pack [])
  | .nop => some (32, Layout.nop.pack [])
  | .yieldI => some (32, Layout.yieldI.pack [])
  | .trap c => some (32, Layout.trap.pack [c.toNat])
  | .breakI c => some (32, Layout.breakI.pack [c.toNat])
  | .eret => some (32, Layout.eret.pack [])
  | .ld f d b t s o => some (32, Layout.ld.pack [f.toNat, d.toNat, b.toNat, t.toNat, s.toNat, o.toNat])
  | .ldLast f d b t o => some (32, Layout.ldLast.pack [f.toNat, d.toNat, b.toNat, t.toNat, o.toNat])
  | .pref d b o => some (32, Layout.pref.pack [d.toNat, b.toNat, o.toNat])
  | .st d b t s o => some (32, Layout.st.pack [d.toNat, b.toNat, t.toNat, s.toNat, o.toNat])
  | .ldk f d b t s o => some (32, Layout.ldk.pack [f.toNat, d.toNat, b.toNat, t.toNat, s.toNat, o.toNat])
  | .stk d b t s o => some (32, Layout.stk.pack [d.toNat, b.toNat, t.toNat, s.toNat, o.toNat])
  | .spop d => some (32, Layout.spop.pack [d.toNat])
  | .spush d => some (32, Layout.spush.pack [d.toNat])
  | .ldl f d b t s o => some (32, Layout.ldl.pack [f.toNat, d.toNat, b.toNat, t.toNat, s.toNat, o.toNat])
  | .stl d b t s o => some (32, Layout.stl.pack [d.toNat, b.toNat, t.toNat, s.toNat, o.toNat])
  | .atom f d b o s => some (32, Layout.atom.pack [f.toNat, d.toNat, b.toNat, o.toNat, s.toNat])
  | .red d b o s => some (32, Layout.red.pack [d.toNat, b.toNat, o.toNat, s.toNat])
  | .atoml f d b o s => some (32, Layout.atoml.pack [f.toNat, d.toNat, b.toNat, o.toNat, s.toNat])
  | .redl d b o s => some (32, Layout.redl.pack [d.toNat, b.toNat, o.toNat, s.toNat])
  | .fence s => some (32, Layout.fence.pack [s.toNat])
  | .bar b => some (32, Layout.bar.pack [b.toNat])
  | .barx d k s => some (32, Layout.barx.pack [d.toNat, k.toNat, s.toNat])
  | .semwait d k s => some (32, Layout.semwait.pack [d.toNat, k.toNat, s.toNat])
  | .semsig d k s => some (32, Layout.semsig.pack [d.toNat, k.toNat, s.toNat])
  | .semtk f d k s => some (32, Layout.semtk.pack [f.toNat, d.toNat, k.toNat, s.toNat])
  | .semrd f d k s => some (32, Layout.semrd.pack [f.toNat, d.toNat, k.toNat, s.toNat])
  | .bcopy f g i => some (32, Layout.bcopy.pack [f.toNat, g.toNat, i.toNat])
  | .bcopyt f g i m => some (32, Layout.bcopyt.pack [f.toNat, g.toNat, i.toNat, m.toNat])
  | .bcopyo f g i m => some (32, Layout.bcopyo.pack [f.toNat, g.toNat, i.toNat, m.toNat])
  | .tdef g m n => some (32, Layout.tdef.pack [g.toNat, m.toNat, n.toNat])
  | .trel g m => some (32, Layout.trel.pack [g.toNat, m.toNat])
  | .tstate g m n => some (32, Layout.tstate.pack [g.toNat, m.toNat, n.toNat])
  | .gang g h a c => some (32, Layout.gang.pack [g.toNat, h.toNat, a.toNat, c.toNat])
  | .mma f g h e a m q t u => some (32, Layout.mma.pack [f.toNat, g.toNat, h.toNat, e.toNat, a.toNat, m.toNat, q.toNat, t.toNat, u.toNat])
  | .mmaX f g h e a m q t u => some (32, Layout.mmaX.pack [f.toNat, g.toNat, h.toNat, e.toNat, a.toNat, m.toNat, q.toNat, t.toNat, u.toNat])
  | .mmaq f g h e a m q t u => some (32, Layout.mmaq.pack [f.toNat, g.toNat, h.toNat, e.toNat, a.toNat, m.toNat, q.toNat, t.toNat, u.toNat])
  | .zclr g z n => some (32, Layout.zclr.pack [g.toNat, z.toNat, n.toNat])
  | .zld f g z n => some (32, Layout.zld.pack [f.toNat, g.toNat, z.toNat, n.toNat])
  | .zst f g z n => some (32, Layout.zst.pack [f.toNat, g.toNat, z.toNat, n.toNat])
  | .zepi f g z n o r => some (32, Layout.zepi.pack [f.toNat, g.toNat, z.toNat, n.toNat, o.toNat, r.toNat])
  | .zepiRoute f g z e n o r => some (32, Layout.zepiRoute.pack [f.toNat, g.toNat, z.toNat, e.toNat, n.toNat, o.toNat, r.toNat])
  | .zmovToV f g z q b => some (32, Layout.zmovToV.pack [f.toNat, g.toNat, z.toNat, q.toNat, b.toNat])
  | .zmovToZ f g z q b => some (32, Layout.zmovToZ.pack [f.toNat, g.toNat, z.toNat, q.toNat, b.toNat])
  | .rowact f g w n p y => some (32, Layout.rowact.pack [f.toNat, g.toNat, w.toNat, n.toNat, p.toNat, y.toNat])
  | .rowcon f g w m p y => some (32, Layout.rowcon.pack [f.toNat, g.toNat, w.toNat, m.toNat, p.toNat, y.toNat])
  | .rowput f g w m p y => some (32, Layout.rowput.pack [f.toNat, g.toNat, w.toNat, m.toNat, p.toNat, y.toNat])
  | .rowpre g w p y => some (32, Layout.rowpre.pack [g.toNat, w.toNat, p.toNat, y.toNat])
  | .rowq g w a => some (32, Layout.rowq.pack [g.toNat, w.toNat, a.toNat])
  | .cpost g i q p => some (32, Layout.cpost.pack [g.toNat, i.toNat, q.toNat, p.toNat])
  | .cctr g n a p => some (32, Layout.cctr.pack [g.toNat, n.toNat, a.toNat, p.toNat])
  | .cctrSet g n a => some (32, Layout.cctrSet.pack [g.toNat, n.toNat, a.toNat])
  | .cwait g n a => some (32, Layout.cwait.pack [g.toNat, n.toNat, a.toNat])
  | .eroute g e i => some (32, Layout.eroute.pack [g.toNat, e.toNat, i.toNat])
  | .launch f g i d => some (32, Layout.launch.pack [f.toNat, g.toNat, i.toNat, d.toNat])
  | .gwait g d a => some (32, Layout.gwait.pack [g.toNat, d.toNat, a.toNat])
  | .qlaunch g q i => some (32, Layout.qlaunch.pack [g.toNat, q.toNat, i.toNat])
  | .qcopy g q i => some (32, Layout.qcopy.pack [g.toNat, q.toNat, i.toNat])
  | .qsemw g q n a => some (32, Layout.qsemw.pack [g.toNat, q.toNat, n.toNat, a.toNat])
  | .qsems g q n a => some (32, Layout.qsems.pack [g.toNat, q.toNat, n.toNat, a.toNat])
  | .qirq g q v => some (32, Layout.qirq.pack [g.toNat, q.toNat, v.toNat])
  | .qswap g c => some (32, Layout.qswap.pack [g.toNat, c.toNat])
  | .phase a => some (32, Layout.phase.pack [a.toNat])
  | .perf a => some (32, Layout.perf.pack [a.toNat])
  | .tokq u d a => some (32, Layout.tokq.pack [u.toNat, d.toNat, a.toNat])
  | .capq u d => some (32, Layout.capq.pack [u.toNat, d.toNat])
  | .timeRef u d => some (32, Layout.timeRef.pack [u.toNat, d.toNat])
  | .timeCyc u d => some (32, Layout.timeCyc.pack [u.toNat, d.toNat])
  | .rng u d a b => some (32, Layout.rng.pack [u.toNat, d.toNat, a.toNat, b.toNat])
  | .mfsr d r => some (32, Layout.mfsr.pack [d.toNat, r.toNat])
  | .mtsr d r => some (32, Layout.mtsr.pack [d.toNat, r.toNat])
  | .ctxfl d l i => some (32, Layout.ctxfl.pack [d.toNat, l.toNat, i.toNat])
  | .tlbiCtx d => some (32, Layout.tlbiCtx.pack [d.toNat])
  | .tlbiPage d => some (32, Layout.tlbiPage.pack [d.toNat])
  | .park d l => some (32, Layout.park.pack [d.toNat, l.toNat])
  | .unpark d l x => some (32, Layout.unpark.pack [d.toNat, l.toNat, x.toNat])
  | .haltc c => some (32, Layout.haltc.pack [c.toNat])
  | .clauseStart => none
  | .barrierAddition _ _ => none
  | .launchCompletion _ => none
  | .registerMiss _ => none
  | .registerLineFill _ _ => none
  | .waveActivation _ => none
  | .wavePendingEntry _ => none
  | .flagWaitDemotion _ => none
  | .waveHang _ => none
  | .loadCompletion _ => none
  | .releasePromotion _ => none
  | .engineTransferCompletion _ => none
  | .tileFillCompletion _ => none
  | .tileDrainCompletion _ => none
  | .mmaCompletion _ => none
  | .enginePageFault _ => none
  | .engineTransferStop _ => none
  | .rowSensed _ => none
  | .leaseExpiry _ _ => none
  | .rowputCompletion _ => none
  | .entrySourceRead _ _ _ => none
  | .collectiveDelivery _ => none
  | .orderedContribution _ => none
  | .queueLaunchStart _ _ => none
  | .queueCopyStart _ _ => none
  | .queueSemwaitStart _ _ => none
  | .queueSemsigStart _ _ => none
  | .queueIrqStart _ _ => none
  | .batchDispatch _ => none
  | .teamPlacement _ => none
  | .batchReturn _ => none
  | .asyncCauseDelivery => none
  | .haltComplete _ => none
  | .swapExchange _ => none
  | .swapRestore _ => none
  | .vacateCluster _ _ _ => none
  | .teamMove _ => none
  | .preemptTimeout _ => none
  | .coreGate _ => none
  | .coreWake _ => none
  | .ratioVote _ => none
  | .droopTrip _ _ => none
  | .droopIssueEnd _ => none
  | .coreRefill _ => none
  | .dieRefill _ => none
  | .packageRefill _ => none
  | .governorStep _ _ _ => none
  | .heatUpdate _ _ => none
  | .powerIntentSend _ => none
  | .powerIntentReceive _ _ => none
  | .probeToken _ _ => none
  | .probePass _ _ => none
  | .flitForward _ => none
  | .inboundRequest _ => none
  | .remoteNack _ _ => none
  | .remoteTimeout _ _ _ => none
  | .hostMemAccess _ => none
  | .eventRecord _ => none
  | .eventRingGet _ _ => none
  | .faultRingGet _ _ => none
  | .pfackRetry _ => none
  | .cpStart _ => none
  | .swapreq _ _ => none
  | .llcWayGate _ => none
  | .cgateClear => none
  | .attestationStart => none
  | .attestationComplete _ _ => none
  | .storageError _ _ => none
  | .readClear _ _ => none
  | .registerWrite _ _ _ _ => none
  | .powerGood _ => none
  | .reservedEncoding => none
  | .straitPortDown _ => none
  | .privilegedCompletion _ => none
  | .llcWayDark _ _ => none
  | .capacitorReserveExhausted => none
  | .powerLoss => none
  | .msiXUnmask _ _ => none

/-- The bytes of an encoded instruction; none for the events of the table. -/
def encode (i : Instr) : Option (List Byte) := (encodeWord i).map fun (n, w) => leBytes (n / 8) w

/-- A 16-bit form advances the program counter by 2, a 32-bit form by 4 (R153). -/
def Instr.size (i : Instr) : Nat :=
  match encodeWord i with
  | some (n, _) => n / 8
  | none => 0

/-- A clause header (R171): the flags that it waits on, its two flag selections, the number of instructions minus 1, and the
yield hint. -/
structure ClauseHeader where
  wait  : BitVec 12
  fa    : BitVec 4
  fb    : BitVec 4
  count : BitVec 4
  y     : Bool
  deriving DecidableEq, Repr

/-- A word is a clause header when bit [0] is 1 and its major opcode is 0x00 (R171). -/
def isClauseHeader (w : Word) : Bool := w.extractLsb' 0 7 = 1#7

/-- The fields of a clause header (R171). -/
def ClauseHeader.ofWord (w : Word) : ClauseHeader :=
  { wait := w.extractLsb' 7 12, fa := w.extractLsb' 19 4, fb := w.extractLsb' 23 4, count := w.extractLsb' 27 4,
    y := w.getLsbD 31 }

/-- A header names flag 12 to 14, or names one flag twice: it raises `CLAUSE` when a thread reaches it (R171). -/
def ClauseHeader.bad (h : ClauseHeader) : Bool :=
  let out (f : BitVec 4) : Bool := 12 ≤ f.toNat && f.toNat ≤ 14
  out h.fa || out h.fb || (h.fa = h.fb && h.fa.toNat < 12)

/-- The instruction that the decoder reads from a word numbered as the opcode table numbers it: the word's bytes, lowest
first, with zeros above `nbits`. -/
noncomputable def decodeTableWord (nbits w : Nat) : Option Instr :=
  match decode (leBytes 4 (w % 2 ^ nbits)) with
  | .ok (i, _) => some i
  | .error _ => none

end Sys2Proof
end

