-- ==== Sys2Proof/Machine/Table.lean ====
section
/-! DEFINITION. Tables: a list of keys and values with strictly rising keys, in which no entry holds the value that an unlisted
key reads as. Equal tables are equal lists. Memory is such a table of bytes (Host.Cell). -/

namespace Sys2Proof.Machine

/-- A table of values at natural-number keys. -/
abbrev Tab (α : Type) := List (Nat × α)

/-- The value at a key; `d` where the key is not listed. -/
def Tab.get {α : Type} (d : α) : Tab α → Nat → α
  | [], _ => d
  | (k, v) :: t, n => if k = n then v else Tab.get d t n

/-- The value at a key, if listed. -/
def Tab.find {α : Type} : Tab α → Nat → Option α
  | [], _ => none
  | (k, v) :: t, n => if k = n then some v else Tab.find t n

/-- Remove a key. -/
def Tab.del {α : Type} : Tab α → Nat → Tab α
  | [], _ => []
  | (k, v) :: t, n => if k = n then Tab.del t n else (k, v) :: Tab.del t n

/-- Write a value at a key, keeping the keys strictly rising. -/
def Tab.ins {α : Type} : Tab α → Nat → α → Tab α
  | [], n, v => [(n, v)]
  | (k, w) :: t, n, v =>
    if n < k then (n, v) :: (k, w) :: t
    else if n = k then (n, v) :: t
    else (k, w) :: Tab.ins t n v

/-- Write a value at a key; writing what an unlisted key reads as removes the entry. -/
def Tab.put {α : Type} [DecidableEq α] (d : α) (t : Tab α) (n : Nat) (v : α) : Tab α :=
  if v = d then Tab.del t n else Tab.ins t n v

/-- The canonical form: keys strictly rising, no entry equal to the value of an unlisted key. -/
def Tab.wf {α : Type} [DecidableEq α] (d : α) : Tab α → Bool
  | [] => true
  | [(_, v)] => v ≠ d
  | (k, v) :: (k', v') :: t => v ≠ d && k < k' && Tab.wf d ((k', v') :: t)

/-- Write consecutive values from a key upwards. -/
def Tab.putList {α : Type} [DecidableEq α] (d : α) (t : Tab α) (n : Nat) : List α → Tab α
  | [] => t
  | v :: vs => Tab.putList d (Tab.put d t n v) (n + 1) vs

/-- Read `n` consecutive values from a key upwards. -/
def Tab.getList {α : Type} (d : α) (t : Tab α) (k : Nat) : Nat → List α
  | 0 => []
  | n + 1 => Tab.get d t k :: Tab.getList d t (k + 1) n

/-- The value that an association list holds for a key. -/
def assocGet {κ α : Type} [DecidableEq κ] : List (κ × α) → κ → Option α
  | [], _ => none
  | (k, v) :: t, n => if k = n then some v else assocGet t n

/-- Replace the value of a key in an association list, or add the pair at the end. -/
def assocPut {κ α : Type} [DecidableEq κ] : List (κ × α) → κ → α → List (κ × α)
  | [], n, v => [(n, v)]
  | (k, w) :: t, n, v => if k = n then (n, v) :: t else (k, w) :: assocPut t n v

/-- Remove a key from an association list. -/
def assocDel {κ α : Type} [DecidableEq κ] : List (κ × α) → κ → List (κ × α)
  | [], _ => []
  | (k, w) :: t, n => if k = n then assocDel t n else (k, w) :: assocDel t n

end Sys2Proof.Machine
end

