-- ==== Sys2Proof/Machine/State.lean ====
section
/-! DEFINITION. The state of the module as plain data: every piece of state that the spec gives the machine, the reset state, and
the reasons for which a step stops. Sparse tables (`Tab`) read as 0 where nothing is listed. -/

namespace Sys2Proof.Machine

open Sys2Proof

/-- Why a step stops with a fault. -/
inductive Fault where
  /-- Raised by an event that names a unit the module does not have (a core above 319, a cluster above 79, a die above 3, a
  partition above 7). Safe: no such event exists. -/
  | noSuchUnit (event : String)
  deriving DecidableEq, Repr

/-- Why a step is refused. -/
inductive Refusal where
  /-- Raised by an arm of `exec` whose instruction has no meaning yet. Safe: nothing runs. -/
  | notModelled (mnemonic : String)
  /-- Raised by an instruction when no wave or command processor with a group that can issue is selected. Safe: an instruction has
  no effect without an issuer (R37). -/
  | noIssuer
  /-- Raised by an event of the table whose condition does not hold in this state. Safe: the event does not come about. -/
  | notEnabled (event : String)
  deriving DecidableEq, Repr

/-- A thread's status (R25, R58). -/
inductive Stat where
  | running | waiting | parked | exited
  deriving DecidableEq, Repr

/-- A thread record (R58). `p7` is always true and has no storage (R62); `grp` is the GRP byte as last written back or stored.
`arg` is the model's copy of the barrier number that a `JOIN` or `BAR` wait names (the instruction at PC names it, R58); at an `ERET` it is 256 once
the thread has waited there. `seen` is the `s` words as the thread sees them since it began its clause (R69, R210). -/
structure Thread where
  pc    : DWord := 0
  spill : Nat := 0
  pred  : BitVec 7 := 0
  cpos  : BitVec 4 := 0
  stat  : Stat := .exited
  kind  : BitVec 6 := 0
  grp   : Byte := 0
  chdr  : Word := 0
  arg   : Nat := 0
  seen  : Tab Word := []
  deriving DecidableEq, Repr

/-- The classes of waves (R49, `WV_STATUS.CLASS`). -/
inductive WaveClass where
  | active | pending | memory
  deriving DecidableEq, Repr

/-- A wave's state (R57 to R63, R331, R381): registers, threads, handler state. `v` is keyed by 32·n + lane, `spill` by 32·entry +
lane. `groups` holds the issue groups, the leading one first and then the deferred ones, longest deferred first (R37, R38).
`absent` lists the 128-byte lines of the wave
block that the register cache does not hold, and `sLine` where it does not hold the team's `s` words; `frames` the frame of each held line, plus 1,
as translated at its fill (R75). `needs` is the lines that the next instruction names, as a test for a register miss found them (R73).
`synced` holds for a line the bytes, plus 1, that memory took or gave when the line was last written back or filled, with 0 for a byte
written since: a held line is dirty unless all its bytes are still those, and `dirtied` lists the lines that became dirty in this step
(R73, R75, R367). `poison` is keyed by 64-byte granule of the wave block. `cpu`
marks the thread of a command processor, whose `v` names are `k` registers (R351). `pendEng` marks the pending
codes that an engine transfer met (R390). `slot` is the wave's place in its quarter's active or pending set, and `since` the fclk count,
plus 1, at which it was last left without a running group (R49, R358). `edited` is set while a level-1 store has changed the
header of a parked wave, `edits` holds the bytes stored while only some threads of the wave are parked, which take effect when these
resume (R432), `recheck` when a condition for which its groups wait may have come to hold, and `resumed` when its waits
are to be repeated because it resumes (R51, R244). `missing` lists the lines whose fill a register
miss has started (R73, R358). `waited` is the lanes that waited at the end of the latest step, and `flagSince` the
fclk count, plus 1, since which a group waits for a flag (R50). `relFence` is the lanes that have executed a `FENCE.rel` at `.core`: each of their
strong writes is a release (R129, R132). `kept` holds the issue groups of a wave parked with
`CONTEXT` (R74). `parkReq` is set while a `PARK` waits for a masked handler, and `parkWait` holds the targets for which groups
of this wave wait at a `PARK` (R347). -/
structure Wave where
  threads : List Thread := []
  groups  : List LaneMask := []
  v       : Tab Word := []
  k       : Tab Word := []
  spill   : Tab Word := []
  flags   : Tab Nat := []
  masks   : Tab LaneMask := []
  hang    : Nat := 0
  sticky  : Word := 0
  tm      : Bool := false
  pnu     : Bool := false
  spk     : Bool := false
  cpk     : Bool := false
  cls     : WaveClass := .memory
  code    : Byte := 0
  tcode   : Byte := 0
  epc     : BitVec 57 := 0
  ecpos   : BitVec 4 := 0
  echdr   : Word := 0
  emask   : LaneMask := 0
  pend    : Word := 0
  pendEng : Word := 0
  latch   : Option DWord := none
  absent  : List Nat := []
  synced  : Tab (List Nat) := []
  dirtied : List Nat := []
  frames  : Tab Nat := []
  edited  : Bool := false
  edits   : Tab Byte := []
  recheck : Bool := false
  resumed : Bool := false
  missing : List Nat := []
  needs   : List Nat := []
  kept    : List LaneMask := []
  waited  : LaneMask := 0
  flagSince : Nat := 0
  relFence : LaneMask := 0
  parkReq : Bool := false
  parkWait : List (LaneMask × List WaveKey) := []
  poison  : Tab Nat := []
  quarter : Nat := 0
  slot    : Nat := 0
  since   : Nat := 0
  perf    : BitVec 2 := 0
  issued  : Nat := 0
  tokens  : Word := 0
  stopReq : Option Nat := none
  done    : Bool := false
  cpu     : Bool := false
  deriving DecidableEq, Repr

/-- The number, in a wave's lists of lines, of the line that holds its team's `s` words (R60): above every line of a wave block. -/
def sLine : Nat := 4096

/-- A row slot (R114 to R119, R270): STATE, ROW, BANK, LEASE; the sensed row with the poison codes of its granules (R393), the held ordinary writes
in arrival order, and whether the leaf permits writes. `writes` counts the writes held (R390). -/
structure RowSlot where
  st    : BitVec 2 := 0
  row   : BitVec 12 := 0
  bank  : BitVec 6 := 0
  lease : Nat := 0
  snap  : Tab Byte := []
  codes : Tab Nat := []
  held  : List Host.Cell := []
  writes : Nat := 0
  wr    : Bool := false
  deriving DecidableEq, Repr

/-- A gang register with its rendezvous latch (R46, R47). -/
structure Gang where
  list    : List Nat := []
  latch   : Option DWord := none
  arrived : LaneMask := 0
  deriving DecidableEq, Repr

/-- A team's grants and core-resident state (R24, R27, R56, R110, R336). `tiles` holds the 64-bit tile-table entries, `readers` the
consumers in flight per entry, `tileMem` and `z` the bytes of the region and the words of the accumulator tiles (2,048 words each):
`zSet` lists the tiles that were cleared, and an unlisted word of another tile is the free value that `zInit` numbers (DESIGN CHOICE, log entry 26).
`saved` is set while the team lies in memory; `move` is its move slot. `sFrame` is the physical page of the team block as recorded at fill,
`sDrop` holds the `s` words as they were dropped while the register cache does not hold them, `sSync` those that memory last took or gave
while it holds them unwritten, and `sDirtied` is set when they are first written after that (R75, R347, R367). `sBy` names the latest writer of
an `s` word in one fclk of the core (R69), and `placedNo` numbers the placements (R358). -/
structure Team where
  slot    : Nat := 0
  core    : Nat := 0
  waves   : List Wave := []
  s       : Tab Word := []
  lagoon  : Tab Byte := []
  tiles   : Tab DWord := []
  readers : Tab Nat := []
  tileMem : Tab Byte := []
  z       : Tab Word := []
  zSet    : List Nat := []
  zInit   : Nat := 0
  placed  : Bool := false
  rows    : Tab RowSlot := []
  gangs   : Tab Gang := []
  routes  : Tab (List Word) := []
  bars    : Tab LaneMask := []
  lagPoison  : Tab Nat := []
  tilePoison : Tab Nat := []
  zPoison    : Tab Nat := []
  placedAt : Nat := 0
  sFrame  : Option Nat := none
  sDrop   : Option (Tab Word) := none
  sSync   : Option (Tab Word) := none
  sDirtied : Bool := false
  sBy     : Tab Nat := []
  placedNo : Nat := 0
  vacate  : Bool := false
  saved   : Bool := false
  move    : Option Nat := none
  deriving DecidableEq, Repr

/-- The lagoon held for an exited member of an archipelago (R36): the core whose unified store holds it (511: none while the other members lie in
memory), its size, its last contents and their poison (R392). -/
structure HeldLagoon where
  core   : Nat
  len    : Nat
  bytes  : Tab Byte := []
  poison : Tab Nat := []
  deriving DecidableEq, Repr

/-- A kernel descriptor (R180). -/
structure KDesc where
  entry : DWord := 0
  handler : DWord := 0
  nregs : Nat := 8
  tx : Nat := 1
  ty : Nat := 1
  tz : Nat := 1
  lagoon : Nat := 0
  tiles : Nat := 0
  ztiles : Nat := 0
  rows : Nat := 0
  gangs : Nat := 0
  routes : Nat := 0
  trapIV : Bool := false
  trapOF : Bool := false
  code : Nat := 0
  deriving DecidableEq, Repr

/-- A child of a grid (R33, R282): its exception summary once it has retired, and whether a `GWAIT` consumed it. -/
structure Child where
  gid     : Nat
  summary : Option Word := none
  used    : Bool := false
  deriving DecidableEq, Repr

/-- A live grid (R30 to R35, R278 to R280, R353). `returned` holds teams that a die gave back, which keep their slots; `order` is the
acceptance order; `queue` the command queue whose entry launched it. -/
structure Grid where
  desc    : KDesc := {}
  gx : Nat := 1
  gy : Nat := 1
  gz : Nat := 1
  segBase : DWord := 0
  slots   : Nat := 1
  arch    : Nat := 1
  prio    : Nat := 0
  args    : List Byte := []
  depth   : Nat := 0
  parent  : Option GridKey := none
  children : List Child := []
  next    : Nat := 0
  returned : List Nat := []
  used    : List Nat := []
  exited  : Nat := 0
  summary : Word := 0
  order   : Nat := 0
  queue   : Option Nat := none
  recHeld : Bool := false
  deriving DecidableEq, Repr

/-- Where one lane's access goes: memory at a physical address (and whether its page keeps it out of the L1 or writes through), a byte of a lagoon,
context bytes, whose value was taken at issue with their poison code, or the device-register window (R64 to R67, R100, R101, R106, R368, R369). -/
inductive Place where
  | mem (pa : Nat) (nc row : Bool)
  | lagoon (t : TeamKey) (off : Nat)
  | ctx (vals : List Byte) (code : Nat := 0)
  | dev (pa : Nat)
  deriving DecidableEq, Repr

/-- One lane's access of an operation in flight: its result once performed (R126). -/
structure LaneAcc where
  lane    : Nat
  place   : Place
  operand : DWord := 0
  compare : DWord := 0
  result  : Option (List Byte) := none
  skip    : Bool := false
  deriving DecidableEq, Repr

/-- A copy in flight (R253 to R256): `tile` names the entry that it fills or drains; `done` and `added` count the bytes moved and
the bytes added on the barrier object; `refused` the bytes refused under R122. -/
structure Copy where
  src : DWord := 0
  dst : DWord := 0
  len : Nat := 0
  stride : Nat := 0
  rowLen : Nat := 0
  tile : Option Nat := none
  fill : Bool := false
  base : Nat := 0
  bar  : Option DWord := none
  done : Nat := 0
  added : Nat := 0
  refused : Nat := 0
  deriving DecidableEq, Repr

/-- A compute instruction of the matrix engine with its operands as read at issue (R260 to R264). `a` holds the 32·c rows of A,
each the words of its block; `sa` the A scales; `waves` the waves of the gang in order. -/
structure MatOp where
  waves : List Nat := []
  q     : Nat := 0
  c     : Nat := 1
  fmtA  : Nat := 0
  fmtB  : Nat := 0
  kk    : Nat := 32
  trans : Bool := false
  quant : Bool := false
  a     : List (List Word) := []
  sa    : List Word := []
  tile  : Nat := 0
  entry : DWord := 0
  entry2 : DWord := 0
  deriving DecidableEq, Repr

/-- A conversion and send of an accumulator tile (R267, R276); `sticky` gathers the flags of its conversions (R98). -/
structure Epi where
  z    : Nat
  ofmt : Nat
  rnd  : Nat
  addr : DWord
  route : Option (List Word) := none
  done : Nat := 0
  sticky : Word := 0
  deriving DecidableEq, Repr

/-- What an operation in flight does (R249). -/
inductive OpKind where
  | load (size : Nat) (sext : Bool) (dst : Nat) (uniform last home acq : Bool)
  | atomic (op : BitVec 5) (dst : Option Nat) (home acq rel : Bool)
  | store (size : Nat) (row : Bool)
  | semTake (dst : Nat)
  | semRead (dst : Nat)
  | copy (c : Copy)
  | mma (m : MatOp)
  | zclr (z n : Nat)
  | zld (z : Nat) (addr : DWord) (done : Nat)
  | zst (z : Nat) (addr : DWord) (done : Nat)
  | zepi (e : Epi)
  | zmovV (z q b : Nat)
  | zmovZ (z q : Nat) (vals : List (Nat × List Word))
  | rowact (slot : Nat) (pa : Nat)
  | rowcon (slot tile base : Nat)
  | rowput (slot tile base : Nat)
  | launch (dst : Nat) (status : List (Nat × Word × Word)) (child : Option (GridKey × Grid))
  deriving DecidableEq, Repr

/-- An operation in flight: issued and not yet completed (R174, R249). `flags` names the counters that it holds, `queue` the
command queue whose entry it is, `held` the address at which a missing page holds it, `cause` what its wave takes at its end. `who` and
`quarter` are its wave's WaveBase and quarter at issue, which a halt header names when the team is gone (R390); `early` the destination words
(register and lane; lane 32 for `k`) that a thread could read before the completion, which does not write them again (R175), and `low` the first
byte of a transfer that was refused (R391). -/
structure Op where
  id    : Nat
  agent : Agent
  pc    : DWord := 0
  core  : Nat := 511
  lanes : LaneMask := 0
  flags : List (Agent × Nat) := []
  kind  : OpKind
  accs  : List LaneAcc := []
  held  : Option DWord := none
  cause : Option Nat := none
  queue : Option Nat := none
  who   : DWord := 0
  quarter : Nat := 0
  early : List (Nat × Nat) := []
  low   : Option Nat := none
  deriving DecidableEq, Repr

/-- The bytes of a barrier or semaphore object: physical memory, or a lagoon (R122, R237). -/
inductive ObjAddr where
  | mem (pa : Nat)
  | lagoon (t : TeamKey) (off : Nat)
  deriving DecidableEq, Repr

/-- A waiter registered at an object (R122, R239, R243): threads of an agent, or a command-queue entry. `value` is what it waits
for: a phase, or a semaphore value; `scope` that of the acquire at its release (R136, R141). -/
structure Waiter where
  obj   : ObjAddr
  agent : Agent
  lanes : LaneMask
  queue : Option Nat
  value : Word
  phase : Bool
  scope : Nat := 3
  deriving DecidableEq, Repr

/-- A release recorded in an L1 (R132): the object's address and the bytes that were dirty when it was recorded. -/
structure Release where
  addr  : Nat
  bytes : List Nat
  deriving DecidableEq, Repr

/-- A store whose bytes lie in an L1 (R122, R390, R394): its agent, its number, and the WaveBase and quarter of its wave at issue. -/
structure StoreId where
  agent : Agent
  num   : Nat
  who   : DWord := 0
  quarter : Nat := 0
  deriving DecidableEq, Repr

/-- A write on its way through an L1 to its home point (R102, R368, R369): bytes that move together, the store that they are of, and whether
they go through to DRAM. -/
structure Through where
  addr  : Nat
  bytes : List Byte
  who   : Option StoreId
  row   : Bool
  deriving DecidableEq, Repr

/-- A core's L1 (R102, R133): clean copies of 64-byte sectors, dirty bytes, release records, and the queue of write-throughs. `owners` names
the latest store to each 8 bytes of dirty bytes, whose agent takes the cause if their write-back is refused (R122, R394); `refused` the stores of
which bytes were refused, the lowest cause of each, and whether its agent has taken it (R395); `whole` lists the 64-byte granules that were written
whole over poison (R393). -/
structure L1 where
  clean : Tab (List Byte) := []
  dirty : Tab Byte := []
  recs  : List Release := []
  wtq   : List Through := []
  poison : Tab Nat := []
  owners : Tab StoreId := []
  refused : List (StoreId × Nat × Bool) := []
  whole : List Nat := []
  deriving DecidableEq, Repr

/-- A core (R12 to R15, R304, R356, R415): L1, the four token shares, heat, deficit, gating, the lclk counts of the latest row activations, the time
at which a wave of it last had a running group, and the fclk count of its latest refill. `cut` is the lagoon bytes granted when its unified store
was last divided (R70), and `harbour` the context whose image lies in its harbour rows (R341), with that image's division in `harbourCut`. `round`
numbers the fclk in which its quarters issue, `units` holds the units that have taken an instruction in it, unit u of quarter q at bit 5 · q + u, and
`lastPos` the place of the latest issue in the order of R359: at an edge, or where no unit is left for an instruction or its place has passed, another
fclk has begun (R12, R69, R112, R185). `sfFree` is the lclk count at which a quarter's special-function pipe is free again (R12). -/
structure Core where
  l1      : L1 := {}
  shares  : List Int := [0, 0, 0, 0]
  heat    : Nat := 0
  deficit : Int := 0
  gated   : Bool := false
  acts    : List Nat := []
  busyAt  : Nat := 0
  refillAt : Nat := 0
  cut     : Nat := 0
  harbour : Option Nat := none
  harbourCut : Nat := 0
  round   : Nat := 0
  units   : BitVec 20 := 0
  lastPos : Nat := 0
  sfFree  : Tab Nat := []
  deriving DecidableEq, Repr

/-- A translation held by a cluster (R371, R372). `place` is 0 in the cluster TLB, 1 + j in the micro-TLB of its core j, and 5 + j in the victim
storage of core j. -/
structure TlbEntry where
  ctx   : Nat
  vpage : Nat
  bits  : Nat
  pte   : DWord
  addr  : Nat
  place : Nat := 0
  deriving DecidableEq, Repr

/-- A cluster (R17, R20, R308, R309, R414): ratio setting (1 half, 2 equal, 3 double), clock counts, stretched lclk left with the fclk count at which
they begin, fclk of halved issue left plus 1 (0: none in force, 66: the fclk in progress is one of an earlier trip), the time of its latest fclk edge
in eighths of a ns, temperature, the times of droop trips, of the latest vote and of the latest heat update, and cached translations. -/
structure Cluster where
  ratio  : BitVec 2 := 2
  cyc    : Nat := 0
  lclk   : Nat := 0
  stretch : Nat := 0
  stretchAt : Nat := 0
  halved : Nat := 0
  edgeAt : Nat := 0
  temp   : Nat := 0
  trips  : List Nat := []
  voteAt : Nat := 0
  heatAt : Nat := 0
  tlb    : List TlbEntry := []
  deriving DecidableEq, Repr

/-- A team sent to a die and not yet placed (R354, R357), with the number of its batch; `moved` by spatial pre-emption (R398). -/
structure Sent where
  team  : TeamKey
  batch : Nat
  moved : Bool := false
  deriving DecidableEq, Repr

/-- A compute die (R11, R356, R357, R407): its queue of teams, the ring pointer of each partition, the clocks that the head of the queue has waited,
the batches that waited first for their partitions when the die lost cores to spatial pre-emption, its token bucket and the time of its latest draw.
-/
structure Die where
  queue  : List Sent := []
  ptr    : Tab Nat := []
  wait   : Nat := 0
  lost   : List Nat := []
  bucket : Nat := 0
  drawAt : Nat := 0
  deriving DecidableEq, Repr

/-- An entry of a command queue (R283): a launch keeps its block and descriptor as read at issue. -/
inductive QEntry where
  | launch (blk : List Word) (desc : KDesc)
  | copy (blk : List Word)
  | semw (addr : DWord) (v : Word)
  | sems (addr : DWord) (v : Word)
  | irq (vec : Nat)
  deriving DecidableEq, Repr

/-- A command queue (R283, R352): its entries, whether the first has started, whether its start is held by a page fault, the entries
completed modulo 2^16, and whether `QUEUE_QUOTA` was raised for the present wait. `spilled` of the entries beyond 64 lie in the ring, the next
place of which is `ringNext`; `stuck` is the ring address at which a missing page holds the overflow engine (R360, R361). -/
structure CmdQueue where
  entries : List QEntry := []
  started : Bool := false
  held    : Option DWord := none
  completed : BitVec 16 := 0
  quota   : Bool := false
  spilled : Nat := 0
  ringNext : Nat := 0
  stuck   : Option DWord := none
  deriving DecidableEq, Repr

/-- A work entry posted by a wave (R272); `armed` once its test has passed (R289), `slot` its place in the pair's ring while it lies there (R273), and
`who`, `core` and `quarter` its wave's WaveBase, core and quarter at issue (R390). -/
structure WorkEntry where
  words : List Word
  wave  : WaveKey
  armed : Bool := false
  slot  : Option Nat := none
  who   : DWord := 0
  core  : Nat := 0
  quarter : Nat := 0
  deriving DecidableEq, Repr

/-- A queue pair (R273, R390): entries posted and not fired, entries fired and whose source is still to be read, counts, and the
source address at which a page fault holds it; `ringNext` and `stuck` as for a command queue. -/
structure QueuePair where
  entries : List WorkEntry := []
  firing  : List WorkEntry := []
  fired   : Word := 0
  done    : Nat := 0
  held    : Option DWord := none
  ringNext : Nat := 0
  stuck   : Option DWord := none
  deriving DecidableEq, Repr

/-- The header of a stop area (R390), the copies in flight at the halt, and the moment at which it was raised (R386). -/
structure HaltHdr where
  code  : Nat := 0
  tcode : Nat := 0
  src   : Nat := 0
  quarter : Nat := 0
  core  : Nat := 0
  who   : DWord := 0
  pc    : DWord := 0
  time  : Nat := 0
  lanes : LaneMask := 0
  copies : List (Nat × Nat) := []
  moment : Nat := 0
  deriving DecidableEq, Repr

/-- A page-fault record that waits for room in the ring (R374, R375): bytes 0 to 23. -/
structure PageRec where
  va   : DWord
  who  : DWord
  info : Word
  lanes : LaneMask
  kind : Nat
  deriving DecidableEq, Repr

/-- A context slot (R332, R338): its registers by index, the command-processor thread (`cp`, a wave of one lane), its queues, queue
pairs, counters, waiting page-fault records, the halt in progress, and the next grid identifier; `moved` counts the teams that the present vacation
has moved (R402), and `stopped` keeps the transfers that a cause stopped, for the stop record (R250, R390). -/
structure Ctx where
  reg     : Tab Word := []
  cp      : Wave := { cpu := true, threads := List.replicate 32 {} }
  queues  : List CmdQueue := List.replicate 12 {}
  qps     : Tab QueuePair := []
  counters : Tab Word := []
  pfWait  : List PageRec := []
  halt    : Option HaltHdr := none
  nextGid : Nat := 1
  moved   : Nat := 0
  stopped : List Op := []
  deriving DecidableEq, Repr

/-- A partition event that waits for the arbiter (R401 to R403). -/
structure EvRec where
  event   : Nat
  ctx     : Nat
  payload : List Byte
  rep     : Nat := 0
  deriving DecidableEq, Repr

/-- A swap in progress (R339, R344): the context that comes in, the one that goes out, whether the exchange is done, a recorded swap
back, and the time of the halt. -/
structure Swap where
  incoming : Nat
  outgoing : Option Nat
  exchanged : Bool := false
  back     : Bool := false
  haltAt   : Option Nat := none
  deriving DecidableEq, Repr

/-- An open ordered range (R293): its context and key fields, and the contributions held by rank. -/
structure OrdRange where
  ctx  : Nat
  addr : DWord
  len  : Nat
  op   : CollOp
  fmt  : Nat
  axis : Nat
  held : List (Nat × Delivery)
  deriving DecidableEq, Repr

/-- What waits in the fabric inbound queue of a partition (R360, R423). -/
inductive Inbound where
  | request (r : InRequest)
  | delivery (d : Delivery)
  deriving DecidableEq, Repr

/-- A partition (R333, R335): its registers by index, events held by the arbiter or waiting at their source, the swap in progress
and its open ordered ranges. `inFull` says that the fabric inbound queue on chip is full, `inq` holds what lies in its ring, the next place of
which is `inNext`, and `inStuck` the ring address at which a missing page holds it (R360, R361), with what was on its way there in `inHeld`;
`atSource` is the ordered contributions that wait at their sources for a range to complete (R293). -/
structure Part where
  reg    : Tab Word := []
  evq    : List EvRec := []
  swap   : Option Swap := none
  ranges : List OrdRange := []
  inFull : Bool := false
  inq    : List Inbound := []
  inNext : Nat := 0
  inStuck : Option DWord := none
  inHeld : Option Inbound := none
  atSource : List Delivery := []
  deriving DecidableEq, Repr

/-- A probe token in flight (R362). -/
structure Probe where
  origin : QueueName
  at_    : QueueName
  deriving DecidableEq, Repr

/-- An internal queue as far as R362 shows it: the clock count since which it stands full, and whether its reserve entry is spent. -/
structure QueueLoad where
  queue : QueueName
  since : Option Nat := none
  spent : Bool := false
  deriving DecidableEq, Repr

/-- A collective delivery on its way (R274, R276, R290, R296, R394, R395): its number, the agent that posted it, with the WaveBase, core and quarter
at issue, the operation whose completion waits for the answers, the context and counter that rise at the last answer, the answers outstanding,
the lowest cause met, and, when the target is this module, what it is still to take. `off` is where its bytes begin in the transfer (R391), `pair` the
context and queue pair of its entry (R390), `lost` is set when it needed a port that is down, so that nothing answers it (R420), and `sent` keeps the
address, KIND and length of one that left, for the record of a missing route (R420, R424). -/
structure Parcel where
  id    : Nat
  agent : Agent
  op    : Option Nat := none
  rise  : Option (Nat × Nat) := none
  left  : Nat := 1
  cause : Option Nat := none
  own   : Option Delivery := none
  who   : DWord := 0
  core  : Nat := 0
  quarter : Nat := 0
  off   : Nat := 0
  pair  : Option (Nat × Nat) := none
  lost  : Bool := false
  sent  : Option (DWord × Nat × Nat) := none
  deriving DecidableEq, Repr

/-- An intent that came on a port (R416): the rate planned for the interval before its first one, and the own intents that have left since. -/
structure Heard where
  port   : Nat
  before : Nat := 0
  age    : Nat := 0
  intent : Intent
  deriving DecidableEq, Repr

/-- A rise of the own plan (R416): the start of its interval, and the slots by which it is delayed. -/
structure Rise where
  since : Nat
  delay : Nat := 0
  deriving DecidableEq, Repr

/-- What leaves the module on a strait: a collective delivery, a request to a peer, a forwarded flit or its refusal, or a power intent (R420). -/
inductive OutMsg where
  | delivery (chip : Nat) (d : Delivery)
  | request (chip job : Nat) (addr : DWord) (kind len : Nat)
  | flit (port : Nat) (f : Flit)
  | intent (port : Nat) (i : Intent)
  | response (r : InRequest) (data : List Byte)
  | nack (chip job : Nat) (addr : DWord)
  | refusal (f : Flit)
  | msix (fn vec : Nat)
  | hostData (data : List Byte)
  deriving DecidableEq, Repr

/-- What the security controller and its flash hold (R425 to R428): the mask and the ceiling in force, the measurements with their versions, and in
flash the latest accepted configuration block, the recorded versions of the firmware and of the block, and the index of the identity key. -/
structure Security where
  enabled  : BitVec 320 := 0
  ceiling  : Nat := 2400
  version  : Nat := 0
  firmware : Nat := 0
  block    : Option ConfigBlock := none
  measures : List (List Byte × Nat) := []
  index    : Nat := 0
  deriving DecidableEq, Repr

/-- What moves in one step: an agent issues, an agent's waits are tested again, an event of the table, or one of the orders that the memory model
leaves open (R102, R105, R126, R127, R135): a write-back, the refusal of one by a peer or its time-out (R394, R395), an eviction, a write to DRAM, a
write-through, one lane's access of an operation in flight, the early arrival of a word of its result (R175), the loss of a cached translation or
its move to a core's victim storage (R371), a 16-byte block that a grid's instruction fetch may go on returning (R154), the movement of bytes by an
engine, a target's answer to a collective delivery, this module's taking of its own one (R290, R296), how full an internal queue (R362) or a fabric
inbound queue (R361) stands, or the serving of what lies in an inbound ring. -/
inductive What where
  | issue (a : Agent)
  | retry (a : Agent)
  | event (i : Instr)
  | writeBack (core addr : Nat)
  | refuseBack (core addr : Nat) (late done : Bool)
  | evict (core sector : Nat)
  | llcClean (addr : Nat)
  | drain (core : Nat)
  | perform (op lane : Nat)
  | early (op lane word : Nat)
  | tlbDrop (cluster idx : Nat)
  | tlbVictim (cluster idx core : Nat)
  | holdCode (grid : GridKey) (block : Nat)
  | move (op n : Nat)
  | answer (id : Nat)
  | deliver (id : Nat)
  | queueLoad (q : QueueName) (level : Nat)
  | inboundFull (p : Nat) (full : Bool)
  | inbound (p : Nat)
  deriving DecidableEq, Repr

/-- An aligned 16-byte block of code as it stood before a store, which the instruction fetch of a running grid may still return (R154). A store
lies in one block, so a fetch takes all of it or nothing of it. -/
structure CodeHold where
  grid  : GridKey
  block : Nat
  bytes : List Byte
  deriving DecidableEq, Repr

/-- One entry of the agenda: the reference ticks that pass first, the hub fclk edges (R22) and the fclk edges of each cluster that pass, as far as
its clock allows them (R20, R309), and what moves then. -/
structure Act where
  ticks : Nat := 0
  hub   : Nat := 0
  edges : List (Nat × Nat) := []
  what  : What
  deriving DecidableEq, Repr

/-- The state of the module. `agenda`, `issuer`, `turn`, `freeCtr` and `opCtr` are the model's own fields (log entries 1 to 3): the order in which
the units move, the agent whose instruction runs, the rotation of the default order, and the counters of the free values and of the operations.
`home` is every byte below the caches: DRAM by canonical physical address, host memory, and peer memory from 2^64 upwards; `llc` the bytes of the
LLCs that DRAM does not hold yet. `codeOld` is what instruction fetch of a grid may return from before a store (R154). `hubCyc` counts the hub fclk
(R22), and `moment` the entries of the agenda in which time passed: what happens at one moment happens in one fclk. `pkg` is the package bucket and
`pkgAt` the tick up to which it has gained, `pkgDue` the charges to it with their ticks that it has not paid yet (R408), `rate` the token rate,
which `PW_RATE` shows, `awaiting` the collective deliveries that are not answered yet, `served` the partition that the global dispatcher served last
(R353), `above` the µs for which the draw has stayed above the budget, `govAt` and `intentAt` the times of the latest governor step and intent,
`plan` the plan last sent, `intents` the latest intent of each port, `rises` the own rises that the plan holds (R416), and `droopOld` the thresholds
before the latest writes of `PW_DROOPTHR`, each with the time at which the write has reached every cluster. -/
structure State where
  parts    : List Part
  ctxs     : List Ctx
  grids    : List (GridKey × Grid)
  teams    : List (TeamKey × Team)
  heldLag  : List (TeamKey × HeldLagoon)
  cores    : Tab Core
  clusters : Tab Cluster
  dies     : List Die
  served   : Nat
  ops      : List Op
  waiters  : List Waiter
  home     : Tab Byte
  llc      : Tab Byte
  poison   : Tab Nat
  codeOld  : List CodeHold
  dv       : Tab Word
  pw       : Tab Word
  timeRef  : Nat
  hubCyc   : Nat
  moment   : Nat
  pkg      : Nat
  pkgAt    : Nat
  pkgDue   : List (Nat × Nat)
  rate     : Nat
  above    : Nat
  govAt    : Nat
  intentAt : Nat
  plan     : List Word
  rises    : List Rise
  droopOld : List (Nat × Nat)
  sec      : Security
  awaiting : List Parcel
  msixPend : List (Nat × Nat)
  msixMask : List (Nat × Nat)
  out      : List OutMsg
  intents  : List Heard
  intentSeq : BitVec 16
  probes   : List Probe
  loads    : List QueueLoad
  issuer   : Option Agent
  agenda   : List Act
  turn     : Nat
  freeCtr  : Nat
  opCtr    : Nat
  deriving DecidableEq, Repr

/-- The canonical form of memory: a list of cells (Host.Cell) with addresses strictly rising and no entry equal to 0, what an
unlisted address reads as (DESIGN CHOICE, log entry 6). -/
def Memory.wf (s : State) : Bool := Tab.wf 0 s.home

/-- The reset prices of the entries listed in R302, by entry index 8 · class + slot. -/
def resetPrices : Tab Word :=
  [(0, 8), (1, 24), (2, 16), (3, 4), (4, 4),
   (8, 20), (9, 32), (10, 48), (11, 12), (12, 24), (13, 20), (14, 28),
   (16, 64), (17, 96), (18, 160), (19, 8), (20, 24), (21, 128), (22, 40), (23, 32),
   (24, 160), (25, 120), (26, 120), (27, 4), (28, 120), (29, 80), (30, 16),
   (32, 13000), (33, 13000), (34, 14000), (35, 14000), (36, 15000), (37, 10000), (38, 14000),
   (40, 24000), (41, 2000), (42, 2500), (43, 200),
   (48, 40), (49, 16), (50, 64)]

/-- The `PW_` registers at reset (R406): control, budget, ramp, droop threshold, heat inputs, reserve and prices; the others 0. -/
def resetPw : Tab Word :=
  [(0x000, 7), (0x001, 2400), (0x002, 150), (0x005, 30), (0x006, 0x446), (0x00B, 12000)] ++
    resetPrices.map fun (i, p) => (0x040 + i, p)

/-- A context slot at reset (R332): PCAP is 2, every other field 0. -/
def Ctx.reset : Ctx := { reg := [(0x000, 0x20)] }

/-- A partition at reset (R333): IDLE is 1, every other field 0. -/
def Part.reset : Part := { reg := [(0x000, 0x20)] }

/-- The machine right after reset: `DV_BOOT` reports RESET (R429), every register holds the reset value of its table, memory lists
nothing, no context is valid and nothing runs. -/
def State.reset : State where
  parts    := List.replicate 8 Part.reset
  ctxs     := List.replicate 16 Ctx.reset
  grids    := []
  teams    := []
  heldLag  := []
  cores    := []
  clusters := []
  dies     := List.replicate 4 {}
  served   := 7
  ops      := []
  waiters  := []
  home     := []
  llc      := []
  poison   := []
  codeOld  := []
  dv       := [(0x000, 0x0504)]
  pw       := resetPw
  timeRef  := 0
  hubCyc   := 0
  moment   := 0
  pkg      := 0
  pkgAt    := 0
  pkgDue   := []
  rate     := 0
  above    := 0
  govAt    := 0
  intentAt := 0
  plan     := []
  rises := []
  droopOld := []
  sec      := {}
  awaiting := []
  msixPend := []
  msixMask := []
  out      := []
  intents  := []
  intentSeq := 0
  probes   := []
  loads    := []
  issuer   := none
  agenda   := []
  turn     := 0
  freeCtr  := 0
  opCtr    := 0

end Sys2Proof.Machine
end

