-- ==== Sys2Proof/Machine/Ops.lean ====
section
/-! DEFINITION. The named operations on the state: agents and their waves, lanes, registers, system registers, partition events,
issue groups, and taking a cause (R379 to R387) with the return from a handler (R384). -/

namespace Sys2Proof.Machine

open Sys2Proof

/-! Bits. -/

/-- Replace bits `[lo + n - 1 : lo]` of a word. -/
def setBits (w : Word) (lo n v : Nat) : Word :=
  let m : Word := BitVec.ofNat 32 ((2 ^ n - 1) * 2 ^ lo)
  (w &&& ~~~m) ||| BitVec.ofNat 32 (v % 2 ^ n * 2 ^ lo)

/-- Bits `[lo + n - 1 : lo]` of a word, as a number. -/
def bits (w : Word) (lo n : Nat) : Nat := w.toNat / 2 ^ lo % 2 ^ n

/-- The lanes of a mask, in ascending order. -/
def lanesOf (m : LaneMask) : List Nat := (List.range 32).filter fun l => m.getLsbD l

/-- The mask that holds one lane. -/
def laneBit (l : Nat) : LaneMask := BitVec.ofNat 32 (2 ^ l)

/-- The mask of the lanes that pass a test. -/
def maskOf (p : Nat → Bool) : LaneMask := (List.range 32).foldl (fun m l => if p l then m ||| laneBit l else m) 0

/-- The number of lanes of a mask. -/
def laneCount (m : LaneMask) : Nat := (lanesOf m).length

/-- The lowest lane of a mask; 0 for an empty mask. -/
def lowLane (m : LaneMask) : Nat := (lanesOf m).headD 0

/-- The 64-bit value of two words, the lower one first (R62). -/
def pair (lo hi : Word) : DWord := hi ++ lo

/-- The low word of a pair. -/
def loWord (x : DWord) : Word := x.extractLsb' 0 32
/-- The high word of a pair. -/
def hiWord (x : DWord) : Word := x.extractLsb' 32 32

/-! Waves, teams, contexts. -/

/-- The partition of a context. -/
def partOf (ctx : Nat) : Nat := ctx / 2

namespace State

/-- A team, if it exists. -/
def team? (s : State) (t : TeamKey) : Option Team := assocGet s.teams t
/-- Write a team. -/
def putTeam (s : State) (t : TeamKey) (x : Team) : State := { s with teams := assocPut s.teams t x }
/-- A grid, if it is live. -/
def grid? (s : State) (g : GridKey) : Option Grid := assocGet s.grids g
/-- Write a grid. -/
def putGrid (s : State) (g : GridKey) (x : Grid) : State := { s with grids := assocPut s.grids g x }
/-- A context slot. -/
def ctx? (s : State) (c : Nat) : Option Ctx := s.ctxs[c]?
/-- A context slot; the reset one where the number names none. -/
def ctx (s : State) (c : Nat) : Ctx := s.ctxs[c]?.getD Ctx.reset
/-- Write a context slot. -/
def putCtx (s : State) (c : Nat) (x : Ctx) : State := { s with ctxs := s.ctxs.set c x }
/-- A partition; the reset one where the number names none. -/
def part (s : State) (p : Nat) : Part := s.parts[p]?.getD Part.reset
/-- Write a partition. -/
def putPart (s : State) (p : Nat) (x : Part) : State := { s with parts := s.parts.set p x }
/-- A core (R18, module-wide index). -/
def core (s : State) (c : Nat) : Core := s.cores.get {} c
/-- Write a core. -/
def putCore (s : State) (c : Nat) (x : Core) : State := { s with cores := s.cores.put {} c x }
/-- A cluster (module-wide index: 20 · die + cluster). -/
def cluster (s : State) (c : Nat) : Cluster := s.clusters.get {} c
/-- Write a cluster. -/
def putCluster (s : State) (c : Nat) (x : Cluster) : State := { s with clusters := s.clusters.put {} c x }
/-- A die. -/
def die (s : State) (d : Nat) : Die := s.dies[d]?.getD {}
/-- Write a die. -/
def putDie (s : State) (d : Nat) (x : Die) : State := { s with dies := s.dies.set d x }

/-- A wave, if it exists. -/
def wave? (s : State) (k : WaveKey) : Option Wave := (s.team? k.team).bind fun t => t.waves[k.idx]?
/-- Write a wave. -/
def putWave (s : State) (k : WaveKey) (w : Wave) : State :=
  match s.team? k.team with
  | some t => s.putTeam k.team { t with waves := t.waves.set k.idx w }
  | none => s

/-- The wave of an agent: a wave, or the one-lane thread of a command processor (R351). -/
def agent? (s : State) : Agent → Option Wave
  | .wave k => s.wave? k
  | .cp c => (s.ctx? c).map (·.cp)
/-- Write the wave of an agent. -/
def putAgent (s : State) (a : Agent) (w : Wave) : State :=
  match a with
  | .wave k => s.putWave k w
  | .cp c => s.putCtx c { s.ctx c with cp := w }
/-- Change the wave of an agent, if it exists. -/
def modAgent (s : State) (a : Agent) (f : Wave → Wave) : State :=
  match s.agent? a with
  | some w => s.putAgent a (f w)
  | none => s
/-- Change a team, if it exists. -/
def modTeam (s : State) (t : TeamKey) (f : Team → Team) : State :=
  match s.team? t with
  | some x => s.putTeam t (f x)
  | none => s
/-- Change a grid, if it is live. -/
def modGrid (s : State) (g : GridKey) (f : Grid → Grid) : State :=
  match s.grid? g with
  | some x => s.putGrid g (f x)
  | none => s

/-- A `CT_` register (R332). -/
def ctReg (s : State) (c i : Nat) : Word := (s.ctx c).reg.get 0 i
/-- Write a `CT_` register. -/
def setCtReg (s : State) (c i : Nat) (v : Word) : State :=
  let x := s.ctx c
  s.putCtx c { x with reg := x.reg.put 0 i v }
/-- A `PT_` register (R333). -/
def ptReg (s : State) (p i : Nat) : Word := (s.part p).reg.get 0 i
/-- Write a `PT_` register. -/
def setPtReg (s : State) (p i : Nat) (v : Word) : State :=
  let x := s.part p
  s.putPart p { x with reg := x.reg.put 0 i v }
/-- A `DV_` register (R334); `DV_ID` takes its STEP field from the configuration. -/
def dvReg (s : State) (i : Nat) : Word :=
  if i = 0 then setBits (s.dv.get 0 0) 16 8 Config.stepping.toNat else s.dv.get 0 i
/-- Write a `DV_` register. -/
def setDvReg (s : State) (i : Nat) (v : Word) : State := { s with dv := s.dv.put 0 i v }
/-- A `PW_` register (R406). -/
def pwReg (s : State) (i : Nat) : Word := s.pw.get 0 i
/-- Write a `PW_` register. -/
def setPwReg (s : State) (i : Nat) (v : Word) : State := { s with pw := s.pw.put 0 i v }

/-- The context is valid (R332). -/
def valid (s : State) (c : Nat) : Bool := (s.ctReg c 0).getLsbD 0
/-- The context's waves run at level 1 (R327, R332). -/
def sys (s : State) (c : Nat) : Bool := (s.ctReg c 0).getLsbD 1
/-- The context is the partition's running one (R332). -/
def running (s : State) (c : Nat) : Bool := (s.ctReg c 0).getLsbD 2
/-- The context has halted, or its halt line is raised (R332, R387). -/
def halted (s : State) (c : Nat) : Bool := (s.ctReg c 0).getLsbD 3 || (s.ctx c).halt.isSome

/-- Take the next free word, and advance the counter (DESIGN CHOICE, log entry 3). -/
def free (s : State) : Word × State := (Config.freeWord s.freeCtr, { s with freeCtr := s.freeCtr + 1 })
/-- Charge the package bucket (R408): it pays before any die draws in the same tick. -/
def chargePkg (s : State) (tokens : Nat) : State := { s with pkgDue := s.pkgDue ++ [(s.timeRef, tokens)] }
/-- Charge the package bucket an amount that no rule states (R408, DESIGN CHOICE, log entry 3). -/
def chargeOpen (s : State) : State := s.free.2.chargePkg s.free.1.toNat
/-- Take the next free Boolean, and advance the counter. -/
def choose (s : State) : Bool × State := (Config.choose s.freeCtr, { s with freeCtr := s.freeCtr + 1 })

end State

/-! Lanes and registers of a wave. -/

namespace Wave

/-- The thread of a lane. -/
def th (w : Wave) (l : Nat) : Thread := w.threads[l]?.getD {}
/-- Change the threads of a mask. -/
def modLanes (w : Wave) (m : LaneMask) (f : Thread → Thread) : Wave :=
  { w with threads := w.threads.mapIdx fun l t => if m.getLsbD l then f t else t }
/-- Change the `s` words as every thread of a wave sees them (R69). -/
def see (w : Wave) (f : Tab Word → Tab Word) : Wave := w.modLanes (BitVec.allOnes 32) fun t => { t with seen := f t.seen }
/-- The lanes whose thread has a status. -/
def lanesIn (w : Wave) (st : Stat) : LaneMask := maskOf fun l => decide ((w.th l).stat = st)
/-- The lanes that have not exited (R28). -/
def live (w : Wave) : LaneMask := maskOf fun l => decide ((w.th l).stat ≠ .exited)
/-- The leading group (R37); empty when the wave has no issuing group. -/
def lead (w : Wave) : LaneMask := w.groups.headD 0

/-- Register `k`n (R59). -/
def kreg (w : Wave) (n : Nat) : Word := w.k.get 0 n
/-- The bytes last shared with memory after n bytes of the wave block from `off` on are written: they count as written since. -/
def unsyncTab (t : Tab (List Nat)) (off n : Nat) : Tab (List Nat) :=
  match t.find (off / 128) with
  | none => t
  | some bs => t.ins (off / 128) (bs.mapIdx fun j b => if off % 128 ≤ j && decide (j < off % 128 + n) then 0 else b)
/-- The lines that became dirty, when n bytes from `off` on are written: a held line that agreed with memory joins them (R367). -/
def dirtiedBy (w : Wave) (off : Nat) : List Nat :=
  match w.synced.find (off / 128) with
  | none => w.dirtied
  | some bs => if w.absent.contains (off / 128) || bs.contains 0 then w.dirtied else w.dirtied ++ [off / 128]
/-- n bytes of the wave block from `off` on are written as registers: their line is dirty, and memory no longer gives them (R64, R75). -/
def unsync (w : Wave) (off n : Nat) : Wave := { w with synced := unsyncTab w.synced off n, dirtied := w.dirtiedBy off }
/-- Write register `k`n. -/
def setK (w : Wave) (n : Nat) (x : Word) : Wave := { w.unsync (64 * (n / 8) + 32 + 4 * (n % 8)) 4 with k := w.k.put 0 n x }
/-- Register `v`n of a lane (R57, R62); on a command processor it is `k`n (R351). -/
def vreg (w : Wave) (n l : Nat) : Word := if w.cpu then w.kreg n else w.v.get 0 (32 * n + l)
/-- Write register `v`n of a lane. -/
def setV (w : Wave) (n l : Nat) (x : Word) : Wave :=
  if w.cpu then w.setK n x else { w.unsync (2048 + 128 * n + 4 * l) 4 with v := w.v.put 0 (32 * n + l) x }
/-- The poison of a register line after an instruction wrote word `dst` of the lanes of a mask: a granule written whole loses its code
(R184, R393). -/
def rewriteLine (m : LaneMask) (p : Tab Nat) (line : Nat) : Tab Nat :=
  let p := if m.extractLsb' 0 16 = 0xFFFF#16 then p.del (2 * line) else p
  if m.extractLsb' 16 16 = 0xFFFF#16 then p.del (2 * line + 1) else p
/-- Register lines are written in the lanes of a mask (R393). -/
def rewritten (w : Wave) (m : LaneMask) (lines : List Nat) : Wave := { w with poison := lines.foldl (rewriteLine m) w.poison }
/-- The pair `k`n:`k`n+1. -/
def kpair (w : Wave) (n : Nat) : DWord := pair (w.kreg n) (w.kreg (n + 1))
/-- Write the pair `k`n:`k`n+1. -/
def setKpair (w : Wave) (n : Nat) (x : DWord) : Wave := (w.setK n (loWord x)).setK (n + 1) (hiWord x)
/-- The pair `v`n:`v`n+1 of a lane. -/
def vpair (w : Wave) (n l : Nat) : DWord := pair (w.vreg n l) (w.vreg (n + 1) l)
/-- Write the pair `v`n:`v`n+1 of a lane. -/
def setVpair (w : Wave) (n l : Nat) (x : DWord) : Wave := (w.setV n l (loWord x)).setV (n + 1) l (hiWord x)
/-- The k block i: `k`8i to `k`8i+7 (R247). -/
def kblock (w : Wave) (i : Nat) : List Word := (List.range 8).map fun j => w.kreg (8 * i + j)
/-- Predicate `p`j of a lane; `p7` is always true (R62). -/
def preg (w : Wave) (j l : Nat) : Bool := if j = 7 then true else (w.th l).pred.getLsbD j
/-- Write predicate `p`j of a lane; a write to `p7` is discarded (R62). -/
def setP (w : Wave) (j l : Nat) (x : Bool) : Wave :=
  w.modLanes (laneBit l) fun t =>
    if j < 7 then
      let m : BitVec 7 := BitVec.ofNat 7 (2 ^ j)
      { t with pred := if x then t.pred ||| m else t.pred &&& ~~~m }
    else t
/-- Write a spill entry of a lane (R61); `nr` is the kernel's count of registers. -/
def setSpill (w : Wave) (nr n l : Nat) (x : Word) : Wave :=
  { w.unsync (2048 + 128 * (nr + n) + 4 * l) 4 with spill := w.spill.put 0 (32 * n + l) x }
/-- Counter of `f`n (R62, R174). -/
def flag (w : Wave) (n : Nat) : Nat := w.flags.get 0 n
/-- Change the counter of `f`n. -/
def modFlag (w : Wave) (n : Nat) (f : Nat → Nat) : Wave := { w with flags := w.flags.put 0 n (f (w.flag n)) }
/-- Reconvergence mask j (R43). -/
def mask (w : Wave) (j : Nat) : LaneMask := w.masks.get 0 j
/-- Write reconvergence mask j. -/
def setMask (w : Wave) (j : Nat) (m : LaneMask) : Wave := { w with masks := w.masks.put 0 j m }
/-- OR bits into the floating-point sticky word (R96). -/
def addSticky (w : Wave) (x : Word) : Wave := { w with sticky := w.sticky ||| x }

/-- Do something for every lane of a mask, in ascending order. -/
def forLanes (w : Wave) (m : LaneMask) (f : Nat → Wave → Wave) : Wave := (lanesOf m).foldl (fun w l => f l w) w

/-! Issue groups (R37 to R39). -/

/-- The lanes of a mask that run, divided by program counter: each part in the order of its lowest lane. -/
def splitByPc (w : Wave) (m : LaneMask) : List LaneMask :=
  (lanesOf m).foldl
    (fun gs l =>
      if (w.th l).stat ≠ .running then gs
      else
        match gs.findIdx? fun g => decide ((w.th (lowLane g)).pc = (w.th l).pc) with
        | some i => gs.modify i (· ||| laneBit l)
        | none => gs ++ [laneBit l])
    []

/-- Add a group at the end, or merge it into the group that stands at the same address (R39). -/
def mergeGroup (w : Wave) (gs : List LaneMask) (g : LaneMask) : List LaneMask :=
  match gs.findIdx? fun h => decide ((w.th (lowLane h)).pc = (w.th (lowLane g)).pc) with
  | some i => gs.modify i (· ||| g)
  | none => gs ++ [g]

/-- The issue groups formed again from the threads (R37 to R39): a group whose threads stand at several addresses is divided and the
part of its lowest lane keeps its place (R217); every other running thread comes after every deferred group, the group of the lowest lane
first; groups at one address merge. The hang count restarts when the leading role passes, at a merge, and without a deferred group (R42). -/
def regroup (w : Wave) : Wave :=
  let kept := w.groups.flatMap fun g => (w.splitByPc g).take 1
  let all := kept ++ w.splitByPc (w.lanesIn .running &&& ~~~(kept.foldl (· ||| ·) 0))
  let gs := all.foldl w.mergeGroup []
  let passed := decide (gs.headD 0 &&& ~~~w.lead ≠ 0)
  { w with groups := gs, hang := if passed || decide (gs.length < 2) || decide (gs.length ≠ all.length) then 0 else w.hang }

/-- The leading group gives up its role and becomes deferred last; without a deferred group it keeps leading (R38, cases 5, 6). -/
def yieldLead (w : Wave) : Wave :=
  match w.groups with
  | g :: h :: gs => { w with groups := h :: gs ++ [g], hang := 0 }
  | _ => w

/-- The GRP byte of a lane (R58): bit [7] for a member of the leading group, else the deferral rank; 0 for a thread in no group. -/
def grpByte (w : Wave) (l : Nat) : Byte :=
  match w.groups.findIdx? (·.getLsbD l) with
  | some 0 => 0x80
  | some n => BitVec.ofNat 8 n
  | none => 0

/-- The issue groups rebuilt from STAT, GRP and PC at resumption (R432). R432 gives no rank to a group whose threads hold different GRP ranks, nor to
one with GRP bit [7] that does not lead: the first takes its lowest rank, the second 0 (DESIGN CHOICE, log entry 66). -/
def rebuildGroups (w : Wave) : Wave :=
  let gs := w.splitByPc (w.lanesIn .running)
  let leadOf (g : LaneMask) : Bool := (lanesOf g).any fun l => (w.th l).grp.getLsbD 7
  let rank (g : LaneMask) : Nat := ((lanesOf g).map fun l => (w.th l).grp.toNat % 32).foldl min 31
  let li : Nat :=
    match (List.range 32).find? fun l => (w.lanesIn .running).getLsbD l && (w.th l).grp.getLsbD 7 with
    | some l => l
    | none => lowLane (w.lanesIn .running)
  let first := gs.filter fun g => g.getLsbD li
  let rest := gs.filter fun g => !g.getLsbD li
  let sorted := (List.range 32).flatMap fun r => rest.filter fun g => (if leadOf g then 0 else rank g) = r
  { w with groups := first ++ sorted }

end Wave

/-! Addresses of a context segment (R57). -/

/-- Bytes of one wave block. -/
def waveStride (nr : Nat) : Nat := 2048 + 128 * nr + 16384
/-- The waves of a team (R26). -/
def KDesc.waves (d : KDesc) : Nat := (d.tx * d.ty * d.tz + 31) / 32
/-- Bytes of one team slot. -/
def KDesc.teamStride (d : KDesc) : Nat := (4096 + d.waves * waveStride d.nregs + 4095) / 4096 * 4096
/-- TeamBase of a slot. -/
def Grid.teamBase (g : Grid) (slot : Nat) : DWord := g.segBase + BitVec.ofNat 64 (slot * g.desc.teamStride)
/-- WaveBase of a wave of a slot. -/
def Grid.waveBase (g : Grid) (slot w : Nat) : DWord :=
  g.teamBase slot + BitVec.ofNat 64 (4096 + w * waveStride g.desc.nregs)

/-- WaveBase of an agent; 0 for a command processor, which has no wave (R330). -/
def State.whoBase (s : State) : Agent → DWord
  | .wave k =>
    match s.grid? k.team.grid, s.team? k.team with
    | some g, some t => g.waveBase t.slot k.idx
    | _, _ => 0
  | .cp _ => 0

/-- The context of an agent. -/
def ctxOf : Agent → Nat
  | .wave k => k.team.grid.ctx
  | .cp c => c

/-- The core of an agent; 511 for the hub die (R375, R390). -/
def State.coreOf (s : State) : Agent → Nat
  | .wave k => ((s.team? k.team).map (·.core)).getD 511
  | .cp _ => 511

/-- The cluster of a core, module-wide. -/
def clusterOf (core : Nat) : Nat := core / 4
/-- The die of a core. -/
def dieOf (core : Nat) : Nat := core / 80

/-- The kernel descriptor that an agent runs under. -/
def State.descOf (s : State) : Agent → KDesc
  | .wave k => ((s.grid? k.team.grid).map (·.desc)).getD {}
  | .cp _ => {}

/-- The privilege level of an agent (R327). -/
def State.level (s : State) : Agent → Nat
  | .wave k => if s.sys k.team.grid.ctx then 1 else 0
  | .cp _ => 1

/-! Team-shared registers (R60, R69). -/

/-- The standing of a write of an `s` word by an agent (R69): the fclk of its core, then a register write above a store, then the quarter, then
the wave slot. -/
def State.sharedKey (s : State) (a : Agent) (reg : Bool) : Nat :=
  match a with
  | .wave k =>
    match s.team? k.team, s.wave? k with
    | some t, some w => 64 * (s.core t.core).round + (if reg then 32 else 0) + 8 * w.quarter + w.slot % 8 + 1
    | _, _ => 0
  | .cp _ => 0

/-- Write an `s` word with a standing: a word written in the same fclk with a higher one stays, but for the same wave's own earlier write, which
keeps its standing (R69). A write that is in no fclk of the team's core, of standing 0, is written as it comes. -/
def Team.writeS (t : Team) (key n : Nat) (v : Word) : Team :=
  let old := t.sBy.get 0 n
  let later := key ≠ 0 && key < old && (key - 1) / 64 = (old - 1) / 64
  if later && (key - 1) % 32 ≠ (old - 1) % 32 then t
  else { t with s := t.s.put 0 n v, sBy := t.sBy.put 0 n (if later then old else key), sDirtied := t.sDirtied || t.sSync.isSome, sSync := none }

/-! Partition events (R401 to R404). -/

/-- The event ring is full: PUT − GET is 256 (R403). -/
def State.evRingFull (s : State) (p : Nat) : Bool :=
  let w := s.ptReg p 0x015
  decide ((bits w 0 16 + 65536 - bits w 16 16) % 65536 ≥ 256)

/-- Raise a partition event: it joins the arbiter's queue, or, while the ring is full and the arbiter holds 64, merges into an equal one of
these (R403). -/
def State.raiseEvent (s : State) (p event ctx : Nat) (payload : List Byte) : State :=
  let x := s.part p
  let r : EvRec := { event := event, ctx := ctx, payload := payload ++ List.replicate (16 - payload.length) 0 }
  let same (e : EvRec) : Bool := e.event = r.event && e.ctx = r.ctx && e.payload = r.payload
  match (x.evq.take 64).findIdx? same with
  | some i =>
    if s.evRingFull p && decide (64 ≤ x.evq.length) then
      s.putPart p { x with evq := x.evq.modify i fun e => { e with rep := min (e.rep + 1) 65535 } }
    else s.putPart p { x with evq := x.evq ++ [r] }
  | none => s.putPart p { x with evq := x.evq ++ [r] }

/-! Causes (R379 to R387). -/

/-- The cause codes (R379). -/
abbrev Cause := Nat
namespace Cause
abbrev ecc : Cause := 0x01
abbrev illegal : Cause := 0x02
abbrev priv : Cause := 0x03
abbrev clause : Cause := 0x04
abbrev resRange : Cause := 0x05
abbrev target : Cause := 0x06
abbrev align : Cause := 0x07
abbrev access : Cause := 0x08
abbrev page : Cause := 0x09
abbrev context : Cause := 0x0A
abbrev tile : Cause := 0x0B
abbrev rowEarly : Cause := 0x0C
abbrev rowState : Cause := 0x0D
abbrev rowBank : Cause := 0x0E
abbrev rowPlace : Cause := 0x0F
abbrev rowOwner : Cause := 0x10
abbrev barstore : Cause := 0x11
abbrev gang : Cause := 0x12
abbrev remote : Cause := 0x13
abbrev remoteTimeout : Cause := 0x14
abbrev fpInvalid : Cause := 0x15
abbrev fpOverflow : Cause := 0x16
abbrev trap : Cause := 0x17
abbrev brk : Cause := 0x18
abbrev preemptTimeout : Cause := 0x19

/-- The handler class (R379): `ALIGN`, the three row causes, the remote causes, the FP traps, `TRAP` and `BREAK`. -/
def handlerClass (c : Cause) : Bool :=
  c = align || (rowEarly ≤ c && c ≤ rowBank) || (remote ≤ c && c ≤ brk)
end Cause

/-- A halt header comes before another of the same fclk (R386): a cause before `HALTC`, then the lowest code, core and quarter. -/
def HaltHdr.before (h o : HaltHdr) : Bool :=
  let key (x : HaltHdr) : Nat := (((if x.src = 2 then 1 else 0) * 256 + x.code) * 512 + x.core) * 4 + x.quarter
  decide (key h < key o)

/-- The halt line of a context is raised with a header (R386, R387). A halt already raised, or completed, stays as it is, but for the
header where a halt of the same fclk comes before it. -/
def State.raiseHalt (s : State) (c : Nat) (h : HaltHdr) : State :=
  let x := s.ctx c
  if (x.reg.get 0 0).getLsbD 3 then s
  else
    match x.halt with
    | some o =>
      if o.moment = s.moment && h.before o then
        s.putCtx c { x with halt := some { h with time := o.time, copies := o.copies, moment := o.moment } }
      else s
    | none =>
      let copies := (s.ops.filter fun (o : Op) => ctxOf o.agent = c && (match o.kind with | .copy _ => true | _ => false)).map fun (o : Op) => (o.id, o.core)
      s.putCtx c { x with halt := some { h with time := s.timeRef, copies := copies, moment := s.moment } }

/-- The header of a halt by a cause of a wave (R390). -/
def State.haltHeader (s : State) (a : Agent) (code : Cause) (tcode : Byte) (src : Nat) (pc : DWord) (lanes : LaneMask) : HaltHdr :=
  { code := code, tcode := tcode.toNat, src := src, core := s.coreOf a,
    quarter := ((s.agent? a).map (·.quarter)).getD 0, who := s.whoBase a, pc := pc, lanes := lanes }

/-- Record the cause in `WV_CAUSE` (R331). -/
def Wave.setCause (w : Wave) (code : Cause) (tcode : Byte) : Wave :=
  { w with code := BitVec.ofNat 8 code, tcode := tcode }

/-- The word of `WV_CAUSE` (R331). -/
def Wave.causeWord (w : Wave) : Word := (w.tcode.setWidth 32 <<< 8) ||| w.code.setWidth 32

/-- The program counter as bits [56:0] (R58). -/
def pc57 (x : DWord) : BitVec 57 := x.extractLsb' 0 57
/-- A program counter: bits [63:57] are 0 (R58). -/
def pcOf (x : DWord) : DWord := (pc57 x).setWidth 64

/-- Threads step past an instruction of a size (R153, R172): past the last instruction of the clause the header is done and CPOS
is 0. -/
def Thread.advance (t : Thread) (size : Nat) : Thread :=
  let last := decide (t.cpos = (ClauseHeader.ofWord t.chdr).count)
  { t with pc := pcOf (t.pc + BitVec.ofNat 64 size), cpos := if last then 0 else t.cpos + 1, chdr := if last then 0 else t.chdr }

/-- Handler entry (R383): save the return point of the entering group, mask traps, write `k60` to `k63` and move the threads to the
handler. -/
def Wave.enterHandler (w : Wave) (e : LaneMask) (code : Cause) (tcode : Byte) (handler : DWord) (ret : Thread) : Wave :=
  let w := { w.setCause code tcode with epc := pc57 ret.pc, ecpos := ret.cpos, echdr := ret.chdr, emask := e, tm := true }
  let w := ((w.setK 60 w.causeWord).setK 61 e).setKpair 62 (w.epc.setWidth 64)
  w.modLanes e fun t => { t with pc := pcOf handler, cpos := 0, chdr := 0, stat := .running, kind := 0 }

/-- The program of a command processor waits at no queue any more (R352). -/
def Ctx.endWait (x : Ctx) : Ctx := { x with queues := x.queues.map fun q => { q with quota := false } }

/-- Take a cause in an agent (R351, R382, R385 to R387). `ret` is the return point, `pc` the program counter of the halt header,
`src` its SRC. On a command processor the program stops and `CP_FAULT` is raised; a handler-class cause enters the handler; every other
case halts the context. -/
def State.takeCause (s : State) (a : Agent) (e : LaneMask) (code : Cause) (tcode : Byte) (pc : DWord) (ret : Thread) (src : Nat) : State :=
  match a with
  | .cp c =>
    let r := s.ctReg c 0x009
    let s := s.setCtReg c 0x009 (setBits (setBits (setBits r 1 1 0) 3 1 1) 4 8 code)
    let s := s.modAgent a fun w => w.modLanes (BitVec.allOnes 32) fun t => { t with stat := .exited, kind := 0 }
    let s := s.putCtx c (s.ctx c).endWait
    s.raiseEvent (partOf c) 0x04 (c % 2) (leBytes 8 pc.toNat ++ [BitVec.ofNat 8 code])
  | .wave _ =>
    match s.agent? a with
    | none => s
    | some w =>
      if Cause.handlerClass code && !w.tm && (s.descOf a).handler != 0 then
        s.putAgent a (w.enterHandler e code tcode (s.descOf a).handler ret)
      else
        (s.putAgent a (w.setCause code tcode)).raiseHalt (ctxOf a) (s.haltHeader a code tcode src pc e)

/-- An asynchronous cause becomes pending in a wave (R380); in a wave that has exited it halts the context, with SRC 1 for a cause of
an engine transfer (R390), and with the WaveBase, core and quarter that the operation kept when the team is gone. A cause of a
command-queue entry or of a transfer of the hub die halts its context (R283); one of a command processor's own instruction stops its program
(R351): the program that runs then, or none after its exit (DESIGN CHOICE, log entry 67). -/
def State.pendCause (s : State) (a : Agent) (code : Cause) (src : Nat) (who : DWord := 0) (core quarter : Nat := 0) : State :=
  match a with
  | .cp c =>
    let t := (s.ctx c).cp.th 0
    if src = 0 then (if (s.ctReg c 0x009).getLsbD 1 then s.takeCause a 1 code 0 t.pc t 0 else s)
    else s.raiseHalt c { code := code, src := src, core := 511 }
  | .wave _ =>
    match s.agent? a with
    | none => s.raiseHalt (ctxOf a) { code := code, src := src, who := who, core := core, quarter := quarter }
    | some w =>
      if w.done || (w.live = 0#32) then s.raiseHalt (ctxOf a) (s.haltHeader a code 0 src 0 0)
      else
        let b : Word := BitVec.ofNat 32 (2 ^ code)
        s.putAgent a { w with pend := w.pend ||| b, pendEng := if src = 1 then w.pendEng ||| b else w.pendEng }

/-- The return from a handler (R384): every thread of `WV_EMASK` that has not exited takes the saved program counter, clause position
and header, and traps are unmasked. With clause position 0 no clause is in progress, so that its WAIT is tested (R222). -/
def Wave.returnFromHandler (w : Wave) : Wave :=
  let w' := w.modLanes (w.emask &&& w.live) fun t =>
    { t with pc := w.epc.setWidth 64, cpos := w.ecpos, chdr := if w.ecpos = 0 then 0 else w.echdr, stat := .running, kind := 0, arg := 0 }
  { w' with tm := false }

end Sys2Proof.Machine
end

