-- ==== Sys2Proof/Machine/Legal.lean ====
section
/-! DEFINITION. The encoding causes (R153 to R170): which field values are reserved, where an instruction may execute, which
registers and grants it names, which flag it counts on. -/

namespace Sys2Proof.Machine

open Sys2Proof

/-- An odd field: the first register of a pair must be even (R158). -/
def odd {n : Nat} (x : BitVec n) : Bool := decide (x.toNat % 2 = 1)

/-- A system register number that some chapter defines (R329): a group of 0 to 4, the C bit only in the `CT_` group, and a defined
index (R331 to R334, R340, R350, R360, R364, R375, R381, R393, R397, R399, R401, R406, R421, R424, R427, R429). -/
def regDefined (num : BitVec 16) : Bool :=
  let g := num.toNat / 0x2000
  let c := decide (num.toNat / 0x1000 % 2 = 1)
  let i := num.toNat % 0x1000
  match g with
  | 0 => !c && decide (i ≤ 0x007)
  | 1 => decide (i ≤ 0x016)
  | 2 => !c && decide (i ≤ 0x01A)
  | 3 => !c && (decide (i ≤ 0x00D) || (decide (0x010 ≤ i) && decide (i ≤ 0x013)) || (decide (0x020 ≤ i) && decide (i ≤ 0x023)) ||
      (decide (0x040 ≤ i) && decide (i ≤ 0x0BF)))
  | 4 => !c && (decide (i ≤ 0x010) || (decide (0x040 ≤ i) && decide (i ≤ 0x07F)))
  | _ => false

/-- The level that a write of a register needs (R329, R405). -/
def regWriteLevel (num : BitVec 16) : Nat :=
  let g := num.toNat / 0x2000
  let i := num.toNat % 0x1000
  if g ≤ 1 then 1
  else if g = 2 && (i = 0x007 || i = 0x008 || i = 0x01A) then 1
  else 2

/-- A field of the instruction holds a value that its encoding reserves (R158 to R168 and the instruction chapters): `ILLEGAL`. -/
def reservedField : Instr → Bool
  | .iadd64 _ d a b => odd d || odd a || odd b
  | .imadwI32 _ d _ _ c | .imadwN32 _ d _ _ c => odd d || odd c
  | .fadd _ _ _ _ r | .fsub _ _ _ _ r | .fmul _ _ _ _ r | .fscale _ _ _ _ r => decide (4 ≤ r.toNat)
  | .frnd _ _ _ r => decide (4 ≤ r.toNat)
  | .f2iI8 _ _ r | .f2iI16 _ _ r | .f2iI32 _ _ r | .f2iN8 _ _ r | .f2iN16 _ _ r | .f2iN32 _ _ r
  | .i2fI8 _ _ r | .i2fI16 _ _ r | .i2fI32 _ _ r | .i2fN8 _ _ r | .i2fN16 _ _ r | .i2fN32 _ _ r
  | .fcvtBf16 _ _ r | .fcvtF16 _ _ r | .fcvtE4m3 _ _ r | .fcvtE5m2 _ _ r | .fcvtE2m1 _ _ r => decide (4 ≤ r.toNat)
  | .i2iI8 _ _ y _ | .i2iI16 _ _ y _ | .i2iI32 _ _ y _ | .i2iN8 _ _ y _ | .i2iN16 _ _ y _ | .i2iN32 _ _ y _ =>
    decide (6 ≤ y.toNat)
  | .fpkBf16 _ a | .fpkF16 _ a | .fpkSrBf16 _ a _ | .fpkSrF16 _ a _ => odd a
  | .fpkE4m3 _ a | .fpkE5m2 _ a | .fpkSrE4m3 _ a _ | .fpkSrE5m2 _ a _ => decide (a.toNat % 4 ≠ 0)
  | .funpkBf16 _ _ j | .funpkF16 _ _ j => decide (2 ≤ j.toNat)
  | .funpkE4m3 _ _ j | .funpkE5m2 _ _ j => decide (4 ≤ j.toNat)
  | .funpkE2m1 _ _ j => decide (8 ≤ j.toNat)
  | .movkKS _ s => decide (32 ≤ s.toNat)
  | .movkSK d _ => decide (32 ≤ d.toNat)
  | .movs d c _ => decide (16 ≤ c.toNat) || (decide (14 ≤ c.toNat) && odd d)
  | .ld _ _ _ t s _ => t = 7 || decide (11 ≤ s.toNat)
  | .ldLast _ _ _ t _ => t = 7
  | .pref d _ _ => decide (2 ≤ d.toNat)
  | .st _ _ t s _ => decide (5 ≤ t.toNat) || (decide (6 ≤ s.toNat) && decide (s.toNat ≤ 10))
  | .ldk _ d _ t s _ =>
    t = 7 || decide (11 ≤ s.toNat) || (t = 3 && decide (32 ≤ d.toNat)) || (t = 4 && decide (16 ≤ d.toNat))
  | .stk d _ t s _ =>
    decide (5 ≤ t.toNat) || (decide (6 ≤ s.toNat) && decide (s.toNat ≤ 10)) || (t = 3 && decide (32 ≤ d.toNat)) ||
      (t = 4 && decide (16 ≤ d.toNat))
  | .ldl _ _ _ t s _ => t = 7 || decide (11 ≤ s.toNat)
  | .stl _ _ t s _ => decide (5 ≤ t.toNat) || (decide (6 ≤ s.toNat) && decide (s.toNat ≤ 10))
  | .atom _ _ _ o s | .atoml _ _ _ o s => decide (0x17 ≤ o.toNat) || decide (21 ≤ s.toNat)
  | .red _ _ o s | .redl _ _ o s =>
    decide (0x17 ≤ o.toNat) || (decide (0x11 ≤ o.toNat) && decide (o.toNat ≤ 0x14)) ||
      (decide (6 ≤ s.toNat) && decide (s.toNat ≤ 10)) || decide (16 ≤ s.toNat)
  | .fence s => decide (s.toNat < 6) || decide (20 < s.toNat)
  | .barx _ _ s => s ≠ 0 && (decide (s.toNat < 6) || decide (20 < s.toNat))
  | .semwait _ _ s => s ≠ 0 && (decide (s.toNat < 6) || decide (10 < s.toNat))
  | .semsig _ _ s => s ≠ 0 && (decide (s.toNat < 11) || decide (15 < s.toNat))
  | .semtk _ _ _ s | .semrd _ _ _ s => decide (5 < s.toNat)
  | .gang _ _ _ c => decide (c.toNat < 2) || decide (6 < c.toNat)
  | .mma _ _ h e _ _ _ _ _ | .mmaX _ _ h e _ _ _ _ _ => e = 0 && h ≠ 0
  | .mmaq _ _ h e a _ _ _ _ => (e = 0 && h ≠ 0) || odd a
  | .zepi _ _ _ _ o r | .zepiRoute _ _ _ _ _ o r => decide (6 ≤ o.toNat) || ((o = 0 || o = 5) && r ≠ 0)
  | .qlaunch _ q _ => decide (8 ≤ q.toNat)
  | .qcopy _ q _ => decide (q.toNat < 8) || decide (12 ≤ q.toNat)
  | .qsemw _ q _ _ | .qsems _ q _ _ | .qirq _ q _ => decide (12 ≤ q.toNat)
  | .phase a | .tokq _ _ a => decide (3 ≤ a.toNat)
  | .timeRef _ d | .timeCyc _ d => odd d
  | .rng _ _ _ b => odd b
  | .mfsr _ r | .mtsr _ r => !regDefined r
  | .ctxfl d _ _ | .park d _ | .unpark d _ _ | .tlbiCtx d | .tlbiPage d => odd d
  | _ => false

/-- The major opcode of an encoded instruction (R153); 0 for the 16-bit forms and the events. -/
def majorOf (i : Instr) : Nat :=
  match encodeWord i with
  | some (32, w) => w / 2 % 64
  | _ => 0

/-- Bits of an instruction's word. -/
def wordBits (i : Instr) (lo n : Nat) : Nat :=
  match encodeWord i with
  | some (_, w) => w / 2 ^ lo % 2 ^ n
  | none => 0

/-- The memory and semaphore instructions that a command processor executes (R351). -/
def cpMemory : Instr → Bool
  | .ldk .. | .stk .. | .semwait .. | .semsig .. | .semtk .. | .semrd .. => true
  | _ => false

/-- The instructions that a command processor executes (R351). -/
def cpAllowed (i : Instr) : Bool :=
  let m := majorOf i
  let fn := wordBits i 7 3
  (decide (1 ≤ m) && decide (m ≤ 5)) || m = 0x1B || (m = 0x0A && (fn = 1 || fn = 2 || fn = 5 || fn = 6)) || m = 0x0C ||
    (m = 0x0E && decide (fn ≤ 3)) ||
    cpMemory i ||
    m = 0x14 || (m = 0x1A && decide (2 ≤ wordBits i 11 3)) || m = 0x1C

/-- `ILLEGAL` by where the instruction executes (R169, R351). -/
def wrongPlace (i : Instr) (a : Agent) : Bool :=
  match a with
  | .cp _ => !cpAllowed i
  | .wave _ => majorOf i = 0x1A && decide (2 ≤ wordBits i 11 3)

/-- `PRIV` (R169, R328): a privileged instruction at level 0, or a register write below its level. -/
def lacksPrivilege (i : Instr) (level : Nat) : Bool :=
  majorOf i = 0x1C && (level = 0 || (match i with | .mtsr _ r => decide (level < regWriteLevel r) | _ => false))

/-- A branch, jump, call, return or `ERET` must be the last instruction of its clause (R172). -/
def mustBeLast (i : Instr) : Bool :=
  majorOf i = 0x0C || majorOf i = 0x0D || (match i with | .eret => true | _ => false)

/-- The F bit of a counted instruction (R174, R224, R231, R243, R249). -/
def countedBit : Instr → Option (BitVec 1)
  | .ld f .. | .ldLast f .. | .ldk f .. | .ldl f .. | .atom f .. | .atoml f .. | .semtk f .. | .semrd f .. | .bcopy f ..
  | .bcopyt f .. | .bcopyo f .. | .mma f .. | .mmaX f .. | .mmaq f .. | .zld f .. | .zst f .. | .zepi f .. | .zepiRoute f ..
  | .zmovToV f .. | .zmovToZ f .. | .rowact f .. | .rowcon f .. | .rowput f .. | .launch f .. => some f
  | _ => none

/-- The flag number that a counted instruction selects in a clause header (R157, R171). -/
def flagOf (i : Instr) (chdr : Word) : Option Nat :=
  (countedBit i).map fun f =>
    let h := ClauseHeader.ofWord chdr
    (if f = 0 then h.fa else h.fb).toNat

/-- Registers to the data block of a format M access (R161): how many registers, from which. -/
def blockOf (t : BitVec 3) (d : BitVec 6) : Nat × Nat :=
  if t = 3 then (2 * d.toNat, 2) else if t = 4 then (4 * d.toNat, 4) else (d.toNat, 1)

/-- The data block of an atomic (R232): the first register and how many. -/
def atomBlock (o : BitVec 5) (d : BitVec 6) : Nat × Nat :=
  match o.toNat with
  | 0x04 => (2 * d.toNat, 2)
  | 0x01 | 0x0E | 0x0F | 0x10 | 0x12 => (2 * d.toNat, 2)
  | 0x13 => (2 * d.toNat, 2)
  | 0x14 => (4 * d.toNat, 4)
  | _ => (d.toNat, 1)

/-- The address registers of a base field that names a `v` pair (R161); none for a `k` pair. -/
def baseRegs (b : BitVec 6) : List (Nat × Nat) := if b.toNat < 32 then [(2 * b.toNat, 2)] else []

/-- The blocks of `v` registers that an instruction writes and that it reads in its lane form, each a first register and a count
(R62, R158, R161, R181, R232). -/
def vOps : Instr → List (Nat × Nat) × List (Nat × Nat)
  | .mov16 d b => ([(d.toNat, 1)], [(b.toNat, 1)])
  | .movi16 d _ => ([(d.toNat, 1)], [])
  | .iadd16 d b => ([(d.toNat, 1)], [(d.toNat, 1), (b.toNat, 1)])
  | .iaddi16 d _ => ([(d.toNat, 1)], [(d.toNat, 1)])
  | .isub16 d b => ([(d.toNat, 1)], [(d.toNat, 1), (b.toNat, 1)])
  | .and16 d b => ([(d.toNat, 1)], [(d.toNat, 1), (b.toNat, 1)])
  | .or16 d b => ([(d.toNat, 1)], [(d.toNat, 1), (b.toNat, 1)])
  | .xor16 d b => ([(d.toNat, 1)], [(d.toNat, 1), (b.toNat, 1)])
  | .shli16 d _ => ([(d.toNat, 1)], [(d.toNat, 1)])
  | .shri16 d _ => ([(d.toNat, 1)], [(d.toNat, 1)])
  | .sari16 d _ => ([(d.toNat, 1)], [(d.toNat, 1)])
  | .fadd16 d b => ([(d.toNat, 1)], [(d.toNat, 1), (b.toNat, 1)])
  | .fsub16 d b => ([(d.toNat, 1)], [(d.toNat, 1), (b.toNat, 1)])
  | .fmul16 d b => ([(d.toNat, 1)], [(d.toNat, 1), (b.toNat, 1)])
  | .fmax16 d b => ([(d.toNat, 1)], [(d.toNat, 1), (b.toNat, 1)])
  | .fmin16 d b => ([(d.toNat, 1)], [(d.toNat, 1), (b.toNat, 1)])
  | .iadd u d a b => if u = 0 then ([(d.toNat, 1)], [(a.toNat, 1), (b.toNat, 1)]) else ([], [])
  | .iaddSatI32 u d a b => if u = 0 then ([(d.toNat, 1)], [(a.toNat, 1), (b.toNat, 1)]) else ([], [])
  | .iaddSatN32 u d a b => if u = 0 then ([(d.toNat, 1)], [(a.toNat, 1), (b.toNat, 1)]) else ([], [])
  | .iaddc u d a b => if u = 0 then ([(d.toNat, 1)], [(a.toNat, 1), (b.toNat, 1)]) else ([], [])
  | .isub u d a b => if u = 0 then ([(d.toNat, 1)], [(a.toNat, 1), (b.toNat, 1)]) else ([], [])
  | .isubSatI32 u d a b => if u = 0 then ([(d.toNat, 1)], [(a.toNat, 1), (b.toNat, 1)]) else ([], [])
  | .isubSatN32 u d a b => if u = 0 then ([(d.toNat, 1)], [(a.toNat, 1), (b.toNat, 1)]) else ([], [])
  | .isubb u d a b => if u = 0 then ([(d.toNat, 1)], [(a.toNat, 1), (b.toNat, 1)]) else ([], [])
  | .ineg u d a => if u = 0 then ([(d.toNat, 1)], [(a.toNat, 1)]) else ([], [])
  | .inegSat u d a => if u = 0 then ([(d.toNat, 1)], [(a.toNat, 1)]) else ([], [])
  | .iabs u d a => if u = 0 then ([(d.toNat, 1)], [(a.toNat, 1)]) else ([], [])
  | .iabsSat u d a => if u = 0 then ([(d.toNat, 1)], [(a.toNat, 1)]) else ([], [])
  | .iminI32 u d a b => if u = 0 then ([(d.toNat, 1)], [(a.toNat, 1), (b.toNat, 1)]) else ([], [])
  | .iminN32 u d a b => if u = 0 then ([(d.toNat, 1)], [(a.toNat, 1), (b.toNat, 1)]) else ([], [])
  | .imaxI32 u d a b => if u = 0 then ([(d.toNat, 1)], [(a.toNat, 1), (b.toNat, 1)]) else ([], [])
  | .imaxN32 u d a b => if u = 0 then ([(d.toNat, 1)], [(a.toNat, 1), (b.toNat, 1)]) else ([], [])
  | .andI u d a b => if u = 0 then ([(d.toNat, 1)], [(a.toNat, 1), (b.toNat, 1)]) else ([], [])
  | .orI u d a b => if u = 0 then ([(d.toNat, 1)], [(a.toNat, 1), (b.toNat, 1)]) else ([], [])
  | .xorI u d a b => if u = 0 then ([(d.toNat, 1)], [(a.toNat, 1), (b.toNat, 1)]) else ([], [])
  | .notI u d a => if u = 0 then ([(d.toNat, 1)], [(a.toNat, 1)]) else ([], [])
  | .andn u d a b => if u = 0 then ([(d.toNat, 1)], [(a.toNat, 1), (b.toNat, 1)]) else ([], [])
  | .shl u d a b => if u = 0 then ([(d.toNat, 1)], [(a.toNat, 1), (b.toNat, 1)]) else ([], [])
  | .shr u d a b => if u = 0 then ([(d.toNat, 1)], [(a.toNat, 1), (b.toNat, 1)]) else ([], [])
  | .sar u d a b => if u = 0 then ([(d.toNat, 1)], [(a.toNat, 1), (b.toNat, 1)]) else ([], [])
  | .rotl u d a b => if u = 0 then ([(d.toNat, 1)], [(a.toNat, 1), (b.toNat, 1)]) else ([], [])
  | .iadd64 u d a b => if u = 0 then ([(d.toNat, 2)], [(a.toNat, 2), (b.toNat, 2)]) else ([], [])
  | .trilog _ d _ a _ b _ _ => ([(d.toNat, 1)], [(d.toNat, 1), (a.toNat, 1), (b.toNat, 1)])
  | .iaddImm u d a _ => if u = 0 then ([(d.toNat, 1)], [(a.toNat, 1)]) else ([], [])
  | .andImm u d a _ => if u = 0 then ([(d.toNat, 1)], [(a.toNat, 1)]) else ([], [])
  | .orImm u d a _ => if u = 0 then ([(d.toNat, 1)], [(a.toNat, 1)]) else ([], [])
  | .xorImm u d a _ => if u = 0 then ([(d.toNat, 1)], [(a.toNat, 1)]) else ([], [])
  | .shlImm u d a _ => if u = 0 then ([(d.toNat, 1)], [(a.toNat, 1)]) else ([], [])
  | .shrImm u d a _ => if u = 0 then ([(d.toNat, 1)], [(a.toNat, 1)]) else ([], [])
  | .sarImm u d a _ => if u = 0 then ([(d.toNat, 1)], [(a.toNat, 1)]) else ([], [])
  | .rotlImm u d a _ => if u = 0 then ([(d.toNat, 1)], [(a.toNat, 1)]) else ([], [])
  | .imul u d a b => if u = 0 then ([(d.toNat, 1)], [(a.toNat, 1), (b.toNat, 1)]) else ([], [])
  | .imulhI32 u d a b => if u = 0 then ([(d.toNat, 1)], [(a.toNat, 1), (b.toNat, 1)]) else ([], [])
  | .imulhN32 u d a b => if u = 0 then ([(d.toNat, 1)], [(a.toNat, 1), (b.toNat, 1)]) else ([], [])
  | .imad u d a b c => if u = 0 then ([(d.toNat, 1)], [(a.toNat, 1), (b.toNat, 1), (c.toNat, 1)]) else ([], [])
  | .imadwI32 u d a b c => if u = 0 then ([(d.toNat, 2)], [(a.toNat, 1), (b.toNat, 1), (c.toNat, 2)]) else ([], [])
  | .imadwN32 u d a b c => if u = 0 then ([(d.toNat, 2)], [(a.toNat, 1), (b.toNat, 1), (c.toNat, 2)]) else ([], [])
  | .isad u d a b c => if u = 0 then ([(d.toNat, 1)], [(a.toNat, 1), (b.toNat, 1), (c.toNat, 1)]) else ([], [])
  | .bfxN32 u d a b => if u = 0 then ([(d.toNat, 1)], [(a.toNat, 1), (b.toNat, 1)]) else ([], [])
  | .bfxI32 u d a b => if u = 0 then ([(d.toNat, 1)], [(a.toNat, 1), (b.toNat, 1)]) else ([], [])
  | .bfi u d a b c => if u = 0 then ([(d.toNat, 1)], [(a.toNat, 1), (b.toNat, 1), (c.toNat, 1)]) else ([], [])
  | .popc u d a => if u = 0 then ([(d.toNat, 1)], [(a.toNat, 1)]) else ([], [])
  | .clz u d a => if u = 0 then ([(d.toNat, 1)], [(a.toNat, 1)]) else ([], [])
  | .ctz u d a => if u = 0 then ([(d.toNat, 1)], [(a.toNat, 1)]) else ([], [])
  | .brev u d a => if u = 0 then ([(d.toNat, 1)], [(a.toNat, 1)]) else ([], [])
  | .shfL u d a b c => if u = 0 then ([(d.toNat, 1)], [(a.toNat, 1), (b.toNat, 1), (c.toNat, 1)]) else ([], [])
  | .shfR u d a b c => if u = 0 then ([(d.toNat, 1)], [(a.toNat, 1), (b.toNat, 1), (c.toNat, 1)]) else ([], [])
  | .icmpEqI32 _ a b => ([], [(a.toNat, 1), (b.toNat, 1)])
  | .icmpNeI32 _ a b => ([], [(a.toNat, 1), (b.toNat, 1)])
  | .icmpLtI32 _ a b => ([], [(a.toNat, 1), (b.toNat, 1)])
  | .icmpLeI32 _ a b => ([], [(a.toNat, 1), (b.toNat, 1)])
  | .icmpGtI32 _ a b => ([], [(a.toNat, 1), (b.toNat, 1)])
  | .icmpGeI32 _ a b => ([], [(a.toNat, 1), (b.toNat, 1)])
  | .icmpEqN32 _ a b => ([], [(a.toNat, 1), (b.toNat, 1)])
  | .icmpNeN32 _ a b => ([], [(a.toNat, 1), (b.toNat, 1)])
  | .icmpLtN32 _ a b => ([], [(a.toNat, 1), (b.toNat, 1)])
  | .icmpLeN32 _ a b => ([], [(a.toNat, 1), (b.toNat, 1)])
  | .icmpGtN32 _ a b => ([], [(a.toNat, 1), (b.toNat, 1)])
  | .icmpGeN32 _ a b => ([], [(a.toNat, 1), (b.toNat, 1)])
  | .fcmpEq _ a b => ([], [(a.toNat, 1), (b.toNat, 1)])
  | .fcmpNe _ a b => ([], [(a.toNat, 1), (b.toNat, 1)])
  | .fcmpLt _ a b => ([], [(a.toNat, 1), (b.toNat, 1)])
  | .fcmpLe _ a b => ([], [(a.toNat, 1), (b.toNat, 1)])
  | .fcmpGt _ a b => ([], [(a.toNat, 1), (b.toNat, 1)])
  | .fcmpGe _ a b => ([], [(a.toNat, 1), (b.toNat, 1)])
  | .fcmpOrd _ a b => ([], [(a.toNat, 1), (b.toNat, 1)])
  | .fcmpUno _ a b => ([], [(a.toNat, 1), (b.toNat, 1)])
  | .sel d a b _ => ([(d.toNat, 1)], [(a.toNat, 1), (b.toNat, 1)])
  | .fadd _ d a b _ => ([(d.toNat, 1)], [(a.toNat, 1), (b.toNat, 1)])
  | .fsub _ d a b _ => ([(d.toNat, 1)], [(a.toNat, 1), (b.toNat, 1)])
  | .fmul _ d a b _ => ([(d.toNat, 1)], [(a.toNat, 1), (b.toNat, 1)])
  | .ffmaRn _ d a b c => ([(d.toNat, 1)], [(a.toNat, 1), (b.toNat, 1), (c.toNat, 1)])
  | .ffmaRz _ d a b c => ([(d.toNat, 1)], [(a.toNat, 1), (b.toNat, 1), (c.toNat, 1)])
  | .ffmaRu _ d a b c => ([(d.toNat, 1)], [(a.toNat, 1), (b.toNat, 1), (c.toNat, 1)])
  | .ffmaRd _ d a b c => ([(d.toNat, 1)], [(a.toNat, 1), (b.toNat, 1), (c.toNat, 1)])
  | .fmin _ d a b => ([(d.toNat, 1)], [(a.toNat, 1), (b.toNat, 1)])
  | .fmax _ d a b => ([(d.toNat, 1)], [(a.toNat, 1), (b.toNat, 1)])
  | .frnd _ d a _ => ([(d.toNat, 1)], [(a.toNat, 1)])
  | .fclass d a => ([(d.toNat, 1)], [(a.toNat, 1)])
  | .fscale _ d a b _ => ([(d.toNat, 1)], [(a.toNat, 1), (b.toNat, 1)])
  | .frcp _ d a => ([(d.toNat, 1)], [(a.toNat, 1)])
  | .frsq _ d a => ([(d.toNat, 1)], [(a.toNat, 1)])
  | .fsqrt _ d a => ([(d.toNat, 1)], [(a.toNat, 1)])
  | .fex2 _ d a => ([(d.toNat, 1)], [(a.toNat, 1)])
  | .flg2 _ d a => ([(d.toNat, 1)], [(a.toNat, 1)])
  | .fsin _ d a => ([(d.toNat, 1)], [(a.toNat, 1)])
  | .fcos _ d a => ([(d.toNat, 1)], [(a.toNat, 1)])
  | .ftanh _ d a => ([(d.toNat, 1)], [(a.toNat, 1)])
  | .f2iI8 d a _ => ([(d.toNat, 1)], [(a.toNat, 1)])
  | .f2iI16 d a _ => ([(d.toNat, 1)], [(a.toNat, 1)])
  | .f2iI32 d a _ => ([(d.toNat, 1)], [(a.toNat, 1)])
  | .f2iN8 d a _ => ([(d.toNat, 1)], [(a.toNat, 1)])
  | .f2iN16 d a _ => ([(d.toNat, 1)], [(a.toNat, 1)])
  | .f2iN32 d a _ => ([(d.toNat, 1)], [(a.toNat, 1)])
  | .i2fI8 d a _ => ([(d.toNat, 1)], [(a.toNat, 1)])
  | .i2fI16 d a _ => ([(d.toNat, 1)], [(a.toNat, 1)])
  | .i2fI32 d a _ => ([(d.toNat, 1)], [(a.toNat, 1)])
  | .i2fN8 d a _ => ([(d.toNat, 1)], [(a.toNat, 1)])
  | .i2fN16 d a _ => ([(d.toNat, 1)], [(a.toNat, 1)])
  | .i2fN32 d a _ => ([(d.toNat, 1)], [(a.toNat, 1)])
  | .i2iI8 d a _ _ => ([(d.toNat, 1)], [(a.toNat, 1)])
  | .i2iI16 d a _ _ => ([(d.toNat, 1)], [(a.toNat, 1)])
  | .i2iI32 d a _ _ => ([(d.toNat, 1)], [(a.toNat, 1)])
  | .i2iN8 d a _ _ => ([(d.toNat, 1)], [(a.toNat, 1)])
  | .i2iN16 d a _ _ => ([(d.toNat, 1)], [(a.toNat, 1)])
  | .i2iN32 d a _ _ => ([(d.toNat, 1)], [(a.toNat, 1)])
  | .fcvtBf16 d a _ => ([(d.toNat, 1)], [(a.toNat, 1)])
  | .fcvtF16 d a _ => ([(d.toNat, 1)], [(a.toNat, 1)])
  | .fcvtE4m3 d a _ => ([(d.toNat, 1)], [(a.toNat, 1)])
  | .fcvtE5m2 d a _ => ([(d.toNat, 1)], [(a.toNat, 1)])
  | .fcvtE2m1 d a _ => ([(d.toNat, 1)], [(a.toNat, 1)])
  | .fcvtSrBf16 d a b => ([(d.toNat, 1)], [(a.toNat, 1), (b.toNat, 1)])
  | .fcvtSrF16 d a b => ([(d.toNat, 1)], [(a.toNat, 1), (b.toNat, 1)])
  | .fcvtSrE4m3 d a b => ([(d.toNat, 1)], [(a.toNat, 1), (b.toNat, 1)])
  | .fcvtSrE5m2 d a b => ([(d.toNat, 1)], [(a.toNat, 1), (b.toNat, 1)])
  | .fcvtSrE2m1 d a b => ([(d.toNat, 1)], [(a.toNat, 1), (b.toNat, 1)])
  | .fpkBf16 d a => ([(d.toNat, 1)], [(a.toNat, 2)])
  | .fpkF16 d a => ([(d.toNat, 1)], [(a.toNat, 2)])
  | .fpkE4m3 d a => ([(d.toNat, 1)], [(a.toNat, 4)])
  | .fpkE5m2 d a => ([(d.toNat, 1)], [(a.toNat, 4)])
  | .fpkSrBf16 d a b => ([(d.toNat, 1)], [(a.toNat, 2), (b.toNat, 1)])
  | .fpkSrF16 d a b => ([(d.toNat, 1)], [(a.toNat, 2), (b.toNat, 1)])
  | .fpkSrE4m3 d a b => ([(d.toNat, 1)], [(a.toNat, 4), (b.toNat, 1)])
  | .fpkSrE5m2 d a b => ([(d.toNat, 1)], [(a.toNat, 4), (b.toNat, 1)])
  | .funpkBf16 d a _ => ([(d.toNat, 1)], [(a.toNat, 1)])
  | .funpkF16 d a _ => ([(d.toNat, 1)], [(a.toNat, 1)])
  | .funpkE4m3 d a _ => ([(d.toNat, 1)], [(a.toNat, 1)])
  | .funpkE5m2 d a _ => ([(d.toNat, 1)], [(a.toNat, 1)])
  | .funpkE2m1 d a _ => ([(d.toNat, 1)], [(a.toNat, 1)])
  | .dot4i8 d a b c => ([(d.toNat, 1)], [(a.toNat, 1), (b.toNat, 1), (c.toNat, 1)])
  | .dot4i8Sat d a b c => ([(d.toNat, 1)], [(a.toNat, 1), (b.toNat, 1), (c.toNat, 1)])
  | .dot8i4 d a b c => ([(d.toNat, 1)], [(a.toNat, 1), (b.toNat, 1), (c.toNat, 1)])
  | .dot8i4Sat d a b c => ([(d.toNat, 1)], [(a.toNat, 1), (b.toNat, 1), (c.toNat, 1)])
  | .dot4f8E4m3 d a b c => ([(d.toNat, 1)], [(a.toNat, 1), (b.toNat, 1), (c.toNat, 1)])
  | .dot4f8E5m2 d a b c => ([(d.toNat, 1)], [(a.toNat, 1), (b.toNat, 1), (c.toNat, 1)])
  | .hfma2Bf16 d a b c => ([(d.toNat, 1)], [(a.toNat, 1), (b.toNat, 1), (c.toNat, 1)])
  | .hfma2F16 d a b c => ([(d.toNat, 1)], [(a.toNat, 1), (b.toNat, 1), (c.toNat, 1)])
  | .hadd2Bf16 d a b => ([(d.toNat, 1)], [(a.toNat, 1), (b.toNat, 1)])
  | .hadd2F16 d a b => ([(d.toNat, 1)], [(a.toNat, 1), (b.toNat, 1)])
  | .hmul2Bf16 d a b => ([(d.toNat, 1)], [(a.toNat, 1), (b.toNat, 1)])
  | .hmul2F16 d a b => ([(d.toNat, 1)], [(a.toNat, 1), (b.toNat, 1)])
  | .hmax2Bf16 d a b => ([(d.toNat, 1)], [(a.toNat, 1), (b.toNat, 1)])
  | .hmax2F16 d a b => ([(d.toNat, 1)], [(a.toNat, 1), (b.toNat, 1)])
  | .mov d s => ([(d.toNat, 1)], [(s.toNat, 1)])
  | .movi d _ => ([(d.toNat, 1)], [])
  | .movih d _ => ([(d.toNat, 1)], [(d.toNat, 1)])
  | .movkVK d _ => ([(d.toNat, 1)], [])
  | .movkKV _ s => ([], [(s.toNat, 1)])
  | .movs d c k => if k = 0 then ([(d.toNat, if 14 ≤ c.toNat then 2 else 1)], []) else ([], [])
  | .lanexPick d a b => ([(d.toNat, 1)], [(a.toNat, 1), (b.toNat, 1)])
  | .lanexLo d a b => ([(d.toNat, 1)], [(a.toNat, 1), (b.toNat, 1)])
  | .lanexHi d a b => ([(d.toNat, 1)], [(a.toNat, 1), (b.toNat, 1)])
  | .lanexFlip d a b => ([(d.toNat, 1)], [(a.toNat, 1), (b.toNat, 1)])
  | .lanexRot d a b => ([(d.toNat, 1)], [(a.toNat, 1), (b.toNat, 1)])
  | .pmask d _ => ([(d.toNat, 1)], [])
  | .wfoldAddI32 d a => ([(d.toNat, 1)], [(a.toNat, 1)])
  | .wfoldMinI32 d a => ([(d.toNat, 1)], [(a.toNat, 1)])
  | .wfoldMaxI32 d a => ([(d.toNat, 1)], [(a.toNat, 1)])
  | .wfoldMinN32 d a => ([(d.toNat, 1)], [(a.toNat, 1)])
  | .wfoldMaxN32 d a => ([(d.toNat, 1)], [(a.toNat, 1)])
  | .wfoldAnd d a => ([(d.toNat, 1)], [(a.toNat, 1)])
  | .wfoldOr d a => ([(d.toNat, 1)], [(a.toNat, 1)])
  | .wfoldXor d a => ([(d.toNat, 1)], [(a.toNat, 1)])
  | .wfoldAddF32 d a => ([(d.toNat, 1)], [(a.toNat, 1)])
  | .wfoldMinF32 d a => ([(d.toNat, 1)], [(a.toNat, 1)])
  | .wfoldMaxF32 d a => ([(d.toNat, 1)], [(a.toNat, 1)])
  | .jmpt a _ _ => ([], [(a.toNat, 1)])
  | .callt a _ _ => ([], [(a.toNat, 1)])
  | .ld _ d b t _ _ => ([blockOf t d], baseRegs b)
  | .ldLast _ d b t _ => ([blockOf t d], baseRegs b)
  | .pref _ b _ => ([], baseRegs b)
  | .st d b t _ _ => ([], blockOf t d :: baseRegs b)
  | .spop d => ([(d.toNat, 1)], [])
  | .spush d => ([], [(d.toNat, 1)])
  | .ldl _ d b t _ _ => ([blockOf t d], [(b.toNat, 1)])
  | .stl d b t _ _ => ([], [blockOf t d, (b.toNat, 1)])
  | .atom _ d b o _ => ([((atomBlock o d).1, if o = 0x01 || o = 0x0E || o = 0x0F || o = 0x10 || o = 0x12 || o = 0x14 then 2 else 1)], atomBlock o d :: baseRegs b)
  | .red d b o _ => ([], atomBlock o d :: baseRegs b)
  | .atoml _ d b o _ => ([((atomBlock o d).1, if o = 0x01 || o = 0x0E || o = 0x0F || o = 0x10 || o = 0x12 || o = 0x14 then 2 else 1)], [atomBlock o d, (b.toNat, 1)])
  | .redl d b o _ => ([], [atomBlock o d, (b.toNat, 1)])
  | .barx d _ _ => ([(2 * d.toNat + 1, 1)], [(2 * d.toNat, 2)])
  | .semwait d _ _ => ([(d.toNat, 1)], [(d.toNat, 1)])
  | .semsig d _ _ => ([], [(d.toNat, 1)])
  | .semtk _ d _ _ => ([(d.toNat, 1)], [])
  | .semrd _ d _ _ => ([(d.toNat, 1)], [])
  | .mma _ _ _ _ a _ _ _ _ => ([], [(32 * a.toNat, 16)])
  | .mmaX _ _ _ _ a _ _ _ _ => ([], [(32 * a.toNat, 16)])
  | .mmaq _ _ _ _ a _ _ _ _ => ([], [(32 * a.toNat, 64)])
  | .zmovToV _ _ _ _ b => ([(16 * b.toNat, 16)], [])
  | .zmovToZ _ _ _ _ b => ([], [(16 * b.toNat, 16)])
  | .launch _ _ _ d => ([(2 * d.toNat, 2)], [])
  | .gwait _ d a => ([(d.toNat, 1)], [(a.toNat, 1)])
  | .perf a => ([], [(a.toNat, 1)])
  | .tokq u d _ => if u = 0 then ([(d.toNat, 1)], []) else ([], [])
  | .capq u d => if u = 0 then ([(d.toNat, 1)], []) else ([], [])
  | .timeRef u d => if u = 0 then ([(d.toNat, 2)], []) else ([], [])
  | .timeCyc u d => if u = 0 then ([(d.toNat, 2)], []) else ([], [])
  | .rng u d a _ => if u = 0 then ([(d.toNat, 1)], [(a.toNat, 1)]) else ([], [])
  | _ => ([], [])

/-- The highest-numbered `v` register of each block that an instruction names. -/
def vNamed (i : Instr) : List Nat := ((vOps i).1 ++ (vOps i).2).map fun p => p.1 + p.2 - 1

/-- The `k` registers of a memory base (R161). -/
def baseK (b : BitVec 6) : List (Nat × Nat) := if 32 ≤ b.toNat then [(2 * (b.toNat - 32), 2)] else []

/-- The `k` registers that an instruction of a wave reads as operands. -/
def kReads : Instr → List (Nat × Nat)
  | .iadd u _ a b | .iaddSatI32 u _ a b | .iaddSatN32 u _ a b | .iaddc u _ a b | .isub u _ a b | .isubSatI32 u _ a b
  | .isubSatN32 u _ a b | .isubb u _ a b | .iminI32 u _ a b | .iminN32 u _ a b | .imaxI32 u _ a b | .imaxN32 u _ a b | .andI u _ a b
  | .orI u _ a b | .xorI u _ a b | .andn u _ a b | .shl u _ a b | .shr u _ a b | .sar u _ a b | .rotl u _ a b | .imul u _ a b
  | .imulhI32 u _ a b | .imulhN32 u _ a b | .bfxN32 u _ a b | .bfxI32 u _ a b => if u = 1 then [(a.toNat, 1), (b.toNat, 1)] else []
  | .ineg u _ a | .inegSat u _ a | .iabs u _ a | .iabsSat u _ a | .notI u _ a | .iaddImm u _ a _ | .andImm u _ a _ | .orImm u _ a _
  | .xorImm u _ a _ | .shlImm u _ a _ | .shrImm u _ a _ | .sarImm u _ a _ | .rotlImm u _ a _ | .popc u _ a | .clz u _ a | .ctz u _ a
  | .brev u _ a => if u = 1 then [(a.toNat, 1)] else []
  | .iadd64 u _ a b => if u = 1 then [(a.toNat, 2), (b.toNat, 2)] else []
  | .imad u _ a b c | .isad u _ a b c | .bfi u _ a b c | .shfL u _ a b c | .shfR u _ a b c => if u = 1 then [(a.toNat, 1), (b.toNat, 1), (c.toNat, 1)] else []
  | .imadwI32 u _ a b c | .imadwN32 u _ a b c => if u = 1 then [(a.toNat, 1), (b.toNat, 1), (c.toNat, 2)] else []
  | .movkVK _ s | .movkSK _ s => [(s.toNat, 1)]
  | .movihK d _ | .mtsr d _ => [(d.toNat, 1)]
  | .ld _ _ b _ _ _ | .ldLast _ _ b _ _ | .pref _ b _ | .st _ b _ _ _ | .atom _ _ b _ _ | .red _ b _ _ => baseK b
  | .ldk _ _ b _ _ _ => [(2 * b.toNat, 2)]
  | .stk d b t _ _ => [(2 * b.toNat, 2), blockOf t d]
  | .barx _ k _ | .semwait _ k _ | .semsig _ k _ | .semtk _ _ k _ | .semrd _ _ k _ => [(2 * k.toNat, 2)]
  | .bcopy _ _ i | .bcopyt _ _ i _ | .bcopyo _ _ i _ | .cpost _ i _ _ | .eroute _ _ i | .launch _ _ i _ | .qlaunch _ _ i | .qcopy _ _ i => [(8 * i.toNat, 8)]
  | .tdef _ _ n | .zld _ _ _ n | .zst _ _ _ n | .zepi _ _ _ n _ _ | .zepiRoute _ _ _ _ n _ _ | .rowact _ _ _ n _ _ => [(2 * n.toNat, 2)]
  | .gang _ _ a _ | .cctr _ _ a _ | .cctrSet _ _ a | .cwait _ _ a => [(a.toNat, 1)]
  | .qsemw _ _ n a | .qsems _ _ n a => [(2 * n.toNat, 2), (a.toNat, 1)]
  | .rng u _ a b => if u = 1 then [(a.toNat, 1), (b.toNat, 2)] else [(b.toNat, 2)]
  | .ctxfl d _ _ | .tlbiCtx d | .tlbiPage d | .park d _ | .unpark d _ _ => [(d.toNat, 2)]
  | _ => []

/-- The team grants that an instruction names: how many accumulator tiles, tile entries, row slots, gang and route registers it
needs (R62, R252, R259, R269, R271). -/
structure Needs where
  z : Nat := 0
  m : Nat := 0
  w : Nat := 0
  g : Nat := 0
  e : Nat := 0
  deriving DecidableEq, Repr

/-- The grants that an instruction names. -/
def needs : Instr → Needs
  | .bcopyt _ _ _ m | .bcopyo _ _ _ m => { m := m.toNat + 1 }
  | .tdef _ m _ | .trel _ m | .tstate _ m _ => { m := m.toNat + 1 }
  | .gang _ h _ _ => { g := h.toNat + 1 }
  | .mma _ _ h e _ m q _ _ | .mmaX _ _ h e _ m q _ _ =>
    { z := 4 * q.toNat + 1, m := m.toNat + 1, g := if e = 1 then h.toNat + 1 else 0 }
  | .mmaq _ _ h e _ m q _ _ => { z := 4 * q.toNat + 1, m := m.toNat + 2, g := if e = 1 then h.toNat + 1 else 0 }
  | .zclr _ z n => { z := z.toNat + n.toNat + 1 }
  | .zld _ _ z _ | .zst _ _ z _ => { z := z.toNat + 1 }
  | .zepi _ _ z _ _ _ => { z := z.toNat + 1 }
  | .zepiRoute _ _ z e _ _ _ => { z := z.toNat + 1, e := e.toNat + 1 }
  | .zmovToV _ _ z _ _ | .zmovToZ _ _ z _ _ => { z := z.toNat + 1 }
  | .rowact _ _ w _ _ _ | .rowpre _ w _ _ | .rowq _ w _ => { w := w.toNat + 1 }
  | .rowcon _ _ w m _ _ | .rowput _ _ w m _ _ => { w := w.toNat + 1, m := m.toNat + 1 }
  | .eroute _ e _ => { e := e.toNat + 1 }
  | _ => {}

/-- `RES_RANGE`: a `v` register at or above the kernel's count, a grant exceeded, or a queue pair or counter beyond the context's
grant (R62, R158, R271). -/
def outOfRange (i : Instr) (s : State) (a : Agent) : Bool :=
  match a with
  | .cp _ => false
  | .wave k =>
    let d := s.descOf a
    let n := needs i
    let grant := s.ctReg k.team.grid.ctx 0x003
    (vNamed i).any (fun r => decide (d.nregs ≤ r)) || decide (d.ztiles < n.z) || decide (d.tiles < n.m) || decide (d.rows < n.w) ||
      decide (d.gangs < n.g) || decide (d.routes < n.e) ||
      (match i with
       | .cpost _ _ q _ => decide (bits grant 0 9 ≤ q.toNat)
       | .cctr _ n _ _ => decide (bits grant 16 11 ≤ n.toNat)
       | .cctrSet _ n _ => decide (bits grant 16 11 ≤ n.toNat)
       | .cwait _ n _ => decide (bits grant 16 11 ≤ n.toNat)
       | _ => false)

/-- The encoding cause of an instruction, the lowest code first (R170): `th` is a thread of the issuing group. -/
def encodingCause (i : Instr) (s : State) (a : Agent) (th : Thread) : Option Cause :=
  if reservedField i || wrongPlace i a then some Cause.illegal
  else if lacksPrivilege i (s.level a) then some Cause.priv
  else if (mustBeLast i && decide (th.cpos ≠ (ClauseHeader.ofWord th.chdr).count)) || flagOf i th.chdr = some 15 then
    some Cause.clause
  else if outOfRange i s a then some Cause.resRange
  else none

end Sys2Proof.Machine
end

