-- ==== Sys2Proof/Machine/Memory.lean ====
section
/-! DEFINITION. Physical memory: the physical map (R106 to R109), the home point of a byte (R123), open rows and held writes (R119), and the
poison of memory (R392, R393). -/

namespace Sys2Proof.Machine

open Sys2Proof

/-! The physical map. -/

/-- Bytes of DRAM in the interleaved window, reserve included: 320 shoals of 768 MiB (R15, R106). -/
def dramSize : Nat := 0x3C00000000
/-- The first byte of the interleaved alias of the scrub reserve (R106). -/
def usableTop : Nat := 0x3B88000000
/-- The first shoal window (R18, R106). -/
def shoalBase : Nat := 0x4000000000
/-- The reserved rows of a shoal window start here (R108). -/
def reservedRows : Nat := 0x2FA00000
/-- The device-register range (R106). -/
def devBase : Nat := 0x10000000000
/-- The host window (R106). -/
def hostBase : Nat := 0x20000000000

/-- What a local physical address names (R106): a byte of DRAM by its interleaved address, a device register, host memory, or
nothing. -/
inductive PKind where
  | dram (a : Nat) | dev (a : Nat) | host (a : Nat) | nothing
  deriving DecidableEq, Repr

/-- The interleaved address of offset o in the shoal window of module-wide core s (R107, R370). -/
def interleaved (core o : Nat) : Nat := ((o / 4096) * 320 + core) * 4096 + o % 4096

/-- The module-wide core whose shoal holds an interleaved address (R107). -/
def shoalOf (a : Nat) : Nat := a / 4096 % 320
/-- The offset in that core's shoal window (R107). -/
def shoalOffset (a : Nat) : Nat := (a / 4096 / 320) * 4096 + a % 4096

/-- Classify a local physical address (R106). -/
def physKind (a : Nat) : PKind :=
  if a < dramSize then .dram a
  else if a < shoalBase then .nothing
  else if a < devBase then
    let d := (a - shoalBase) / 0x2000000000
    let r := (a - shoalBase) % 0x2000000000
    let c := r / 0x40000000
    let o := r % 0x40000000
    if d < 4 && c < 80 && o < 0x30000000 then .dram (interleaved (80 * d + c) o) else .nothing
  else if a < devBase + 0x100000000 then .dev (a - devBase)
  else if a < hostBase then .nothing
  else if a < 0x400000000000 then .host a
  else .nothing

/-- A shoal window address: its module-wide core and offset. -/
def shoalWindow (a : Nat) : Option (Nat × Nat) :=
  let d := (a - shoalBase) / 0x2000000000
  let r := (a - shoalBase) % 0x2000000000
  if shoalBase ≤ a && a < devBase && d < 4 && r / 0x40000000 < 80 then some (80 * d + r / 0x40000000, r % 0x40000000) else none

/-- Peer memory is kept by its global address above 2^64: bytes at another module's home point (R109, R123). -/
def peerBase : Nat := 2 ^ 64

/-- The location of a global address of a peer (R107, R109): a byte of its DRAM has one, by whichever of its windows it is named. -/
def peerKey (g : Nat) : Nat :=
  match physKind (g % 2 ^ 46) with
  | .dram x => peerBase + g / 2 ^ 46 * 2 ^ 46 + x
  | _ => peerBase + g

/-- A location is a byte of this module's DRAM, which has an LLC (R105). -/
def isDram (a : Nat) : Bool := decide (a < dramSize)

/-- A location is a byte of host memory (R106). -/
def isHost (a : Nat) : Bool := decide (hostBase ≤ a) && decide (a < peerBase)

/-- A location is a byte of peer memory. -/
def isPeer (a : Nat) : Bool := decide (peerBase ≤ a)

namespace State

/-! Bytes at their home point. -/

/-- The byte at a location's home point: the LLC over DRAM, host memory or peer memory (R105, R123). -/
def homeByte (s : State) (a : Nat) : Byte :=
  match s.llc.find a with
  | some b => b
  | none => s.home.get 0 a

/-- The byte in the DRAM array, without the LLC (R105). -/
def dramByte (s : State) (a : Nat) : Byte := s.home.get 0 a

/-- Consecutive bytes at the home point. -/
def homeBytes (s : State) (a : Nat) : Nat → List Byte
  | 0 => []
  | n + 1 => s.homeByte a :: s.homeBytes (a + 1) n

/-- A row slot that holds the row of a DRAM location open (R119): its team, slot number and state. -/
def openRow (s : State) (a : Nat) : Option (TeamKey × Nat × RowSlot) :=
  let core := shoalOf a
  let o := shoalOffset a
  s.teams.findSome? fun (k, t) =>
    if t.core = core && !t.saved then
      t.rows.findSome? fun (n, r) =>
        if r.st = 2 && r.row.toNat = o / 0x40000 && r.bank.toNat = o / 0x1000 % 64 then some (k, n, r) else none
    else none

/-- Write one byte at its home point. DRAM bytes go to the LLC, or through it to the array on a write-through page, and no other byte stays in an
LLC; a write to a row that a program holds open is held for its close as well (R105, R119). -/
def homeWrite (s : State) (a : Nat) (b : Byte) (wt : Bool) : State :=
  if isDram a then
    let s :=
      match s.openRow a with
      | some (k, n, r) => s.modTeam k fun t => { t with rows := t.rows.put {} n { r with held := r.held ++ [(a % 4096, b)] } }
      | none => s
    if wt then { s with llc := s.llc.del a, home := s.home.put 0 a b } else { s with llc := s.llc.ins a b }
  else { s with llc := s.llc.del a, home := s.home.put 0 a b }

/-- A write is held for the close of an open row (R119, R390): it counts as one. -/
def countHeld (s : State) (a : Nat) : State :=
  if isDram a then
    match s.openRow a with
    | some (k, n, r) => s.modTeam k fun t => { t with rows := t.rows.put {} n { r with writes := r.writes + 1 } }
    | none => s
  else s

/-- One write of bytes at their home points. -/
def homeCells (s : State) (cells : List Host.Cell) (wt : Bool) : State :=
  match cells with
  | [] => s
  | x :: _ => cells.foldl (fun s y => s.homeWrite y.1 y.2 wt) (s.countHeld x.1)

/-- Write consecutive bytes at their home points; a whole 64-byte granule clears its poison (R393). -/
def homeWrites (s : State) (a : Nat) (bs : List Byte) (wt : Bool) : State :=
  let s := s.homeCells (bs.mapIdx fun j b => (a + j, b)) wt
  let first := (a + 63) / 64
  let last := (a + bs.length) / 64
  { s with poison := s.poison.filter fun (g, _) => g < first || last ≤ g }

/-- Write a byte of DRAM that the LLC holds dirty to the array (R105). -/
def llcClean (s : State) (a : Nat) : State :=
  match s.llc.find a with
  | some b => { s with llc := s.llc.del a, home := s.home.put 0 a b }
  | none => s

/-- A little-endian word of n bytes at the home point. -/
def homeWord (s : State) (a n : Nat) : Nat := ofLeBytes (s.homeBytes a n)

/-- A byte belongs to an object on which something waits (R122). -/
def objWaited (s : State) (a : Nat) : Bool :=
  s.waiters.any fun w => match w.obj with | .mem b => decide (b ≤ a) && decide (a < b + 16) | .lagoon .. => false

/-- Hardware that is no instruction writes bytes: a record, a table entry, or a line of the register cache. R122 lets it write no byte of an object on
which something waits, and names no outcome for it: such a byte keeps its value, and nothing is told (DESIGN CHOICE, log entry 68). -/
def recordWrites (s : State) (a : Nat) (bs : List Byte) (wt : Bool) : State :=
  let cells := bs.mapIdx fun j b => (a + j, b)
  if cells.any fun x => s.objWaited x.1 then s.homeCells (cells.filter fun x => !s.objWaited x.1) wt else s.homeWrites a bs wt

end State

end Sys2Proof.Machine
end

