-- ==== Sys2Proof/Machine/Issue.lean ====
section
/-! DEFINITION. The issue of an instruction by the leading group of an agent: register misses (R73), encoding causes (R170), the
wait for a full flag counter (R174), completion with sticky bits and traps (R98, R184), charges (R302, R303), causes (R380). -/

namespace Sys2Proof.Machine

open Sys2Proof

/-- Who issues: the agent, its wave, the lanes of its leading group, and the thread of the group's lowest lane. -/
structure Issuer where
  a  : Agent
  w  : Wave
  e  : LaneMask
  th : Thread
  deriving DecidableEq, Repr

/-- The issuer that a state selects, if its wave has a leading group (R37). -/
def State.issuer? (s : State) : Option Issuer :=
  match s.issuer with
  | none => none
  | some a =>
    match s.agent? a with
    | none => none
    | some w => if w.lead = 0#32 then none else some ⟨a, w, w.lead, w.th (lowLane w.lead)⟩

/-- The lanes of the issuing group, in ascending order. -/
def Issuer.lanes (x : Issuer) : List Nat := lanesOf x.e
/-- The lowest lane of the issuing group. -/
def Issuer.low (x : Issuer) : Nat := lowLane x.e
/-- The program counter of the issuing group. -/
def Issuer.pc (x : Issuer) : DWord := x.th.pc
/-- The context of the issuer. -/
def Issuer.ctx (x : Issuer) : Nat := ctxOf x.a

/-- What an instruction does at issue. `done` completes it: the state with its results, the sticky bits that its results raise, the units charged,
another payer than the issuer, and another price entry than the table's. `moved` completes it with the threads' places already set, `settled` one
that was counted and charged before. `raise` takes a cause with no effect, `trap` one after completion. `wait` holds the group with a wait kind
(R58). -/
inductive Effect where
  | done (s : State) (fl : Word := 0) (units : Nat := 1) (payer : Option Agent := none) (price : Option Nat := none)
  | moved (s : State)
  | settled (s : State)
  | raise (c : Cause) (s : State) (t : Byte := 0)
  | trap (c : Cause) (t : Byte) (s : State)
  | wait (kind : Nat) (s : State)

/-! Charges. -/

/-- An instruction is a uniform form in the sense of the price table (R302). -/
def uniformForm (i : Instr) : Bool :=
  match i with
  | .trilog .. => false
  | .movkKV .. | .movkKS .. | .movkSK .. | .moviK .. | .movihK .. => true
  | .movs _ _ k => k = 1
  | i =>
    let m := majorOf i
    ((decide (1 ≤ m) && decide (m ≤ 4)) || m = 0x1B) && wordBits i 7 1 = 1

/-- The units of a quarter that an instruction can take (R185): the two FMA pipes, the special-function pipe, the memory and engine port, and the
control and uniform pipe. -/
def unitsOfInstr (i : Instr) : List Nat :=
  let m := majorOf i
  if i.size = 2 then [0, 1]
  else if uniformForm i || (m = 0x0A && 3 ≤ wordBits i 7 3) then [4]
  else if m = 0x07 then [2]
  else if 0x0F ≤ m && m ≤ 0x1A then [3]
  else if (0x0C ≤ m && m ≤ 0x0E) || m = 0x1B || m = 0x1C then [4]
  else [0, 1]

/-- The price entry of an instruction, and whether its charge is per thread (R302, R303). -/
def priceOf (i : Instr) : Nat × Bool :=
  match i with
  | .fadd16 .. | .fsub16 .. | .fmul16 .. | .fmax16 .. | .fmin16 .. => (8, true)
  | i =>
    let m := majorOf i
    let fn := wordBits i 8 4
    let fx := wordBits i 11 3
    let size := match wordBits i 20 3 with | 3 => 17 | 4 => 18 | _ => 16
    if uniformForm i then (3, false)
    else match m with
      | 0x00 | 0x01 | 0x02 | 0x04 | 0x05 | 0x0A => (0, true)
      | 0x03 => (1, true)
      | 0x0B => (2, true)
      | 0x06 => (if 3 ≤ fn ∧ fn ≤ 6 then 9 else 8, true)
      | 0x07 => (10, true)
      | 0x08 => (11, true)
      | 0x09 => (if fn ≤ 3 then 13 else if fn ≤ 5 then 14 else 12, true)
      | 0x0F => (if wordBits i 20 3 = 7 then 23 else size, true)
      | 0x10 => (size, true)
      | 0x11 => (19, wordBits i 20 3 = 7)
      | 0x12 => (20, true)
      | 0x13 => (if wordBits i 30 2 < 2 then 21 else 22, true)
      | 0x16 => (if fx = 0 then 24 else if fx = 1 then 25 else if fx = 2 then 26 else 27, false)
      | 0x17 => (if fx = 4 ∨ fx = 5 then 28 else if fx = 6 then 29 else 30, false)
      | 0x18 => (if fx = 0 then 40 else if fx = 1 then 41 else if fx = 2 then 42 else 43, false)
      | 0x19 => (if fx = 0 then 48 else 49, false)
      | 0x1A => (50, false)
      | _ => (4, true)

/-- The tokens of an issue (R303): u units of the entry's price, per quarter of the group where the instruction acts per thread; on a
command processor (`hub`) u units of the price. -/
def State.tokensOf (s : State) (i : Instr) (hub : Bool) (lanes units : Nat) (price : Option Nat) : Nat :=
  let (idx, per) := priceOf i
  let p := (s.pwReg (0x040 + price.getD idx)).toNat
  if per && !hub then (p * units * ((lanes + 7) / 8) + 3) / 4 else p * units

/-- Charge tokens (R303, R304, R408): to the share of the payer's quarter and its reading, or for a command processor to the package
bucket. -/
def State.charge (s : State) (payer : Agent) (tokens : Nat) : State :=
  match payer with
  | .cp _ => s.chargePkg tokens
  | .wave k =>
    match s.team? k.team, s.wave? k with
    | some t, some w =>
      let c := s.core t.core
      let s := s.putCore t.core { c with shares := c.shares.modify w.quarter (· - (tokens : Int)) }
      s.putWave k { w with tokens := w.tokens + BitVec.ofNat 32 tokens }
    | _, _ => s

/-- A wave counts an issue: for the vote of its cluster (R308), and for the report of a hang (R42) when a group was deferred as it issued
and the leading role has not passed by it; `v` is the wave as it issued. -/
def Wave.countIssue (v w : Wave) : Wave :=
  { w with issued := w.issued + 1, hang := if decide (2 ≤ v.groups.length) && w.lead &&& v.lead ≠ 0#32 then w.hang + 1 else w.hang }

/-- The count of an issue: tokens (R303), the wave's instructions in the vote window (R308), and the hang count (R42). An instruction that
parks its group with `PAGE` as it issues is counted and charged too: the spec does not say whether a `ROWACT` or a `LAUNCH` that parks so is
(R251; DESIGN CHOICE, log entry 49). -/
def State.account (s : State) (i : Instr) (x : Issuer) (units : Nat) (payer : Option Agent) (price : Option Nat) : State :=
  let s := s.modAgent x.a x.w.countIssue
  if units = 0 then s else s.charge (payer.getD x.a) (s.tokensOf i (match payer.getD x.a with | .cp _ => true | .wave _ => false) (laneCount x.e) units price)

/-! Completion. -/

/-- The lanes of a mask wait with a kind (R58). -/
def Wave.setWaiting (w : Wave) (m : LaneMask) (kind : Nat) : Wave :=
  w.modLanes m fun t => { t with stat := .waiting, kind := BitVec.ofNat 6 kind }

/-- The threads of the group that still run step past the instruction. -/
def Wave.stepPast (w : Wave) (e : LaneMask) (size : Nat) : Wave := w.modLanes (e &&& w.lanesIn .running) fun t => t.advance size

/-- The trap that raised sticky bits cause, by the kernel's TRAPS (R98): the lower code first. -/
def KDesc.trapOf (d : KDesc) (fl : Word) : Option Cause :=
  if d.trapIV && fl &&& fIV ≠ 0 then some Cause.fpInvalid
  else if d.trapOF && fl &&& fOF ≠ 0 then some Cause.fpOverflow
  else none

/-- The lines of the wave block in which `v` registers lie (R57). -/
def linesOf (blocks : List (Nat × Nat)) : List Nat := blocks.flatMap fun p => (List.range p.2).map fun j => 16 + p.1 + j

/-- The register lines that an instruction writes in every lane of its group as it issues: a counted one writes at its completion (R174), and
a `BARX` or a `GWAIT` writes the lanes it picks itself. -/
def writtenLines (i : Instr) : List Nat :=
  if (countedBit i).isSome || i matches .barx _ _ _ | .gwait _ _ _ then [] else linesOf (vOps i).1

/-- The state after an effect. -/
def conclude (i : Instr) (x : Issuer) : Effect → State
  | .done s fl units payer price =>
    let s := s.modAgent x.a fun w => ((w.stepPast x.e i.size).addSticky fl).rewritten x.e (writtenLines i)
    let s := s.account i x units payer price
    match (s.descOf x.a).trapOf fl with
    | some c => s.takeCause x.a x.e c 0 x.pc (x.th.advance i.size) 0
    | none => s
  | .moved s => s.account i x 1 none none
  | .settled s => s
  | .raise c s t => s.takeCause x.a x.e c t x.pc (x.th.advance i.size) 0
  | .trap c t s => (s.account i x 1 none none).takeCause x.a x.e c t x.pc (x.th.advance i.size) 0
  | .wait kind s => s.modAgent x.a fun w => w.setWaiting (x.e &&& w.lanesIn .running) kind

/-- A thread fails the depth test of an instruction on its spill stack: no entry is then reached for any thread of the group (R61, R220, R230). -/
def spillFails (i : Instr) (t : Thread) : Bool :=
  match i with
  | .spush _ => decide (128 ≤ t.spill)
  | .spop _ => decide (t.spill = 0)
  | .call _ => decide (126 < t.spill)
  | .ret => decide (t.spill < 2)
  | _ => false

/-- The spill entries that an instruction pops in a lane (R61, R220, R230). -/
def spillReads (i : Instr) (t : Thread) : List Nat :=
  match i with
  | .spop _ => [t.spill - 1]
  | .ret => [t.spill - 1, t.spill - 2]
  | _ => []

/-- The spill entries that an instruction pushes or pops in a lane (R61, R220, R230). -/
def spillEntries (i : Instr) (t : Thread) : List Nat :=
  match i with
  | .spush _ => [t.spill]
  | .call _ | .callt _ _ _ => [t.spill, t.spill + 1]
  | i => spillReads i t

/-- The entries that an instruction reaches in the threads of its group. -/
def Wave.spillOf (w : Wave) (i : Instr) (e : LaneMask) (f : Instr → Thread → List Nat) : List Nat :=
  if (lanesOf e).any fun l => spillFails i (w.th l) then [] else (lanesOf e).flatMap fun l => f i (w.th l)

/-- The line of the team's `s` words, where an instruction reads or writes one (R60). -/
def sharedLines : Instr → List Nat
  | .movkKS .. | .movkSK .. => [sLine]
  | _ => []

/-- The lines that an instruction needs (R57, R60, R73): the register and spill lines of its operands, the line of the team's `s` words, and the
lines of the header, which holds the threads, the predicates and the `k` registers; `nr` is the kernel's count of registers. -/
def neededLines (i : Instr) (w : Wave) (e : LaneMask) (nr : Nat) : List Nat :=
  sharedLines i ++ List.range 16 ++ (linesOf ((vOps i).1 ++ (vOps i).2)).filter (· < 16 + nr) ++
    (w.spillOf i e spillEntries).map (16 + nr + ·)

/-- The instruction names an absent line (R73). -/
def Wave.missed (w : Wave) (i : Instr) (e : LaneMask) (nr : Nat) : Bool :=
  !w.absent.isEmpty && (neededLines i w e nr).any w.absent.contains

/-- The blocks of `v` registers that an instruction reads: of the pair of a `BARX`, those that its mode reads (R240). -/
def vReads (i : Instr) : List (Nat × Nat) :=
  match i with
  | .barx d _ sv =>
    (if sv = 0 || 11 ≤ sv.toNat then [(2 * d.toNat, 1)] else []) ++
      (if sv = 0 || sv.toNat < 11 || 16 ≤ sv.toNat then [(2 * d.toNat + 1, 1)] else [])
  | i => (vOps i).2

/-- The 64-byte granules of the wave block that the instruction's operands lie in (R57, R59, R184): both halves of each register or spill line that it
reads, and the `k` slices, which lie in the lines of the header: of these the slice that is read (DEDUCED, log entry 61). -/
def operandGranules (i : Instr) (w : Wave) (e : LaneMask) (nr : Nat) : List Nat :=
  ((linesOf (vReads i)).filter (· < 16 + nr) ++ (w.spillOf i e spillReads).map (16 + nr + ·)).flatMap (fun n => [2 * n, 2 * n + 1]) ++
    (kReads i).flatMap fun p => (List.range p.2).map fun j => (p.1 + j) / 8

/-- The poison code of a granule that the instruction reads as operands (R184, R393). -/
def Wave.poisoned (w : Wave) (i : Instr) (e : LaneMask) (nr : Nat) : Option Nat :=
  if w.poison.isEmpty then none else (operandGranules i w e nr).findSome? fun n => w.poison.find n

/-- The counter of the instruction's flag stands at 63 (R174). -/
def flagFull (i : Instr) (x : Issuer) : Bool :=
  match flagOf i x.th.chdr with
  | some n => decide (63 ≤ x.w.flag n)
  | none => false

/-- A register miss (R73, R358): the wave moves to the pending set, keeps its place in the clause and waits for the lines; it takes its entry
there at the end of the step (slot 24 marks that it has none yet). -/
def State.demote (s : State) (a : Agent) (lines : List Nat) : State :=
  s.modAgent a fun w => { w with cls := .pending, slot := 24, missing := lines.filter w.absent.contains }

/-- Issue an instruction whose effect is `eff` (R170, R174, R184). An encoding cause gives way only to a lower code of the effect. -/
def State.issueAs (s : State) (i : Instr) (x : Issuer) (eff : Issuer → State → Effect) : State :=
  if x.w.missed i x.e (s.descOf x.a).nregs then s.demote x.a (neededLines i x.w x.e (s.descOf x.a).nregs)
  else
    match x.w.poisoned i x.e (s.descOf x.a).nregs with
    | some code => conclude i x (.raise Cause.ecc s (BitVec.ofNat 8 code))
    | none =>
      match encodingCause i s x.a x.th with
      | some c =>
        match eff x s with
        | .raise c' s' t => if c' < c then conclude i x (.raise c' s' t) else conclude i x (.raise c s)
        | _ => conclude i x (.raise c s)
      | none =>
        if flagFull i x then conclude i x (.wait 11 s) else conclude i x (eff x s)

/-- The meaning of an encoded instruction: refused without an issuer, else the state after its issue. -/
def issue (i : Instr) (s : State) (eff : Issuer → State → Effect) : Host.Outcome State Fault Refusal :=
  match s.issuer? with
  | none => .refused .noIssuer
  | some x => .next (s.issueAs i x eff)

/-- The meaning of an event: refused where its condition does not hold. -/
def event (name : String) (s : State) (f : State → Option State) : Host.Outcome State Fault Refusal :=
  match f s with
  | some s' => .next s'
  | none => .refused (.notEnabled name)

end Sys2Proof.Machine
end

