-- ==== Sys2Proof/Machine/Fabric.lean ====
section
/-! DEFINITION. The way to other modules (R109, R394, R420, R421) and the inbound fault records (R424). -/

namespace Sys2Proof.Machine

open Sys2Proof

/-- The port that a chip's flits leave on (R420): the first entry of the routing table that is valid, names a port and matches. -/
def State.routeTo (s : State) (chip : Nat) : Option Nat :=
  (List.range 64).findSome? fun i =>
    let m := s.dvReg (0x040 + 2 * i)
    let k := s.dvReg (0x041 + 2 * i)
    let mask := bits k 0 18
    if m.getLsbD 31 && decide (bits k 18 3 < 6) && Nat.land chip mask = Nat.land (bits m 0 18) mask then some (bits k 18 3) else none

/-- A strait port is trained and up (R421). -/
def State.portUp (s : State) (port : Nat) : Bool := (s.dvReg 0x013).getLsbD port

/-- How a location is reached: at this module or over a port that is up, not yet, or not at all (R420). -/
inductive Reach where
  | ok | down | noRoute
  deriving DecidableEq, Repr

/-- The way to a chip. -/
def State.reachChip (s : State) (chip : Nat) : Reach :=
  match s.routeTo chip with
  | none => .noRoute
  | some p => if s.portUp p then .ok else .down

/-- The way to a place: peer memory lies at its chip's global addresses above `peerBase` (R109). -/
def State.reachPlace (s : State) : Place → Reach
  | .mem a _ _ => if isPeer a then s.reachChip ((a - peerBase) / 2 ^ 46) else .ok
  | _ => .ok

/-- Write an inbound fault record into a partition's ring, or count it as lost, and raise `INBOUND_FAULT` (R402, R424). -/
def State.inboundFault (s : State) (p ctx : Nat) (addr : DWord) (chip job reason kind len : Nat) : State :=
  let ptr := s.ptReg p 0x019
  let put := bits ptr 0 8
  if (put + 256 - bits ptr 8 8) % 256 = 64 then
    let s := s.setPtReg p 0x019 (setBits ptr 16 16 (min 65535 (bits ptr 16 16 + 1)))
    s.raiseEvent p 0x07 ctx (leBytes 4 0xFFFFFFFF ++ [BitVec.ofNat 8 reason])
  else
    let base := bits (s.ptReg p 0x017) 11 21 * 2 ^ 11 + bits (s.ptReg p 0x018) 0 14 * 2 ^ 32
    let bytes := leBytes 8 addr.toNat ++ leBytes 4 chip ++ leBytes 2 job ++ [BitVec.ofNat 8 reason, BitVec.ofNat 8 kind] ++
      leBytes 4 len ++ leBytes 8 0 ++ leBytes 4 put
    let s := match physKind (base + 32 * (put % 64)) with | .dram a => s.recordWrites a bytes false | _ => s
    (s.setPtReg p 0x019 (setBits ptr 0 8 (put + 1))).raiseEvent p 0x07 ctx (leBytes 4 put ++ [BitVec.ofNat 8 reason])

/-- A request that no partition's job binds is refused with REASON 1 (R394, R423): the ring of one of the enabled partitions takes the record. The
spec does not say which: an open choice (DESIGN CHOICE, log entry 33). -/
def State.unboundFault (s : State) (addr : DWord) (chip job kind len : Nat) : State :=
  let ps := (List.range 8).filter fun p => (s.ptReg p 0).getLsbD 0
  match ps[s.free.1.toNat % ps.length]? with
  | some p => s.free.2.inboundFault p 0xFF addr chip job 1 kind len
  | none => s

/-- The own chip number (R31, R334). -/
def State.chip (s : State) : Nat := bits (s.dvReg 0x001) 0 18

/-- The fabric job of a partition (R424). -/
def State.jobOf (s : State) (p : Nat) : Nat := bits (s.ptReg p 0x016) 0 16

/-- A request of a partition for a location of a peer leaves the module with its job (R423). -/
def State.request (s : State) (p a kind len : Nat) : State :=
  if isPeer a then
    { s with out := s.out ++ [.request ((a - peerBase) / 2 ^ 46) (s.jobOf p) (BitVec.ofNat 64 (a - peerBase)) kind len] }
  else s

/-- A request of a partition for a place that a peer holds leaves the module (R423). -/
def State.requestAt (s : State) (p : Nat) (place : Place) (kind len : Nat) : State :=
  match place with
  | .mem a _ _ => s.request p a kind len
  | _ => s

/-- No route matches (R420): the request is refused at the initiator, with a record of REASON 7 at the own module. -/
def State.noRoute (s : State) (p : Nat) (addr : DWord) (kind len : Nat) : State :=
  s.inboundFault p (bits (s.ptReg p 0x016) 16 1) addr s.chip (s.jobOf p) 7 kind len

/-- The global physical address of a place at a peer; 0 elsewhere. -/
def Place.globalAddr : Place → DWord
  | .mem a _ _ => if isPeer a then BitVec.ofNat 64 (a - peerBase) else 0
  | _ => 0

/-- What a request of a unit of the hub die meets that waits for its answer (R394, R395, R419, R420): no route, a port that is down, or the answer
of a peer, which may refuse it or not come, as that of the host may not: an open choice (DESIGN CHOICE, log entry 33). -/
def State.hubAnswer (s : State) (p : Nat) (place : Place) (kind len : Nat) : Option Cause × State :=
  match place with
  | .mem a _ _ =>
    if a < hostBase then (none, s)
    else
      match s.reachPlace place with
      | .noRoute => (some Cause.remote, s.noRoute p place.globalAddr kind len)
      | .down => (some Cause.remoteTimeout, s.requestAt p place kind len)
      | .ok =>
        let (w, s) := (s.requestAt p place kind len).free
        (match w.toNat % 3 with | 0 => none | 1 => if isPeer a then some Cause.remote else none | _ => some Cause.remoteTimeout, s)
  | _ => (none, s)

end Sys2Proof.Machine
end

