-- ==== Sys2Proof/Machine/L1.lean ====
section
/-! DEFINITION. The L1 of a core with its release records (R102, R126, R132 to R136), the poison that it holds (R392, R393), and lagoons
(R101). -/

namespace Sys2Proof.Machine

open Sys2Proof

/-- The dirty bytes that leave an L1 together with that of a location: those of its aligned 8 bytes, which hold every single-copy atomic
unit (R126), or of its granule where that was written whole (R393). -/
def L1.unit (l : L1) (a : Nat) : List Host.Cell :=
  l.dirty.filter fun p => if l.whole.contains (a / 64) then p.1 / 64 = a / 64 else p.1 / 8 = a / 8

/-- A byte that leaves for its home point stays in the clean copy of its sector, if the L1 holds one (R102). -/
def L1.takeClean (l : L1) (a : Nat) (b : Byte) : L1 :=
  { l with clean := match l.clean.find (a / 64) with | some bs => l.clean.ins (a / 64) (bs.set (a % 64) b) | none => l.clean }

/-- Bytes are no longer dirty. -/
def L1.undirty (l : L1) (cells : List Host.Cell) : L1 :=
  { l with
    dirty := cells.foldl (fun (d : Tab Byte) x => d.del x.1) l.dirty
    owners := cells.foldl (fun (d : Tab StoreId) x => d.del (x.1 / 8)) l.owners
    whole := cells.foldl (fun d x => d.erase (x.1 / 64)) l.whole }

namespace State

/-- Change the L1 of a core. -/
def modL1 (s : State) (c : Nat) (f : L1 → L1) : State :=
  let x := s.core c
  s.putCore c { x with l1 := f x.l1 }

/-- A gated core wakes (R72). -/
def wakeCore (s : State) (c : Nat) : State := if (s.core c).gated then s.putCore c { s.core c with gated := false } else s

/-- The poison of a granule in an L1 goes with bytes that leave it, and no copy keeps it once none of its bytes is dirty (R393). -/
def carryPoison (s : State) (c g : Nat) : State :=
  let l := (s.core c).l1
  let code := l.poison.get 0 g
  if code = 0 then s
  else
    let s : State := { s with poison := s.poison.put 0 g code }
    if l.dirty.any fun p => p.1 / 64 = g then s else s.modL1 c fun l => { l with poison := l.poison.del g }

/-- A byte of a store is refused (R122, R394, R395): its agent takes one cause for the store, the lowest one. `BARSTORE` is the lowest there is, and
becomes pending at once, also after another was told; another when no byte of the store is on its way to a peer any more. -/
def refuseStore (s : State) (c : Nat) (b : StoreId) (cause : Cause) : State :=
  let now := decide (cause = Cause.barstore)
  let old := (s.core c).l1.refused.find? fun r => r.1 = b
  let low := match old with | some (_, d, _) => min cause d | none => cause
  let told := match old with | some (_, _, t) => t | none => false
  if told && old.any fun r => r.2.1 = low then s
  else if told && !now then s
  else
    let s := s.modL1 c fun l => { l with refused := (l.refused.filter fun r => r.1 ≠ b) ++ [(b, low, now)] }
    if now then s.pendCause b.agent cause 0 b.who c b.quarter else s

/-- The refused stores of a core whose last byte for a peer has left it make their cause pending (R395); one that has no byte left is
forgotten. -/
def tellRefused (s : State) (c : Nat) : State :=
  (s.core c).l1.refused.foldl
    (fun s (b, cause, told) =>
      let l := (s.core c).l1
      let mine (a : Nat) : Bool := l.owners.find (a / 8) = some b
      let left := l.dirty.any (fun p => mine p.1) || l.wtq.any fun t => t.who = some b
      let away := l.dirty.any fun p => isPeer p.1 && mine p.1
      let s := s.modL1 c fun l => { l with refused :=
        if told && !left then l.refused.filter fun r => r.1 ≠ b
        else if !told && !away then (l.refused.filter fun r => r.1 ≠ b) ++ (if left then [(b, cause, true)] else [])
        else l.refused }
      if !told && !away then s.pendCause b.agent cause 0 b.who c b.quarter else s)
    s

/-- Every core tells of its refused stores. -/
def tellAllRefused (s : State) : State :=
  (s.cores.filter fun p => !p.2.l1.refused.isEmpty).foldl (fun s p => s.tellRefused p.1) s

/-- The poison of a granule in an L1 goes with bytes that were refused, once none of its bytes is dirty (R393). -/
def dropPoison (s : State) (c g : Nat) : State :=
  if (s.core c).l1.dirty.any fun p => p.1 / 64 = g then s else s.modL1 c fun l => { l with poison := l.poison.del g }

/-- Bytes of a granule that an instruction stored reach their home point together (R122, R126, R135, R393, R420): those of an object on which
something waits are refused with `BARSTORE`, those for a module that no route leads to with `REMOTE`, and those that need a port that is down are
discarded, so that their store times out. -/
def arriveHome (s : State) (c : Nat) (cells : List Host.Cell) (who : Option StoreId) (wt : Bool) : State :=
  let a := (cells.headD (0, 0)).1
  match s.reachPlace (.mem a false false) with
  | .noRoute =>
    let s := s.dropPoison c (a / 64)
    match who with
    | some b => (s.noRoute (partOf (ctxOf b.agent)) (BitVec.ofNat 64 (a - peerBase)) 1 cells.length).refuseStore c b Cause.remote
    | none => s
  | .down =>
    let s := s.dropPoison c (a / 64)
    match who with
    | some b => (s.request (partOf (ctxOf b.agent)) a 1 cells.length).refuseStore c b Cause.remoteTimeout
    | none => s
  | .ok =>
    let go := cells.filter fun x => !s.objWaited x.1
    let s := s.modL1 c fun l => go.foldl (fun l x => l.takeClean x.1 x.2) l
    let s := if go.length = 64 then s.homeWrites a (go.map (·.2)) wt else s.homeCells go wt
    let s := s.carryPoison c (a / 64)
    match who with
    | some b =>
      let s := s.request (partOf (ctxOf b.agent)) a 1 cells.length
      if go.length = cells.length then s else s.refuseStore c b Cause.barstore
    | none => s

/-- Write back the unit of a dirty byte: it leaves for its home point. -/
def writeBackNow (s : State) (c a : Nat) : State :=
  let l := (s.core c).l1
  match l.unit a with
  | [] => s
  | x :: cells => (s.modL1 c (·.undirty (x :: cells))).arriveHome c (x :: cells) (l.owners.find (a / 8)) false

/-- The oldest write-through reaches its home point. -/
def drainNow (s : State) (c : Nat) : State :=
  match (s.core c).l1.wtq with
  | [] => s
  | t :: q => (s.modL1 c fun l => { l with wtq := q }).arriveHome c (t.bytes.mapIdx fun j b => (t.addr + j, b)) t.who t.row

/-- Promotion (R132): the release records of a core up to position n are performed at their home points: the bytes that were dirty when each
was recorded are written back. A write-back is itself an access that makes other cores promote; the number bounds how far this goes, and each
promotion takes its records first. A gated core wakes for it (R72). -/
def promoteTo : Nat → State → Nat → Nat → State
  | 0, s, _, _ => s
  | f + 1, s, c, n =>
    let rs := (s.core c).l1.recs.take (n + 1)
    let s := (s.modL1 c fun l => { l with recs := l.recs.drop (n + 1) }).wakeCore c
    let out (s : State) (a : Nat) : State := s.cores.foldl
      (fun s (c', _) =>
        if c' = c then s
        else
          match ((s.core c').l1.recs.reverse.findIdx? fun r => r.addr / 256 = a / 256) with
          | some j => promoteTo f s c' ((s.core c').l1.recs.length - 1 - j)
          | none => s)
      s
    let s := (s.core c).l1.wtq.foldl (fun s t => (out s t.addr).drainNow c) s
    (rs.flatMap (·.bytes)).foldl (fun s a => (out s a).writeBackNow c a) s

/-- Promote the records of a core up to position n. -/
def promote (s : State) (c n : Nat) : State := promoteTo (s.cores.length + 1) s c n

/-- An access from outside a core reaches a marked line: every other core that recorded a release there is promoted first (R132). -/
def promoteFor (s : State) (from_ : Nat) (a : Nat) : State :=
  s.cores.foldl
    (fun s (c, _) =>
      if c = from_ then s
      else
        match ((s.core c).l1.recs.reverse.findIdx? fun r => r.addr / 256 = a / 256) with
        | some j => s.promote c ((s.core c).l1.recs.length - 1 - j)
        | none => s)
    s

/-- The oldest write-through reaches its home point (R132). -/
def drainOne (s : State) (c : Nat) : State :=
  match (s.core c).l1.wtq with
  | [] => s
  | t :: _ => (s.promoteFor c t.addr).drainNow c

/-- Every queued write-through reaches its home point, in order. -/
def drainAll (s : State) (c : Nat) : State := (s.core c).l1.wtq.foldl (fun s _ => s.drainOne c) s

/-- Write-throughs to the granule of a location, which are older than its dirty bytes, go before these (R127). -/
def drainBefore (s : State) (c a : Nat) : State := if (s.core c).l1.wtq.any fun t => t.addr / 64 = a / 64 then s.drainAll c else s

/-- Write back the unit of a dirty byte (R102, R126, R127, R132). -/
def writeBack (s : State) (c a : Nat) : State := ((s.drainBefore c a).promoteFor c a).writeBackNow c a

/-- Write back every dirty byte of a list of locations. -/
def writeBackAll (s : State) (c : Nat) (as : List Nat) : State := as.foldl (fun s a => s.writeBack c a) s

/-- A peer refuses a write that leaves an L1, or does not answer in time, as host memory may not (R394, R395, R419): the unit of a dirty byte, or the
oldest write-through where it lies at the location. The store meets `REMOTE` or `REMOTE_TIMEOUT`; a refused one is not performed, where one that timed
out may have been (`done`). -/
def refuseBack (s : State) (c a : Nat) (late done : Bool) : State :=
  let refuse (s : State) (cells : List Host.Cell) (who : Option StoreId) : State :=
    let s := (if late && done then s.homeCells cells false else s).dropPoison c (a / 64)
    match who with
    | some b => s.refuseStore c b (if late then Cause.remoteTimeout else Cause.remote)
    | none => s
  if !isPeer a && !(late && isHost a) then s
  else
    let l := (s.core c).l1
    match l.wtq.find? fun t => t.addr / 64 = a / 64, l.unit a with
    | some t, _ =>
      if t.addr = a && l.wtq.head? = some t then
        refuse (s.modL1 c fun l => { l with wtq := l.wtq.drop 1 }) (t.bytes.mapIdx fun j b => (t.addr + j, b)) t.who
      else s
    | none, [] => s
    | none, x :: cells => refuse (s.modL1 c (·.undirty (x :: cells))) (x :: cells) (l.owners.find (a / 8))


/-- A release (R132 to R134): at `.wave` nothing; at `.core` the variable's line is recorded (a 65th record promotes the oldest); at a
wider scope every dirty byte is written back. -/
def release (s : State) (c scope : Nat) (addr : Option Nat) : State :=
  if scope = 0 || 320 ≤ c then s
  else if scope = 1 then
    match addr with
    | none => s
    | some a =>
      let s := if (s.core c).l1.recs.length ≥ 64 then s.promote c 0 else s
      s.modL1 c fun l => { l with recs := l.recs ++ [{ addr := a, bytes := l.dirty.map (·.1) }] }
  else
    let s := s.drainAll c
    s.writeBackAll c ((s.core c).l1.dirty.map (·.1))

/-- An acquire (R136): at `.clus` or wider every byte of the core's L1 that is not dirty is marked invalid. -/
def acquire (s : State) (c scope : Nat) : State :=
  if scope < 2 || 320 ≤ c then s else s.modL1 c fun l => { l with clean := [] }

/-- An L1 is written back and invalidated, its records promoted (R133, R150). -/
def flushL1 (s : State) (c : Nat) : State :=
  let s := s.drainAll c
  let s := s.writeBackAll c ((s.core c).l1.dirty.map (·.1))
  s.modL1 c fun l => { l with clean := [], recs := [] }

/-- A kernel boundary: every L1 of the device is written back and invalidated and every record cleared (R150). No fetch of the grid that starts or
ends there takes bytes from before it (R154). -/
def kernelBoundary (s : State) (k : GridKey) : State :=
  let s := (s.cores.map (·.1)).foldl flushL1 s
  { s with codeOld := s.codeOld.filter fun h => h.grid ≠ k }

/-- The byte that a core sees through its L1: a dirty byte, a queued write-through, a clean copy, or the home point (R102, R135). -/
def coreByte (s : State) (c a : Nat) : Byte :=
  let l := (s.core c).l1
  match l.dirty.find a with
  | some b => b
  | none =>
    match l.wtq.reverse.find? fun t => decide (t.addr ≤ a) && decide (a < t.addr + t.bytes.length) with
    | some t => t.bytes[a - t.addr]?.getD 0
    | none =>
      match l.clean.find (a / 64) with
      | some bs => bs[a % 64]?.getD (s.homeByte a)
      | none => s.homeByte a

/-- A core's read of a location asks for it below its L1 (R102). -/
def leaves (s : State) (c a : Nat) (atHome : Bool) : Bool := decide (320 ≤ c) || atHome || ((s.core c).l1.clean.find (a / 64)).isNone

/-- Fill the sector of a location into a core's L1, if it is not there (R102). -/
def fillSector (s : State) (c a : Nat) : State :=
  if 320 ≤ c then s
  else
    match (s.core c).l1.clean.find (a / 64) with
    | some _ => s
    | none =>
      let bs := s.homeBytes (a / 64 * 64) 64
      s.modL1 c fun l => { l with clean := l.clean.ins (a / 64) bs }

/-- Read n bytes for a core: at the home point after its own dirty bytes and releases of other cores (`atHome`, R135), or through the
L1. A page with NC is never filled (R369). The hub die (core 511) has no L1. -/
def readBytes (s : State) (c a n : Nat) (nc atHome : Bool) : List Byte × State :=
  if 320 ≤ c then
    let s := s.promoteFor c a
    (s.homeBytes a n, s)
  else if atHome || nc then
    let s := s.drainAll c
    let s := s.writeBackAll c (((s.core c).l1.dirty.map (·.1)).filter fun x => x / 256 = a / 256)
    let s := s.promoteFor c a
    (s.homeBytes a n, s)
  else
    let s := match (s.core c).l1.clean.find (a / 64) with | some _ => s | none => s.promoteFor c a
    let s := s.fillSector c a
    ((List.range n).map fun j => s.coreByte c (a + j), s)

/-- The pieces of bytes at an address that each lie in one aligned 8-byte unit. -/
def unitsOf (a : Nat) (bs : List Byte) : List (Nat × List Byte) :=
  let n := 8 - a % 8
  if bs.length ≤ n then [(a, bs)] else (a, bs.take n) :: (List.range ((bs.length - n + 7) / 8)).map fun j => (a + n + 8 * j, (bs.drop (n + 8 * j)).take 8)

/-- Write bytes for a store on a core: a cacheable page keeps them dirty in the L1, a ROW page writes them through, an NC page sends them to
the home point through the same queue (R102, R368, R369). -/
def writeBytes (s : State) (c : Nat) (who : StoreId) (a : Nat) (bs : List Byte) (nc row : Bool) : State :=
  if 320 ≤ c then (s.promoteFor c a).homeWrites a bs row
  else if nc || row then
    s.modL1 c fun l =>
      let l := l.undirty (bs.mapIdx fun j b => (a + j, b))
      { bs.zipIdx.foldl (fun (l : L1) p => l.takeClean (a + p.2) p.1) l with
        wtq := l.wtq ++ (unitsOf a bs).map fun p => { addr := p.1, bytes := p.2, who := some who, row := row } }
  else
    s.modL1 c fun l =>
      { l with
        dirty := (List.range bs.length).foldl (fun d j => d.ins (a + j) (bs[j]?.getD 0)) l.dirty,
        owners := (List.range bs.length).foldl (fun (d : Tab StoreId) j => d.ins ((a + j) / 8) who) l.owners }

/-- An instruction of a core wrote ranges of bytes: each granule that it wrote whole loses its poison, and leaves the L1 whole (R393). -/
def wroteWhole (s : State) (c : Nat) (rs : List (Nat × Nat)) : State :=
  if s.poison.isEmpty && (s.core c).l1.poison.isEmpty then s
  else
    let gs := (rs.map (·.1 / 64)).eraseDups.filter fun g =>
      (List.range 64).all fun j => rs.any fun r => r.1 ≤ 64 * g + j && decide (64 * g + j < r.1 + r.2)
    gs.foldl
      (fun s g =>
        let bs := (List.range 64).map fun j => s.coreByte c (64 * g + j)
        s.modL1 c fun l =>
          let old := l.wtq.filter fun t => t.addr / 64 = g
          { l with
            poison := l.poison.del g
            whole := if old.isEmpty then g :: l.whole else l.whole
            wtq := match old.getLast? with
              | some t => (l.wtq.filter fun t => t.addr / 64 ≠ g) ++ [{ t with addr := 64 * g, bytes := bs }]
              | none => l.wtq })
      s

/-- A write-through without the bytes of a range. -/
def Through.outside (t : Through) (a n : Nat) : List Through :=
  if t.addr + t.bytes.length ≤ a || a + n ≤ t.addr then [t]
  else (t.bytes.mapIdx fun j b => (t.addr + j, b)).filterMap fun x =>
    if a ≤ x.1 && decide (x.1 < a + n) then none else some { t with addr := x.1, bytes := [x.2] }

/-- Every core loses its clean copies of the bytes of a range. -/
def dropClean (s : State) (a n : Nat) : State :=
  (s.cores.map (·.1)).foldl
    (fun s c => s.modL1 c fun l => { l with clean := l.clean.filter fun (x, _) => (x + 1) * 64 ≤ a || a + n ≤ x * 64 }) s

/-- Stores to a range that an L1 still holds reach their home point before a fold over the range, or after it: those of each core by an open choice
(R294). -/
def settleStores (s : State) (a n : Nat) : State :=
  s.cores.foldl
    (fun s (c, x) =>
      let mine := x.l1.dirty.filter fun y => a ≤ y.1 && decide (y.1 < a + n)
      let queued := x.l1.wtq.any fun t => decide (t.addr < a + n) && decide (a < t.addr + t.bytes.length)
      if mine.isEmpty && !queued then s
      else
        let (before, s) := s.choose
        if before then (if queued then s.drainAll c else s).writeBackAll c (mine.map (·.1)) else s)
    s

/-- Invalidate the L1 lines that hold bytes of a range, in every core: clean copies, and the bytes of the range that are dirty or on their way,
which the write has overwritten (R146, R148). -/
def invalidateRange (s : State) (a n : Nat) : State :=
  (s.cores.map (·.1)).foldl
    (fun s c => s.modL1 c fun l =>
      { (l.undirty (l.dirty.filter fun x => a ≤ x.1 && decide (x.1 < a + n))) with
        clean := l.clean.filter fun (x, _) => (x + 1) * 64 ≤ a || a + n ≤ x * 64
        wtq := l.wtq.flatMap fun t => Through.outside t a n })
    s

/-- A release recorded in the line of a location by some core (R121). -/
def recordedLine (s : State) (a : Nat) : Bool := s.cores.any fun (_, x) => x.l1.recs.any fun r => r.addr / 256 = a / 256

/-- `LD.LAST` discards the line of a location from the core's L1 and from the LLC, dirty bytes included (R121, R144): clean copies of the
dropped bytes in other L1s go too. A line that holds a recorded release stays, and the core's own records are promoted (R133). -/
def discardLine (s : State) (c a : Nat) : State :=
  let line := a / 256
  if s.recordedLine a then
    if (s.core c).l1.recs.any fun r => r.addr / 256 = line then s.promote c ((s.core c).l1.recs.length - 1) else s
  else
    let s := s.modL1 c fun l => l.undirty (l.dirty.filter fun x => x.1 / 256 = line)
    let s := (s.cores.map (·.1)).foldl (fun s c => s.modL1 c fun l => { l with clean := l.clean.filter fun (x, _) => x / 4 ≠ line }) s
    { s with llc := s.llc.filter fun (x, _) => x / 256 ≠ line }

/-- The poison code of a location's granule as a core reads it; 0 when it is clean (R392, R393). -/
def poisonAt (s : State) (c a : Nat) : Nat :=
  let l := (s.core c).l1
  let p := if l.whole.contains (a / 64) then 0 else s.poison.get 0 (a / 64)
  if p ≠ 0 then p else l.poison.get 0 (a / 64)

/-! Lagoons (R101). -/

/-- The lagoon that is still held for an exited member of an archipelago (R36). -/
def held? (s : State) (t : TeamKey) : Option HeldLagoon := (s.heldLag.find? fun p => p.1 = t).map (·.2)

/-- Change the lagoon held for an exited member. -/
def modHeld (s : State) (t : TeamKey) (f : HeldLagoon → HeldLagoon) : State :=
  { s with heldLag := s.heldLag.map fun p => if p.1 = t then (p.1, f p.2) else p }

/-- The bytes of a lagoon: the team's, or the one still held for an exited member of an archipelago (R36). -/
def lagoonTab (s : State) (t : TeamKey) : Tab Byte :=
  match s.held? t with
  | some h => h.bytes
  | none => ((s.team? t).map (·.lagoon)).getD []

/-- Write the bytes of a lagoon. -/
def putLagoon (s : State) (t : TeamKey) (b : Tab Byte) : State :=
  match s.held? t with
  | some _ => s.modHeld t fun h => { h with bytes := b }
  | none => s.modTeam t fun x => { x with lagoon := b }

/-- The poison codes of a lagoon, by granule (R392): the team's, or those of one still held (R36). -/
def lagPoisonTab (s : State) (t : TeamKey) : Tab Nat :=
  match s.held? t with
  | some h => h.poison
  | none => ((s.team? t).map (·.lagPoison)).getD []

/-- Write the poison codes of a lagoon. -/
def putLagPoison (s : State) (t : TeamKey) (p : Tab Nat) : State :=
  match s.held? t with
  | some _ => s.modHeld t fun h => { h with poison := p }
  | none => s.modTeam t fun x => { x with lagPoison := p }

/-- Read n bytes of a lagoon. -/
def lagoonRead (s : State) (t : TeamKey) (off n : Nat) : List Byte := (s.lagoonTab t).getList 0 off n
/-- Write bytes of a lagoon. -/
def lagoonWrite (s : State) (t : TeamKey) (off : Nat) (bs : List Byte) : State :=
  s.putLagoon t ((s.lagoonTab t).putList 0 off bs)

/-- An instruction wrote ranges of lagoons: each granule that it wrote whole loses its poison (R393). -/
def lagoonWhole (s : State) (rs : List (TeamKey × Nat × Nat)) : State :=
  rs.foldl
    (fun s r =>
      let g := r.2.1 / 64
      let whole := (List.range 64).all fun j => rs.any fun q => q.1 = r.1 && q.2.1 ≤ 64 * g + j && decide (64 * g + j < q.2.1 + q.2.2)
      if (s.lagPoisonTab r.1).isEmpty || !whole then s else s.putLagPoison r.1 ((s.lagPoisonTab r.1).del g))
    s

end State

end Sys2Proof.Machine
end

