-- ==== Sys2Proof/Machine/Translate.lean ====
section
/-! DEFINITION. Address translation (R363 to R373), page-fault records (R374, R375), and context bytes: the bytes of live waves'
registers and thread records (R56 to R69, R337, R432). -/

namespace Sys2Proof.Machine

open Sys2Proof

/-- What an access does with the page (R370). -/
inductive AccKind where
  | read | write | exec
  deriving DecidableEq, Repr

/-- A leaf found by a walk (R365): its entry, the address of the entry, and the number of offset bits of its page. -/
structure Leaf where
  pte  : DWord
  addr : Nat
  bits : Nat
  deriving DecidableEq, Repr

/-- How a walk or a translation ends. -/
inductive Walk where
  | leaf (l : Leaf)
  | page
  | access
  deriving DecidableEq, Repr

/-- Bits of a page-table entry. -/
def pteBit (e : DWord) (n : Nat) : Bool := e.getLsbD n
/-- FRAME as an address: bits [63:12] (R365). -/
def pteFrame (e : DWord) : Nat := e.toNat / 4096 * 4096

/-- A table must lie in this module's DRAM, outside the reserved rows (R365): its interleaved address. -/
def tableHome (a : Nat) : Option Nat :=
  match physKind a with
  | .dram x => if a < usableTop || (shoalBase ≤ a && shoalOffset x < reservedRows) then some x else none
  | _ => none

/-- Read a page-table entry at its home point, after the releases that other cores recorded in its line (R132). -/
def State.readPte (s : State) (a : Nat) : DWord × State := (BitVec.ofNat 64 ((s.promoteFor 511 a).homeWord a 8), s.promoteFor 511 a)

/-- A leaf is well formed at its level (R365, R366): reserved bits 0, no S64 above level 0, a local frame below 2^46, FRAME aligned to
the page. -/
def leafOk (e : DWord) (level : Nat) : Bool :=
  let fr := e.toNat / 4096
  decide (e.extractLsb' 10 2 = 0#2) && (pteBit e 9 || decide (e.toNat / 2 ^ 46 = 0)) &&
    (level = 0 || !pteBit e 6) && decide (fr % 2 ^ (9 * level) = 0)

/-- The walk from the table at `tbl` of `level` downwards (R363, R365). -/
def State.walkFrom (s : State) (va : Nat) : Nat → Nat → Walk × State
  | level, tbl =>
    match tableHome tbl with
    | none => (.access, s)
    | some t =>
      let ea := t + 8 * (va / 2 ^ (12 + 9 * level) % 512)
      let (e, s) := s.readPte ea
      if !pteBit e 0 then (.page, s)
      else
        match level with
        | 0 => (if leafOk e 0 then .leaf ⟨e, ea, if pteBit e 6 then 16 else 12⟩ else .access, s)
        | n + 1 =>
          if pteBit e 3 then
            (if n + 1 ≤ 2 && leafOk e (n + 1) then .leaf ⟨e, ea, 12 + 9 * (n + 1)⟩ else .access, s)
          else if e.extractLsb' 1 11 = 0#11 && e.toNat / 2 ^ 46 = 0 then s.walkFrom va n (pteFrame e)
          else (.access, s)

/-- The root table of a context (R364). -/
def State.ptRoot (s : State) (ctx : Nat) : Nat :=
  bits (s.ctReg ctx 0x00E) 12 20 * 2 ^ 12 + bits (s.ctReg ctx 0x00F) 0 14 * 2 ^ 32

/-- The address of the page that a leaf gives, as a TLB entry filled from it holds it (R365, R366, R109): of a 64 KiB page, that of its first
entry, so that every entry gives its own frame. With G = 0 the chip number is the module's own, written as none. -/
def Leaf.base (l : Leaf) (va : Nat) : Nat :=
  if l.bits = 16 then (pteFrame l.pte + 2 ^ 64 - va / 4096 % 16 * 4096) % 2 ^ 64 else pteFrame l.pte

/-- The physical address of an address in a page. -/
def pageAddr (base bits va : Nat) : Nat := (base + va % 2 ^ bits) % 2 ^ 64

/-- The places at which a core finds translations, in their order (R371): its micro-TLB, the cluster TLB and its victim storage. -/
def tlbPlaces (core : Nat) : List Nat := [1 + core % 4, 0, 5 + core % 4]

/-- A cached translation that covers an address, with the frame base it was filled with (R371). -/
def State.tlbFind (s : State) (core ctx va : Nat) : Option TlbEntry :=
  (tlbPlaces core).findSome? fun p =>
    (s.cluster (clusterOf core)).tlb.find? fun e => e.place = p && e.ctx = ctx && e.vpage = va / 2 ^ e.bits

/-- At most n entries of a place stay, the newest ones. -/
def keepNewest (p n : Nat) (es : List TlbEntry) : List TlbEntry :=
  let old := (es.filter fun e => e.place = p).drop n
  es.filter fun e => !old.contains e

/-- A translation joins the cluster TLB and a core's micro-TLB, which hold 4,096 and 64 (R371). Which entry gives way is stated by no rule: the
oldest does, and any may (`tlbDrop`). -/
def State.tlbFill (s : State) (core : Nat) (e : TlbEntry) (shared : Bool) : State :=
  let c := s.cluster (clusterOf core)
  let q := 1 + core % 4
  let es := { e with place := q } :: (if shared then [{ e with place := 0 }] else []) ++ c.tlb
  s.putCluster (clusterOf core) { c with tlb := keepNewest 0 4096 (keepNewest q 64 es) }

/-- Where a physical address lies: its location key, when the access may go there (R370): the write and execute permissions, an
assigned address, a device register only from level 1, and DRAM inside the partition's share and outside the reserved rows. -/
def State.checkFrame (s : State) (ctx : Nat) (level : Nat) (k : AccKind) (pte : DWord) (g : Nat) : Option Place :=
  let chip := g / 2 ^ 46
  let a := g % 2 ^ 46
  let nc := pteBit pte 5 && !pteBit pte 4
  let row := pteBit pte 4
  let perm := match k with | .read => true | .write => pteBit pte 1 | .exec => pteBit pte 2
  if !perm then none
  else if pteBit pte 9 && chip ≠ bits (s.dvReg 1) 0 18 then some (.mem (peerKey g) nc row)
  else
    match physKind a with
    | .nothing => none
    | .dev r => if level = 0 then none else some (.dev r)
    | .host h => some (.mem h nc row)
    | .dram x =>
      let m := s.ptReg (partOf ctx) 0x005
      let u := x / 0x4000000
      if bits m 0 12 ≤ u && u < bits m 0 12 + bits m 16 12 && x < usableTop && shoalOffset x < reservedRows then
        some (.mem x nc row)
      else none

/-- Set the accessed bit of an entry by an atomic OR at its home point (R367). -/
def State.markA (s : State) (a : Nat) : State :=
  let b := s.homeByte a
  if b.getLsbD 7 then s else s.recordWrites a [b ||| 0x80] false

/-- Set the dirty bit of an entry by an atomic OR at its home point (R367). -/
def State.markD (s : State) (a : Nat) : State :=
  let b := s.homeByte (a + 1)
  if b.getLsbD 0 then s else s.recordWrites (a + 1) [b ||| 1] false

/-- How a translation with its checks ends. -/
inductive Xlat where
  | ok (p : Place) (g : Nat) (pte : DWord)
  | page
  | access
  deriving DecidableEq, Repr

/-- Translate a virtual address for a context (R363 to R371): through the places at which its core finds translations, or by a walk that fills them
when the access passes its checks. The hub die (core 511) holds no translations: R371 lists no TLB for its units. R367 sets A and D at the fill of
an entry; a walk for the hub die sets them too (DESIGN CHOICE, log entry 72). -/
def State.translate (s : State) (ctx core level : Nat) (k : AccKind) (va : DWord) : Xlat × State :=
  let v := va.toNat
  if v / 2 ^ 57 ≠ 0 then (.access, s)
  else
    let wr := decide (k = .write)
    match (if core < 320 then s.tlbFind core ctx v else none) with
    | some e =>
      let g := pageAddr (pteFrame e.pte) e.bits v
      match s.checkFrame ctx level k e.pte g with
      | none => (.access, s)
      | some p =>
        let s := if e.place = 0 then s.tlbFill core e false else s
        if wr && !pteBit e.pte 8 then
          let s := s.markD e.addr
          let c := s.cluster (clusterOf core)
          let mark (x : TlbEntry) : TlbEntry := if { x with place := 0 } = { e with place := 0 } then { x with pte := x.pte ||| 0x100 } else x
          (.ok p g e.pte, s.putCluster (clusterOf core) { c with tlb := c.tlb.map mark })
        else (.ok p g e.pte, s)
    | none =>
      match s.walkFrom v 4 (s.ptRoot ctx) with
      | (.page, s) => (.page, s)
      | (.access, s) => (.access, s)
      | (.leaf l, s) =>
        let g := pageAddr (l.base v) l.bits v
        match s.checkFrame ctx level k l.pte g with
        | none => (.access, s)
        | some p =>
          let s := s.markA l.addr
          let s := if wr then s.markD l.addr else s
          let pte := (l.pte &&& 0xFFF) ||| BitVec.ofNat 64 (l.base v) ||| (if wr then 0x180 else 0x080)
          if core < 320 then
            (.ok p g pte, s.tlbFill core { ctx := ctx, vpage := v / 2 ^ l.bits, bits := l.bits, pte := pte, addr := l.addr } true)
          else (.ok p g pte, s)

/-! Page-fault records (R374, R375). -/

/-- Write the oldest waiting fault record into the ring, and raise `PAGE_FAULT`, if there is room. -/
def State.recordFault (s : State) (ctx : Nat) : State :=
  match (s.ctx ctx).pfWait with
  | [] => s
  | r :: rest =>
    let ptr := s.ctReg ctx 0x012
    let put := bits ptr 0 16
    if (put + 65536 - bits ptr 16 16) % 65536 = 128 then s
    else
      let base := bits (s.ctReg ctx 0x010) 12 20 * 2 ^ 12 + bits (s.ctReg ctx 0x011) 0 14 * 2 ^ 32
      let bytes := leBytes 8 r.va.toNat ++ leBytes 8 r.who.toNat ++ leBytes 4 r.info.toNat ++ leBytes 4 r.lanes.toNat ++
        leBytes 4 0 ++ leBytes 4 put
      let s :=
        match physKind (base + 32 * (put % 128)) with
        | .dram a => s.recordWrites a bytes false
        | _ => s
      let x := s.ctx ctx
      let s := s.putCtx ctx { x with pfWait := rest }
      let s := s.setCtReg ctx 0x012 (setBits ptr 0 16 (put + 1))
      s.raiseEvent (partOf ctx) 0x03 (ctx % 2) (leBytes 4 put ++ [BitVec.ofNat 8 r.kind])

/-- A translation failed with `PAGE` (R374): its record waits in order and is written when the ring has room. -/
def State.pageFault (s : State) (ctx : Nat) (va who : DWord) (kind : Nat) (wr atom : Bool) (core eng : Nat) (lanes : LaneMask) : State :=
  let info := kind + (if wr then 8 else 0) + (if atom then 16 else 0) + core * 32 + eng * 16384
  let x := s.ctx ctx
  let r : PageRec := { va := va, who := who, info := BitVec.ofNat 32 info, lanes := lanes, kind := kind }
  let first := x.pfWait.isEmpty
  let s := s.putCtx ctx { x with pfWait := x.pfWait ++ [r] }
  if first then s.recordFault ctx else s

/-! Context bytes. -/

/-- A frame as the register cache records it at a fill (R75, R368): the physical address, 2^128 higher where its page has ROW. -/
def frameOf (pa : Nat) (row : Bool) : Nat := pa + if row then 2 ^ 128 else 0
/-- The physical address of a frame. -/
def frameAddr (f : Nat) : Nat := f % 2 ^ 128
/-- The page of a frame has ROW: what is written to it goes through the LLC (R105, R368). -/
def frameRow (f : Nat) : Bool := decide (2 ^ 128 ≤ f)

/-- The register cache reaches memory: the releases that L1s recorded in a line come home first (R132). -/
def State.cacheReach (s : State) (pa : Nat) : State := s.promoteFor 512 pa
/-- The register cache writes bytes at an offset from a frame. -/
def State.cacheWrite (s : State) (f off : Nat) (bs : List Byte) : State :=
  (s.cacheReach (frameAddr f + off)).recordWrites (frameAddr f + off) bs (frameRow f)

/-- The little-endian byte b of a word. -/
def wordByte (w : Word) (b : Nat) : Byte := BitVec.ofNat 8 (w.toNat / 256 ^ b)
/-- A word with byte b replaced. -/
def setWordByte (w : Word) (b : Nat) (x : Byte) : Word := setBits w (8 * b) 8 x.toNat

/-- A thread's STAT byte (R58). -/
def Thread.statByte (t : Thread) : Byte :=
  let st : Nat := match t.stat with | .running => 0 | .waiting => 1 | .parked => 2 | .exited => 3
  BitVec.ofNat 8 (st + 4 * t.kind.toNat)

/-- The 64 bytes of record L of a wave's header: the thread record and slice L of the wave state (R58, R59). -/
def Wave.record (w : Wave) (l : Nat) : List Byte :=
  let t := w.th l
  let word (x : Word) : List Byte := leBytes 4 x.toNat
  let grp := if w.edited then t.grp else w.grpByte l
  leBytes 8 t.pc.toNat ++ leBytes 2 t.spill ++ leBytes 6 0 ++ [(0x80 : Byte) ||| t.pred.setWidth 8, t.cpos.setWidth 8, t.statByte, grp] ++
    word (if t.stat = .exited then 0 else t.chdr) ++ leBytes 8 0 ++
    (if l < 8 then (List.range 8).flatMap fun j => word (w.kreg (8 * l + j))
     else if l = 8 then
       ((List.range 12).map fun j => BitVec.ofNat 8 (w.flag j)) ++ leBytes 4 w.hang ++ word w.sticky ++ leBytes 12 0
     else if l = 9 then (List.range 8).flatMap fun j => word (w.mask j)
     else if l = 10 then
       leBytes 8 w.epc.toNat ++ word w.echdr ++ word w.emask ++ word w.causeWord ++ word w.pend ++ [w.ecpos.setWidth 8] ++
         leBytes 1 ((if w.tm then 1 else 0) + (if w.pnu then 2 else 0)) ++ leBytes 6 0
     else leBytes 32 0)

/-- A byte of a wave block as the wave holds it (R57). -/
def Wave.heldByte (w : Wave) (nr off : Nat) : Byte :=
  if off < 2048 then (w.record (off / 64))[off % 64]?.getD 0
  else if off < 2048 + 128 * nr then
    let o := off - 2048
    wordByte (w.v.get 0 (32 * (o / 128) + o % 128 / 4)) (o % 4)
  else
    let o := off - 2048 - 128 * nr
    wordByte (w.spill.get 0 (32 * (o / 128) + o % 128 / 4)) (o % 4)

/-- A byte of a wave block (R57), or a stored byte that is still to take effect (R432): bit [7] of a PRED byte reads 1. -/
def Wave.blockByte (w : Wave) (nr off : Nat) : Byte :=
  match w.edits.find off with
  | some x => if off < 2048 && off % 64 = 16 then x ||| 0x80 else x
  | none => w.heldByte nr off

/-- The 128 bytes of a line. -/
def Wave.lineBytes (w : Wave) (nr line : Nat) : List Byte := (List.range 128).map fun j => w.blockByte nr (128 * line + j)

/-- The bytes of a line that memory does not have: those written since it was last written back or filled, every one of a line that never
was. -/
def Wave.unsynced (w : Wave) (nr line : Nat) : List Bool :=
  match w.synced.find line with
  | none => List.replicate 128 true
  | some bs => (bs.zip (w.lineBytes nr line)).map fun p => decide (p.1 ≠ p.2.toNat + 1)

/-- A byte of a team block below 0x080: an `s` word (R60). -/
def sByte (t : Tab Word) (off : Nat) : Byte := wordByte (t.get 0 (off / 4)) (off % 4)

/-- The team whose held slot contains a virtual address as context bytes, and the offset in the slot (R56, R431). -/
def State.ctxLocate (s : State) (ctx : Nat) (va : Nat) : Option (TeamKey × Nat) :=
  s.teams.findSome? fun (k, t) =>
    if k.grid.ctx ≠ ctx then none
    else
      match s.grid? k.grid with
      | none => none
      | some g =>
        let base := (g.teamBase t.slot).toNat
        let len := 4096 + g.desc.waves * waveStride g.desc.nregs
        if base ≤ va && va < base + len then some (k, va - base) else none

/-- The wave and the offset in its block of an offset in a team slot. -/
def waveOffset (nr off : Nat) : Nat × Nat := ((off - 4096) / waveStride nr, (off - 4096) % waveStride nr)

/-- The 128-byte line of a wave block that an offset falls in. -/
def lineOf (off : Nat) : Nat := off / 128

/-- A context byte that the register cache has, as an address load of an agent returns it (R60, R64, R65, R67, R69): the bytes 0x080 to 0xFFF
of a team block read 0; the reader's own team's `s` words are those that its thread of lane `l` sees, and its own wave's bytes those that the wave
holds. For another lane's word, and for a word of another wave, the
spec leaves several values open: the load takes the register's value as it issues (DESIGN CHOICE, log entry 42). -/
def State.ctxByte (s : State) (a : Agent) (l : Nat) (k : TeamKey) (off : Nat) : Byte :=
  match s.team? k, s.grid? k.grid with
  | some t, some g =>
    if off < 128 then
      match a with
      | .wave w => if w.team = k then sByte (((s.wave? w).map fun v => (v.th l).seen).getD t.s) off else sByte t.s off
      | .cp _ => sByte t.s off
    else if off < 4096 then 0
    else
      let (wi, o) := waveOffset g.desc.nregs off
      ((t.waves[wi]?).map fun w => if a = .wave ⟨k, wi⟩ then w.heldByte g.desc.nregs o else w.blockByte g.desc.nregs o).getD 0
  | _, _ => 0

/-- Memory, and not the register cache, has the value of a byte of a wave block (R73, R337): its line is not held, and no register write or
completion has reached the byte since. -/
def Wave.inMemory (w : Wave) (nr off : Nat) : Bool :=
  w.absent.contains (lineOf off) && !((w.unsynced nr (lineOf off))[off % 128]?.getD true)

/-- The `s` words of a team come from memory, where the register cache dropped them (R73, R347): a word that memory has changed since is the new
one for every wave of the team. -/
def State.loadS (s : State) (k : TeamKey) (f : Nat) : State :=
  let s := s.cacheReach (frameAddr f)
  let mem : Tab Word := (List.range 32).foldl
    (fun (w : Tab Word) j => w.put 0 j (BitVec.ofNat 32 (ofLeBytes (s.homeBytes (frameAddr f + 4 * j) 4)))) []
  s.modTeam k fun t =>
    match t.sDrop with
    | none => { t with sFrame := some f }
    | some old =>
      let renew (w : Wave) : Wave :=
        { w.see fun seen => (List.range 32).foldl
            (fun (v : Tab Word) j => if mem.get 0 j = old.get 0 j then v else v.put 0 j (mem.get 0 j)) seen with
          absent := w.absent.filter (· ≠ sLine) }
      { t with sFrame := some f, s := mem, sDrop := none, sSync := some mem, waves := t.waves.map renew }

/-- An agent reaches context bytes: system software wakes the core that holds them (R72), and a wave's own team's `s` words are filled first where
they were dropped (R67 to R69). -/
def State.reachS (s : State) (a : Agent) (k : TeamKey) (off : Nat) (p : Place) : State :=
  let s := if s.level a = 1 then s.wakeCore (((s.team? k).map (·.core)).getD 511) else s
  match a, p with
  | .wave w, .mem pa _ row =>
    if w.team = k && decide (off < 128) && ((s.team? k).bind (·.sDrop)).isSome then s.loadS k (frameOf (pa - off) row) else s
  | _, _ => s

/-- Where a context byte has its value: in memory for the saved core-resident state, dropped `s` words and bytes of lines that are not held (R60,
R73, R337). -/
def State.ctxInMemory (s : State) (a : Agent) (k : TeamKey) (off : Nat) : Bool :=
  match s.team? k, s.grid? k.grid with
  | some t, some g =>
    if off < 128 then t.sDrop.isSome
    else if off < 4096 then s.level a = 1
    else
      let (wi, o) := waveOffset g.desc.nregs off
      ((t.waves[wi]?).map fun w => w.inMemory g.desc.nregs o).getD false
  | _, _ => false

/-- The context bytes from an offset on as an address load of lane `l` returns them; the page maps to `p`. -/
def State.ctxBytes (s : State) (a : Agent) (l : Nat) (k : TeamKey) (off size : Nat) (p : Place) : List Byte :=
  (List.range size).map fun j =>
    match p with
    | .mem pa _ _ => if s.ctxInMemory a k (off + j) then s.homeByte (pa + j) else s.ctxByte a l k (off + j)
    | _ => s.ctxByte a l k (off + j)

/-- The poison code of context bytes (R393): of memory where it has them, else of the register line. -/
def State.ctxPoison (s : State) (k : TeamKey) (off size : Nat) (p : Place) : Nat :=
  match s.team? k, s.grid? k.grid with
  | some t, some g =>
    let code (j : Nat) : Nat :=
      if off < 4096 then 0
      else
        let (wi, o) := waveOffset g.desc.nregs (off + j)
        match t.waves[wi]?, p with
        | some w, .mem pa _ _ =>
          if w.inMemory g.desc.nregs o then s.poison.get 0 ((pa + j) / 64) else if w.absent.contains (lineOf o) then 0 else w.poison.get 0 (o / 64)
        | _, _ => 0
    (((List.range size).map code).find? (· ≠ 0)).getD 0
  | _, _ => 0

/-- A level-0 store may go to a context byte (R60, R66, R68): the storing wave's own register lines, `k` slices and spill stack, and
its own team's `s` words. -/
def storeAllowed0 (a : Agent) (k : TeamKey) (nr off : Nat) : Bool :=
  match a with
  | .cp _ => false
  | .wave w =>
    if w.team ≠ k then false
    else if off < 128 then true
    else if off < 4096 then false
    else
      let (wi, o) := waveOffset nr off
      if wi ≠ w.idx then false
      else if 2048 ≤ o then true
      else decide (o / 64 < 8) && decide (32 ≤ o % 64)

/-- The wave is parked by `PARK`, by `CONTEXT`, or has a thread parked by `PAGE` (R331, R337). -/
def Wave.isParked (w : Wave) : Bool := w.spk || w.cpk || decide (w.lanesIn .parked ≠ 0#32)

/-- A level-1 store may go to a context byte (R337): the wave is parked, or every wave of the team for the saved state. `s` words of
the storing wave's own team are ordinary register writes; those of another team, which R337 does not name, are stored while every wave of that team
is parked (DESIGN CHOICE, log entry 59). -/
def State.storeAllowed1 (s : State) (a : Agent) (k : TeamKey) (off : Nat) : Bool :=
  match s.team? k, s.grid? k.grid with
  | some t, some g =>
    if off < 128 then (match a with | .wave w => w.team = k || t.waves.all (·.isParked) | .cp _ => t.waves.all (·.isParked))
    else if off < 4096 then t.waves.all (·.isParked)
    else
      match t.waves[(waveOffset g.desc.nregs off).1]? with | some w => w.isParked | none => false
  | _, _ => false

/-- The value of one byte of a level-1 store to a thread record or slice is permitted (R432): reserved bytes and fields take 0, a
wait kind is one that R58 lists, SPILL is at most 128, CPOS at most 15. The SPILL bytes are tested one by one: the high byte is 0. A STAT with
the kind of another STAT is no reserved value and is stored (DESIGN CHOICE, log entry 53). -/
def headerByteOk (rec b : Nat) (x : Byte) : Bool :=
  let n := x.toNat
  if b < 8 then (if b = 7 then decide (n < 2) else true)
  else if b = 8 then decide (n ≤ 128)
  else if b = 9 then n = 0
  else if b < 16 then n = 0
  else if b = 16 then true
  else if b = 17 then decide (n < 16)
  else if b = 18 then decide (n / 4 ≤ 12) || n / 4 = 16 || n / 4 = 17
  else if b = 19 then decide (n / 32 % 4 = 0)
  else if b < 24 then true
  else if b < 32 then n = 0
  else
    let j := b - 32
    if rec < 8 then true
    else if rec = 8 then (if j < 12 then decide (n < 64) else if j < 16 then true else if j = 16 then decide (n < 64) else n = 0)
    else if rec = 9 then true
    else if rec = 10 then
      if j < 8 then (if j = 7 then decide (n < 2) else true)
      else if j < 18 then true
      else if j < 20 then n = 0
      else if j = 20 then decide (n % 2 = 0)
      else if j < 24 then true
      else if j = 24 then decide (n < 16)
      else if j = 25 then decide (n < 4)
      else n = 0
    else n = 0

/-- Replace byte b of a 64-bit value. -/
def setDByte (x : DWord) (b : Nat) (v : Byte) : DWord :=
  let m : DWord := BitVec.ofNat 64 (255 * 256 ^ b)
  (x &&& ~~~m) ||| BitVec.ofNat 64 (v.toNat * 256 ^ b)

/-- Write one byte of a wave's header (R58, R59, R432). A thread whose STAT is written waiting runs again at resumption, so that it
repeats the wait that the instruction at its PC names. -/
def Wave.setHeaderByte (w : Wave) (off : Nat) (x : Byte) : Wave :=
  let l := off / 64
  let b := off % 64
  let thr (f : Thread → Thread) : Wave := w.modLanes (laneBit l) f
  if b < 8 then thr fun t => { t with pc := setDByte t.pc b x }
  else if b = 8 then thr fun t => { t with spill := t.spill / 256 * 256 + x.toNat }
  else if b < 16 then w
  else if b = 16 then thr fun t => { t with pred := x.setWidth 7 }
  else if b = 17 then thr fun t => { t with cpos := x.setWidth 4 }
  else if b = 18 then
    thr fun t =>
      { t with
        stat := (match x.toNat % 4 with | 0 => .running | 1 => .waiting | 2 => .parked | _ => .exited)
        kind := BitVec.ofNat 6 (x.toNat / 4) }
  else if b = 19 then thr fun t => { t with grp := x }
  else if b < 24 then thr fun t => { t with chdr := setWordByte t.chdr (b - 20) x }
  else if b < 32 then w
  else
    let j := b - 32
    if l < 8 then w.setK (8 * l + j / 4) (setWordByte (w.kreg (8 * l + j / 4)) (j % 4) x)
    else if l = 8 then
      if j < 12 then { w with flags := w.flags.put 0 j (x.toNat % 64) }
      else if j < 16 then { w with hang := (setWordByte (BitVec.ofNat 32 w.hang) (j - 12) x).toNat }
      else if j < 20 then { w with sticky := setWordByte w.sticky (j - 16) x }
      else w
    else if l = 9 then w.setMask (j / 4) (setWordByte (w.mask (j / 4)) (j % 4) x)
    else if l = 10 then
      if j < 8 then { w with epc := (setDByte (w.epc.setWidth 64) j x).setWidth 57 }
      else if j < 12 then { w with echdr := setWordByte w.echdr (j - 8) x }
      else if j < 16 then { w with emask := setWordByte w.emask (j - 12) x }
      else if j = 16 then { w with code := x }
      else if j = 17 then { w with tcode := x }
      else if j < 20 then w
      else if j < 24 then { w with pend := setWordByte w.pend (j - 20) x }
      else if j = 24 then { w with ecpos := x.setWidth 4 }
      else if j = 25 then { w with tm := x.getLsbD 0, pnu := x.getLsbD 1 }
      else w
    else w

/-- Keep the GRP bytes of a parked wave when the first store changes its header: they may be stored as well (R58, R432). -/
def Wave.beginEdit (w : Wave) : Wave :=
  if w.edited then w else { w with threads := w.threads.mapIdx (fun l (t : Thread) => { t with grp := w.grpByte l }), edited := true }

/-- Write one byte of a wave block. The `k` slices are registers; any other header byte is a change of a parked wave (R432). -/
def Wave.setBlockByte (w : Wave) (nr off : Nat) (x : Byte) : Wave :=
  if off < 2048 then (if off < 512 && decide (32 ≤ off % 64) then w.setHeaderByte off x else w.beginEdit.setHeaderByte off x)
  else if off < 2048 + 128 * nr then
    let o := off - 2048
    let i := 32 * (o / 128) + o % 128 / 4
    { w.unsync off 1 with v := w.v.put 0 i (setWordByte (w.v.get 0 i) (o % 4) x) }
  else
    let o := off - 2048 - 128 * nr
    let i := 32 * (o / 128) + o % 128 / 4
    { w.unsync off 1 with spill := w.spill.put 0 i (setWordByte (w.spill.get 0 i) (o % 4) x) }

/-- The frame of a context byte, as an agent's access to it translates. -/
def State.ctxHome (s : State) (a : Agent) (k : TeamKey) (off : Nat) : Option Nat :=
  match s.grid? k.grid with
  | none => none
  | some g =>
    match (s.translate (ctxOf a) (s.coreOf a) (s.level a) .read (g.teamBase ((s.team? k).map (·.slot) |>.getD 0) + BitVec.ofNat 64 off)).1 with
    | .ok (.mem pa _ row) _ _ => some (frameOf pa row)
    | _ => none

/-- A store changes a byte of a wave of which only some threads are parked: it takes effect when these resume (R432), but for the wave's own register
writes (R64). -/
def Wave.putsOff (w : Wave) (mine : Bool) (off : Nat) : Bool :=
  !(mine && (decide (2048 ≤ off) || (decide (off < 512) && decide (32 ≤ off % 64)))) &&
    ((w.edits.find off).isSome || (!w.spk && !w.cpk && decide (w.lanesIn .parked ≠ 0#32)))

/-- A byte of a wave block is stored, by the wave itself (`mine`) or another agent. -/
def Wave.storeByte (w : Wave) (mine : Bool) (nr off : Nat) (x : Byte) : Wave :=
  if w.putsOff mine off then { w with edits := w.edits.ins off x } else w.setBlockByte nr off x

/-- A byte of a wave block is stored to where memory has it: memory then agrees with it. -/
def Wave.storeThrough (w : Wave) (mine : Bool) (nr off : Nat) (x : Byte) : Wave :=
  let w := w.storeByte mine nr off x
  match w.synced.find (lineOf off) with
  | some bs => { w with synced := w.synced.ins (lineOf off) (bs.set (off % 128) (x.toNat + 1)) }
  | none => w

/-- Store one context byte (R60, R64, R65, R68, R69, R337, R432): a store is a register write at its issue, an `s` word a team-shared one that the
storing wave sees at once, with a standing only where it is stored on the team's core (R69); a byte that memory has is stored there. -/
def State.ctxStore (s : State) (a : Agent) (k : TeamKey) (off : Nat) (x : Byte) : State :=
  match s.team? k, s.grid? k.grid with
  | some t, some g =>
    let home (s : State) : State := match s.ctxHome a k off with | some f => s.cacheWrite f 0 [x] | none => s
    if off < 128 then
      let i := off / 4
      if t.sDrop.isSome then home s
      else
        let key := if s.coreOf a = t.core then s.sharedKey a false else 0
        let s := s.putTeam k (t.writeS key i (setWordByte (t.s.get 0 i) (off % 4) x))
        match a with
        | .wave w =>
          if w.team = k then s.modAgent a (·.see fun v => v.put 0 i (setWordByte (v.get 0 i) (off % 4) x)) else s
        | .cp _ => s
    else if off < 4096 then home s
    else
      let (wi, o) := waveOffset g.desc.nregs off
      let mine := decide (a = .wave ⟨k, wi⟩)
      if s.ctxInMemory a k off then
        (home s).modTeam k fun t => { t with waves := t.waves.modify wi fun w => w.storeThrough mine g.desc.nregs o x }
      else s.putTeam k { t with waves := t.waves.modify wi fun w => w.storeByte mine g.desc.nregs o x }
  | _, _ => s

end Sys2Proof.Machine
end

