-- ==== Sys2Proof/Machine/Fetch.lean ====
section
/-! DEFINITION. Reading code (R153, R154, R219): instruction words, clause headers and target tables, and what the leading group meets
next. -/

namespace Sys2Proof.Machine

open Sys2Proof

/-- What a read of code gives; `refused` where its page is mapped at a peer that no route leads to, or whose port is down (R395, R420). No rule
says what a fetch meets there: the cause becomes pending in its wave, as for a load, and nothing is fetched (DESIGN CHOICE, log entry 33). -/
inductive Code (α : Type) where
  | ok (x : α)
  | page
  | access
  | refused (c : Cause)

/-- The frame of a halfword of code, as the execute permission allows (R154, R370), at this module or at a peer that is reached (R420). -/
def State.codePlace (s : State) (a : Agent) (va : DWord) : Code Nat × State :=
  match s.translate (ctxOf a) (s.coreOf a) (s.level a) .exec va with
  | (.ok (.mem pa nc row) _ _, s) =>
    let p : Place := .mem pa nc row
    match s.reachPlace p with
    | .ok => (.ok pa, s)
    | .noRoute => (.refused Cause.remote, s.noRoute (partOf (ctxOf a)) p.globalAddr 0 2)
    | .down => (.refused Cause.remoteTimeout, s.requestAt (partOf (ctxOf a)) p 0 2)
  | (.page, s) => (.page, s)
  | (_, s) => (.access, s)

/-- The bytes that one fetch takes of a 16-byte block (R154): those at its home point, after the releases that other cores recorded in its line
(R132), or those that an agent's grid may still see from before a store, one choice for the block. A request to a peer carries the partition's
job (R423). -/
def State.codeBlock (s : State) (a : Agent) (pa : Nat) : List Byte × State :=
  let blk := pa / 16
  let s := (s.promoteFor 511 pa).request (partOf (ctxOf a)) (16 * blk) 0 16
  s.codeOld.foldl
    (fun (r : List Byte × State) (h : CodeHold) =>
      if h.block = blk && (match a with | .wave k => h.grid = k.team.grid | .cp _ => false) then
        let (old, t) := r.2.choose
        (if old then h.bytes else r.1, t)
      else r)
    (s.homeBytes (16 * blk) 16, s)

/-- The halfword of a block at an even address. -/
def halfOf (blk : List Byte) (pa : Nat) : List Byte := (blk.drop (pa % 16)).take 2

/-- Bytes of code at an even virtual address: two halfwords, or one where a `short` read finds a 16-bit instruction (R153). The address reads as
far as its first missing page or failed check; halfwords of one block are one fetch. -/
def State.codeRead (s : State) (a : Agent) (va : DWord) (short : Bool) : Code (List Byte) × State :=
  match s.codePlace a va with
  | (.page, s) => (.page, s)
  | (.access, s) => (.access, s)
  | (.refused c, s) => (.refused c, s)
  | (.ok pa, s) =>
    let (blk, s) := s.codeBlock a pa
    let lo := halfOf blk pa
    if short && !(lo.headD 0).getLsbD 0 then (.ok lo, s)
    else
      match s.codePlace a (va + 2) with
      | (.page, s) => (.page, s)
      | (.access, s) => (.access, s)
      | (.refused c, s) => (.refused c, s)
      | (.ok pb, s) =>
        let (blk', s) := if pb / 16 = pa / 16 then (blk, s) else s.codeBlock a pb
        (.ok (lo ++ halfOf blk' pb), s)

/-- The address of the halfword whose page a read of code misses (R375). -/
def State.codeMiss (s : State) (a : Agent) (va : DWord) : DWord := match s.codePlace a va with | (.page, _) => va | _ => va + 2

/-- The word of code at an address. -/
def State.codeWord (s : State) (a : Agent) (va : DWord) : Code Word × State :=
  match s.codeRead a va false with
  | (.ok bs, s) => (.ok (BitVec.ofNat 32 (ofLeBytes bs)), s)
  | (.page, s) => (.page, s)
  | (.access, s) => (.access, s)
  | (.refused c, s) => (.refused c, s)

/-- The bytes of the instruction at an address: 2 or 4 by bit [0] (R153). -/
def State.codeInstr (s : State) (a : Agent) (va : DWord) : Code (List Byte) × State := s.codeRead a va true

/-- The word at the start of a clause, or a 16-bit instruction as a word, which is no header (R153, R171, R172). -/
def State.codeHead (s : State) (a : Agent) (va : DWord) : Code Word × State :=
  match s.codeInstr a va with
  | (.ok bs, s) => (.ok (BitVec.ofNat 32 (ofLeBytes bs)), s)
  | (.page, s) => (.page, s)
  | (.access, s) => (.access, s)
  | (.refused c, s) => (.refused c, s)

/-- What stands at the leading group's program counter. -/
inductive Fetched where
  | instr (i : Instr)
  | reserved
  | header
  | page
  | access
  | refused (c : Cause)

/-- Fetch for an issuer (R153, R154, R172): a 32-bit word of major 0x00 in an instruction position is a header. An odd program counter, which only
a store can leave, is answered as one (DEDUCED, log entry 20). -/
noncomputable def State.fetch (s : State) (x : Issuer) : Fetched × State :=
  if x.pc.getLsbD 0 then (.header, s)
  else match s.codeInstr x.a x.pc with
  | (.page, s) => (.page, s)
  | (.access, s) => (.access, s)
  | (.refused c, s) => (.refused c, s)
  | (.ok bs, s) =>
    if bs.length = 4 && isClauseHeader (BitVec.ofNat 32 (ofLeBytes bs)) then (.header, s)
    else
      match decode bs with
      | .ok (i, _) => (.instr i, s)
      | .error _ => (.reserved, s)

/-- Threads park with `PAGE` at an address whose page is missing, and one fault record is written, of KIND 0 for data and 1 for code
(R45, R374). On a command processor the cause stops the program (R351, R374). -/
def State.parkPage (s : State) (x : Issuer) (kind : Nat) (m : LaneMask) (va : DWord) (wr atom : Bool) : State :=
  match x.a with
  | .cp _ => s.takeCause x.a x.e Cause.page 0 x.pc x.th 0
  | .wave _ =>
    let s := s.modAgent x.a fun w => (w.setCause Cause.page 0).modLanes m fun t => { t with stat := .parked, kind := 16 }
    s.pageFault x.ctx va (s.whoBase x.a) kind wr atom (s.coreOf x.a) 0 m

/-- The group takes a cause that its fetch meets; nothing has issued, so the return point is the address itself (R154, R172). -/
def State.fetchCause (s : State) (x : Issuer) (c : Cause) : State := s.takeCause x.a x.e c 0 x.pc x.th 0

end Sys2Proof.Machine
end

