-- ==== Sys2Proof/Machine/Special.lean ====
section
/-! DEFINITION. The special functions (R199, R200): each result is the exact mathematical value rounded once. Roots and quotients are
computed with a sticky bit; the transcendental functions by an enclosing interval of fixed-point numbers, made finer until both
ends round to one word. Values are non-negative integers scaled by 2^-p. -/

namespace Sys2Proof.Machine

open Sys2Proof

/-- The integer square root of `n`, found bit by bit from bit `k` downwards. -/
def isqrtFrom (n : Nat) : Nat → Nat → Nat
  | 0, r => if (r + 1) * (r + 1) ≤ n then r + 1 else r
  | k + 1, r => isqrtFrom n k (if (r + 2 ^ (k + 1)) * (r + 2 ^ (k + 1)) ≤ n then r + 2 ^ (k + 1) else r)

/-- The integer square root. -/
def isqrt (n : Nat) : Nat := isqrtFrom n (Nat.log2 n / 2 + 1) 0

/-- A magnitude m · 2^e with a sticky bit below: the exact value lies strictly between m · 2^e and (m + 1) · 2^e when `st`. -/
def sticky (neg : Bool) (m : Nat) (e : Int) (st : Bool) : FVal := .fin neg (2 * m + (if st then 1 else 0)) (e - 1)

/-- 1 / a for a finite nonzero a. -/
def recip (neg : Bool) (m : Nat) (e : Int) : FVal :=
  let k := Nat.log2 m + 64
  sticky neg (2 ^ k / m) (-(k : Int) - e) (decide (2 ^ k % m ≠ 0))

/-- √a for a finite a > 0. -/
def root (m : Nat) (e : Int) : FVal :=
  let odd := decide (e % 2 ≠ 0)
  let m' := (if odd then 2 * m else m) * 2 ^ 64
  let e' := (if odd then e - 1 else e) - 64
  let r := isqrt m'
  sticky false r (e' / 2) (decide (r * r ≠ m'))

/-- 1 / √a for a finite a > 0. -/
def rroot (m : Nat) (e : Int) : FVal :=
  let odd := decide (e % 2 ≠ 0)
  let m' := if odd then 2 * m else m
  let e' := if odd then e - 1 else e
  let k := Nat.log2 m' + 64
  let x := 2 ^ (2 * k) / m'
  let r := isqrt x
  sticky false r (-(k : Int) - e' / 2) (decide (r * r * m' ≠ 2 ^ (2 * k)))

/-- The sum of an alternating or a plain series: `term` is divided by the square `z2` (scaled) step by step; `n` counts terms. -/
def atanSeries (p inv2 : Nat) : Nat → Nat → Nat → Bool → Int
  | 0, _, _, _ => 0
  | n + 1, term, k, pos =>
    let t : Int := ((term / (2 * k + 1) : Nat) : Int)
    (if pos then t else -t) + atanSeries p inv2 n (term / inv2) (k + 1) (!pos)

/-- π · 2^p, within 2^12 units (Machin). -/
def piFix (p : Nat) : Nat :=
  let n := p / 4 + 4
  let a5 := atanSeries p 25 n (2 ^ p / 5) 0 true
  let a239 := atanSeries p 57121 n (2 ^ p / 239) 0 true
  (16 * a5 - 4 * a239).toNat

/-- atanh(z) · 2^p as a sum of z^(2k+1) / (2k+1); `z2` is z² · 2^p. -/
def atanhSeries (p z2 : Nat) : Nat → Nat → Nat → Nat
  | 0, _, _ => 0
  | n + 1, term, k => term / (2 * k + 1) + atanhSeries p z2 n (term * z2 / 2 ^ p) (k + 1)

/-- ln(num / den) · 2^p for 1 ≤ num / den ≤ 2, by 2 · atanh((x − 1) / (x + 1)). -/
def lnFix (p num den : Nat) : Nat :=
  let z := (num - den) * 2 ^ p / (num + den)
  2 * atanhSeries p (z * z / 2 ^ p) (p / 3 + 4) z 0

/-- ln 2 · 2^p. -/
def ln2Fix (p : Nat) : Nat := lnFix p 2 1

/-- exp(y) · 2^p for 0 ≤ y < 1, `y` scaled by 2^p. -/
def expSeries (p y : Nat) : Nat → Nat → Nat → Nat
  | 0, _, _ => 0
  | n + 1, term, k => term + expSeries p y n (term * y / 2 ^ p / (k + 1)) (k + 1)

/-- exp(y) · 2^p. -/
def expFix (p y : Nat) : Nat := expSeries p y (p / 2 + 8) (2 ^ p) 0

/-- The sum of (−1)^j · y^(2j + i) / (2j + i)!: sine for i = 1, cosine for i = 0. -/
def trigSeries (p y2 : Nat) : Nat → Nat → Nat → Bool → Int
  | 0, _, _, _ => 0
  | n + 1, term, k, pos =>
    (if pos then (term : Int) else -(term : Int)) +
      trigSeries p y2 n (term * y2 / 2 ^ p / ((k + 1) * (k + 2))) (k + 2) (!pos)

/-- sin y · 2^p. -/
def sinFix (p y : Nat) : Int := trigSeries p (y * y / 2 ^ p) (p / 4 + 8) y 1 true
/-- cos y · 2^p. -/
def cosFix (p y : Nat) : Int := trigSeries p (y * y / 2 ^ p) (p / 4 + 8) (2 ^ p) 0 true

/-- A signed fixed-point number as a value, with the sticky bit set: the exact results rounded here are irrational. -/
def fixVal (x : Int) (e : Int) : FVal := sticky (decide (x < 0)) x.natAbs e true

/-- Round a value known within `err` units: both ends must round alike, else none. -/
def roundBoth (ftz : Bool) (x : Int) (err : Nat) (e : Int) : Option (Word × Word) :=
  let lo := wr32 ftz .rn (fixVal (x - err) e)
  let hi := wr32 ftz .rn (fixVal (x + err) e)
  if lo = hi then some lo else none

/-- Try finer and finer precisions; the last one stands. -/
def refine (f : Nat → Option (Word × Word)) (last : Nat → Word × Word) : Nat → Nat → Word × Word
  | 0, p => last p
  | n + 1, p => (f p).getD (refine f last n (2 * p))

/-- 2^a for a finite a (R199): its integer and fractional parts; an integer is exact. Beyond 2^9 in magnitude it over- or underflows. -/
def fex2Fin (ftz : Bool) (neg : Bool) (m : Nat) (e : Int) : Word × Word :=
  if decide ((Nat.log2 m : Int) + e ≥ 9) then wr32 ftz .rn (.fin false 3 (if neg then -600 else 600))
  else
    let sh := (-e).toNat
    let num : Int := if neg then -((m * pow2 e : Nat) : Int) else ((m * pow2 e : Nat) : Int)
    let i := num.fdiv (2 ^ sh : Nat)
    let f := (num.fmod (2 ^ sh : Nat)).toNat
    if f = 0 then wr32 ftz .rn (.fin false 1 i)
    else
      let val (p : Nat) : Int := (expFix p (f * 2 ^ p / 2 ^ sh * ln2Fix p / 2 ^ p) : Nat)
      refine (fun p => roundBoth ftz (val p) (2 ^ (p / 8)) (i - p)) (fun p => wr32 ftz .rn (fixVal (val p) (i - p))) 3 160

/-- log2 a for a finite a > 0 (R199); a power of two is exact. -/
def flg2Fin (ftz : Bool) (m : Nat) (e : Int) : Word × Word :=
  let lg := Nat.log2 m
  let i : Int := (lg : Int) + e
  if m = 2 ^ lg then wr32 ftz .rn (.fin (decide (i < 0)) i.natAbs 0)
  else
    let val (p : Nat) : Int := i * (2 ^ p : Nat) + ((lnFix p m (2 ^ lg) * 2 ^ p / ln2Fix p : Nat) : Int)
    refine (fun p => roundBoth ftz (val p) (2 ^ (p / 8)) (-(p : Int))) (fun p => wr32 ftz .rn (fixVal (val p) (-(p : Int)))) 3 160

/-- sin a or cos a for a finite nonzero a, in radians at full range (R199). A tiny sine lies just below its argument. -/
def trigFin (ftz cosine : Bool) (neg : Bool) (m : Nat) (e : Int) : Word × Word :=
  if decide ((Nat.log2 m : Int) + e < -40) then
    if cosine then wr32 ftz .rn (.fin false (2 ^ 60 - 1) (-60))
    else wr32 ftz .rn (.fin neg (m * 2 ^ 60 - 1) (e - 60))
  else
    let val (p : Nat) : Int :=
      let big := p + 160
      let x := if 0 ≤ e then m * pow2 e * 2 ^ p else m * 2 ^ p / 2 ^ (-e).toNat
      let half := piFix big / 2
      let n := x * 2 ^ 160 / half
      let r := (x * 2 ^ 160 - n * half) / 2 ^ 160
      let q := (if cosine then n + 1 else n) % 4
      let v := if q % 2 = 0 then sinFix p r else cosFix p r
      let v := if q < 2 then v else -v
      if neg && !cosine then -v else v
    refine (fun p => roundBoth ftz (val p) (2 ^ (p / 8)) (-(p : Int))) (fun p => wr32 ftz .rn (fixVal (val p) (-(p : Int)))) 3 256

/-- tanh a for a finite nonzero a (R199). A tiny one lies just below its argument, a large one just below 1. -/
def ftanhFin (ftz : Bool) (neg : Bool) (m : Nat) (e : Int) : Word × Word :=
  if decide ((Nat.log2 m : Int) + e < -40) then wr32 ftz .rn (.fin neg (m * 2 ^ 60 - 1) (e - 60))
  else if decide ((Nat.log2 m : Int) + e ≥ 5) then wr32 ftz .rn (.fin neg (2 ^ 60 - 1) (-60))
  else
    let val (p : Nat) : Int :=
      let y := if 0 ≤ e then 2 * m * pow2 e * 2 ^ p else 2 * m * 2 ^ p / 2 ^ (-e).toNat
      let k := y / ln2Fix p
      let ex := expFix p (y - k * ln2Fix p) * 2 ^ k
      let v : Int := (((ex - 2 ^ p) * 2 ^ p / (ex + 2 ^ p) : Nat) : Int)
      if neg then -v else v
    refine (fun p => roundBoth ftz (val p) (2 ^ (p / 8)) (-(p : Int))) (fun p => wr32 ftz .rn (fixVal (val p) (-(p : Int)))) 3 192

/-- The special functions in fn order (R199). -/
inductive SFn where
  | rcp | rsq | sqrt | ex2 | lg2 | sin | cos | tanh
  deriving DecidableEq, Repr

/-- The canonical NaN with IV. -/
def nanIV : Word × Word := (0x7FC00000, fIV)

/-- The special functions with their special operands (R200). -/
def special (fn : SFn) (ftz : Bool) (a : Word) : Word × Word :=
  match rd32 ftz a with
  | .nan => nanIV
  | .inf neg =>
    match fn with
    | .rcp => (if neg then 0x80000000 else 0, 0)
    | .rsq => if neg then nanIV else (0, 0)
    | .sqrt => if neg then nanIV else (0x7F800000, 0)
    | .ex2 => (if neg then 0 else 0x7F800000, 0)
    | .lg2 => if neg then nanIV else (0x7F800000, 0)
    | .sin | .cos => nanIV
    | .tanh => (if neg then 0xBF800000 else 0x3F800000, 0)
  | .fin neg m e =>
    if m = 0 then
      match fn with
      | .rcp => (if neg then 0xFF800000 else 0x7F800000, fDZ)
      | .rsq => (if neg then 0xFF800000 else 0x7F800000, 0)
      | .sqrt | .sin | .tanh => (if neg then 0x80000000 else 0, 0)
      | .ex2 | .cos => (0x3F800000, 0)
      | .lg2 => (0xFF800000, fDZ)
    else
      match fn with
      | .rcp => wr32 ftz .rn (recip neg m e)
      | .rsq => if neg then nanIV else wr32 ftz .rn (rroot m e)
      | .sqrt => if neg then nanIV else wr32 ftz .rn (root m e)
      | .ex2 => fex2Fin ftz neg m e
      | .lg2 => if neg then nanIV else flg2Fin ftz m e
      | .sin => trigFin ftz false neg m e
      | .cos => trigFin ftz true neg m e
      | .tanh => ftanhFin ftz neg m e

end Sys2Proof.Machine
end

