-- ==== Sys2Proof/Machine/Operands.lean ====
section
/-! DEFINITION. The operand forms of the register instructions (R158, R181 to R183): per-lane writes of words, pairs and predicates,
uniform writes, and the reads that they compute from. Every source is read before any destination is written. -/

namespace Sys2Proof.Machine

open Sys2Proof

/-- A reader of registers: of one lane, or of the uniform registers. -/
abbrev Reader := Nat → Word

/-- The pair that starts at a register. -/
def Reader.pair (r : Reader) (n : Nat) : DWord := Machine.pair (r n) (r (n + 1))

/-- The reader of one lane of a wave. -/
def Wave.reader (w : Wave) (l : Nat) : Reader := fun n => w.vreg n l

/-- Sticky bits over the lanes of a group: set if any thread sets them (R184). -/
def orLanes (e : LaneMask) (f : Nat → Word) : Word := (lanesOf e).foldl (fun m l => m ||| f l) 0

/-- Write a word to a register of every lane of a mask. -/
def Wave.writeLanes (w : Wave) (e : LaneMask) (d : Nat) (f : Nat → Word) : Wave := w.forLanes e fun l v => v.setV d l (f l)
/-- Write a pair to every lane of a mask. -/
def Wave.writePairs (w : Wave) (e : LaneMask) (d : Nat) (f : Nat → DWord) : Wave := w.forLanes e fun l v => v.setVpair d l (f l)
/-- Write a predicate of every lane of a mask. -/
def Wave.writePreds (w : Wave) (e : LaneMask) (p : Nat) (f : Nat → Bool) : Wave := w.forLanes e fun l v => v.setP p l (f l)

/-- Complete an instruction that changes only its wave. -/
def Issuer.finish (x : Issuer) (s : State) (w : Wave) (fl : Word := 0) : Effect := .done (s.putAgent x.a w) fl

/-- A lane instruction that writes register d of every thread of its group (R181): the value and its sticky bits, from the
thread's own registers. -/
def laneOp (d : Nat) (f : Reader → Word × Word) (x : Issuer) (s : State) : Effect :=
  x.finish s (x.w.writeLanes x.e d fun l => (f (x.w.reader l)).1) (orLanes x.e fun l => (f (x.w.reader l)).2)

/-- A lane form or, with U = 1, a uniform form (R159, R183). -/
def arith (u : BitVec 1) (d : Nat) (f : Reader → Word × Word) (x : Issuer) (s : State) : Effect :=
  if u = 0 then laneOp d f x s else x.finish s (x.w.setK d (f x.w.kreg).1) (f x.w.kreg).2

/-- A lane or uniform form that writes a pair. -/
def arithPair (u : BitVec 1) (d : Nat) (f : Reader → DWord) (x : Issuer) (s : State) : Effect :=
  if u = 0 then x.finish s (x.w.writePairs x.e d fun l => f (x.w.reader l)) else x.finish s (x.w.setKpair d (f x.w.kreg))

/-- A lane or uniform form without sticky bits. -/
def plain (u : BitVec 1) (d : Nat) (f : Reader → Word) : Issuer → State → Effect := arith u d fun r => (f r, 0)

/-- A lane instruction that writes a predicate of every thread (R192): from the thread's registers and its predicates. -/
def predOp (p : Nat) (f : Reader → (Nat → Bool) → Bool) (x : Issuer) (s : State) : Effect :=
  x.finish s (x.w.writePreds x.e p fun l => f (x.w.reader l) fun j => x.w.preg j l)

/-- The FTZ bit of major 0x06 and 0x07 (R89, R159). -/
def ftzBit (z : BitVec 1) : Bool := z = 1

/-! Integer functions (R186 to R191). -/

/-- Clamp to the signed range of 32 bits; a change sets IS. -/
def satI32 (x : Int) : Word × Word :=
  let (y, fl) := clampInt x (-(2 ^ 31 : Int)) (2 ^ 31 - 1)
  (BitVec.ofInt 32 y, fl)
/-- Clamp to the unsigned range of 32 bits; a change sets IS. -/
def satN32 (x : Int) : Word × Word :=
  let (y, fl) := clampInt x 0 (2 ^ 32 - 1)
  (BitVec.ofInt 32 y, fl)

/-- The whole word b as a shift count (R186): 0 from 32 up. -/
def shlW (a b : Word) : Word := if 32 ≤ b.toNat then 0 else a <<< b.toNat
/-- Logical right shift by the whole word b (R186). -/
def shrW (a b : Word) : Word := if 32 ≤ b.toNat then 0 else a >>> b.toNat
/-- Arithmetic right shift by Min(b, 31) (R186). -/
def sarW (a b : Word) : Word := a.sshiftRight (min b.toNat 31)
/-- Rotation left by b[4:0] (R186). -/
def rotlW (a b : Word) : Word := a.rotateLeft (b.toNat % 32)

/-- The lesser or greater of two words, signed or unsigned (R186). -/
def minS (a b : Word) : Word := if a.toInt ≤ b.toInt then a else b
def maxS (a b : Word) : Word := if a.toInt ≤ b.toInt then b else a
def minU (a b : Word) : Word := if a.toNat ≤ b.toNat then a else b
def maxU (a b : Word) : Word := if a.toNat ≤ b.toNat then b else a

/-- `TRILOG` (R187): bit i of the result is bit a[i] + 2·b[i] + 4·d[i] of T. -/
def trilogW (t : BitVec 8) (a b d : Word) : Word :=
  maskOf fun i =>
    t.getLsbD ((if a.getLsbD i then 1 else 0) + (if b.getLsbD i then 2 else 0) + (if d.getLsbD i then 4 else 0))

/-- `BFX` (R190). -/
def bfxW (sgn : Bool) (a b : Word) : Word :=
  let pos := b.toNat % 256
  let len := min (b.toNat / 256 % 256) 32
  let x : Int := if sgn then a.toInt else a.toNat
  let f : Int := x / 2 ^ pos % 2 ^ len
  let f := if sgn && decide (0 < len) && decide (2 ^ (len - 1) ≤ f) then f - 2 ^ len else f
  BitVec.ofInt 32 f

/-- `BFI` (R190). -/
def bfiW (a b c : Word) : Word :=
  let pos := b.toNat % 256
  let len := min (b.toNat / 256 % 256) 32
  let msk : Word := BitVec.ofNat 32 ((2 ^ len - 1) * 2 ^ pos)
  (c &&& ~~~msk) ||| (BitVec.ofNat 32 (a.toNat * 2 ^ pos) &&& msk)

/-- The number of 1 bits (R191). -/
def popcW (a : Word) : Word := BitVec.ofNat 32 (lanesOf a).length
/-- The number of 0 bits above the highest 1 bit; 32 for 0 (R191). -/
def clzW (a : Word) : Word := if a = 0 then 32 else BitVec.ofNat 32 (31 - Nat.log2 a.toNat)
/-- The number of 0 bits below the lowest 1 bit; 32 for 0 (R191). -/
def ctzW (a : Word) : Word := if a = 0 then 32 else BitVec.ofNat 32 (lowLane a)
/-- The bits in reverse order (R191). -/
def brevW (a : Word) : Word := maskOf fun i => a.getLsbD (31 - i)
/-- The funnel shifts (R191): a is the upper word. -/
def shfLW (a b c : Word) : Word := ((a ++ b : DWord) <<< min c.toNat 32).extractLsb' 32 32
def shfRW (a b c : Word) : Word := ((a ++ b : DWord) >>> min c.toNat 32).extractLsb' 0 32

/-- |a − b| of unsigned words (R189). -/
def absDiff (a b : Word) : Word := if a.toNat ≤ b.toNat then b - a else a - b

/-! Conversions and packed elements (R204 to R208). -/

/-- `FCVT` (R204): the narrow element in the low bits, the others 0. -/
def narrowW (f : Fmt) (mode : Rnd) (a : Word) : Word × Word :=
  let (b, fl) := narrow f mode a
  (BitVec.ofNat 32 b, fl)

/-- `FPK` (R204): element j is register a + j rounded by its mode. -/
def packW (f : Fmt) (k : Nat) (v : Reader) (a : Nat) (mode : Nat → Word → Rnd) : Word × Word :=
  (List.range k).foldl
    (fun (p : Word × Word) j =>
      let (b, fl) := narrow f (mode j (v (a + j))) (v (a + j))
      (p.1 ||| BitVec.ofNat 32 (b * 2 ^ (f.width * j)), p.2 ||| fl))
    (0, 0)

/-- Two 16-bit elements with their flags (R208). -/
def pairBits (f : Nat → Nat × Word) : Word × Word :=
  (BitVec.ofNat 32 ((f 0).1 + 65536 * (f 1).1), (f 0).2 ||| (f 1).2)

/-- Two exact values rounded once each by `.rn` in a 16-bit format (R208). -/
def pairOp (f : Fmt) (x : Nat → FVal) : Word × Word := pairBits fun j => f.ofVal .rn (x j)

/-- The signed element j of width w (R206). -/
def selem (w : Nat) (x : Word) (j : Nat) : Int :=
  let e := elem w x j
  if 2 ^ (w - 1) ≤ e then (e : Int) - 2 ^ w else e

/-- The exact integer dot product with c (R206). -/
def dotInt (w k : Nat) (a b c : Word) : Int :=
  (List.range k).foldl (fun acc j => acc + selem w a j * selem w b j) c.toInt

/-- `DOT4F8` (R207): the exact sum of c and the four products, rounded once. -/
def dotF8 (f : Fmt) (a b c : Word) : Word × Word :=
  wr32 false .rn
    (exactSum (fp32.read c.toNat :: (List.range 4).map fun j => (f.read (elem 8 a j)).mul (f.read (elem 8 b j))))

end Sys2Proof.Machine
end

