-- ==== Sys2Proof/Machine/Registers.lean ====
section
/-! DEFINITION. The system registers (R7, R8, R327 to R335, R340, R350, R360, R364, R375, R381, R393, R397, R399, R401, R406, R421,
R424, R427, R429): reads, writes with the cases in which they are ignored, and what a write starts. -/

namespace Sys2Proof.Machine

open Sys2Proof

/-- Who accesses registers: the level, the partition, and the agent that issues, if one does (R327, R330). -/
structure RegAgent where
  level : Nat
  part  : Nat
  self  : Option Agent := none
  deriving DecidableEq, Repr

/-- The writable, write-one-to-clear and read-to-clear bits of a register (R7): the maps of its group. -/
structure RegBits where
  rw  : Word := 0
  w1c : Word := 0
  rc  : Word := 0
  deriving DecidableEq, Repr

/-- Field access of the `CT_` registers (R332, R350, R360, R364, R375, R397). -/
def ctBits : Nat → RegBits
  | 0x000 => { rw := 0x33 }
  | 0x001 | 0x002 | 0x004 | 0x007 | 0x00A | 0x00C | 0x014 => { rw := 0xFFFFFFFF }
  | 0x003 => { rw := 0x07FF01FF }
  | 0x005 | 0x008 | 0x00B | 0x015 => { rw := 0x01FFFFFF }
  | 0x009 => { w1c := 0xC }
  | 0x00D => { w1c := 0x1FFF }
  | 0x00E | 0x010 => { rw := 0xFFFFF000 }
  | 0x00F | 0x011 => { rw := 0x3FFF }
  | 0x012 => { rw := 0xFFFF0000 }
  | 0x016 => { rw := 0x1FFF }
  | _ => {}

/-- Field access of the `PT_` registers (R333, R340, R360, R397, R401, R424). -/
def ptBits : Nat → RegBits
  | 0x000 => { rw := 1, w1c := 0x18 }
  | 0x001 | 0x002 | 0x003 | 0x004 | 0x00E | 0x00F | 0x010 | 0x011 => { rw := 0xFFFFF }
  | 0x005 => { rw := 0x0FFF0FFF }
  | 0x006 => { rw := 0x3FFFFFFF }
  | 0x007 | 0x00A => { rw := 0xFFFFFFFF }
  | 0x008 => { rw := 0xC1FFFFFF }
  | 0x00B => { rw := 0x01FFFFFF }
  | 0x00C => { rw := 0xFFFF }
  | 0x00D => { rc := 0xFFFFFFFF }
  | 0x012 => { w1c := 0x200 }
  | 0x013 => { rw := 0xFFFFE000 }
  | 0x014 | 0x018 => { rw := 0x3FFF }
  | 0x015 => { rw := 0xFFFF0000 }
  | 0x016 => { rw := 0x8001FFFF }
  | 0x017 => { rw := 0xFFFFF800 }
  | 0x019 => { rw := 0xFF00, rc := 0xFFFF0000 }
  | 0x01A => { rw := 1 }
  | _ => {}

/-- Field access of the `DV_` registers (R334, R393, R399, R421, R427, R429). -/
def dvBits (i : Nat) : RegBits :=
  if 0x040 ≤ i then (if i % 2 = 0 then { rw := 0x8003FFFF } else { rw := 0x001FFFFF })
  else match i with
    | 0x001 => { rw := 0x3FFFF }
    | 0x002 | 0x004 | 0x005 | 0x006 | 0x007 => { rw := 0xFFFFFFFF }
    | 0x003 => { rw := 0xFFFF }
    | 0x008 | 0x009 | 0x00A | 0x00B => { w1c := 0x20000 }
    | 0x00C => { rc := 0xFFFFFFFF }
    | 0x010 | 0x011 | 0x012 => { rw := 0x07FFFFFF }
    | 0x021 => { rw := 0xFFFFF000 }
    | 0x022 => { rw := 0x3FFF }
    | _ => {}

/-- Field access of the `PW_` registers (R406). -/
def pwBits (i : Nat) : RegBits :=
  if 0x040 ≤ i then { rw := 0xFFFFFF }
  else match i with
    | 0x000 => { rw := 0xF }
    | 0x001 | 0x004 | 0x006 => { rw := 0xFFF }
    | 0x002 => { rw := 0x3FF }
    | 0x005 => { rw := 0x7F }
    | 0x00C => { rc := 0xFFFFFFFF }
    | 0x00D => { rw := 0xFFFFF000 }
    | 0x00E => { rw := 0x3FFF }
    | 0x00F => { rw := 0xFFFFF }
    | 0x010 => { rw := 0xFFFF0001 }
    | _ => {}

/-- Field access of the `WV_` registers (R331, R381). -/
def wvBits : Nat → RegBits
  | 0 => { rw := 1, w1c := 2 }
  | 2 | 5 | 6 => { rw := 0xFFFFFFFF }
  | 3 => { rw := 0x01FFFFFF }
  | 4 => { rw := 0xF }
  | _ => {}

/-- Field access of a register by its number (R7, R329). -/
def regBits (num : BitVec 16) : RegBits :=
  let i := num.toNat % 0x1000
  match num.toNat / 0x2000 with
  | 0 => wvBits i
  | 1 => ctBits i
  | 2 => ptBits i
  | 3 => dvBits i
  | 4 => pwBits i
  | _ => {}

/-- The value after a write by the access codes of R7 and R8. -/
def RegBits.write (b : RegBits) (old v : Word) : Word := (old &&& ~~~b.rw &&& ~~~(b.w1c &&& v)) ||| (v &&& b.rw)

/-! Waves as `WV_` registers name them (R330). -/

/-- The wave of a context whose WaveBase is an address. -/
def State.waveAt (s : State) (ctx : Nat) (va : DWord) : Option WaveKey :=
  s.teams.findSome? fun (k, t) =>
    if k.grid.ctx ≠ ctx then none
    else
      match s.grid? k.grid with
      | none => none
      | some g =>
        (List.range t.waves.length).findSome? fun i =>
          if g.waveBase t.slot i = va && !((t.waves[i]?.map (·.done)).getD true) then some ⟨k, i⟩ else none

/-- Set `PT_CTL.NOTGT` (R330, R347). -/
def State.noTarget (s : State) (p : Nat) : State := s.setPtReg p 0 (s.ptReg p 0 ||| 0x10)

/-- The wave that `PT_WSEL_HI.V` selects for an agent (R330); with no live wave at the selected base `NOTGT` is set. -/
def State.selectedWave (s : State) (g : RegAgent) : Option WaveKey × State :=
  let hi := s.ptReg g.part 0x008
  if hi.getLsbD 31 then
    let va := pair (s.ptReg g.part 0x007) (BitVec.ofNat 32 (bits hi 0 25))
    match s.waveAt (2 * g.part + bits hi 30 1) va with
    | some k => (some k, s)
    | none => (none, s.noTarget g.part)
  else
    match g.self with
    | some (.wave k) => (some k, s)
    | _ => (none, s)

/-- `WV_STATUS` (R331). -/
def Wave.statusWord (w : Wave) : Word :=
  let cls : Nat := match w.cls with | .active => 0 | .pending => 1 | .memory => 2
  BitVec.ofNat 32 ((if w.tm then 1 else 0) + (if w.pnu then 2 else 0) + (if w.spk then 4 else 0) + (if w.cpk then 8 else 0) +
    (if (List.range 32).any fun l => (w.th l).stat = .parked && (w.th l).kind = 16#6 then 16 else 0) + 32 * cls)

/-- A `WV_` register (R331, R381). -/
def Wave.sysReg (w : Wave) : Nat → Word
  | 0 => w.statusWord
  | 1 => w.causeWord
  | 2 => w.epc.extractLsb' 0 32
  | 3 => (w.epc.extractLsb' 32 25).setWidth 32
  | 4 => w.ecpos.setWidth 32
  | 5 => w.echdr
  | 6 => w.emask
  | 7 => w.pend
  | _ => 0

/-- Write a `WV_` register (R331, R381). -/
def Wave.setSysReg (w : Wave) (i : Nat) (v : Word) : Wave :=
  match i with
  | 0 => { w with tm := v.getLsbD 0, pnu := w.pnu && !v.getLsbD 1 }
  | 2 => { w with epc := (w.epc.extractLsb' 32 25 ++ v : BitVec 57) }
  | 3 => { w with epc := (v.setWidth 25 ++ w.epc.extractLsb' 0 32 : BitVec 57) }
  | 4 => { w with ecpos := v.setWidth 4 }
  | 5 => { w with echdr := v }
  | 6 => { w with emask := v }
  | _ => w

/-! What writes start. -/

/-- Write every waiting fault record for which the ring has room (R375). -/
def State.recordFaults (s : State) (ctx : Nat) : Nat → State
  | 0 => s
  | n + 1 => (s.recordFault ctx).recordFaults ctx n

/-- `CT_CPCTL.GO` (R350, R351): the program starts at `CT_CPPC`, if RUN is 0. Its registers keep their values (DESIGN CHOICE, log entry 9). -/
def State.cpStart (s : State) (ctx : Nat) : State :=
  let r := s.ctReg ctx 0x009
  if r.getLsbD 1 then s
  else
    let s := s.setCtReg ctx 0x009 (r ||| 2)
    let pc := pair (s.ctReg ctx 0x007) (BitVec.ofNat 32 (bits (s.ctReg ctx 0x008) 0 25))
    s.modAgent (.cp ctx) fun w =>
      { w with
        threads := w.threads.mapIdx fun l t => if l = 0 then { t with pc := pc, cpos := 0, chdr := 0, stat := .running, kind := 0 } else t,
        groups := [1] }

/-- Entries at the head of a queue pair whose test has passed fire in posting order (R273, R289): those that the engine holds, and none while a
missing page of its ring holds the pair (R361). -/
def QueuePair.fire (q : QueuePair) : QueuePair :=
  let ready := if q.stuck.isSome then [] else q.entries.takeWhile fun e => e.armed && e.slot.isNone
  { q with entries := q.entries.drop ready.length, firing := q.firing ++ ready, fired := q.fired + BitVec.ofNat 32 ready.length }

/-- `CT_PFACK.RETRY` (R375): every held transfer, entry and record of the context tries its translation again; a queue pair that its ring held fires
what was armed meanwhile (R361), unless the context has halted (R291). -/
def State.pfackRetry (s : State) (ctx : Nat) : State :=
  let s : State := { s with
    ops := s.ops.map (fun (o : Op) => if ctxOf o.agent = ctx then { o with held := none } else o),
    grids := s.grids.map (fun (p : GridKey × Grid) => if p.1.ctx = ctx then (p.1, { p.2 with recHeld := false }) else p) }
  let y := s.part (partOf ctx)
  let s := if bits (s.ptReg (partOf ctx) 0x016) 16 1 = ctx % 2 then s.putPart (partOf ctx) { y with inStuck := none } else s
  let x := s.ctx ctx
  s.putCtx ctx { x with
    queues := x.queues.map (fun (q : CmdQueue) => { q with held := none, stuck := none }),
    qps := x.qps.map (fun (p : Nat × QueuePair) =>
      let q : QueuePair := { p.2 with held := none, stuck := none }
      (p.1, if s.halted ctx then q else q.fire)) }

/-- Ask the waves of a team to stop at their next instruction boundary (R51, R398). -/
def Team.askStop (t : Team) : Team :=
  { t with waves := t.waves.map (fun (w : Wave) => if w.stopReq.isNone then { w with stopReq := some 0 } else w) }

/-- Ask the waves of a context to stop at their next instruction boundary (R51, R339, R398). -/
def State.stopContext (s : State) (ctx : Nat) : State :=
  { s with
    teams := s.teams.map (fun (p : TeamKey × Team) => if p.1.grid.ctx = ctx then (p.1, p.2.askStop) else p) }

/-- The running context of a partition (R333, R338). -/
def State.runningCtx (s : State) (p : Nat) : Option Nat :=
  let c := s.ptReg p 0
  if c.getLsbD 5 then none else some (2 * p + bits c 1 1)

/-- Begin a swap to a context (R339): the running context is asked to stop. -/
def State.beginSwap (s : State) (p c : Nat) : State :=
  let out := s.runningCtx p
  let x := s.part p
  let s := s.putPart p { x with swap := some { incoming := 2 * p + c, outgoing := out } }
  let s := s.setPtReg p 0 (s.ptReg p 0 ||| 4)
  match out with
  | some o => s.stopContext o
  | none => s

/-- `QSWAP C` and `PT_SWAPREQ.GO` (R339, R340, R344). -/
def State.swapRequest (s : State) (p c : Nat) : State :=
  let ctx := 2 * p + c
  match (s.part p).swap with
  | none =>
    if s.runningCtx p = some ctx then s
    else if !s.valid ctx || (s.ctReg ctx 0).getLsbD 3 then s.setPtReg p 0 (s.ptReg p 0 ||| 8)
    else s.beginSwap p c
  | some w =>
    if w.incoming = ctx then s
    else if !s.valid ctx || (s.ctReg ctx 0).getLsbD 3 then s.setPtReg p 0 (s.ptReg p 0 ||| 8)
    else
      let x := s.part p
      s.putPart p { x with swap := some { w with back := true } }

/-- A cluster belongs to a mask register set of a partition, counted from a first index (R333, R397). -/
def State.inMask (s : State) (p base cl : Nat) : Bool := (s.ptReg p (base + cl / 20)).getLsbD (cl % 20)

/-- Cores of vacated clusters that still hold a team of the partition (R397). -/
def State.heldCores (s : State) (p : Nat) : List Nat :=
  ((s.teams.filter fun (k, t) => partOf k.grid.ctx = p && !t.saved && s.inMask p 0x00E (clusterOf t.core)).map fun (_, t) => t.core).eraseDups

/-- Set `PT_VACST` from the teams still held; when HELD reaches 0 DONE is set and `VACATED` is raised (R397, R398, R402). -/
def State.vacUpdate (s : State) (p : Nat) : State :=
  let n := (s.heldCores p).length
  let old := s.ptReg p 0x012
  let s := s.setPtReg p 0x012 (setBits old 0 9 n)
  if n = 0 && bits old 0 9 ≠ 0 then
    let c := (s.runningCtx p).getD (2 * p)
    let s := s.setPtReg p 0x012 (s.ptReg p 0x012 ||| 0x200)
    s.raiseEvent p 0x06 (c % 2) (leBytes 4 (s.ctx c).moved)
  else s

/-- Write a vacation mask (R397, R398, R402): ignored whole if it sets a bit of a cluster on which the resident context holds teams. The
teams on newly vacated clusters are asked to stop; the deficits of cores that leave or join the partition's ring become 0 (R356), and the partition's
first batch in the die's queue is marked for its return (R357). A vacation that begins counts the teams that it moves from 0. -/
def State.writeVac (s : State) (p d : Nat) (mask : Word) : State :=
  let old := s.ptReg p (0x00E + d)
  let added := mask &&& ~~~old
  let isNew (core : Nat) : Bool := decide (core / 80 = d) && added.getLsbD (core % 80 / 4)
  let resident := s.teams.any fun (k, t) =>
    partOf k.grid.ctx = p && some k.grid.ctx ≠ s.runningCtx p && !t.saved && isNew t.core
  if resident then s
  else
    let s := s.setPtReg p (0x00E + d) mask
    let s : State := { s with
      cores := s.cores.map (fun (q : Nat × Core) =>
        if q.1 / 80 = d && (old ^^^ mask).getLsbD (q.1 % 80 / 4) && s.inMask p 0x001 (clusterOf q.1) then (q.1, { q.2 with deficit := 0 }) else q),
      teams := s.teams.map (fun (q : TeamKey × Team) =>
        if partOf q.1.grid.ctx = p && isNew q.2.core && !q.2.saved then (q.1, { q.2.askStop with vacate := true }) else q) }
    let s : State :=
      if added = 0 then s
      else
        let x := s.die d
        let due := ((x.queue.find? fun q => partOf q.team.grid.ctx = p).map (·.batch)).toList
        let s := s.putDie d { x with lost := (x.lost ++ due).eraseDups }
        let c := (s.runningCtx p).getD (2 * p)
        if bits (s.ptReg p 0x012) 0 9 = 0 then s.putCtx c { s.ctx c with moved := 0 } else s
    let n := (s.heldCores p).length
    let was := bits (s.ptReg p 0x012) 0 9
    let s := s.setPtReg p 0x012 (setBits (s.ptReg p 0x012) 0 9 n)
    if n = 0 && (added ≠ 0 || was ≠ 0) then
      let c := (s.runningCtx p).getD (2 * p)
      (s.setPtReg p 0x012 (s.ptReg p 0x012 ||| 0x200)).raiseEvent p 0x06 (c % 2) (leBytes 4 (s.ctx c).moved)
    else s

/-- The ways of a die's LLC that its gating register asks to be dark (R400). -/
def State.darkTarget (s : State) (d : Nat) : Word :=
  let r := s.dvReg (0x004 + d)
  r &&& ~~~(r >>> 16) &&& 0xFFFF

/-- A `DV_LLCWAY` write (R399, R400): a way no longer to be dark wakes empty, a way to be dark is written back first, and a locked
way whose GATE is set marks the request as honoured in part. -/
def State.llcWayGate (s : State) (d : Nat) : State :=
  let r := s.dvReg (0x004 + d)
  let want := s.darkTarget d
  let dark := s.dvReg (0x008 + d)
  let busy := decide (want &&& ~~~dark ≠ 0)
  let partial' := decide (r &&& (r >>> 16) &&& 0xFFFF ≠ 0)
  s.setDvReg (0x008 + d)
    ((dark &&& 0x20000) ||| (dark &&& want) ||| (if busy then 0x10000 else 0) ||| (if partial' then 0x20000 else 0))

/-- Clearing `PW_CTL.CGATE` wakes every gated core (R415). -/
def State.wakeAll (s : State) : State := { s with cores := s.cores.map fun p => (p.1, { p.2 with gated := false }) }

/-- `DV_SCCMD.GO` (R427): ignored while a report is in progress. -/
def State.attestationStart (s : State) : State :=
  let r := s.dvReg 0x023
  if r.getLsbD 0 then s else s.setDvReg 0x023 (setBits (r ||| 1) 1 3 0)

/-! Reads and writes. -/

/-- The value that a defined register has. -/
def State.regNow (s : State) (g : RegAgent) (num : BitVec 16) : Word :=
  let i := num.toNat % 0x1000
  match num.toNat / 0x2000 with
  | 0 => ((s.selectedWave g).1.bind s.wave?).elim 0 (·.sysReg i)
  | 1 => s.ctReg (2 * g.part + num.toNat / 0x1000 % 2) i
  | 2 => s.ptReg g.part i
  | 3 => s.dvReg i
  | 4 => s.pwReg i
  | _ => 0

/-- Clear the read-to-clear fields of a register in the bits that a read returns (R7). -/
def State.clearRead (s : State) (p : Nat) (num : BitVec 16) (m : Word) : State :=
  let i := num.toNat % 0x1000
  let b := (regBits num).rc &&& m
  if b = 0 then s
  else
    match num.toNat / 0x2000 with
    | 2 => s.setPtReg p i (s.ptReg p i &&& ~~~b)
    | 3 => s.setDvReg i (s.dvReg i &&& ~~~b)
    | 4 => s.setPwReg i (s.pwReg i &&& ~~~b)
    | _ => s

/-- Read a defined register (R7, R329, R330, R346); `m` is the bits that the read returns. -/
def State.readReg (s : State) (g : RegAgent) (num : BitVec 16) (m : Word := BitVec.allOnes 32) : Word × State :=
  (s.regNow g num, (if num.toNat / 0x2000 = 0 then (s.selectedWave g).2 else s).clearRead g.part num m)

/-- Any partition is enabled. -/
def State.anyEnabled (s : State) : Bool := (List.range 8).any fun p => (s.ptReg p 0).getLsbD 0

/-- A value of `PT_CLUS`, `PT_MEM` or `PT_STRAIT` stands beside the other partitions' (R335). -/
def State.shareOk (s : State) (p i : Nat) (v : Word) : Bool :=
  (List.range 8).all fun q =>
    q = p ||
      (if i ≤ 4 then decide (s.ptReg q i &&& v = 0)
       else
         let m := s.ptReg q 5
         bits v 16 12 = 0 || bits m 16 12 = 0 || decide (bits v 0 12 + bits v 16 12 ≤ bits m 0 12) ||
           decide (bits m 0 12 + bits m 16 12 ≤ bits v 0 12))

/-- The sum of the strait shares of all partitions stays within 16 for each strait (R335). -/
def State.straitOk (s : State) (p : Nat) (v : Word) : Bool :=
  (List.range 6).all fun t =>
    ((List.range 8).foldl (fun n q => n + bits (if q = p then v else s.ptReg q 6) (5 * t) 5) 0) ≤ 16

/-- A context ends as its VALID falls: its posted entries go, and what it kept for a stop record (R289); nothing waits for the answers to what its
entries have sent (R291), and bytes of them for this module that it has not taken are dropped (DESIGN CHOICE, log entry 76). -/
def State.endContext (s : State) (c : Nat) : State :=
  let s : State := { s with awaiting := s.awaiting.filter fun p => !((p.pair.map (·.1)) == some c) }
  s.putCtx c { s.ctx c with qps := [], stopped := [] }

/-- Write a `CT_` register (R289, R332, R350, R360, R364, R375, R397). HALTED stays set where VALID is written: the rules name nothing that clears it
(DESIGN CHOICE, log entry 75). -/
def State.writeCt (s : State) (g : RegAgent) (c i : Nat) (v : Word) : State :=
  let old := s.ctReg c i
  let new := (ctBits i).write old v
  let run := s.running c
  match i with
  | 0x000 =>
    let sys := if g.level < 2 then bits old 1 1 else bits new 1 1
    let val := if run || (bits new 0 1 = 0 && bits (s.ctReg c 6) 0 17 ≠ 0) then bits old 0 1 else bits new 0 1
    let s := if old.getLsbD 0 && val = 0 then s.endContext c else s
    s.setCtReg c 0 (setBits (setBits new 1 1 sys) 0 1 val)
  | 0x003 =>
    let other := s.ctReg (if c % 2 = 0 then c + 1 else c - 1) 3
    if run || decide (256 < bits new 0 9 + bits other 0 9) || decide (1024 < bits new 16 11 + bits other 16 11) then s
    else s.setCtReg c 3 new
  | 0x009 =>
    let s := s.setCtReg c 9 new
    if v.getLsbD 0 then s.cpStart c else s
  | 0x00A | 0x00B | 0x00C | 0x00D | 0x00E | 0x00F | 0x010 | 0x011 | 0x014 | 0x015 | 0x016 => if run then s else s.setCtReg c i new
  | 0x012 => (s.setCtReg c i new).recordFaults c 128
  | 0x013 => if v.getLsbD 0 then s.pfackRetry c else s
  | _ => s.setCtReg c i new

/-- The deficits of cores that a change of `PT_CLUS` lets join or leave a ring become 0 (R356). -/
def State.ringChange (s : State) (d : Nat) (change : Word) : State :=
  { s with cores := s.cores.map fun (q : Nat × Core) =>
      if q.1 / 80 = d && change.getLsbD (q.1 % 80 / 4) then (q.1, { q.2 with deficit := 0 }) else q }

/-- A partition is created: the counters of its contexts start at 0 (R288). -/
def State.createPartition (s : State) (p : Nat) : State :=
  [2 * p, 2 * p + 1].foldl (fun s c => s.putCtx c { s.ctx c with counters := [] }) s

/-- Write a `PT_` register (R288, R333, R335, R340, R360, R397, R401, R424). -/
def State.writePt (s : State) (p i : Nat) (v : Word) : State :=
  let old := s.ptReg p i
  let new := (ptBits i).write old v
  let en := (s.ptReg p 0).getLsbD 0
  match i with
  | 0x000 => (if !en && new.getLsbD 0 then s.createPartition p else s).setPtReg p 0 new
  | 0x001 | 0x002 | 0x003 | 0x004 => if en || !s.shareOk p i new then s else (s.ringChange (i - 1) (old ^^^ new)).setPtReg p i new
  | 0x005 => if en || !s.shareOk p i new then s else s.setPtReg p i new
  | 0x006 =>
    let new := (List.range 6).foldl (fun w t => if 16 < bits new (5 * t) 5 then setBits w (5 * t) 5 (bits old (5 * t) 5) else w) new
    if en || !s.straitOk p new then s else s.setPtReg p i new
  | 0x00A | 0x00B | 0x00C | 0x013 | 0x014 | 0x017 | 0x018 => if en then s else s.setPtReg p i new
  | 0x00E | 0x00F | 0x010 | 0x011 => s.writeVac p (i - 0x00E) new
  | 0x016 =>
    let clash := new.getLsbD 31 && (List.range 8).any fun q =>
      q ≠ p && (s.ptReg q 0x016).getLsbD 31 && bits (s.ptReg q 0x016) 0 16 = bits new 0 16
    if en || clash then s else s.setPtReg p i new
  | 0x01A =>
    let s := s.setPtReg p i new
    if v.getLsbD 1 && en then s.swapRequest p (bits new 0 1) else s
  | _ => s.setPtReg p i new

/-- Write a `DV_` register (R334, R399, R421, R427). -/
def State.writeDv (s : State) (i : Nat) (v : Word) : State :=
  let old := s.dvReg i
  let new := (dvBits i).write old v
  match i with
  | 0x001 | 0x002 | 0x003 => if s.anyEnabled then s else s.setDvReg i new
  | 0x010 | 0x011 | 0x012 =>
    let new := if 6 ≤ bits new 18 3 then setBits new 18 3 (bits old 18 3) else new
    if s.anyEnabled then s else s.setDvReg i new
  | 0x004 | 0x005 | 0x006 | 0x007 => (s.setDvReg i new).llcWayGate (i - 4)
  | 0x020 => if v.getLsbD 0 then s.attestationStart else s
  | 0x000 => s
  | _ => s.setDvReg i new

/-- A `PW_` value that the table accepts (R406, R428). -/
def State.pwOk (s : State) (i : Nat) (v : Word) : Bool :=
  match i with
  | 0x001 => decide (600 ≤ bits v 0 12) && decide (bits v 0 12 ≤ 2400) && decide (bits v 0 12 ≤ s.sec.ceiling)
  | 0x002 => decide (25 ≤ bits v 0 10) && decide (bits v 0 10 ≤ 800)
  | 0x004 => decide (bits v 0 12 ≤ 3000)
  | 0x005 => decide (5 ≤ bits v 0 7) && decide (bits v 0 7 ≤ 80)
  | 0x006 => decide (bits v 8 4 ≠ 0)
  | _ => true

/-- Power intents are sent and received (R406, R416). -/
def State.intentsOn (s : State) : Bool := (s.pwReg 0x010).getLsbD 0

/-- Write a `PW_` register (R405, R406, R413, R415, R416). A new droop threshold reaches every cluster within 1 µs; intents leave every 20 µs from the
write that sets EN. -/
def State.writePw (s : State) (i : Nat) (v : Word) : State :=
  if !s.pwOk i v then s
  else
    let was := bits (s.pwReg 5) 0 7
    let s : State :=
      if i = 5 then { s with droopOld := (s.droopOld.filter fun q => decide (s.timeRef < q.2)) ++ [(was, s.timeRef + 1000)] } else s
    let s : State := if i = 0x10 && v.getLsbD 0 && !s.intentsOn then { s with intentAt := s.timeRef, intents := [], plan := [], rises := [] } else s
    let s := s.setPwReg i ((pwBits i).write (s.pwReg i) v)
    if i = 0 && !v.getLsbD 0 then s.wakeAll else s

/-- Write a defined register at a level that permits it (R329, R330, R346). -/
def State.writeReg (s : State) (g : RegAgent) (num : BitVec 16) (v : Word) : State :=
  let i := num.toNat % 0x1000
  match num.toNat / 0x2000 with
  | 0 =>
    match s.selectedWave g with
    | (some k, s) => s.modAgent (.wave k) fun w => w.setSysReg i v
    | (none, s) => s
  | 1 => s.writeCt g (2 * g.part + num.toNat / 0x1000 % 2) i v
  | 2 => s.writePt g.part i v
  | 3 => s.writeDv i v
  | 4 => s.writePw i v
  | _ => s

/-! The device-register window (R106, R328, R329, R430). -/

/-- Bring-up is complete (R429). -/
def State.ready (s : State) : Bool := bits (s.dvReg 0x00D) 0 4 = 7

/-- The partition and the number of the register at an offset of the window that an agent may reach: a defined number; `DV_` and `PW_`
only at partition index 0; below level 2 only its own partition. -/
def State.windowReg (s : State) (g : RegAgent) (off : Nat) : Option (Nat × BitVec 16) :=
  let p := off / 0x40000
  let n := off % 0x40000 / 4
  let group := n / 0x2000
  if !s.ready || decide (8 ≤ p) || !regDefined (BitVec.ofNat 16 n) || g.level = 0 then none
  else if 3 ≤ group then (if p = 0 then some (g.part, BitVec.ofNat 16 n) else none)
  else if g.level < 2 && p ≠ g.part then none
  else some (p, BitVec.ofNat 16 n)

/-- Read a word of the window; `m` is the bits of the bytes that are returned. -/
def State.windowRead (s : State) (g : RegAgent) (off : Nat) (m : Word := BitVec.allOnes 32) : Word × State :=
  match s.windowReg g off with
  | some (p, n) => s.readReg { g with part := p } n m
  | none => (0, s)

/-- Write the bytes of a word of the window that `m` covers: the fields in its other bytes keep their values. Below the register's level it is
ignored. -/
def State.windowWrite (s : State) (g : RegAgent) (off : Nat) (v : Word) (m : Word := BitVec.allOnes 32) : State :=
  match s.windowReg g off with
  | some (p, n) =>
    let g := { g with part := p }
    if g.level < regWriteLevel n then s else s.writeReg g n ((v &&& m) ||| (s.regNow g n &&& (regBits n).rw &&& ~~~m))
  | none => s

/-- The bits of n bytes of a word, from a byte on. -/
def byteMask (b n : Nat) : Word := BitVec.ofNat 32 ((256 ^ n - 1) * 256 ^ b)

/-- Read n bytes of the window, word by word: a read-to-clear field is cleared in the bytes returned (DEDUCED, log entry 19). -/
def State.windowBytes (s : State) (g : RegAgent) (off n : Nat) : List Byte × State :=
  let r := (List.range ((off % 4 + n + 3) / 4)).foldl
    (fun (p : List Byte × State) j =>
      let lo := if j = 0 then off % 4 else 0
      let hi := min 4 (off % 4 + n - 4 * j)
      let q := p.2.windowRead g (off / 4 * 4 + 4 * j) (byteMask lo (hi - lo))
      (p.1 ++ leBytes 4 q.1.toNat, q.2))
    ([], s)
  ((r.1.drop (off % 4)).take n, r.2)

/-- Write bytes to the window, word by word: only the bytes stored act on the fields of a register (DEDUCED, log entry 19). -/
def State.windowStore (s : State) (g : RegAgent) (off : Nat) (bs : List Byte) : State :=
  (List.range ((off % 4 + bs.length + 3) / 4)).foldl
    (fun s j =>
      let lo := if j = 0 then off % 4 else 0
      let mine := (bs.drop (4 * j - off % 4)).take (4 - lo)
      s.windowWrite g (off / 4 * 4 + 4 * j) (BitVec.ofNat 32 (ofLeBytes mine * 256 ^ lo)) (byteMask lo mine.length))
    s

end Sys2Proof.Machine
end

