-- ==== Sys2Proof/Machine/Perform.lean ====
section
/-! DEFINITION. The performance of lane accesses in flight (R126, R127, R135, R143, R224): loads, atomics and stores of an operation
act on memory one lane at a time, between issue and completion; completion writes the destinations and drops the flag. -/

namespace Sys2Proof.Machine

open Sys2Proof

/-! Read-modify-writes. -/

/-- The size of an atomic's location (R168, R232). -/
def atomSize (op : Nat) : Nat :=
  if op = 0x01 || op = 0x0E || op = 0x0F || op = 0x10 || op = 0x12 || op = 0x14 then 8 else if op = 0x03 || op = 0x04 then 2 else 4

/-- The stochastic mode of a sum of two elements of a format (R85): the smaller of the spacings of the terms that are not zero. -/
def srSum (f : Fmt) (a b : FVal) (r : Word) : Rnd :=
  match a, b with
  | .fin _ m e, .fin _ m' e' =>
    if m = 0 && m' = 0 then .sr 0 r
    else if m = 0 then .sr (f.ulpExp m' e') r
    else if m' = 0 then .sr (f.ulpExp m e) r
    else .sr (min (f.ulpExp m e) (f.ulpExp m' e')) r
  | _, _ => .sr 0 r

/-- The new value of a location (R233): `v` is the operand, `c` the compare value of `.cas` or the random word of `.sr`. -/
def rmw (op : Nat) (old v c : Nat) : Nat :=
  let w (x : Nat) : Word := BitVec.ofNat 32 x
  match op with
  | 0x00 => (old + v) % 2 ^ 32
  | 0x01 => (old + v) % 2 ^ 64
  | 0x02 => (fadd false .rn (w old) (w v)).1.toNat
  | 0x03 => (bf16.ofVal .rn ((bf16.read old).add .rn (bf16.read v))).1
  | 0x04 =>
    let m := srSum bf16 (bf16.read old) (bf16.read v) (w c)
    (bf16.ofVal m ((bf16.read old).add m (bf16.read v))).1
  | 0x05 => (minS (w old) (w v)).toNat
  | 0x06 => min old v
  | 0x07 => (maxS (w old) (w v)).toNat
  | 0x08 => max old v
  | 0x09 => (fminmax false false (w old) (w v)).1.toNat
  | 0x0A => (fminmax false true (w old) (w v)).1.toNat
  | 0x0B | 0x0E => Nat.land old v
  | 0x0C | 0x0F => Nat.lor old v
  | 0x0D | 0x10 => Nat.xor old v
  | 0x11 | 0x12 => v
  | 0x13 | 0x14 => if old = c then v else old
  | 0x15 => if v ≤ old then 0 else old + 1
  | 0x16 => if old = 0 || v < old then v else old - 1
  | _ => old

/-! Places. -/

/-- Two accesses touch a common byte. -/
def Place.overlaps (p : Place) (n : Nat) (q : Place) (m : Nat) : Bool :=
  match p, q with
  | .mem a _ _, .mem b _ _ => a < b + m && b < a + n
  | .lagoon t a, .lagoon u b => t = u && a < b + m && b < a + n
  | .dev a, .dev b => a < b + m && b < a + n
  | _, _ => false

/-- A place on a page with ROW. -/
def Place.row : Place → Bool
  | .mem _ _ row => row
  | _ => false

/-- The object's 16 bytes as a place. -/
def ObjAddr.place : ObjAddr → Place
  | .mem a => .mem a false false
  | .lagoon t o => .lagoon t o

/-- An access touches an object on which something waits (R122). -/
def State.waited (s : State) (p : Place) (n : Nat) : Bool := s.waiters.any fun w => w.obj.place.overlaps 16 p n

/-- Every release record of a core is promoted: an access from outside reaches what its releases cover (R132). -/
def State.promoteAll (s : State) (c : Nat) : State :=
  if (s.core c).l1.recs.isEmpty then s else s.promote c ((s.core c).l1.recs.length - 1)

/-- The core that holds a lagoon. -/
def State.lagoonCore (s : State) (t : TeamKey) : Nat :=
  match s.held? t with
  | some h => h.core
  | none => ((s.team? t).map (·.core)).getD 511

/-- A key of release records made through a lagoon, which no address of memory has. -/
def lagoonRecord : Nat := 2 ^ 80

/-- An access of a core to a lagoon (R72, R101, R132): every other core that recorded a release on a lagoon is promoted first, and one from another
core makes the owner promote its releases, and wake first where it is gated. -/
def State.reachLagoon (s : State) (core : Nat) (t : TeamKey) : State :=
  let s := s.promoteFor core lagoonRecord
  if s.lagoonCore t = core then s else (s.promoteAll (s.lagoonCore t)).wakeCore (s.lagoonCore t)

/-- The poison code of a lagoon byte (R392). -/
def State.lagoonPoison (s : State) (t : TeamKey) (off : Nat) : Nat := (s.lagPoisonTab t).get 0 (off / 64)

/-- A wave consumes poisoned bytes (R351, R393): `ECC` with the poison code halts its context, and stops the program of a command processor. -/
def State.consume (s : State) (o : Op) (code : Nat) : State :=
  if code = 0 then s
  else
    let t : Byte := BitVec.ofNat 8 code
    match o.agent, s.agent? o.agent with
    | .cp c, _ => if (s.ctReg c 0x009).getLsbD 1 then s.takeCause o.agent 1 Cause.ecc t o.pc ((s.ctx c).cp.th 0) 0 else s
    | .wave _, some _ =>
      (s.modAgent o.agent fun w => w.setCause Cause.ecc t).raiseHalt (ctxOf o.agent) (s.haltHeader o.agent Cause.ecc t 0 o.pc o.lanes)
    | .wave _, none =>
      s.raiseHalt (ctxOf o.agent)
        { code := Cause.ecc, tcode := code, src := 0, who := o.who, core := o.core, quarter := o.quarter, pc := o.pc, lanes := o.lanes }

/-- The agent as it accesses device registers. -/
def State.regAgent (s : State) (a : Agent) : RegAgent := { level := s.level a, part := partOf (ctxOf a), self := some a }

/-- A core's clean copy of a location's sector gives way to the home point. -/
def State.dropSector (s : State) (c a : Nat) : State := s.modL1 c fun l => { l with clean := l.clean.del (a / 64) }

/-- A lagoon is another member's than that of an agent's own team (R101, R229): the scope of its accesses is `.clus`. -/
def otherLagoon (a : Agent) (t : TeamKey) : Bool := match a with | .wave k => decide (k.team ≠ t) | .cp _ => true

/-- Read the bytes of a place for an operation (R64, R102, R135, R136). -/
def State.readPlace (s : State) (o : Op) (p : Place) (n : Nat) (home acq : Bool) : List Byte × State :=
  match p with
  | .mem a nc _ =>
    let s := s.consume o (s.poisonAt o.core a)
    let (bs, s) := s.readBytes o.core a n nc home
    (bs, if acq && home then s.acquire o.core 2 else s)
  | .lagoon t off =>
    let s := (s.consume o (s.lagoonPoison t off)).reachLagoon o.core t
    (s.lagoonRead t off n, if acq && otherLagoon o.agent t then s.acquire o.core 2 else s)
  | .ctx vals code => (vals, s.consume o code)
  | .dev a => s.windowBytes (s.regAgent o.agent) a n

/-- Write the bytes of a place at its home point, for an operation performed there (R143). -/
def State.writeHome (s : State) (o : Op) (p : Place) (bs : List Byte) : State :=
  match p with
  | .mem a _ row => ((s.promoteFor o.core a).homeWrites a bs row).dropSector o.core a
  | .lagoon t off => s.lagoonWrite t off bs
  | .ctx .. => s
  | .dev a => s.windowStore (s.regAgent o.agent) a bs

/-- The store that an operation's write is, for the L1 that takes it. -/
def Op.storeId (o : Op) : StoreId := { agent := o.agent, num := o.id, who := o.who, quarter := o.quarter }

/-- A lane's read-modify-write (R143, R233): refused with `BARSTORE` on an object with waiters (R122), performed in the L1 at `.wave`
or `.core` on a cacheable page, else at the home point. An acquire at `.wave` or `.core` marks nothing there (R136). -/
def State.runAtomic (s : State) (o : Op) (a : LaneAcc) (op : Nat) (home acq rel : Bool) : List Byte × Bool × State :=
  let n := atomSize op
  if s.waited a.place n then ([], true, s)
  else
    let local' : Option (Nat × Bool) :=
      match a.place with
      | .mem pa nc row => if home || nc || decide (320 ≤ o.core) then none else some (pa, row)
      | _ => none
    match local' with
    | some (pa, row) =>
      let s := s.consume o (s.poisonAt o.core pa)
      let (bs, s) := s.readBytes o.core pa n false false
      let new := leBytes n (rmw op (ofLeBytes bs) a.operand.toNat a.compare.toNat)
      let s := s.writeBytes o.core o.storeId pa new false row
      (bs, false, if rel then s.release o.core 1 (some pa) else s)
    | none =>
      let (bs, s) := s.readPlace o a.place n true (acq && (home || match a.place with | .mem .. => false | _ => true))
      let s := s.writeHome o a.place (leBytes n (rmw op (ofLeBytes bs) a.operand.toNat a.compare.toNat))
      (bs, false, s)

/-- Perform one lane's access: its result, whether an object's waiters refused it (R122), and the state (R126). -/
def State.runAcc (s : State) (o : Op) (a : LaneAcc) : List Byte × Bool × State :=
  match o.kind with
  | .load size _ _ _ _ home acq =>
    let (bs, s) := s.readPlace o a.place size home acq
    (bs, false, s)
  | .atomic op _ home acq rel => s.runAtomic o a op.toNat home acq rel
  | .store size row =>
    if s.waited a.place size then ([], true, s)
    else
      let bs := (leBytes 8 a.operand.toNat ++ leBytes 8 a.compare.toNat).take size
      match a.place with
      | .mem pa nc _ => ([], false, s.writeHome o (.mem pa nc row) bs)
      | p => ([], false, s.writeHome o p bs)
  | .semTake _ =>
    let (bs, s) := s.readPlace o a.place 16 true false
    let t := ofLeBytes ((bs.drop 4).take 4)
    let obj := bs.take 4 ++ leBytes 4 (t + 1) ++ bs.drop 8
    ((bs.drop 4).take 4, false, s.writeHome o a.place obj)
  | .semRead _ =>
    let (bs, s) := s.readPlace o a.place 16 true false
    (bs.take 4, false, s)
  | _ => ([], false, s)

/-- The operation of a number. -/
def State.op? (s : State) (id : Nat) : Option Op := s.ops.find? (·.id = id)
/-- Change an operation. -/
def State.modOp (s : State) (id : Nat) (f : Op → Op) : State := { s with ops := s.ops.map (fun (o : Op) => if o.id = id then f o else o) }
/-- Remove an operation. -/
def State.dropOp (s : State) (id : Nat) : State := { s with ops := s.ops.filter (fun (o : Op) => o.id ≠ id) }

/-- The size of an operation's accesses. -/
def OpKind.size : OpKind → Nat
  | .load n .. => n
  | .atomic op .. => atomSize op.toNat
  | .store n _ => n
  | _ => 16

/-- The kind of an operation's request in a fault record (R424). -/
def OpKind.reqKind : OpKind → Nat
  | .load .. | .semRead _ => 0
  | .store .. => 1
  | _ => 2

/-- An operation accesses memory at its home point whatever its page (R135). -/
def OpKind.atHome : OpKind → Bool
  | .load _ _ _ _ _ home _ => home
  | .atomic _ _ home _ _ => home
  | _ => true

/-- The lower of two causes. -/
def lowerCause (c : Cause) (old : Option Cause) : Option Cause :=
  match old with
  | some d => some (min c d)
  | none => some c

/-- A lane's access is refused (R394, R395): its destination keeps its value, and the lowest cause of the instruction becomes pending
when its last access is done. -/
def State.refuseAcc (s : State) (id lane : Nat) (cause : Cause) : State :=
  s.modOp id fun o => { o with
    cause := lowerCause cause o.cause,
    accs := o.accs.map (fun (b : LaneAcc) => if b.lane = lane && b.result.isNone then { b with skip := true } else b) }

/-- The cause that an operation met becomes pending in its wave (R380, R394). -/
def State.pendOp (s : State) (o : Op) : State :=
  match o.cause with
  | some c => s.pendCause o.agent c 0 o.who o.core o.quarter
  | none => s

/-- Perform the access of one lane, if it is still to be performed: never where no route leads to its peer, or where its flit needs a port that is
down, which discards it so that it times out (R395, R420). -/
def State.performOne (s : State) (id lane : Nat) : State :=
  match s.op? id with
  | none => s
  | some o =>
    match o.accs.find? fun a => a.lane = lane && a.result.isNone && !a.skip with
    | none => s
    | some a =>
      match s.reachPlace a.place with
      | .noRoute => (s.noRoute (partOf (ctxOf o.agent)) a.place.globalAddr o.kind.reqKind o.kind.size).refuseAcc id lane Cause.remote
      | .down => (s.requestAt (partOf (ctxOf o.agent)) a.place o.kind.reqKind o.kind.size).refuseAcc id lane Cause.remoteTimeout
      | .ok =>
        let s := match a.place with
          | .mem pa nc _ => if s.leaves o.core pa (o.kind.atHome || nc) then s.request (partOf (ctxOf o.agent)) pa o.kind.reqKind o.kind.size else s
          | _ => s
        let (bs, skip, s) := s.runAcc o a
        s.modOp id fun o => { o with
          cause := if skip then lowerCause Cause.barstore o.cause else o.cause
          accs := o.accs.map (fun (b : LaneAcc) => if b.lane = lane then { b with result := some bs, skip := skip } else b) }

/-- The operation writes one location in ascending lane order (R226, R234). -/
def OpKind.inLaneOrder : OpKind → Bool
  | .atomic .. | .store .. => true
  | _ => false

/-- An operation acts once for its group. -/
def OpKind.uniform : OpKind → Bool
  | .load _ _ _ u .. => u
  | .semTake _ | .semRead _ => true
  | _ => false

/-- Perform a lane's access after those of lower lanes at the same location, where their order is fixed (R226, R234). -/
def State.performAfter (s : State) (id lane : Nat) : State :=
  match s.op? id with
  | none => s
  | some o =>
    match o.accs.find? (·.lane = lane) with
    | none => s
    | some a =>
      if o.kind.inLaneOrder then
        o.accs.foldl
          (fun s b => if b.lane ≤ lane && b.place.overlaps o.kind.size a.place o.kind.size then s.performOne id b.lane else s) s
      else s.performOne id lane

/-- Perform a lane's access after the accesses in flight that its program order puts before it: those of the same thread to its bytes, of
earlier operations of its wave (R127). -/
def State.performAcc (s : State) (id lane : Nat) : State :=
  match s.op? id with
  | none => s
  | some o =>
    match o.accs.find? (·.lane = lane) with
    | none => s
    | some a =>
      let earlier (p : Op) (b : LaneAcc) : Bool :=
        p.agent = o.agent && decide (p.id < id) && b.result.isNone && !b.skip && (b.lane = lane || p.kind.uniform || o.kind.uniform) &&
          b.place.overlaps p.kind.size a.place o.kind.size
      (s.ops.foldl (fun s p => p.accs.foldl (fun s b => if earlier p b then s.performAfter p.id b.lane else s) s) s).performAfter id lane

/-- Perform a lane's access as the memory model orders it: after those of lower lanes, each after its own thread's (R127, R234). -/
def State.performLane (s : State) (id lane : Nat) : State :=
  match s.op? id with
  | none => s
  | some o =>
    match o.accs.find? (·.lane = lane) with
    | none => s
    | some a =>
      o.accs.foldl
        (fun s b =>
          if b.lane = lane || (o.kind.inLaneOrder && decide (b.lane < lane) && b.place.overlaps o.kind.size a.place o.kind.size) then
            s.performAcc id b.lane
          else s)
        s

/-- Perform every access of an operation, in ascending lane order. -/
def State.performOp (s : State) (id : Nat) : State :=
  match s.op? id with
  | none => s
  | some o => o.accs.foldl (fun s a => s.performAcc id a.lane) s

/-- A store in flight of which every access has been performed is done. -/
def State.dropStores (s : State) : State :=
  let ended (o : Op) : Bool :=
    match o.kind with
    | .store .. => o.accs.all fun a => a.result.isSome || a.skip
    | .atomic _ none .. => o.flags.isEmpty && o.accs.all fun a => a.result.isSome || a.skip
    | _ => false
  (s.ops.filter ended).foldl State.pendOp { s with ops := s.ops.filter fun (o : Op) => !ended o }

/-- Perform the accesses of an agent's operations that a test picks, oldest operation first. -/
def State.forceWhere (s : State) (a : Agent) (p : Op → LaneAcc → Bool) : State :=
  (s.ops.foldl
    (fun s o => if o.agent = a then o.accs.foldl (fun s c => if p o c then s.performLane o.id c.lane else s) s else s)
    s).dropStores

/-- Perform every access in flight of an agent: what a release, a fence or a completion orders (R128 to R131). -/
def State.forceAll (s : State) (a : Agent) : State := s.forceWhere a fun _ _ => true

/-- Perform every access in flight of the waves of a team. -/
def State.forceTeam (s : State) (k : TeamKey) : State :=
  (s.ops.foldl (fun s o => match o.agent with | .wave w => if w.team = k then s.performOp o.id else s | .cp _ => s) s).dropStores

/-- An access in flight acquires (R128). -/
def OpKind.acquires : OpKind → Bool
  | .load _ _ _ _ _ _ acq => acq
  | .atomic _ _ _ acq _ => acq
  | _ => false

/-- What program order puts before a new access (R127, R129): earlier accesses of the same thread to its bytes, earlier acquires of the same
thread, and for a lagoon access every earlier lagoon access of the wave. -/
def comesBefore (e : LaneMask) (uni : Bool) (size : Nat) (new : List (Nat × Place)) (o : Op) (c : LaneAcc) : Bool :=
  let lag := new.any fun (_, p) => match p with | .lagoon .. => true | _ => false
  let same (l : Nat) : Bool := l = c.lane || uni || (o.kind.uniform && o.lanes.getLsbD l)
  (lag && (match c.place with | .lagoon .. => true | _ => false)) ||
    (o.kind.acquires && (e.getLsbD c.lane || (o.kind.uniform && o.lanes &&& e ≠ 0#32))) ||
    (new.any fun (l, p) => same l && c.place.overlaps o.kind.size p size)

/-- Perform what program order puts before a new access (R127, R129). -/
def State.forceBefore (s : State) (a : Agent) (e : LaneMask) (uni : Bool) (size : Nat) (new : List (Nat × Place)) : State :=
  s.forceWhere a (comesBefore e uni size new)

/-! Completion. -/

/-- Threads that wait with a kind run again at the instruction that they wait at. -/
def Wave.wake (w : Wave) (kind : Nat) : Wave :=
  w.modLanes (maskOf fun l => decide ((w.th l).stat = .waiting) && decide ((w.th l).kind.toNat = kind)) fun t =>
    { t with stat := .running, kind := 0 }

/-- A condition for which groups of a wave wait may have come to hold: their instructions are tested again with the end of the step, and
a group whose wait still holds keeps waiting (R58, R244). -/
def Wave.testWaits (w : Wave) : Wave := { w with recheck := true }

/-- The flags of an operation fall (R173, R174), and the groups that wait for a counter test it again. -/
def State.dropFlags (s : State) (fs : List (Agent × Nat)) : State :=
  fs.foldl (fun s (a, n) => s.modAgent a fun w => (w.modFlag n (· - 1)).testWaits) s

/-- The flags of an operation rise at issue (R174). -/
def State.raiseFlags (s : State) (fs : List (Agent × Nat)) : State :=
  fs.foldl (fun s (a, n) => s.modAgent a fun w => w.modFlag n (· + 1)) s

/-- Write the bytes of a value to consecutive `v` registers of a lane, or to `k` registers. -/
def Wave.writeBlock (w : Wave) (uniform : Bool) (dst lane : Nat) (bs : List Byte) : Wave :=
  (List.range ((bs.length + 3) / 4)).foldl
    (fun w j =>
      let x : Word := BitVec.ofNat 32 (ofLeBytes ((bs.drop (4 * j)).take 4))
      if uniform then w.setK (dst + j) x else w.setV (dst + j) lane x)
    w

/-- Sign-extend a sub-word value to 4 bytes (R163). -/
def extendBytes (sext : Bool) (bs : List Byte) : List Byte :=
  if bs.length < 4 then
    let neg := sext && (bs.getLastD 0).getLsbD 7
    bs ++ List.replicate (4 - bs.length) (if neg then 0xFF else 0)
  else bs

/-- The lanes to which a result of an operation goes: its own, or every lane of the group (R243). -/
def Op.writeResult (o : Op) (w : Wave) (a : LaneAcc) : Wave :=
  match a.result with
  | none => w
  | some bs =>
    if a.skip then w
    else
      match o.kind with
      | .load _ sext dst uniform .. => w.writeBlock uniform dst a.lane (extendBytes sext bs)
      | .atomic _ (some dst) .. => w.writeBlock false dst a.lane (extendBytes false bs)
      | .semTake dst | .semRead dst => w.forLanes o.lanes fun l w => w.writeBlock false dst l bs
      | _ => w

/-- The registers that an operation in flight writes at completion: in `k`, the first and how many. -/
def OpKind.writes : OpKind → Option (Bool × Nat × Nat)
  | .load n _ dst u .. => some (u, dst, (n + 3) / 4)
  | .atomic op (some dst) .. => some (false, dst, (atomSize op.toNat + 3) / 4)
  | .semTake dst | .semRead dst => some (false, dst, 1)
  | .zmovV _ _ b => some (false, 16 * b, 16)
  | .launch dst _ _ => some (false, dst, 2)
  | _ => none

/-- A word of a wave's registers: of a lane, or with lane 32 of the `k` registers. -/
def Wave.word (w : Wave) (p : Nat × Nat) : Word := if p.2 = 32 then w.kreg p.1 else w.vreg p.1 p.2
/-- Write such a word. -/
def Wave.setWord (w : Wave) (p : Nat × Nat) (x : Word) : Wave := if p.2 = 32 then w.setK p.1 x else w.setV p.1 p.2 x

/-- The results of an operation written to its wave at its completion, but for the words that arrived early (R175). -/
def Op.deliver (o : Op) (f : Wave → Wave) (w : Wave) : Wave := o.early.foldl (fun v p => v.setWord p (w.word p)) (f w)

/-- A word of the results of an operation arrives before its completion (R175). -/
def State.arriveEarly (s : State) (o : Op) (f : Wave → Wave) (lane word : Nat) : State :=
  match o.kind.writes with
  | some (uni, d, n) =>
    let p : Nat × Nat := (d + word, if uni then 32 else lane)
    if n ≤ word || !(uni || o.lanes.getLsbD lane) || o.early.contains p then s
    else (s.modAgent o.agent fun w => w.setWord p ((f w).word p)).modOp o.id fun o => { o with early := o.early ++ [p] }
  | none => s

/-- The results of the accesses of an operation that have been performed. -/
def Op.results (o : Op) (w : Wave) : Wave := o.accs.foldl (fun w a => o.writeResult w a) w

/-- Every access of an operation has been performed or refused. -/
def Op.settled (o : Op) : Bool := o.accs.all fun a => a.result.isSome || a.skip

/-- An operation whose end writes registers: a load, an atomic with a destination, or a semaphore read (R224, R231, R243). -/
def OpKind.returns : OpKind → Bool
  | .load .. | .atomic _ (some _) .. | .semTake _ | .semRead _ => true
  | _ => false

/-- The lines that an `LD.LAST` read are discarded, once every lane has read (R121, R227). -/
def State.discardRead (s : State) (o : Op) : State :=
  match o.kind with
  | .load _ _ _ _ true _ _ =>
    if 320 ≤ o.core then s
    else
      ((o.accs.filterMap fun a => match a.place with | .mem pa _ _ => if a.skip then none else some (pa / 256 * 256) | _ => none).eraseDups).foldl
        (fun s a => s.discardLine o.core a) s
  | _ => s

/-- A counted load, atomic or semaphore read completes (R175, R224): the accesses left are performed in ascending lane order, each
destination is written, and the flag falls. -/
def State.completeLoad (s : State) (id : Nat) : Option State :=
  let s := s.performOp id
  match s.op? id with
  | none => none
  | some o =>
    if o.kind.returns && o.settled then
      some (((((s.dropOp id).discardRead o).modAgent o.agent (o.deliver o.results)).dropFlags o.flags).pendOp o)
    else none

/-- A new operation joins those in flight with the next number. -/
def State.addOp (s : State) (f : Nat → Op) : State :=
  let o := f s.opCtr
  { (s.raiseFlags o.flags) with ops := (s.raiseFlags o.flags).ops ++ [o], opCtr := s.opCtr + 1 }

end Sys2Proof.Machine
end

