-- ==== Sys2Proof/Machine/Lifecycle.lean ====
section
/-! DEFINITION. What hardware does inside a step after an instruction or an event: `JOIN` and `BAR` releases (R43, R238), rendezvous
that an exit completes (R47, R384), wave and team exit (R29, R36), grid retirement with its completion record (R33, R280), and the
forming of issue groups (R37 to R39). -/

namespace Sys2Proof.Machine

open Sys2Proof

/-- Threads run on at the instruction after the 32-bit instruction at which they wait. -/
def Thread.resumeAfter (t : Thread) : Thread := { t.advance 4 with stat := .running, kind := 0, arg := 0 }

/-- The threads of a wave that wait with a kind at the object that `arg` numbers. -/
def Wave.waitingAt (w : Wave) (kind : Nat) (arg : Nat) : LaneMask :=
  maskOf fun l => decide ((w.th l).stat = .waiting) && decide ((w.th l).kind.toNat = kind) && decide ((w.th l).arg = arg)

/-- The lanes that wait with one of several kinds. -/
def Wave.waitingFor (w : Wave) (ks : List Nat) : LaneMask :=
  maskOf fun l => decide ((w.th l).stat = .waiting) && ks.contains (w.th l).kind.toNat

/-- The release test of reconvergence barrier j (R43). -/
def Wave.joinRelease (w : Wave) (j : Nat) : Wave :=
  let m := w.mask j
  if m ≠ 0#32 && m &&& w.live &&& ~~~w.waitingAt 1 j = 0#32 then
    (w.modLanes (w.waitingAt 1 j) Thread.resumeAfter).setMask j 0
  else w

/-- The release tests of all eight barriers. -/
def Wave.joinReleases (w : Wave) : Wave := (List.range 8).foldl joinRelease w

/-- A wave has arrived at team barrier b when every thread that has not exited waits at a `BAR` naming b (R238). -/
def Wave.atBar (w : Wave) (b : Nat) : Bool := w.live ≠ 0#32 && w.live = w.waitingAt 2 b

/-- The wave has exited (R29): all its threads have, and every flag counter is 0. -/
def Wave.exited (w : Wave) : Bool := w.live = 0#32 && w.flags.isEmpty

/-- Arrivals at team barrier b, and its completion when every wave that has not exited has arrived (R238). -/
def Team.barStep (t : Team) (b : Nat) : Team :=
  let arr : LaneMask := (List.range t.waves.length).foldl
    (fun m i => match t.waves[i]? with | some w => if w.atBar b then m ||| laneBit i else m | none => m) (t.bars.get 0 b)
  if arr ≠ 0#32 &&
      (List.range t.waves.length).all (fun i => arr.getLsbD i || (match t.waves[i]? with | some w => w.exited | none => true)) then
    { t with bars := t.bars.put 0 b 0, waves := t.waves.map fun w => w.modLanes (w.waitingAt 2 b) Thread.resumeAfter }
  else { t with bars := t.bars.put 0 b arr }

/-- The handler's threads that have not exited all wait at the `ERET`: the last of the others exited (R384). -/
def Wave.eretReady (w : Wave) : Bool :=
  let e := w.emask &&& w.live
  w.tm && e ≠ 0#32 && e &&& ~~~(maskOf fun l => decide ((w.th l).stat = .waiting) && decide ((w.th l).kind.toNat = 9)) = 0#32

/-- Every listed wave of a gang has arrived and waits at the latch, or has exited entirely: none of them tries the instruction (R47). -/
def Team.gangReady (t : Team) (g : Gang) : Bool :=
  g.latch.isSome &&
    g.list.all fun i =>
      match t.waves[i]? with
      | some w => w.live = 0#32 || (g.arrived.getLsbD i && w.live = w.waitingAt 7 0)
      | none => true

/-- A rendezvous that an exit completes: one wave that waits at the latch runs again and issues for the gang. -/
def Team.wakeGangs (t : Team) : Team :=
  t.gangs.foldl
    (fun t (_, g) =>
      if t.gangReady g then
        match g.list.find? fun i => decide (((t.waves[i]?).map (·.live)).getD 0 ≠ 0#32) with
        | some i => { t with waves := t.waves.modify i (·.wake 7) }
        | none => t
      else t)
    t

/-- A wave of which every thread that has not exited waits at one rendezvous at which it has not arrived tries its instruction again:
the last of its other threads exited (R47, R262). -/
def Team.wakeLatches (t : Team) : Team :=
  { t with waves := t.waves.mapIdx fun i w =>
      let one := (lanesOf w.live).all fun l => decide ((w.th l).pc = (w.th (lowLane w.live)).pc)
      if w.live ≠ 0#32 && w.live = w.waitingAt 7 0 && one && !(t.gangs.any fun g => g.2.arrived.getLsbD i) then w.wake 7 else w }

/-- A wave exits when all its threads have exited and every flag counter is 0; its `PERF` request lapses (R29, R307). -/
def Wave.exitTest (w : Wave) : Wave :=
  if !w.done && w.exited then { w with done := true, perf := 0 } else w

/-- The releases inside one team (R43, R238, R384), and the exits of its waves. -/
def Team.settle (t : Team) : Team :=
  let t := { t with waves := t.waves.map fun w => (let w := w.joinReleases; if w.eretReady then w.wake 9 else w).exitTest }
  let t := if t.bars.isEmpty && t.waves.all (fun w => w.lanesIn .waiting = 0#32) then t else (List.range 16).foldl Team.barStep t
  t.wakeLatches.wakeGangs

/-- The archipelago of a team of a grid, and the numbers of its members (R35). -/
def Grid.members (g : Grid) (n : Nat) : List Nat :=
  let a := n / g.arch * g.arch
  (List.range g.arch).map (a + ·) |>.filter (· < g.gx * g.gy * g.gz)

/-! The write-back of context lines (R50, R57, R75). -/

/-- The 128-byte lines of a wave block. -/
def waveLines (nr : Nat) : Nat := 16 + nr + 128

/-- Where a wave stands in its context segment: its WaveBase, and the kernel's count of registers. -/
def State.waveSpan (s : State) (k : WaveKey) : Nat × Nat := ((s.whoBase (.wave k)).toNat, (s.descOf (.wave k)).nregs)

/-- The frame of a held line, as recorded at its fill (R75). -/
def Wave.linePa (w : Wave) (line : Nat) : Option Nat :=
  let f := w.frames.get 0 line
  if f = 0 then none else some (f - 1)

/-- A line is dirty (R75). -/
def Wave.lineDirty (w : Wave) (nr line : Nat) : Bool := (w.unsynced nr line).any id

/-- Memory has a line as the register cache has it. -/
def Wave.sync (w : Wave) (nr line : Nat) : Wave := { w with synced := w.synced.ins line ((w.lineBytes nr line).map fun b => b.toNat + 1) }

/-- The dirty bit of a context page is set, where its leaf permits writes (R367). -/
def State.markContext (s : State) (ctx core level : Nat) (va : Nat) : State := (s.translate ctx core level .write (BitVec.ofNat 64 va)).2

/-- Where a line is written back: to the frame recorded at its fill; a line never filled, or one that is not held, is translated now. -/
def State.lineTarget (s : State) (k : WaveKey) (line : Nat) : Option (Nat × State) :=
  match (s.wave? k).bind (·.linePa line) with
  | some pa => some (pa, s)
  | none =>
    let a : Agent := .wave k
    match s.translate k.team.grid.ctx (s.coreOf a) (s.level a) .read (BitVec.ofNat 64 ((s.waveSpan k).1 + 128 * line)) with
    | (.ok (.mem pa _ row) _ _, s) => some (frameOf pa row, s.markContext k.team.grid.ctx (s.coreOf a) (s.level a) ((s.waveSpan k).1 + 128 * line))
    | _ => none

/-- Write a dirty line back (R75, R393); of one that is not held, the bytes that were written since it was dropped. -/
def State.writeLine (s : State) (k : WaveKey) (line : Nat) : State :=
  let nr := (s.waveSpan k).2
  match s.wave? k with
  | none => s
  | some w =>
    if !w.lineDirty nr line then s
    else
      match s.lineTarget k line with
      | none => s
      | some (f, s) =>
        let pa := frameAddr f
        let bs := w.lineBytes nr line
        let s :=
          if w.absent.contains line then
            (List.range 128).foldl
              (fun s j => if (w.unsynced nr line)[j]?.getD false then s.cacheWrite f j [bs[j]?.getD 0] else s) s
          else
            let s := s.cacheWrite f 0 bs
            let codes := (List.range 2).foldl
              (fun p h => let c := w.poison.get 0 (2 * line + h); if c = 0 then p else p.put 0 (pa / 64 + h) c) s.poison
            { s with poison := codes }
        s.modAgent (.wave k) fun w =>
          { w.sync nr line with frames := if w.absent.contains line then w.frames else w.frames.put 0 line (f + 1) }

/-- Write every dirty line of a wave back (R75). -/
def State.flushWave (s : State) (k : WaveKey) : State :=
  let s := s.modAgent (.wave k) fun w => { w with threads := w.threads.mapIdx (fun l (t : Thread) =>
    if w.edited then t else { t with grp := w.grpByte l }) }
  (List.range (waveLines (s.waveSpan k).2)).foldl (fun s l => s.writeLine k l) s

/-- Write the `s` words of a team back, if they are dirty, to the page recorded for its team block; with `inv` they are dropped. -/
def State.flushS (s : State) (k : TeamKey) (inv : Bool) : State :=
  match s.team? k with
  | none => s
  | some t =>
    if t.sDrop.isSome then s
    else
      let target : Option (Nat × State) :=
        match t.sFrame, s.grid? k.grid with
        | some pa, _ => some (pa, s)
        | none, some g =>
          match s.translate k.grid.ctx t.core (if s.sys k.grid.ctx then 1 else 0) .write (g.teamBase t.slot) with
          | (.ok (.mem pa _ row) _ _, s) => some (frameOf pa row, s)
          | _ => none
        | none, none => none
      match target with
      | none => s
      | some (f, s) =>
        (if t.sSync = some t.s then s else s.cacheWrite f 0 ((List.range 128).map (sByte t.s))).modTeam k fun t =>
          if inv then
            { t with
              sDrop := some t.s, sSync := none, sFrame := none
              waves := t.waves.map fun (w : Wave) => { w with absent := if w.absent.contains sLine then w.absent else w.absent ++ [sLine] } }
          else { t with sSync := some t.s, sFrame := some f }

/-- A team's lines go to its slot as it exits (R431): each byte of the slot then holds the last value stored to it or written back
(DEDUCED, log entry 31). -/
def State.flushTeam (s : State) (k : TeamKey) (t : Team) : State :=
  ((List.range t.waves.length).foldl (fun s i => s.flushWave ⟨k, i⟩) s).flushS k false

/-- A team exits (R29, R36, R56): its sticky bits join the grid's summary, its slot and grants return, an archipelago's lagoon is
held until every member has exited. -/
def State.teamExit (s : State) (k : TeamKey) (t : Team) : State :=
  match s.grid? k.grid with
  | none => s
  | some g =>
    let g' := { g with
      summary := t.waves.foldl (fun m w => m ||| w.sticky) g.summary, exited := g.exited + 1, used := g.used.erase t.slot }
    let s := (s.forceTeam k).flushTeam k t
    let s := { s.putGrid k.grid g' with teams := assocDel s.teams k }
    if g.arch = 1 then s
    else
      let s := { s with
        heldLag := s.heldLag ++ [(k, { core := t.core, len := g.desc.lagoon, bytes := t.lagoon, poison := t.lagPoison })] }
      let ms := g.members k.num
      let gone := ms.all fun n => s.heldLag.any fun (x, _) => x = ⟨k.grid, n⟩
      if gone then { s with heldLag := s.heldLag.filter fun (x, _) => !(x.grid = k.grid && ms.contains x.num) } else s

/-- A team of which every wave has exited, with no cause pending. -/
def Team.finished (t : Team) : Bool := t.waves.all (·.done) && !t.waves.isEmpty

/-- A pending cause in a wave that has exited halts its context (R380, R390). -/
def State.haltExited (s : State) (k : TeamKey) (t : Team) : State :=
  (List.range t.waves.length).foldl
    (fun s i =>
      match t.waves[i]? with
      | some w =>
        if w.done && w.pend ≠ 0 then
          let code := ((List.range 32).find? fun c => w.pend.getLsbD c).getD 0
          s.raiseHalt k.grid.ctx (s.haltHeader (.wave ⟨k, i⟩) code 0 (if w.pendEng.getLsbD code then 1 else 0) 0 0)
        else s
      | none => s)
    s

/-- Team exits of the contexts that have not halted. -/
def State.teamExits (s : State) : State :=
  s.teams.foldl
    (fun s (k, _) =>
      match s.team? k with
      | some t =>
        if s.halted k.grid.ctx then s
        else if t.finished then
          let s := s.haltExited k t
          if s.halted k.grid.ctx then s else s.teamExit k t
        else s
      | none => s)
    s

/-- Translate for a unit that is no lane: an engine, a queue entry, the overflow engine. -/
def State.unitXlat (s : State) (ctx core : Nat) (k : AccKind) (va : DWord) : Xlat × State :=
  s.translate ctx core (if s.sys ctx then 1 else 0) k va

/-- The entry of a command queue that is in progress has completed (R283, R390); a program that waits for a place tries again (R352). -/
def State.queueDone (s : State) (ctx q : Nat) : State :=
  let x := s.ctx ctx
  s.putCtx ctx { x with
    cp := x.cp.testWaits,
    queues := x.queues.modify q fun y =>
      { y with entries := y.entries.tail, started := false, held := none, completed := y.completed + 1, quota := false } }

/-- The address of a grid's completion record (R280). -/
def Grid.recordAddr (g : Grid) : DWord := g.segBase - BitVec.ofNat 64 (g.args.length + 32)

/-- The first 24 bytes of a completion record, with the STATUS word given (R280). -/
def State.recordBytes (s : State) (k : GridKey) (g : Grid) (summary status : Nat) : List Byte :=
  leBytes 4 summary ++ leBytes 4 status ++ leBytes 8 s.timeRef ++ leBytes 4 k.gid ++ leBytes 4 g.depth

/-- Write bytes at a virtual address for a unit of the hub die, 16 bytes at a time: done, or what stands in the way with its address. Bytes of an
object on which something waits are refused, and `BARSTORE` comes after the others are written (R122, R283); a peer or the host may refuse them or not
answer in time (R394, R395, R420), and bytes without an answer may have been written. -/
def State.unitWrite (s : State) (ctx : Nat) (va : DWord) : List (List Byte) → Except (Cause × DWord × State) State
  | [] => .ok s
  | bs :: rest =>
    let next := va + BitVec.ofNat 64 bs.length
    match s.unitXlat ctx 511 .write va with
    | (.ok (.mem a nc row) _ _, s) =>
      match s.hubAnswer (partOf ctx) (.mem a nc row) 1 bs.length with
      | (some c, s) =>
        let (done, s) := if c = Cause.remoteTimeout && decide (s.reachPlace (.mem a nc row) = .ok) then s.choose else (false, s)
        .error (c, va, if done then s.recordWrites a bs row else s)
      | (none, s) =>
        if s.waited (.mem a nc row) bs.length then
          match s.unitWrite ctx next rest with
          | .ok s => .error (Cause.barstore, va, s)
          | e => e
        else ((s.promoteFor 511 a).homeWrites a bs row).unitWrite ctx next rest
    | (.page, s) => .error (Cause.page, va, s)
    | (_, s) => .error (Cause.access, va, s)

/-- Every team of the grid has exited and every child has retired (R33). -/
def Grid.complete (g : Grid) : Bool := decide (g.exited = g.gx * g.gy * g.gz) && g.children.all (·.summary.isSome)

/-- A child has retired (R33, R282): its parent takes the summary, and the parent's threads that wait for children test again. -/
def State.childRetired (s : State) (p : GridKey) (gid : Nat) (summary : Word) : State :=
  let s := s.modGrid p fun x => { x with
    children := x.children.map fun (c : Child) => if c.gid = gid && c.summary.isNone then { c with summary := some summary } else c }
  { s with teams := s.teams.map (fun (t : TeamKey × Team) =>
      if t.1.grid = p then (t.1, { t.2 with waves := t.2.waves.map (·.testWaits) }) else t) }

/-- A grid retires (R33, R150, R280, R282): kernel boundary, completion record with STATUS last, its summary to the parent, its entry
free. A missing page of the record holds the retirement and reports a fault, as the command queues' unit (DESIGN CHOICE, log entry 47); any other
failure halts the context with `ACCESS` (R280). -/
def State.retireGrid (s : State) (k : GridKey) (g : Grid) : State :=
  let s := s.kernelBoundary k
  let summary := g.children.foldl (fun m c => m ||| c.summary.getD 0) g.summary
  let bs := s.recordBytes k g summary.toNat 0
  match (s.unitWrite k.ctx g.recordAddr [bs.take 16, bs.drop 16]).bind fun s => s.unitWrite k.ctx (g.recordAddr + 4) [leBytes 4 1] with
  | .error (c, va, s) =>
    if c = Cause.page then
      if g.recHeld then s
      else (s.putGrid k { g with recHeld := true }).pageFault k.ctx va 0 3 true false 511 5 0
    else s.raiseHalt k.ctx { code := Cause.access, src := 1, core := 511 }
  | .ok s =>
    let s := { s with grids := assocDel s.grids k }
    let s := s.setCtReg k.ctx 0x006 (setBits (s.ctReg k.ctx 0x006) 0 17 (bits (s.ctReg k.ctx 0x006) 0 17 - 1))
    let s := match g.parent with
      | some p => s.childRetired p k.gid summary
      | none => s
    match g.queue with
    | some q => s.queueDone k.ctx q
    | none => s

/-- Retirements, children before parents: at most 11 levels of nesting (R32, R33). A held record waits for its retry. -/
def State.retireGrids : State → Nat → State
  | s, 0 => s
  | s, n + 1 =>
    (s.grids.foldl
      (fun s (k, _) =>
        match s.grid? k with
        | some g => if g.complete && !g.recHeld && !s.halted k.ctx then s.retireGrid k g else s
        | none => s)
      s).retireGrids n

/-- Form the issue groups of every wave again (R37, R39). -/
def State.regroupAll (s : State) : State :=
  { s with
    teams := s.teams.map (fun p => (p.1, { p.2 with waves := p.2.waves.map Wave.regroup })),
    ctxs := s.ctxs.map (fun c => { c with cp := c.cp.regroup }) }

/-- What hardware does within a step after an instruction or an event: releases, exits, retirements. -/
def State.settle (s : State) : State :=
  let s : State := { s with
    teams := s.teams.map (fun p => (p.1, p.2.settle)),
    ctxs := s.ctxs.map (fun c => { c with cp := c.cp.joinReleases }) }
  s.teamExits.retireGrids 12

end Sys2Proof.Machine
end

