-- ==== Sys2Proof/Machine/Access.lean ====
section
/-! DEFINITION. The checks of memory and lagoon accesses (R36, R66 to R68, R100, R225, R229, R235, R337, R432), and the issue of loads,
stores and atomics (R45, R119, R122, R125 to R135, R224 to R234). -/

namespace Sys2Proof.Machine

open Sys2Proof

/-- What a lane asks of memory: a load, a store of bytes, an atomic, or an access to a barrier or semaphore object (R237). -/
inductive AccMode where
  | load
  | store (bs : List Byte)
  | atom (op : Nat)
  | object (wr : Bool)

/-- The permission that an access needs (R237, R370). -/
def AccMode.kind : AccMode → AccKind
  | .load => .read
  | .store _ => .write
  | .atom _ => .write
  | .object wr => if wr then .write else .read

/-- How the check of one lane ends. `drop` is a store of a command processor that has no effect (R337). -/
inductive Chk where
  | ok (p : Place)
  | drop
  | page
  | cause (c : Cause)

/-- A byte of the saved core-resident state may take a value (R110, R276, R336, R432): reserved bits, and bytes that its layout leaves unnamed,
take 0. -/
def teamByteOk (off : Nat) (x : Byte) : Bool :=
  let n := x.toNat
  if off < 0x180 then
    let b := (off - 0x80) % 32
    if b = 3 then decide (n < 64) else b < 5 || (8 ≤ b && b < 20) || n = 0
  else if off < 0x200 then
    let b := (off - 0x180) % 32
    if b = 7 then decide (n < 2)
    else if b = 14 then decide (n < 4)
    else if b = 17 then decide (n < 32)
    else b < 14 || b = 16 || n = 0
  else if off < 0x400 then (if off % 8 = 6 then decide (n < 32) else off % 8 < 6 || n = 0)
  else if off < 0x4A0 then off % 8 < 4 || n = 0
  else n = 0

/-- A level-1 store of a byte at an offset of a team slot takes a permitted value (R432). -/
def ctxValueOk (nr off : Nat) (x : Byte) : Bool :=
  if off < 128 then true
  else if off < 4096 then teamByteOk off x
  else
    let (_, o) := waveOffset nr off
    if o < 2048 then headerByteOk (o / 64) (o % 64) x else true

/-- The check of an access to context bytes, whose page is present and maps to `p` (R60, R66, R68, R337, R432). -/
def State.checkCtx (s : State) (a : Agent) (l : Nat) (mode : AccMode) (size : Nat) (k : TeamKey) (off : Nat) (p : Place) : Chk :=
  let nr := ((s.grid? k.grid).map (·.desc.nregs)).getD 8
  let offs := (List.range size).map (off + ·)
  match mode with
  | .load => .ok (.ctx (s.ctxBytes a l k off size p) (s.ctxPoison k off size p))
  | .store bs =>
    let dest : Chk := .ok (.ctx [])
    if s.level a = 0 then (if offs.all fun o => storeAllowed0 a k nr o then dest else .cause Cause.access)
    else if !(offs.all fun o => s.storeAllowed1 a k o) then
      (match a with | .cp _ => .drop | .wave _ => .cause Cause.access)
    else if (List.range size).all fun j => ctxValueOk nr (off + j) (bs[j]?.getD 0) then dest
    else .cause Cause.access
  | _ => .cause Cause.access

/-- An atomic on host memory accepts additions, exchanges and compare-and-swaps of words (R235). -/
def hostAtomic (op : Nat) : Bool := op = 0x00 || op = 0x01 || (0x11 ≤ op && op ≤ 0x14)

/-- The check of one lane's memory access, in the order of R225. An object on a device-register address raises `ACCESS`, as R235 has it of atomics
(DESIGN CHOICE, log entry 45). -/
def State.checkLane (s : State) (a : Agent) (l : Nat) (mode : AccMode) (size : Nat) (va : DWord) : Chk × State :=
  if va.toNat / 2 ^ 57 ≠ 0 then (.cause Cause.access, s)
  else if va.toNat % size ≠ 0 then (.cause Cause.align, s)
  else
    match s.translate (ctxOf a) (s.coreOf a) (s.level a) mode.kind va with
    | (.page, s) => (.page, s)
    | (.access, s) => (.cause Cause.access, s)
    | (.ok p _ _, s) =>
      match s.ctxLocate (ctxOf a) va.toNat with
      | some (k, off) =>
        let s := match p with | .mem pa _ _ => s.cacheReach pa | _ => s
        let s := s.reachS a k off p
        (s.checkCtx a l mode size k off p, s)
      | none =>
        match mode, p with
        | .atom _, .dev _ | .object _, .dev _ => (.cause Cause.access, s)
        | .atom op, .mem pa _ _ =>
          if hostBase ≤ pa && pa < peerBase && !hostAtomic op then (.cause Cause.access, s) else (.ok p, s)
        | _, _ => (.ok p, s)

/-- The checks of a group (R225): the lowest cause other than `PAGE`, the lanes that found `PAGE`, and the places of the others. -/
structure Checked where
  cause : Option Cause := none
  paged : List (Nat × DWord) := []
  oks   : List (Nat × Place) := []
  drop  : Bool := false

/-- Check every lane of a request list: lane, address and what it asks. -/
def State.checkLanes (s : State) (a : Agent) (size : Nat) (reqs : List (Nat × DWord × AccMode)) : Checked × State :=
  reqs.foldl
    (fun (p : Checked × State) r =>
      let (l, va, m) := r
      match p.2.checkLane a l m size va with
      | (.ok q, s) => ({ p.1 with oks := p.1.oks ++ [(l, q)] }, s)
      | (.drop, s) => ({ p.1 with drop := true }, s)
      | (.page, s) => ({ p.1 with paged := p.1.paged ++ [(l, va)] }, s)
      | (.cause c, s) => ({ p.1 with cause := lowerCause c p.1.cause }, s))
    ({}, s)

/-- Park the lanes that found `PAGE`: one fault record for each 4 KiB page (DEDUCED, log entry 21). A uniform access parks the whole group. -/
def State.parkPaged (s : State) (x : Issuer) (uni : Bool) (paged : List (Nat × DWord)) (wr atom : Bool) : State :=
  let pages := (paged.map fun q => q.2.toNat / 4096).eraseDups
  pages.foldl
    (fun s n =>
      let ls := paged.filter fun q => q.2.toNat / 4096 = n
      let m := if uni then x.e else ls.foldl (fun m q => m ||| laneBit q.1) 0
      s.parkPage x 0 m ((ls.headD (0, 0)).2) wr atom)
    s

/-- A checked memory access of a group (R45, R225): a cause with no effect, or the lanes that found `PAGE` park and the others
perform it. -/
def memAccess (x : Issuer) (s : State) (uni wr atom : Bool) (size : Nat) (reqs : List (Nat × DWord × AccMode))
    (go : State → List (Nat × Place) → Effect) : Effect :=
  let (c, s) := s.checkLanes x.a size reqs
  match c.cause with
  | some k => .raise k s
  | none =>
    let s := if c.drop then s.noTarget (partOf x.ctx) else s
    if c.paged.isEmpty then (if c.oks.isEmpty then .done s else go s c.oks)
    else
      let s := s.parkPaged x uni c.paged wr atom
      if c.oks.isEmpty then .moved s else go s c.oks

/-- The base address of a lane (R161). -/
def Issuer.base (x : Issuer) (b : BitVec 6) (l : Nat) : DWord :=
  if b.toNat < 32 then x.w.vpair (2 * b.toNat) l else x.w.kpair (2 * (b.toNat - 32))

/-- The words of a data block as little-endian bytes. -/
def blockBytes (r : Reader) (first size : Nat) : List Byte :=
  ((List.range ((size + 3) / 4)).flatMap fun j => leBytes 4 (r (first + j)).toNat).take size

/-- The access size of a type (R163). -/
def typeSize (t : BitVec 3) : Nat :=
  match t.toNat with
  | 0 | 5 => 1
  | 1 | 6 => 2
  | 2 => 4
  | 3 => 8
  | _ => 16

/-- The scope index of an ordering field, whether it acquires and releases, and whether its access is strong (R125, R164). Value 0 is plain, or on
an atomic relaxed at `.dev`. -/
structure Sem where
  scope : Nat
  acq : Bool
  rel : Bool
  strong : Bool
  deriving DecidableEq, Repr

/-- Decode an ordering field; `dflt` is the scope of value 0, and `.dev` there that of an instruction that is never plain. -/
def semOf (v dflt : Nat) : Sem :=
  if v = 0 then ⟨dflt, false, false, dflt = 3⟩
  else if v < 6 then ⟨v - 1, false, false, true⟩
  else if v < 11 then ⟨v - 6, true, false, true⟩
  else if v < 16 then ⟨v - 11, false, true, true⟩
  else ⟨v - 16, true, true, true⟩

/-- The flag on which the instruction counts, as the issuer holds it (R174). -/
def Issuer.flags (x : Issuer) (i : Instr) : List (Agent × Nat) :=
  match flagOf i x.th.chdr with
  | some n => [(x.a, n)]
  | none => []

/-- The lanes of a list of places. -/
def lanesOfPlaces (ps : List (Nat × Place)) : LaneMask := ps.foldl (fun m p => m ||| laneBit p.1) 0

/-- What a release orders before a write (R128, R131, R132): every earlier access of the wave is performed; at a scope wider than
`.core` the dirty bytes are written back first. -/
def State.releaseBefore (s : State) (x : Issuer) (m : Sem) : State :=
  if m.rel then
    let s := s.forceAll x.a
    if 2 ≤ m.scope then s.release (s.coreOf x.a) 2 none else s
  else s

/-- An instruction that comes after every earlier access of its wave (R129, R131, R249). -/
def performAll (x : Issuer) (s : State) (go : State → Effect) : Effect := go (s.forceAll x.a)

/-- An instruction that is a release of every earlier access of its wave, at a scope wider than `.core` (R132, R147). -/
def releaseAll (x : Issuer) (s : State) (scope : Nat) (go : State → Effect) : Effect :=
  go ((s.forceAll x.a).release (s.coreOf x.a) scope none)

/-- The lanes of a group whose write is a release at `.core` (R128, R129): as written, or as a strong write after a `FENCE.rel` at `.core`. -/
def Issuer.coreReleases (x : Issuer) (m : Sem) : LaneMask :=
  if m.rel && m.scope = 1 then x.e else if m.strong then x.e &&& x.w.relFence else 0

/-- A release of lanes through a place, after their write (R132): a `.core` release of one of them is recorded. -/
def State.recordRelease (s : State) (x : Issuer) (m : Sem) (lanes : LaneMask) (p : Place) : State :=
  if x.coreReleases m &&& lanes ≠ 0#32 then
    match p with
    | .mem pa _ _ => s.release (s.coreOf x.a) 1 (some pa)
    | .lagoon .. => s.release (s.coreOf x.a) 1 (some lagoonRecord)
    | _ => s
  else s

/-- Put an operation of lane accesses in flight. -/
def State.launchOp (s : State) (x : Issuer) (i : Instr) (e : LaneMask) (kind : OpKind) (accs : List LaneAcc) : State :=
  s.addOp fun id =>
    { id := id, agent := x.a, pc := x.pc, core := s.coreOf x.a, lanes := e, flags := x.flags i, kind := kind, accs := accs,
      who := s.whoBase x.a, quarter := x.w.quarter }

/-! Loads. -/

/-- An access to context bytes, by lane and address, of its own thread or of its wave's `k` words that an operation in flight of the wave,
of a number below `before`, is still to write (R64). -/
def State.ctxPending (s : State) (a : Agent) (before size : Nat) (reqs : List (Nat × DWord)) : Bool :=
  match a with
  | .cp _ => false
  | .wave wk =>
    let mine := s.ops.filter fun o => o.agent = a && decide (o.id < before) && o.kind.writes.isSome
    !mine.isEmpty &&
      reqs.any fun (l, va) =>
        match s.ctxLocate (ctxOf a) va.toNat with
        | none => false
        | some (k, off) =>
          let nr := (s.descOf a).nregs
          let (wi, o) := waveOffset nr off
          k = wk.team && 4096 ≤ off && wi = wk.idx &&
            (List.range ((size + 3) / 4)).any fun j =>
              let o := o + 4 * j
              mine.any fun op =>
                match op.kind.writes with
                | some (true, d, n) =>
                  o < 512 && 32 ≤ o % 64 && (let r := 8 * (o / 64) + (o % 64 - 32) / 4; d ≤ r && r < d + n)
                | some (false, d, n) =>
                  2048 ≤ o && o < 2048 + 128 * nr && o % 128 / 4 = l && op.lanes.getLsbD l &&
                    (let r := (o - 2048) / 128; d ≤ r && r < d + n)
                | none => false

/-- A load or store meets such an operation, a uniform one for any thread of its group: hardware holds the load, and a store comes after the
earlier write as well (R64). -/
def State.ctxHazard (s : State) (x : Issuer) (uni : Bool) (size : Nat) (reqs : List (Nat × DWord)) : Bool :=
  s.ctxPending x.a s.opCtr size (if uni then reqs.flatMap fun r => x.lanes.map fun l => (l, r.2) else reqs)

/-- Issue a counted load (R224 to R228): its lanes' accesses are in flight, and the flag rises. -/
def issueLoad (i : Instr) (uni last sext : Bool) (dst size : Nat) (m : Sem) (reqs : List (Nat × DWord × AccMode))
    (x : Issuer) (s : State) : Effect :=
  if s.ctxHazard x uni size (reqs.map fun r => (r.1, r.2.1)) then .wait 11 s
  else memAccess x s uni false false size reqs fun s ps =>
    let e := if uni then x.e else lanesOfPlaces ps
    .done ((s.forceBefore x.a e uni size ps).launchOp x i e (.load size sext dst uni last (2 ≤ m.scope) m.acq)
      (ps.map fun p => { lane := p.1, place := p.2 }))

/-! Stores. -/

/-- A store that an issuer begins, for the L1 that takes its bytes. -/
def Issuer.storeId (x : Issuer) (s : State) : StoreId := { agent := x.a, num := s.opCtr, who := s.whoBase x.a, quarter := x.w.quarter }

/-- Store one lane's bytes (R105, R119, R122, R368, R369): refused on an object with waiters; context bytes are written as registers. -/
def State.storeLane (s : State) (x : Issuer) (b : StoreId) (va : DWord) (p : Place) (bs : List Byte) : State :=
  if s.waited p bs.length then s.pendCause x.a Cause.barstore 0
  else
    match p with
    | .mem pa nc row => s.writeBytes (s.coreOf x.a) b pa bs nc row
    | .lagoon t off => (s.reachLagoon (s.coreOf x.a) t).lagoonWrite t off bs
    | .ctx .. =>
      match s.ctxLocate x.ctx va.toNat with
      | some (k, off) => ((List.range bs.length).foldl (fun s j => s.ctxStore x.a k (off + j) (bs[j]?.getD 0)) s)
      | none => s
    | .dev a => s.windowStore (s.regAgent x.a) a bs

/-- A store of a core to a peer module or to host memory that no L1 holds is in flight (R369, R394, R419): the hub die has no L1. -/
def Place.remoteStore (core : Nat) : Place → Bool
  | .mem pa nc row => decide (hostBase ≤ pa) && (nc || row || decide (320 ≤ core))
  | _ => false

/-- Bring a place's written bytes home (R132): a release wider than `.core` makes its own write visible. -/
def State.bringHome (s : State) (x : Issuer) (p : Place) (n : Nat) : State :=
  match p with
  | .mem pa _ _ => (s.drainAll (s.coreOf x.a)).writeBackAll (s.coreOf x.a) ((List.range n).map (pa + ·))
  | _ => s

/-- The granules that a group's stores wrote whole lose their poison (R393). -/
def State.storesWhole (s : State) (c : Nat) (ps : List (Place × Nat)) : State :=
  let s := s.wroteWhole c (ps.filterMap fun q => match q.1 with | .mem pa _ _ => some (pa, q.2) | _ => none)
  s.lagoonWhole (ps.filterMap fun q => match q.1 with | .lagoon t off => some (t, off, q.2) | _ => none)

/-- Perform the stores of a group, in ascending lane order, so that the highest lane's byte stands (R226); those that are in flight to a peer
or the host form one operation. The store takes the next number. A uniform one is of every thread of its group. -/
def State.storeLanes (s : State) (x : Issuer) (i : Instr) (uni : Bool) (m : Sem) (ps : List (Nat × DWord × Place × List Byte)) : State :=
  let b := x.storeId s
  let of (l : Nat) : LaneMask := if uni then x.e else laneBit l
  let c := s.coreOf x.a
  let s : State := { s with opCtr := s.opCtr + 1 }
  let away := ps.filter fun q => q.2.2.1.remoteStore c
  let here := ps.filter fun q => !q.2.2.1.remoteStore c
  let s := here.foldl
    (fun s (l, va, p, bs) =>
      let s := (s.storeLane x b va p bs).recordRelease x m (of l) p
      if m.rel && decide (2 ≤ m.scope) then s.bringHome x p bs.length else s)
    s
  let s := s.storesWhole (s.coreOf x.a) (here.map fun q => (q.2.2.1, q.2.2.2.length))
  match away with
  | [] => s
  | (_, _, p, bs) :: _ =>
    (away.foldl (fun s (l, _, p, _) => s.recordRelease x m (of l) p) s).launchOp x i (away.foldl (fun e q => e ||| laneBit q.1) 0) (.store bs.length p.row)
      (away.map fun (l, _, p, bs) =>
        { lane := l, place := p, operand := BitVec.ofNat 64 (ofLeBytes (bs.take 8)), compare := BitVec.ofNat 64 (ofLeBytes (bs.drop 8)) })

/-- Issue a store (R226, R228). -/
def issueStore (i : Instr) (uni : Bool) (size : Nat) (m : Sem) (reqs : List (Nat × DWord × List Byte)) (x : Issuer) (s : State) : Effect :=
  if s.ctxHazard x uni size (reqs.map fun r => (r.1, r.2.1)) then .wait 11 s
  else memAccess x s uni true false size (reqs.map fun (l, va, bs) => (l, va, .store bs)) fun s ps =>
    let e := if uni then x.e else lanesOfPlaces ps
    let s := (s.forceBefore x.a e uni size ps).releaseBefore x m
    .done (s.storeLanes x i uni m (reqs.filterMap fun (l, va, bs) => (ps.find? fun p => p.1 = l).map fun p => (l, va, p.2, bs)))

/-! Lagoon accesses. -/

/-- The team, the archipelago position and the byte offset that a lagoon address word names (R36, R229), checked in order. -/
def State.lagoonAddr (s : State) (k : WaveKey) (word : Word) (add size : Nat) : Except Cause (TeamKey × Nat) :=
  let g := (s.grid? k.team.grid).getD {}
  let rem := word.getLsbD 20
  let pos := bits word 18 2
  let off := bits word 0 18 + add
  if bits word 21 11 ≠ 0 then .error Cause.access
  else if rem && (g.members k.team.num).length ≤ pos then .error Cause.resRange
  else if off % size ≠ 0 then .error Cause.align
  else if g.desc.lagoon < off + size then .error Cause.access
  else .ok (if rem then ⟨k.team.grid, k.team.num / g.arch * g.arch + pos⟩ else k.team, off)

/-- The places of a group's lagoon accesses, or the lowest cause among its lanes (R229). -/
def State.lagoonPlaces (s : State) (x : Issuer) (size : Nat) (reqs : List (Nat × Word × Nat)) : Except Cause (List (Nat × Place)) :=
  match x.a with
  | .cp _ => .error Cause.illegal
  | .wave k =>
    let rs := reqs.map fun (l, w, add) => (l, s.lagoonAddr k w add size)
    let worst := rs.foldl (fun c r => match r.2 with | .error d => lowerCause d c | .ok _ => c) none
    match worst with
    | some c => .error c
    | none => .ok (rs.filterMap fun r => match r.2 with | .ok (t, off) => some (r.1, .lagoon t off) | .error _ => none)

/-- The scope at which a lagoon access acts (R229): `.core` in the own lagoon, `.clus` in another member's. -/
def lagoonSem (x : Issuer) (m : Sem) (ps : List (Nat × Place)) : Sem :=
  let own := match x.a with
    | .wave k => ps.all fun p => match p.2 with | .lagoon t _ => t = k.team | _ => true
    | .cp _ => true
  { m with scope := if own then 1 else 2 }

/-! Atomics. -/

/-- The operand and the compare value or random word of an atomic's data block (R232). -/
def atomOperands (op : Nat) (r : Reader) (d : Nat) : DWord × DWord :=
  let z (w : Word) : DWord := w.setWidth 64
  match op with
  | 0x03 => (BitVec.ofNat 64 (bits (r d) 0 16), 0)
  | 0x04 => (BitVec.ofNat 64 (bits (r d) 0 16), z (r (d + 1)))
  | 0x13 => (z (r (d + 1)), z (r d))
  | 0x14 => (r.pair (d + 2), r.pair d)
  | 0x01 | 0x0E | 0x0F | 0x10 | 0x12 => (r.pair d, 0)
  | _ => (z (r d), 0)

/-- The accesses of an atomic's lanes. -/
def atomAccs (x : Issuer) (op d : Nat) (ps : List (Nat × Place)) : List LaneAcc :=
  ps.map fun p =>
    let o := atomOperands op (x.w.reader p.1) d
    { lane := p.1, place := p.2, operand := o.1, compare := o.2 }

/-- The place lies on a page that no L1 holds. -/
def Place.uncached : Place → Bool
  | .mem _ nc _ => nc
  | _ => false

/-- Put an atomic in flight after what its ordering puts before it (R128, R132, R143). The `.core` release of one that is performed at its home
point is recorded at once. -/
def issueAtom (i : Instr) (o : BitVec 5) (dst : Option Nat) (m : Sem) (home : Bool) (d : Nat) (x : Issuer) (s : State)
    (ps : List (Nat × Place)) : Effect :=
  let e := lanesOfPlaces ps
  let s := (s.forceBefore x.a e false (atomSize o.toNat) ps).releaseBefore x m
  let s := ps.foldl (fun s p => if dst.isNone || home || p.2.uncached then s.recordRelease x m (laneBit p.1) p.2 else s) s
  .done (s.launchOp x i e (.atomic o dst home m.acq (x.coreReleases m ≠ 0)) (atomAccs x o.toNat d ps))

end Sys2Proof.Machine
end

