-- ==== Sys2Proof/Machine/Objects.lean ====
section
/-! DEFINITION. Barrier and semaphore objects at their home points, and their waiters (R122, R237 to R244). -/

namespace Sys2Proof.Machine

open Sys2Proof

/-- The 16 bytes of an object at its home point. -/
def State.objBytes (s : State) : ObjAddr → List Byte
  | .mem a => s.homeBytes a 16
  | .lagoon t o => s.lagoonRead t o 16

/-- A word of an object. -/
def State.objWord (s : State) (o : ObjAddr) (j : Nat) : Word := BitVec.ofNat 32 (ofLeBytes (((s.objBytes o).drop (4 * j)).take 4))

/-- Write a word of an object at its home point, through to DRAM on a ROW page (R105, R368). -/
def State.setObjWord (s : State) (o : ObjAddr) (row : Bool) (j : Nat) (v : Word) : State :=
  match o with
  | .mem a => s.homeWrites (a + 4 * j) (leBytes 4 v.toNat) row
  | .lagoon t off => s.lagoonWrite t (off + 4 * j) (leBytes 4 v.toNat)

/-- A waiter runs on with a value (R240, R243, R283): its threads take it in the register that their `arg` names and go past their
instruction, with an acquire; a queue entry completes. -/
def State.releaseWaiter (s : State) (w : Waiter) (v : Word) : State :=
  match w.queue with
  | some q => s.queueDone (ctxOf w.agent) q
  | none =>
    let s := s.modAgent w.agent fun x =>
      ((x.forLanes w.lanes fun l x => x.setV (x.th l).arg l v).rewritten w.lanes ((lanesOf w.lanes).map fun l => 16 + (x.th l).arg)).modLanes
        w.lanes Thread.resumeAfter
    s.acquire (s.coreOf w.agent) w.scope

/-- The semaphore test: VALUE has reached v (R243). -/
def semPasses (value v : Word) : Bool := decide (0 ≤ (value - v).toInt)

/-- Release the waiters of an object that a test picks. -/
def State.releaseWaiters (s : State) (o : ObjAddr) (p : Waiter → Bool) (v : Word) : State :=
  let go := s.waiters.filter fun w => w.obj = o && p w
  go.foldl (fun s w => s.releaseWaiter w v) { s with waiters := s.waiters.filter fun w => !(w.obj = o && p w) }

/-- `Add` of a byte-counting barrier (R240): at most one phase completes, and every thread that waits on the object runs on. -/
def State.objAdd (s : State) (o : ObjAddr) (row : Bool) (x : Word) : State :=
  let c := s.objWord o 1 + x
  let target := s.objWord o 0
  if target.toNat ≤ c.toNat then
    let ph := s.objWord o 2 + 1
    ((s.setObjWord o row 1 (c - target)).setObjWord o row 2 ph).releaseWaiters o (·.phase) ph
  else s.setObjWord o row 1 c

/-- `SEMSIG` and `QSEMS` at the object (R243): VALUE rises, and every waiter whose test now passes runs on. -/
def State.semAdd (s : State) (o : ObjAddr) (row : Bool) (v : Word) : State :=
  let value := s.objWord o 0 + v
  (s.setObjWord o row 0 value).releaseWaiters o (fun w => !w.phase && semPasses value w.value) value

/-- Reach an object in memory from a core as a strong access does (R132, R135): the core's own dirty bytes of its line and the releases
recorded by other cores come home first, and its clean copy gives way (R127). -/
def State.reachObj (s : State) (core : Nat) : ObjAddr → State
  | .mem a => (s.readBytes core a 16 false true).2.dropSector core a
  | .lagoon t _ => s.reachLagoon core t

/-- The object that a place names. -/
def Place.obj : Place → Option ObjAddr
  | .mem a _ _ => some (.mem a)
  | .lagoon t o => some (.lagoon t o)
  | _ => none

/-- The scope at which an instruction acts on an object: the written one for memory; `.core` for an object of the own lagoon and `.clus` for
one of another member's (R141, R142). -/
def objScope (a : Agent) (o : ObjAddr) (scope : Nat) : Nat :=
  match o with
  | .mem _ => scope
  | .lagoon t _ => if otherLagoon a t then 2 else 1

/-- The poison code of an object as a core reads it at its home point; 0 when it is clean (R392, R393). -/
def State.objPoison (s : State) (core : Nat) : ObjAddr → Nat
  | .mem a => s.poisonAt core a
  | .lagoon t off => s.lagoonPoison t off

/-- What an instruction on an object puts before its own access (R127 to R129, R131, R141, R142). One that arrives or signals is a release: every
earlier access of the wave is performed, and at `.core` and wider, or where a thread has executed a `FENCE.rel` at `.core`, the dirty bytes are
written back at once. Another performs what program order puts before it. -/
def State.beforeObj (s : State) (x : Issuer) (rel : Option Nat) (p : Place) : State :=
  match rel with
  | some scope =>
    let s := s.forceAll x.a
    if scope = 0 && x.e &&& x.w.relFence = 0#32 then s else s.release (s.coreOf x.a) 2 none
  | none => s.forceBefore x.a x.e true 16 [(x.low, p)]

/-- An instruction acts on an object at its place: after what comes before it, at the object's home point, and not on poison where it reads the
object into registers (`rd`, R393). `rel` is the written scope of a release. Where no route leads to the object's module, or its port is down, the
instruction has no effect on the object, waits at nothing and writes no register, and `REMOTE` or `REMOTE_TIMEOUT` becomes pending (R394, R395, R420,
whose tables list no such instruction: DESIGN CHOICE, log entry 33). -/
def atObject (x : Issuer) (s : State) (rd : Bool) (rel : Option Nat) (o : ObjAddr) (p : Place) (go : State → Effect) : Effect :=
  let r := rel.map (objScope x.a o)
  let s := s.beforeObj x r p
  match s.reachPlace p with
  | .noRoute => .done ((s.noRoute (partOf x.ctx) p.globalAddr 2 16).pendCause x.a Cause.remote 0)
  | .down => .done ((s.requestAt (partOf x.ctx) p 2 16).pendCause x.a Cause.remoteTimeout 0)
  | .ok =>
    let s := s.requestAt (partOf x.ctx) p 2 16
    let s := s.reachObj (s.coreOf x.a) o
    let code := s.objPoison (s.coreOf x.a) o
    if rd && code ≠ 0 then .raise Cause.ecc s (BitVec.ofNat 8 code) else go s

/-- An instruction that names an object through a `k` pair (R237): the lagoon form by bits [63:32], else a memory address checked with a
size of 16. The object must be aligned to 16 bytes. -/
def withObject (x : Issuer) (s : State) (b : BitVec 6) (wr atom : Bool) (rd : Bool) (rel : Option Nat) (go : State → ObjAddr → Place → Effect) :
    Effect :=
  let va := x.w.kpair (2 * (b.toNat - 32))
  if va.extractLsb' 32 32 = 0xF0000000#32 then
    match s.lagoonPlaces x 16 [(x.low, loWord va, 0)] with
    | .error c => .raise (match x.a with | .wave _ => c | .cp _ => Cause.access) s
    | .ok ps =>
      match ps with
      | (_, .lagoon t o) :: _ => atObject x s rd rel (.lagoon t o) (.lagoon t o) fun s => go s (.lagoon t o) (.lagoon t o)
      | _ => .done s
  else
    memAccess x s true wr atom 16 [(x.low, va, .object wr)] fun s ps =>
      match ps with
      | (_, .mem a nc row) :: _ => atObject x s rd rel (.mem a) (.mem a nc row) fun s => go s (.mem a) (.mem a nc row)
      | _ => .done s

end Sys2Proof.Machine
end

