-- ==== Sys2Proof/Machine/Engine.lean ====
section
/-! DEFINITION. What the engines share (R246 to R251): guards, register blocks, tile entries and their states (R110 to R113), the
movement of bytes by a transfer with its page holds, stops and refusals, and its completion. -/

namespace Sys2Proof.Machine

open Sys2Proof

/-- The lanes of the group whose guard is true (R165, R248). -/
def Issuer.guarded (x : Issuer) (g : BitVec 3) : LaneMask := maskOf fun l => x.e.getLsbD l && x.w.preg g.toNat l

/-- An engine instruction acts once for its group when a thread has a true guard; otherwise it has no effect and no charge (R248, R303). -/
def engine (g : BitVec 3) (x : Issuer) (s : State) (f : LaneMask → Effect) : Effect :=
  if x.guarded g = 0 then .done s 0 0 else f (x.guarded g)

/-- The units of a transfer's charge: 256 bytes each (R302). -/
def copyUnits (n : Nat) : Nat := (n + 255) / 256

/-- The team of a wave issuer. -/
def Issuer.team (x : Issuer) (s : State) : Option (WaveKey × Team) :=
  match x.a with
  | .wave k => (s.team? k.team).map fun t => (k, t)
  | .cp _ => none

/-- The words of the k block i. -/
def Issuer.block (x : Issuer) (i : BitVec 3) : List Word := x.w.kblock i.toNat
/-- Word j of a block. -/
def wordAt (b : List Word) (j : Nat) : Word := b[j]?.getD 0
/-- The pair at word j of a block. -/
def pairAt (b : List Word) (j : Nat) : DWord := pair (wordAt b j) (wordAt b (j + 1))
/-- The k pair n. -/
def Issuer.kpairN (x : Issuer) (n : BitVec 5) : DWord := x.w.kpair (2 * n.toNat)

/-! Tile entries (R110). -/

/-- A field of a tile entry. -/
def efield (e : DWord) (lo n : Nat) : Nat := e.toNat / 2 ^ lo % 2 ^ n
/-- The first byte of a tile in its region. -/
def tileBase (e : DWord) : Nat := efield e 0 13 * 64
/-- The rows of a tile. -/
def tileRows (e : DWord) : Nat := efield e 13 8 + 1
/-- The bytes of a tile row. -/
def tileRow (e : DWord) : Nat := (efield e 21 6 + 1) * 64
/-- The bytes of a tile. -/
def tileExtent (e : DWord) : Nat := tileRows e * tileRow e
/-- FMT of a tile entry. -/
def tileFmt (e : DWord) : Nat := efield e 27 4
/-- SCALE of a tile entry. -/
def tileScale (e : DWord) : Word := BitVec.ofNat 32 (efield e 31 20)
/-- A tile of one DRAM row: ROWS 0 and RLEN 63 (R110, R269). -/
def rowSized (e : DWord) : Bool := tileRows e = 1 && tileRow e = 4096

/-- The states of a tile entry (R110). -/
abbrev tEmpty : Nat := 0
abbrev tFilling : Nat := 1
abbrev tReady : Nat := 2
abbrev tDraining : Nat := 3

/-- A tile entry of a team. -/
def Team.entry (t : Team) (m : Nat) : DWord := t.tiles.get 0 m
/-- The state of a tile entry. -/
def Team.tstate (t : Team) (m : Nat) : Nat := efield (t.entry m) 51 2
/-- Set the state of a tile entry. -/
def Team.setTstate (t : Team) (m st : Nat) : Team :=
  let e := t.entry m
  { t with tiles := t.tiles.put 0 m (BitVec.ofNat 64 (e.toNat % 2 ^ 51 + st * 2 ^ 51)) }
/-- Change the count of readers in flight of a tile entry (R112). -/
def Team.modReaders (t : Team) (m : Nat) (f : Nat → Nat) : Team := { t with readers := t.readers.put 0 m (f (t.readers.get 0 m)) }
/-- Groups of the team that wait on a tile test it again. -/
def Team.wakeTiles (t : Team) : Team := { t with waves := t.waves.map (·.testWaits) }
/-- Groups of the team that wait for a row slot's transfers or a limit test it again. -/
def Team.wakeLimits (t : Team) : Team := { t with waves := t.waves.map (·.testWaits) }

/-- A tile entry becomes `READY` and its reader, if one is counted, is done (R111, R112). -/
def State.tileReady (s : State) (k : TeamKey) (m : Nat) (reader : Bool) : State :=
  s.modTeam k fun t => ((if reader then t.modReaders m (· - 1) else t).setTstate m tReady).wakeTiles

/-- A consumer has done its last read of a tile that stays `READY` (R112). -/
def State.readerDone (s : State) (k : TeamKey) (m : Nat) : State := s.modTeam k fun t => (t.modReaders m (· - 1)).wakeTiles

/-- What a fill meets (R111, R112): it issues, or it waits. -/
def Team.admitsFill (t : Team) (m : Nat) : Bool :=
  t.tstate m = tEmpty || (t.tstate m = tReady && t.readers.get 0 m = 0)

/-! The movement of a transfer. -/

/-- An address names a lagoon (R237, R247). -/
def isLagoonAddr (a : DWord) : Bool := a.extractLsb' 32 32 = 0xF0000000#32

/-- The lagoon extent that an address names (R229, R253): the lowest cause, or the team and the first byte. -/
def State.lagoonExtent (s : State) (k : WaveKey) (a : DWord) (len : Nat) : Except Cause (TeamKey × Nat) :=
  let g := (s.grid? k.team.grid).getD {}
  let w := loWord a
  let pos := bits w 18 2
  if bits w 21 11 ≠ 0 then .error Cause.access
  else if w.getLsbD 20 && (g.members k.team.num).length ≤ pos then .error Cause.resRange
  else if g.desc.lagoon < bits w 0 18 + len then .error Cause.access
  else .ok (if w.getLsbD 20 then ⟨k.team.grid, k.team.num / g.arch * g.arch + pos⟩ else k.team, bits w 0 18)

/-- What a step of a transfer meets (R250). -/
inductive Mv where
  | finished
  | moved (s : State)
  | held
  | page (va : DWord) (wr : Bool) (s : State)
  | stop (c : Cause) (s : State)

/-- Where an engine reads or writes: the place of an address, as the issuing wave. -/
def State.enginePlace (s : State) (o : Op) (k : AccKind) (a : DWord) : Xlat × State :=
  match o.agent with
  | .wave w =>
    if isLagoonAddr a then
      match s.lagoonExtent w a 0 with
      | .ok (t, off) => (.ok (.lagoon t off) 0 0, s)
      | .error _ => (.access, s)
    else s.translate (ctxOf o.agent) o.core (s.level o.agent) k a
  | .cp c => s.translate c 511 1 k a

/-- Reach the place of n bytes as an engine (R64, R250, R254, R395, R420): what stands in the way, or the place. A read of context bytes is a load of
the issuing threads. `kd` is the KIND of the request in a fault record (R424). -/
def State.engineAt (s : State) (o : Op) (k : AccKind) (a : DWord) (n : Nat) (kd : Nat := if k = .write then 1 else 0) :
    Except Mv (Place × State) :=
  match s.enginePlace o k a with
  | (.page, s) => .error (.page a (decide (k = .write)) s)
  | (.access, s) => .error (.stop Cause.access s)
  | (.ok p _ _, s) =>
    let c := if k = .read then s.ctxLocate (ctxOf o.agent) a.toNat else none
    match c.map fun c => s.checkCtx o.agent (lowLane o.lanes) .load n c.1 c.2 p with
    | some (.ok (.ctx vs c)) =>
      if s.ctxPending o.agent o.id n ((lanesOf o.lanes).map fun l => (l, a)) then .error .held else .ok (.ctx vs c, s)
    | some (.cause c) => .error (.stop c s)
    | _ =>
      match s.reachPlace p with
      | .noRoute => .error (.stop Cause.remote (s.noRoute (partOf (ctxOf o.agent)) p.globalAddr kd n))
      | .down => .error (.stop Cause.remoteTimeout (s.requestAt (partOf (ctxOf o.agent)) p kd n))
      | .ok => .ok (p, s)

/-- The poison code of the bytes at a place. -/
def State.placePoison (s : State) (core : Nat) : Place → Nat
  | .mem a _ _ => s.poisonAt core a
  | .lagoon t off => s.lagoonPoison t off
  | .ctx _ code => code
  | .dev _ => 0

/-- Read bytes as an engine, as plain loads of the issuing core (R131, R254). -/
def State.engineRead (s : State) (o : Op) (p : Place) (n : Nat) : List Byte × State :=
  match p with
  | .mem a nc _ => (if s.leaves o.core a nc then s.request (partOf (ctxOf o.agent)) a 0 n else s).readBytes o.core a n nc false
  | .lagoon t off => ((s.reachLagoon o.core t).lagoonRead t off n, s.reachLagoon o.core t)
  | .ctx vs _ => (vs, s)
  | .dev a => s.windowBytes (s.regAgent o.agent) a n

/-- Place a poison code on a granule of memory or of a lagoon that poisoned bytes fill (R393). -/
def State.placePoisonAt (s : State) (p : Place) (code : Nat) : State :=
  if code = 0 then s
  else
    match p with
    | .mem a _ _ => { s with poison := s.poison.put 0 (a / 64) code }
    | .lagoon t off => s.putLagPoison t ((s.lagPoisonTab t).put 0 (off / 64) code)
    | _ => s

/-- Write bytes as an engine, at their home points; bytes of an object with waiters are refused (R122, R250): which. -/
def State.engineHome (s : State) (o : Op) (p : Place) (bs : List Byte) (code : Nat) : List Nat × State :=
  let at_ (j : Nat) : Place :=
    match p with
    | .mem a nc row => .mem (a + j) nc row
    | .lagoon t off => .lagoon t (off + j)
    | q => q
  let s := match p with | .mem a nc _ => ((s.request (partOf (ctxOf o.agent)) a 1 bs.length).readBytes o.core a 1 nc true).2 | .lagoon t _ => s.reachLagoon o.core t | _ => s
  if s.waited p bs.length then
    (List.range bs.length).foldl
      (fun (r : List Nat × State) j =>
        if r.2.waited (at_ j) 1 then (r.1 ++ [j], r.2) else (r.1, r.2.writeHome o (at_ j) [bs[j]?.getD 0]))
      ([], s)
  else
    let s := s.writeHome o p bs
    let s := match p with | .lagoon t off => s.lagoonWhole [(t, off, bs.length)] | _ => s
    ([], s.placePoisonAt p code)

/-- Write bytes at an address as an engine. A write of context bytes bypasses the register cache (R337); at level 0 it meets the checks of R66 as a
store of the issuing thread (R254; DEDUCED, log entry 31). -/
def State.engineWrite (s : State) (o : Op) (p : Place) (a : DWord) (bs : List Byte) (code : Nat) : Except Cause (List Nat × State) :=
  match (if s.level o.agent = 0 then s.ctxLocate (ctxOf o.agent) a.toNat else none) with
  | none => .ok (s.engineHome o p bs code)
  | some (k, off) =>
    match s.checkCtx o.agent (lowLane o.lanes) (.store bs) bs.length k off p with
    | .cause c => .error c
    | _ => .ok (s.engineHome o p bs code)

/-- The bytes that a chunk at an address may span: to the next 64-byte granule. -/
def chunkTo (a n : Nat) : Nat := min n (64 - a % 64)

/-- The memory address of byte `off` of a copy's strided side (R255). -/
def Copy.strided (c : Copy) (a : DWord) (off : Nat) : DWord :=
  if c.rowLen = 0 then a + BitVec.ofNat 64 off else a + BitVec.ofNat 64 (off / c.rowLen * c.stride + off % c.rowLen)

/-- The tile-store bytes of a team. -/
def State.tileBytes (s : State) (k : TeamKey) (off n : Nat) : List Byte := ((s.team? k).map fun t => t.tileMem.getList 0 off n).getD []
/-- Write tile-store bytes of a team. -/
def State.setTileBytes (s : State) (k : TeamKey) (off : Nat) (bs : List Byte) : State :=
  s.modTeam k fun t => { t with tileMem := t.tileMem.putList 0 off bs }
/-- The poison code of a tile-store granule. -/
def State.tilePoisonAt (s : State) (k : TeamKey) (off : Nat) : Nat := ((s.team? k).map fun t => t.tilePoison.get 0 (off / 64)).getD 0

/-- The team of an operation. -/
def Op.teamKey (o : Op) : Option TeamKey := match o.agent with | .wave w => some w.team | .cp _ => none

/-- Bytes of a transfer from an offset on have moved, but for those refused: the first one refused is the low-water mark of what is done, and
`BARSTORE` is delivered at the end (R122, R250, R391). -/
def State.noteRefused (s : State) (id off : Nat) (refused : List Nat) : State :=
  match refused with
  | [] => s
  | j :: _ => s.modOp id fun o => { o with low := some (o.low.getD (off + j)), cause := lowerCause Cause.barstore o.cause }

/-- Change the copy of an operation. -/
def State.modCopy (s : State) (id : Nat) (f : Copy → Copy) : State :=
  s.modOp id fun o => match o.kind with | .copy c => { o with kind := .copy (f c) } | _ => o

/-- The next chunk of a copy (R254, R255), in ascending order, which the spec leaves open (DESIGN CHOICE, log entry 46). -/
def State.copyChunk (s : State) (o : Op) (c : Copy) : Mv :=
  let off := c.done
  let sa := c.strided c.src off
  let da := c.strided c.dst off
  let left := if c.rowLen = 0 then c.len - off else min (c.len - off) (c.rowLen - off % c.rowLen)
  let n := chunkTo sa.toNat (chunkTo da.toNat (if c.tile.isSome then chunkTo (c.base + off) left else left))
  if c.len ≤ off then .finished
  else
    let adv (refused : List Nat) (s : State) : Mv :=
      .moved ((s.noteRefused o.id off refused).modCopy o.id fun c => { c with done := c.done + n, refused := c.refused + refused.length })
    match c.tile, o.teamKey with
    | some _, some k =>
      if c.fill then
        match s.engineAt o .read sa n with
        | .error m => m
        | .ok (p, s) =>
          let code := s.placePoison o.core p
          let (bs, s) := s.engineRead o p n
          let s := s.setTileBytes k (c.base + off) bs
          adv [] (if code ≠ 0 || n = 64 then
            s.modTeam k fun t => { t with tilePoison := t.tilePoison.put 0 ((c.base + off) / 64) code } else s)
      else
        match s.engineAt o .write da n with
        | .error m => m
        | .ok (p, s) =>
          match s.engineWrite o p da (s.tileBytes k (c.base + off) n) (s.tilePoisonAt k (c.base + off)) with
          | .error c => .stop c s
          | .ok (r, s) => adv r s
    | _, _ =>
      match s.engineAt o .read sa n with
      | .error m => m
      | .ok (p, s) =>
        match s.engineAt o .write da n with
        | .error m => m
        | .ok (q, s) =>
          let code := s.placePoison o.core p
          let (bs, s) := s.engineRead o p n
          match s.engineWrite o q da bs code with
          | .error c => .stop c s
          | .ok (r, s) => adv r s

/-! Accumulator tiles (R259, R266): word x · 64 + j of tile Z. -/

/-- Word i of the accumulator memory: no rule states what one that was never written holds (DESIGN CHOICE, log entry 26). -/
def Team.zget (t : Team) (i : Nat) : Word :=
  match t.z.find i with
  | some w => w
  | none => if t.zSet.contains (i / 2048) then 0 else Config.freeWord (t.zInit + i)

/-- A word of an accumulator tile. -/
def Team.zword (t : Team) (z i : Nat) : Word := t.zget (2048 * z + i)

/-- The bytes of an accumulator tile. -/
def State.zBytes (s : State) (k : TeamKey) (z off n : Nat) : List Byte :=
  match s.team? k with
  | none => []
  | some t => (List.range n).map fun j => wordByte (t.zword z ((off + j) / 4)) ((off + j) % 4)

/-- The next chunk of a `ZLD` or `ZST` (R266). -/
def State.zChunk (s : State) (o : Op) (ld : Bool) (z : Nat) (addr : DWord) (done : Nat) : Mv :=
  if 8192 ≤ done then .finished
  else
    let a := addr + BitVec.ofNat 64 done
    match o.teamKey, s.engineAt o (if ld then .read else .write) a 64 with
    | _, .error m => m
    | none, .ok _ => .finished
    | some k, .ok (p, s) =>
      let step (s : State) : Mv :=
        .moved (s.modOp o.id fun o =>
          { o with kind := match o.kind with | .zld z a d => .zld z a (d + 64) | .zst z a d => .zst z a (d + 64) | x => x })
      if ld then
        let code := s.placePoison o.core p
        let (bs, s) := s.engineRead o p 64
        step (s.modTeam k fun t => { t with
          z := (List.range 16).foldl
            (fun zt j => zt.ins (2048 * z + done / 4 + j) (BitVec.ofNat 32 (ofLeBytes ((bs.drop (4 * j)).take 4)))) t.z,
          zPoison := t.zPoison.put 0 ((8192 * z + done) / 64) code })
      else
        let code := ((s.team? k).map fun t => t.zPoison.get 0 ((8192 * z + done) / 64)).getD 0
        match s.engineWrite o p a (s.zBytes k z done 64) code with
        | .error c => .stop c s
        | .ok (r, s) =>
        step (s.noteRefused o.id done r)

/-! Deliveries into memory: writes, additions and maxima of elements (R97, R274, R276). -/

/-- The bytes of an element of a reduction (R272, R274). -/
def fmtBytes (fmt : Nat) : Nat := match fmt with | 1 | 2 => 2 | 3 | 4 | 6 => 1 | _ => 4

/-- One element at its target (R274). -/
def combine (op : CollOp) (fmt : Nat) (old v : Nat) : Nat :=
  match op with
  | .write => v
  | .add =>
    if fmt = 8 then (old + v) % 2 ^ 32
    else if fmt = 1 then (bf16.ofVal .rn ((bf16.read old).add .rn (bf16.read v))).1
    else (fadd false .rn (BitVec.ofNat 32 old) (BitVec.ofNat 32 v)).1.toNat
  | .max =>
    if fmt = 8 then (maxS (BitVec.ofNat 32 old) (BitVec.ofNat 32 v)).toNat
    else (fminmax false true (BitVec.ofNat 32 old) (BitVec.ofNat 32 v)).1.toNat

/-- The bytes after a delivery over the old ones. -/
def combineBytes (op : CollOp) (fmt : Nat) (old new : List Byte) : List Byte :=
  match op with
  | .write => new
  | _ =>
    let n := fmtBytes fmt
    (List.range (new.length / n)).flatMap fun j =>
      leBytes n (combine op fmt (ofLeBytes ((old.drop (n * j)).take n)) (ofLeBytes ((new.drop (n * j)).take n)))

/-- The poison code that bytes j to j + n of a delivery carry (R393). -/
def codeOf (codes : List Nat) (j n : Nat) : Nat := (((codes.drop (j / 16)).take ((j % 16 + n + 15) / 16)).find? (· ≠ 0)).getD 0

/-- Write delivered bytes through the home points and invalidate every L1 line that holds them (R148); bytes of an object with waiters are refused
(R122). Poison goes with its data, and an addition or a maximum over poisoned bytes leaves them poisoned (R393). -/
def State.deliverAt (s : State) (a : Nat) (row : Bool) (op : CollOp) (fmt : Nat) (bs : List Byte) (code : Nat) : State :=
  let s := s.promoteFor 511 a
  let new := combineBytes op fmt (s.homeBytes a bs.length) bs
  let old := if op = .write then 0 else s.poison.get 0 (a / 64)
  let s :=
    if s.waited (.mem a true row) bs.length then s.homeCells ((new.mapIdx fun j b => (a + j, b)).filter fun x => !s.objWaited x.1) row
    else (s.homeWrites a new row).placePoisonAt (.mem a true row) (if code = 0 then old else code)
  if op = .write then s.invalidateRange a bs.length else s.dropClean a bs.length

/-- A chunk of a delivery at its target (R148, R274, R420): the cause in its way, or the place with its length. -/
def State.deliverPlace (s : State) (ctx : Nat) (va : DWord) (n : Nat) : Except Cause (Nat × Bool × Nat) × State :=
  match s.unitXlat ctx 511 .write va with
  | (.page, s) => (.error Cause.page, s)
  | (.ok (.mem a nc row) _ _, s) =>
    match s.reachPlace (.mem a nc row) with
    | .noRoute => (.error Cause.remote, s.noRoute (partOf ctx) (Place.mem a nc row).globalAddr 1 n)
    | .down => (.error Cause.remoteTimeout, s.requestAt (partOf ctx) (.mem a nc row) 1 n)
    | .ok => (.ok (a, row, chunkTo va.toNat n), s)
  | (_, s) => (.error Cause.access, s)

/-- Stores to the bytes of a delivery that L1s still hold come before a fold over them, or after it: one choice for the fold, of each core and each
granule (R294, R295). -/
def State.settleRange (s : State) (ctx : Nat) (va : DWord) (op : CollOp) (n : Nat) : Nat → State
  | 0 => s
  | fuel + 1 =>
    if n = 0 || op = .write then s
    else
      match s.deliverPlace ctx va n with
      | (.ok (a, _, m), u) => (u.settleStores a m).settleRange ctx (va + BitVec.ofNat 64 m) op (n - m) fuel
      | _ => s

/-- Deliver bytes to a virtual address of a context as the collective engine (R122, R274): the first cause met, with the bytes written
before it standing, and whether bytes of an object with waiters were refused. -/
def State.deliver (s : State) (ctx : Nat) (va : DWord) (op : CollOp) (fmt : Nat) (bs : List Byte) (codes : List Nat) (j : Nat) :
    Nat → Option Cause × Bool × State
  | 0 => (none, false, s)
  | fuel + 1 =>
    if bs.length ≤ j then (none, false, s)
    else
      match s.deliverPlace ctx (va + BitVec.ofNat 64 j) (bs.length - j) with
      | (.error c, s) => (some c, false, s)
      | (.ok (a, row, n), s) =>
        match s.hubAnswer (partOf ctx) (.mem a true row) 1 n with
        | (some c, s) => (some c, false, s)
        | (none, s) =>
          let refused := s.waited (.mem a true row) n
          let (c, r, s) := (s.deliverAt a row op fmt ((bs.drop j).take n) (codeOf codes j n)).deliver ctx va op fmt bs codes (j + n) fuel
          (c, r || refused, s)

/-- Convert an accumulator word (R267): the element's bits and its flags. -/
def epiElem (ofmt rnd : Nat) (w : Word) : Nat × Word :=
  match ofmt with
  | 1 => narrow bf16 (Rnd.ofCode rnd) w
  | 2 => narrow fp16 (Rnd.ofCode rnd) w
  | 3 => narrow e4m3 (Rnd.ofCode rnd) w
  | 4 => narrow e5m2 (Rnd.ofCode rnd) w
  | 5 =>
    let (y, fl) := clampInt w.toInt (-128) 127
    ((BitVec.ofInt 8 y).toNat, fl)
  | _ => (w.toNat, 0)

/-- The bytes of an element of `ZEPI` (R267). -/
def epiSize (ofmt : Nat) : Nat := match ofmt with | 0 => 4 | 1 | 2 => 2 | _ => 1

/-- The converted elements of a span of a tile row, with their flags. -/
def Team.epiSpan (t : Team) (z ofmt rnd first n : Nat) : List Byte × Word :=
  (List.range n).foldl
    (fun (p : List Byte × Word) j =>
      let (b, fl) := epiElem ofmt rnd (t.zword z (first + j))
      (p.1 ++ leBytes (epiSize ofmt) b, p.2 ||| fl))
    ([], 0)

/-- A counted instruction raised sticky bits in a wave (R96, R98): its trap, the lower one of two, becomes pending. -/
def State.addStickyAsync (s : State) (a : Agent) (fl : Word) : State :=
  if fl = 0 then s
  else
    let d := s.descOf a
    let s := s.modAgent a fun w => w.addSticky fl
    if d.trapIV && fl &&& fIV ≠ 0 then s.pendCause a Cause.fpInvalid 0
    else if d.trapOF && fl &&& fOF ≠ 0 then s.pendCause a Cause.fpOverflow 0
    else s

/-! Counters and the firing of work entries (R273, R288, R289). -/

/-- The test of an entry (R273): the counter has reached THRESH. -/
def WorkEntry.passes (e : WorkEntry) (v : Word) : Bool := decide (0 ≤ (v - wordAt e.words 6).toInt)
/-- The arming counter of an entry. -/
def WorkEntry.armCtr (e : WorkEntry) : Nat := bits (wordAt e.words 7) 0 10

/-- A counter takes a value (R288): entries that it arms are tested, and threads that wait on a counter test it again. In a halted
context nothing fires (R291). -/
def State.setCounter (s : State) (ctx n : Nat) (v : Word) : State :=
  let x := s.ctx ctx
  let arm (e : WorkEntry) : WorkEntry := if e.armCtr = n && e.passes v then { e with armed := true } else e
  let step (q : QueuePair) : QueuePair := if s.halted ctx then q else { q with entries := q.entries.map arm }.fire
  let s := s.putCtx ctx { x with counters := x.counters.put 0 n v, qps := x.qps.map fun p => (p.1, step p.2) }
  { s with teams := s.teams.map (fun (p : TeamKey × Team) =>
      if p.1.grid.ctx = ctx then (p.1, { p.2 with waves := p.2.waves.map (·.testWaits) }) else p) }

/-- A counter of a context. -/
def State.counter (s : State) (ctx n : Nat) : Word := (s.ctx ctx).counters.get 0 n

/-- Raise a counter of a context (R288), also one at or beyond the context's counter grant (DESIGN CHOICE, log entry 63). -/
def State.bumpCounter (s : State) (ctx n : Nat) (v : Word) : State := s.setCounter ctx n (s.counter ctx n + v)

/-- A delivery leaves the module on a port (R274, R420); its parcel waits for the answers. Where the port is down its flits are discarded, and
nothing answers. -/
def State.sendOut (s : State) (port : Option Nat) (chip : Nat) (d : Delivery) (p : Parcel) : State :=
  let up := match port with | some n => s.portUp n | none => false
  { s with
    out := if up then s.out ++ [.delivery chip d] else s.out
    awaiting := s.awaiting ++ [{ p with id := s.opCtr, lost := !up, sent := some (d.addr, if d.ord then 4 else 3, d.data.length) }]
    opCtr := s.opCtr + 1 }

/-- A target has answered a parcel: it took the bytes, or refused them or did not answer in time (R274, R296, R394, R395). At the last answer the
counter rises, and the cause, the lower one of two, goes to the operation that waits, of which no byte from the parcel's on counts as done (R391), or
becomes pending in the wave that posted. -/
def State.answered (s : State) (id : Nat) (c : Option Cause) : Option State :=
  match s.awaiting.find? fun p => p.id = id with
  | none => none
  | some p =>
    let cause := match c with | some c => lowerCause c p.cause | none => p.cause
    if 1 < p.left then
      some { s with awaiting := s.awaiting.map fun (q : Parcel) => if q.id = id then { q with left := q.left - 1, cause := cause } else q }
    else
      let s : State := { s with awaiting := s.awaiting.filter fun q => q.id ≠ id }
      let s := match p.rise with | some (ctx, n) => s.bumpCounter ctx n 1 | none => s
      some (match cause, p.op with
        | none, _ => s
        | some c, some o => s.modOp o fun o => { o with cause := lowerCause c o.cause, low := some (min p.off (o.low.getD p.off)) }
        | some c, none => s.pendCause p.agent c 1 p.who p.core p.quarter)

/-- The address of the next byte of a `ZEPI` (R267, R276). -/
def Epi.next (e : Epi) : DWord :=
  match e.route with
  | none => e.addr + BitVec.ofNat 64 e.done
  | some rt =>
    let row := 64 * epiSize e.ofmt
    e.addr + BitVec.ofNat 64 (e.done / row * (wordAt rt 2).toNat) + BitVec.ofNat 64 (e.done % row)

/-- The next bytes of a `ZEPI` (R267, R276). A route to the own chip writes locally, one span within a granule at a time, so that no addition is
made twice (R250); a route to another chip sends a row at a time. CNT rises with the last bytes, once every byte of the tile is written: the last
row of a route with CE leaves when the others are acknowledged, and the counter is not raised where bytes were refused. -/
def State.epiChunk (s : State) (o : Op) (e : Epi) : Mv :=
  let size := epiSize e.ofmt
  let total := 2048 * size
  if total ≤ e.done then .finished
  else
    match o.teamKey with
    | none => .finished
    | some k =>
      let t := (s.team? k).getD {}
      let step (n : Nat) (fl : Word) (s : State) : Mv :=
        .moved (s.modOp o.id fun o => { o with kind := match o.kind with | .zepi e => .zepi { e with done := e.done + n, sticky := e.sticky ||| fl } | x => x })
      let poison (i n : Nat) : Nat :=
        let first := i / size * 4
        (((List.range ((first % 64 + n / size * 4 + 63) / 64)).map fun g => t.zPoison.get 0 ((8192 * e.z + first) / 64 + g)).find? (· ≠ 0)).getD 0
      match e.route with
      | none =>
        let a := e.next
        match s.engineAt o .write a 64 with
        | .error m => m
        | .ok (p, s) =>
          let (bs, fl) := t.epiSpan e.z e.ofmt e.rnd (e.done / size) (64 / size)
          match s.engineWrite o p a bs (poison e.done 64) with
          | .error c => .stop c s
          | .ok (r, s) => step 64 fl (s.noteRefused o.id e.done r)
      | some rt =>
        let row := 64 * size
        let x := e.done / row
        let a := e.next
        let op : CollOp := if bits (wordAt rt 4) 11 2 = 0 then .write else .add
        let fmt := if bits (wordAt rt 4) 11 2 = 2 then 8 else if e.ofmt = 1 then 1 else 0
        let ends (n : Nat) : Bool := (wordAt rt 4).getLsbD 10 && decide (total ≤ e.done + n)
        let counter (whole : Bool) (n : Nat) : Option Nat :=
          if ends n && whole && o.low.isNone then some (bits (wordAt rt 4) 0 10) else none
        if bits (wordAt rt 3) 0 18 = s.chip then
          match s.deliverPlace (ctxOf o.agent) a (row - e.done % row) with
          | (.error c, s) => if c = Cause.page then .page a true s else .stop c s
          | (.ok (pa, w, n), s) =>
            let (bs, fl) := t.epiSpan e.z e.ofmt e.rnd (e.done / size) (n / size)
            let refused := (List.range n).filter fun j => s.waited (.mem (pa + j) true w) 1
            let s := (s.request (partOf (ctxOf o.agent)) pa (if op = .write then 1 else 2) n).settleRange (ctxOf o.agent) a op n 2
            let s := (s.deliverAt pa w op fmt bs (poison e.done n)).noteRefused o.id e.done refused
            step n fl (match counter refused.isEmpty n with | some c => s.bumpCounter (ctxOf o.agent) c 1 | none => s)
        else if s.routeTo (bits (wordAt rt 3) 0 18) = none then
          .stop Cause.remote (s.noRoute (partOf (ctxOf o.agent)) a 3 row)
        else if ends row && (s.awaiting.any fun p => p.op = some o.id) then .held
        else
          let (bs, fl) := t.epiSpan e.z e.ofmt e.rnd (64 * x) 64
          let d : Delivery :=
            { chip := s.chip, job := s.jobOf (partOf (ctxOf o.agent)), addr := a, data := bs, op := op, fmt := fmt,
              ord := false, axis := 0, rank := 0, counter := counter true row,
              codes := (List.range ((row + 15) / 16)).map fun j => poison (e.done + 16 * j) 16 }
          step row fl (s.sendOut (s.routeTo (bits (wordAt rt 3) 0 18)) (bits (wordAt rt 3) 0 18) d
            { id := 0, agent := o.agent, op := some o.id, off := e.done })

/-- The kinds that the matrix engine performs in issue order (R265). -/
def OpKind.matrix : OpKind → Bool
  | .mma _ | .zclr _ _ | .zld _ _ _ | .zst _ _ _ | .zepi _ | .zmovV _ _ _ | .zmovZ _ _ _ => true
  | _ => false

/-- No earlier matrix instruction of the core is in flight (R265). -/
def State.matrixTurn (s : State) (o : Op) : Bool :=
  !o.kind.matrix || !(s.ops.any fun p => p.kind.matrix && p.core = o.core && p.id < o.id)

/-- The next step of a transfer (R250). -/
def State.transferChunk (s : State) (o : Op) : Mv :=
  if o.held.isSome || !s.matrixTurn o then .held
  else
    match o.kind with
    | .copy c => s.copyChunk o c
    | .zld z a d => s.zChunk o true z a d
    | .zst z a d => s.zChunk o false z a d
    | .zepi e => s.epiChunk o e
    | _ => .finished

/-- Move up to n chunks of a transfer. -/
def State.transferMove (s : State) (id : Nat) : Nat → State
  | 0 => s
  | n + 1 =>
    match s.op? id with
    | none => s
    | some o => match s.transferChunk o with | .moved s => s.transferMove id n | _ => s

/-- The chunks that a transfer can still need. -/
def OpKind.fuel : OpKind → Nat
  | .copy c => c.len / 16 + 2
  | _ => 200

/-- The barrier object of a copy (R66, R256): the object when its translation passes, or what stands in the way. -/
def State.copyBar (s : State) (o : Op) (bar : DWord) : Except Mv (Place × ObjAddr × State) :=
  match s.engineAt o .write bar 16 2 with
  | .error m => .error m
  | .ok (p, s) =>
    match p.obj, s.ctxLocate (ctxOf o.agent) bar.toNat with
    | some b, none => .ok (p, b, s)
    | _, _ => .error (.stop Cause.access s)

/-- Apply n counted bytes of a copy to its barrier object (R241, R256). -/
def State.copyAdd (s : State) (o : Op) (c : Copy) (n : Nat) : Mv :=
  match c.bar with
  | none => .finished
  | some bar =>
    if n = 0 then .finished
    else
      match s.copyBar o bar with
      | .ok (p, b, s) =>
        let s := match p with | .mem a _ _ => s.request (partOf (ctxOf o.agent)) a 2 16 | _ => s
        .moved (((s.reachObj o.core b).objAdd b p.row (BitVec.ofNat 32 n)).modCopy o.id fun c => { c with added := c.added + n })
      | .error m => m

/-- A transfer ends (R249, R250): its tile becomes `READY`, its flag falls, its cause is delivered, a queue entry completes, and what
waits for a tile, a limit or a row slot is tested again. One that a cause stops is kept for the stop record (R250, R390). What R250 says of a stop
leaves open whether bytes of a copy with BC = 1 that were written before it and not yet added on its barrier object still are: they are not (DESIGN
CHOICE, log entry 70). -/
def State.endTransfer (s : State) (o : Op) (cause : Option Cause) : State :=
  let s := s.dropOp o.id
  let s :=
    match o.kind, o.teamKey with
    | .copy c, some k => (match c.tile with | some m => s.tileReady k m (!c.fill) | none => s)
    | .rowcon _ m _, some k => s.tileReady k m false
    | .rowput _ m _, some k => s.tileReady k m true
    | _, _ => s
  let s := s.dropFlags o.flags
  let s : State := { s with teams := s.teams.map (fun (p : TeamKey × Team) => if p.2.core = o.core then (p.1, p.2.wakeLimits) else p) }
  let c := match cause, o.cause with | some a, some b => some (min a b) | some a, none => some a | none, b => b
  let s :=
    match o.kind with
    | .zepi e => if c.isSome then s.modAgent o.agent fun w => w.addSticky e.sticky else s.addStickyAsync o.agent e.sticky
    | _ => s
  let s :=
    match c with
    | some d =>
      let x := s.ctx (ctxOf o.agent)
      let s := if cause.isSome then s.putCtx (ctxOf o.agent) { x with stopped := x.stopped ++ [{ o with cause := c }] } else s
      s.pendCause o.agent d 1 o.who o.core o.quarter
    | none => s
  match o.queue with
  | some q => if c.isNone then s.queueDone (ctxOf o.agent) q else s
  | none => s

/-- The rest of a transfer: every chunk, then the addition of the bytes left on its barrier object, or the target's acknowledgments (R249); or what
stands in its way. -/
def State.transferRest (s : State) (id : Nat) : Mv × State :=
  match s.op? id with
  | none => (.held, s)
  | some o =>
    let s := s.transferMove id o.kind.fuel
    match s.op? id with
    | none => (.held, s)
    | some o =>
      match s.transferChunk o with
      | .finished =>
        match o.kind with
        | .copy c =>
          match s.copyAdd o c (c.done - c.refused - c.added) with
          | .finished => (.finished, s)
          | .moved s => (.finished, s)
          | m => (m, s)
        | _ => if s.awaiting.any fun p => p.op = some id then (.held, s) else (.finished, s)
      | m => (m, s)

/-- The transfers of the copy and matrix engines (R250). -/
def OpKind.transfer : OpKind → Bool
  | .copy _ | .zld _ _ _ | .zst _ _ _ | .zepi _ => true
  | _ => false

/-- A transfer of which every byte moves completes (R249); none where it is held, stopped or not its turn. -/
def State.completeTransfer (s : State) (id : Nat) : Option State :=
  match s.transferRest id with
  | (.finished, s) =>
    match s.op? id with
    | some o => some (s.endTransfer o none)
    | none => none
  | _ => none

end Sys2Proof.Machine
end

