-- ==== Sys2Proof/Machine/Collective.lean ====
section
/-! DEFINITION. The collective group, major 0x19 (R147, R148, R271 to R276, R288 to R296, R361): work entries, counters, routes, the firing
of entries, and what a target does with a delivery (R422 to R424). -/

namespace Sys2Proof.Machine

open Sys2Proof

/-! Work entries (R272). -/

/-- SRC of an entry. -/
def WorkEntry.src (e : WorkEntry) : DWord := pairAt e.words 0
/-- DST of an entry. -/
def WorkEntry.dst (e : WorkEntry) : DWord := pairAt e.words 2
/-- LEN of an entry. -/
def WorkEntry.len (e : WorkEntry) : Nat := (wordAt e.words 4).toNat
/-- A field of the word at bytes 20 to 23. -/
def WorkEntry.ctl (e : WorkEntry) (lo n : Nat) : Nat := bits (wordAt e.words 5) lo n
/-- A field of the word at bytes 28 to 31. -/
def WorkEntry.cnt (e : WorkEntry) (lo n : Nat) : Nat := bits (wordAt e.words 7) lo n
/-- OP of an entry. -/
def WorkEntry.op (e : WorkEntry) : CollOp := match e.ctl 22 2 with | 0 => .write | 1 => .add | _ => .max

/-- The permitted combinations of an entry (R272). -/
def WorkEntry.permitted (e : WorkEntry) : Bool :=
  let op := e.ctl 22 2
  let fmt := e.ctl 24 4
  let mc := e.ctl 20 1 = 1
  e.src.toNat % 16 = 0 && e.dst.toNat % 16 = 0 && e.len % 16 = 0 && decide (e.len ≤ 0x40000000) &&
    e.ctl 28 4 = 0 && e.ctl 18 2 ≠ 3 && (!mc || (e.ctl 0 18 = 0 && op = 0)) &&
    (match op with
     | 0 => fmt = 0 && e.ctl 21 1 = 0
     | 1 => fmt = 0 || fmt = 1 || fmt = 8
     | 2 => fmt = 0 || fmt = 8
     | _ => false)

/-- Entries that a queue pair can hold unfired: 64 in the engine and the quota of its ring (R273, R360). -/
def State.pairLimit (s : State) (ctx : Nat) : Nat := 64 + bits (s.ctReg ctx 0x00C) 16 16

/-- `CPOST` (R131, R273, R289, R361): the data movement comes after the thread's earlier accesses, which reach their home points first. The counters
that the block names are not held against the context's grant, of which R271 speaks for a counter operand (DESIGN CHOICE, log entry 63). -/
def execCpost (g ix : BitVec 3) (q : BitVec 8) (p : BitVec 3) (s : State) : Host.Outcome State Fault Refusal :=
  issue (.cpost g ix q p) s fun x s =>
    engine g x s fun e =>
      match x.team s with
      | none => .raise Cause.illegal s
      | some (k, _) =>
        let en : WorkEntry := { words := x.block ix, wave := k }
        let units := copyUnits en.len
        if !en.permitted then .raise Cause.illegal s
        else
          let c := s.ctx x.ctx
          let qp := c.qps.get {} q.toNat
          if s.pairLimit x.ctx ≤ qp.entries.length then
            let s := s.setCtReg x.ctx 0x00D (s.ctReg x.ctx 0x00D ||| 0x1000)
            let s := s.raiseEvent (partOf x.ctx) 0x02 (x.ctx % 2) ([1, 0] ++ leBytes 2 q.toNat)
            .done (s.modAgent x.a fun w => w.writePreds e p.toNat fun _ => false) 0 units
          else
            releaseAll x s 3 fun s =>
            let en := { en with
              armed := en.passes (s.counter x.ctx en.armCtr), who := s.whoBase x.a, core := s.coreOf x.a, quarter := x.w.quarter }
            let qp := { qp with entries := qp.entries ++ [en] }.fire
            let c := s.ctx x.ctx
            let s := s.putCtx x.ctx { c with qps := c.qps.put {} q.toNat qp }
            .done (s.modAgent x.a fun w => w.writePreds e p.toNat fun _ => true) 0 units

/-- `CCTR` (R147, R275): a release, then the increment. -/
def execCctr (g : BitVec 3) (n : BitVec 10) (a : BitVec 6) (p : BitVec 1) (s : State) : Host.Outcome State Fault Refusal :=
  issue (.cctr g n a p) s fun x s =>
    engine g x s fun _ =>
      releaseAll x s (if p = 1 then 4 else 3) fun s => .done (s.bumpCounter x.ctx n.toNat (x.w.kreg a.toNat))

/-- `CCTR.set` (R275). -/
def execCctrSet (g : BitVec 3) (n : BitVec 10) (a : BitVec 6) (s : State) : Host.Outcome State Fault Refusal :=
  issue (.cctrSet g n a) s fun x s => engine g x s fun _ => .done (s.setCounter x.ctx n.toNat (x.w.kreg a.toNat))

/-- `CWAIT` (R136, R148, R275). One that waits is charged as its wait ends: R303 charges an issue, and no rule says which of the two moments that is
(DESIGN CHOICE, log entry 71). -/
def execCwait (g : BitVec 3) (n : BitVec 10) (a : BitVec 6) (s : State) : Host.Outcome State Fault Refusal :=
  issue (.cwait g n a) s fun x s =>
    engine g x s fun _ =>
      if decide (0 ≤ (s.counter x.ctx n.toNat - x.w.kreg a.toNat).toInt) then .done (s.acquire (s.coreOf x.a) 4) else .wait 5 s

/-- The reserved bits and values of a route block (R276). -/
def routeReserved (b : List Word) : Bool :=
  decide ((pairAt b 0).toNat / 2 ^ 57 ≠ 0) || decide (bits (wordAt b 3) 18 14 ≠ 0) || decide (bits (wordAt b 4) 13 19 ≠ 0) ||
    decide (bits (wordAt b 4) 11 2 = 3) || wordAt b 5 ≠ 0 || wordAt b 6 ≠ 0 || wordAt b 7 ≠ 0

/-- `EROUTE` (R276). -/
def execEroute (g : BitVec 3) (e : BitVec 2) (ix : BitVec 3) (s : State) : Host.Outcome State Fault Refusal :=
  issue (.eroute g e ix) s fun x s =>
    engine g x s fun _ =>
      match x.team s with
      | none => .raise Cause.illegal s
      | some (k, _) =>
        if routeReserved (x.block ix) then .raise Cause.illegal s
        else .done (s.modTeam k.team fun t => { t with routes := t.routes.put [] e.toNat (x.block ix) })

/-! Targets. -/

/-- What becomes of a delivery at its target. -/
inductive Arrived where
  | applied (s : State)
  | refused (reason : Nat) (s : State)
  | waits

/-- The neighbour register of an axis (R421). -/
def State.nbr (s : State) (axis : Nat) : Word := s.dvReg (0x010 + axis)

/-- The own coordinate on an axis (R31, R334). -/
def State.coordOf (s : State) (axis : Nat) : Nat :=
  match axis with
  | 0 => bits (s.dvReg 0x002) 0 16
  | 1 => bits (s.dvReg 0x002) 16 16
  | _ => bits (s.dvReg 0x003) 0 16

/-- TCNT rises, where it is enabled (R274). -/
def State.countTarget (s : State) (ctx : Nat) (d : Delivery) : State :=
  match d.counter with
  | some n => s.bumpCounter ctx n 1
  | none => s

/-- The chunks that a delivery can need. -/
def deliveryFuel (d : Delivery) : Nat := d.data.length / 16 + 2

/-- The REASON of a cause that bars a delivery (R424): a missing page, a missing route, or another failed check. -/
def reasonOf (c : Cause) : Nat := if c = Cause.page then 2 else if c = Cause.remote then 7 else 3

/-- The bytes of a delivery translate for a write, and none belongs to an object on which something waits: the REASON that bars them (R424), else
none. -/
def State.rangeCause (s : State) (ctx : Nat) (va : DWord) (n : Nat) : Nat → Option Nat
  | 0 => none
  | fuel + 1 =>
    if n = 0 then none
    else
      match s.deliverPlace ctx va n with
      | (.error c, _) => some (reasonOf c)
      | (.ok (a, row, m), s) =>
        match s.rangeCause ctx (va + BitVec.ofNat 64 m) (n - m) fuel with
        | some r => some r
        | none => if s.waited (.mem a true row) m then some 4 else none

/-- An unordered delivery is applied element by element as it arrives (R274, R292). A multicast that a target refuses in part stays unwritten there
(R296). -/
def State.arriveNow (s : State) (ctx : Nat) (d : Delivery) : Arrived :=
  match if d.mc then s.rangeCause ctx d.addr d.data.length (deliveryFuel d) else none with
  | some r => .refused r s
  | none =>
    let s := s.settleRange ctx d.addr d.op d.data.length (deliveryFuel d)
    match s.deliver ctx d.addr d.op d.fmt d.data d.codes 0 (deliveryFuel d) with
    | (some c, _, s) => .refused (reasonOf c) s
    | (none, true, s) => .refused 4 s
    | (none, false, s) => .applied (s.countTarget ctx d)

/-- The contribution belongs to the range (R293): it has its DST, LEN, OP and FMT; the AXIS is taken into the key (DESIGN CHOICE, log entry 50). -/
def OrdRange.same (r : OrdRange) (ctx : Nat) (d : Delivery) : Bool :=
  r.ctx = ctx && r.addr = d.addr && r.len = d.data.length && r.op = d.op && r.fmt = d.fmt && r.axis = d.axis
/-- The ranges share bytes. -/
def OrdRange.overlaps (r : OrdRange) (ctx : Nat) (d : Delivery) : Bool :=
  r.ctx = ctx && decide (r.addr.toNat < d.addr.toNat + d.data.length) && decide (d.addr.toNat < r.addr.toNat + r.len)

/-- A complete range is folded in ascending rank (R294), over the stores to it that come first, one choice for the whole fold (R294, R295), and the
counter of every contribution rises. Where its page has gone, or it meets an
object on which something waits, the last contribution is refused, and the other bytes are folded (DESIGN CHOICE, log entry 51). -/
def State.applyRange (s : State) (r : OrdRange) (n : Nat) : Arrived :=
  let ds := (List.range n).filterMap fun k => (r.held.find? fun p => p.1 = k).map (·.2)
  let step (p : Option Nat × State) (d : Delivery) : Option Nat × State :=
    match p.2.deliver r.ctx d.addr d.op d.fmt d.data d.codes 0 (deliveryFuel d) with
    | (some c, _, s) => (some (reasonOf c), s)
    | (none, true, s) => (some 4, s)
    | (none, false, s) => (p.1, s)
  match ds.foldl step (none, s.settleRange r.ctx r.addr r.op r.len (r.len / 16 + 2)) with
  | (some reason, s) => .refused reason s
  | (none, s) => .applied (ds.foldl (fun s d => s.countTarget r.ctx d) s)

/-- The source of a contribution lies on this module's ring of its axis: the two other coordinates are the same, and its rank is one of the ring
(R293). -/
def State.onRing (s : State) (d : Delivery) : Bool :=
  d.others = (s.coordOf ((d.axis + 1) % 3), s.coordOf ((d.axis + 2) % 3)) && decide (d.rank < bits (s.nbr d.axis) 21 6 + 1)

/-- An ordered contribution opens a range, joins one, is refused, or waits at its source while 16 ranges are open (R293). -/
def State.arriveOrdered (s : State) (p ctx : Nat) (d : Delivery) : Arrived :=
  let x := s.part p
  let n := bits (s.nbr d.axis) 21 6 + 1
  match (s.rangeCause ctx d.addr d.data.length (deliveryFuel d)).filter (· ≠ 4) with
  | some r => .refused r s
  | none =>
    if !s.onRing d then .refused 5 s
    else
      match x.ranges.findIdx? fun r => r.same ctx d with
      | some i =>
        let r := x.ranges[i]?.getD { ctx := ctx, addr := d.addr, len := 0, op := d.op, fmt := d.fmt, axis := d.axis, held := [] }
        if r.held.any fun h => h.1 = d.rank then .refused 5 s
        else
          let r := { r with held := r.held ++ [(d.rank, d)] }
          if r.held.length = n then (s.putPart p { x with ranges := x.ranges.eraseIdx i }).applyRange r n
          else .applied (s.putPart p { x with ranges := x.ranges.set i r })
      | none =>
        if x.ranges.any fun r => r.overlaps ctx d then .refused 5 s
        else
          let r : OrdRange := { ctx := ctx, addr := d.addr, len := d.data.length, op := d.op, fmt := d.fmt, axis := d.axis, held := [(d.rank, d)] }
          if 16 ≤ x.ranges.length then .waits
          else if n = 1 then s.applyRange r 1
          else .applied (s.putPart p { x with ranges := x.ranges ++ [r] })

/-- A delivery reaches a context of this module. -/
def State.arrive (s : State) (p ctx : Nat) (d : Delivery) : Arrived :=
  if d.ord then s.arriveOrdered p ctx d else s.arriveNow ctx d

/-- The partition and context to which a job is bound (R423): the enabled partition with EN and JOB, and its context when it is valid
and has not halted. -/
def State.bound (s : State) (job : Nat) : Option (Nat × Option Nat) :=
  ((List.range 8).find? fun p =>
    (s.ptReg p 0).getLsbD 0 && (s.ptReg p 0x016).getLsbD 31 && decide (s.jobOf p = job)).map fun p =>
      let c := 2 * p + bits (s.ptReg p 0x016) 16 1
      (p, if s.valid c && !s.halted c then some c else none)

/-- A delivery is bound by its job, and taken or refused with a record (R274, R293, R394, R423, R424); none while it waits. The result says whether
it was taken. -/
def State.takeDelivery (s : State) (d : Delivery) : Option (Bool × State) :=
  let kind := if d.ord then 4 else 3
  match s.bound d.job with
  | none => some (false, s.unboundFault d.addr d.chip d.job kind d.data.length)
  | some (p, none) => some (false, s.inboundFault p 0xFF d.addr d.chip d.job 1 kind d.data.length)
  | some (p, some c) =>
    match s.arrive p c d with
    | .applied s => some (true, s)
    | .waits => none
    | .refused r s => some (false, s.inboundFault p (c % 2) d.addr d.chip d.job r kind d.data.length)

/-- A multicast is passed on to the next module of its ring, over the port towards it (R422); one that is down discards it (R420). -/
def State.passOn (s : State) (d : Delivery) : State :=
  if d.hops = 0 || !s.portUp (bits (s.nbr d.axis) 18 3) then s
  else { s with out := s.out ++ [.delivery (bits (s.nbr d.axis) 0 18) { d with hops := d.hops - 1 }] }

/-- A delivery from another module is taken, or answered with a negative acknowledgment (R394). -/
def State.inboundDelivery (s : State) (d : Delivery) : Option State :=
  (s.takeDelivery d).map fun (taken, s) => if taken then s else { s with out := s.out ++ [.nack d.chip d.job d.addr] }

/-- A delivery of this module to itself is taken, as any other, and answered (R274, R290, R292). -/
def State.deliverOwn (s : State) (id : Nat) : Option State :=
  match (s.awaiting.find? fun p => p.id = id).bind (·.own) with
  | none => none
  | some d => (s.takeDelivery d).bind fun (taken, s) => s.answered id (if taken then none else some Cause.remote)

/-! Sources. -/

/-- Read the source of an entry, or arguments or ring entries, through the LLC (R147, R274): the bytes with the poison code of each 16 (R393), or what
stands in the way with the address: at a peer or the host, its answer (R250, R394, R395). -/
def State.readSource (s : State) (ctx : Nat) (va : DWord) (n : Nat) :
    Nat → Except (Cause × DWord × State) (List Byte × List Nat × State)
  | 0 => .ok ([], [], s)
  | fuel + 1 =>
    if n = 0 then .ok ([], [], s)
    else
      let c := chunkTo va.toNat n
      match s.unitXlat ctx 511 .read va with
      | (.page, s) => .error (Cause.page, va, s)
      | (.ok (.mem a nc row) _ _, s) =>
        match s.hubAnswer (partOf ctx) (.mem a nc row) 0 c with
        | (some k, s) => .error (k, va, s)
        | (none, s) =>
          let (bs, s) := s.readBytes 511 a c nc true
          let codes := List.replicate ((c + 15) / 16) (s.poison.get 0 (a / 64))
          match s.readSource ctx (va + BitVec.ofNat 64 c) (n - c) fuel with
          | .ok (rest, cs, s) => .ok (bs ++ rest, codes ++ cs, s)
          | e => e
      | (_, s) => .error (Cause.access, va, s)

/-- The delivery of an entry. -/
def State.deliveryOf (s : State) (ctx : Nat) (e : WorkEntry) (data : List Byte) (codes : List Nat) : Delivery :=
  let axis := e.ctl 18 2
  { chip := s.chip, job := s.jobOf (partOf ctx), addr := e.dst, data := data, op := e.op, fmt := e.ctl 24 4,
    ord := decide (e.ctl 21 1 = 1), axis := axis, rank := s.coordOf axis,
    counter := if e.cnt 31 1 = 1 then some (e.cnt 20 10) else none,
    others := (s.coordOf ((axis + 1) % 3), s.coordOf ((axis + 2) % 3)), mc := decide (e.ctl 20 1 = 1), codes := codes }

/-- The source completion counter of an entry rises (R274). -/
def WorkEntry.rise (e : WorkEntry) (ctx : Nat) (s : State) : State := if e.cnt 30 1 = 1 then s.bumpCounter ctx (e.cnt 10 10) 1 else s

/-- Send the bytes of an entry to its targets (R274, R290, R296, R420): SCNT rises now that the source has been read, or, of a multicast, when the
last target has answered. -/
def State.sendEntry (s : State) (ctx qp : Nat) (e : WorkEntry) (data : List Byte) (codes : List Nat) : State :=
  let d := s.deliveryOf ctx e data codes
  let p : Parcel := { id := 0, agent := .wave e.wave, who := e.who, core := e.core, quarter := e.quarter, pair := some (ctx, qp) }
  if d.mc then
    let n := bits (s.nbr d.axis) 21 6
    if n = 0 then e.rise ctx s
    else
      s.sendOut (some (bits (s.nbr d.axis) 18 3)) (bits (s.nbr d.axis) 0 18) { d with hops := n - 1 }
        { p with left := n, rise := if e.cnt 30 1 = 1 then some (ctx, e.cnt 10 10) else none }
  else if e.ctl 0 18 = s.chip then
    e.rise ctx { s with awaiting := s.awaiting ++ [{ p with id := s.opCtr, own := some d }], opCtr := s.opCtr + 1 }
  else if s.routeTo (e.ctl 0 18) = none then
    (e.rise ctx (s.noRoute (partOf ctx) d.addr (if d.ord then 4 else 3) data.length)).pendCause p.agent Cause.remote 1 e.who e.core e.quarter
  else e.rise ctx (s.sendOut (s.routeTo (e.ctl 0 18)) (e.ctl 0 18) d p)

/-- Change a queue pair. -/
def State.putPair (s : State) (ctx qp : Nat) (q : QueuePair) : State :=
  let x := s.ctx ctx
  s.putCtx ctx { x with qps := x.qps.put {} qp q }

/-- A fired entry reads its source and delivers it (R250, R274, R302, R374): a missing page holds its pair, another cause ends it. -/
def State.entrySource (s : State) (ctx qp n : Nat) : Option State :=
  let q := (s.ctx ctx).qps.get {} qp
  match q.firing[n]? with
  | none => none
  | some e =>
    if q.held.isSome || s.halted ctx then none
    else
      let ended := { q with firing := q.firing.eraseIdx n }
      match s.readSource ctx e.src e.len (e.len / 16 + 2) with
      | .error (c, va, s) =>
        if c = Cause.page then some ((s.putPair ctx qp { q with held := some va }).pageFault ctx va 0 3 false false 511 3 0)
        else some ((s.putPair ctx qp ended).pendCause (.wave e.wave) c 1 e.who e.core e.quarter)
      | .ok (bs, codes, s) => some (((s.putPair ctx qp ended).chargeOpen).sendEntry ctx qp e bs codes)

/-! The overflow engine (R273, R360, R361). -/

/-- The ring address of place n of a queue pair (R360). -/
def State.pairRing (s : State) (ctx qp n : Nat) : DWord :=
  let quota := s.ctReg ctx 0x00C
  pair (s.ctReg ctx 0x00A) (BitVec.ofNat 32 (bits (s.ctReg ctx 0x00B) 0 25)) +
    BitVec.ofNat 64 (32 * (12 * bits quota 0 16 + bits quota 16 16 * qp + n % bits quota 16 16))

/-- A ring is not reached (R361): a missing page is an engine page fault, and another failed check halts the context. -/
def State.ringFault (s : State) (ctx : Nat) (c : Cause) (va : DWord) (wr : Bool) : State :=
  if c = Cause.page then s.pageFault ctx va 0 3 wr false 511 4 0 else s.raiseHalt ctx { code := c, src := 1, core := 511 }

/-- The next movement between a queue pair and its ring: the oldest entry that lies there comes back to a free place of the engine, or an entry
beyond 64 goes there. -/
def State.pairSpill (s : State) (ctx qp : Nat) : Option State :=
  let q := (s.ctx ctx).qps.get {} qp
  let stuck (s : State) (c : Cause) (va : DWord) (wr : Bool) : State := (s.putPair ctx qp { q with stuck := some va }).ringFault ctx c va wr
  if q.stuck.isSome || s.halted ctx then none
  else
    match (q.entries.take 64).findIdx? (·.slot.isSome), (q.entries.drop 64).findIdx? (·.slot.isNone) with
    | some i, _ =>
      let e := q.entries[i]?.getD { words := [], wave := ⟨⟨⟨0, 0⟩, 0⟩, 0⟩ }
      let va := s.pairRing ctx qp (e.slot.getD 0)
      match s.readSource ctx va 32 4 with
      | .error (c, at_, s) => some (stuck s c at_ false)
      | .ok (bs, _, s) =>
        let e := { e with words := (List.range 8).map fun j => BitVec.ofNat 32 (ofLeBytes ((bs.drop (4 * j)).take 4)), slot := none }
        let e := { e with armed := e.armed || e.passes (s.counter ctx e.armCtr) }
        some (s.putPair ctx qp { q with entries := q.entries.set i e }.fire)
    | none, some i =>
      let e := q.entries[64 + i]?.getD { words := [], wave := ⟨⟨⟨0, 0⟩, 0⟩, 0⟩ }
      let va := s.pairRing ctx qp q.ringNext
      let bs := (List.range 8).flatMap fun j => leBytes 4 (wordAt e.words j).toNat
      match s.unitWrite ctx va [bs.take 16, bs.drop 16] with
      | .error (c, at_, s) => some (stuck s c at_ true)
      | .ok s =>
        some (s.putPair ctx qp { q with entries := q.entries.set (64 + i) { e with slot := some q.ringNext }, ringNext := q.ringNext + 1 }.fire)
    | none, none => none

/-- Every movement that a queue pair can make. -/
def State.pairSpills (s : State) (ctx qp : Nat) : Nat → State
  | 0 => s
  | f + 1 => match s.pairSpill ctx qp with | some s => s.pairSpills ctx qp f | none => s

/-- The ring address of place n of a command queue (R360). -/
def State.queueRing (s : State) (ctx q n : Nat) : DWord :=
  let cq := bits (s.ctReg ctx 0x00C) 0 16
  pair (s.ctReg ctx 0x00A) (BitVec.ofNat 32 (bits (s.ctReg ctx 0x00B) 0 25)) + BitVec.ofNat 64 (32 * (cq * q + n % cq))

/-- n bytes that no rule states. -/
def State.freeBytes (s : State) (n : Nat) : List Byte × State :=
  ((List.range n).map fun j => (Config.freeWord (s.freeCtr + j)).setWidth 8, { s with freeCtr := s.freeCtr + n })

/-- The next movement between a command queue and its ring (R352). No rule states how its entries lie there: the bytes written are free, and the
entries come back as they were (DESIGN CHOICE, log entry 55). -/
def State.queueSpill (s : State) (ctx q : Nat) : Option State :=
  let y := (s.ctx ctx).queues[q]?.getD {}
  let put (s : State) (y : CmdQueue) : State := let x := s.ctx ctx; s.putCtx ctx { x with queues := x.queues.set q y }
  let stuck (s : State) (c : Cause) (va : DWord) (wr : Bool) : State := (put s { y with stuck := some va }).ringFault ctx c va wr
  if y.stuck.isSome || s.halted ctx then none
  else if y.entries.length - 64 < y.spilled then
    let va := s.queueRing ctx q (y.ringNext - y.spilled)
    match s.readSource ctx va 32 4 with
    | .error (c, at_, s) => some (stuck s c at_ false)
    | .ok (_, _, s) => some (put s { y with spilled := y.spilled - 1 })
  else if y.spilled < y.entries.length - 64 then
    let va := s.queueRing ctx q y.ringNext
    let (bs, s) := s.freeBytes 32
    match s.unitWrite ctx va [bs.take 16, bs.drop 16] with
    | .error (c, at_, s) => some (stuck s c at_ true)
    | .ok s => some (put s { y with spilled := y.spilled + 1, ringNext := y.ringNext + 1 })
  else none

/-- Every movement that a command queue can make. -/
def State.queueSpills (s : State) (ctx q : Nat) : Nat → State
  | 0 => s
  | f + 1 => match s.queueSpill ctx q with | some s => s.queueSpills ctx q f | none => s

/-- What the overflow engine does within a step: queues that reach beyond their 64 places on chip, or whose ring holds entries. -/
def State.overflow (s : State) : State :=
  (List.range s.ctxs.length).foldl
    (fun s c =>
      let x := s.ctx c
      let s := x.queues.zipIdx.foldl
        (fun s (y, q) => if decide (64 < y.entries.length) || y.spilled ≠ 0 then s.queueSpills c q (y.entries.length + y.spilled) else s) s
      x.qps.foldl
        (fun s (n, y) => if decide (64 < y.entries.length) || y.entries.any (·.slot.isSome) then s.pairSpills c n (2 * y.entries.length) else s) s)
    s

end Sys2Proof.Machine
end

