-- ==== Sys2Proof/Machine/Launch.lean ====
section
/-! DEFINITION. The launch group, major 0x1A (R28, R32 to R35, R150, R180, R277 to R283, R339, R352): `LAUNCH`, `GWAIT`, the command
queues and their entries, and the acceptance of a grid. -/

namespace Sys2Proof.Machine

open Sys2Proof

/-! Blocks and descriptors. -/

/-- A little-endian field of bytes. -/
def leField (bs : List Byte) (off n : Nat) : Nat := ofLeBytes ((bs.drop off).take n)

/-- The kernel descriptor in 64 bytes (R180). -/
def KDesc.ofBytes (bs : List Byte) : KDesc :=
  { entry := BitVec.ofNat 64 (leField bs 0 8), handler := BitVec.ofNat 64 (leField bs 8 8), nregs := leField bs 16 2,
    tx := leField bs 18 2, ty := leField bs 20 2, tz := leField bs 22 2, lagoon := leField bs 24 4, tiles := leField bs 28 1,
    ztiles := leField bs 29 1, rows := leField bs 30 1, gangs := leField bs 31 1, routes := leField bs 32 1,
    trapIV := leField bs 33 1 % 2 = 1, trapOF := leField bs 33 1 / 2 % 2 = 1, code := leField bs 36 4 }

/-- The fields of a descriptor lie within their limits, and its reserved bytes are 0 (R178, R180). -/
def descOk (bs : List Byte) : Bool :=
  let d := KDesc.ofBytes bs
  decide (8 ≤ d.nregs) && decide (d.nregs ≤ 256) && d.nregs % 8 = 0 && decide (1 ≤ d.tx) && decide (1 ≤ d.ty) && decide (1 ≤ d.tz) &&
    decide (d.tx * d.ty * d.tz ≤ 1024) && d.lagoon % 4096 = 0 && decide (d.lagoon ≤ 262144) && decide (d.tiles ≤ 64) &&
    decide (d.ztiles ≤ 32) && decide (d.rows ≤ 4) && decide (d.gangs ≤ 8) && decide (d.routes ≤ 4) && decide (leField bs 33 1 < 4) &&
    leField bs 34 2 = 0 && (bs.drop 40).all (· = 0)

/-- The enabled cores of a partition (R19, R335): those of its clusters that the configuration block enables. -/
def State.partCores (s : State) (p : Nat) : List Nat :=
  (List.range 320).filter fun c => s.sec.enabled.getLsbD c && (s.ptReg p (0x001 + c / 80)).getLsbD (c % 80 / 4)

/-- Some cluster of a partition holds n enabled cores (R278). -/
def State.clusterHolds (s : State) (p n : Nat) : Bool :=
  let cs := s.partCores p
  cs.any fun c => decide (n ≤ (cs.filter fun x => x / 4 = c / 4).length)

/-- A launch block with its descriptor is valid (R278). -/
def State.blockOk (s : State) (p : Nat) (b : List Word) (bs : List Byte) : Bool :=
  let gx := (wordAt b 2).toNat
  let gy := bits (wordAt b 3) 0 16
  let gz := bits (wordAt b 3) 16 16
  let arch := bits (wordAt b 6) 16 2 + 1
  let arglen := 16 * bits (wordAt b 6) 18 9
  decide (1 ≤ gx) && decide (gx ≤ 0x7FFFFFFF) && decide (1 ≤ gy) && decide (1 ≤ gz) && (pairAt b 4).toNat % 4096 = 0 &&
    bits (wordAt b 6) 27 5 = 0 && decide (arglen ≤ 4096) && decide (arglen ≤ (KDesc.ofBytes bs).lagoon) && bits (wordAt b 7) 4 28 = 0 &&
    descOk bs && decide (arch ≤ bits (wordAt b 6) 0 16 + 1) && (arch = 1 || s.clusterHolds p arch)

/-- The grid of a block; its arguments are read at acceptance. -/
def gridOf (b : List Word) (d : KDesc) (depth : Nat) (parent : Option GridKey) (queue : Option Nat) : Grid :=
  { desc := d, gx := (wordAt b 2).toNat, gy := bits (wordAt b 3) 0 16, gz := bits (wordAt b 3) 16 16, segBase := pairAt b 4,
    slots := bits (wordAt b 6) 0 16 + 1, arch := bits (wordAt b 6) 16 2 + 1, prio := bits (wordAt b 7) 0 4,
    args := List.replicate (16 * bits (wordAt b 6) 18 9) 0, depth := depth, parent := parent, queue := queue }

/-- Read a descriptor as a data access of the issuer, after its earlier accesses to those bytes (R45, R127, R278): its bytes, or the cause with its
TCODE; a poisoned one is an operand read (R393), and one at a peer needs a route and a port that is up (R395, R420). -/
def State.readDesc (s : State) (x : Issuer) (va : DWord) : Except (Cause × Byte) (List Byte) × State :=
  match s.translate x.ctx (s.coreOf x.a) (s.level x.a) .read va with
  | (.page, s) => (.error (Cause.page, 0), s)
  | (.ok (.mem a nc row) _ _, s) =>
    match s.reachPlace (.mem a nc row) with
    | .noRoute => (.error (Cause.remote, 0), s.noRoute (partOf x.ctx) (Place.mem a nc row).globalAddr 0 64)
    | .down => (.error (Cause.remoteTimeout, 0), s.requestAt (partOf x.ctx) (.mem a nc row) 0 64)
    | .ok =>
      let s := s.forceBefore x.a x.e true 64 [(x.low, .mem a nc row)]
      let code := s.poisonAt (s.coreOf x.a) a
      let (bs, s) := (s.request (partOf x.ctx) a 0 64).readBytes (s.coreOf x.a) a 64 nc false
      if code ≠ 0 then (.error (Cause.ecc, BitVec.ofNat 8 code), s) else (.ok bs, s)
  | (_, s) => (.error (Cause.access, 0), s)

/-! Grid identifiers and acceptance. -/

/-- An identifier is taken: a live grid's, or a child's that no `GWAIT` consumed (R31, R282). -/
def State.gidTaken (s : State) (ctx gid : Nat) : Bool :=
  s.grids.any fun (k, g) => k.ctx = ctx && (k.gid = gid || g.children.any fun c => c.gid = gid && !c.used)

/-- The first free identifier from a number upwards. -/
def State.freeGid (s : State) (ctx : Nat) : Nat → Nat → Nat
  | n, 0 => n
  | n, fuel + 1 => if s.gidTaken ctx n then s.freeGid ctx ((n + 1) % 2 ^ 32) fuel else n

/-- Take an identifier for a new grid, and count the grid as live (R31, R32, R332). -/
def State.takeGid (s : State) (ctx : Nat) : Nat × State :=
  let x := s.ctx ctx
  let kept := s.grids.foldl (fun n (p : GridKey × Grid) => n + 1 + p.2.children.length) 1
  let gid := s.freeGid ctx x.nextGid kept
  let s := s.putCtx ctx { x with nextGid := (gid + 1) % 2 ^ 32 }
  (gid, s.setCtReg ctx 0x006 (setBits (s.ctReg ctx 0x006) 0 17 (bits (s.ctReg ctx 0x006) 0 17 + 1)))

/-- The live grids of a context (R32). -/
def State.liveGrids (s : State) (ctx : Nat) : Nat := bits (s.ctReg ctx 0x006) 0 17

/-- A grid is accepted (R34, R150, R279, R280, R353): every L1 is written back and invalidated, its arguments are read, and its STATUS word is
written with 0. A missing page or another cause stands in the way, with its address and whether the access is a write. -/
def State.acceptGrid (s : State) (k : GridKey) (g : Grid) : Except (Cause × DWord × Bool × State) State :=
  let n := g.args.length
  match (s.kernelBoundary k).readSource k.ctx (g.segBase - BitVec.ofNat 64 n) n (n / 16 + 2) with
  | .error (c, va, s) => .error (c, va, false, s)
  | .ok (bs, _, s) =>
    let g := { g with args := bs, order := s.opCtr }
    match s.unitWrite k.ctx (g.recordAddr + 4) [leBytes 4 0] with
    | .error (c, va, s) => .error (c, va, true, s)
    | .ok s => .ok { s.putGrid k g with opCtr := s.opCtr + 1 }

/-! `LAUNCH` and `GWAIT`. -/

/-- The team leader (R28): the live thread with the lowest linear index, as its wave and lane. -/
def Team.leader (t : Team) : Option (Nat × Nat) :=
  (List.range t.waves.length).findSome? fun i =>
    match t.waves[i]? with
    | some w => if w.live = 0#32 then none else some (i, lowLane w.live)
    | none => none

/-- `LAUNCH` (R32, R278, R281): each guard-true thread's status, in the order 2, 1, 3, 0. -/
def execLaunch (f : BitVec 1) (g ix : BitVec 3) (d : BitVec 5) (s : State) : Host.Outcome State Fault Refusal :=
  let i := Instr.launch f g ix d
  issue i s fun x s =>
    engine g x s fun e =>
      match x.team s with
      | none => .raise Cause.illegal s
      | some (k, t) =>
        let lead : LaneMask := match t.leader with
          | some (w, l) => if w = k.idx then e &&& laneBit l else 0
          | none => 0
        let others := (lanesOf (e &&& ~~~lead)).map fun l => (l, (2 : Word), (0 : Word))
        performAll x s fun s =>
        let put (s : State) (e : LaneMask) (st : List (Nat × Word × Word)) (child : Option (GridKey × Grid)) : Effect :=
          .done (s.launchOp x i e (.launch (2 * d.toNat) st child) [])
        let leadSt (v gid : Word) := others ++ (lanesOf lead).map fun l => (l, v, gid)
        let depth := ((s.grid? k.team.grid).map (·.depth)).getD 0
        if lead = 0 then put s e others none
        else if depth = 10 then put s e (leadSt 1 0) none
        else if 65536 ≤ s.liveGrids x.ctx then put s e (leadSt 3 0) none
        else
          let b := x.block ix
          let addr := pairAt b 0
          if addr.toNat % 64 ≠ 0 then .raise Cause.illegal s
          else
            match s.readDesc x addr with
            | (.ok bs, s) =>
              if !s.blockOk (partOf x.ctx) b bs then .raise Cause.illegal s
              else
                let (gid, s) := s.takeGid x.ctx
                let s := s.modGrid k.team.grid fun p => { p with children := p.children ++ [{ gid := gid }] }
                let child := gridOf b (KDesc.ofBytes bs) (depth + 1) (some k.team.grid) none
                put s e (leadSt 0 (BitVec.ofNat 32 gid)) (some (⟨x.ctx, gid⟩, child))
            | (.error (c, t), s) =>
              if c ≠ Cause.page then .raise c s t
              else
                let s := s.parkPage x 0 lead addr false false
                if others.isEmpty then .moved s else put s (e &&& ~~~lead) others none

/-- `LAUNCH` completes (R32, R281): the child is accepted, and every thread takes its status. None while a page holds it; a cause of the arguments
halts the context, and a failure of the completion record does with `ACCESS` (R280). The fault record has the code of the command queues' unit
(DESIGN CHOICE, log entry 47). -/
def State.completeLaunch (s : State) (id : Nat) : Option State :=
  match s.op? id with
  | none => none
  | some o =>
    match o.kind with
    | .launch dst st child =>
      let finish (s : State) : State :=
        ((s.dropOp id).modAgent o.agent fun w =>
          st.foldl (fun w (r : Nat × Word × Word) => (w.setV dst r.1 r.2.1).setV (dst + 1) r.1 r.2.2) w).dropFlags o.flags
      match child with
      | none => some (finish s)
      | some (k, g) =>
        if o.held.isSome then none
        else
          match s.acceptGrid k g with
          | .ok s => some (finish s)
          | .error (c, va, wr, s) =>
            if c = Cause.page then some ((s.modOp id fun o => { o with held := some va }).pageFault k.ctx va 0 3 wr false 511 5 0)
            else some (s.raiseHalt k.ctx { code := if wr then Cause.access else c, src := 1, core := 511 })
    | _ => none

/-- `GWAIT` (R282): every named child that no `GWAIT` consumed must have retired; each is consumed once for the group. One that waits is charged as
its wait ends (R303; DESIGN CHOICE, log entry 71). -/
def execGwait (g : BitVec 3) (d a : BitVec 6) (s : State) : Host.Outcome State Fault Refusal :=
  issue (.gwait g d a) s fun x s =>
    engine g x s fun e =>
      match x.team s with
      | none => .raise Cause.illegal s
      | some (k, _) =>
        let cs := ((s.grid? k.team.grid).map (·.children)).getD []
        let name (l : Nat) : Nat := (x.w.vreg a.toNat l).toNat
        let child (l : Nat) : Option Child := cs.find? fun c => c.gid = name l && !c.used
        if (lanesOf e).any fun l => match child l with | some c => c.summary.isNone | none => false then .wait 6 s
        else
          let named := (lanesOf e).map name
          let s := s.modGrid k.team.grid fun p => { p with
            children := p.children.map fun (c : Child) => if named.contains c.gid then { c with used := true } else c }
          let s := s.modAgent x.a fun w =>
            (w.writeLanes e d.toNat fun l => match child l with | some c => c.summary.getD 0 | none => 0xFFFFFFFF).rewritten e [16 + d.toNat]
          .done (s.acquire (s.coreOf x.a) 4)

/-! Command queues (R283, R352). -/

/-- Entries that a command queue can hold: 64 on chip and the quota of its ring (R352, R360). -/
def State.queueLimit (s : State) (ctx : Nat) : Nat := 64 + bits (s.ctReg ctx 0x00C) 0 16

/-- Append an entry to a command queue, or wait for a place, with `QUEUE_QUOTA` once for the wait (R352, R361). -/
def appendEntry (x : Issuer) (s : State) (q : Nat) (go : State → Except (Cause × Byte × State) (QEntry × State)) : Effect :=
  let c := s.ctx x.ctx
  let y := c.queues[q]?.getD {}
  if s.queueLimit x.ctx ≤ y.entries.length then
    if y.quota then .wait 5 s
    else
      let s := s.putCtx x.ctx { c with queues := c.queues.set q { y with quota := true } }
      let s := s.setCtReg x.ctx 0x00D (s.ctReg x.ctx 0x00D ||| BitVec.ofNat 32 (2 ^ q))
      .wait 5 (s.raiseEvent (partOf x.ctx) 0x02 (x.ctx % 2) ([0, 0] ++ leBytes 2 q))
  else
    match go s with
    | .error (k, t, s) => .raise k s t
    | .ok (en, s) =>
      let c := s.ctx x.ctx
      .done (s.putCtx x.ctx { c with queues := c.queues.modify q fun y => { y with entries := y.entries ++ [en], quota := false } })

/-- `QLAUNCH` (R278, R283): the descriptor is read and checked at issue, and kept. -/
def execQlaunch (g : BitVec 3) (q : BitVec 4) (ix : BitVec 3) (s : State) : Host.Outcome State Fault Refusal :=
  issue (.qlaunch g q ix) s fun x s =>
    engine g x s fun _ =>
      appendEntry x s q.toNat fun s =>
        let b := x.block ix
        if (pairAt b 0).toNat % 64 ≠ 0 then .error (Cause.illegal, 0, s)
        else
          match s.readDesc x (pairAt b 0) with
          | (.error (k, t), s) => .error (k, t, s)
          | (.ok bs, s) => if s.blockOk (partOf x.ctx) b bs then .ok (.launch b (KDesc.ofBytes bs), s) else .error (Cause.illegal, 0, s)

/-- `QCOPY` (R246, R253, R283): the reserved bits and LEN of its block are checked at issue (DEDUCED, log entry 35). -/
def execQcopy (g : BitVec 3) (q : BitVec 4) (ix : BitVec 3) (s : State) : Host.Outcome State Fault Refusal :=
  issue (.qcopy g q ix) s fun x s =>
    engine g x s fun _ =>
      appendEntry x s q.toNat fun s =>
        let b := x.block ix
        if wordAt b 5 ≠ 0 || wordAt b 6 ≠ 0 || wordAt b 7 ≠ 0 || 0x1000000 < (wordAt b 4).toNat then .error (Cause.illegal, 0, s)
        else .ok (.copy b, s)

/-- `QSEMW` (R283). -/
def execQsemw (g : BitVec 3) (q : BitVec 4) (n : BitVec 5) (a : BitVec 6) (s : State) : Host.Outcome State Fault Refusal :=
  issue (.qsemw g q n a) s fun x s =>
    engine g x s fun _ => appendEntry x s q.toNat fun s => .ok (.semw (x.kpairN n) (x.w.kreg a.toNat), s)

/-- `QSEMS` (R283). -/
def execQsems (g : BitVec 3) (q : BitVec 4) (n : BitVec 5) (a : BitVec 6) (s : State) : Host.Outcome State Fault Refusal :=
  issue (.qsems g q n a) s fun x s =>
    engine g x s fun _ => appendEntry x s q.toNat fun s => .ok (.sems (x.kpairN n) (x.w.kreg a.toNat), s)

/-- `QIRQ` (R152, R283): after every earlier write of its source. -/
def execQirq (g : BitVec 3) (q : BitVec 4) (v : BitVec 8) (s : State) : Host.Outcome State Fault Refusal :=
  issue (.qirq g q v) s fun x s => engine g x s fun _ => performAll x s fun s => appendEntry x s q.toNat fun s => .ok (.irq v.toNat, s)

/-- `QSWAP` (R283, R339, R344): executes at once and takes no queue. -/
def execQswap (g : BitVec 3) (c : BitVec 1) (s : State) : Host.Outcome State Fault Refusal :=
  issue (.qswap g c) s fun x s => engine g x s fun _ => .done (s.swapRequest (partOf x.ctx) c.toNat)

/-! The start of queue entries. -/

/-- The entry that a queue would start next (R283, R338, R390): of a running context that has not halted, with no entry in progress and
no page missing. -/
def State.nextEntry (s : State) (ctx q : Nat) : Option QEntry :=
  match (s.ctx ctx).queues[q]? with
  | none => none
  | some y =>
    if y.started || y.held.isSome || y.stuck.isSome || !s.running ctx || s.halted ctx || (s.part (partOf ctx)).swap.isSome then none
    else y.entries.head?

/-- Change a queue of a context. -/
def State.modQueue (s : State) (ctx q : Nat) (f : CmdQueue → CmdQueue) : State :=
  let x := s.ctx ctx
  s.putCtx ctx { x with queues := x.queues.modify q f }

/-- A cause of a queue entry (R283, R390): a missing page holds the entry and is reported, another halts the context. -/
def State.entryCause (s : State) (ctx q : Nat) (c : Cause) (va : DWord) (wr : Bool) : State :=
  if c = Cause.page then (s.modQueue ctx q fun y => { y with held := some va }).pageFault ctx va 0 3 wr false 511 5 0
  else s.raiseHalt ctx { code := c, src := 1, core := 511 }

/-- A `QLAUNCH` entry starts (R283, R353): its grid is accepted at depth 0, when a grid entry is free. R280 gives a failed record write `ACCESS`,
R283 the cause that the entry meets: here, where the entry makes the write, the latter (DESIGN CHOICE, log entry 47). -/
def State.startLaunch (s : State) (ctx q : Nat) : Option State :=
  match s.nextEntry ctx q with
  | some (.launch b d) =>
    if 65536 ≤ s.liveGrids ctx then none
    else
      let (gid, s') := s.takeGid ctx
      match s'.acceptGrid ⟨ctx, gid⟩ (gridOf b d 0 none (some q)) with
      | .ok s => some (s.modQueue ctx q fun y => { y with started := true })
      | .error (c, va, wr, u) => some ((if c = Cause.page then s else u).entryCause ctx q c va wr)
  | _ => none

/-- A `QCOPY` entry starts (R253, R254, R283): with the alignment checks of a `BCOPY`; a copy of no bytes completes at once. -/
def State.startCopy (s : State) (ctx q : Nat) : Option State :=
  match s.nextEntry ctx q with
  | some (.copy b) =>
    let len := (wordAt b 4).toNat
    if (pairAt b 0).toNat % 16 ≠ 0 || (pairAt b 2).toNat % 16 ≠ 0 || len % 16 ≠ 0 then some (s.entryCause ctx q Cause.align 0 false)
    else if len = 0 then some (s.queueDone ctx q)
    else
      let c : Copy := { src := pairAt b 0, dst := pairAt b 2, len := len }
      some ((s.modQueue ctx q fun y => { y with started := true }).addOp fun id =>
        { id := id, agent := .cp ctx, core := 511, kind := .copy c, queue := some q })
  | _ => none

/-- The object of a semaphore entry (R66, R237, R283): a cause, or the object. One at a peer needs a route, a port that is up, and an answer (R394,
R395, R420). -/
def State.entryObject (s : State) (ctx : Nat) (va : DWord) (wr : Bool) : Except (Cause × State) (Place × ObjAddr × State) :=
  if va.toNat / 2 ^ 57 ≠ 0 then .error (Cause.access, s)
  else if va.toNat % 16 ≠ 0 then .error (Cause.align, s)
  else
    match s.translate ctx 511 1 (if wr then .write else .read) va with
    | (.page, s) => .error (Cause.page, s)
    | (.ok p _ _, s) =>
      match p.obj, s.ctxLocate ctx va.toNat with
      | some b, none =>
        match s.hubAnswer (partOf ctx) p 2 16 with
        | (some c, s) => .error (c, s)
        | (none, s) => .ok (p, b, s.reachObj 511 b)
      | _, _ => .error (Cause.access, s)
    | (_, s) => .error (Cause.access, s)

/-- A `QSEMW` entry starts (R122, R142, R283): it passes at once, or registers as a waiter at the object. -/
def State.startSemwait (s : State) (ctx q : Nat) : Option State :=
  match s.nextEntry ctx q with
  | some (.semw va v) =>
    match s.entryObject ctx va false with
    | .error (c, s) => some (s.entryCause ctx q c va false)
    | .ok (_, o, u) =>
      if semPasses (u.objWord o 0) v then some (u.queueDone ctx q)
      else
        let s := u.modQueue ctx q fun y => { y with started := true }
        some { s with waiters := s.waiters ++ [{ obj := o, agent := .cp ctx, lanes := 0, queue := some q, value := v, phase := false }] }
  | _ => none

/-- A `QSEMS` entry starts (R142, R283): VALUE rises as a release, and the entry completes. -/
def State.startSemsig (s : State) (ctx q : Nat) : Option State :=
  match s.nextEntry ctx q with
  | some (.sems va v) =>
    match s.entryObject ctx va true with
    | .error (c, s) => some (s.entryCause ctx q c va true)
    | .ok (p, o, u) => some ((u.semAdd o p.row v).queueDone ctx q)
  | _ => none

/-- Raise an MSI-X vector of a function (R418): a masked one stays pending. -/
def State.raiseMsix (s : State) (fn vec : Nat) : State :=
  if s.msixMask.contains (fn, vec) then
    (if s.msixPend.contains (fn, vec) then s else { s with msixPend := s.msixPend ++ [(fn, vec)] })
  else { s with out := s.out ++ [.msix fn vec] }

/-- A `QIRQ` entry starts (R152, R283, R418). -/
def State.startIrq (s : State) (ctx q : Nat) : Option State :=
  match s.nextEntry ctx q with
  | some (.irq v) => some ((s.raiseMsix (1 + partOf ctx) v).queueDone ctx q)
  | _ => none

end Sys2Proof.Machine
end

