-- ==== Sys2Proof/Machine/PowerTime.lean ====
section
/-! DEFINITION. The power and time group, major 0x1B (R284 to R287, R307, R310). -/

namespace Sys2Proof.Machine

open Sys2Proof

/-- Write one sampled word: to every thread of the group, or to the uniform register (R284). -/
def sampled (u : BitVec 1) (d : Nat) (v : Word) (x : Issuer) (s : State) : Effect := plain u d (fun _ => v) x s

/-- Write one sampled pair. -/
def sampledPair (u : BitVec 1) (d : Nat) (v : DWord) (x : Issuer) (s : State) : Effect := arithPair u d (fun _ => v) x s

/-- `PHASE` (R285, R306): advice without an effect on any state. -/
def execPhase (a : BitVec 6) (s : State) : Host.Outcome State Fault Refusal := issue (.phase a) s fun _ s => .done s

/-- `PERF` (R285, R307): the request of the lowest thread of the group; PNU when the threads disagree. -/
def execPerf (a : BitVec 6) (s : State) : Host.Outcome State Fault Refusal :=
  issue (.perf a) s fun x s =>
    let req (l : Nat) : BitVec 2 := (x.w.vreg a.toNat l).setWidth 2
    x.finish s { x.w with perf := req x.low, pnu := x.w.pnu || x.lanes.any fun l => req l != req x.low }

/-- The sum of the four shares of a core, limited to 0 to 65,536 (R304). -/
def Core.tokens (c : Core) : Nat := (max 0 (min 65536 (c.shares.foldl (· + ·) 0))).toNat

/-- `TOKQ` (R286, R304): a command processor has no core bucket and no wave, and the spec states no value there; the core bucket of selector 0 and the
reading of selector 1 are taken before the charge of the `TOKQ` itself (DESIGN CHOICE, log entry 22). -/
def execTokq (u : BitVec 1) (d a : BitVec 6) (s : State) : Host.Outcome State Fault Refusal :=
  issue (.tokq u d a) s fun x s =>
    if a = 2 then sampled u d.toNat (s.pwReg 0x003) x s
    else
      match x.a with
      | .cp _ => let (v, s) := s.free; sampled u d.toNat v x s
      | .wave _ =>
        sampled u d.toNat (if a = 0 then BitVec.ofNat 32 (s.core (s.coreOf x.a)).tokens else x.w.tokens) x s

/-- `CAPQ` (R284, R310). -/
def execCapq (u : BitVec 1) (d : BitVec 6) (s : State) : Host.Outcome State Fault Refusal :=
  issue (.capq u d) s fun x s => sampled u d.toNat (BitVec.ofNat 32 (bits (s.pwReg 0x00B) 0 14)) x s

/-- `TIME.ref` (R284). -/
def execTimeRef (u : BitVec 1) (d : BitVec 6) (s : State) : Host.Outcome State Fault Refusal :=
  issue (.timeRef u d) s fun x s => sampledPair u d.toNat (BitVec.ofNat 64 s.timeRef) x s

/-- `TIME.cyc` (R284); on a command processor a count in fclk is one of hub fclk (R22). -/
def execTimeCyc (u : BitVec 1) (d : BitVec 6) (s : State) : Host.Outcome State Fault Refusal :=
  issue (.timeCyc u d) s fun x s =>
    match x.a with
    | .cp _ => sampledPair u d.toNat (BitVec.ofNat 64 s.hubCyc) x s
    | .wave _ => sampledPair u d.toNat (BitVec.ofNat 64 (s.cluster (clusterOf (s.coreOf x.a))).cyc) x s

/-- One round of Mix (R287): the words x, y and the two halves of the key. -/
def mixRound (m : Word × Word × Word × Word) : Word × Word × Word × Word :=
  let (x, y, ka, kb) := m
  let p := x.toNat * 0xD2511F53
  let ka' := ka + 0x9E3779B9
  (BitVec.ofNat 32 (p / 2 ^ 32) ^^^ y ^^^ kb, BitVec.ofNat 32 p ^^^ ka', ka', kb + 0xBB67AE85)

/-- Mix(key, ctr) (R287). -/
def mix (key : DWord) (ctr : Word) : Word :=
  let ka := loWord key
  let m := mixRound (mixRound (mixRound (mixRound (mixRound (mixRound (ctr, ka ^^^ 0x9E3779B9, ka, hiWord key))))))
  m.1 ^^^ m.2.1

/-- `RNG` (R284, R287): the key is a k pair in both forms. -/
def execRng (u : BitVec 1) (d a b : BitVec 6) (s : State) : Host.Outcome State Fault Refusal :=
  issue (.rng u d a b) s fun x s => plain u d.toNat (fun r => mix (x.w.kpair b.toNat) (r a.toNat)) x s

end Sys2Proof.Machine
end

