-- ==== Sys2Proof/Machine/Lines.lean ====
section
/-! DEFINITION. Context lines (R49, R50, R57, R73 to R75, R331, R347, R358, R367): the fill of a wave's lines with the frames that it records,
their drop, and the park of a wave whose context page is missing. -/

namespace Sys2Proof.Machine

open Sys2Proof

/-- Drop held lines of a wave that are not dirty: its next use of them is a miss. -/
def State.dropLines (s : State) (k : WaveKey) (lines : List Nat) : State :=
  let (_, nr) := s.waveSpan k
  s.modAgent (.wave k) fun w =>
    let go := lines.filter fun l => !w.absent.contains l && !w.lineDirty nr l
    { w with
      absent := w.absent ++ go, frames := w.frames.filter fun p => !go.contains p.1, poison := w.poison.filter fun p => !go.contains (p.1 / 2) }

/-- Write a wave back and drop every line (R347). -/
def State.invalidateWave (s : State) (k : WaveKey) : State := (s.flushWave k).dropLines k (List.range (waveLines (s.waveSpan k).2))

/-- The register lines of a wave that the register cache holds. -/
def Wave.heldRegs (w : Wave) (nr : Nat) : List Nat :=
  (List.range nr).filterMap fun j => if w.absent.contains (16 + j) || (w.linePa (16 + j)).isNone then none else some (16 + j)

/-- The register lines of a wave are written back and dropped (R70, R358). -/
def State.dropRegs (s : State) (k : WaveKey) : State :=
  let lines := ((s.wave? k).map (·.heldRegs (s.waveSpan k).2)).getD []
  (lines.foldl (fun s l => s.writeLine k l) s).dropLines k lines

/-- A wave lives in memory only, its lines written back and dropped (R49, R50). -/
def State.toMemory (s : State) (k : WaveKey) : State := (s.invalidateWave k).modAgent (.wave k) fun w => { w with cls := .memory, missing := [] }

/-- The record that a wave parks with `CONTEXT` (R74, R374): its running threads become parked, and its issue groups are kept. -/
def State.parkContext (s : State) (k : WaveKey) (va : DWord) : State :=
  let a : Agent := .wave k
  let s := s.modAgent a fun w =>
    { (w.setCause Cause.context 0).modLanes (w.lanesIn .running) fun t => { t with stat := .parked, kind := 17 } with
      cpk := true, kept := w.groups }
  s.pageFault k.team.grid.ctx va (s.whoBase a) 2 false false (s.coreOf a) 0 0

/-- Translate the lines of a fill, at their addresses: the frame of the page of each, plus 1, or the first line that fails with its cause (R370,
R374, R375). -/
def State.fillPages (s : State) (ctx core level : Nat) (f : Tab Nat) : List Nat → Except (Cause × DWord) (Tab Nat) × State
  | [] => (.ok f, s)
  | va :: vs =>
    if f.get 0 (va / 4096) ≠ 0 then s.fillPages ctx core level f vs
    else
      match s.translate ctx core level .read (BitVec.ofNat 64 va) with
      | (.ok (.mem a _ row) _ _, s) => s.fillPages ctx core level (f.put 0 (va / 4096) (frameOf (a - va % 4096) row + 1)) vs
      | (.page, s) => (.error (Cause.page, BitVec.ofNat 64 va), s)
      | (_, s) => (.error (Cause.access, BitVec.ofNat 64 va), s)

/-- The bytes of one absent line come from memory (R73), but for those that registers took since it was dropped, and all of a line that is filled for
the first time: such a line is dirty from now on (R367). -/
def State.readLine (s : State) (k : WaveKey) (line f : Nat) : State :=
  let nr := (s.waveSpan k).2
  let pa := frameAddr f
  let s := s.cacheReach pa
  let bs := s.homeBytes pa 128
  s.modAgent (.wave k) fun w =>
    let mine := w.unsynced nr line
    let keep (j : Nat) : Bool := mine[j]?.getD true
    let w := (List.range 128).foldl
      (fun (w : Wave) j =>
        let o := 128 * line + j
        if keep j || w.blockByte nr o = bs[j]?.getD 0 then w else w.setBlockByte nr o (bs[j]?.getD 0)) w
    { w with
      absent := w.absent.filter fun l => l ≠ line,
      synced := w.synced.ins line ((List.range 128).map fun j => if keep j then 0 else (bs[j]?.getD 0).toNat + 1),
      frames := w.frames.put 0 line (f + 1),
      dirtied := if (List.range 128).any keep then w.dirtied ++ [line] else w.dirtied,
      poison := (List.range 2).foldl (fun p h => p.put 0 (2 * line + h) (s.poison.get 0 (pa / 64 + h))) w.poison }

/-- Fill the `s` words of a team with the header lines of one of its waves, or the cause in the way with its address (R370, R374). -/
def State.fillS (s : State) (k : TeamKey) (core level : Nat) : Except (Cause × DWord) Unit × State :=
  match s.team? k, s.grid? k.grid with
  | some t, some g =>
    let va := g.teamBase t.slot
    if t.sFrame.isSome && t.sDrop.isNone then (.ok (), s)
    else
      match s.translate k.grid.ctx core level .read va with
      | (.ok (.mem pa _ row) _ _, s) =>
        (.ok (), (if t.sDrop.isNone then s.markContext k.grid.ctx core level va.toNat else s).loadS k (frameOf pa row))
      | (.page, s) => (.error (Cause.page, va), s)
      | (_, s) => (.error (Cause.access, va), s)
  | _, _ => (.ok (), s)

/-- A fill of a wave's lines fails (R74, R370): a missing page parks the wave, another failed check halts the context. -/
def State.failFill (s : State) (k : WaveKey) (c : Cause) (va : DWord) : State :=
  match s.wave? k with
  | none => s
  | some w =>
    if c = Cause.page then s.parkContext k va else s.takeCause (.wave k) w.lead c 0 (w.th (lowLane w.lead)).pc (w.th (lowLane w.lead)) 0

/-- Fill lines of a wave block (R73 to R75, R367): absent lines are read, and lines that were never filled record their frame; the page of each
is translated. The result says whether the lines are held. -/
def State.fillBlock (s : State) (k : WaveKey) (lines : List Nat) : Bool × State :=
  let (base, nr) := s.waveSpan k
  let a : Agent := .wave k
  let ctx := k.team.grid.ctx
  match s.wave? k with
  | none => (false, s)
  | some w =>
    let need := lines.filter fun l => w.absent.contains l || (w.linePa l).isNone
    match s.fillPages ctx (s.coreOf a) (s.level a) [] (need.map (base + 128 * ·)) with
    | (.error (c, va), s) => (false, s.failFill k c va)
    | (.ok f, s) =>
      let frame (l : Nat) : Nat := f.get 0 ((base + 128 * l) / 4096) - 1 + (base + 128 * l) % 4096
      (true, need.foldl
        (fun s l =>
          if w.absent.contains l then s.readLine k l (frame l)
          else
            let s := s.modAgent a fun w => { w with frames := w.frames.put 0 l (frame l + 1) }
            if w.lineDirty nr l then s.markContext ctx (s.coreOf a) (s.level a) (base + 128 * l) else s) s)

/-- Fill lines of a wave, the line of its team's `s` words among them where it is absent. -/
def State.fillLines (s : State) (k : WaveKey) (lines : List Nat) : Bool × State :=
  if lines.contains sLine then
    match s.fillS k.team (s.coreOf (.wave k)) (s.level (.wave k)) with
    | (.error (c, va), s) => (false, s.failFill k c va)
    | (.ok _, s) => s.fillBlock k (lines.filter (· ≠ sLine))
  else s.fillBlock k lines

/-! The dirty bits of context pages (R367). -/

/-- Header lines that agreed with memory and no longer do count as dirty from now on. -/
def Wave.noteHeader (w : Wave) (nr : Nat) : Wave :=
  (List.range 16).foldl
    (fun (w : Wave) l =>
      match w.synced.find l with
      | none => w
      | some bs =>
        if w.absent.contains l || bs.contains 0 || !w.lineDirty nr l then w
        else
          { w with
            dirtied := w.dirtied ++ [l]
            synced := w.synced.ins l ((bs.zip (w.unsynced nr l)).map fun p => if p.2 then 0 else p.1) })
    w

/-- Set the dirty bits of the pages of one wave's lines that became dirty. -/
def State.markDirtied (s : State) (k : WaveKey) : State :=
  match s.wave? k with
  | none => s
  | some w =>
    let (base, nr) := s.waveSpan k
    let w := w.noteHeader nr
    let a : Agent := .wave k
    if w.dirtied.isEmpty then s
    else
      w.dirtied.foldl (fun s l => s.markContext k.team.grid.ctx (s.coreOf a) (s.level a) (base + 128 * l))
        (s.putWave k { w with dirtied := [] })

/-- Set the dirty bit of the page of a team's `s` words when they became dirty. -/
def State.markShared (s : State) (k : TeamKey) : State :=
  match s.team? k, s.grid? k.grid with
  | some t, some g =>
    if t.sDirtied then
      (s.putTeam k { t with sDirtied := false }).markContext k.grid.ctx t.core (if s.sys k.grid.ctx then 1 else 0) (g.teamBase t.slot).toNat
    else s
  | _, _ => s

/-- Context lines that became dirty in this step set the dirty bits of their pages (R367). -/
def State.noteDirty (s : State) : State :=
  s.teams.foldl
    (fun s (k, t) =>
      if t.saved then s
      else
        (List.range t.waves.length).foldl
          (fun s i =>
            match t.waves[i]? with
            | some w => if w.synced.isEmpty then s else s.markDirtied ⟨k, i⟩
            | none => s)
          (s.markShared k))
    s

end Sys2Proof.Machine
end

