-- ==== Sys2Proof/Machine/Sha256.lean ====
section
/-! DEFINITION. SHA-256, which R425 names and does not define: it is taken from FIPS 180-4 (PRESUMED, log entry 79). -/

namespace Sys2Proof.Machine

open Sys2Proof

/-- The round constants. -/
def shaK : List Word :=
  [0x428A2F98, 0x71374491, 0xB5C0FBCF, 0xE9B5DBA5, 0x3956C25B, 0x59F111F1, 0x923F82A4, 0xAB1C5ED5,
   0xD807AA98, 0x12835B01, 0x243185BE, 0x550C7DC3, 0x72BE5D74, 0x80DEB1FE, 0x9BDC06A7, 0xC19BF174,
   0xE49B69C1, 0xEFBE4786, 0x0FC19DC6, 0x240CA1CC, 0x2DE92C6F, 0x4A7484AA, 0x5CB0A9DC, 0x76F988DA,
   0x983E5152, 0xA831C66D, 0xB00327C8, 0xBF597FC7, 0xC6E00BF3, 0xD5A79147, 0x06CA6351, 0x14292967] ++
  [0x27B70A85, 0x2E1B2138, 0x4D2C6DFC, 0x53380D13, 0x650A7354, 0x766A0ABB, 0x81C2C92E, 0x92722C85,
   0xA2BFE8A1, 0xA81A664B, 0xC24B8B70, 0xC76C51A3, 0xD192E819, 0xD6990624, 0xF40E3585, 0x106AA070,
   0x19A4C116, 0x1E376C08, 0x2748774C, 0x34B0BCB5, 0x391C0CB3, 0x4ED8AA4A, 0x5B9CCA4F, 0x682E6FF3,
   0x748F82EE, 0x78A5636F, 0x84C87814, 0x8CC70208, 0x90BEFFFA, 0xA4506CEB, 0xBEF9A3F7, 0xC67178F2]

/-- The initial hash words. -/
def shaInit : List Word :=
  [0x6A09E667, 0xBB67AE85, 0x3C6EF372, 0xA54FF53A, 0x510E527F, 0x9B05688C, 0x1F83D9AB, 0x5BE0CD19]

/-- A message with its padding: a one bit, zeros, and its length in bits, most significant byte first. -/
def shaPad (bs : List Byte) : List Byte :=
  bs ++ 0x80#8 :: List.replicate ((119 - bs.length % 64) % 64) 0 ++ ((List.range 8).reverse.map fun j => BitVec.ofNat 8 (8 * bs.length / 256 ^ j))

/-- Word j of a block, most significant byte first. -/
def shaWord (block : List Byte) (j : Nat) : Word :=
  ((block.drop (4 * j)).take 4).foldl (fun (w : Word) b => w <<< 8 ||| b.setWidth 32) 0

/-- The next n words of a message schedule, of which the latest come first. -/
def shaSchedule (ws : List Word) : Nat → List Word
  | 0 => ws
  | n + 1 =>
    let at_ (j : Nat) : Word := ws[j]?.getD 0
    let s0 := (at_ 14).rotateRight 7 ^^^ (at_ 14).rotateRight 18 ^^^ (at_ 14) >>> 3
    let s1 := (at_ 1).rotateRight 17 ^^^ (at_ 1).rotateRight 19 ^^^ (at_ 1) >>> 10
    shaSchedule ((s1 + at_ 6 + s0 + at_ 15) :: ws) n

/-- One round: the words a to h, the round constant and the schedule word. -/
def shaRound (v : List Word) (k w : Word) : List Word :=
  match v with
  | [a, b, c, d, e, f, g, h] =>
    let t1 := h + (e.rotateRight 6 ^^^ e.rotateRight 11 ^^^ e.rotateRight 25) + ((e &&& f) ^^^ (~~~e &&& g)) + k + w
    let t2 := (a.rotateRight 2 ^^^ a.rotateRight 13 ^^^ a.rotateRight 22) + ((a &&& b) ^^^ (a &&& c) ^^^ (b &&& c))
    [t1 + t2, a, b, c, d + t1, e, f, g]
  | v => v

/-- The hash words after one more block. -/
def shaBlock (h : List Word) (block : List Byte) : List Word :=
  let ws := (shaSchedule (((List.range 16).map (shaWord block)).reverse) 48).reverse
  (h.zip ((shaK.zip ws).foldl (fun v p => shaRound v p.1 p.2) h)).map fun p => p.1 + p.2

/-- SHA-256: the 32 bytes of the hash of a message. -/
def sha256 (bs : List Byte) : List Byte :=
  let m := shaPad bs
  (((List.range (m.length / 64)).map fun j => (m.drop (64 * j)).take 64).foldl shaBlock shaInit).flatMap fun w =>
    (List.range 4).reverse.map fun j => BitVec.ofNat 8 (w.toNat / 256 ^ j)

end Sys2Proof.Machine
end

