-- ==== Sys2Proof/Machine/Device.lean ====
section
/-! DEFINITION. The events of the module's edges (R3, R7, R105, R329, R340, R350, R362, R375, R392 to R395, R399 to R404, R417 to R430):
the fabric, the host, registers written from outside, storage errors, security and bring-up. -/

namespace Sys2Proof.Machine

open Sys2Proof

/-! Internal queues (R362). -/

/-- The clock count of an internal queue (R21, R22): its cluster's fclk, the memory-side clock, which is 25/16 of the reference, or the hub fclk. -/
def State.queueClock (s : State) (q : QueueName) : Nat :=
  match q.clock with
  | .cluster c => (s.cluster c).cyc
  | .memory => s.timeRef * 25 / 16
  | .hub => s.hubCyc

/-- An internal queue as it stands. -/
def State.loadOf (s : State) (q : QueueName) : QueueLoad := (s.loads.find? fun l => l.queue = q).getD { queue := q }

/-- Note how an internal queue stands. -/
def State.putLoad (s : State) (l : QueueLoad) : State := { s with loads := s.loads.filter (fun x => x.queue ≠ l.queue) ++ [l] }

/-- An internal queue comes to stand below half full (level 0), neither (1) or full (2): below half, its reserve entry is restored (R362). -/
def State.queueLevel (s : State) (q : QueueName) (level : Nat) : State :=
  let l := s.loadOf q
  s.putLoad (match level with
    | 0 => { l with since := none, spent := false }
    | 1 => { l with since := none }
    | _ => { l with since := some (l.since.getD (s.queueClock q)) })

/-- `PROBE_TOKEN` (R362): a queue that has stood full for 256 fclk of its clock sends a probe to the queue that blocks it; one probe of an origin
at a time. -/
def execProbeToken (origin blocked : QueueName) (s : State) : Host.Outcome State Fault Refusal :=
  if 8 ≤ origin.part then .fault (.noSuchUnit "PROBE_TOKEN")
  else
    event "PROBE_TOKEN" s fun s =>
      match (s.loadOf origin).since with
      | none => none
      | some t =>
        if s.queueClock origin < t + 256 || s.probes.any fun p => p.origin = origin then none
        else some { s with probes := s.probes ++ [{ origin := origin, at_ := blocked }] }

/-- `PROBE_PASS` (R362): a queue that is not blocked drops a probe, and a full one passes it on; a probe that comes back to its origin lets it grant
its reserve entry, if it has it, until the queue falls below half full. -/
def execProbePass (q : QueueName) (next : Option QueueName) (s : State) : Host.Outcome State Fault Refusal :=
  event "PROBE_PASS" s fun s =>
    match s.probes.findIdx? fun p => p.at_ = q with
    | none => none
    | some i =>
      let p := s.probes[i]?.getD { origin := q, at_ := q }
      let gone : State := { s with probes := s.probes.eraseIdx i }
      match next with
      | none => if (s.loadOf q).since.isSome then none else some gone
      | some r =>
        if (s.loadOf q).since.isNone then none
        else if r = p.origin then
          if (s.loadOf r).spent then some gone
          else some ((gone.putLoad { s.loadOf r with spent := true }).setPtReg r.part 0x00D (s.ptReg r.part 0x00D + 1))
        else some { s with probes := s.probes.set i { p with at_ := r } }

/-! Straits (R420 to R424). -/

/-- `FLIT_FORWARD` (R420): a flit for another chip leaves by the same lookup with its hop count raised; at 63 hops, or where the port is down, it is
discarded; without a route it is refused to its initiator. -/
def execFlitForward (f : Flit) (s : State) : Host.Outcome State Fault Refusal :=
  event "FLIT_FORWARD" s fun s =>
    if f.chip.toNat = s.chip then none
    else
      match s.routeTo f.chip.toNat with
      | none => some { s with out := s.out ++ [.refusal f] }
      | some port =>
        if !s.portUp port || decide (63 ≤ f.hops + 1) then some s
        else some { s with out := s.out ++ [.flit port { f with hops := f.hops + 1 }] }

/-- KIND of an inbound request (R424). -/
def inKindCode (r : InRequest) : Nat := match r.kind with | .read _ => 0 | .write _ => 1 | .atomic .. => 2

/-- The bytes that an inbound request reaches. -/
def inLen (r : InRequest) : Nat :=
  match r.kind with | .read n => n | .write bs => bs.length | .atomic op _ _ => atomSize op.toNat

/-- The 64-byte chunks that a request can span. -/
def inFuel (r : InRequest) : Nat := inLen r / 64 + 2

/-- The pieces of an inbound request at this module, by 64-byte granules (R370, R423): the place of each with its length, or the
REASON of the refusal. A physical address is checked as a frame, a virtual one is translated for the context. -/
def State.inboundPlaces (s : State) (p ctx : Nat) (r : InRequest) (va : DWord) (n : Nat) :
    Nat → Except Nat (List (Place × Nat)) × State
  | 0 => (.ok [], s)
  | fuel + 1 =>
    if n = 0 then (.ok [], s)
    else
      let c := chunkTo va.toNat n
      let k : AccKind := match r.kind with | .read _ => .read | _ => .write
      let x : Xlat × State :=
        if r.physical then
          match s.checkFrame (2 * p) 0 k 0x7 (va.toNat % 2 ^ 46) with
          | some q => (.ok q va.toNat 0, s)
          | none => (.access, s)
        else s.unitXlat ctx 511 k va
      match x with
      | (.page, s) => (.error 2, s)
      | (.ok q _ _, s) =>
        match q with
        | .mem a nc row =>
          if isPeer a then (.error 3, s)
          else if k = .write && s.waited q c then (.error 4, s)
          else
            match s.inboundPlaces p ctx r (va + BitVec.ofNat 64 c) (n - c) fuel with
            | (.ok rest, s) => (.ok ((.mem a nc row, c) :: rest), s)
            | e => e
        | _ => (.error 3, s)
      | (.access, s) => (.error 3, s)

/-- Read pieces at their home points (R109, R123). -/
def State.readPieces (s : State) (ps : List (Place × Nat)) : List Byte × State :=
  ps.foldl
    (fun (r : List Byte × State) p =>
      match p.1 with
      | .mem a nc _ => let (bs, s) := r.2.readBytes 511 a p.2 nc true; (r.1 ++ bs, s)
      | _ => r)
    ([], s)

/-- Write pieces at their home points. -/
def State.writePieces (s : State) (ps : List (Place × Nat)) (bs : List Byte) : State :=
  (ps.foldl
    (fun (r : State × List Byte) p =>
      match p.1 with
      | .mem a _ row => ((r.1.promoteFor 511 a).homeWrites a (r.2.take p.2) row, r.2.drop p.2)
      | _ => r)
    (s, bs)).1

/-- Perform an inbound request and answer it. -/
def State.inboundPerform (s : State) (r : InRequest) (ps : List (Place × Nat)) : State :=
  let reply (s : State) (bs : List Byte) : State := { s with out := s.out ++ [.response r bs] }
  match r.kind with
  | .read _ => let (bs, s) := s.readPieces ps; reply s bs
  | .write bs => reply (s.writePieces ps bs) []
  | .atomic op v c =>
    let (old, s) := s.readPieces ps
    reply (s.writePieces ps (leBytes (atomSize op.toNat) (rmw op.toNat (ofLeBytes old) v.toNat c.toNat))) old

/-- A request is refused with a negative acknowledgment (R394). -/
def State.nackRequest (s : State) (r : InRequest) : State := { s with out := s.out ++ [.nack r.chip r.job r.addr] }

/-- A request of a peer is bound by its job and performed at its home point, or refused with a record (R370, R394, R423, R424). -/
def State.serveRequest (s : State) (r : InRequest) : State :=
  match s.bound r.job with
  | none => (s.unboundFault r.addr r.chip r.job (inKindCode r) (inLen r)).nackRequest r
  | some (p, none) => (s.inboundFault p 0xFF r.addr r.chip r.job 1 (inKindCode r) (inLen r)).nackRequest r
  | some (p, some c) =>
    match s.inboundPlaces p c r r.addr (inLen r) (inFuel r) with
    | (.error reason, s) => (s.inboundFault p (c % 2) r.addr r.chip r.job reason (inKindCode r) (inLen r)).nackRequest r
    | (.ok ps, s) => s.inboundPerform r ps

/-! The fabric inbound queue (R360, R361). -/

/-- The job of what arrives. -/
def Inbound.job : Inbound → Nat | .request r => r.job | .delivery d => d.job

/-- An ordered contribution would wait at its source (R293). -/
def State.mustWait (s : State) (i : Inbound) : Bool :=
  match i, s.bound i.job with
  | .delivery d, some (p, some c) => d.ord && (match s.arrive p c d with | .waits => true | _ => false)
  | _, _ => false

/-- What has arrived is served; none while an ordered contribution waits (R293). -/
def State.serve (s : State) : Inbound → Option State
  | .request r => some (s.serveRequest r)
  | .delivery d => s.inboundDelivery d

/-- The ring address of place n of an inbound ring (R360), in the context to which the partition's job is bound. -/
def State.inRing (s : State) (p n : Nat) : DWord :=
  pair (s.ptReg p 0x00A) (BitVec.ofNat 32 (bits (s.ptReg p 0x00B) 0 25)) + BitVec.ofNat 64 (512 * (n % bits (s.ptReg p 0x00C) 0 16))

/-- A full ring refuses what arrives (R361, R402, R424): REASON 6, `QUEUE_QUOTA` of kind 2, and a negative acknowledgment. -/
def State.inboundFullRefuse (s : State) (p c : Nat) (i : Inbound) : State :=
  let s := s.raiseEvent p 0x02 0xFF [2]
  match i with
  | .request r => (s.inboundFault p (c % 2) r.addr r.chip r.job 6 (inKindCode r) (inLen r)).nackRequest r
  | .delivery d =>
    let s := s.inboundFault p (c % 2) d.addr d.chip d.job 6 (if d.ord then 4 else 3) d.data.length
    { s with out := s.out ++ [.nack d.chip d.job d.addr] }

/-- What has arrived goes to the inbound ring of a partition (R360, R361); a missing page holds it until it is present. No rule states how an entry
lies in the ring: its bytes are free (DESIGN CHOICE, log entry 55). -/
def State.inboundSpill (s : State) (p c : Nat) (i : Inbound) : State :=
  let x := s.part p
  let (bs, u) := s.freeBytes 512
  match u.unitWrite c (s.inRing p x.inNext) ((List.range 32).map fun j => (bs.drop (16 * j)).take 16) with
  | .error (k, at_, u) => (u.putPart p { x with inStuck := some at_, inHeld := some i }).ringFault c k at_ true
  | .ok u => let y := u.part p; u.putPart p { y with inq := y.inq ++ [i], inNext := y.inNext + 1, inHeld := none }

/-- What arrives for a partition is served at once while its queue on chip has room and its ring is empty; else it goes to the ring, or is refused
there (R360, R361). An ordered contribution that is to wait stays at its source (R293). -/
def State.inboundArrive (s : State) (i : Inbound) : Option State :=
  match s.bound i.job with
  | some (p, some c) =>
    let x := s.part p
    if s.mustWait i then none
    else if !x.inFull && x.inq.isEmpty && x.inHeld.isNone then s.serve i
    else if x.inStuck.isSome || x.inHeld.isSome then none
    else if bits (s.ptReg p 0x00C) 0 16 ≤ x.inq.length then some (s.inboundFullRefuse p c i)
    else some (s.inboundSpill p c i)
  | _ => s.serve i

/-- The oldest entry of an inbound ring is read back and served (R361); an ordered contribution that is to wait goes back to its source (R293). -/
def State.inboundOldest (s : State) (p c : Nat) (x : Part) : Option State :=
  match x.inq with
  | [] => none
  | i :: rest =>
    match s.readSource c (s.inRing p (x.inNext - x.inq.length)) 512 40 with
    | .error (k, va, s) => some ((s.putPart p { x with inStuck := some va }).ringFault c k va false)
    | .ok (_, _, s) =>
      match i, s.mustWait i with
      | .delivery d, true => let y := s.part p; some (s.putPart p { y with inq := rest, atSource := y.atSource ++ [d] })
      | i, _ => (s.serve i).map fun s => let y := s.part p; s.putPart p { y with inq := rest }

/-- The next movement of a partition's fabric inbound queue (R293, R361): a contribution that waited at its source comes, what a missing page held
goes to the ring, or the oldest entry of the ring is served. -/
def State.inboundNext (s : State) (p : Nat) : Option State :=
  let x := s.part p
  let c := 2 * p + bits (s.ptReg p 0x016) 16 1
  match x.atSource.findIdx? fun d => !s.mustWait (.delivery d) with
  | some i =>
    match x.atSource[i]? with
    | some d => (s.serve (.delivery d)).map fun s => let y := s.part p; s.putPart p { y with atSource := y.atSource.eraseIdx i }
    | none => none
  | none =>
    if x.inStuck.isSome then none
    else
      match x.inHeld with
      | some i => some (s.inboundSpill p c i)
      | none => if x.inFull then none else s.inboundOldest p c x

/-- `INBOUND_REQUEST` (R361, R370, R394, R423, R424): a request of a peer arrives. -/
def execInboundRequest (r : InRequest) (s : State) : Host.Outcome State Fault Refusal :=
  event "INBOUND_REQUEST" s fun s => s.inboundArrive (.request r)

/-- `COLLECTIVE_DELIVERY` (R97, R148, R274, R361, R422, R423): an unordered delivery reaches this module. -/
def execCollectiveDelivery (d : Delivery) (s : State) : Host.Outcome State Fault Refusal :=
  event "COLLECTIVE_DELIVERY" s fun s => if d.ord then none else (s.inboundArrive (.delivery d)).map (·.passOn d)

/-- `ORDERED_CONTRIBUTION` (R293, R294, R361): an ordered contribution reaches this module. -/
def execOrderedContribution (d : Delivery) (s : State) : Host.Outcome State Fault Refusal :=
  event "ORDERED_CONTRIBUTION" s fun s => if d.ord then s.inboundArrive (.delivery d) else none

/-! Refusals and timeouts at the initiator (R250, R394, R395). -/

/-- A place at a peer; a request for host memory may go without a response too (`late`, R395, R419). -/
def Place.atPeer (late : Bool) : Place → Bool
  | .mem a _ _ => isPeer a || (late && isHost a)
  | _ => false

/-- Addresses that a transfer reaches next, with the kind of access: of a copy that has moved every byte, its barrier object. -/
def State.nextAddrs (s : State) : OpKind → List (AccKind × DWord)
  | .copy c =>
    if c.len ≤ c.done then (c.bar.map fun a => (.write, a)).toList
    else
      (if c.tile.isSome && !c.fill then [] else [(.read, c.strided c.src c.done)]) ++
        (if c.tile.isSome && c.fill then [] else [(.write, c.strided c.dst c.done)])
  | .zld _ a d => [(.read, a + BitVec.ofNat 64 d)]
  | .zst _ a d => [(.write, a + BitVec.ofNat 64 d)]
  | .zepi e => if e.route.all fun rt => bits (wordAt rt 3) 0 18 = s.chip then [(.write, e.next)] else []
  | _ => []

/-- A place of a transfer's next bytes that lies at a peer. -/
def State.transferAtPeer (s : State) (late : Bool) (o : Op) : Option Place :=
  (s.nextAddrs o.kind).findSome? fun q =>
    match s.enginePlace o q.1 q.2 with | (.ok p _ _, _) => if p.atPeer late then some p else none | _ => none

/-- Every lane of a mask has an access at a peer that is still to be answered. -/
def Op.lanesAtPeer (o : Op) (late : Bool) (m : LaneMask) : Bool :=
  m ≠ 0#32 && (lanesOf m).all fun l => o.accs.any fun a => a.lane = l && a.result.isNone && !a.skip && a.place.atPeer late

/-- What a refusal or a timeout of a request does at the initiator (R296, R394, R395): the lanes named, or the transfer, or a collective
delivery that had left, of which one that needed a port that is down has no answer (R420). `performed` are the lanes that a timeout leaves
performed. A refusal by a module that was to forward the request, and knows no route (`far`), is recorded with REASON 7 at the own module. -/
def State.remoteEnd (s : State) (id : Nat) (lanes performed : LaneMask) (cause : Cause) (far : Bool) : Option State :=
  let late := decide (cause = Cause.remoteTimeout)
  match (s.awaiting.find? fun q => q.id = id).filter fun q => q.own.isNone with
  | some q =>
    if q.lost && !late then none
    else
      match far, q.sent with
      | true, some (a, kind, len) => (s.noRoute (partOf (ctxOf q.agent)) a kind len).answered id (some cause)
      | _, _ => s.answered id (some cause)
  | none =>
    match s.op? id with
    | none => none
    | some o =>
      let p := partOf (ctxOf o.agent)
      if o.kind.transfer then
        (s.transferAtPeer late o).map fun q => (if far then s.noRoute p q.globalAddr o.kind.reqKind 64 else s).endTransfer o (some cause)
      else if o.lanesAtPeer late lanes then
        let s := (lanesOf (lanes &&& performed)).foldl
          (fun (s : State) l =>
            match o.accs.find? (·.lane = l) with
            | some a => (s.runAcc o a).2.2
            | none => s) s
        let s := if far then
          o.accs.foldl (fun (s : State) a => if lanes.getLsbD a.lane then s.noRoute p a.place.globalAddr o.kind.reqKind o.kind.size else s) s else s
        some (((lanesOf lanes).foldl (fun s l => s.refuseAcc id l cause) s).dropStores)
      else none

/-- `REMOTE_NACK` (R394, R420): a negative acknowledgment, of the target or of a module that was to forward the request. -/
def execRemoteNack (op : Nack) (lanes : LaneMask) (s : State) : Host.Outcome State Fault Refusal :=
  event "REMOTE_NACK" s fun s => s.remoteEnd op.id lanes 0 Cause.remote op.far

/-- `REMOTE_TIMEOUT` (R395): no response within 1 ms. -/
def execRemoteTimeout (op : Nat) (lanes performed : LaneMask) (s : State) : Host.Outcome State Fault Refusal :=
  event "REMOTE_TIMEOUT" s fun s => s.remoteEnd op lanes performed Cause.remoteTimeout false

/-- `STRAIT_PORT_DOWN` (R420, R421): a port stops being up. -/
def execStraitPortDown (port : Nat) (s : State) : Host.Outcome State Fault Refusal :=
  if 6 ≤ port then .fault (.noSuchUnit "STRAIT_PORT_DOWN")
  else event "STRAIT_PORT_DOWN" s fun s => if s.portUp port then some (s.setDvReg 0x013 (setBits (s.dvReg 0x013) port 1 0)) else none

/-! The host (R417, R418). -/

/-- A function of the host port as it accesses registers: function 0 at level 2, function 1 + p at level 1 for partition p (R418). -/
def hostAgent (fn : Nat) : RegAgent := if fn = 0 then { level := 2, part := 0 } else { level := 1, part := fn - 1 }

/-- The BAR0 of a function maps the window of a partition: that of function 0 every window, that of function 1 + p the one of partition p (R418). -/
def barOk (fn p : Nat) : Bool := decide (fn < 9) && decide (p < 8) && (decide (fn = 0) || decide (fn = p + 1))

/-- The MSI-X vectors of a function (R418). -/
def msixVectors (fn : Nat) : Nat := if fn = 0 then 8 else if fn < 9 then 257 else 0

/-- Bytes of the HDM range: the usable interleaved window (R417). -/
def hdmOk (a n : Nat) : Bool := decide (a + n ≤ usableTop)

/-- A CXL.mem write at the home point (R123, R418): bytes of an object with waiters are not written (R122, DEDUCED, log entry 40). -/
def State.hostWrite (s : State) (a : Nat) (bs : List Byte) : State := (s.promoteFor 511 a).recordWrites a bs false

/-- `HOST_MEM_ACCESS` (R123, R417, R418, R430): from READY on, CXL.mem reads and writes at the home point, the host's own writes of its memory, the
register windows of the functions, and the masking of a vector. -/
def execHostMemAccess (r : HostReq) (s : State) : Host.Outcome State Fault Refusal :=
  event "HOST_MEM_ACCESS" s fun s =>
    match r with
    | .read a n => if s.ready && hdmOk a n then (let (bs, s) := s.readBytes 511 a n true true; some { s with out := s.out ++ [.hostData bs] }) else none
    | .write a bs => if s.ready && hdmOk a bs.length then some (s.hostWrite a bs) else none
    | .own a bs => if decide (hostBase + a + bs.length ≤ 2 ^ 46) then some (s.recordWrites (hostBase + a) bs false) else none
    | .regRead fn p n =>
      if !barOk fn p then none
      else
        let (w, s) := s.windowRead (hostAgent fn) (0x40000 * p + 4 * n)
        some { s with out := s.out ++ [.hostData (leBytes 4 w.toNat)] }
    | .regWrite fn p n v => if !barOk fn p then none else some (s.windowWrite (hostAgent fn) (0x40000 * p + 4 * n) v)
    | .maskVector fn v =>
      if msixVectors fn ≤ v || s.msixMask.contains (fn, v) then none else some { s with msixMask := s.msixMask ++ [(fn, v)] }

/-- `MSI_X_UNMASK` (R418): a pending vector is unmasked, and its message leaves. -/
def execMsiXUnmask (fn vec : Nat) (s : State) : Host.Outcome State Fault Refusal :=
  event "MSI_X_UNMASK" s fun s =>
    if !s.msixMask.contains (fn, vec) then none
    else
      let s : State := { s with msixMask := s.msixMask.filter (· ≠ (fn, vec)) }
      if s.msixPend.contains (fn, vec) then
        some { s with msixPend := s.msixPend.filter (· ≠ (fn, vec)), out := s.out ++ [.msix fn vec] }
      else some s

/-! Events and rings (R375, R401 to R404). -/

/-- The 32 bytes of an event record (R402). -/
def State.evBytes (s : State) (r : EvRec) : List Byte :=
  [BitVec.ofNat 8 r.event, BitVec.ofNat 8 r.ctx] ++ leBytes 2 r.rep ++ leBytes 4 0 ++ leBytes 8 s.timeRef ++ r.payload

/-- `EVENT_RECORD` (R401 to R404, R418): the oldest event goes to the ring, while the ring has room, and raises its vectors. -/
def execEventRecord (p : Nat) (s : State) : Host.Outcome State Fault Refusal :=
  if 8 ≤ p then .fault (.noSuchUnit "EVENT_RECORD")
  else
    event "EVENT_RECORD" s fun s =>
      let x := s.part p
      match x.evq with
      | [] => none
      | r :: rest =>
        if s.evRingFull p then none
        else
          let ptr := s.ptReg p 0x015
          let put := bits ptr 0 16
          let base := bits (s.ptReg p 0x013) 13 19 * 2 ^ 13 + bits (s.ptReg p 0x014) 0 14 * 2 ^ 32
          let bytes := s.evBytes r
          let s := s.putPart p { x with evq := rest }
          let s := match physKind (base + 32 * (put % 256)) with | .dram a => s.recordWrites a bytes false | _ => s
          some (((s.setPtReg p 0x015 (setBits ptr 0 16 (put + 1))).raiseMsix (1 + p) 256).raiseMsix 0 p)

/-- `EVENT_RING_GET` (R401, R403, R430): system software writes `PT_EVPTR.GET`. -/
def execEventRingGet (p : Nat) (n : BitVec 16) (s : State) : Host.Outcome State Fault Refusal :=
  if 8 ≤ p then .fault (.noSuchUnit "EVENT_RING_GET")
  else event "EVENT_RING_GET" s fun s => if !s.ready then none else some (s.writePt p 0x015 (BitVec.ofNat 32 (65536 * n.toNat)))

/-- `FAULT_RING_GET` (R375, R430): system software writes `CT_PFPTR.GET`, and waiting records are written. -/
def execFaultRingGet (ctx : Nat) (n : BitVec 16) (s : State) : Host.Outcome State Fault Refusal :=
  if 16 ≤ ctx then .fault (.noSuchUnit "FAULT_RING_GET")
  else event "FAULT_RING_GET" s fun s => if !s.ready then none else some (s.writeCt { level := 2, part := partOf ctx } ctx 0x012 (BitVec.ofNat 32 (65536 * n.toNat)))

/-- `PFACK_RETRY` (R375, R430). -/
def execPfackRetry (ctx : Nat) (s : State) : Host.Outcome State Fault Refusal :=
  if 16 ≤ ctx then .fault (.noSuchUnit "PFACK_RETRY") else event "PFACK_RETRY" s fun s => if !s.ready then none else some (s.pfackRetry ctx)

/-! Registers (R7, R329). -/

/-- `READ_CLEAR` (R7, R430): a read of an RC field clears it. -/
def execReadClear (p : Nat) (num : BitVec 16) (s : State) : Host.Outcome State Fault Refusal :=
  if 8 ≤ p then .fault (.noSuchUnit "READ_CLEAR")
  else
    event "READ_CLEAR" s fun s =>
      if (regBits num).rc = 0#32 || !s.ready then none else some (s.clearRead p num (BitVec.allOnes 32))

/-- `REGISTER_WRITE` (R7, R8, R328, R329, R430): a write through the register window at a level. -/
def execRegisterWrite (level p : Nat) (num : BitVec 16) (val : Word) (s : State) : Host.Outcome State Fault Refusal :=
  if 8 ≤ p || 3 ≤ level then .fault (.noSuchUnit "REGISTER_WRITE")
  else event "REGISTER_WRITE" s fun s => some (s.windowWrite { level := level, part := p } (0x40000 * p + 4 * num.toNat) val)

/-! LLC ways (R399, R400). -/

/-- `LLC_WAY_GATE` (R400). -/
def execLlcWayGate (die : Nat) (s : State) : Host.Outcome State Fault Refusal :=
  if 4 ≤ die then .fault (.noSuchUnit "LLC_WAY_GATE") else event "LLC_WAY_GATE" s fun s => some (s.llcWayGate die)

/-- Write every dirty LLC byte of a die to its DRAM. -/
def State.cleanDie (s : State) (die : Nat) : State :=
  (s.llc.map (·.1)).foldl (fun s a => if shoalOf a / 80 = die then s.llcClean a else s) s

/-- `LLC_WAY_DARK` (R105, R400): the lines of a way that is to be dark are written back, and it goes dark. -/
def execLlcWayDark (die way : Nat) (s : State) : Host.Outcome State Fault Refusal :=
  if 4 ≤ die || 16 ≤ way then .fault (.noSuchUnit "LLC_WAY_DARK")
  else
    event "LLC_WAY_DARK" s fun s =>
      let dark := s.dvReg (0x008 + die)
      let want := s.darkTarget die
      if !want.getLsbD way || dark.getLsbD way then none
      else
        let new := setBits dark way 1 1
        let busy := if want &&& ~~~new = 0 then 0 else 1
        some ((s.cleanDie die).setDvReg (0x008 + die) (setBits new 16 1 busy))

/-! Errors (R73, R392, R393). -/

/-- Count an error in `DV_ERRCNT` (R392, R393): TRANS or LAST, limited to 65,535. -/
def State.countError (s : State) (last : Bool) : State :=
  let r := s.dvReg 0x00C
  let lo := if last then 16 else 0
  s.setDvReg 0x00C (setBits r lo 16 (min 65535 (bits r lo 16 + 1)))

/-- The partition to which a local physical address belongs (R335); 0 where none holds it. -/
def State.partOfAddr (s : State) (a : Nat) : Nat :=
  ((List.range 8).find? fun p =>
    let m := s.ptReg p 0x005
    decide (bits m 0 12 ≤ a / 0x4000000) && decide (a / 0x4000000 < bits m 0 12 + bits m 16 12)).getD 0

/-- `POISON` is raised with the granule's address and the code (R392, R402). -/
def State.raisePoison (s : State) (p a code : Nat) : State := s.raiseEvent p 0x08 0xFF (leBytes 8 (a / 64 * 64) ++ [BitVec.ofNat 8 code])

/-- A lasting error of a copy that is not clean poisons its granule (R392); a granule of the unified store or of a matrix memory has no
physical address, and no rule states the one reported, nor the code of the vertical bus: both are free values. -/
def State.poisonSite (s : State) : ErrSite → State
  | .dram a => { s with poison := s.poison.put 0 (a / 64) 1 }.raisePoison (s.partOfAddr a) a 1
  | .llc a => { s with poison := s.poison.put 0 (a / 64) 2 }.raisePoison (s.partOfAddr a) a 2
  | .l1 c a => (s.modL1 c fun l => { l with poison := l.poison.put 0 (a / 64) 3 }).raisePoison (s.partOfAddr a) a 3
  | .lagoon t off =>
    let (x, s) := s.free
    (s.putLagPoison t ((s.lagPoisonTab t).put 0 (off / 64) 4)).raisePoison (partOf t.grid.ctx) x.toNat 4
  | .tile t off =>
    let (x, s) := s.free
    (s.modTeam t fun y => { y with tilePoison := y.tilePoison.put 0 (off / 64) 5 }).raisePoison (partOf t.grid.ctx) x.toNat 5
  | .accum t off =>
    let (x, s) := s.free
    (s.modTeam t fun y => { y with zPoison := y.zPoison.put 0 (off / 64) 6 }).raisePoison (partOf t.grid.ctx) x.toNat 6
  | .regLine w g =>
    let (x, s) := s.free
    (s.modAgent (.wave w) fun y => { y with poison := y.poison.put 0 g 4 }).raisePoison (partOf w.team.grid.ctx) x.toNat 4
  | .busTile t off =>
    let (x, s) := s.free
    let (y, s) := s.free
    let code := 1 + y.toNat % 9
    (s.modTeam t fun y => { y with tilePoison := y.tilePoison.put 0 (off / 64) code }).raisePoison (partOf t.grid.ctx) x.toNat code
  | .busRow a =>
    let (y, s) := s.free
    let code := 1 + y.toNat % 9
    { s with poison := s.poison.put 0 (a / 64) code }.raisePoison (s.partOfAddr a) a code
  | .causeway a => { s with poison := s.poison.put 0 (a / 64) 7 }.raisePoison (s.partOfAddr a) a 7
  | .strait a => { s with poison := s.poison.put 0 (a / 64) 8 }.raisePoison (s.partOfAddr a) a 8
  | .hostLink a => { s with poison := s.poison.put 0 (a / 64) 9 }.raisePoison (s.partOfAddr a) a 9

/-- A clean copy is fetched again from below (R392): the copy that the site held is gone. -/
def State.refetch (s : State) : ErrSite → State
  | .l1 c a => s.dropSector c a
  | .regLine w g => s.dropLines w [g / 2]
  | _ => s

/-- The site is a link or the vertical bus, whose data are poisoned as they are delivered (R392, R393). -/
def ErrSite.link : ErrSite → Bool
  | .busTile .. | .busRow _ | .causeway _ | .strait _ | .hostLink _ => true
  | _ => false

/-- The copy at a site is a clean one: nothing below differs from it. -/
def State.siteClean (s : State) : ErrSite → Bool
  | .llc a => !(s.llc.any fun q => q.1 / 64 = a / 64)
  | .l1 c a => !((s.core c).l1.dirty.any fun q => q.1 / 64 = a / 64)
  | .regLine w g => !(((s.wave? w).map fun v => v.lineDirty (s.waveSpan w).2 (g / 2)).getD false)
  | .dram _ | .lagoon .. | .tile .. | .accum .. => false
  | .busTile .. | .busRow _ | .causeway _ | .strait _ | .hostLink _ => true

/-- `STORAGE_ERROR` (R73, R392, R393): a transient error is counted, and discards the cached copy of a register line, whose dirty bytes reach
memory first; a lasting one fetches a clean copy again, or poisons the granule. -/
def execStorageError (site : ErrSite) (outcome : ErrOutcome) (s : State) : Host.Outcome State Fault Refusal :=
  event "STORAGE_ERROR" s fun s =>
    match outcome with
    | .transient =>
      let s := s.countError false
      some (match site with | .regLine w g => (s.writeLine w (g / 2)).dropLines w [g / 2] | _ => s)
    | .lastingClean => if s.siteClean site then some ((s.countError true).refetch site) else none
    | .lastingDirty => if s.siteClean site && !ErrSite.link site then none else some ((s.countError true).poisonSite site)

/-! Security and bring-up (R425 to R430). -/

/-- `ATTESTATION_START` (R427, R430): function 0 writes `DV_SCCMD.GO` while no report is in progress. -/
def execAttestationStart (s : State) : Host.Outcome State Fault Refusal :=
  event "ATTESTATION_START" s fun s => if (s.dvReg 0x023).getLsbD 0 || !s.ready then none else some s.attestationStart

/-- The buffer of a report, if its 16 KiB lie in this module's usable DRAM (R427). -/
def State.reportBuffer (s : State) : Option Nat :=
  let a := bits (s.dvReg 0x021) 12 20 * 2 ^ 12 + bits (s.dvReg 0x022) 0 14 * 2 ^ 32
  if a + 16384 ≤ usableTop then some a else none

/-- What a report begins with (R427): the nonce, `DV_ID` and the enabled-core mask. -/
def State.reportHead (s : State) (buf : Nat) : List Byte :=
  s.homeBytes buf 32 ++ leBytes 4 (s.dvReg 0).toNat ++ leBytes 40 s.sec.enabled.toNat

/-- What a report holds before its signature (R427): its head, each measurement with its security version, and the identity index used; `a` and `b`
are the bytes of a version and of the index, which no rule states. -/
def State.reportBody (s : State) (buf a b : Nat) : List Byte :=
  s.reportHead buf ++ (s.sec.measures.flatMap fun m => m.1 ++ leBytes a m.2) ++ leBytes b s.sec.index

/-- Bytes are a report of this module (R427): what it holds, with versions and the index in 4 to 8 bytes each, followed by its signature. -/
def State.reportOk (s : State) (buf : Nat) (report : List Byte) : Bool :=
  decide (report.length ≤ 16384 - 64) &&
    (List.range 5).any fun a => (List.range 5).any fun b =>
      s.sec.measures.all (fun m => decide (m.2 < 256 ^ (4 + a))) && (s.reportBody buf (4 + a) (4 + b)).isPrefixOf report &&
        decide ((s.reportBody buf (4 + a) (4 + b)).length < report.length)

/-- `ATTESTATION_COMPLETE` (R426, R427): the index advances in flash before a signature is released; an exhausted key gives STATUS 3 and a
bad buffer STATUS 1. -/
def execAttestationComplete (status : BitVec 3) (report : List Byte) (s : State) : Host.Outcome State Fault Refusal :=
  event "ATTESTATION_COMPLETE" s fun s =>
    if !(s.dvReg 0x023).getLsbD 0 then none
    else
      let out := decide (2 ^ 30 ≤ s.sec.index)
      let done (s : State) : State := s.setDvReg 0x023 (BitVec.ofNat 32 (2 * status.toNat))
      if out then (if status = 3 then some (done s) else none)
      else
        match s.reportBuffer with
        | none => if status = 1 then some (done s) else none
        | some buf =>
          let adv : State := { s with sec := { s.sec with index := s.sec.index + 1 } }
          if status = 2 then some (done s)
          else if status = 0 && s.reportOk buf report then
            some (done ((adv.promoteFor 511 (buf + 64)).recordWrites (buf + 64) report false))
          else none

/-- The security controller accepts an image (R425): it is signed under a key with the hash that the boot ROM holds, and is no older than the recorded
version of its kind. -/
def imageAccepted (i : Image) (recorded : Nat) : Bool := decide (sha256 i.key = sha256 Config.rootKey) && i.signed && decide (recorded ≤ i.version)

/-- A configuration block verifies (R428): it is accepted, and its ceiling lies in range. -/
def blockVerifies (b : ConfigBlock) (recorded : Nat) : Bool := imageAccepted b.image recorded && decide (600 ≤ b.ceiling) && decide (b.ceiling ≤ 2400)

/-- The block that a bring-up applies (R428): a new one that verifies, else the latest accepted one in flash. -/
def Security.blockFor (x : Security) (b : BringUp) : Option ConfigBlock :=
  match b.block.filter fun c => blockVerifies c x.version with
  | some c => some c
  | none => x.block

/-- The step of bring-up at which it fails (R425, R428, R430): the one named, step 2 for firmware that is not accepted, or step 3 where no
configuration block verifies. -/
def bringUpFail (b : BringUp) (x : Security) : Option Nat :=
  let mine : Nat := if !imageAccepted b.firmware x.firmware then 2 else if (x.blockFor b).isNone then 3 else 8
  match b.fails.filter fun k => decide (1 ≤ k) && decide (k ≤ 7) with
  | some k => some (min k mine)
  | none => if mine = 8 then none else some mine

/-- At READY the intervals of power management begin (R407, R408, R409, R414): what comes every so many ticks or fclk counts from here. -/
def State.startClocks (s : State) : State :=
  let cl (c : Nat) : Cluster := { s.cluster c with voteAt := s.timeRef, heatAt := s.timeRef }
  let co (c : Nat) : Core := { s.core c with refillAt := (s.cluster (clusterOf c)).cyc }
  { s with
    govAt := s.timeRef, pkgAt := s.timeRef, intentAt := s.timeRef,
    clusters := ((List.range 80).map fun c => (c, cl c)).filter fun q => q.2 ≠ {},
    cores := ((List.range 320).map fun c => (c, co c)).filter fun q => q.2 ≠ {},
    dies := s.dies.map fun (d : Die) => { d with drawAt := s.timeRef } }

/-- The firmware is accepted, and measured (R425). -/
def Security.takeFirmware (x : Security) (i : Image) : Security :=
  { x with firmware := max x.firmware i.version, measures := [(sha256 i.bytes, i.version)] }

/-- A configuration block is accepted, measured, and applied; flash keeps it (R425, R428). -/
def Security.takeBlock (x : Security) (c : ConfigBlock) : Security :=
  { x with
    enabled := c.enabledMask, ceiling := c.ceiling, version := max x.version c.image.version, block := some c,
    measures := x.measures ++ [(sha256 c.image.bytes, c.image.version)] }

/-- Power is good (R430): everything that flash does not hold is as reset leaves it, DRAM as it is until it is written. -/
def State.powered (s : State) : State :=
  { State.reset with
    sec := s.sec, home := s.home, llc := s.llc, poison := s.poison, agenda := s.agenda, turn := s.turn, freeCtr := s.freeCtr, opCtr := s.opCtr,
    timeRef := s.timeRef, hubCyc := s.hubCyc, moment := s.moment, out := s.out }

/-- What bring-up leaves after its first n steps (R430). -/
def State.bringUp (s : State) (b : BringUp) (n : Nat) : State :=
  let s := s.powered
  let s : State := if 2 ≤ n then { s with sec := s.sec.takeFirmware b.firmware } else s
  let s : State :=
    if 3 ≤ n then (match s.sec.blockFor b with | some c => { s with sec := s.sec.takeBlock c } | none => s) else s
  let s := if 4 ≤ n then s.setDvReg 0x013 (b.straitUp.setWidth 32) else s
  let s : State := if 5 ≤ n then { s with home := s.home.filter fun q => decide (dramSize ≤ q.1), llc := [], poison := [] } else s
  (if 7 ≤ n then s.startClocks else s).setDvReg 0x00D (BitVec.ofNat 32 n)

/-- `POWER_GOOD` (R429, R430): bring-up runs from RESET to READY, or to FAILED with the STATE at the failure. -/
def execPowerGood (b : BringUp) (s : State) : Host.Outcome State Fault Refusal :=
  event "POWER_GOOD" s fun s =>
    if s.dvReg 0x00D ≠ 0 then none
    else
      match bringUpFail b s.sec with
      | some k => some ((s.bringUp b (min 7 (k - 1))).setDvReg 0x00D (BitVec.ofNat 32 (15 + 256 * min 7 (k - 1))))
      | none => some (s.bringUp b 7)

/-- `POWER_LOSS` (R425, R426, R428, R430): everything of the module but flash is lost; what hosts and peers hold stays. During a report the index may
have advanced, and is then wasted. -/
def execPowerLoss (s : State) : Host.Outcome State Fault Refusal :=
  event "POWER_LOSS" s fun s =>
    let (advanced, s) := s.choose
    some { State.reset with
      sec := { version := s.sec.version, firmware := s.sec.firmware, block := s.sec.block,
               index := if (s.dvReg 0x023).getLsbD 0 && advanced && decide (s.sec.index < 2 ^ 30) then s.sec.index + 1 else s.sec.index },
      home := s.home.filter fun q => decide (dramSize ≤ q.1), agenda := s.agenda, freeCtr := s.freeCtr, opCtr := s.opCtr }

end Sys2Proof.Machine
end

