-- ==== Sys2Proof/Machine/Atomics.lean ====
section
/-! DEFINITION. Atomics (R143, R168, R231 to R235). -/

namespace Sys2Proof.Machine

open Sys2Proof

/-- The memory requests of an atomic's lanes. -/
def Issuer.atomReqs (x : Issuer) (b : BitVec 6) (o : BitVec 5) : List (Nat × DWord × AccMode) :=
  x.lanes.map fun l => (l, x.base b l, .atom o.toNat)

/-- `ATOM` (R143, R231 to R234). -/
def execAtom (f : BitVec 1) (d b : BitVec 6) (o sv : BitVec 5) (s : State) : Host.Outcome State Fault Refusal :=
  let i := Instr.atom f d b o sv
  let m := semOf sv.toNat 3
  issue i s fun x s =>
    memAccess x s false true true (atomSize o.toNat) (x.atomReqs b o) fun s ps =>
      issueAtom i o (some (atomBlock o d).1) m (2 ≤ m.scope) (atomBlock o d).1 x s ps

/-- `RED` (R143, R231 to R235). -/
def execRed (d b : BitVec 6) (o sv : BitVec 5) (s : State) : Host.Outcome State Fault Refusal :=
  let i := Instr.red d b o sv
  let m := semOf sv.toNat 3
  issue i s fun x s =>
    memAccess x s false true true (atomSize o.toNat) (x.atomReqs b o) fun s ps => issueAtom i o none m true (atomBlock o d).1 x s ps

/-- An atomic on a lagoon (R229, R231). -/
def lagoonAtom (i : Instr) (o : BitVec 5) (dst : Option Nat) (sv : BitVec 5) (d : Nat) (b : BitVec 6) (x : Issuer) (s : State) : Effect :=
  match s.lagoonPlaces x (atomSize o.toNat) (x.lanes.map fun l => (l, x.w.vreg b.toNat l, 0)) with
  | .error c => .raise c s
  | .ok ps => issueAtom i o dst (lagoonSem x (semOf sv.toNat 3) ps) true d x s ps

/-- `ATOML` (R229, R231 to R234). -/
def execAtoml (f : BitVec 1) (d b : BitVec 6) (o sv : BitVec 5) (s : State) : Host.Outcome State Fault Refusal :=
  let i := Instr.atoml f d b o sv
  issue i s (lagoonAtom i o (some (atomBlock o d).1) sv (atomBlock o d).1 b)

/-- `REDL` (R229, R231 to R234). -/
def execRedl (d b : BitVec 6) (o sv : BitVec 5) (s : State) : Host.Outcome State Fault Refusal :=
  let i := Instr.redl d b o sv
  issue i s (lagoonAtom i o none sv (atomBlock o d).1 b)

end Sys2Proof.Machine
end

