-- ==== Sys2Proof/Machine/BitField.lean ====
section
/-! DEFINITION. Bit fields and counts (R190, R191): major 0x04, with the uniform forms. -/

namespace Sys2Proof.Machine

open Sys2Proof

/-- `BFX.n32` (R190). -/
def execBfxN32 (u : BitVec 1) (d a b : BitVec 5) (s : State) : Host.Outcome State Fault Refusal :=
  issue (.bfxN32 u d a b) s (plain u d.toNat fun r => bfxW false (r a.toNat) (r b.toNat))

/-- `BFX.i32` (R190). -/
def execBfxI32 (u : BitVec 1) (d a b : BitVec 5) (s : State) : Host.Outcome State Fault Refusal :=
  issue (.bfxI32 u d a b) s (plain u d.toNat fun r => bfxW true (r a.toNat) (r b.toNat))

/-- `BFI` (R190). -/
def execBfi (u : BitVec 1) (d a b c : BitVec 5) (s : State) : Host.Outcome State Fault Refusal :=
  issue (.bfi u d a b c) s (plain u d.toNat fun r => bfiW (r a.toNat) (r b.toNat) (r c.toNat))

/-- `POPC` (R191). -/
def execPopc (u : BitVec 1) (d a : BitVec 5) (s : State) : Host.Outcome State Fault Refusal :=
  issue (.popc u d a) s (plain u d.toNat fun r => popcW (r a.toNat))

/-- `CLZ` (R191). -/
def execClz (u : BitVec 1) (d a : BitVec 5) (s : State) : Host.Outcome State Fault Refusal :=
  issue (.clz u d a) s (plain u d.toNat fun r => clzW (r a.toNat))

/-- `CTZ` (R191). -/
def execCtz (u : BitVec 1) (d a : BitVec 5) (s : State) : Host.Outcome State Fault Refusal :=
  issue (.ctz u d a) s (plain u d.toNat fun r => ctzW (r a.toNat))

/-- `BREV` (R191). -/
def execBrev (u : BitVec 1) (d a : BitVec 5) (s : State) : Host.Outcome State Fault Refusal :=
  issue (.brev u d a) s (plain u d.toNat fun r => brevW (r a.toNat))

/-- `SHF.l` (R191). -/
def execShfL (u : BitVec 1) (d a b c : BitVec 5) (s : State) : Host.Outcome State Fault Refusal :=
  issue (.shfL u d a b c) s (plain u d.toNat fun r => shfLW (r a.toNat) (r b.toNat) (r c.toNat))

/-- `SHF.r` (R191). -/
def execShfR (u : BitVec 1) (d a b c : BitVec 5) (s : State) : Host.Outcome State Fault Refusal :=
  issue (.shfR u d a b c) s (plain u d.toNat fun r => shfRW (r a.toNat) (r b.toNat) (r c.toNat))

end Sys2Proof.Machine
end

