-- ==== Sys2Proof/Machine/Compare.lean ====
section
/-! DEFINITION. Compare, predicate and select (R192, R193): major 0x05. The rows of one
family that differ only in a condition, an operation or a type issue as the family's first row: their encoding causes, registers, size and
price are the same (R158, R170, R302). -/

namespace Sys2Proof.Machine

open Sys2Proof

/-- `ICMP.eq.i32` (R192). -/
def execIcmpEqI32 (d : BitVec 3) (a b : BitVec 6) (s : State) : Host.Outcome State Fault Refusal :=
  issue (.icmpEqI32 d a b) s (predOp d.toNat fun r _ => decide ((r a.toNat).toInt = (r b.toNat).toInt))

/-- `ICMP.ne.i32` (R192). -/
def execIcmpNeI32 (d : BitVec 3) (a b : BitVec 6) (s : State) : Host.Outcome State Fault Refusal :=
  issue (.icmpEqI32 d a b) s (predOp d.toNat fun r _ => decide ((r a.toNat).toInt ≠ (r b.toNat).toInt))

/-- `ICMP.lt.i32` (R192). -/
def execIcmpLtI32 (d : BitVec 3) (a b : BitVec 6) (s : State) : Host.Outcome State Fault Refusal :=
  issue (.icmpEqI32 d a b) s (predOp d.toNat fun r _ => decide ((r a.toNat).toInt < (r b.toNat).toInt))

/-- `ICMP.le.i32` (R192). -/
def execIcmpLeI32 (d : BitVec 3) (a b : BitVec 6) (s : State) : Host.Outcome State Fault Refusal :=
  issue (.icmpEqI32 d a b) s (predOp d.toNat fun r _ => decide ((r a.toNat).toInt ≤ (r b.toNat).toInt))

/-- `ICMP.gt.i32` (R192). -/
def execIcmpGtI32 (d : BitVec 3) (a b : BitVec 6) (s : State) : Host.Outcome State Fault Refusal :=
  issue (.icmpEqI32 d a b) s (predOp d.toNat fun r _ => decide ((r a.toNat).toInt > (r b.toNat).toInt))

/-- `ICMP.ge.i32` (R192). -/
def execIcmpGeI32 (d : BitVec 3) (a b : BitVec 6) (s : State) : Host.Outcome State Fault Refusal :=
  issue (.icmpEqI32 d a b) s (predOp d.toNat fun r _ => decide ((r a.toNat).toInt ≥ (r b.toNat).toInt))

/-- `ICMP.eq.n32` (R192). -/
def execIcmpEqN32 (d : BitVec 3) (a b : BitVec 6) (s : State) : Host.Outcome State Fault Refusal :=
  issue (.icmpEqI32 d a b) s (predOp d.toNat fun r _ => decide ((r a.toNat).toNat = (r b.toNat).toNat))

/-- `ICMP.ne.n32` (R192). -/
def execIcmpNeN32 (d : BitVec 3) (a b : BitVec 6) (s : State) : Host.Outcome State Fault Refusal :=
  issue (.icmpEqI32 d a b) s (predOp d.toNat fun r _ => decide ((r a.toNat).toNat ≠ (r b.toNat).toNat))

/-- `ICMP.lt.n32` (R192). -/
def execIcmpLtN32 (d : BitVec 3) (a b : BitVec 6) (s : State) : Host.Outcome State Fault Refusal :=
  issue (.icmpEqI32 d a b) s (predOp d.toNat fun r _ => decide ((r a.toNat).toNat < (r b.toNat).toNat))

/-- `ICMP.le.n32` (R192). -/
def execIcmpLeN32 (d : BitVec 3) (a b : BitVec 6) (s : State) : Host.Outcome State Fault Refusal :=
  issue (.icmpEqI32 d a b) s (predOp d.toNat fun r _ => decide ((r a.toNat).toNat ≤ (r b.toNat).toNat))

/-- `ICMP.gt.n32` (R192). -/
def execIcmpGtN32 (d : BitVec 3) (a b : BitVec 6) (s : State) : Host.Outcome State Fault Refusal :=
  issue (.icmpEqI32 d a b) s (predOp d.toNat fun r _ => decide ((r a.toNat).toNat > (r b.toNat).toNat))

/-- `ICMP.ge.n32` (R192). -/
def execIcmpGeN32 (d : BitVec 3) (a b : BitVec 6) (s : State) : Host.Outcome State Fault Refusal :=
  issue (.icmpEqI32 d a b) s (predOp d.toNat fun r _ => decide ((r a.toNat).toNat ≥ (r b.toNat).toNat))

/-- `FCMP.eq` (R193). -/
def execFcmpEq (d : BitVec 3) (a b : BitVec 6) (s : State) : Host.Outcome State Fault Refusal :=
  issue (.fcmpEq d a b) s (predOp d.toNat fun r _ => fcmp .eq (r a.toNat) (r b.toNat))

/-- `FCMP.ne` (R193). -/
def execFcmpNe (d : BitVec 3) (a b : BitVec 6) (s : State) : Host.Outcome State Fault Refusal :=
  issue (.fcmpEq d a b) s (predOp d.toNat fun r _ => fcmp .ne (r a.toNat) (r b.toNat))

/-- `FCMP.lt` (R193). -/
def execFcmpLt (d : BitVec 3) (a b : BitVec 6) (s : State) : Host.Outcome State Fault Refusal :=
  issue (.fcmpEq d a b) s (predOp d.toNat fun r _ => fcmp .lt (r a.toNat) (r b.toNat))

/-- `FCMP.le` (R193). -/
def execFcmpLe (d : BitVec 3) (a b : BitVec 6) (s : State) : Host.Outcome State Fault Refusal :=
  issue (.fcmpEq d a b) s (predOp d.toNat fun r _ => fcmp .le (r a.toNat) (r b.toNat))

/-- `FCMP.gt` (R193). -/
def execFcmpGt (d : BitVec 3) (a b : BitVec 6) (s : State) : Host.Outcome State Fault Refusal :=
  issue (.fcmpEq d a b) s (predOp d.toNat fun r _ => fcmp .gt (r a.toNat) (r b.toNat))

/-- `FCMP.ge` (R193). -/
def execFcmpGe (d : BitVec 3) (a b : BitVec 6) (s : State) : Host.Outcome State Fault Refusal :=
  issue (.fcmpEq d a b) s (predOp d.toNat fun r _ => fcmp .ge (r a.toNat) (r b.toNat))

/-- `FCMP.ord` (R193). -/
def execFcmpOrd (d : BitVec 3) (a b : BitVec 6) (s : State) : Host.Outcome State Fault Refusal :=
  issue (.fcmpEq d a b) s (predOp d.toNat fun r _ => fcmp .ord (r a.toNat) (r b.toNat))

/-- `FCMP.uno` (R193). -/
def execFcmpUno (d : BitVec 3) (a b : BitVec 6) (s : State) : Host.Outcome State Fault Refusal :=
  issue (.fcmpEq d a b) s (predOp d.toNat fun r _ => fcmp .uno (r a.toNat) (r b.toNat))

/-- `PLOG.and` (R192). -/
def execPlogAnd (d a b : BitVec 3) (s : State) : Host.Outcome State Fault Refusal :=
  issue (.plogAnd d a b) s (predOp d.toNat fun _ p => p a.toNat && p b.toNat)

/-- `PLOG.or` (R192). -/
def execPlogOr (d a b : BitVec 3) (s : State) : Host.Outcome State Fault Refusal :=
  issue (.plogOr d a b) s (predOp d.toNat fun _ p => p a.toNat || p b.toNat)

/-- `PLOG.xor` (R192). -/
def execPlogXor (d a b : BitVec 3) (s : State) : Host.Outcome State Fault Refusal :=
  issue (.plogXor d a b) s (predOp d.toNat fun _ p => p a.toNat ^^ p b.toNat)

/-- `PLOG.andn` (R192). -/
def execPlogAndn (d a b : BitVec 3) (s : State) : Host.Outcome State Fault Refusal :=
  issue (.plogAndn d a b) s (predOp d.toNat fun _ p => p a.toNat && !p b.toNat)

/-- `PLOG.orn` (R192). -/
def execPlogOrn (d a b : BitVec 3) (s : State) : Host.Outcome State Fault Refusal :=
  issue (.plogOrn d a b) s (predOp d.toNat fun _ p => p a.toNat || !p b.toNat)

/-- `PLOG.xnor` (R192). -/
def execPlogXnor (d a b : BitVec 3) (s : State) : Host.Outcome State Fault Refusal :=
  issue (.plogXnor d a b) s (predOp d.toNat fun _ p => !(p a.toNat ^^ p b.toNat))

/-- `SEL` (R192): a where predicate n is true, else b. -/
def execSel (d a b : BitVec 6) (p : BitVec 3) (s : State) : Host.Outcome State Fault Refusal :=
  issue (.sel d a b p) s fun x s =>
    x.finish s (x.w.writeLanes x.e d.toNat fun l => if x.w.preg p.toNat l then x.w.vreg a.toNat l else x.w.vreg b.toNat l)

end Sys2Proof.Machine
end

