-- ==== Sys2Proof/Machine/Copy.lean ====
section
/-! DEFINITION. The copy group, major 0x16 (R252 to R258): bulk copies, tile fills and drains, tile entries and gangs. -/

namespace Sys2Proof.Machine

open Sys2Proof

/-- A multiple of 16. -/
def mult16 (x : DWord) : Bool := x.toNat % 16 = 0

/-- The causes that the issue of a copy meets (R250, R253): reserved words, a length above the limit, alignment, and the ranges of
lagoon addresses, each an address with the bytes that it spans. -/
def State.copyCause (s : State) (k : WaveKey) (b : List Word) (len : Option Nat) (addrs : List (DWord × Nat)) : Option Cause :=
  let bc := (wordAt b 5).getLsbD 0
  let reserved := (wordAt b 5).toNat / 2 ≠ 0 || (match len with | some n => decide (0x1000000 < n) | none => false)
  let aligned := (wordAt b 4).toNat % 16 = 0 && addrs.all (fun p => mult16 p.1) && (!bc || mult16 (pairAt b 6))
  let ext := addrs ++ (if bc then [(pairAt b 6, 16)] else [])
  let range : Option Cause := ext.foldl
    (fun c p => if isLagoonAddr p.1 then (match s.lagoonExtent k p.1 p.2 with | .error d => lowerCause d c | .ok _ => c) else c) none
  if reserved then some Cause.illegal
  else if range == some Cause.resRange then range
  else if !aligned then some Cause.align
  else range

/-- The copies of a core in flight are at their limit of 64 (R104). -/
def State.copiesFull (s : State) (core : Nat) : Bool :=
  decide (64 ≤ (s.ops.filter fun o => o.core = core && (match o.kind with | .copy _ => true | _ => false)).length)

/-- The barrier object that a copy counts on (R256). -/
def copyBarOf (b : List Word) : Option DWord := if (wordAt b 5).getLsbD 0 then some (pairAt b 6) else none

/-- `BCOPY` (R131, R253, R254). -/
def execBcopy (f : BitVec 1) (g ix : BitVec 3) (s : State) : Host.Outcome State Fault Refusal :=
  let i := Instr.bcopy f g ix
  issue i s fun x s =>
    engine g x s fun _ =>
      match x.team s with
      | none => .raise Cause.illegal s
      | some (k, t) =>
        let b := x.block ix
        let len := (wordAt b 4).toNat
        match s.copyCause k b (some len) [(pairAt b 0, len), (pairAt b 2, len)] with
        | some c => .raise c s
        | none =>
          performAll x s fun s =>
          if len = 0 then .done s 0 0
          else if s.copiesFull t.core then .wait 11 s
          else
            let c : Copy := { src := pairAt b 0, dst := pairAt b 2, len := len, bar := copyBarOf b }
            .done (s.launchOp x i x.e (.copy c) []) 0 (copyUnits len)

/-- A tile copy (R111, R112, R255): a fill or a consumer. -/
def tileCopy (i : Instr) (g ix : BitVec 3) (m : Nat) (fill : Bool) (x : Issuer) (s : State) : Effect :=
  engine g x s fun _ =>
    match x.team s with
    | none => .raise Cause.illegal s
    | some (k, t) =>
      let b := x.block ix
      let e := t.entry m
      let stride := (wordAt b 4).toNat
      let addr := if fill then pairAt b 0 else pairAt b 2
      match s.copyCause k b none [(addr, (tileRows e - 1) * stride + tileRow e)] with
      | some c => .raise c s
      | none =>
        if (if fill then !t.admitsFill m else t.tstate m ≠ tReady) then .wait 10 s
        else if s.copiesFull t.core then .wait 11 s
        else
          performAll x s fun s =>
          let s := s.modTeam k.team fun t =>
            if fill then t.setTstate m tFilling else (t.setTstate m tDraining).modReaders m (· + 1)
          let c : Copy :=
            { src := if fill then addr else 0, dst := if fill then 0 else addr, len := tileExtent e, stride := stride,
              rowLen := tileRow e, tile := some m, fill := fill, base := tileBase e, bar := copyBarOf b }
          .done (s.launchOp x i x.e (.copy c) []) 0 (copyUnits (tileExtent e))

/-- `BCOPYT` (R255). -/
def execBcopyt (f : BitVec 1) (g ix : BitVec 3) (m : BitVec 6) (s : State) : Host.Outcome State Fault Refusal :=
  let i := Instr.bcopyt f g ix m
  issue i s (tileCopy i g ix m.toNat true)

/-- `BCOPYO` (R255). -/
def execBcopyo (f : BitVec 1) (g ix : BitVec 3) (m : BitVec 6) (s : State) : Host.Outcome State Fault Refusal :=
  let i := Instr.bcopyo f g ix m
  issue i s (tileCopy i g ix m.toNat false)

/-- `TDEF` (R111, R257). -/
def execTdef (g : BitVec 3) (m : BitVec 6) (n : BitVec 5) (s : State) : Host.Outcome State Fault Refusal :=
  issue (.tdef g m n) s fun x s =>
    engine g x s fun _ =>
      match x.team s with
      | none => .raise Cause.illegal s
      | some (k, t) =>
        let v := x.kpairN n
        if v.toNat / 2 ^ 51 ≠ 0 then .raise Cause.illegal s
        else if (s.descOf x.a).tiles * 8192 < tileBase v + tileExtent v then .raise Cause.resRange s
        else if t.tstate m.toNat ≠ tEmpty then .raise Cause.tile s
        else .done (s.modTeam k.team fun t => { t with tiles := t.tiles.put 0 m.toNat v })

/-- `TREL` (R111, R112, R257). -/
def execTrel (g : BitVec 3) (m : BitVec 6) (s : State) : Host.Outcome State Fault Refusal :=
  issue (.trel g m) s fun x s =>
    engine g x s fun _ =>
      match x.team s with
      | none => .raise Cause.illegal s
      | some (k, t) =>
        if t.tstate m.toNat ≠ tReady then .raise Cause.tile s
        else if t.readers.get 0 m.toNat ≠ 0 then .wait 10 s
        else .done (s.modTeam k.team fun t => (t.setTstate m.toNat tEmpty).wakeTiles)

/-- `TSTATE` (R111, R257). -/
def execTstate (g : BitVec 3) (m : BitVec 6) (n : BitVec 5) (s : State) : Host.Outcome State Fault Refusal :=
  issue (.tstate g m n) s fun x s =>
    engine g x s fun _ =>
      match x.team s with
      | none => .raise Cause.illegal s
      | some (_, t) => x.finish s (x.w.setKpair (2 * n.toNat) (t.entry m.toNat))

/-- The waves that a `GANG` lists: position j is bits [5j+4:5j] (R258). -/
def gangList (w : Word) (c : Nat) : List Nat := (List.range c).map fun j => bits w (5 * j) 5

/-- `GANG` (R46, R258). -/
def execGang (g h : BitVec 3) (a : BitVec 6) (c : BitVec 3) (s : State) : Host.Outcome State Fault Refusal :=
  issue (.gang g h a c) s fun x s =>
    engine g x s fun _ =>
      match x.team s with
      | none => .raise Cause.illegal s
      | some (k, t) =>
        let w := x.w.kreg a.toNat
        let l := gangList w c.toNat
        if w.toNat / 2 ^ (5 * c.toNat) ≠ 0 || l.eraseDups.length ≠ l.length then .raise Cause.illegal s
        else if l.any (fun i => decide (t.waves.length ≤ i)) || (t.gangs.get {} h.toNat).latch.isSome then .raise Cause.gang s
        else .done (s.modTeam k.team fun t => { t with gangs := t.gangs.put {} h.toNat { list := l } })

end Sys2Proof.Machine
end

