-- ==== Sys2Proof/Machine/Matrix.lean ====
section
/-! DEFINITION. The matrix group, major 0x17 (R46 to R48, R91 to R95, R259 to R267): the rendezvous, the sums, and the accumulator
instructions. -/

namespace Sys2Proof.Machine

open Sys2Proof

/-! Elements. -/

/-- The width of an element of a format code (R78). -/
def codeWidth (c : Nat) : Nat :=
  match c with
  | 0 | 8 => 32
  | 1 | 2 => 16
  | 3 | 4 | 6 => 8
  | _ => 4

/-- Element j of width w of a list of words (R81). -/
def wordsElem (w : Nat) (ws : List Word) (j : Nat) : Nat := elem w (wordAt ws (j * w / 32)) (j % (32 / w))

/-- Element j of width w of bytes (R81). -/
def bytesElem (w : Nat) (bs : List Byte) (j : Nat) : Nat :=
  if w = 4 then (bs[j / 2]?.getD 0).toNat / 16 ^ (j % 2) % 16 else ofLeBytes ((bs.drop (j * (w / 8))).take (w / 8))

/-- The value of a floating-point element; NaN for a code that has none. -/
def elemVal (code b : Nat) : FVal := match fmtOfCode code with | some f => f.read b | none => .nan

/-- A signed element of width w. -/
def signedOf (w b : Nat) : Int := if 2 ^ (w - 1) ≤ b then (b : Int) - 2 ^ w else b

/-- The index of element (k, j) of B (R261). -/
def bIndex (trans : Bool) (kk k j : Nat) : Nat := if trans then j * kk + k else k * 64 + j

/-! Sums. -/

/-- One group of R91 and R92: the exact sum is rounded once and added to the accumulator, which is rounded again; with the flags. -/
def accGroup (p : Word × Word) (terms : List FVal) : Word × Word :=
  let (s, f1) := wr32 false .rn (exactSum terms)
  let (y, f2) := fadd false .rn p.1 s
  (y, p.2 ||| f1 ||| f2)

/-- The groups of a sum of products in ascending k (R91, R92). -/
def accGroups (acc : Word) (size n : Nat) (term : Nat → FVal) : Word × Word :=
  (List.range n).foldl (fun p g => accGroup p ((List.range size).map fun k => term (size * g + k))) (acc, 0)

/-- The expansion of an INT4 weight to BF16 with its flags (R95). -/
def expandW (q zp : Nat) (sigma : FVal) : Nat × Word :=
  match sigma with
  | .fin _ 0 _ => (0, 0)
  | _ =>
    let d := signedOf 4 q - signedOf 4 zp
    bf16.ofVal .rn ((FVal.fin (decide (d < 0)) d.natAbs 0).mul sigma)

/-- The product of the block scales (R92). -/
def MatOp.blockScale (m : MatOp) (b : Nat) : FVal :=
  match sc20 (wordAt m.sa b), sc20 (tileScale m.entry) with
  | some x, some y => x.mul y
  | _, _ => .nan

/-- The new value of an accumulator entry: row of A, bytes of B, bytes of the scale tile, column (R91 to R95). -/
def MatOp.cell (m : MatOp) (row : List Word) (b b2 : List Byte) (j : Nat) (acc : Word) : Word × Word :=
  let at_ (k : Nat) : Nat := bIndex m.trans m.kk k j
  if m.quant then
    let sigma := (sc20 (BitVec.ofNat 32 (ofLeBytes ((b2.drop (4 * j)).take 4)))).getD .nan
    let zp := bytesElem 4 (b2.drop 256) j
    let w (k : Nat) : Nat × Word := expandW (bytesElem 4 b (at_ k)) zp sigma
    let r := accGroups acc 8 16 fun k => (bf16.read (wordsElem 16 row k)).mul (bf16.read (w k).1)
    (r.1, (List.range 128).foldl (fun f k => f ||| (w k).2) r.2)
  else if m.fmtB = 6 then
    (BitVec.ofInt 32
      ((List.range m.kk).foldl (fun a k => a + signedOf 8 (wordsElem 8 row k) * signedOf 8 (bytesElem 8 b (at_ k))) acc.toInt), 0)
  else
    let wa := codeWidth m.fmtA
    let prod (k : Nat) : FVal := (elemVal m.fmtA (wordsElem wa row k)).mul (elemVal m.fmtB (bytesElem wa b (at_ k)))
    if m.fmtB ≤ 2 then accGroups acc 8 (m.kk / 8) prod
    else accGroups acc 32 (m.kk / 32) fun k => (prod k).mul (m.blockScale (k / 32))

/-! Issue. -/

/-- The formats of an `MMA` (R260): the code of A and K, or none where the pairing is illegal. `fn` is 0 for `MMA`, 1 for `MMA_X`. -/
def mmaFormats (fn fmtB : Nat) : Option (Nat × Nat) :=
  match fn, fmtB with
  | 0, 1 => some (1, 32)
  | 0, 2 => some (2, 32)
  | 0, 3 => some (3, 64)
  | 0, 4 => some (4, 64)
  | 1, 3 => some (4, 64)
  | 1, 4 => some (3, 64)
  | 0, 5 => some (5, 128)
  | 0, 6 => some (6, 64)
  | _, _ => none

/-- The price entry of a matrix instruction by the format of B (R302). -/
def mmaPrice (fn fmtB : Nat) : Nat :=
  if fn = 2 then 38
  else
    match fmtB with
    | 1 => 32
    | 2 => 33
    | 3 | 4 => if fn = 1 then 35 else 34
    | 5 => 36
    | _ => 37

/-- The lanes of a wave that stand at the rendezvous at an address. -/
def Wave.standing (w : Wave) (pc : DWord) : LaneMask :=
  maskOf fun l => decide ((w.th l).stat = .waiting) && decide ((w.th l).pc = pc) &&
    (decide ((w.th l).kind = 7#6) || decide ((w.th l).kind = 10#6) || decide ((w.th l).kind = 11#6))

/-- The A row of a lane: its registers, or zeros when it has exited (R48, R262). -/
def Wave.aRow (w : Wave) (first n l : Nat) : List Word :=
  if w.live.getLsbD l then (List.range n).map fun j => w.vreg (first + j) l else List.replicate n 0

/-- A poison code in a span of the tile store. -/
def Team.tilePoisonIn (t : Team) (e : DWord) : Nat :=
  ((List.range ((tileExtent e + 63) / 64)).map fun j => t.tilePoison.get 0 (tileBase e / 64 + j)).find? (· ≠ 0) |>.getD 0

/-- What a matrix instruction that has rendezvoused meets at its issue (R260 to R264, R393): the operation, or a cause with its trap
code. -/
def Team.matOp (t : Team) (fn : Nat) (ws : List Nat) (a m q : Nat) (trans : Bool) (ztiles : Nat) : Except (Cause × Nat) MatOp :=
  let c := ws.length
  let e := t.entry m
  let e2 := t.entry (m + 1)
  let wave (i : Nat) : Wave := t.waves[i]?.getD {}
  let n := if fn = 2 then 64 else 16
  let rows := ws.flatMap fun i => (List.range 32).map fun l => (wave i).aRow (32 * a) n l
  let regPoison := ws.findSome? fun i =>
    ((List.range n).flatMap fun j => [2 * (16 + 32 * a + j), 2 * (16 + 32 * a + j) + 1]).findSome? (wave i).poison.find
  let code := match regPoison with | some x => x | none => if t.tilePoisonIn e ≠ 0 then t.tilePoisonIn e else if fn = 2 then t.tilePoisonIn e2 else 0
  if code ≠ 0 then .error (Cause.ecc, code)
  else
    let base : MatOp := { waves := ws, q := q, c := c, fmtB := tileFmt e, trans := trans, a := rows, tile := m, entry := e, entry2 := e2 }
    if fn = 2 then
      let scales := (List.range 64).map fun j => BitVec.ofNat 32 (ofLeBytes (t.tileMem.getList 0 (tileBase e2 + 4 * j) 4))
      if tileFmt e ≠ 7 then .error (Cause.illegal, 0)
      else if 288 ≤ tileExtent e2 && scales.any (fun x => (sc20 x).isNone) then .error (Cause.illegal, 0)
      else if ztiles < 4 * q + c then .error (Cause.resRange, 0)
      else if tileExtent e ≠ 4096 || tileExtent e2 < 288 then .error (Cause.tile, 0)
      else .ok { base with fmtA := 1, kk := 128, quant := true }
    else
      match mmaFormats fn (tileFmt e) with
      | none => .error (Cause.illegal, 0)
      | some (fa, kk) =>
        let sa := (List.range 4).map fun b => (wave (ws.headD 0)).kreg (48 + b)
        let scaled := decide (3 ≤ tileFmt e) && decide (tileFmt e ≤ 5)
        if scaled && ((sc20 (tileScale e)).isNone || (sa.take (kk / 32)).any fun x => (sc20 x).isNone) then .error (Cause.illegal, 0)
        else if ztiles < 4 * q + c then .error (Cause.resRange, 0)
        else if tileExtent e ≠ 4096 then .error (Cause.tile, 0)
        else .ok { base with fmtA := fa, kk := kk, sa := sa }

/-- The threads of a wave that stand at an address, running or waiting at the rendezvous there (R47). -/
def Wave.atRendezvous (w : Wave) (pc : DWord) : LaneMask :=
  w.standing pc ||| maskOf fun l => decide ((w.th l).stat = .running) && decide ((w.th l).pc = pc)

/-- A listed wave has arrived and still stands at the rendezvous, or has exited entirely (R47). -/
def Wave.arrivedAt (w : Wave) (arrived : Bool) (pc : DWord) : Bool := w.live = 0#32 || (arrived && w.live &&& ~~~w.atRendezvous pc = 0#32)

/-- Every thread of the listed waves that stands at the rendezvous runs on after it, those of wave `me` that issue for the gang by their issue: the
instruction issues once (R47). -/
def Team.passRendezvous (t : Team) (ws : List Nat) (me : Nat) (pc : DWord) : Team :=
  { t with waves := t.waves.mapIdx fun i w =>
      if ws.contains i then { w.modLanes (if i = me then w.standing pc else w.atRendezvous pc) Thread.resumeAfter with latch := none } else w }

/-- The flags of a gang instruction: the selected flag of every listed wave that has not exited (R174). -/
def gangFlags (k : WaveKey) (t : Team) (i : Instr) (chdr : Word) (ws : List Nat) : List (Agent × Nat) :=
  match flagOf i chdr with
  | some n => (ws.filter fun j => !((t.waves[j]?.map (·.done)).getD true)).map fun j => (.wave ⟨k.team, j⟩, n)
  | none => []

/-- `MMA`, `MMA_X` and `MMAQ`: the rendezvous (R47, R262), the wait on the tiles (R111), and the issue for the gang. -/
def matrixOp (i : Instr) (fn : Nat) (g h : BitVec 3) (e : BitVec 1) (a : BitVec 3) (m : BitVec 6) (q : BitVec 3) (tr : BitVec 1)
    (x : Issuer) (s : State) : Effect :=
  match x.team s with
  | none => .raise Cause.illegal s
  | some (k, t) =>
    let gang := t.gangs.get {} h.toNat
    let latch := if e = 1 then gang.latch else x.w.latch
    let ws := if e = 1 then gang.list else [k.idx]
    if !ws.contains k.idx || (latch.isSome && latch ≠ some x.pc) then .raise Cause.gang s
    else
      let t :=
        if e = 1 then { t with gangs := t.gangs.put {} h.toNat { gang with latch := some x.pc } }
        else { t with waves := t.waves.modify k.idx fun w => { w with latch := some x.pc } }
      if x.w.live &&& ~~~(x.e ||| x.w.standing x.pc) ≠ 0#32 then .wait 7 (s.putTeam k.team t)
      else
        let arrived := gang.arrived ||| laneBit k.idx
        let t := if e = 1 then { t with gangs := t.gangs.put {} h.toNat { gang with latch := some x.pc, arrived := arrived } } else t
        let here (j : Nat) : Bool := j = k.idx || (match t.waves[j]? with | some w => w.arrivedAt (arrived.getLsbD j) x.pc | none => true)
        if e = 1 && !ws.all here then .wait 7 (s.putTeam k.team t)
        else
          let last := if fn = 2 then m.toNat + 1 else m.toNat
          let flags := gangFlags k t i x.th.chdr ws
          let truth := ws.any fun j =>
            match t.waves[j]? with
            | some w => (lanesOf w.live).any fun l => w.preg g.toNat l
            | none => false
          let passed := ({ t with gangs := if e = 1 then t.gangs.put {} h.toNat { list := gang.list } else t.gangs }).passRendezvous ws k.idx x.pc
          if !truth then .done (s.putTeam k.team passed) 0 0
          else if t.tstate m.toNat ≠ tReady || t.tstate last ≠ tReady then .wait 10 (s.putTeam k.team t)
          else if flags.any (fun p => decide (63 ≤ ((s.agent? p.1).map fun w => w.flag p.2).getD 0)) then .wait 11 (s.putTeam k.team t)
          else
            match t.matOp fn ws a.toNat m.toNat q.toNat (decide (tr = 1)) (s.descOf x.a).ztiles with
            | .error (c, code) => .raise c s (BitVec.ofNat 8 code)
            | .ok o =>
              let passed := passed.modReaders m.toNat (· + 1)
              let passed := if fn = 2 then passed.modReaders last (· + 1) else passed
              let s := (s.putTeam k.team passed).addOp fun id =>
                { id := id, agent := x.a, pc := x.pc, core := t.core, lanes := x.e, flags := flags, kind := .mma o }
              .done s 0 (if fn = 2 then 4 * ws.length else ws.length) (some (.wave ⟨k.team, ws.headD k.idx⟩))
                (some (mmaPrice fn (tileFmt (t.entry m.toNat))))

/-- `MMA` (R47, R48, R260 to R263). -/
def execMma (f : BitVec 1) (g h : BitVec 3) (e : BitVec 1) (a : BitVec 3) (m : BitVec 6) (q : BitVec 3) (t u : BitVec 1) (s : State) :
    Host.Outcome State Fault Refusal :=
  let i := Instr.mma f g h e a m q t u
  issue i s (matrixOp i 0 g h e a m q t)

/-- `MMA_X` (R260). -/
def execMmaX (f : BitVec 1) (g h : BitVec 3) (e : BitVec 1) (a : BitVec 3) (m : BitVec 6) (q : BitVec 3) (t u : BitVec 1) (s : State) :
    Host.Outcome State Fault Refusal :=
  let i := Instr.mmaX f g h e a m q t u
  issue i s (matrixOp i 1 g h e a m q t)

/-- `MMAQ` (R95, R264). -/
def execMmaq (f : BitVec 1) (g h : BitVec 3) (e : BitVec 1) (a : BitVec 3) (m : BitVec 6) (q : BitVec 3) (t u : BitVec 1) (s : State) :
    Host.Outcome State Fault Refusal :=
  let i := Instr.mmaq f g h e a m q t u
  issue i s (matrixOp i 2 g h e a m q t)

/-- The gang register through which an instruction issues once for a gang, and its effect (R47, R185). -/
def gangEffect (i : Instr) : Option (BitVec 3 × (Issuer → State → Effect)) :=
  match i with
  | .mma _ g h 1 a m q t _ => some (h, matrixOp i 0 g h 1 a m q t)
  | .mmaX _ g h 1 a m q t _ => some (h, matrixOp i 1 g h 1 a m q t)
  | .mmaq _ g h 1 a m q t _ => some (h, matrixOp i 2 g h 1 a m q t)
  | _ => none

/-! Accumulator tiles (R266). -/

/-- Clear n accumulator tiles, whole granules with their poison (R266, R393). -/
def Team.clearZ (t : Team) (z n : Nat) : Team :=
  { t with
    z := t.z.filter fun (x : Nat × Word) => x.1 / 2048 < z || z + n ≤ x.1 / 2048,
    zSet := (t.zSet ++ (List.range n).map (z + ·)).eraseDups,
    zPoison := t.zPoison.filter fun (x : Nat × Nat) => x.1 / 128 < z || z + n ≤ x.1 / 128 }

/-- `ZCLR` (R265, R266): in the order of the matrix engine. -/
def execZclr (g : BitVec 3) (z n : BitVec 5) (s : State) : Host.Outcome State Fault Refusal :=
  let i := Instr.zclr g z n
  issue i s fun x s =>
    engine g x s fun _ =>
      match x.team s with
      | none => .raise Cause.illegal s
      | some (k, t) =>
        if s.ops.any fun o => o.kind.matrix && o.core = t.core then .done (s.launchOp x i x.e (.zclr z.toNat (n.toNat + 1)) [])
        else .done (s.modTeam k.team fun t => t.clearZ z.toNat (n.toNat + 1))

/-- A transfer of an accumulator tile (R250, R266, R267): the checks of its address at issue. -/
def zTransfer (i : Instr) (addr : DWord) (bytes : Nat) (kind : OpKind) (x : Issuer) (s : State) : Effect :=
  match x.team s with
  | none => .raise Cause.illegal s
  | some (k, _) =>
    let range := if isLagoonAddr addr then (match s.lagoonExtent k addr bytes with | .error c => some c | .ok _ => none) else none
    if range == some Cause.resRange then .raise Cause.resRange s
    else if addr.toNat % 64 ≠ 0 then .raise Cause.align s
    else
      match range with
      | some c => .raise c s
      | none => performAll x s fun s => .done (s.launchOp x i x.e kind []) 0 (copyUnits bytes)

/-- `ZLD` (R266). -/
def execZld (f : BitVec 1) (g : BitVec 3) (z n : BitVec 5) (s : State) : Host.Outcome State Fault Refusal :=
  let i := Instr.zld f g z n
  issue i s fun x s => engine g x s fun _ => zTransfer i (x.kpairN n) 8192 (.zld z.toNat (x.kpairN n) 0) x s

/-- `ZST` (R266). -/
def execZst (f : BitVec 1) (g : BitVec 3) (z n : BitVec 5) (s : State) : Host.Outcome State Fault Refusal :=
  let i := Instr.zst f g z n
  issue i s fun x s => engine g x s fun _ => zTransfer i (x.kpairN n) 8192 (.zst z.toNat (x.kpairN n) 0) x s

/-- `ZEPI` to an address (R267). -/
def execZepi (f : BitVec 1) (g : BitVec 3) (z n : BitVec 5) (o : BitVec 3) (r : BitVec 2) (s : State) :
    Host.Outcome State Fault Refusal :=
  let i := Instr.zepi f g z n o r
  issue i s fun x s =>
    engine g x s fun _ =>
      let e : Epi := { z := z.toNat, ofmt := o.toNat, rnd := r.toNat, addr := x.kpairN n, route := none, done := 0 }
      zTransfer i (x.kpairN n) (2048 * epiSize o.toNat) (.zepi e) x s

/-- MODE of a route against OFMT (R276). -/
def routeModeOk (mode ofmt : Nat) : Bool :=
  match mode with
  | 0 => true
  | 1 => ofmt = 0 || ofmt = 1
  | 2 => ofmt = 0
  | _ => false

/-- `ZEPI` through a route register (R267, R276). -/
def execZepiRoute (f : BitVec 1) (g : BitVec 3) (z : BitVec 5) (e : BitVec 2) (n : BitVec 5) (o : BitVec 3) (r : BitVec 2) (s : State) :
    Host.Outcome State Fault Refusal :=
  let i := Instr.zepiRoute f g z e n o r
  issue i s fun x s =>
    engine g x s fun _ =>
      match x.team s with
      | none => .raise Cause.illegal s
      | some (_, t) =>
        let rt := t.routes.get [] e.toNat
        let addr := pairAt rt 0 + x.kpairN n
        let size := epiSize o.toNat
        if !routeModeOk (bits (wordAt rt 4) 11 2) o.toNat then .raise Cause.illegal s
        else if addr.toNat % size ≠ 0 || (wordAt rt 2).toNat % size ≠ 0 then .raise Cause.align s
        else
          let ep : Epi := { z := z.toNat, ofmt := o.toNat, rnd := r.toNat, addr := addr, route := some rt, done := 0 }
          performAll x s fun s => .done (s.launchOp x i x.e (.zepi ep) []) 0 (copyUnits (2048 * size))

/-- `ZMOV` to registers (R266). -/
def execZmovToV (f : BitVec 1) (g : BitVec 3) (z : BitVec 5) (q : BitVec 2) (b : BitVec 4) (s : State) :
    Host.Outcome State Fault Refusal :=
  let i := Instr.zmovToV f g z q b
  issue i s fun x s => engine g x s fun e => .done (s.launchOp x i e (.zmovV z.toNat q.toNat b.toNat) [])

/-- `ZMOV` from registers (R266). -/
def execZmovToZ (f : BitVec 1) (g : BitVec 3) (z : BitVec 5) (q : BitVec 2) (b : BitVec 4) (s : State) :
    Host.Outcome State Fault Refusal :=
  let i := Instr.zmovToZ f g z q b
  issue i s fun x s =>
    engine g x s fun e =>
      let vals := (lanesOf e).map fun l => (l, (List.range 16).map fun j => x.w.vreg (16 * b.toNat + j) l)
      .done (s.launchOp x i e (.zmovZ z.toNat q.toNat vals) [])

/-! Performance by the matrix engine, in issue order (R265). -/

/-- A poison code in an accumulator tile. -/
def Team.zPoisonIn (t : Team) (z : Nat) : Nat :=
  ((List.range 128).map fun j => t.zPoison.get 0 (128 * z + j)).find? (· ≠ 0) |>.getD 0

/-- A poison code in the granules of an accumulator tile that a `ZMOV` to `v` reads for lanes (R266, R393). -/
def Team.zmovPoison (t : Team) (m : LaneMask) (z q : Nat) : Nat :=
  ((lanesOf m).map fun l => t.zPoison.get 0 (128 * z + 4 * l + q)).find? (· ≠ 0) |>.getD 0

/-- Every cell of a matrix operation (R262), with the flags of all. -/
def MatOp.run (m : MatOp) (t : Team) : Tab Word × Word :=
  let b := t.tileMem.getList 0 (tileBase m.entry) (tileExtent m.entry)
  let b2 := t.tileMem.getList 0 (tileBase m.entry2) 288
  (List.range (32 * m.c)).foldl
    (fun p x =>
      let row := m.a[x]?.getD []
      (List.range 64).foldl
        (fun (p : Tab Word × Word) j =>
          let n := 2048 * (4 * m.q + x / 32) + 64 * (x % 32) + j
          let r := m.cell row b b2 j ((p.1.find n).getD (t.zget n))
          (p.1.ins n r.1, p.2 ||| r.2))
        p)
    (t.z, 0)

/-- The words of an accumulator tile that a `ZMOV` to `v` writes (R266). -/
def Op.zmovResult (o : Op) (t : Team) (z q b : Nat) (w : Wave) : Wave :=
  w.forLanes o.lanes fun l w => (List.range 16).foldl (fun w j => w.setV (16 * b + j) l (t.zword z (64 * l + 16 * q + j))) w

/-- The matrix engine performs an operation (R48, R91 to R95, R111, R112, R266, R393); none while an earlier one of the core is in
flight. -/
def State.performMatrix (s : State) (o : Op) : Option State :=
  match o.teamKey with
  | none => none
  | some k =>
    match s.team? k with
    | none => none
    | some t =>
      if !s.matrixTurn o then none
      else
        match o.kind with
        | .mma m =>
          let code := ((List.range m.c).map fun j => t.zPoisonIn (4 * m.q + j)).find? (· ≠ 0) |>.getD 0
          let (z, fl) := m.run t
          let t := { t with z := z }.modReaders m.tile (· - 1)
          let t := (if m.quant then t.modReaders (m.tile + 1) (· - 1) else t).wakeTiles
          let s := ((s.putTeam k t).consume o code).dropOp o.id
          some ((m.waves.foldl (fun s j => s.addStickyAsync (.wave ⟨k, j⟩) fl) s).dropFlags o.flags)
        | .zclr z n => some (((s.putTeam k (t.clearZ z n)).dropOp o.id).dropFlags o.flags)
        | .zmovV z q b =>
          let s := (s.consume o (t.zmovPoison o.lanes z q)).modAgent o.agent (o.deliver (o.zmovResult t z q b))
          some ((s.dropOp o.id).dropFlags o.flags)
        | .zmovZ z q vals =>
          let put (zt : Tab Word) (p : Nat × List Word) : Tab Word :=
            (p.2.zipIdx).foldl (fun (zt : Tab Word) x => zt.ins (2048 * z + 64 * p.1 + 16 * q + x.2) x.1) zt
          let t := { t with
            z := vals.foldl put t.z,
            zPoison := vals.foldl (fun (pt : Tab Nat) p => pt.del (128 * z + 4 * p.1 + q)) t.zPoison }
          some (((s.putTeam k t).dropOp o.id).dropFlags o.flags)
        | _ => none

end Sys2Proof.Machine
end

