-- ==== Sys2Proof/Machine/Rows.lean ====
section
/-! DEFINITION. The row group, major 0x18 (R114 to R120, R145, R146, R268 to R270, R368): row slots and their transfers. -/

namespace Sys2Proof.Machine

open Sys2Proof

/-- A row slot of a team. -/
def Team.slotAt (t : Team) (w : Nat) : RowSlot := t.rows.get {} w
/-- Write a row slot of a team. -/
def Team.putSlot (t : Team) (w : Nat) (r : RowSlot) : Team := { t with rows := t.rows.put {} w r }

/-- An operation in flight transfers through a row slot (R116, R118). -/
def State.slotBusy (s : State) (k : TeamKey) (w : Nat) : Bool :=
  s.ops.any fun o => o.teamKey = some k && (match o.kind with | .rowcon x _ _ => x = w | .rowput x _ _ => x = w | _ => false)

/-- A closed slot keeps the row and bank of its latest `ROWACT` (R116, R270). Held writes already stand at their home point (R119). -/
def RowSlot.close (r : RowSlot) : RowSlot := { r with st := 0, lease := 0, snap := [], codes := [], held := [], writes := 0 }

/-- A row instruction completes, and writes true to its predicate in the guard-true threads (R120, R248). -/
def rowDone (x : Issuer) (s : State) (e : LaneMask) (p : BitVec 3) : Effect :=
  .done (s.modAgent x.a fun w => w.writePreds e p.toNat fun _ => true)

/-- A slot test fails (R120, R269, R303): a cause, or with `.try` a false predicate and no charge. -/
def rowFail (x : Issuer) (s : State) (e : LaneMask) (p : BitVec 3) (y : BitVec 1) (c : Cause) : Effect :=
  if y = 1 then .done (s.modAgent x.a fun w => w.writePreds e p.toNat fun _ => false) 0 0 else .raise c s

/-- The bytes of the row at a DRAM address, at their home points (R145). -/
def rowOf (core : Nat) (r : RowSlot) : Nat := interleaved core (r.row.toNat * 0x40000 + r.bank.toNat * 0x1000)

/-- Where `ROWACT` finds its row (R115, R368): a leaf of 4 KiB with ROW and G = 0 in the own shoal window below the reserved rows. -/
def State.rowPlace (s : State) (ctx core : Nat) (va : DWord) (g : Nat) (pte : DWord) : Option Nat :=
  match s.tlbFind core ctx va.toNat, shoalWindow g with
  | some e, some (c, off) =>
    if e.bits = 12 && pteBit pte 4 && !pteBit pte 9 && c = core && decide (off < reservedRows) then some off else none
  | _, _ => none

/-- Another slot of the core holds a program-open row in a bank (R115). -/
def State.bankHeld (s : State) (core : Nat) (k : TeamKey) (w bank : Nat) : Bool :=
  s.teams.any fun (k', t) =>
    t.core = core && !t.saved &&
      t.rows.any fun (w', r) => !(k' = k && w' = w) && r.bank.toNat = bank && (r.st = 1#2 || r.st = 2#2)

/-- The row path's mask of the context permits a bank (R115, R332). -/
def State.bankAllowed (s : State) (ctx bank : Nat) : Bool := (s.ctReg ctx (0x001 + bank / 32)).getLsbD (bank % 32)

/-- The row activations of a core in the latest 64 lclk (R117). -/
def State.recentActs (s : State) (core : Nat) : List Nat :=
  (s.core core).acts.filter fun a => (s.cluster (clusterOf core)).lclk < a + 64

/-- `ROWACT` (R115 to R117, R119, R145, R269, R270): the issuing core's write-throughs drain, and its dirty bytes of the row come home. At a missing
page the threads of the whole group park, those with a false guard too: the rules do not say which are the faulting threads of an instruction that
acts once for its group (DESIGN CHOICE, log entry 74). -/
def execRowact (f : BitVec 1) (g : BitVec 3) (w : BitVec 2) (n : BitVec 5) (p : BitVec 3) (y : BitVec 1) (s : State) :
    Host.Outcome State Fault Refusal :=
  let i := Instr.rowact f g w n p y
  issue i s fun x s =>
    engine g x s fun e =>
      match x.team s with
      | none => .raise Cause.illegal s
      | some (k, t) =>
        let r := t.slotAt w.toNat
        let va := x.kpairN n
        if r.st = 1#2 then rowFail x s e p y Cause.rowState
        else if r.st = 2#2 && s.slotBusy k.team w.toNat then .wait 11 s
        else
          match s.translate x.ctx t.core (s.level x.a) .read va with
          | (.access, s) => .raise Cause.access s
          | (.page, s) => .moved (s.parkPage x 0 x.e va false false)
          | (.ok _ ga pte, s) =>
            match s.rowPlace x.ctx t.core va ga pte with
            | none => .raise Cause.rowPlace s
            | some off =>
              let bank := off / 0x1000 % 64
              if !s.bankAllowed x.ctx bank then .raise Cause.rowOwner s
              else if s.bankHeld t.core k.team w.toNat bank then rowFail x s e p y Cause.rowBank
              else if 8 ≤ (s.recentActs t.core).length then .wait 11 s
              else
                performAll x s fun s =>
                let c := s.core t.core
                let s := s.putCore t.core { c with acts := s.recentActs t.core ++ [(s.cluster (clusterOf t.core)).lclk] }
                let pa := interleaved t.core (off / 0x1000 * 0x1000)
                let s := s.drainAll t.core
                let s := s.writeBackAll t.core (((s.core t.core).l1.dirty.map (·.1)).filter fun b => pa ≤ b && b < pa + 4096)
                let slot : RowSlot :=
                  { st := 1, row := BitVec.ofNat 12 (off / 0x40000), bank := BitVec.ofNat 6 bank, wr := pteBit pte 1 }
                let s := s.modTeam k.team fun t => t.putSlot w.toNat slot
                rowDone x (s.launchOp x i e (.rowact w.toNat pa) []) e p

/-- The slot test of `ROWCON` and `ROWPUT` (R116): the cause that it meets. -/
def RowSlot.transferCause (r : RowSlot) : Option Cause :=
  if r.st = 1#2 then some Cause.rowEarly
  else if r.st = 2#2 && r.lease ≠ 0 then none
  else some Cause.rowState

/-- `ROWCON` (R116, R118, R269, R270). -/
def execRowcon (f : BitVec 1) (g : BitVec 3) (w : BitVec 2) (m : BitVec 6) (p : BitVec 3) (y : BitVec 1) (s : State) :
    Host.Outcome State Fault Refusal :=
  let i := Instr.rowcon f g w m p y
  issue i s fun x s =>
    engine g x s fun e =>
      match x.team s with
      | none => .raise Cause.illegal s
      | some (k, t) =>
        let en := t.entry m.toNat
        if !t.admitsFill m.toNat then .wait 10 s
        else if !rowSized en then .raise Cause.tile s
        else
          match (t.slotAt w.toNat).transferCause with
          | some c => rowFail x s e p y c
          | none =>
            performAll x s fun s =>
            let s := s.modTeam k.team fun t => t.setTstate m.toNat tFilling
            rowDone x (s.launchOp x i e (.rowcon w.toNat m.toNat (tileBase en)) []) e p

/-- `ROWPUT` (R115, R116, R118, R269, R270). -/
def execRowput (f : BitVec 1) (g : BitVec 3) (w : BitVec 2) (m : BitVec 6) (p : BitVec 3) (y : BitVec 1) (s : State) :
    Host.Outcome State Fault Refusal :=
  let i := Instr.rowput f g w m p y
  issue i s fun x s =>
    engine g x s fun e =>
      match x.team s with
      | none => .raise Cause.illegal s
      | some (k, t) =>
        let en := t.entry m.toNat
        let r := t.slotAt w.toNat
        if t.tstate m.toNat ≠ tReady then .wait 10 s
        else if !rowSized en then .raise Cause.tile s
        else
          match r.transferCause with
          | some c => rowFail x s e p y c
          | none =>
            if !r.wr then .raise Cause.access s
            else
              performAll x s fun s =>
              let s := s.modTeam k.team fun t => (t.setTstate m.toNat tDraining).modReaders m.toNat (· + 1)
              rowDone x (s.launchOp x i e (.rowput w.toNat m.toNat (tileBase en)) []) e p

/-- `ROWPRE` (R116, R119, R120). -/
def execRowpre (g : BitVec 3) (w : BitVec 2) (p : BitVec 3) (y : BitVec 1) (s : State) : Host.Outcome State Fault Refusal :=
  issue (.rowpre g w p y) s fun x s =>
    engine g x s fun e =>
      match x.team s with
      | none => .raise Cause.illegal s
      | some (k, t) =>
        let r := t.slotAt w.toNat
        if r.st = 1#2 then rowFail x s e p y Cause.rowEarly
        else if r.st = 2#2 && s.slotBusy k.team w.toNat then .wait 11 s
        else rowDone x (s.modTeam k.team fun t => t.putSlot w.toNat r.close) e p

/-- The slot of an ended lease: its ROW and BANK stay, its held writes are applied (R116, R119). -/
def RowSlot.expire (r : RowSlot) : RowSlot := { r.close with st := 3 }

/-- Leases that have ended expire, once no transfer of their slot is in flight (R116, R118). -/
def State.expireLeases (s : State) : State :=
  s.teams.foldl
    (fun s (k, t) =>
      if t.saved || s.halted k.grid.ctx then s
      else
        t.rows.foldl
          (fun s (w, r) => if r.st = 2 && r.lease = 0 && !s.slotBusy k w then s.modTeam k fun t => (t.putSlot w r.expire).wakeLimits else s) s)
    s

/-- The slot word of `ROWQ` (R270). -/
def RowSlot.word (r : RowSlot) : Word :=
  BitVec.ofNat 32 (r.st.toNat + 4 * r.row.toNat + 0x4000 * r.bank.toNat + 0x100000 * (if r.st = 2#2 then r.lease else 0))

/-- `ROWQ` (R270). -/
def execRowq (g : BitVec 3) (w : BitVec 2) (a : BitVec 6) (s : State) : Host.Outcome State Fault Refusal :=
  issue (.rowq g w a) s fun x s =>
    engine g x s fun _ =>
      match x.team s with
      | none => .raise Cause.illegal s
      | some (_, t) => x.finish s (x.w.setK a.toNat (t.slotAt w.toNat).word)

/-! Hardware's part. -/

/-- A row access reaches the lines of a row: releases that other cores recorded there come home first (R132). -/
def State.reachRow (s : State) (core pa : Nat) : State := (List.range 16).foldl (fun s j => s.promoteFor core (pa + 256 * j)) s

/-- The row is sensed (R116, R119, R132, R145, R393): the snapshot holds the bytes at their home points with their poison, the slot opens and the
flag falls. -/
def State.senseRow (s : State) (o : Op) (w pa : Nat) : State :=
  match o.teamKey with
  | none => s
  | some k =>
    let s := s.reachRow o.core pa
    let snap := (List.range 4096).foldl (fun (t : Tab Byte) j => t.put 0 j (s.homeByte (pa + j))) []
    let codes := (List.range 64).foldl (fun (p : Tab Nat) j => p.put 0 j (s.poison.get 0 (pa / 64 + j))) []
    let s := s.modTeam k fun t => t.putSlot w { t.slotAt w with st := 2, lease := 2048, snap := snap, codes := codes, held := [], writes := 0 }
    (s.dropOp o.id).dropFlags o.flags

/-- The bytes of the open row reach the tile, with the poison that they had at their sensing (R118, R119, R270, R393). -/
def State.conRow (s : State) (o : Op) (w base : Nat) : State :=
  match o.teamKey with
  | none => s
  | some k =>
    match s.team? k with
    | none => s
    | some t =>
      let r := t.slotAt w
      let codes := (List.range 64).foldl (fun (p : Tab Nat) j => p.put 0 (base / 64 + j) (r.codes.get 0 j)) t.tilePoison
      s.putTeam k { t with tileMem := t.tileMem.putList 0 base (r.snap.getList 0 0 4096), tilePoison := codes }

/-- A `ROWPUT` meets bytes of an object on which something waits (R122). -/
def State.rowRefused (s : State) (o : Op) (w : Nat) : Bool :=
  match o.teamKey.bind s.team? with
  | some t => (List.range 4096).any fun j => s.objWaited (rowOf t.core (t.slotAt w) + j)
  | none => false

/-- The bytes of the tile are in the DRAM array, but for those of objects on which something waits (R118, R119, R122, R146, R393): the LLC's copies
of the row are invalidated, and the writes held for this opening stand over it in arrival order; a `ROWCON` that follows reads the refused bytes as
they were sensed. The issuing core's L1 gives up its clean copies, so
that the wave's later loads return its own latest write (R127, R131). -/
def State.putRow (s : State) (o : Op) (w base : Nat) : State :=
  match o.teamKey with
  | none => s
  | some k =>
    let s := match s.team? k with | some t => s.reachRow o.core (rowOf t.core (t.slotAt w)) | none => s
    match s.team? k with
    | none => s
    | some t =>
      let r := t.slotAt w
      let pa := rowOf t.core r
      let kept (j : Nat) : Bool := s.objWaited (pa + j)
      let bs := (t.tileMem.getList 0 base 4096).mapIdx fun j b => if kept j then s.homeByte (pa + j) else b
      let llc := s.llc.filter fun (c : Nat × Byte) => c.1 < pa || pa + 4096 ≤ c.1
      let home := r.held.foldl (fun (h : Tab Byte) c => h.put 0 (pa + c.1) c.2) (s.home.putList 0 pa bs)
      let code (old : Tab Nat) (at_ j : Nat) : Nat :=
        let c := t.tilePoison.get 0 (base / 64 + j)
        if c = 0 && (List.range 64).any (fun b => kept (64 * j + b)) then old.get 0 at_ else c
      let poison := (List.range 64).foldl (fun (p : Tab Nat) j => p.put 0 (pa / 64 + j) (code s.poison (pa / 64 + j) j)) s.poison
      let codes := (List.range 64).foldl (fun (p : Tab Nat) j => p.put 0 j (code r.codes j j)) r.codes
      let snap := (List.range 4096).foldl (fun (x : Tab Byte) j => x.put 0 j (if kept j then r.snap.get 0 j else bs[j]?.getD 0)) []
      ({ s with llc := llc, home := home, poison := poison }.modL1 t.core fun l =>
        { l with clean := l.clean.filter fun c => c.1 < pa / 64 || pa / 64 + 64 ≤ c.1 }).putTeam k (t.putSlot w { r with snap := snap, codes := codes })

end Sys2Proof.Machine
end

