-- ==== Sys2Proof/Machine/Control.lean ====
section
/-! DEFINITION. Control transfer (R43, R153, R154, R172, R216 to R223, R384). -/

namespace Sys2Proof.Machine

open Sys2Proof

/-- Look up the targets of a transfer (R154, R172, R220): the lowest cause among `CLAUSE` for a target that is no clause header and
`ACCESS` for one that fails a check. A target on a missing page passes: its threads park at its fetch. An odd address, which only a
spill stack can hold, is no clause header (DEDUCED, log entry 20). -/
def State.lookTargets (s : State) (x : Issuer) (ts : List DWord) : Option Cause × State :=
  ts.eraseDups.foldl
    (fun (p : Option Cause × State) t =>
      let worse (c : Cause) : Option Cause := match p.1 with | some d => some (min c d) | none => some c
      if t.toNat / 2 ^ 57 ≠ 0 then (worse Cause.access, p.2)
      else if t.getLsbD 0 then (worse Cause.clause, p.2)
      else
        match p.2.codeHead x.a t with
        | (.ok w, s) => (if isClauseHeader w then p.1 else worse Cause.clause, s)
        | (.page, s) | (.refused _, s) => (p.1, s)
        | (.access, s) => (worse Cause.access, s))
    (none, s)

/-- The address of an offset in 16-bit units from the instruction (R166). -/
def Issuer.target (x : Issuer) {n : Nat} (o : BitVec n) : DWord := x.pc + BitVec.ofInt 64 (2 * o.toInt)

/-- The halfword after a 32-bit instruction: the next clause, where the instruction is the last of its clause (R218). -/
def Issuer.next (x : Issuer) : DWord := x.pc + 4

/-- Threads move to the start of a clause (R173). -/
def Wave.jump (w : Wave) (m : LaneMask) (f : Nat → DWord) : Wave :=
  { w with threads := w.threads.mapIdx fun l t => if m.getLsbD l then { t with pc := pcOf (f l), cpos := 0, chdr := 0 } else t }

/-- A transfer (R154, R217, R223): raised with no effect, or every thread of the group moved by one change of the wave. -/
def transfer (x : Issuer) (s : State) (ts : List DWord) (f : Wave → Wave) : Effect :=
  match s.lookTargets x ts with
  | (some c, s) => .raise c s
  | (none, s) => .moved (s.modAgent x.a f)

/-- `BRA` (R218). -/
def execBra (o : BitVec 22) (s : State) : Host.Outcome State Fault Refusal :=
  issue (.bra o) s fun x s => transfer x s [x.target o] fun w => w.jump x.e fun _ => x.target o

/-- The threads of the group whose branch condition holds (R218). -/
def Issuer.cond (x : Issuer) (p : BitVec 3) (n : BitVec 1) : LaneMask :=
  maskOf fun l => x.e.getLsbD l && (x.w.preg p.toNat l != decide (n = 1))

/-- A group splits at a branch (R38, R217): the threads that fall through keep leading. The others become a deferred group with the end of
the step, after every group already deferred. -/
def Wave.split (w : Wave) (e taken : LaneMask) : Wave :=
  if taken = 0 || taken = e then w else { w with groups := (e &&& ~~~taken) :: w.groups.tail }

/-- A conditional branch: threads that take it go to the target, the others to the next clause. -/
def Wave.branch (w : Wave) (x : Issuer) (taken : LaneMask) (t : DWord) : Wave :=
  (w.jump x.e fun l => if taken.getLsbD l then t else x.next).split x.e taken

/-- `BR` (R43, R218). -/
def execBr (p : BitVec 3) (n : BitVec 1) (j : BitVec 3) (o : BitVec 15) (s : State) : Host.Outcome State Fault Refusal :=
  issue (.br p n j o) s fun x s =>
    let taken := x.cond p n
    transfer x s (if taken = 0 then [] else [x.target o]) fun w => (w.setMask j.toNat x.e).branch x taken (x.target o)

/-- `BRK` (R218): the threads that leave are removed from mask j, with the release test of R43. -/
def execBrk (p : BitVec 3) (n : BitVec 1) (j : BitVec 3) (o : BitVec 15) (s : State) : Host.Outcome State Fault Refusal :=
  issue (.brk p n j o) s fun x s =>
    let taken := x.cond p n
    transfer x s (if taken = 0 then [] else [x.target o]) fun w =>
      ((w.setMask j.toNat (w.mask j.toNat &&& ~~~taken)).branch x taken (x.target o)).joinRelease j.toNat

/-- Push a return address (R220); `nr` is the kernel's count of registers. -/
def Wave.pushReturn (w : Wave) (nr l : Nat) (ra : DWord) : Wave :=
  let n := (w.th l).spill
  let w := (w.setSpill nr n l (loWord ra)).setSpill nr (n + 1) l (hiWord ra)
  w.modLanes (laneBit l) fun t => { t with spill := n + 2 }

/-- Push the address of the next clause in every lane of a mask. -/
def Wave.pushReturns (w : Wave) (nr : Nat) (m : LaneMask) (ra : DWord) : Wave := w.forLanes m fun l w => w.pushReturn nr l ra

/-- A lane of a mask has no room for a return address (R220). -/
def Wave.noRoom (w : Wave) (m : LaneMask) : Bool := (lanesOf m).any fun l => decide (126 < (w.th l).spill)

/-- `CALL` (R220). -/
def execCall (o : BitVec 22) (s : State) : Host.Outcome State Fault Refusal :=
  issue (.call o) s fun x s =>
    match s.lookTargets x [x.target o] with
    | (some c, s) => .raise c s
    | (none, s) =>
      if x.w.noRoom x.e then .raise Cause.access s
      else .moved (s.modAgent x.a fun w => (w.pushReturns (s.descOf x.a).nregs x.e x.next).jump x.e fun _ => x.target o)

/-- The address that a lane pops (R220). -/
def Wave.returnAddr (w : Wave) (l : Nat) : DWord :=
  let n := (w.th l).spill
  pair (w.spill.get 0 (32 * (n - 2) + l)) (w.spill.get 0 (32 * (n - 1) + l))

/-- `RET` (R217, R220). -/
def execRet (s : State) : Host.Outcome State Fault Refusal :=
  issue .ret s fun x s =>
    if x.lanes.any fun l => decide ((x.w.th l).spill < 2) then .raise Cause.access s
    else transfer x s (x.lanes.map x.w.returnAddr) fun w =>
      (w.jump x.e x.w.returnAddr).modLanes x.e fun t => { t with spill := t.spill - 2 }

/-- The entries of a target table for the indices of the lanes (R179, R219): the target of each one that is read, the address of the first
one on a missing page, whether one fails a check, and the cause of one that a peer does not give. -/
structure TableRead where
  targets : List (Option DWord) := []
  page    : Option DWord := none
  access  : Bool := false
  refused : Option Cause := none

/-- Read the entries of a target table for the indices of the lanes, in order. -/
def State.tableTargets (s : State) (x : Issuer) (tab : DWord) (is : List Nat) : TableRead × State :=
  is.foldl
    (fun (r : TableRead × State) i =>
      let va := tab + BitVec.ofNat 64 (4 + 4 * i)
      match r.2.codeWord x.a va with
      | (.ok w, s) => ({ r.1 with targets := r.1.targets ++ [some (tab + BitVec.ofInt 64 (2 * w.toInt))] }, s)
      | (.page, s) => ({ r.1 with targets := r.1.targets ++ [none], page := some (r.1.page.getD (s.codeMiss x.a va)) }, s)
      | (.access, s) => ({ r.1 with targets := r.1.targets ++ [none], access := true }, s)
      | (.refused c, s) => ({ r.1 with targets := r.1.targets ++ [none], refused := some c }, s))
    ({}, s)

/-- `JMPT` and `CALLT` (R44, R154, R179, R219, R380): the lowest cause that the entries and the targets meet is taken ahead of `PAGE`. -/
def tableJump (isCall : Bool) (a : BitVec 6) (j : BitVec 3) (o : BitVec 13) (x : Issuer) (s : State) : Effect :=
  let tab := x.target o
  if tab.toNat % 4 ≠ 0 then .raise Cause.illegal s
  else
    match s.codeWord x.a tab with
    | (.page, s) => .moved (s.parkPage x 1 x.e (s.codeMiss x.a tab) false false)
    | (.access, s) => .raise Cause.access s
    | (.refused c, s) => .moved (s.pendCause x.a c 0)
    | (.ok nw, s) =>
      let n := nw.toNat
      let idx (l : Nat) : Nat := (x.w.vreg a.toNat l).toNat
      if n = 0 || decide (1024 < n) || (x.lanes.any fun l => decide (n ≤ idx l)) then .raise Cause.target s
      else
        let (r, s) := s.tableTargets x tab (x.lanes.map idx)
        let push : LaneMask := if isCall then maskOf fun l => x.e.getLsbD l && decide (idx l ≠ n - 1) else 0
        let dest (l : Nat) : DWord := ((r.targets[x.lanes.idxOf l]?).join).getD 0
        match s.lookTargets x r.targets.reduceOption with
        | (some c, s) => .raise (if r.access then min c Cause.access else c) s
        | (none, s) =>
          if r.access || x.w.noRoom push then .raise Cause.access s
          else
            match r.refused, r.page with
            | some c, _ => .moved (s.pendCause x.a c 0)
            | none, some va => .moved (s.parkPage x 1 x.e va false false)
            | none, none => .moved (s.modAgent x.a fun w =>
                ((w.setMask j.toNat x.e).pushReturns (s.descOf x.a).nregs push x.next).jump x.e dest)

/-- `JMPT` (R44, R219). -/
def execJmpt (a : BitVec 6) (j : BitVec 3) (o : BitVec 13) (s : State) : Host.Outcome State Fault Refusal :=
  issue (.jmpt a j o) s (tableJump false a j o)

/-- `CALLT` (R44, R219). -/
def execCallt (a : BitVec 6) (j : BitVec 3) (o : BitVec 13) (s : State) : Host.Outcome State Fault Refusal :=
  issue (.callt a j o) s (tableJump true a j o)

/-- The lanes of a mask wait at an object that `arg` numbers. -/
def Wave.waitAt (w : Wave) (m : LaneMask) (kind arg : Nat) : Wave :=
  w.modLanes m fun t => { t with stat := .waiting, kind := BitVec.ofNat 6 kind, arg := arg }

/-- `JOIN` (R43). Whether the leading group keeps leading when its own arrival completes the barrier at once is open (R38): here, and at a
`BAR`, its threads run on as part of the leading group (DESIGN CHOICE, log entry 41). -/
def execJoinI (j : BitVec 3) (s : State) : Host.Outcome State Fault Refusal :=
  issue (.joinI j) s fun x s =>
    if x.w.mask j.toNat = 0 then .done s
    else .moved (s.modAgent x.a fun w => (w.waitAt x.e 1 j.toNat).joinRelease j.toNat)

/-- `EXIT` (R25, R221): on a command processor the program ends and DONE is set (R350). -/
def execExitI (s : State) : Host.Outcome State Fault Refusal :=
  issue .exitI s fun x s =>
    let s := s.modAgent x.a fun w => w.modLanes x.e fun t => { t with stat := .exited, kind := 0 }
    match x.a with
    | .wave _ => .moved s
    | .cp c => .moved (s.setCtReg c 0x009 (setBits (setBits (s.ctReg c 0x009) 1 1 0) 2 1 1))

/-- `NOP` (R221). -/
def execNop (s : State) : Host.Outcome State Fault Refusal := issue .nop s fun _ s => .done s

/-- `YIELD` (R38, R221): the group gives up the leading role. -/
def execYieldI (s : State) : Host.Outcome State Fault Refusal :=
  issue .yieldI s fun x s => .moved (s.modAgent x.a fun w => (w.stepPast x.e 4).yieldLead)

/-- `TRAP` (R221). -/
def execTrap (c : BitVec 8) (s : State) : Host.Outcome State Fault Refusal := issue (.trap c) s fun _ s => .trap Cause.trap c s

/-- `BREAK` (R221). -/
def execBreakI (c : BitVec 8) (s : State) : Host.Outcome State Fault Refusal := issue (.breakI c) s fun _ s => .trap Cause.brk c s

/-- The cause that the return point of a handler raises (R222, R384): with clause position 0 it must be a clause header. So a pending cause that was
taken at the first instruction of a clause, whose position is 0 as well, has a handler that cannot return there (DEDUCED, log entry 52). -/
def State.returnCause (s : State) (x : Issuer) : Option Cause × State :=
  let t : DWord := x.w.epc.setWidth 64
  if t.getLsbD 0 then (some Cause.clause, s)
  else
    match s.codeHead x.a t with
    | (.access, s) => (some Cause.access, s)
    | (.page, s) | (.refused _, s) => (none, s)
    | (.ok w, s) => (if x.w.ecpos ≠ 0 || isClauseHeader w then none else some Cause.clause, s)

/-- `ERET` (R222, R384): the group waits until every thread of `WV_EMASK` that has not exited stands there; then all return. A group that waited was
counted and charged as it issued (R303). -/
def execEret (s : State) : Host.Outcome State Fault Refusal :=
  issue .eret s fun x s =>
    if !x.w.tm || x.e &&& ~~~x.w.emask ≠ 0#32 then .raise Cause.illegal s
    else if x.w.emask &&& x.w.live &&& ~~~(x.e ||| x.w.waitingFor [9]) ≠ 0#32 then
      (if x.lanes.all fun l => (x.w.th l).arg = 256 then .settled (s.modAgent x.a fun w => w.waitAt x.e 9 256)
       else .moved (s.modAgent x.a fun w => w.waitAt x.e 9 256))
    else
      match s.returnCause x with
      | (some c, s) => .raise c s
      | (none, s) =>
        if x.lanes.all fun l => (x.w.th l).arg = 256 then .settled (s.modAgent x.a Wave.returnFromHandler)
        else .moved (s.modAgent x.a Wave.returnFromHandler)

end Sys2Proof.Machine
end

