-- ==== Sys2Proof/Machine/Sync.lean ====
section
/-! DEFINITION. Fences, team barriers, byte-counting barriers and semaphores (R129, R140 to R142, R236 to R245). -/

namespace Sys2Proof.Machine

open Sys2Proof

/-- `FENCE` (R129, R132, R136, R236): the wave's accesses in flight are performed; a release wider than `.core` writes the core's dirty bytes
back, one at `.core` makes every later strong write of its threads a release point; an acquire marks the core's clean bytes invalid. -/
def execFence (sv : BitVec 5) (s : State) : Host.Outcome State Fault Refusal :=
  let m := semOf sv.toNat 3
  issue (.fence sv) s fun x s =>
    performAll x s fun s =>
    let s :=
      if m.rel && m.scope = 1 then s.modAgent x.a fun w => { w with relFence := w.relFence ||| x.e }
      else if m.rel && decide (2 ≤ m.scope) then s.release (s.coreOf x.a) 2 none
      else s
    .done (if m.acq then s.acquire (s.coreOf x.a) m.scope else s)

/-- `BAR` (R140, R238). -/
def execBar (b : BitVec 4) (s : State) : Host.Outcome State Fault Refusal :=
  issue (.bar b) s fun x s =>
    match x.a with
    | .cp _ => .raise Cause.illegal s
    | .wave k =>
      performAll x s fun s =>
      .moved ((s.modAgent x.a fun w => w.waitAt x.e 2 b.toNat).modTeam k.team fun t => t.barStep b.toNat)

/-- The wait part of `BARX` (R240): a thread passes when PHASE differs from its register, and takes PHASE; the others wait and are
registered at the object. -/
def State.barWait (s : State) (x : Issuer) (o : ObjAddr) (r scope : Nat) : State :=
  let ph := s.objWord o 2
  let pass := maskOf fun l => x.e.getLsbD l && decide (x.w.vreg r l ≠ ph)
  let held := x.e &&& ~~~pass
  let s := s.modAgent x.a fun w => ((w.writeLanes pass r fun _ => ph).rewritten pass [16 + r]).waitAt held 3 r
  let s := if pass = 0 then s else s.acquire (s.coreOf x.a) scope
  if held = 0 then s
  else
    { s with
      waiters := s.waiters ++ [{ obj := o, agent := x.a, lanes := held, queue := none, value := ph, phase := true, scope := scope }] }

/-- `BARX` (R127, R141, R237, R240). -/
def execBarx (d : BitVec 6) (k sv : BitVec 5) (s : State) : Host.Outcome State Fault Refusal :=
  let m := semOf sv.toNat 3
  let arrives := sv = 0 || m.rel
  let waits := sv = 0 || m.acq
  issue (.barx d k sv) s fun x s =>
    withObject x s (BitVec.ofNat 6 (32 + k.toNat)) arrives false waits (if arrives then some m.scope else none) fun s o p =>
      let total := x.lanes.foldl (fun n l => n + x.w.vreg (2 * d.toNat) l) (0 : Word)
      let s := if arrives then s.objAdd o p.row total else s
      .done (if waits then s.barWait x o (2 * d.toNat + 1) (objScope x.a o m.scope) else s)

/-- The wait of a `BARX` that resumes, on the object's state now (R244): it has arrived before. -/
def barxAgain (d : BitVec 6) (k sv : BitVec 5) (x : Issuer) (s : State) : Effect :=
  withObject x s (BitVec.ofNat 6 (32 + k.toNat)) false false true none fun s o _ =>
    .done (s.barWait x o (2 * d.toNat + 1) (objScope x.a o (semOf sv.toNat 3).scope))

/-- The test of a `SEMWAIT`, at its issue and when it resumes (R127, R142, R243, R244): the group passes and takes VALUE, or waits at the
object. -/
def semwaitTest (d : BitVec 6) (k sv : BitVec 5) (x : Issuer) (s : State) : Effect :=
  withObject x s (BitVec.ofNat 6 (32 + k.toNat)) false false true none fun s o _ =>
    let v := x.w.vreg d.toNat x.low
    let value := s.objWord o 0
    let sc := objScope x.a o (semOf sv.toNat 3).scope
    if semPasses value v then
      .done ((s.modAgent x.a fun w => w.writeLanes x.e d.toNat fun _ => value).acquire (s.coreOf x.a) sc)
    else
      let s := s.modAgent x.a fun w => w.waitAt x.e 4 d.toNat
      .moved { s with
        waiters := s.waiters ++ [{ obj := o, agent := x.a, lanes := x.e, queue := none, value := v, phase := false, scope := sc }] }

/-- `SEMWAIT` (R142, R243). -/
def execSemwait (d : BitVec 6) (k sv : BitVec 5) (s : State) : Host.Outcome State Fault Refusal :=
  issue (.semwait d k sv) s (semwaitTest d k sv)

/-- `SEMSIG` (R142, R243). -/
def execSemsig (d : BitVec 6) (k sv : BitVec 5) (s : State) : Host.Outcome State Fault Refusal :=
  let m := semOf sv.toNat 3
  issue (.semsig d k sv) s fun x s =>
    withObject x s (BitVec.ofNat 6 (32 + k.toNat)) true false false (some m.scope) fun s o p =>
      .done (s.semAdd o p.row (x.w.vreg d.toNat x.low))

/-- A counted access to a semaphore: in flight until its completion (R243). The write of a `SEMTK` is a release after a `FENCE.rel` at `.core`
(R129). -/
def semCounted (i : Instr) (k : BitVec 5) (wr : Bool) (kind : OpKind) (x : Issuer) (s : State) : Effect :=
  withObject x s (BitVec.ofNat 6 (32 + k.toNat)) wr false false none fun s _ p =>
    let s := if wr then s.recordRelease x ⟨3, false, false, true⟩ x.e p else s
    .done (s.launchOp x i x.e kind [{ lane := x.low, place := p }])

/-- `SEMTK` (R142, R243). -/
def execSemtk (f : BitVec 1) (d : BitVec 6) (k sv : BitVec 5) (s : State) : Host.Outcome State Fault Refusal :=
  let i := Instr.semtk f d k sv
  issue i s (semCounted i k true (.semTake d.toNat))

/-- `SEMRD` (R142, R243). -/
def execSemrd (f : BitVec 1) (d : BitVec 6) (k sv : BitVec 5) (s : State) : Host.Outcome State Fault Refusal :=
  let i := Instr.semrd f d k sv
  issue i s (semCounted i k false (.semRead d.toNat))

end Sys2Proof.Machine
end

