-- ==== Sys2Proof/Machine/System.lean ====
section
/-! DEFINITION. The privileged instructions, major 0x1C (R328 to R330, R337, R345 to R349, R432). -/

namespace Sys2Proof.Machine

open Sys2Proof

/-- The `FENCE.ar` at `.dev` before and after a privileged instruction (R345). -/
def State.privFence (s : State) (a : Agent) : State :=
  ((s.forceAll a).release (s.coreOf a) 3 none).acquire (s.coreOf a) 3

/-- Run a privileged instruction between its two fences. -/
def fenced (f : Issuer → State → Effect) (x : Issuer) (s : State) : Effect :=
  match f x (s.privFence x.a) with
  | .done s fl u p q => .done (s.privFence x.a) fl u p q
  | e => e

/-- `MFSR` (R328, R330, R346). -/
def execMfsr (d : BitVec 6) (r : BitVec 16) (s : State) : Host.Outcome State Fault Refusal :=
  issue (.mfsr d r) s (fenced fun x s =>
    let (v, s) := s.readReg (s.regAgent x.a) r
    .done (s.modAgent x.a fun w => w.setK d.toNat v))

/-- `MTSR` (R328, R330, R346). -/
def execMtsr (d : BitVec 6) (r : BitVec 16) (s : State) : Host.Outcome State Fault Refusal :=
  issue (.mtsr d r) s (fenced fun x s => .done (s.writeReg (s.regAgent x.a) r (x.w.kreg d.toNat)))

/-! Targets (R345, R347). -/

/-- The context that a target address names. -/
def targetCtx (x : Issuer) (kp : DWord) : Nat := 2 * partOf x.ctx + (if kp.getLsbD 63 then 1 else 0)
/-- The address of a target. -/
def targetVa (kp : DWord) : DWord := (kp.extractLsb' 0 57).setWidth 64

/-- A target address with a nonzero reserved bit; with LVL `.cx` bits [56:0] must be 0 too. -/
def targetBad (kp : DWord) (lvl : Nat) : Bool := kp.extractLsb' 57 6 ≠ 0#6 || (lvl = 3 && targetVa kp ≠ 0)

/-- The teams of a target of LVL 1 to 3. -/
def State.targetTeams (s : State) (ctx lvl : Nat) (va : DWord) : List TeamKey :=
  s.teams.filterMap fun (k, t) =>
    match s.grid? k.grid with
    | some g =>
      let hit := match lvl with | 1 => g.teamBase t.slot = va | 2 => g.segBase = va | _ => true
      if k.grid.ctx = ctx && lvl ≠ 0 && hit then some k else none
    | none => none

/-- The live waves of a target. -/
def State.targetWaves (s : State) (ctx lvl : Nat) (va : DWord) : List WaveKey :=
  if lvl = 0 then (s.waveAt ctx va).toList
  else
    (s.targetTeams ctx lvl va).flatMap fun k =>
      let ws := ((s.team? k).map (·.waves)).getD []
      (List.range ws.length).filterMap fun i => if (ws[i]?.map (·.done)).getD true then none else some ⟨k, i⟩

/-- An instruction with a target: `ILLEGAL` for a reserved bit, `NOTGT` and no effect for a target that names nothing live (R347). System software
that acts on a gated core wakes it (R72). -/
def withTarget (d : BitVec 6) (lvl : Nat) (f : Issuer → State → List WaveKey → Effect) (x : Issuer) (s : State) : Effect :=
  let kp := x.w.kpair d.toNat
  if targetBad kp lvl then .raise Cause.illegal s
  else
    match s.targetWaves (targetCtx x kp) lvl (targetVa kp) with
    | [] => .done (s.noTarget (partOf x.ctx))
    | ws => f x (ws.foldl (fun s k => s.wakeCore (s.coreOf (.wave k))) s) ws

/-- Write a target's dirty lines back, and with INV drop its lines; a parked wave whose header is dropped lives in memory only, another one
takes register misses (R75, R347). -/
def State.flushTargets (s : State) (ws : List WaveKey) (teams : List TeamKey) (inv : Bool) : State :=
  let parked (k : WaveKey) : Bool := ((s.wave? k).map (·.isParked)).getD false
  let s := ws.foldl (fun s k => if !inv then s.flushWave k else if parked k then s.toMemory k else s.invalidateWave k) s
  teams.foldl (fun s k => s.flushS k inv) s

/-- `CTXFL` (R75, R347). -/
def execCtxfl (d : BitVec 6) (l : BitVec 2) (ix : BitVec 1) (s : State) : Host.Outcome State Fault Refusal :=
  issue (.ctxfl d l ix) s (fenced (withTarget d l.toNat fun x s ws =>
    let kp := x.w.kpair d.toNat
    .done (s.flushTargets ws (s.targetTeams (targetCtx x kp) l.toNat (targetVa kp)) (ix = 1))))

/-- Perform every access in flight of a partition: none may use an invalidated translation later (R348). -/
def State.forcePartition (s : State) (p : Nat) : State :=
  (s.ops.foldl (fun s o => if partOf (ctxOf o.agent) = p then s.performOp o.id else s) s).dropStores

/-- Drop cached translations of every cluster (R348). -/
def State.dropTlb (s : State) (f : TlbEntry → Bool) : State :=
  { s with clusters := s.clusters.map (fun (q : Nat × Cluster) => (q.1, { q.2 with tlb := q.2.tlb.filter fun e => !f e })) }

/-- `TLBI.ctx` (R348). -/
def execTlbiCtx (d : BitVec 6) (s : State) : Host.Outcome State Fault Refusal :=
  issue (.tlbiCtx d) s (fenced fun x s =>
    let kp := x.w.kpair d.toNat
    if targetBad kp 0 then .raise Cause.illegal s
    else
      let s := s.forcePartition (partOf x.ctx)
      .done (s.dropTlb fun e => e.ctx = targetCtx x kp))

/-- `TLBI.page` (R348): the L1s of the partition's cores are written back and invalidated whole, the page's lines with them (log
entry 24), and gated ones wake (R72). -/
def execTlbiPage (d : BitVec 6) (s : State) : Host.Outcome State Fault Refusal :=
  issue (.tlbiPage d) s (fenced fun x s =>
    let kp := x.w.kpair d.toNat
    if targetBad kp 0 then .raise Cause.illegal s
    else
      let p := partOf x.ctx
      let s := s.forcePartition p
      let s := (s.cores.map (·.1)).foldl (fun s c => if s.inMask p 0x001 (clusterOf c) then (s.flushL1 c).wakeCore c else s) s
      .done (s.dropTlb fun e => e.ctx = targetCtx x kp && e.vpage = (targetVa kp).toNat / 2 ^ e.bits))

/-! `PARK` and `UNPARK` (R347, R398). -/

/-- A wave stops at its instruction boundary, which it stands at between steps; a masked handler goes on to its `ERET`. -/
def Wave.park (w : Wave) : Wave :=
  if w.spk then w
  else if w.tm then { w with parkReq := true, stopReq := some (w.stopReq.getD 0) }
  else { w with spk := true }

/-- Every target of a `PARK` has stopped, and its flag counters are 0. -/
def State.parked (s : State) (ws : List WaveKey) : Bool :=
  ws.all fun k => match s.wave? k with | some w => w.done || (!w.parkReq && w.flags.isEmpty) | none => true

/-- `PARK` (R347): it waits until every target has stopped. -/
def execPark (d : BitVec 6) (l : BitVec 2) (s : State) : Host.Outcome State Fault Refusal :=
  issue (.park d l) s (fenced (withTarget d l.toNat fun x s ws =>
    let s := ws.foldl (fun s k => s.modAgent (.wave k) Wave.park) s
    if s.parked ws then .done s
    else .moved (s.modAgent x.a fun w => { w.setWaiting x.e 12 with parkWait := w.parkWait ++ [(x.e, ws)] })))

/-- The wait of threads stored at a `PARK` (R58, R347, R432): for the targets that the instruction names now. -/
def State.rebindPark (s : State) (k : WaveKey) (m : LaneMask) : State :=
  let a : Agent := .wave k
  match s.wave? k with
  | none => s
  | some w =>
    match s.codeInstr a (w.th (lowLane m)).pc with
    | (.ok bs, s) =>
      match Layout.park.unpack (ofLeBytes bs) with
      | some [d, l] =>
        let kp := w.kpair d
        let c := 2 * partOf k.team.grid.ctx + (if kp.getLsbD 63 then 1 else 0)
        s.modAgent a fun w => { w with parkWait := w.parkWait ++ [(m, s.targetWaves c l (targetVa kp))] }
      | _ => s.modAgent a fun w => w.modLanes m fun t => { t with stat := .running, kind := 0 }
    | (_, s) => s

/-- The waits of an edited wave as its instructions name them (R58, R432): the object of a `JOIN` or `BAR`, the targets of a `PARK`; every other
wait is repeated at the end of the step. -/
def State.rebindWaits (s : State) (k : WaveKey) : State :=
  let a : Agent := .wave k
  match s.wave? k with
  | none => s
  | some w =>
    let s := (lanesOf (w.waitingFor [1, 2])).foldl
      (fun s l =>
        match s.codeWord a (w.th l).pc with
        | (.ok word, s) =>
          s.modAgent a fun w => w.modLanes (laneBit l) fun t => { t with arg := if t.kind = 1#6 then bits word 10 3 else bits word 8 4 }
        | (_, s) => s)
      s
    let m := w.waitingFor [12]
    let s := s.modAgent a fun w => { w with parkWait := [] }
    let s := (((lanesOf m).map fun l => (w.th l).pc).eraseDups).foldl
      (fun s pc => s.rebindPark k (maskOf fun l => m.getLsbD l && decide ((w.th l).pc = pc))) s
    s.modAgent a fun w => { w with recheck := true, resumed := true }

/-- Bytes of a wave's block that were put off take effect (R432). -/
def Wave.applyEdits (w : Wave) (nr : Nat) : Wave := w.edits.foldl (fun w p => w.setBlockByte nr p.1 p.2) { w with edits := [] }

/-- An edited wave resumes (R432): its waits, its issue groups and its barriers are taken from the stored bytes. -/
def State.applyEdit (s : State) (k : WaveKey) : State :=
  match s.wave? k with
  | some w =>
    if w.edited then
      (s.rebindWaits k).modAgent (.wave k) fun w =>
        let w := w.modLanes (w.lanesIn .running ||| w.lanesIn .exited) fun t => { t with kind := 0 }
        { w.rebuildGroups.joinReleases with edited := false }
    else s
  | none => s

/-- Threads parked with `PAGE` and a wave parked with `CONTEXT` run again (R45, R74); the latter's issue groups are as they were. -/
def Wave.resumeFaults (w : Wave) : Wave :=
  { w.modLanes (w.lanesIn .parked) fun t => { t with stat := .running, kind := 0 } with cpk := false, groups := w.kept ++ w.groups, kept := [] }

/-- An `UNPARK` makes a wave, or threads of it, run again (R347). -/
def Wave.resumesBy (w : Wave) (flt : Bool) : Bool := (w.spk && (flt || !w.cpk)) || (flt && (w.cpk || decide (w.lanesIn .parked ≠ 0#32)))

/-- A team is asked to stop for a swap or a move, and not by a `PARK` alone (R51, R398). -/
def State.teamStops (s : State) (k : TeamKey) : Bool :=
  ((s.team? k).map (·.vacate)).getD false ||
    (match (s.part (partOf k.grid.ctx)).swap with | some w => w.outgoing == some k.grid.ctx | none => false)

/-- The request to stop that a `PARK` made ends with it (R347); one of a swap or a move stays. -/
def Wave.unrequest (w : Wave) (stops : Bool) : Wave :=
  { w with parkReq := false, stopReq := if w.parkReq && !stops then none else w.stopReq }

/-- `UNPARK` of one wave; stored bytes take effect where it resumes (R432). -/
def State.unparkWave (s : State) (flt : Bool) (k : WaveKey) : State :=
  let goes := ((s.wave? k).map (·.resumesBy flt)).getD false
  let stops := s.teamStops k.team
  let s := s.modAgent (.wave k) fun w => { w.unrequest stops with spk := false, resumed := w.resumed || (goes && w.absent.contains 0) }
  let s := if goes then s.modAgent (.wave k) (·.applyEdits (s.waveSpan k).2) else s
  let s := if flt then s.modAgent (.wave k) Wave.resumeFaults else s
  if goes then s.applyEdit k else s

/-- `UNPARK` (R347). -/
def execUnpark (d : BitVec 6) (l : BitVec 2) (xv : BitVec 1) (s : State) : Host.Outcome State Fault Refusal :=
  issue (.unpark d l xv) s (fenced (withTarget d l.toNat fun _ s ws => .done (ws.foldl (State.unparkWave · (xv = 1)) s)))

/-- `HALTC` (R349): a slot whose VALID is 0 is halted as one that holds a context (DESIGN CHOICE, log entry 75); CORE and QUARTER of its header are
free values, since no rule states them (DESIGN CHOICE, log entry 25). -/
def execHaltc (c : BitVec 1) (s : State) : Host.Outcome State Fault Refusal :=
  issue (.haltc c) s (fenced fun x s =>
    let (v, s) := s.free
    .done (s.raiseHalt (2 * partOf x.ctx + c.toNat) { code := 0, src := 2, core := bits v 0 9, quarter := bits v 9 2 }))

end Sys2Proof.Machine
end

