-- ==== Sys2Proof/Machine/Waves.lean ====
section
/-! DEFINITION. The events at a wave's issue boundary and of the quarter schedulers (R42, R49, R50, R69, R70, R73, R74, R167, R171 to R173,
R345, R358, R380). -/

namespace Sys2Proof.Machine

open Sys2Proof

/-! At the issue boundary. -/

/-- The leading group begins a clause (R173): its threads take the header, stand at the first instruction, and see the writes of the team's other
waves to `s` words (R69, R210). After an `ERET` into a clause in progress R210 speaks of the start of that clause, R69 of the clause begun after the
write, the handler's: the thread keeps the view of the latest clause that it began (DESIGN CHOICE, log entry 60). The yield hint passes the leading
role on (R38). -/
def State.beginClause (s : State) (x : Issuer) (word : Word) : State :=
  let seen : Option (Tab Word) := match x.a with | .wave k => (s.team? k.team).map (·.s) | .cp _ => none
  s.modAgent x.a fun w =>
    let w := w.modLanes x.e fun t => { t with pc := pcOf (t.pc + 4), cpos := 0, chdr := word, seen := seen.getD t.seen }
    if (ClauseHeader.ofWord word).y then w.yieldLead else w

/-- A flag of WAIT has a counter above 0 (R173). -/
def Wave.clauseHeld (w : Wave) (h : ClauseHeader) : Bool :=
  (List.range 12).any fun n => h.wait.getLsbD n && decide (w.flag n ≠ 0)

/-- `CLAUSE_START` (R38, R153, R154, R171 to R173): the group at a header, where no clause is in progress. No header stands at an odd address, to
which an odd ENTRY or HANDLER leads (DEDUCED, log entry 20). -/
def execClauseStart (s : State) : Host.Outcome State Fault Refusal :=
  event "CLAUSE_START" s fun s =>
    match s.issuer? with
    | none => none
    | some x =>
      if x.th.chdr ≠ 0 then none
      else if x.pc.getLsbD 0 then some (s.fetchCause x Cause.clause)
      else
        match s.codeHead x.a x.pc with
        | (.page, s) => some (s.parkPage x 1 x.e (s.codeMiss x.a x.pc) false false)
        | (.access, s) => some (s.fetchCause x Cause.access)
        | (.refused c, s) => some (s.pendCause x.a c 0)
        | (.ok word, s) =>
          let h := ClauseHeader.ofWord word
          if !isClauseHeader word || h.bad then some (s.fetchCause x Cause.clause)
          else if x.w.clauseHeld h then some (s.modAgent x.a fun w => w.setWaiting x.e 8)
          else some (s.beginClause x word)

/-- The lowest pending cause (R380). -/
def Wave.nextPending (w : Wave) : Option Cause := (List.range 32).find? fun c => decide (c ≠ 0) && w.pend.getLsbD c

/-- `ASYNC_CAUSE_DELIVERY` (R380, R382, R390): the lowest pending cause is taken by the leading group, at the instruction that it would
have issued next. -/
def execAsyncCauseDelivery (s : State) : Host.Outcome State Fault Refusal :=
  event "ASYNC_CAUSE_DELIVERY" s fun s =>
    match s.issuer? with
    | none => none
    | some x =>
      match x.w.nextPending with
      | none => none
      | some c =>
        let b : Word := BitVec.ofNat 32 (2 ^ c)
        let src := if x.w.pendEng.getLsbD c then 1 else 0
        let s := s.modAgent x.a fun w => { w with pend := w.pend &&& ~~~b, pendEng := w.pendEng &&& ~~~b }
        some (s.takeCause x.a x.e c 0 x.pc x.th src)

/-- `RESERVED_ENCODING` (R167, R172): the step comes here for a word that the decoder refuses. A clause header in an instruction position
raises `CLAUSE`, any other word `ILLEGAL`; the return point is never used, since neither enters a handler. -/
def execReservedEncoding (s : State) : Host.Outcome State Fault Refusal :=
  event "RESERVED_ENCODING" s fun s =>
    match s.issuer? with
    | none => none
    | some x =>
      match s.codeInstr x.a x.pc with
      | (.ok bs, s) =>
        let header := bs.length = 4 && isClauseHeader (BitVec.ofNat 32 (ofLeBytes bs))
        some (s.fetchCause x (if header then Cause.clause else Cause.illegal))
      | _ => none

/-- `PRIVILEGED_COMPLETION` (R345, R347): a `PARK` whose targets have all stopped lets its group go on. -/
def execPrivilegedCompletion (a : Agent) (s : State) : Host.Outcome State Fault Refusal :=
  event "PRIVILEGED_COMPLETION" s fun s =>
    match s.agent? a with
    | none => none
    | some w =>
      match w.parkWait.find? fun p => s.parked p.2 with
      | none => none
      | some p =>
        let m := p.1 &&& w.waitingAt 12 0
        some ((s.putAgent a { w.modLanes m Thread.resumeAfter with parkWait := w.parkWait.erase p }).privFence a)

/-! The quarter schedulers. -/

/-- The context of a wave runs and has not halted, and its team is on its core. -/
def State.onCore (s : State) (k : WaveKey) : Bool :=
  s.running k.team.grid.ctx && !s.halted k.team.grid.ctx && (((s.team? k.team).map fun t => !t.saved).getD false)

/-- A wave has a running group and is not parked (R72, R358). -/
def Wave.busy (w : Wave) : Bool := !w.done && w.lead ≠ 0#32 && !w.spk && !w.cpk

/-- A wave that could issue if it were active (R358): it waits for no line that it missed, either. -/
def Wave.couldRun (w : Wave) : Bool := w.busy && w.missing.all fun l => !w.absent.contains l

/-- A memory-only wave whose header is to be read again: it resumed while the register cache did not hold it (R432). -/
def Wave.unread (w : Wave) : Bool := !w.done && !w.spk && !w.cpk && w.resumed && w.absent.contains 0

/-- The waves of the running context in a quarter of a core, with their teams, in a class. The image of a swapped-out context lies in the
harbour rows, and its waves take no place (R49, R341). -/
def State.quarterWaves (s : State) (core q : Nat) (c : WaveClass) : List (WaveKey × Team × Wave) :=
  s.teams.flatMap fun (tk, t) =>
    if t.core ≠ core || t.saved || !s.running tk.grid.ctx then []
    else
      (List.range t.waves.length).filterMap fun i =>
        match t.waves[i]? with
        | some w => if w.quarter = q && decide (w.cls = c) && !w.done then some (⟨tk, i⟩, t, w) else none
        | none => none

/-- The rank of a wave (R358): epoch, team priority with 15 highest, placement, wave number. -/
def State.rankOf (s : State) (k : WaveKey) (t : Team) : List Nat :=
  [t.placedAt / 1024, 15 - ((s.grid? k.team.grid).map (·.prio)).getD 0, t.placedNo, k.idx]

/-- A rank comes strictly before another. -/
def rankBefore : List Nat → List Nat → Bool
  | a :: as, b :: bs => decide (a < b) || (decide (a = b) && rankBefore as bs)
  | _, _ => false

/-- No wave of a list has a rank strictly before that of wave `k`. -/
def State.firstByRank (s : State) (k : WaveKey) (t : Team) (ws : List (WaveKey × Team × Wave)) : Bool :=
  ws.all fun (k', t', _) => !rankBefore (s.rankOf k' t') (s.rankOf k t)

/-- The lowest free place of a set. -/
def freeSlot (ws : List (WaveKey × Team × Wave)) (n : Nat) : Nat :=
  ((List.range n).find? fun i => ws.all fun (_, _, w) => decide (w.slot ≠ i)).getD 0

/-- The lagoon bytes that the running context has on a core, those held for exited members included (R36, R355); those of another lie in its image
(R341). -/
def State.lagoonOn (s : State) (core : Nat) : Nat :=
  (s.teams.foldl (fun n (k, t) =>
      if t.core = core && !t.saved && s.running k.grid.ctx then n + ((s.grid? k.grid).map (·.desc.lagoon)).getD 0 else n) 0) +
    s.heldLag.foldl (fun n (k, h) => if h.core = core && s.running k.grid.ctx then n + h.len else n) 0

/-- The register budget of a quarter (R70), by the division made at the latest team launch. -/
def State.regBudget (s : State) (core : Nat) : Nat := (0x180000 - (s.core core).cut - 0x60000) / 4

/-- The uncompressed register bytes of a set of waves. -/
def State.regBytes (s : State) (ws : List (WaveKey × Team × Wave)) : Nat :=
  ws.foldl (fun n (k, _, _) => n + 128 * (s.descOf (.wave k)).nregs) 0

/-- The register lines that the active and pending waves of a quarter hold, in bytes. -/
def State.heldBytes (s : State) (core q : Nat) : Nat :=
  (s.quarterWaves core q .active ++ s.quarterWaves core q .pending).foldl
    (fun n (k, _, w) => n + 128 * (w.heldRegs (s.descOf (.wave k)).nregs).length) 0

/-- Pending waves give up register lines as the register budget requires (R358): first wave `k`, then the others in turn, an order that the spec
leaves open (DESIGN CHOICE, log entry 10). -/
def State.fitRegs (s : State) (k : WaveKey) : State :=
  match s.team? k.team, s.wave? k with
  | some t, some v =>
    let pen := (s.quarterWaves t.core v.quarter .pending).map (·.1)
    ((if pen.contains k then [k] else []) ++ pen.filter (· ≠ k)).foldl
      (fun s k => if s.regBudget t.core < s.heldBytes t.core v.quarter then s.dropRegs k else s) s
  | _, _ => s

/-- The fclk in progress is stretched (R309). -/
def Cluster.stretched (c : Cluster) : Bool := decide (c.stretch ≠ 0) && decide (c.stretchAt ≤ c.cyc)

/-- The fclk in progress is one of the 64 of halved issue that follow the last stretched lclk, or was until a trip in it (R309). -/
def Cluster.halfIssue (c : Cluster) : Bool := (c.stretch = 0 && decide (2 ≤ c.halved)) || c.halved = 66

/-- The fclk count of a core's cluster. -/
def State.fclk (s : State) (core : Nat) : Nat := (s.cluster (clusterOf core)).cyc

/-- `WAVE_ACTIVATION` (R49, R50, R70, R74, R358): the first ready pending wave in promotion order enters an active set that has room for
it; its absent header and register lines are filled, or it parks with `CONTEXT`. -/
def execWaveActivation (w : WaveKey) (s : State) : Host.Outcome State Fault Refusal :=
  event "WAVE_ACTIVATION" s fun s =>
    match s.team? w.team, s.wave? w with
    | some t, some v =>
      let act := s.quarterWaves t.core v.quarter .active
      let pen := (s.quarterWaves t.core v.quarter .pending).filter fun (_, _, x) => x.couldRun
      let visited := pen.any fun (_, _, x) => x.slot = s.fclk t.core / 128 % 24
      let first := if visited then decide (v.slot = s.fclk t.core / 128 % 24) else s.firstByRank w t pen
      if !s.onCore w || v.cls ≠ .pending || !v.couldRun || !first || decide (8 ≤ act.length) ||
          decide (s.regBudget t.core < s.regBytes act + 128 * (s.descOf (.wave w)).nregs) then none
      else
        match s.fillLines w (List.range (16 + (s.waveSpan w).2)) with
        | (false, s) => some s
        | (true, s) => some ((s.modAgent (.wave w) fun x => { x with cls := .active, slot := freeSlot act 8, missing := [] }).applyEdit w |>.fitRegs w)
    | _, _ => none

/-- `WAVE_PENDING_ENTRY` (R50, R74, R358): the first ready memory-only wave by rank enters a pending set that has a free entry, and its
header lines are filled. -/
def execWavePendingEntry (w : WaveKey) (s : State) : Host.Outcome State Fault Refusal :=
  event "WAVE_PENDING_ENTRY" s fun s =>
    match s.team? w.team, s.wave? w with
    | some t, some v =>
      let pen := s.quarterWaves t.core v.quarter .pending
      let mem := (s.quarterWaves t.core v.quarter .memory).filter fun (_, _, x) => x.couldRun || x.unread
      if !s.onCore w || v.cls ≠ .memory || !(v.couldRun || v.unread) || !s.firstByRank w t mem || decide (24 ≤ pen.length) then none
      else
        match s.fillS w.team t.core (s.level (.wave w)) with
        | (.error (c, va), s) =>
          some (s.failFill w c va)
        | (.ok _, s) =>
          match s.fillLines w (List.range 16) with
          | (false, s) => some s
          | (true, s) => some ((s.modAgent (.wave w) fun x => { x with cls := .pending, slot := freeSlot pen 24 }).applyEdit w)
    | _, _ => none

/-- A wave enters the pending set, and its register lines are written back as the register budget requires (R358): into a full set, the pending wave
that has waited longest goes to memory only, or, if none waits, the one of lowest rank. -/
def State.toPending (s : State) (k : WaveKey) : State :=
  match s.team? k.team, s.wave? k with
  | some t, some v =>
    let pen := s.quarterWaves t.core v.quarter .pending
    let waits := pen.filter fun (_, _, x) => decide (x.since ≠ 0)
    let out : Option WaveKey :=
      if pen.length < 24 then none
      else if waits.isEmpty then
        (pen.find? fun (k', t', _) => pen.all fun (k'', t'', _) => !rankBefore (s.rankOf k' t') (s.rankOf k'' t'')).map (·.1)
      else (waits.find? fun (_, _, x) => waits.all fun (_, _, y) => decide (x.since ≤ y.since)).map (·.1)
    let s := match out with | some k' => s.toMemory k' | none => s
    let pen := s.quarterWaves t.core v.quarter .pending
    (s.modAgent (.wave k) fun x => { x with cls := .pending, slot := freeSlot pen 24 }).fitRegs k
  | _, _ => s

/-- The next instruction of a wave's leading group is looked up for a register miss (R73): the lines that it names. -/
noncomputable def State.lookAhead (s : State) (k : WaveKey) : State :=
  match ({ s with issuer := some (.wave k) } : State).issuer? with
  | none => s
  | some x =>
    let lines := if x.th.chdr = 0 then [] else
      match (s.fetch x).1 with
      | .instr i => neededLines i x.w x.e (s.descOf x.a).nregs
      | _ => []
    s.modAgent (.wave k) fun w => { w with needs := lines }

/-- `REGISTER_MISS` (R50, R73, R358): an active wave of which the next instruction names an absent line leaves the active set, keeps its place in
its clause, and waits for that line. -/
def execRegisterMiss (w : WaveKey) (s : State) : Host.Outcome State Fault Refusal :=
  event "REGISTER_MISS" s fun s =>
    match s.wave? w with
    | some v => if s.onCore w && v.cls = .active && v.couldRun && v.needs.any v.absent.contains then
        some ((s.toPending w).modAgent (.wave w) fun x => { x with missing := v.needs.filter x.absent.contains, needs := [] })
      else none
    | none => none

/-- `REGISTER_LINE_FILL` (R73, R74): one absent line arrives, or its page is missing and the wave parks with `CONTEXT`. -/
def execRegisterLineFill (w : WaveKey) (line : Nat) (s : State) : Host.Outcome State Fault Refusal :=
  event "REGISTER_LINE_FILL" s fun s =>
    match s.wave? w with
    | some v => if s.onCore w && v.cls = .pending && !v.cpk && v.absent.contains line then some (s.fillLines w [line]).2 else none
    | none => none

/-- A wave without a running group waits for completion flags only (R50): at a clause header, or for a counter that stands at 63. -/
def Wave.flagWait (w : Wave) : Bool :=
  w.lead = 0#32 && w.waitingFor [8, 11] ≠ 0#32 && w.lanesIn .waiting = w.waitingFor [8, 11]

/-- The waits that exchange an active wave as they begin, with a group running or not (R50, R345): at a team barrier, an object, a counter, a
rendezvous latch, a tile and a privileged instruction. -/
def exchangeKinds : List Nat := [2, 3, 4, 5, 7, 10, 12]

/-- `FLAG_WAIT_DEMOTION` (R50): a completion-flag wait longer than 64 fclk moves the wave to the pending set, once for the wait. -/
def execFlagWaitDemotion (w : WaveKey) (s : State) : Host.Outcome State Fault Refusal :=
  event "FLAG_WAIT_DEMOTION" s fun s =>
    match s.wave? w, s.team? w.team with
    | some v, some t =>
      if s.onCore w && v.cls = .active && v.waitingFor [8, 11] ≠ 0#32 && v.flagSince ≠ 0 &&
          decide (64 < s.fclk t.core + 1 - v.flagSince) then
        some ((s.toPending w).modAgent (.wave w) fun x => { x with flagSince := 0 })
      else none
    | _, _ => none

/-- A wave notes what waits: since when it has no running group, and since when a group waits for a flag. -/
def Wave.noteWait (w : Wave) (now : Nat) : Wave :=
  { w with
    since := if w.lead ≠ 0#32 || w.done then 0 else if w.since = 0 then now + 1 else w.since
    flagSince :=
      if w.waitingFor [8, 11] = 0#32 then 0
      else if w.waitingFor [8, 11] &&& ~~~w.waited ≠ 0#32 && w.flagSince = 0 then now + 1 else w.flagSince
    waited := w.lanesIn .waiting }

/-- Waves that stop waiting, or begin to, note the time; an active wave of which a group begins a wait of R50, or which has no running group
and waits for more than flags, leaves the active set (R50). R50 names no wave that is parked whole or waits at an `ERET` or for its children, and
sets no time to a wait for a limit that is no flag: such a wave leaves it too (DESIGN CHOICE, log entry 58). -/
def State.noteWaits (s : State) : State :=
  let pick (f : Wave → Bool) : List WaveKey := s.teams.flatMap fun (tk, t) =>
    (List.range t.waves.length).filterMap fun i =>
      match t.waves[i]? with
      | some w => if !t.saved && !w.done && f w then some ⟨tk, i⟩ else none
      | none => none
  let missed := pick fun w => decide (w.cls = .pending) && w.slot = 24
  let waits := pick fun w => decide (w.cls = .active) &&
    ((w.lead = 0#32 && !w.flagWait) || w.waitingFor exchangeKinds &&& ~~~w.waited ≠ 0#32)
  let s : State := { s with teams := s.teams.map (fun (p : TeamKey × Team) =>
    (p.1, { p.2 with waves := p.2.waves.map (·.noteWait (s.fclk p.2.core)) })) }
  let s := missed.foldl (fun s k => s.modAgent (.wave k) fun w => { w with cls := .active }) s
  (missed ++ waits).foldl State.toPending s

/-- Cores of which a wave of a running context has a running group are busy now (R415). -/
def State.noteBusy (s : State) : State :=
  s.teams.foldl
    (fun s (k, t) =>
      if !t.saved && s.running k.grid.ctx && t.waves.any Wave.busy then
        let c := s.core t.core
        s.putCore t.core { c with busyAt := s.timeRef }
      else s)
    s

/-- `WAVE_HANG` (R42, R402): the count of 2^20 is reported and begins again; the wave goes on. -/
def execWaveHang (w : WaveKey) (s : State) : Host.Outcome State Fault Refusal :=
  event "WAVE_HANG" s fun s =>
    match s.wave? w with
    | some v =>
      if v.hang < 0x100000 then none
      else
        let c := w.team.grid.ctx
        some ((s.putWave w { v with hang := 0 }).raiseEvent (partOf c) 0x01 (c % 2)
          (leBytes 8 (s.whoBase (.wave w)).toNat ++ leBytes 4 w.team.grid.gid ++ [BitVec.ofNat 8 w.idx]))
    | none => none

end Sys2Proof.Machine
end

