-- ==== Sys2Proof/Machine/Completions.lean ====
section
/-! DEFINITION. The events that end operations in flight, and those of the collective engine and the command queues (R111 to R118, R132,
R224, R241, R249, R250, R256, R262, R270, R274, R281, R283, R293, R374). -/

namespace Sys2Proof.Machine

open Sys2Proof

/-! Lane accesses. -/

/-- `LOAD_COMPLETION` (R175, R224). -/
def execLoadCompletion (op : Nat) (s : State) : Host.Outcome State Fault Refusal :=
  event "LOAD_COMPLETION" s fun s => s.completeLoad op

/-- `RELEASE_PROMOTION` (R132): the oldest recorded release of a core is performed at its home point. -/
def execReleasePromotion (core : Nat) (s : State) : Host.Outcome State Fault Refusal :=
  if 320 ≤ core then .fault (.noSuchUnit "RELEASE_PROMOTION")
  else event "RELEASE_PROMOTION" s fun s => if (s.core core).l1.recs.isEmpty then none else some (s.promote core 0)

/-! Transfers. -/

/-- The ENG code of a transfer's fault record (R375). -/
def Op.engCode (o : Op) : Nat :=
  match o.kind with
  | .zld .. | .zst .. => 1
  | .zepi _ => 2
  | _ => if o.queue.isSome then 5 else 0

/-- A missing page holds a transfer and is reported (R250, R374). -/
def State.holdTransfer (s : State) (o : Op) (va : DWord) (wr : Bool) : State :=
  (s.modOp o.id fun o => { o with held := some va }).pageFault (ctxOf o.agent) va 0 3 wr false o.core o.engCode 0

/-- What becomes of a transfer that cannot go on. -/
def transferEnd (o : Op) (page : Bool) : Mv → Option State
  | .page va wr s' => if page then some (s'.holdTransfer o va wr) else none
  | .stop c s' => if page then none else some (s'.endTransfer ((s'.op? o.id).getD o) (some c))
  | _ => none

/-- A transfer in flight. -/
def State.transfer? (s : State) (id : Nat) : Option Op := (s.op? id).filter fun o => o.kind.transfer

/-- `ENGINE_PAGE_FAULT` (R250, R374): the next byte of a transfer, or its barrier object, lies on a missing page. -/
def execEnginePageFault (op : Nat) (s : State) : Host.Outcome State Fault Refusal :=
  event "ENGINE_PAGE_FAULT" s fun s =>
    match s.transfer? op with
    | none => none
    | some o => transferEnd o true (s.transferRest op).1

/-- `ENGINE_TRANSFER_STOP` (R250, R391): a transfer meets a refused access. -/
def execEngineTransferStop (op : Nat) (s : State) : Host.Outcome State Fault Refusal :=
  event "ENGINE_TRANSFER_STOP" s fun s =>
    match s.transfer? op with
    | none => none
    | some o => transferEnd o false (s.transferRest op).1

/-- A copy fills a tile. -/
def OpKind.fills : OpKind → Bool
  | .copy c => c.tile.isSome && c.fill
  | _ => false

/-- `ENGINE_TRANSFER_COMPLETION` (R249, R254, R266, R267): all bytes of a copy, a drain or an accumulator transfer are home. -/
def execEngineTransferCompletion (op : Nat) (s : State) : Host.Outcome State Fault Refusal :=
  event "ENGINE_TRANSFER_COMPLETION" s fun s =>
    match s.transfer? op with
    | none => none
    | some o => if o.kind.fills then none else s.completeTransfer op

/-- A transfer's direction on the vertical bus. -/
def OpKind.direction : OpKind → Option Bool
  | .rowcon .. => some false
  | .rowput .. => some true
  | _ => none

/-- The row slot of an operation. -/
def OpKind.rowSlot : OpKind → Option Nat
  | .rowact w _ | .rowcon w _ _ | .rowput w _ _ => some w
  | _ => none

/-- Row transfers are granted in issue order (R117, R118): the `ROWCON` of one core, and likewise its `ROWPUT`. The operations of one slot end in
issue order across both directions, which the spec leaves open (DESIGN CHOICE, log entry 44). -/
def State.rowTurn (s : State) (o : Op) : Bool :=
  !(s.ops.any fun p => decide (p.id < o.id) && p.kind.rowSlot.isSome &&
    ((p.core = o.core && p.kind.direction.isSome && p.kind.direction == o.kind.direction) ||
      (p.teamKey == o.teamKey && p.kind.rowSlot == o.kind.rowSlot)))

/-- `TILE_FILL_COMPLETION` (R111, R113, R139, R270): the last byte of a `BCOPYT` or of a `ROWCON` is written. -/
def execTileFillCompletion (op : Nat) (s : State) : Host.Outcome State Fault Refusal :=
  event "TILE_FILL_COMPLETION" s fun s =>
    match s.op? op with
    | none => none
    | some o =>
      match o.kind with
      | .copy _ => if o.kind.fills then s.completeTransfer op else none
      | .rowcon w _ base => if s.rowTurn o && !s.halted (ctxOf o.agent) then some ((s.conRow o w base).endTransfer o none) else none
      | _ => none

/-- `TILE_DRAIN_COMPLETION` (R111, R112): the last byte of a drain is read, and the tile is `READY` again. -/
def execTileDrainCompletion (op : Nat) (s : State) : Host.Outcome State Fault Refusal :=
  event "TILE_DRAIN_COMPLETION" s fun s =>
    match s.transfer? op with
    | none => none
    | some o =>
      let s := s.transferMove op o.kind.fuel
      match s.op? op with
      | none => none
      | some o =>
        match o.kind, o.teamKey with
        | .copy c, some k =>
          match c.tile with
          | some m =>
            if c.fill || decide (c.done < c.len) then none
            else some ((s.tileReady k m true).modCopy op fun c => { c with tile := none })
          | none => none
        | _, _ => none

/-- `BARRIER_ADDITION` (R241, R256): n bytes that a copy has moved are added at its barrier object. -/
def execBarrierAddition (op n : Nat) (s : State) : Host.Outcome State Fault Refusal :=
  event "BARRIER_ADDITION" s fun s =>
    match s.op? op with
    | none => none
    | some o =>
      match o.kind with
      | .copy c =>
        if n = 0 || o.held.isSome || decide (c.done - c.refused - c.added < n) then none
        else
          match s.copyAdd o c n with
          | .moved s => some s
          | _ => none
      | _ => none

/-- `MMA_COMPLETION` (R91 to R95, R98, R262 to R266): the matrix engine finishes an operation. -/
def execMmaCompletion (op : Nat) (s : State) : Host.Outcome State Fault Refusal :=
  event "MMA_COMPLETION" s fun s => (s.op? op).bind s.performMatrix

/-! Rows. -/

/-- `ROW_SENSED` (R116, R119, R145): the row is sensed, and its slot opens with a lease of 2,048 lclk. -/
def execRowSensed (op : Nat) (s : State) : Host.Outcome State Fault Refusal :=
  event "ROW_SENSED" s fun s =>
    match s.op? op with
    | some o =>
      if s.halted (ctxOf o.agent) then none else (match o.kind with | .rowact w pa => some (s.senseRow o w pa) | _ => none)
    | none => none

/-- `LEASE_EXPIRY` (R116): 2,048 lclk after the slot opened, once no transfer of it is in flight. -/
def execLeaseExpiry (t : TeamKey) (slot : Nat) (s : State) : Host.Outcome State Fault Refusal :=
  event "LEASE_EXPIRY" s fun s =>
    match s.team? t with
    | some x =>
      let r := x.slotAt slot
      if r.st = 2 && r.lease = 0 && !s.slotBusy t slot && !s.halted t.grid.ctx then some (s.putTeam t (x.putSlot slot r.expire).wakeLimits) else none
    | none => none

/-- `ROWPUT_COMPLETION` (R118, R146): the tile's bytes are in the DRAM array. -/
def execRowputCompletion (op : Nat) (s : State) : Host.Outcome State Fault Refusal :=
  event "ROWPUT_COMPLETION" s fun s =>
    match s.op? op with
    | some o =>
      (match o.kind with
       | .rowput w _ base =>
         if s.rowTurn o && !s.halted (ctxOf o.agent) then
           some ((s.putRow o w base).endTransfer o (if s.rowRefused o w then some Cause.barstore else none))
         else none
       | _ => none)
    | none => none

/-! Launches, collectives and command queues. -/

/-- `LAUNCH_COMPLETION` (R32, R281, R353). -/
def execLaunchCompletion (op : Nat) (s : State) : Host.Outcome State Fault Refusal :=
  event "LAUNCH_COMPLETION" s fun s => s.completeLaunch op

/-- `ENTRY_SOURCE_READ` (R147, R274, R288): the source bytes of a fired entry are read and sent, and SCNT rises. -/
def execEntrySourceRead (ctx qp n : Nat) (s : State) : Host.Outcome State Fault Refusal :=
  if 16 ≤ ctx then .fault (.noSuchUnit "ENTRY_SOURCE_READ") else event "ENTRY_SOURCE_READ" s fun s => s.entrySource ctx qp n

/-- `QUEUE_LAUNCH_START` (R150, R279, R280, R283, R353). -/
def execQueueLaunchStart (ctx q : Nat) (s : State) : Host.Outcome State Fault Refusal :=
  if 16 ≤ ctx then .fault (.noSuchUnit "QUEUE_LAUNCH_START") else event "QUEUE_LAUNCH_START" s fun s => s.startLaunch ctx q

/-- `QUEUE_COPY_START` (R283). -/
def execQueueCopyStart (ctx q : Nat) (s : State) : Host.Outcome State Fault Refusal :=
  if 16 ≤ ctx then .fault (.noSuchUnit "QUEUE_COPY_START") else event "QUEUE_COPY_START" s fun s => s.startCopy ctx q

/-- `QUEUE_SEMWAIT_START` (R122, R142, R283). -/
def execQueueSemwaitStart (ctx q : Nat) (s : State) : Host.Outcome State Fault Refusal :=
  if 16 ≤ ctx then .fault (.noSuchUnit "QUEUE_SEMWAIT_START") else event "QUEUE_SEMWAIT_START" s fun s => s.startSemwait ctx q

/-- `QUEUE_SEMSIG_START` (R142, R283). -/
def execQueueSemsigStart (ctx q : Nat) (s : State) : Host.Outcome State Fault Refusal :=
  if 16 ≤ ctx then .fault (.noSuchUnit "QUEUE_SEMSIG_START") else event "QUEUE_SEMSIG_START" s fun s => s.startSemsig ctx q

/-- `QUEUE_IRQ_START` (R152, R283, R418). -/
def execQueueIrqStart (ctx q : Nat) (s : State) : Host.Outcome State Fault Refusal :=
  if 16 ≤ ctx then .fault (.noSuchUnit "QUEUE_IRQ_START") else event "QUEUE_IRQ_START" s fun s => s.startIrq ctx q

end Sys2Proof.Machine
end

