-- ==== Sys2Proof/Machine/Convert.lean ====
section
/-! DEFINITION. Conversions (R201 to R205): major 0x08. The rows of one
family that differ only in a condition, an operation or a type issue as the family's first row: their encoding causes, registers, size and
price are the same (R158, R170, R302). -/

namespace Sys2Proof.Machine

open Sys2Proof

/-- `F2I.i8` (R202). -/
def execF2iI8 (d a r : BitVec 6) (s : State) : Host.Outcome State Fault Refusal :=
  issue (.f2iI8 d a r) s (laneOp d.toNat fun v => f2i .i8 (Rnd.ofCode r.toNat) (v a.toNat))

/-- `F2I.i16` (R202). -/
def execF2iI16 (d a r : BitVec 6) (s : State) : Host.Outcome State Fault Refusal :=
  issue (.f2iI8 d a r) s (laneOp d.toNat fun v => f2i .i16 (Rnd.ofCode r.toNat) (v a.toNat))

/-- `F2I.i32` (R202). -/
def execF2iI32 (d a r : BitVec 6) (s : State) : Host.Outcome State Fault Refusal :=
  issue (.f2iI8 d a r) s (laneOp d.toNat fun v => f2i .i32 (Rnd.ofCode r.toNat) (v a.toNat))

/-- `F2I.n8` (R202). -/
def execF2iN8 (d a r : BitVec 6) (s : State) : Host.Outcome State Fault Refusal :=
  issue (.f2iI8 d a r) s (laneOp d.toNat fun v => f2i .n8 (Rnd.ofCode r.toNat) (v a.toNat))

/-- `F2I.n16` (R202). -/
def execF2iN16 (d a r : BitVec 6) (s : State) : Host.Outcome State Fault Refusal :=
  issue (.f2iI8 d a r) s (laneOp d.toNat fun v => f2i .n16 (Rnd.ofCode r.toNat) (v a.toNat))

/-- `F2I.n32` (R202). -/
def execF2iN32 (d a r : BitVec 6) (s : State) : Host.Outcome State Fault Refusal :=
  issue (.f2iI8 d a r) s (laneOp d.toNat fun v => f2i .n32 (Rnd.ofCode r.toNat) (v a.toNat))

/-- `I2F.i8` (R202). -/
def execI2fI8 (d a r : BitVec 6) (s : State) : Host.Outcome State Fault Refusal :=
  issue (.i2fI8 d a r) s (laneOp d.toNat fun v => i2f .i8 (Rnd.ofCode r.toNat) (v a.toNat))

/-- `I2F.i16` (R202). -/
def execI2fI16 (d a r : BitVec 6) (s : State) : Host.Outcome State Fault Refusal :=
  issue (.i2fI8 d a r) s (laneOp d.toNat fun v => i2f .i16 (Rnd.ofCode r.toNat) (v a.toNat))

/-- `I2F.i32` (R202). -/
def execI2fI32 (d a r : BitVec 6) (s : State) : Host.Outcome State Fault Refusal :=
  issue (.i2fI8 d a r) s (laneOp d.toNat fun v => i2f .i32 (Rnd.ofCode r.toNat) (v a.toNat))

/-- `I2F.n8` (R202). -/
def execI2fN8 (d a r : BitVec 6) (s : State) : Host.Outcome State Fault Refusal :=
  issue (.i2fI8 d a r) s (laneOp d.toNat fun v => i2f .n8 (Rnd.ofCode r.toNat) (v a.toNat))

/-- `I2F.n16` (R202). -/
def execI2fN16 (d a r : BitVec 6) (s : State) : Host.Outcome State Fault Refusal :=
  issue (.i2fI8 d a r) s (laneOp d.toNat fun v => i2f .n16 (Rnd.ofCode r.toNat) (v a.toNat))

/-- `I2F.n32` (R202). -/
def execI2fN32 (d a r : BitVec 6) (s : State) : Host.Outcome State Fault Refusal :=
  issue (.i2fI8 d a r) s (laneOp d.toNat fun v => i2f .n32 (Rnd.ofCode r.toNat) (v a.toNat))

/-- `I2I.i8` and `I2I.sat.i8` (R203): y is the source type, x the saturation bit. -/
def execI2iI8 (d a y : BitVec 6) (x : BitVec 1) (s : State) : Host.Outcome State Fault Refusal :=
  issue (.i2iI8 d a y x) s (laneOp d.toNat fun v => i2i .i8 (ITy.ofIdx y.toNat) (x = 1) (v a.toNat))

/-- `I2I.i16` and `I2I.sat.i16` (R203): y is the source type, x the saturation bit. -/
def execI2iI16 (d a y : BitVec 6) (x : BitVec 1) (s : State) : Host.Outcome State Fault Refusal :=
  issue (.i2iI16 d a y x) s (laneOp d.toNat fun v => i2i .i16 (ITy.ofIdx y.toNat) (x = 1) (v a.toNat))

/-- `I2I.i32` and `I2I.sat.i32` (R203): y is the source type, x the saturation bit. -/
def execI2iI32 (d a y : BitVec 6) (x : BitVec 1) (s : State) : Host.Outcome State Fault Refusal :=
  issue (.i2iI32 d a y x) s (laneOp d.toNat fun v => i2i .i32 (ITy.ofIdx y.toNat) (x = 1) (v a.toNat))

/-- `I2I.n8` and `I2I.sat.n8` (R203): y is the source type, x the saturation bit. -/
def execI2iN8 (d a y : BitVec 6) (x : BitVec 1) (s : State) : Host.Outcome State Fault Refusal :=
  issue (.i2iN8 d a y x) s (laneOp d.toNat fun v => i2i .n8 (ITy.ofIdx y.toNat) (x = 1) (v a.toNat))

/-- `I2I.n16` and `I2I.sat.n16` (R203): y is the source type, x the saturation bit. -/
def execI2iN16 (d a y : BitVec 6) (x : BitVec 1) (s : State) : Host.Outcome State Fault Refusal :=
  issue (.i2iN16 d a y x) s (laneOp d.toNat fun v => i2i .n16 (ITy.ofIdx y.toNat) (x = 1) (v a.toNat))

/-- `I2I.n32` and `I2I.sat.n32` (R203): y is the source type, x the saturation bit. -/
def execI2iN32 (d a y : BitVec 6) (x : BitVec 1) (s : State) : Host.Outcome State Fault Refusal :=
  issue (.i2iN32 d a y x) s (laneOp d.toNat fun v => i2i .n32 (ITy.ofIdx y.toNat) (x = 1) (v a.toNat))

/-- `FCVT` to bf16 (R204). -/
def execFcvtBf16 (d a r : BitVec 6) (s : State) : Host.Outcome State Fault Refusal :=
  issue (.fcvtBf16 d a r) s (laneOp d.toNat fun v => narrowW bf16 (Rnd.ofCode r.toNat) (v a.toNat))

/-- `FCVT` to fp16 (R204). -/
def execFcvtF16 (d a r : BitVec 6) (s : State) : Host.Outcome State Fault Refusal :=
  issue (.fcvtF16 d a r) s (laneOp d.toNat fun v => narrowW fp16 (Rnd.ofCode r.toNat) (v a.toNat))

/-- `FCVT` to e4m3 (R204). -/
def execFcvtE4m3 (d a r : BitVec 6) (s : State) : Host.Outcome State Fault Refusal :=
  issue (.fcvtE4m3 d a r) s (laneOp d.toNat fun v => narrowW e4m3 (Rnd.ofCode r.toNat) (v a.toNat))

/-- `FCVT` to e5m2 (R204). -/
def execFcvtE5m2 (d a r : BitVec 6) (s : State) : Host.Outcome State Fault Refusal :=
  issue (.fcvtE5m2 d a r) s (laneOp d.toNat fun v => narrowW e5m2 (Rnd.ofCode r.toNat) (v a.toNat))

/-- `FCVT` to e2m1 (R204). -/
def execFcvtE2m1 (d a r : BitVec 6) (s : State) : Host.Outcome State Fault Refusal :=
  issue (.fcvtE2m1 d a r) s (laneOp d.toNat fun v => narrowW e2m1 (Rnd.ofCode r.toNat) (v a.toNat))

/-- `FCVT.sr` to bf16 (R204): b holds the random word. -/
def execFcvtSrBf16 (d a b : BitVec 6) (s : State) : Host.Outcome State Fault Refusal :=
  issue (.fcvtSrBf16 d a b) s (laneOp d.toNat fun v => narrowW bf16 (srFrom32 (v a.toNat) (v b.toNat)) (v a.toNat))

/-- `FCVT.sr` to fp16 (R204): b holds the random word. -/
def execFcvtSrF16 (d a b : BitVec 6) (s : State) : Host.Outcome State Fault Refusal :=
  issue (.fcvtSrF16 d a b) s (laneOp d.toNat fun v => narrowW fp16 (srFrom32 (v a.toNat) (v b.toNat)) (v a.toNat))

/-- `FCVT.sr` to e4m3 (R204): b holds the random word. -/
def execFcvtSrE4m3 (d a b : BitVec 6) (s : State) : Host.Outcome State Fault Refusal :=
  issue (.fcvtSrE4m3 d a b) s (laneOp d.toNat fun v => narrowW e4m3 (srFrom32 (v a.toNat) (v b.toNat)) (v a.toNat))

/-- `FCVT.sr` to e5m2 (R204): b holds the random word. -/
def execFcvtSrE5m2 (d a b : BitVec 6) (s : State) : Host.Outcome State Fault Refusal :=
  issue (.fcvtSrE5m2 d a b) s (laneOp d.toNat fun v => narrowW e5m2 (srFrom32 (v a.toNat) (v b.toNat)) (v a.toNat))

/-- `FCVT.sr` to e2m1 (R204): b holds the random word. -/
def execFcvtSrE2m1 (d a b : BitVec 6) (s : State) : Host.Outcome State Fault Refusal :=
  issue (.fcvtSrE2m1 d a b) s (laneOp d.toNat fun v => narrowW e2m1 (srFrom32 (v a.toNat) (v b.toNat)) (v a.toNat))

/-- `FPK.rn` to bf16 (R204). -/
def execFpkBf16 (d a : BitVec 6) (s : State) : Host.Outcome State Fault Refusal :=
  issue (.fpkBf16 d a) s (laneOp d.toNat fun v => packW bf16 2 v a.toNat fun _ _ => .rn)

/-- `FPK.rn` to fp16 (R204). -/
def execFpkF16 (d a : BitVec 6) (s : State) : Host.Outcome State Fault Refusal :=
  issue (.fpkF16 d a) s (laneOp d.toNat fun v => packW fp16 2 v a.toNat fun _ _ => .rn)

/-- `FPK.rn` to e4m3 (R204). -/
def execFpkE4m3 (d a : BitVec 6) (s : State) : Host.Outcome State Fault Refusal :=
  issue (.fpkE4m3 d a) s (laneOp d.toNat fun v => packW e4m3 4 v a.toNat fun _ _ => .rn)

/-- `FPK.rn` to e5m2 (R204). -/
def execFpkE5m2 (d a : BitVec 6) (s : State) : Host.Outcome State Fault Refusal :=
  issue (.fpkE5m2 d a) s (laneOp d.toNat fun v => packW e5m2 4 v a.toNat fun _ _ => .rn)

/-- `FPK.sr` to bf16 (R204): the random word of element j is that of b, rotated by R86. -/
def execFpkSrBf16 (d a b : BitVec 6) (s : State) : Host.Outcome State Fault Refusal :=
  issue (.fpkSrBf16 d a b) s (laneOp d.toNat fun v => packW bf16 2 v a.toNat fun j w => srFrom32 w (srWord (v b.toNat) j 2))

/-- `FPK.sr` to fp16 (R204): the random word of element j is that of b, rotated by R86. -/
def execFpkSrF16 (d a b : BitVec 6) (s : State) : Host.Outcome State Fault Refusal :=
  issue (.fpkSrF16 d a b) s (laneOp d.toNat fun v => packW fp16 2 v a.toNat fun j w => srFrom32 w (srWord (v b.toNat) j 2))

/-- `FPK.sr` to e4m3 (R204): the random word of element j is that of b, rotated by R86. -/
def execFpkSrE4m3 (d a b : BitVec 6) (s : State) : Host.Outcome State Fault Refusal :=
  issue (.fpkSrE4m3 d a b) s (laneOp d.toNat fun v => packW e4m3 4 v a.toNat fun j w => srFrom32 w (srWord (v b.toNat) j 4))

/-- `FPK.sr` to e5m2 (R204): the random word of element j is that of b, rotated by R86. -/
def execFpkSrE5m2 (d a b : BitVec 6) (s : State) : Host.Outcome State Fault Refusal :=
  issue (.fpkSrE5m2 d a b) s (laneOp d.toNat fun v => packW e5m2 4 v a.toNat fun j w => srFrom32 w (srWord (v b.toNat) j 4))

/-- `FUNPK` from bf16 (R205). -/
def execFunpkBf16 (d a j : BitVec 6) (s : State) : Host.Outcome State Fault Refusal :=
  issue (.funpkBf16 d a j) s (laneOp d.toNat fun v => widen bf16 (elem bf16.width (v a.toNat) j.toNat))

/-- `FUNPK` from fp16 (R205). -/
def execFunpkF16 (d a j : BitVec 6) (s : State) : Host.Outcome State Fault Refusal :=
  issue (.funpkF16 d a j) s (laneOp d.toNat fun v => widen fp16 (elem fp16.width (v a.toNat) j.toNat))

/-- `FUNPK` from e4m3 (R205). -/
def execFunpkE4m3 (d a j : BitVec 6) (s : State) : Host.Outcome State Fault Refusal :=
  issue (.funpkE4m3 d a j) s (laneOp d.toNat fun v => widen e4m3 (elem e4m3.width (v a.toNat) j.toNat))

/-- `FUNPK` from e5m2 (R205). -/
def execFunpkE5m2 (d a j : BitVec 6) (s : State) : Host.Outcome State Fault Refusal :=
  issue (.funpkE5m2 d a j) s (laneOp d.toNat fun v => widen e5m2 (elem e5m2.width (v a.toNat) j.toNat))

/-- `FUNPK` from e2m1 (R205). -/
def execFunpkE2m1 (d a j : BitVec 6) (s : State) : Host.Outcome State Fault Refusal :=
  issue (.funpkE2m1 d a j) s (laneOp d.toNat fun v => widen e2m1 (elem e2m1.width (v a.toNat) j.toNat))

end Sys2Proof.Machine
end

