-- ==== Sys2Proof/Machine/CrossLane.lean ====
section
/-! DEFINITION. Cross-lane instructions (R212 to R215): major 0x0B. The members are the threads of the issuing group. The rows of one
family that differ only in a condition, an operation or a type issue as the family's first row: their encoding causes, registers, size and
price are the same (R158, R170, R302). -/

namespace Sys2Proof.Machine

open Sys2Proof

/-- `LANEX` (R213): a of the source lane if it is a member, else the thread's own a. `q` gives the source lane from the lane number
and b[4:0]; none stands for a lane beyond the wave's edge. -/
def lanex (d a b : Nat) (q : Nat → Nat → Option Nat) (x : Issuer) (s : State) : Effect :=
  x.finish s
    (x.w.writeLanes x.e d fun l =>
      match q l ((x.w.vreg b l).toNat % 32) with
      | some m => if x.e.getLsbD m then x.w.vreg a m else x.w.vreg a l
      | none => x.w.vreg a l)

/-- `LANEX.pick` (R213). -/
def execLanexPick (d a b : BitVec 6) (s : State) : Host.Outcome State Fault Refusal :=
  issue (.lanexPick d a b) s (lanex d.toNat a.toNat b.toNat fun _ n => some n)

/-- `LANEX.lo` (R213). -/
def execLanexLo (d a b : BitVec 6) (s : State) : Host.Outcome State Fault Refusal :=
  issue (.lanexLo d a b) s (lanex d.toNat a.toNat b.toNat fun l n => if n ≤ l then some (l - n) else none)

/-- `LANEX.hi` (R213). -/
def execLanexHi (d a b : BitVec 6) (s : State) : Host.Outcome State Fault Refusal :=
  issue (.lanexHi d a b) s (lanex d.toNat a.toNat b.toNat fun l n => if l + n ≤ 31 then some (l + n) else none)

/-- `LANEX.flip` (R213). -/
def execLanexFlip (d a b : BitVec 6) (s : State) : Host.Outcome State Fault Refusal :=
  issue (.lanexFlip d a b) s (lanex d.toNat a.toNat b.toNat fun l n => some (l ^^^ n))

/-- `LANEX.rot` (R213). -/
def execLanexRot (d a b : BitVec 6) (s : State) : Host.Outcome State Fault Refusal :=
  issue (.lanexRot d a b) s (lanex d.toNat a.toNat b.toNat fun l n => some ((l + n) % 32))

/-- `PCONS` (R214): one value written to the predicate of every member. -/
def pcons (d : Nat) (f : Issuer → Bool) (x : Issuer) (s : State) : Effect := x.finish s (x.w.writePreds x.e d fun _ => f x)

/-- `PCONS.all` (R214). -/
def execPconsAll (d a : BitVec 3) (s : State) : Host.Outcome State Fault Refusal :=
  issue (.pconsAll d a) s (pcons d.toNat fun x => x.lanes.all fun l => x.w.preg a.toNat l)

/-- `PCONS.some` (R214). -/
def execPconsSome (d a : BitVec 3) (s : State) : Host.Outcome State Fault Refusal :=
  issue (.pconsSome d a) s (pcons d.toNat fun x => x.lanes.any fun l => x.w.preg a.toNat l)

/-- `PCONS.same` (R214). -/
def execPconsSame (d a : BitVec 3) (s : State) : Host.Outcome State Fault Refusal :=
  issue (.pconsSame d a) s (pcons d.toNat fun x => x.lanes.all fun l => x.w.preg a.toNat l = x.w.preg a.toNat x.low)

/-- `PMASK` (R214). -/
def execPmask (d : BitVec 6) (a : BitVec 3) (s : State) : Host.Outcome State Fault Refusal :=
  issue (.pmask d a) s fun x s =>
    x.finish s (x.w.writeLanes x.e d.toNat fun _ => maskOf fun l => x.e.getLsbD l && x.w.preg a.toNat l)

/-- `WFOLD` (R215): the members' values folded in ascending lane order, written to every member. -/
def wfold (d a : Nat) (f : Word → Word → Word × Word) (x : Issuer) (s : State) : Effect :=
  let r := (x.lanes.drop 1).foldl
    (fun (p : Word × Word) l =>
      let q := f p.1 (x.w.vreg a l)
      (q.1, p.2 ||| q.2))
    (x.w.vreg a x.low, 0)
  x.finish s (x.w.writeLanes x.e d fun _ => r.1) r.2

/-- `WFOLD.add.i32` (R215). -/
def execWfoldAddI32 (d a : BitVec 6) (s : State) : Host.Outcome State Fault Refusal :=
  issue (.wfoldAddI32 d a) s (wfold d.toNat a.toNat fun p q => (p + q, 0))

/-- `WFOLD.min.i32` (R215). -/
def execWfoldMinI32 (d a : BitVec 6) (s : State) : Host.Outcome State Fault Refusal :=
  issue (.wfoldAddI32 d a) s (wfold d.toNat a.toNat fun p q => (minS p q, 0))

/-- `WFOLD.max.i32` (R215). -/
def execWfoldMaxI32 (d a : BitVec 6) (s : State) : Host.Outcome State Fault Refusal :=
  issue (.wfoldAddI32 d a) s (wfold d.toNat a.toNat fun p q => (maxS p q, 0))

/-- `WFOLD.min.n32` (R215). -/
def execWfoldMinN32 (d a : BitVec 6) (s : State) : Host.Outcome State Fault Refusal :=
  issue (.wfoldAddI32 d a) s (wfold d.toNat a.toNat fun p q => (minU p q, 0))

/-- `WFOLD.max.n32` (R215). -/
def execWfoldMaxN32 (d a : BitVec 6) (s : State) : Host.Outcome State Fault Refusal :=
  issue (.wfoldAddI32 d a) s (wfold d.toNat a.toNat fun p q => (maxU p q, 0))

/-- `WFOLD.and` (R215). -/
def execWfoldAnd (d a : BitVec 6) (s : State) : Host.Outcome State Fault Refusal :=
  issue (.wfoldAddI32 d a) s (wfold d.toNat a.toNat fun p q => (p &&& q, 0))

/-- `WFOLD.or` (R215). -/
def execWfoldOr (d a : BitVec 6) (s : State) : Host.Outcome State Fault Refusal :=
  issue (.wfoldAddI32 d a) s (wfold d.toNat a.toNat fun p q => (p ||| q, 0))

/-- `WFOLD.xor` (R215). -/
def execWfoldXor (d a : BitVec 6) (s : State) : Host.Outcome State Fault Refusal :=
  issue (.wfoldAddI32 d a) s (wfold d.toNat a.toNat fun p q => (p ^^^ q, 0))

/-- `WFOLD.add.f32` (R194, R215). -/
def execWfoldAddF32 (d a : BitVec 6) (s : State) : Host.Outcome State Fault Refusal :=
  issue (.wfoldAddI32 d a) s (wfold d.toNat a.toNat fun p q => Machine.fadd false .rn p q)

/-- `WFOLD.min.f32` (R195, R215). -/
def execWfoldMinF32 (d a : BitVec 6) (s : State) : Host.Outcome State Fault Refusal :=
  issue (.wfoldAddI32 d a) s (wfold d.toNat a.toNat fun p q => fminmax false false p q)

/-- `WFOLD.max.f32` (R195, R215). -/
def execWfoldMaxF32 (d a : BitVec 6) (s : State) : Host.Outcome State Fault Refusal :=
  issue (.wfoldAddI32 d a) s (wfold d.toNat a.toNat fun p q => fminmax false true p q)

end Sys2Proof.Machine
end

