-- ==== Sys2Proof/Machine/Fp32.lean ====
section
/-! DEFINITION. FP32 arithmetic (R194 to R198): major 0x06; bit [7] is FTZ. -/

namespace Sys2Proof.Machine

open Sys2Proof

/-- `FADD` (R194). -/
def execFadd (z : BitVec 1) (d a b r : BitVec 5) (s : State) : Host.Outcome State Fault Refusal :=
  issue (.fadd z d a b r) s (laneOp d.toNat fun v => fadd (ftzBit z) (Rnd.ofCode r.toNat) (v a.toNat) (v b.toNat))

/-- `FSUB` (R194). -/
def execFsub (z : BitVec 1) (d a b r : BitVec 5) (s : State) : Host.Outcome State Fault Refusal :=
  issue (.fsub z d a b r) s (laneOp d.toNat fun v => fsub (ftzBit z) (Rnd.ofCode r.toNat) (v a.toNat) (v b.toNat))

/-- `FMUL` (R194). -/
def execFmul (z : BitVec 1) (d a b r : BitVec 5) (s : State) : Host.Outcome State Fault Refusal :=
  issue (.fmul z d a b r) s (laneOp d.toNat fun v => fmul (ftzBit z) (Rnd.ofCode r.toNat) (v a.toNat) (v b.toNat))

/-- `FFMA.rn` (R194). -/
def execFfmaRn (z : BitVec 1) (d a b c : BitVec 5) (s : State) : Host.Outcome State Fault Refusal :=
  issue (.ffmaRn z d a b c) s (laneOp d.toNat fun v => ffma (ftzBit z) .rn (v a.toNat) (v b.toNat) (v c.toNat))

/-- `FFMA.rz` (R194). -/
def execFfmaRz (z : BitVec 1) (d a b c : BitVec 5) (s : State) : Host.Outcome State Fault Refusal :=
  issue (.ffmaRz z d a b c) s (laneOp d.toNat fun v => ffma (ftzBit z) .rz (v a.toNat) (v b.toNat) (v c.toNat))

/-- `FFMA.ru` (R194). -/
def execFfmaRu (z : BitVec 1) (d a b c : BitVec 5) (s : State) : Host.Outcome State Fault Refusal :=
  issue (.ffmaRu z d a b c) s (laneOp d.toNat fun v => ffma (ftzBit z) .ru (v a.toNat) (v b.toNat) (v c.toNat))

/-- `FFMA.rd` (R194). -/
def execFfmaRd (z : BitVec 1) (d a b c : BitVec 5) (s : State) : Host.Outcome State Fault Refusal :=
  issue (.ffmaRd z d a b c) s (laneOp d.toNat fun v => ffma (ftzBit z) .rd (v a.toNat) (v b.toNat) (v c.toNat))

/-- `FMIN` (R195). -/
def execFmin (z : BitVec 1) (d a b : BitVec 5) (s : State) : Host.Outcome State Fault Refusal :=
  issue (.fmin z d a b) s (laneOp d.toNat fun v => fminmax (ftzBit z) false (v a.toNat) (v b.toNat))

/-- `FMAX` (R195). -/
def execFmax (z : BitVec 1) (d a b : BitVec 5) (s : State) : Host.Outcome State Fault Refusal :=
  issue (.fmax z d a b) s (laneOp d.toNat fun v => fminmax (ftzBit z) true (v a.toNat) (v b.toNat))

/-- `FRND` (R196). -/
def execFrnd (z : BitVec 1) (d a r : BitVec 5) (s : State) : Host.Outcome State Fault Refusal :=
  issue (.frnd z d a r) s (laneOp d.toNat fun v => frnd (ftzBit z) (Rnd.ofCode r.toNat) (v a.toNat))

/-- `FCLASS` (R197). -/
def execFclass (d a : BitVec 5) (s : State) : Host.Outcome State Fault Refusal :=
  issue (.fclass d a) s (laneOp d.toNat fun v => (fclass (v a.toNat), 0))

/-- `FSCALE` (R198). -/
def execFscale (z : BitVec 1) (d a b r : BitVec 5) (s : State) : Host.Outcome State Fault Refusal :=
  issue (.fscale z d a b r) s (laneOp d.toNat fun v => fscale (ftzBit z) (Rnd.ofCode r.toNat) (v a.toNat) (v b.toNat))

end Sys2Proof.Machine
end

