-- ==== Sys2Proof/Machine/Save.lean ====
section
/-! DEFINITION. The save and the restoration of a team's core-resident state (R51, R151, R336, R341, R398): the team block, the move slot
and the context lines. -/

namespace Sys2Proof.Machine

open Sys2Proof

/-! The team block (R336). -/

/-- The row slot word that a save writes: an opening or open slot reads as expired (R51, R336). -/
def RowSlot.saved (r : RowSlot) : RowSlot := if r.st = 1 || r.st = 2 then r.expire else r

/-- Gang register g in a team block: LIST, C, the latch and its arrivals. -/
def Gang.block (g : Gang) : List Byte :=
  let list := (List.range g.list.length).foldl (fun n j => n + (g.list[j]?.getD 0) * 32 ^ j) 0
  leBytes 4 list ++ [BitVec.ofNat 8 g.list.length] ++ leBytes 3 0 ++ leBytes 8 (g.latch.getD 0).toNat ++ leBytes 4 g.arrived.toNat ++
    leBytes 12 0

/-- Bytes 0x080 to 0x49F of a team block. -/
def Team.block (t : Team) : List Byte :=
  ((List.range 8).flatMap fun g => (t.gangs.get {} g).block) ++
    ((List.range 4).flatMap fun e => ((List.range 5).flatMap fun j => leBytes 4 (wordAt (t.routes.get [] e) j).toNat) ++ leBytes 12 0) ++
    ((List.range 64).flatMap fun m => leBytes 8 (t.entry m).toNat) ++
    ((List.range 16).flatMap fun b => leBytes 4 (t.bars.get 0 b).toNat ++ leBytes 4 0) ++
    ((List.range 4).flatMap fun w => leBytes 4 (t.slotAt w).saved.word.toNat ++ leBytes 4 0)

/-- A word of a team block. -/
def blockWord (bs : List Byte) (off : Nat) : Word := BitVec.ofNat 32 (leField bs (off - 0x80) 4)

/-- Gang register g of a team block. -/
def Gang.ofBlock (bs : List Byte) (g : Nat) : Gang :=
  let o := 0x80 + 32 * g
  let c := leField bs (o - 0x80 + 4) 1
  let latch := leField bs (o - 0x80 + 8) 8
  { list := gangList (blockWord bs o) c, latch := if latch = 0 then none else some (BitVec.ofNat 64 latch), arrived := blockWord bs (o + 16) }

/-- A team with the core-resident state of a team block. -/
def Team.ofBlock (t : Team) (bs : List Byte) : Team :=
  { t with
    gangs := (List.range 8).foldl (fun (x : Tab Gang) g => x.put {} g (Gang.ofBlock bs g)) [],
    routes := (List.range 4).foldl
      (fun (x : Tab (List Word)) e =>
        let ws : List Word := (List.range 5).map fun j => blockWord bs (0x180 + 32 * e + 4 * j)
        x.put [] e (if ws.all (· = 0) then [] else ws ++ [0, 0, 0])) [],
    tiles := (List.range 64).foldl (fun (x : Tab DWord) m => x.put 0 m (BitVec.ofNat 64 (leField bs (0x180 + 8 * m) 8))) [],
    bars := (List.range 16).foldl (fun (x : Tab LaneMask) b => x.put 0 b (blockWord bs (0x400 + 8 * b))) [],
    rows := (List.range 4).foldl
      (fun (x : Tab RowSlot) w =>
        let v := blockWord bs (0x480 + 8 * w)
        x.put {} w { t.slotAt w with
          st := v.extractLsb' 0 2, row := v.extractLsb' 2 12, bank := v.extractLsb' 14 6, lease := 0, snap := [], held := [], writes := 0 }) [] }

/-- Cut bytes into pieces of n. -/
def chunks (n : Nat) (bs : List Byte) : List (List Byte) :=
  (List.range ((bs.length + n - 1) / n)).map fun j => (bs.drop (n * j)).take n

/-- Write bytes at a virtual address for system hardware, a 64-byte granule at a time: every one whose page is present and writable. Poisoned
granules take their code along (`codes`, by granule, R393). -/
def State.writeWhere (s : State) (ctx : Nat) (va : DWord) (bs : List Byte) (codes : Tab Nat := []) : State :=
  (List.range ((bs.length + 63) / 64)).foldl
    (fun s j =>
      let a := va + BitVec.ofNat 64 (64 * j)
      match s.unitWrite ctx a [(bs.drop (64 * j)).take 64] with
      | .ok s =>
        if codes.get 0 j = 0 then s
        else match s.unitXlat ctx 511 .write a with | (.ok p _ _, s) => s.placePoisonAt p (codes.get 0 j) | _ => s
      | .error _ => s)
    s

/-- Every page of an extent translates for a write. -/
def State.writable (s : State) (ctx : Nat) (va : DWord) (n : Nat) : Bool :=
  (List.range ((va.toNat % 4096 + n + 4095) / 4096)).all fun j =>
    match (s.unitXlat ctx 511 .write (BitVec.ofNat 64 ((va.toNat / 4096 + j) * 4096))).1 with
    | .ok (.mem ..) _ _ => true
    | _ => false

/-- Write a team's block: the `s` words and the core-resident state (R60, R336). -/
def State.saveBlock (s : State) (k : TeamKey) : State :=
  match s.team? k, s.grid? k.grid with
  | some t, some g =>
    let bs := t.block ++ List.replicate (0xFFF - 0x49F) 0
    let s := s.flushS k false
    match t.sFrame with
    | some f => s.cacheWrite f 0x80 bs
    | none => s.writeWhere k.grid.ctx (g.teamBase t.slot + 0x80) bs
  | _, _ => s

/-! The move slot (R398). -/

/-- The address of move slot n of a context. -/
def State.moveBase (s : State) (ctx n : Nat) : DWord :=
  pair (s.ctReg ctx 0x014) (BitVec.ofNat 32 (bits (s.ctReg ctx 0x015) 0 25)) + BitVec.ofNat 64 (0x100000 * n)

/-- The words of the accumulator tiles of a team as bytes. -/
def Team.zBytesAll (t : Team) (n : Nat) : List Byte := (List.range (2048 * n)).flatMap fun i => leBytes 4 (t.zget i).toNat

/-- The lowest free move slot of a context. -/
def State.freeMove (s : State) (ctx : Nat) : Option Nat :=
  let used := s.teams.filterMap fun (k, t) => if k.grid.ctx = ctx then t.move else none
  (List.range (bits (s.ctReg ctx 0x016) 0 13)).find? fun n => !used.contains n

/-- Waves of a saved team: their registers are in memory, their requests lapse, and they have stopped (R307, R398). -/
def State.saveWaves (s : State) (k : TeamKey) : State :=
  match s.team? k with
  | none => s
  | some t =>
    let s := (List.range t.waves.length).foldl (fun s i => s.toMemory ⟨k, i⟩) s
    s.modTeam k fun t => { t with waves := t.waves.map (fun (w : Wave) => { w with perf := 0, stopReq := none }) }

/-- Save a team to a move slot (R51, R151, R336, R398); a gated core wakes for it (R72). -/
def State.saveTeam (s : State) (k : TeamKey) (n : Nat) : State :=
  match s.team? k, s.grid? k.grid with
  | some t, some g =>
    let ctx := k.grid.ctx
    let base := s.moveBase ctx n
    let s := (s.flushL1 t.core).wakeCore t.core
    let s := s.writeWhere ctx base (t.lagoon.getList 0 0 g.desc.lagoon) t.lagPoison
    let s := s.writeWhere ctx (base + 0x40000) (t.tileMem.getList 0 0 (8192 * g.desc.tiles)) t.tilePoison
    let s := s.writeWhere ctx (base + 0xC0000) (t.zBytesAll g.desc.ztiles) t.zPoison
    let s := (s.saveBlock k).saveWaves k
    let s := s.modTeam k fun t => { t with
      rows := t.rows.map (fun (p : Nat × RowSlot) => (p.1, p.2.saved)), saved := true, move := some n, vacate := false }
    let used := bits (s.ctReg ctx 0x016) 16 13
    let s := s.setCtReg ctx 0x016 (setBits (s.ctReg ctx 0x016) 16 13 (used + 1))
    let x := s.ctx ctx
    s.putCtx ctx { x with moved := x.moved + 1 }
  | _, _ => s

/-- Every byte that a save of a team writes has a page present and writable. -/
def State.canSave (s : State) (k : TeamKey) (n : Nat) : Bool :=
  match s.team? k, s.grid? k.grid with
  | some t, some g =>
    let ctx := k.grid.ctx
    let base := s.moveBase ctx n
    s.writable ctx base g.desc.lagoon && s.writable ctx (base + 0x40000) (8192 * g.desc.tiles) &&
      s.writable ctx (base + 0xC0000) (8192 * g.desc.ztiles) && s.writable ctx (g.teamBase t.slot) 4096
  | _, _ => false

/-- Bytes at a virtual address, with the poison codes of their granules (R393); zeros where they do not translate. -/
def State.readWhere (s : State) (ctx : Nat) (va : DWord) (n : Nat) : List Byte × Tab Nat :=
  match s.readSource ctx va n (n / 16 + 2) with
  | .ok (bs, codes, _) => (bs, (List.range (n / 64)).foldl (fun (t : Tab Nat) j => t.put 0 j (codes[4 * j]?.getD 0)) [])
  | .error _ => (List.replicate n 0, [])

/-- Restore a team from its move slot and its team block (R51, R398, R432). -/
def State.restoreTeam (s : State) (k : TeamKey) : State :=
  match s.team? k, s.grid? k.grid with
  | some t, some g =>
    match t.move with
    | none => s
    | some n =>
      let ctx := k.grid.ctx
      let base := s.moveBase ctx n
      let (lag, lp) := s.readWhere ctx base g.desc.lagoon
      let (tm, tp) := s.readWhere ctx (base + 0x40000) (8192 * g.desc.tiles)
      let (zb, zp) := s.readWhere ctx (base + 0xC0000) (8192 * g.desc.ztiles)
      let blk := (s.readWhere ctx (g.teamBase t.slot + 0x80) 0x420).1
      let z : Tab Word := (List.range (2048 * g.desc.ztiles)).foldl
        (fun (x : Tab Word) i => x.ins i (BitVec.ofNat 32 (leField zb (4 * i) 4))) []
      let s := s.modTeam k fun t => { (t.ofBlock blk) with
        lagoon := Tab.putList 0 [] 0 lag, tileMem := Tab.putList 0 [] 0 tm, z := z, lagPoison := lp, tilePoison := tp, zPoison := zp, move := none }
      let used := bits (s.ctReg ctx 0x016) 16 13
      s.setCtReg ctx 0x016 (setBits (s.ctReg ctx 0x016) 16 13 (used - 1))
  | _, _ => s

end Sys2Proof.Machine
end

