-- ==== Sys2Proof/Machine/Placement.lean ====
section
/-! DEFINITION. The global dispatcher and the die dispatchers (R27, R35, R56, R63, R70, R244, R279, R353 to R357). -/

namespace Sys2Proof.Machine

open Sys2Proof

/-! What a core can hold (R355). -/

/-- The running context's teams on a core. -/
def State.teamsOn (s : State) (core : Nat) : List (TeamKey × Team) :=
  s.teams.filter fun (k, t) => t.core = core && !t.saved && s.running k.grid.ctx

/-- The further teams that a resource admits. -/
def room (limit used each : Nat) : Nat := if each = 0 then 16 else (limit - used) / each

/-- How many further teams of a kernel a core can hold. -/
def State.further (s : State) (core : Nat) (d : KDesc) : Nat :=
  let ts := s.teamsOn core
  let sum (f : KDesc → Nat) : Nat := ts.foldl (fun n p => n + f (((s.grid? p.1.grid).map (·.desc)).getD {})) 0
  [16 - ts.length, room 0xC0000 (s.lagoonOn core) d.lagoon, room 64 (sum (·.tiles)) d.tiles, room 32 (sum (·.ztiles)) d.ztiles,
    room 4 (sum (·.rows)) d.rows, room 8 (sum (·.gangs)) d.gangs, room 4 (sum (·.routes)) d.routes].foldl min 16

/-- The ring of a die for a partition (R356): its enabled cores there that are not being vacated. -/
def State.ring (s : State) (p die : Nat) : List Nat :=
  (s.partCores p).filter fun c => decide (c / 80 = die) && !s.inMask p 0x00E (clusterOf c)

/-- Archipelagos of a members, n of them, and one of r members fit in cores with the given room, each member on a core of its own. -/
def archFit (rooms : List Nat) (a n r : Nat) : Bool :=
  let cover (k : Nat) : Nat := rooms.foldl (fun m x => m + min x k) 0
  decide (n * a ≤ cover n) && (r = 0 || decide (n * a + r ≤ cover (n + 1)))

/-- How many archipelagos of a members a cluster's cores with the given room can hold. -/
def archRoom (rooms : List Nat) (a : Nat) : Nat := ((List.range 65).reverse.find? fun n => archFit rooms a n 0).getD 0

/-- The members of a short last archipelago of a grid that is still to be sent (R35). -/
def Grid.shortLast (g : Grid) : Nat :=
  let n := g.gx * g.gy * g.gz
  let first := n / g.arch * g.arch
  if g.next ≤ first then n % g.arch else (g.returned.filter (first ≤ ·)).length

/-- The teams of a kernel that a die can hold for a partition (R354, R355), in archipelagos, the short last one included. -/
def State.dieRoom (s : State) (p die : Nat) (g : Grid) : Nat :=
  let ring := s.ring p die
  let rooms := ((ring.map clusterOf).eraseDups).map fun cl => (ring.filter fun c => clusterOf c = cl).map fun c => s.further c g.desc
  let r := g.shortLast
  g.arch * rooms.foldl (fun n x => n + archRoom x g.arch) 0 +
    (if r ≠ 0 && rooms.any fun x => archFit x g.arch (archRoom x g.arch) r then r else 0)

/-- The teams sent to a die and not yet placed (R354). -/
def State.sentTo (s : State) (die : Nat) : Nat := (s.die die).queue.length

/-- The free team slots of a die (R354). -/
def State.dieFree (s : State) (p die : Nat) (g : Grid) : Nat := s.dieRoom p die g - s.sentTo die

/-- The die of the partition with the most free team slots; on a tie the lower number (R354). -/
def State.bestDie (s : State) (p : Nat) (g : Grid) : Nat :=
  match (List.range 4).filter fun d => !(s.ring p d).isEmpty with
  | [] => 0
  | d :: ds => ds.foldl (fun best d => if s.dieFree p best g < s.dieFree p d g then d else best) d

/-! The global dispatcher (R353, R354). -/

/-- The teams of a grid. -/
def Grid.total (g : Grid) : Nat := g.gx * g.gy * g.gz

/-- The next teams of a grid, in order, as units that no batch divides: returned teams first (R35, R354, R357). -/
def Grid.nextUnits (g : Grid) : List (List Nat) :=
  let unit (n : Nat) : List Nat := (List.range g.arch).map (n + ·) |>.filter (· < g.total)
  let back := (g.returned.map fun n => n / g.arch).eraseDups.map fun a => g.returned.filter fun n => n / g.arch = a
  back ++ (List.range 64).filterMap fun j => let n := g.next + j * g.arch; if n < g.total then some (unit n) else none

/-- The batch: units in order, up to the limits of R354 on teams and on new slots. -/
def Grid.batch (g : Grid) (limit slots : Nat) : List Nat :=
  (g.nextUnits.foldl
    (fun (acc : List Nat × Nat × Bool) u =>
      let fresh := (u.filter fun n => !g.returned.contains n).length
      if acc.2.2 then acc
      else if limit < acc.1.length + u.length || acc.2.1 < fresh then (acc.1, acc.2.1, true)
      else (acc.1 ++ u, acc.2.1 - fresh, false))
    ([], slots, false)).1

/-- The batch that a grid would send now, with its die. -/
def State.gridBatch (s : State) (p : Nat) (g : Grid) : Nat × List Nat :=
  let d := s.bestDie p g
  (d, g.batch (min 64 (s.dieFree p d g)) (g.slots - g.used.length))

/-- Grids in the order of R353: higher PRIO first, then earlier acceptance. -/
def gridBefore (a b : Grid) : Bool := decide (b.prio < a.prio) || (a.prio = b.prio && decide (a.order < b.order))

/-- The threads of a wave at its start (R26, R63): at the entry, running, or exited beyond the team's threads. -/
def startWave (d : KDesc) (i : Nat) : Wave :=
  let n := d.tx * d.ty * d.tz
  let m := maskOf fun l => decide (32 * i + l < n)
  { threads := (List.range 32).map fun l => if m.getLsbD l then { pc := pcOf d.entry, stat := .running } else { pc := pcOf d.entry }, groups := [m] }

/-- A team that takes a slot: it waits in a die's queue (R56, R63). -/
def newTeam (g : Grid) (slot : Nat) : Team :=
  { slot := slot, core := 511, waves := (List.range g.desc.waves).map (startWave g.desc), lagoon := Tab.putList 0 [] 0 g.args, saved := true }

/-- One team of a batch: a new one takes the lowest free slot of its segment. -/
def State.sendTeam (s : State) (k : GridKey) (n : Nat) : State :=
  match s.grid? k with
  | none => s
  | some g =>
    if g.returned.contains n then s.putGrid k { g with returned := g.returned.erase n }
    else
      let slot := ((List.range g.slots).find? fun i => !g.used.contains i).getD 0
      (s.putGrid k { g with used := g.used ++ [slot], next := max g.next (n + 1) }).putTeam ⟨k, n⟩ (newTeam g slot)

/-- The batch that a partition would send now (R353, R354): that of the first grid that can send one, with its die. -/
def State.nextBatch (s : State) (p : Nat) : Option (GridKey × Nat × List Nat) :=
  match s.runningCtx p with
  | none => none
  | some ctx =>
    if s.halted ctx || (s.part p).swap.isSome then none
    else
      let gs := s.grids.filter fun (k, g) => k.ctx = ctx && (decide (g.next < g.total) || !g.returned.isEmpty) &&
        !(s.gridBatch p g).2.isEmpty
      (gs.find? fun (_, g) => gs.all fun (_, h) => !gridBefore h g).map fun (k, g) => (k, s.gridBatch p g)

/-- No partition comes before one in the rotation and can send a batch (R353). -/
def State.turnOf (s : State) (p : Nat) : Bool :=
  (List.range 8).all fun q => decide ((p + 7 - s.served) % 8 ≤ (q + 7 - s.served) % 8) || (s.nextBatch q).isNone

/-- A partition's turn (R353, R354). -/
def State.dispatch (s : State) (p : Nat) : Option State :=
  match s.nextBatch p with
  | none => none
  | some (k, d, ns) =>
    if !s.turnOf p then none
    else
      let s := ns.foldl (fun s n => s.sendTeam k n) s
      let x := s.die d
      let s := s.putDie d { x with queue := x.queue ++ ns.map fun n => { team := ⟨k, n⟩, batch := s.opCtr } }
      some { s with opCtr := s.opCtr + 1, served := p }

/-- `BATCH_DISPATCH` (R56, R353, R354). -/
def execBatchDispatch (p : Nat) (s : State) : Host.Outcome State Fault Refusal :=
  if 8 ≤ p then .fault (.noSuchUnit "BATCH_DISPATCH") else event "BATCH_DISPATCH" s fun s => s.dispatch p

/-! The die dispatcher (R356, R357). -/

/-- The ring from a pointer on. The pointer starts at core 0, and stands for the next core of the ring where its own is not, or no longer, in the
ring; R356 settles neither (DESIGN CHOICE, log entry 73). -/
def ringFrom (ring : List Nat) (p : Nat) : List Nat := (ring.filter (p ≤ ·)) ++ ring.filter (· < p)

/-- The cores that the members of an archipelago go to when the first goes to `x` (R356): the others to the lowest-numbered other cores of its cluster
that can hold one. -/
def State.memberCores (s : State) (ring : List Nat) (g : Grid) (members x : Nat) : List Nat :=
  x :: (ring.filter fun y => clusterOf y = clusterOf x && decide (y ≠ x) && decide (0 < s.further y g.desc)).take (members - 1)

/-- The lagoons that are still held for exited members of an archipelago that is moved, and lie on no core (R36, R398). -/
def State.adrift (s : State) (ms : List TeamKey) (g : Grid) : List TeamKey :=
  (s.heldLag.filter fun (k, h) => h.core = 511 && ms.any fun m => m.grid = k.grid && m.num / g.arch = k.num / g.arch).map (·.1)

/-- The cores of a cluster of the ring that have room for held lagoons beside the members (R355), in ascending number, each as often as it has room.
The rules do not say which core takes the held lagoon of a moved archipelago; here it is the lowest-numbered with room (DESIGN CHOICE, log entry
78). -/
def State.heldHomes (s : State) (ring : List Nat) (g : Grid) (members x : Nat) : List Nat :=
  let cs := s.memberCores ring g members x
  (ring.filter fun c => clusterOf c = clusterOf x).flatMap fun c =>
    List.replicate (room 0xC0000 (s.lagoonOn c + if cs.contains c then g.desc.lagoon else 0) g.desc.lagoon) c

/-- Fit (R356): every member finds a core, and `held` lagoons of exited members find room in the cluster (R36, R355). -/
def State.fits (s : State) (ring : List Nat) (g : Grid) (held members x : Nat) : Bool :=
  decide (0 < s.further x g.desc) && (s.memberCores ring g members x).length == members &&
    decide (held ≤ (s.heldHomes ring g members x).length)

/-- Change the deficit of a core. -/
def State.modDeficit (s : State) (c : Nat) (f : Int → Int) : State :=
  let x := s.core c
  s.putCore c { x with deficit := f x.deficit }

/-- A candidate is preferred to another (R356): lower heat, then higher deficit; a tie leaves the earlier in ring order. -/
def State.cooler (s : State) (x y : Nat) : Bool :=
  decide ((s.core x).heat < (s.core y).heat) || ((s.core x).heat = (s.core y).heat && decide ((s.core y).deficit < (s.core x).deficit))

/-- The core that a placement step chooses once the deficit of the pointer's core has risen (R356). -/
def State.chooseCore (s : State) (ring : List Nat) (fit : Nat → Bool) (p : Nat) : Option Nat :=
  let order := ringFrom ring p
  match order with
  | [] => none
  | q :: _ =>
    if (s.core q).deficit = 2 && fit q then some q
    else
      let cs := order.filter fit
      let good := cs.filter fun c => decide (0 ≤ (s.core c).deficit)
      match if good.isEmpty then cs else good with
      | [] => none
      | c :: rest => some (rest.foldl (fun b x => if s.cooler x b then x else b) c)

/-- The core after one in the ring, as the next pointer. -/
def afterIn (ring : List Nat) (p : Nat) : Nat :=
  match ringFrom ring p with
  | _ :: r :: _ => r
  | [q] => q
  | [] => 0

/-- Raise the deficit of the pointer's core. -/
def State.tickDeficit (s : State) (ring : List Nat) (p : Nat) : State :=
  match ringFrom ring p with
  | q :: _ => s.modDeficit q fun d => min (d + 1) 2
  | [] => s

/-- Put a team on a core (R27, R49, R70, R72, R358): its waves take quarters that hardware chooses, here and at no other time, though R49 lets
hardware change the quarter of a wave in memory whenever it likes (DESIGN CHOICE, log entry 10); a moved team is restored there. The register cache
holds no line of a spill stack yet, so that the first use of one fills it (R73, R75). -/
def State.placeTeam (s : State) (k : TeamKey) (core : Nat) : State :=
  match s.team? k with
  | none => s
  | some t =>
    let s := if t.move.isSome then (s.restoreTeam k).acquire core 3 else s
    let base := s.freeCtr
    let s := s.modTeam k fun t => { t with
      core := core, saved := false, placedAt := s.fclk core, placedNo := s.opCtr, sFrame := none, sSync := none, sDirtied := false, sBy := [],
      zInit := if t.placed then t.zInit else base, placed := true,
      waves := t.waves.mapIdx (fun i (w : Wave) =>
        { w with
          recheck := true, resumed := t.placed, cls := .memory, quarter := (Config.freeWord (base + 65536 + i)).toNat % 4, frames := [],
          since := 0, missing := [], waited := 0, flagSince := 0,
          absent := if t.placed then w.absent else (List.range 128).map (16 + (s.waveSpan ⟨k, i⟩).2 + ·) }) }
    let s : State := { s with freeCtr := base + 65536 + t.waves.length, opCtr := s.opCtr + 1 }
    let c := s.core core
    s.putCore core { c with gated := false, cut := s.lagoonOn core }

/-- A wave of the active set that was placed later than every other one of a list, and in its team has the highest number: the youngest (R70;
DESIGN CHOICE, log entry 43). -/
def youngest (ws : List (WaveKey × Team × Wave)) : Option WaveKey :=
  (ws.find? fun (k, t, _) => ws.all fun (k', t', _) => !rankBefore [t.placedNo, k.idx] [t'.placedNo, k'.idx]).map (·.1)

/-- A re-division of the unified store evicts the youngest active waves' register lines until the lines that the set holds fit (R70). -/
def State.evictQuarter (s : State) (core q : Nat) : Nat → State
  | 0 => s
  | n + 1 =>
    let lines (k : WaveKey) : List Nat := (List.range (s.waveSpan k).2).map (16 + ·)
    let act := (s.quarterWaves core q .active).filter fun (k, _, w) => !(lines k).all w.absent.contains
    if s.regBytes act ≤ s.regBudget core then s
    else
      match youngest act with
      | some k => ((s.flushWave k).dropLines k (lines k)).evictQuarter core q n
      | none => s

/-- Evict in all four quarters. -/
def State.redivide (s : State) (core : Nat) : State := (List.range 4).foldl (fun s q => s.evictQuarter core q 8) s

/-- The members of an archipelago go to their cores (R356): the first to the chosen one, the others to the lowest-numbered other cores of
its cluster that can hold one, each with a step of the ring. -/
def State.placeAll (s : State) (p die : Nat) (ring : List Nat) (g : Grid) (ms : List TeamKey) (first : Nat) : State :=
  (ms.zip (s.memberCores ring g ms.length first)).foldl
    (fun s (k, c) =>
      let x := s.die die
      let s := if c = first then s else s.tickDeficit ring (x.ptr.get 0 p)
      let s := (s.placeTeam k c).modDeficit c (· - 1)
      let x := s.die die
      (s.putDie die { x with ptr := x.ptr.put 0 p (afterIn ring (x.ptr.get 0 p)) }).redivide c)
    s

/-- The lagoons held for exited members of a moved archipelago go with it, each to a core of its cluster that has room (R36, R355, R398). -/
def State.moveHeld (s : State) (ms : List TeamKey) (g : Grid) (homes : List Nat) : State :=
  ((s.adrift ms g).zip homes).foldl (fun s (k, c) => s.modHeld k fun h => { h with core := c }) s

/-- The head of a die's queue with the members placed with it, its grid and its ring. -/
def State.dieHead (s : State) (die : Nat) : Option (List TeamKey × Grid × Nat × List Nat) :=
  match (s.die die).queue with
  | [] => none
  | h :: rest =>
    match s.grid? h.team.grid with
    | none => none
    | some g =>
      let p := partOf h.team.grid.ctx
      let more := rest.filter fun q => q.batch = h.batch && q.team.grid = h.team.grid && q.team.num / g.arch = h.team.num / g.arch
      some (h.team :: (if g.arch = 1 then [] else more.map (·.team)), g, p, s.ring p die)

/-- Fit for the head of a die's queue, as `dieHead` gives it (R356). -/
def State.headFits (s : State) (ring : List Nat) (g : Grid) (ms : List TeamKey) (x : Nat) : Bool := s.fits ring g (s.adrift ms g).length ms.length x

/-- One placement step (R356): none when no core of the ring has Fit. A team of a context that is swapped out or halting stays in the queue, and as
its head holds the teams behind it, also those of other partitions; the rules do not say what becomes of it (DESIGN CHOICE, log entry 73). -/
def State.placeHead (s : State) (die : Nat) : Option State :=
  match s.dieHead die with
  | none => none
  | some (ms, g, p, ring) =>
    let ctx := ((ms.head?).map (·.grid.ctx)).getD 0
    if !s.running ctx || s.halted ctx || (s.part p).swap.isSome || !(ring.any (s.headFits ring g ms)) then none
    else
      let s := s.tickDeficit ring ((s.die die).ptr.get 0 p)
      match s.chooseCore ring (s.headFits ring g ms) ((s.die die).ptr.get 0 p) with
      | none => none
      | some c =>
        let homes := s.heldHomes ring g ms.length c
        let s := (s.placeAll p die ring g ms c).moveHeld ms g homes
        let x := s.die die
        let batch := ((x.queue.head?).map (·.batch)).getD 0
        some (s.putDie die { x with queue := x.queue.filter (fun q => !ms.contains q.team), wait := 0, lost := x.lost.erase batch })

/-- `TEAM_PLACEMENT` (R27, R63, R279, R355, R356, R358). -/
def execTeamPlacement (die : Nat) (s : State) : Host.Outcome State Fault Refusal :=
  if 4 ≤ die then .fault (.noSuchUnit "TEAM_PLACEMENT") else event "TEAM_PLACEMENT" s fun s => s.placeHead die

/-- `BATCH_RETURN` (R357): a team that no core can hold has waited 65,536 memory-side clocks (25/16 of a reference tick each, R21), or its die has
lost cores to spatial pre-emption meanwhile; the unplaced rest of its batch goes back, and is taken again in ascending number (R353). A moved team
or archipelago (R398), which is of no batch, is returned in the same way as a batch of its own, and is then sent as any other team (DESIGN CHOICE,
log entry 73). -/
def execBatchReturn (die : Nat) (s : State) : Host.Outcome State Fault Refusal :=
  if 4 ≤ die then .fault (.noSuchUnit "BATCH_RETURN")
  else
    event "BATCH_RETURN" s fun s =>
      match s.dieHead die, (s.die die).queue with
      | some (ms, g, _, ring), h :: _ =>
        let x := s.die die
        if ring.any (s.headFits ring g ms) || !(decide (65536 * 16 ≤ x.wait * 25) || x.lost.contains h.batch) then none
        else
          let back := x.queue.filter fun q => q.batch = h.batch
          let s := s.putDie die { x with queue := x.queue.filter (fun q => q.batch ≠ h.batch), wait := 0, lost := x.lost.erase h.batch }
          some (back.foldl (fun s q => s.modGrid q.team.grid fun g =>
            { g with returned := g.returned.filter (· < q.team.num) ++ q.team.num :: g.returned.filter (q.team.num < ·) }) s)
      | _, _ => none

end Sys2Proof.Machine
end

