-- ==== Sys2Proof/Machine/Halt.lean ====
section
/-! DEFINITION. Halts with their stop records (R387 to R391), swaps (R339 to R344), spatial pre-emption (R396 to R398) and the start of
command-processor programs (R350). -/

namespace Sys2Proof.Machine

open Sys2Proof

/-! Stop records (R389, R390). -/

/-- A record of 64 bytes for a unit: KIND at byte 4, the core at bytes 6 and 7, and the fields from byte 8 on; `b5` is byte 5. -/
def stopRecord (kind b5 core : Nat) (fields : List Byte) : List Byte :=
  let r := leBytes 4 0 ++ [BitVec.ofNat 8 kind, BitVec.ofNat 8 b5] ++ leBytes 2 core ++ fields
  r ++ List.replicate (64 - r.length) 0

/-- The header (R390). -/
def HaltHdr.bytes (h : HaltHdr) : List Byte :=
  [BitVec.ofNat 8 h.code, BitVec.ofNat 8 h.tcode, BitVec.ofNat 8 h.src, BitVec.ofNat 8 h.quarter] ++ leBytes 2 h.core ++ leBytes 2 0 ++
    leBytes 8 h.who.toNat ++ leBytes 8 h.pc.toNat ++ leBytes 8 h.time ++ leBytes 4 h.lanes.toNat ++ List.replicate 28 0

/-- The lane accesses of an operation that have not been performed. -/
def Op.open_ (o : Op) : Nat := (o.accs.filter fun a => a.result.isNone && !a.skip).length

/-- The operation is one of the matrix engine's compute instructions or transfers, with its fn, its STATE and its bytes done (R390). -/
def OpKind.matrixState : OpKind → Nat × Nat × Nat
  | .mma m => (if m.quant then 2 else if m.fmtA = m.fmtB then 0 else 1, 1, 0)
  | .zclr _ _ => (3, 1, 0)
  | .zld _ _ d => (4, 2, d)
  | .zst _ _ d => (5, 2, d)
  | .zepi e => (6, 2, e.done)
  | .zmovV _ _ _ | .zmovZ _ _ _ => (7, 1, 0)
  | _ => (0, 0, 0)

/-- The wave at gang position 0 of a matrix operation, else its own. -/
def Op.firstWave (o : Op) : Agent :=
  match o.agent, o.kind with
  | .wave k, .mma m => .wave ⟨k.team, m.waves.headD k.idx⟩
  | a, _ => a

/-- The oldest of some operations. -/
def oldestOp (os : List Op) : Option Op := os.find? fun o => os.all fun p => decide (o.id ≤ p.id)

/-- A transfer that a cause stopped, and whose cause is the one of the halt or is still to be delivered (R250, R390). -/
def State.stoppedBy (s : State) (h : HaltHdr) (o : Op) : Bool :=
  (h.src = 1 && some h.code = o.cause && h.who = o.who) ||
    ((s.agent? o.agent).map fun w => match o.cause with | some c => w.pend.getLsbD c | none => false).getD false

/-- The low-water mark of the bytes that a transfer has done (R391): no byte that was refused, or that a peer has not acknowledged, lies below it. -/
def State.doneOf (s : State) (o : Op) (n : Nat) : Nat :=
  ((s.awaiting.filter fun p => p.op = some o.id).map (·.off)).foldl min (min n (o.low.getD n))

/-- The five records of a core (R389, R390); the context's operations that remain, and those that a cause stopped, are the unfinished ones. -/
def State.coreRecords (s : State) (ctx core : Nat) (h : HaltHdr) : List Byte :=
  let mine := s.ops.filter fun o => ctxOf o.agent = ctx && o.core = core
  let ended := (s.ctx ctx).stopped.filter fun o => o.core = core && s.stoppedBy h o
  let quarter (q : Nat) : List Byte :=
    let live := s.teams.flatMap fun (k, t) =>
      if k.grid.ctx = ctx && t.core = core && !t.saved then t.waves.filter fun w => w.quarter = q && !w.done else []
    let open_ := (mine.filter fun o => o.quarter = q && (match o.agent with | .wave _ => true | .cp _ => false)).foldl (fun n o => n + o.open_) 0
    stopRecord 1 q core (leBytes 2 live.length ++ leBytes 2 (live.filter fun w => decide (w.cls = .active)).length ++ leBytes 4 open_)
  let matrix : List Byte :=
    let left := mine.filter fun o => o.kind.matrix
    match oldestOp (left ++ ended.filter fun o => o.kind.matrix) with
    | none => stopRecord 2 0 core []
    | some o =>
      let (fn, st, done) := o.kind.matrixState
      stopRecord 2 0 core
        (leBytes 8 (if (s.agent? o.firstWave).isSome then s.whoBase o.firstWave else o.who).toNat ++ leBytes 8 o.pc.toNat ++ [BitVec.ofNat 8 fn, BitVec.ofNat 8 st] ++ leBytes 2 0 ++
          leBytes 4 (s.doneOf o done) ++ leBytes 4 (left.filter fun p => decide (p.id ≠ o.id)).length)
  let copy : List Byte :=
    let isCopy (o : Op) : Bool := match o.kind with | .copy _ => true | _ => false
    let left := mine.filter isCopy
    let began := h.copies.filter fun p => p.2 = core
    let done := began.filter fun p => !(left ++ (s.ctx ctx).stopped).any fun o => o.id = p.1
    match oldestOp (left ++ ended.filter isCopy) with
    | none => stopRecord 3 0 core (leBytes 2 began.length ++ leBytes 2 done.length)
    | some o =>
      match o.kind with
      | .copy c =>
        stopRecord 3 0 core
          (leBytes 2 began.length ++ leBytes 2 done.length ++ leBytes 4 0 ++ leBytes 8 o.who.toNat ++
            leBytes 8 c.src.toNat ++ leBytes 8 c.dst.toNat ++ leBytes 4 c.len ++ leBytes 4 (s.doneOf o c.done) ++ [BitVec.ofNat 8 (o.cause.getD 0)])
      | _ => stopRecord 3 0 core []
  let row : List Byte :=
    let slots := s.teams.flatMap fun (k, t) =>
      if k.grid.ctx = ctx && t.core = core && !t.saved then
        (List.range (((s.grid? k.grid).map fun g => g.desc.rows).getD 0)).map fun w => (k, w, t.slotAt w) else []
    let word (j : Nat) : List Byte := leBytes 4 (((slots[j]?).map fun x => x.2.2.word.toNat).getD 0)
    let held := slots.foldl (fun n x => n + x.2.2.writes) 0
    let puts := (List.range slots.length).foldl
      (fun n j => match slots[j]? with
        | some (k, w, _) => if mine.any fun o => o.teamKey = some k && (match o.kind with | .rowput v _ _ => v = w | _ => false) then n + 2 ^ j else n
        | none => n) 0
    stopRecord 4 0 core ((List.range 4).flatMap word ++ leBytes 4 held ++ [BitVec.ofNat 8 puts])
  (List.range 4).flatMap quarter ++ matrix ++ copy ++ row ++ List.replicate 64 0

/-- The positions of the collective engine and of the command processor, the queue pairs and the counters (R389, R390); the program of a resident
context does not run (R349). An entry whose bytes a target has not acknowledged is still firing, and counts as posted and not fired (R391). ACTIVE
of the collective engine is one byte: from 256 firings on, what it holds is open (DESIGN CHOICE, log entry 77), the free word `v`. -/
def State.hubRecords (s : State) (ctx : Nat) (runs : Bool) (v : Word) : List Byte :=
  let x := s.ctx ctx
  let pending (n : Nat) : Nat := ((x.qps.get {} n).firing.length) + (s.awaiting.filter fun p => p.pair = some (ctx, n)).length
  let posted := (x.qps.filter fun p => !p.2.entries.isEmpty || pending p.1 ≠ 0).length
  let firing := x.qps.foldl (fun n p => n + pending p.1) 0
  let coll := stopRecord 5 0 511 (leBytes 2 posted ++ [if firing < 256 then BitVec.ofNat 8 firing else v.setWidth 8])
  let pc := (x.cp.th 0).pc
  let cp := stopRecord 6 0 511
    (leBytes 8 pc.toNat ++ ((List.range 12).flatMap fun q => leBytes 2 (((x.queues[q]?).map fun y => y.completed.toNat).getD 0)) ++
      [BitVec.ofNat 8 (if runs then bits (s.ctReg ctx 0x009) 1 1 else 0)])
  let qp (n : Nat) : List Byte :=
    let q := x.qps.get {} n
    leBytes 4 (q.fired - BitVec.ofNat 32 (pending n)).toNat ++ leBytes 4 (q.entries.length + pending n) ++ leBytes 4 0 ++
      leBytes 4 (if pending n = 0 then 0 else 1)
  let cnt (n : Nat) : List Byte := if n < bits (s.ctReg ctx 0x003) 16 11 then leBytes 4 (s.counter ctx n).toNat else leBytes 4 0
  (coll ++ cp ++ List.replicate (0x1000 - 128) 0) ++ (List.range 256).flatMap qp ++ (List.range 1024).flatMap cnt

/-- The stop area (R389): 180,224 bytes. A halt of a resident context finds nothing on the cores (R349). -/
def State.stopArea (s : State) (ctx : Nat) (h : HaltHdr) (onCores : Bool) (v : Word) : List Byte :=
  let cs := s.partCores (partOf ctx)
  h.bytes ++ List.replicate (0x1000 - 64) 0 ++
    ((List.range 320).flatMap fun c => if onCores && cs.contains c then s.coreRecords ctx c h else List.replicate 512 0) ++ s.hubRecords ctx onCores v

/-! The halt. -/

/-- Transfers of rows that are in flight at a halt are completed (R387). -/
def State.finishRowputs (s : State) (ctx : Nat) : State :=
  s.ops.foldl (fun s o => match o.kind with | .rowput w _ base => if ctxOf o.agent = ctx then s.putRow o w base else s | _ => s) s

/-- What every core of a halted context saves (R75, R132, R336, R387), a gated one too, which wakes for it (R72): dirty L1 bytes, and the context
lines and team blocks of the teams that are on cores. -/
def State.saveHalted (s : State) (ctx : Nat) : State :=
  let s := (s.cores.map (·.1)).foldl (fun s c => if s.inMask (partOf ctx) 0x001 (clusterOf c) then (s.flushL1 c).wakeCore c else s) s
  s.teams.foldl
    (fun s (k, t) =>
      if k.grid.ctx ≠ ctx || t.saved then s
      else
        let s := (List.range t.waves.length).foldl (fun s i => s.flushWave ⟨k, i⟩) s
        (s.saveBlock k).modTeam k fun t => { t with rows := t.rows.map (fun (p : Nat × RowSlot) => (p.1, p.2.saved)) })
    s

/-- `HALT_COMPLETE` (R387 to R391): the stop area is written, the context is marked halted, and `CONTEXT_HALT` is raised. `CT_CPCTL.RUN` keeps its
value, here as where a swap stops the program: the rules state no transition of it (DESIGN CHOICE, log entry 75). -/
def State.completeHalt (s : State) (ctx : Nat) : Option State :=
  let p := partOf ctx
  match (s.ctx ctx).halt with
  | none => none
  | some h =>
    let swap := (s.part p).swap
    let incoming : Bool := match swap with | some w => w.incoming == ctx | none => false
    if incoming then none
    else
      let runs := s.running ctx
      let base := pair (s.ctReg ctx 0x004) (BitVec.ofNat 32 (bits (s.ctReg ctx 0x005) 0 25))
      let (v, s) := s.free
      let area := s.stopArea ctx h runs v
      let s := if runs then (s.finishRowputs ctx).saveHalted ctx else s
      let s := s.writeWhere ctx base area
      let s : State := { s with
        ops := s.ops.filter (fun (o : Op) => ctxOf o.agent ≠ ctx),
        waiters := s.waiters.filter (fun (w : Waiter) => ctxOf w.agent ≠ ctx),
        dies := s.dies.map fun (d : Die) =>
          let left := d.queue.filter fun q => q.team.grid.ctx ≠ ctx
          { d with
            queue := left, wait := if left.head? = d.queue.head? then d.wait else 0,
            lost := d.lost.filter fun b => left.any fun q => q.batch = b } }
      let x := s.ctx ctx
      let s := s.putCtx ctx { x with halt := none, stopped := [] }
      let ctl := s.ctReg ctx 0
      let s := s.setCtReg ctx 0 (setBits (setBits ctl 2 1 0) 3 1 1)
      let s := s.setCtReg ctx 0x006 (setBits (s.ctReg ctx 0x006) 0 17 0)
      let s := if runs then s.setPtReg p 0 (setBits (setBits (s.ptReg p 0) 5 1 1) 1 1 0) else s
      some (s.raiseEvent p 0x05 (ctx % 2)
        ([BitVec.ofNat 8 h.code, BitVec.ofNat 8 h.tcode, BitVec.ofNat 8 h.src, 0] ++ leBytes 2 h.core))

/-- `HALT_COMPLETE` (R349, R387 to R391). -/
def execHaltComplete (ctx : Nat) (s : State) : Host.Outcome State Fault Refusal :=
  if 16 ≤ ctx then .fault (.noSuchUnit "HALT_COMPLETE") else event "HALT_COMPLETE" s fun s => s.completeHalt ctx

/-! Swaps (R339 to R344). -/

/-- Every wave of a context has stopped at an instruction boundary, no handler runs with traps masked, and every issued operation is
done (R51, R339, R398). -/
def State.stopped (s : State) (ctx : Nat) : Bool :=
  (s.teams.all fun (k, t) => k.grid.ctx ≠ ctx || t.saved || t.waves.all fun w => w.done || !w.tm) &&
    s.ops.all fun o => ctxOf o.agent ≠ ctx

/-- The outgoing context's teams as the image keeps them (R51, R307): opened rows read expired, clock requests lapse. -/
def State.imageOf (s : State) (ctx : Nat) : State :=
  { s with teams := s.teams.map (fun (p : TeamKey × Team) =>
      if p.1.grid.ctx = ctx then
        (p.1, { p.2 with
          rows := p.2.rows.map (fun (q : Nat × RowSlot) => (q.1, q.2.saved)),
          waves := p.2.waves.map (fun (w : Wave) => { w with perf := 0, stopReq := none }) })
      else p) }

/-- Clusters of a partition run in the equal setting (R339). -/
def State.setEqual (s : State) (p : Nat) (f : Cluster → Bool) : State :=
  { s with clusters := s.clusters.map (fun (q : Nat × Cluster) =>
      if s.inMask p 0x001 q.1 && f q.2 then (q.1, { q.2 with ratio := 2 }) else q) }

/-- What the positions of an image hold (R341). -/
inductive ImagePart where
  | store | tiles | accumulators | scheduler
  deriving DecidableEq, Repr

/-- The contents of position h of an image (R341). -/
def imagePart (h : Nat) : Option ImagePart :=
  if h < 384 then some .store
  else if h < 512 then some .tiles
  else if h < 576 then some .accumulators
  else if h < 580 then some .scheduler
  else none

/-- The core and the position of the image in which a byte of DRAM lies (R108, R341): position h in bank h mod 64 of row 3,056 + h / 64 of the
core's own shoal. -/
def imagePos (a : Nat) : Option (Nat × Nat) :=
  let o := shoalOffset a
  let h := (o / 0x40000 - 3056) * 64 + o / 0x1000 % 64
  if 3056 ≤ o / 0x40000 && (imagePart h).isSome then some (shoalOf a, h) else none

/-- What a part of a context's image can have in it on a core: granules of lagoons and of register lines, of tiles, or of accumulator tiles, each with
the number of granules from which one is picked. -/
def State.imageSites (s : State) (ctx core : Nat) (part : ImagePart) : List ((Nat → ErrSite) × Nat) :=
  let held : List ((Nat → ErrSite) × Nat) :=
    (s.heldLag.filter fun (k, h) => decide (part = ImagePart.store) && k.grid.ctx = ctx && h.core = core).map fun (k, h) =>
      ((fun g => ErrSite.lagoon k (64 * g)), h.len / 64)
  let live : List ((Nat → ErrSite) × Nat) := (s.teams.filter fun (k, t) => k.grid.ctx = ctx && t.core = core && !t.saved).flatMap fun (k, t) =>
    let d := ((s.grid? k.grid).map (·.desc)).getD {}
    match part with
    | .store => ((fun g => .lagoon k (64 * g)), d.lagoon / 64) ::
        (List.range t.waves.length).map fun i => ((fun g => .regLine ⟨k, i⟩ g), 2 * waveLines d.nregs)
    | .tiles => [((fun g => .tile k (64 * g)), 128 * d.tiles)]
    | .accumulators => [((fun g => .accum k (64 * g)), 128 * d.ztiles)]
    | .scheduler => []
  held ++ live

/-- Place a poison code on a granule of a team's state. -/
def State.poisonState (s : State) (code : Nat) : ErrSite → State
  | .lagoon t off => s.putLagPoison t ((s.lagPoisonTab t).put 0 (off / 64) code)
  | .tile t off => s.modTeam t fun y => { y with tilePoison := y.tilePoison.put 0 (off / 64) code }
  | .accum t off => s.modTeam t fun y => { y with zPoison := y.zPoison.put 0 (off / 64) code }
  | .regLine w g => s.modAgent (.wave w) fun y => { y with poison := y.poison.put 0 g code }
  | _ => s

/-- A poisoned granule of a harbour row comes into the image that is restored (R341, R393). What lies at a place of a position is open: some granule
of the position's part, or nothing that is restored (DESIGN CHOICE, log entry 13). -/
def State.poisonImage (s : State) (ctx core : Nat) (part : ImagePart) (code : Nat) : State :=
  let sites := (s.imageSites ctx core part).filter fun q => q.2 ≠ 0
  let (w, s) := s.free
  match sites[w.toNat % (sites.length + 1)]? with
  | some (f, n) => s.free.2.poisonState code (f (s.free.1.toNat % n))
  | none => s

/-- Every core of a partition exchanges its image with the one that its harbour holds (R341), position by position, each row read before it is
written: the harbour then holds that of the context that does not run. The rules do not state how an image lies in its positions, and no access
reaches the harbour rows (R16, R108): the context's state stands for the bytes of its image (log entry 13); poison that lies in the rows comes with
the image that is read, and the rows are written whole. -/
def State.swapImages (s : State) (p : Nat) (outgoing : Option Nat) (incoming : Nat) : State :=
  let cs := s.partCores p
  let mine (g : Nat) : Option (Nat × Nat) := (imagePos (64 * g)).filter fun x => cs.contains x.1
  let bad := s.poison.filter fun q => (mine q.1).isSome
  let s : State := { s with poison := s.poison.filter fun q => (mine q.1).isNone }
  let s := bad.foldl
    (fun s (g, code) =>
      match mine g with
      | some (core, h) => (match imagePart h with | some part => s.poisonImage incoming core part code | none => s)
      | none => s)
    s
  cs.foldl
    (fun s c =>
      let x := s.core c
      s.putCore c { x with harbour := outgoing, cut := x.harbourCut, harbourCut := x.cut })
    s

/-- The exchange of a swap (R151, R339, R341, R342, R344, R408): the outgoing context has stopped, or is marked halted, gated cores wake, and every
core of the partition writes its L1 back, starts with an empty one, and exchanges its image. -/
def State.exchange (s : State) (p : Nat) : Option State :=
  match (s.part p).swap with
  | none => none
  | some w =>
    let quiet := match w.outgoing with | some o => (s.ctReg o 0).getLsbD 3 || (s.stopped o && (s.ctx o).halt.isNone) | none => true
    if w.exchanged || !quiet then none
    else
      let s : State := { s with cores := s.cores.map (fun (q : Nat × Core) =>
        if s.inMask p 0x001 (clusterOf q.1) then (q.1, { q.2 with gated := false }) else q) }
      let s := (s.cores.map (·.1)).foldl (fun s c => if s.inMask p 0x001 (clusterOf c) then s.flushL1 c else s) s
      let s := (match w.outgoing with | some o => s.imageOf o | none => s).swapImages p w.outgoing w.incoming
      let s := s.setEqual p fun c => c.ratio = 1
      let x := s.part p
      some (s.chargeOpen.putPart p { x with swap := some { w with exchanged := true, haltAt := some s.timeRef } })

/-- `SWAP_EXCHANGE` (R151, R339, R341). -/
def execSwapExchange (p : Nat) (s : State) : Host.Outcome State Fault Refusal :=
  if 8 ≤ p then .fault (.noSuchUnit "SWAP_EXCHANGE") else event "SWAP_EXCHANGE" s fun s => s.exchange p

/-- Every wait of a wave that resumes is tested again, at the object too (R51, R244, R275, R291). -/
def Wave.retest (w : Wave) : Wave := { w with recheck := true, resumed := true }

/-- The incoming context becomes the running one (R333, R339, R344). A swap back that was recorded starts; one recorded while no context went out,
which R344 does not list, names no outgoing context and is dropped (DESIGN CHOICE, log entry 65). -/
def State.restore (s : State) (p : Nat) : Option State :=
  match (s.part p).swap with
  | none => none
  | some w =>
    if !w.exchanged then none
    else
      let s := match w.outgoing with | some o => s.setCtReg o 0 (setBits (s.ctReg o 0) 2 1 0) | none => s
      let s := s.setCtReg w.incoming 0 (setBits (s.ctReg w.incoming 0) 2 1 1)
      let s := s.setPtReg p 0 (setBits (setBits (setBits (s.ptReg p 0) 1 1 (w.incoming % 2)) 2 1 0) 5 1 0)
      let s := s.setPtReg p 0x009 (setBits (s.ptReg p 0x009) 0 16 (min 65535 (s.timeRef - w.haltAt.getD s.timeRef)))
      let s := s.setEqual p fun _ => true
      let s : State := { s with teams := s.teams.map (fun (q : TeamKey × Team) =>
        if q.1.grid.ctx = w.incoming then (q.1, { q.2 with waves := q.2.waves.map Wave.retest }) else q) }
      let s := s.modAgent (.cp w.incoming) Wave.retest
      let x := s.part p
      let s := s.putPart p { x with swap := none }
      match w.back, w.outgoing with
      | true, some o => some (s.swapRequest p (o % 2))
      | _, _ => some s

/-- `SWAP_RESTORE` (R244, R339, R343, R344). -/
def execSwapRestore (p : Nat) (s : State) : Host.Outcome State Fault Refusal :=
  if 8 ≤ p then .fault (.noSuchUnit "SWAP_RESTORE") else event "SWAP_RESTORE" s fun s => s.restore p

/-- `SWAPREQ` (R340, R344): a write of `PT_SWAPREQ` with GO, while the partition is enabled. -/
def execSwapreq (p : Nat) (c : BitVec 1) (s : State) : Host.Outcome State Fault Refusal :=
  if 8 ≤ p then .fault (.noSuchUnit "SWAPREQ")
  else event "SWAPREQ" s fun s => some (s.writePt p 0x01A (BitVec.ofNat 32 (2 + c.toNat)))

/-- `CP_START` (R350, R351): a write of 1 to `CT_CPCTL.GO`. -/
def execCpStart (ctx : Nat) (s : State) : Host.Outcome State Fault Refusal :=
  if 16 ≤ ctx then .fault (.noSuchUnit "CP_START") else event "CP_START" s fun s => some (s.writeCt { level := 2, part := partOf ctx } ctx 0x009 1)

/-! Spatial pre-emption (R397, R398). -/

/-- Partitions that vacate clusters count the cores that still hold a team (R397, R398). -/
def State.noteVacations (s : State) : State :=
  (List.range 8).foldl (fun s p => if bits (s.ptReg p 0x012) 0 9 ≠ 0 then s.vacUpdate p else s) s

/-- `VACATE_CLUSTER` (R396 to R398): a write of `PT_VAC` that adds one cluster to the mask. -/
def execVacateCluster (p die cluster : Nat) (s : State) : Host.Outcome State Fault Refusal :=
  if 8 ≤ p || 4 ≤ die || 20 ≤ cluster then .fault (.noSuchUnit "VACATE_CLUSTER")
  else
    event "VACATE_CLUSTER" s fun s =>
      some (s.writePt p (0x00E + die) (s.ptReg p (0x00E + die) ||| BitVec.ofNat 32 (2 ^ cluster)))

/-- A team on a vacated cluster has stopped: no handler runs with traps masked, and its operations are done (R51, R398). -/
def State.canMove (s : State) (k : TeamKey) : Bool :=
  match s.team? k with
  | some t => t.vacate && !t.saved && (t.waves.all fun w => w.done || !w.tm) && s.ops.all fun o => o.teamKey ≠ some k
  | none => false

/-- The live members of a team's archipelago, itself included. -/
def State.liveMembers (s : State) (k : TeamKey) (g : Grid) : List TeamKey :=
  ((g.members k.num).map fun n => (⟨k.grid, n⟩ : TeamKey)).filter fun m => (s.team? m).isSome

/-- Save the members one after another, each to the lowest free move slot; none where a slot is missing. -/
def State.saveMembers (s : State) : List TeamKey → Option State
  | [] => some s
  | m :: ms =>
    match s.freeMove m.grid.ctx with
    | none => none
    | some n => if s.canSave m n then (s.saveTeam m n).saveMembers ms else none

/-- `TEAM_MOVE` (R51, R52, R151, R398): a stopped team, with its archipelago, is saved and enters a die's queue ahead of every team of a
batch. The lagoons held for its exited members leave their cores with it (R36). -/
def State.moveTeam (s : State) (k : TeamKey) : Option State :=
  match s.grid? k.grid with
  | none => none
  | some g =>
    let ctx := k.grid.ctx
    let p := partOf ctx
    let ms := s.liveMembers k g
    if !(ms.all s.canMove) || !s.running ctx || s.halted ctx || (s.part p).swap.isSome || ms.isEmpty then none
    else
      match s.saveMembers ms with
      | none => none
      | some s =>
        let d := s.bestDie p g
        let x := s.die d
        let new : List Sent := ms.map fun m => { team := m, batch := s.opCtr, moved := true }
        let ahead := x.queue.filter (·.moved)
        let s := s.putDie d { x with
          queue := ahead ++ new ++ x.queue.filter fun q => !q.moved
          wait := if ahead.isEmpty then 0 else x.wait }
        let s : State := { s with
          opCtr := s.opCtr + 1
          heldLag := s.heldLag.map fun (q : TeamKey × HeldLagoon) =>
            if q.1.grid = k.grid && q.1.num / g.arch = k.num / g.arch then (q.1, { q.2 with core := 511 }) else q }
        some (s.vacUpdate p)

/-- `TEAM_MOVE` (R398). -/
def execTeamMove (t : TeamKey) (s : State) : Host.Outcome State Fault Refusal := event "TEAM_MOVE" s fun s => s.moveTeam t

/-- `PREEMPT_TIMEOUT` (R386, R390, R398): 16,384 fclk after the request reached it, a wave with traps masked has not stopped. -/
def execPreemptTimeout (w : WaveKey) (s : State) : Host.Outcome State Fault Refusal :=
  event "PREEMPT_TIMEOUT" s fun s =>
    match s.wave? w with
    | some v =>
      match v.stopReq with
      | some n =>
        if n < 16384 || !v.tm || v.done then none
        else
          let a : Agent := .wave w
          some ((s.putWave w (v.setCause Cause.preemptTimeout 0)).raiseHalt w.team.grid.ctx
            (s.haltHeader a Cause.preemptTimeout 0 0 (v.th (lowLane v.lead)).pc v.lead))
      | none => none
    | none => none

end Sys2Proof.Machine
end

