-- ==== Sys2Proof/Machine/Integer.lean ====
section
/-! DEFINITION. Integer and logic (R186, R187): major 0x01, with the uniform forms. -/

namespace Sys2Proof.Machine

open Sys2Proof

/-- `IADD` (R186). -/
def execIadd (u : BitVec 1) (d a b : BitVec 6) (s : State) : Host.Outcome State Fault Refusal :=
  issue (.iadd u d a b) s (plain u d.toNat fun r => r a.toNat + r b.toNat)

/-- `IADD.sat.i32` (R186). -/
def execIaddSatI32 (u : BitVec 1) (d a b : BitVec 6) (s : State) : Host.Outcome State Fault Refusal :=
  issue (.iaddSatI32 u d a b) s (arith u d.toNat fun r => satI32 ((r a.toNat).toInt + (r b.toNat).toInt))

/-- `IADD.sat.n32` (R186). -/
def execIaddSatN32 (u : BitVec 1) (d a b : BitVec 6) (s : State) : Host.Outcome State Fault Refusal :=
  issue (.iaddSatN32 u d a b) s (arith u d.toNat fun r => satN32 ((r a.toNat).toNat + (r b.toNat).toNat))

/-- `IADDC`, the carry out (R186). -/
def execIaddc (u : BitVec 1) (d a b : BitVec 6) (s : State) : Host.Outcome State Fault Refusal :=
  issue (.iaddc u d a b) s (plain u d.toNat fun r => if 2 ^ 32 ≤ (r a.toNat).toNat + (r b.toNat).toNat then 1 else 0)

/-- `ISUB` (R186). -/
def execIsub (u : BitVec 1) (d a b : BitVec 6) (s : State) : Host.Outcome State Fault Refusal :=
  issue (.isub u d a b) s (plain u d.toNat fun r => r a.toNat - r b.toNat)

/-- `ISUB.sat.i32` (R186). -/
def execIsubSatI32 (u : BitVec 1) (d a b : BitVec 6) (s : State) : Host.Outcome State Fault Refusal :=
  issue (.isubSatI32 u d a b) s (arith u d.toNat fun r => satI32 ((r a.toNat).toInt - (r b.toNat).toInt))

/-- `ISUB.sat.n32` (R186). -/
def execIsubSatN32 (u : BitVec 1) (d a b : BitVec 6) (s : State) : Host.Outcome State Fault Refusal :=
  issue (.isubSatN32 u d a b) s (arith u d.toNat fun r => satN32 (((r a.toNat).toNat : Int) - ((r b.toNat).toNat : Int)))

/-- `ISUBB`, the borrow out (R186). -/
def execIsubb (u : BitVec 1) (d a b : BitVec 6) (s : State) : Host.Outcome State Fault Refusal :=
  issue (.isubb u d a b) s (plain u d.toNat fun r => if (r a.toNat).toNat < (r b.toNat).toNat then 1 else 0)

/-- `INEG` (R186). -/
def execIneg (u : BitVec 1) (d a : BitVec 6) (s : State) : Host.Outcome State Fault Refusal :=
  issue (.ineg u d a) s (plain u d.toNat fun r => -r a.toNat)

/-- `INEG.sat` (R186). -/
def execInegSat (u : BitVec 1) (d a : BitVec 6) (s : State) : Host.Outcome State Fault Refusal :=
  issue (.inegSat u d a) s (arith u d.toNat fun r => satI32 (-(r a.toNat).toInt))

/-- `IABS` (R186). -/
def execIabs (u : BitVec 1) (d a : BitVec 6) (s : State) : Host.Outcome State Fault Refusal :=
  issue (.iabs u d a) s (plain u d.toNat fun r => if (r a.toNat).toInt < 0 then -r a.toNat else r a.toNat)

/-- `IABS.sat` (R186). -/
def execIabsSat (u : BitVec 1) (d a : BitVec 6) (s : State) : Host.Outcome State Fault Refusal :=
  issue (.iabsSat u d a) s (arith u d.toNat fun r => satI32 ((r a.toNat).toInt.natAbs))

/-- `IMIN.i32` (R186). -/
def execIminI32 (u : BitVec 1) (d a b : BitVec 6) (s : State) : Host.Outcome State Fault Refusal :=
  issue (.iminI32 u d a b) s (plain u d.toNat fun r => minS (r a.toNat) (r b.toNat))

/-- `IMIN.n32` (R186). -/
def execIminN32 (u : BitVec 1) (d a b : BitVec 6) (s : State) : Host.Outcome State Fault Refusal :=
  issue (.iminN32 u d a b) s (plain u d.toNat fun r => minU (r a.toNat) (r b.toNat))

/-- `IMAX.i32` (R186). -/
def execImaxI32 (u : BitVec 1) (d a b : BitVec 6) (s : State) : Host.Outcome State Fault Refusal :=
  issue (.imaxI32 u d a b) s (plain u d.toNat fun r => maxS (r a.toNat) (r b.toNat))

/-- `IMAX.n32` (R186). -/
def execImaxN32 (u : BitVec 1) (d a b : BitVec 6) (s : State) : Host.Outcome State Fault Refusal :=
  issue (.imaxN32 u d a b) s (plain u d.toNat fun r => maxU (r a.toNat) (r b.toNat))

/-- `AND` (R186). -/
def execAndI (u : BitVec 1) (d a b : BitVec 6) (s : State) : Host.Outcome State Fault Refusal :=
  issue (.andI u d a b) s (plain u d.toNat fun r => r a.toNat &&& r b.toNat)

/-- `OR` (R186). -/
def execOrI (u : BitVec 1) (d a b : BitVec 6) (s : State) : Host.Outcome State Fault Refusal :=
  issue (.orI u d a b) s (plain u d.toNat fun r => r a.toNat ||| r b.toNat)

/-- `XOR` (R186). -/
def execXorI (u : BitVec 1) (d a b : BitVec 6) (s : State) : Host.Outcome State Fault Refusal :=
  issue (.xorI u d a b) s (plain u d.toNat fun r => r a.toNat ^^^ r b.toNat)

/-- `NOT` (R186). -/
def execNotI (u : BitVec 1) (d a : BitVec 6) (s : State) : Host.Outcome State Fault Refusal :=
  issue (.notI u d a) s (plain u d.toNat fun r => ~~~r a.toNat)

/-- `ANDN` (R186). -/
def execAndn (u : BitVec 1) (d a b : BitVec 6) (s : State) : Host.Outcome State Fault Refusal :=
  issue (.andn u d a b) s (plain u d.toNat fun r => r a.toNat &&& ~~~r b.toNat)

/-- `SHL` by the whole word b (R186). -/
def execShl (u : BitVec 1) (d a b : BitVec 6) (s : State) : Host.Outcome State Fault Refusal :=
  issue (.shl u d a b) s (plain u d.toNat fun r => shlW (r a.toNat) (r b.toNat))

/-- `SHR` by the whole word b (R186). -/
def execShr (u : BitVec 1) (d a b : BitVec 6) (s : State) : Host.Outcome State Fault Refusal :=
  issue (.shr u d a b) s (plain u d.toNat fun r => shrW (r a.toNat) (r b.toNat))

/-- `SAR` by Min(b, 31) (R186). -/
def execSar (u : BitVec 1) (d a b : BitVec 6) (s : State) : Host.Outcome State Fault Refusal :=
  issue (.sar u d a b) s (plain u d.toNat fun r => sarW (r a.toNat) (r b.toNat))

/-- `ROTL` by b[4:0] (R186). -/
def execRotl (u : BitVec 1) (d a b : BitVec 6) (s : State) : Host.Outcome State Fault Refusal :=
  issue (.rotl u d a b) s (plain u d.toNat fun r => rotlW (r a.toNat) (r b.toNat))

/-- `IADD64` on pairs (R186). -/
def execIadd64 (u : BitVec 1) (d a b : BitVec 6) (s : State) : Host.Outcome State Fault Refusal :=
  issue (.iadd64 u d a b) s (arithPair u d.toNat fun r => r.pair a.toNat + r.pair b.toNat)

/-- `TRILOG` (R160, R187): T[4] to T[7] stand in bits [7], [13], [19] and [25]. -/
def execTrilog (z : BitVec 1) (d : BitVec 5) (y : BitVec 1) (a : BitVec 5) (x : BitVec 1) (b : BitVec 5) (w : BitVec 1) (t : BitVec 4)
    (s : State) : Host.Outcome State Fault Refusal :=
  issue (.trilog z d y a x b w t) s (laneOp d.toNat fun r =>
    (trilogW (w ++ x ++ y ++ z ++ t) (r a.toNat) (r b.toNat) (r d.toNat), 0))

end Sys2Proof.Machine
end

