-- ==== Sys2Proof/Machine/IntegerImm.lean ====
section
/-! DEFINITION. Integer immediate forms (R188): major 0x02, with the uniform forms. -/

namespace Sys2Proof.Machine

open Sys2Proof

/-- `IADD` with a signed immediate (R188). -/
def execIaddImm (u : BitVec 1) (d a : BitVec 6) (ix : BitVec 9) (s : State) : Host.Outcome State Fault Refusal :=
  issue (.iaddImm u d a ix) s (plain u d.toNat fun r => r a.toNat + ix.signExtend 32)

/-- `AND` with a signed immediate (R188). -/
def execAndImm (u : BitVec 1) (d a : BitVec 6) (ix : BitVec 9) (s : State) : Host.Outcome State Fault Refusal :=
  issue (.andImm u d a ix) s (plain u d.toNat fun r => r a.toNat &&& ix.signExtend 32)

/-- `OR` with a signed immediate (R188). -/
def execOrImm (u : BitVec 1) (d a : BitVec 6) (ix : BitVec 9) (s : State) : Host.Outcome State Fault Refusal :=
  issue (.orImm u d a ix) s (plain u d.toNat fun r => r a.toNat ||| ix.signExtend 32)

/-- `XOR` with a signed immediate (R188). -/
def execXorImm (u : BitVec 1) (d a : BitVec 6) (ix : BitVec 9) (s : State) : Host.Outcome State Fault Refusal :=
  issue (.xorImm u d a ix) s (plain u d.toNat fun r => r a.toNat ^^^ ix.signExtend 32)

/-- `SHL` by imm9[4:0] (R188). -/
def execShlImm (u : BitVec 1) (d a : BitVec 6) (ix : BitVec 5) (s : State) : Host.Outcome State Fault Refusal :=
  issue (.shlImm u d a ix) s (plain u d.toNat fun r => shlW (r a.toNat) (ix.setWidth 32))

/-- `SHR` by imm9[4:0] (R188). -/
def execShrImm (u : BitVec 1) (d a : BitVec 6) (ix : BitVec 5) (s : State) : Host.Outcome State Fault Refusal :=
  issue (.shrImm u d a ix) s (plain u d.toNat fun r => shrW (r a.toNat) (ix.setWidth 32))

/-- `SAR` by imm9[4:0] (R188). -/
def execSarImm (u : BitVec 1) (d a : BitVec 6) (ix : BitVec 5) (s : State) : Host.Outcome State Fault Refusal :=
  issue (.sarImm u d a ix) s (plain u d.toNat fun r => sarW (r a.toNat) (ix.setWidth 32))

/-- `ROTL` by imm9[4:0] (R188). -/
def execRotlImm (u : BitVec 1) (d a : BitVec 6) (ix : BitVec 5) (s : State) : Host.Outcome State Fault Refusal :=
  issue (.rotlImm u d a ix) s (plain u d.toNat fun r => rotlW (r a.toNat) (ix.setWidth 32))

end Sys2Proof.Machine
end

