-- ==== Sys2Proof/Machine/LoadStore.lean ====
section
/-! DEFINITION. Loads, stores, prefetches and the spill stack (R61, R121, R161 to R164, R224 to R230). -/

namespace Sys2Proof.Machine

open Sys2Proof

/-- The types whose loads are sign-extended (R163). -/
def signExtends (t : BitVec 3) : Bool := t = 5 || t = 6

/-- The addresses of a group's lanes with an offset scaled by the access size (R161, R226). -/
def Issuer.addrs (x : Issuer) (b : BitVec 6) (o : BitVec 5) (size : Nat) : List (Nat × DWord) :=
  x.lanes.map fun l => (l, x.base b l + BitVec.ofNat 64 (o.toNat * size))

/-- The address of a uniform access (R228). -/
def Issuer.kaddr (x : Issuer) (b o : BitVec 5) (size : Nat) : DWord := x.w.kpair (2 * b.toNat) + BitVec.ofNat 64 (o.toNat * size)

/-- `LD` (R224 to R226). -/
def execLd (f : BitVec 1) (d b : BitVec 6) (t : BitVec 3) (sv : BitVec 4) (o : BitVec 5) (s : State) : Host.Outcome State Fault Refusal :=
  let i := Instr.ld f d b t sv o
  issue i s fun x s =>
    issueLoad i false false (signExtends t) (blockOf t d).1 (typeSize t) (semOf sv.toNat 0)
      ((x.addrs b o (typeSize t)).map fun p => (p.1, p.2, .load)) x s

/-- `LD.LAST` (R121, R227). -/
def execLdLast (f : BitVec 1) (d b : BitVec 6) (t : BitVec 3) (o : BitVec 5) (s : State) : Host.Outcome State Fault Refusal :=
  let i := Instr.ldLast f d b t o
  issue i s fun x s =>
    issueLoad i false true (signExtends t) (blockOf t d).1 (typeSize t) (semOf 0 0)
      ((x.addrs b o (typeSize t)).map fun p => (p.1, p.2, .load)) x s

/-- A prefetch of one lane (R227): the line of a cacheable address that passes every check comes into the L1, from a peer by a request with the
partition's job (R423). One whose peer is not reached brings nothing and tells nothing. -/
def State.prefetch (s : State) (x : Issuer) (l : Nat) (va : DWord) : State :=
  match s.checkLane x.a l .load 1 va with
  | (.ok (.mem pa nc row), s') =>
    if nc || decide (s'.reachPlace (.mem pa nc row) ≠ .ok) then s'
    else (List.range 4).foldl
      (fun s j =>
        let a := pa / 256 * 256 + 64 * j
        let c := s.coreOf x.a
        (if s.leaves c a false then (s.promoteFor c a).request (partOf x.ctx) a 0 64 else s).fillSector c a) s'
  | (.ok _, s') => s'
  | _ => s

/-- `PREF` (R227): level 0 fills the L1; level 1 fills the LLC only, which holds no value of its own. -/
def execPref (d b : BitVec 6) (o : BitVec 5) (s : State) : Host.Outcome State Fault Refusal :=
  issue (.pref d b o) s fun x s =>
    .done (if d = 0 then (x.addrs b o 256).foldl (fun s p => s.prefetch x p.1 p.2) s else s)

/-- `ST` (R224 to R226). -/
def execSt (d b : BitVec 6) (t : BitVec 3) (sv : BitVec 4) (o : BitVec 5) (s : State) : Host.Outcome State Fault Refusal :=
  let i := Instr.st d b t sv o
  issue i s fun x s =>
    issueStore i false (typeSize t) (semOf sv.toNat 0)
      ((x.addrs b o (typeSize t)).map fun p => (p.1, p.2, blockBytes (x.w.reader p.1) (blockOf t d).1 (typeSize t))) x s

/-- `LDK` (R228). -/
def execLdk (f : BitVec 1) (d : BitVec 6) (b : BitVec 5) (t : BitVec 3) (sv : BitVec 4) (o : BitVec 5) (s : State) :
    Host.Outcome State Fault Refusal :=
  let i := Instr.ldk f d b t sv o
  issue i s fun x s =>
    issueLoad i true false (signExtends t) (blockOf t d).1 (typeSize t) (semOf sv.toNat 0) [(x.low, x.kaddr b o (typeSize t), .load)] x s

/-- `STK` (R228). -/
def execStk (d : BitVec 6) (b : BitVec 5) (t : BitVec 3) (sv : BitVec 4) (o : BitVec 5) (s : State) : Host.Outcome State Fault Refusal :=
  let i := Instr.stk d b t sv o
  issue i s fun x s =>
    issueStore i true (typeSize t) (semOf sv.toNat 0)
      [(x.low, x.kaddr b o (typeSize t), blockBytes x.w.kreg (blockOf t d).1 (typeSize t))] x s

/-- `SPUSH` (R61, R230). -/
def execSpush (d : BitVec 6) (s : State) : Host.Outcome State Fault Refusal :=
  issue (.spush d) s fun x s =>
    if x.lanes.any fun l => decide ((x.w.th l).spill = 128) then .raise Cause.access s
    else x.finish s ((x.w.forLanes x.e fun l w =>
        w.setSpill (s.descOf x.a).nregs (w.th l).spill l (x.w.vreg d.toNat l)).modLanes x.e
          fun t => { t with spill := t.spill + 1 })

/-- `SPOP` (R61, R230). -/
def execSpop (d : BitVec 6) (s : State) : Host.Outcome State Fault Refusal :=
  issue (.spop d) s fun x s =>
    if x.lanes.any fun l => decide ((x.w.th l).spill = 0) then .raise Cause.access s
    else x.finish s ((x.w.writeLanes x.e d.toNat fun l => x.w.spill.get 0 (32 * ((x.w.th l).spill - 1) + l)).modLanes x.e
      fun t => { t with spill := t.spill - 1 })

/-- `LDL` (R229). -/
def execLdl (f : BitVec 1) (d : BitVec 6) (b : BitVec 5) (t : BitVec 3) (sv : BitVec 4) (o : BitVec 5) (s : State) :
    Host.Outcome State Fault Refusal :=
  let i := Instr.ldl f d b t sv o
  let n := typeSize t
  issue i s fun x s =>
    match s.lagoonPlaces x n (x.lanes.map fun l => (l, x.w.vreg b.toNat l, o.toNat * n)) with
    | .error c => .raise c s
    | .ok ps =>
      let m := semOf sv.toNat 0
      .done ((s.forceBefore x.a x.e false n ps).launchOp x i x.e (.load n (signExtends t) (blockOf t d).1 false false false m.acq)
        (ps.map fun p => { lane := p.1, place := p.2 }))

/-- `STL` (R229). -/
def execStl (d : BitVec 6) (b : BitVec 5) (t : BitVec 3) (sv : BitVec 4) (o : BitVec 5) (s : State) : Host.Outcome State Fault Refusal :=
  let i := Instr.stl d b t sv o
  let n := typeSize t
  issue i s fun x s =>
    match s.lagoonPlaces x n (x.lanes.map fun l => (l, x.w.vreg b.toNat l, o.toNat * n)) with
    | .error c => .raise c s
    | .ok ps =>
      let m := lagoonSem x (semOf sv.toNat 0) ps
      let s := (s.forceBefore x.a x.e false n ps).releaseBefore x m
      .done (s.storeLanes x i false m (ps.map fun p => (p.1, 0, p.2, blockBytes (x.w.reader p.1) (blockOf t d).1 n)))

end Sys2Proof.Machine
end

