-- ==== Sys2Proof/Machine/Move.lean ====
section
/-! DEFINITION. Moves and special values (R209 to R211): major 0x0A. -/

namespace Sys2Proof.Machine

open Sys2Proof

/-- `MOV` between `v0` and `v255` (R209). -/
def execMov (d sv : BitVec 8) (s : State) : Host.Outcome State Fault Refusal :=
  issue (.mov d sv) s (laneOp d.toNat fun v => (v sv.toNat, 0))

/-- `MOVI` (R209): imm16, sign-extended. -/
def execMovi (d : BitVec 6) (ix : BitVec 16) (s : State) : Host.Outcome State Fault Refusal :=
  issue (.movi d ix) s (laneOp d.toNat fun _ => (ix.signExtend 32, 0))

/-- `MOVIH` (R209): imm16 into bits [31:16]. -/
def execMovih (d : BitVec 6) (ix : BitVec 16) (s : State) : Host.Outcome State Fault Refusal :=
  issue (.movih d ix) s (laneOp d.toNat fun v => (ix ++ (v d.toNat).setWidth 16, 0))

/-- `MOVI` to a `k` register (R209). -/
def execMoviK (d : BitVec 6) (ix : BitVec 16) (s : State) : Host.Outcome State Fault Refusal :=
  issue (.moviK d ix) s fun x s => x.finish s (x.w.setK d.toNat (ix.signExtend 32))

/-- `MOVIH` to a `k` register (R209). -/
def execMovihK (d : BitVec 6) (ix : BitVec 16) (s : State) : Host.Outcome State Fault Refusal :=
  issue (.movihK d ix) s fun x s => x.finish s (x.w.setK d.toNat (ix ++ (x.w.kreg d.toNat).setWidth 16))

/-- `MOVK` mode 0 (R210): every thread takes the `k` register. -/
def execMovkVK (d sv : BitVec 6) (s : State) : Host.Outcome State Fault Refusal :=
  issue (.movkVK d sv) s fun x s => x.finish s (x.w.writeLanes x.e d.toNat fun _ => x.w.kreg sv.toNat)

/-- `MOVK` mode 1 (R210): the register of the group's lowest thread. -/
def execMovkKV (d sv : BitVec 6) (s : State) : Host.Outcome State Fault Refusal :=
  issue (.movkKV d sv) s fun x s => x.finish s (x.w.setK d.toNat (x.w.vreg sv.toNat x.low))

/-- `MOVK` mode 2 (R69, R210): the `s` register as the group's lowest thread sees it since its clause began. -/
def execMovkKS (d sv : BitVec 6) (s : State) : Host.Outcome State Fault Refusal :=
  issue (.movkKS d sv) s fun x s => x.finish s (x.w.setK d.toNat (x.th.seen.get 0 sv.toNat))

/-- Write a team-shared register for a wave (R69): the team's word, if no higher write of the same fclk stands, and the wave's own view at
once. -/
def State.writeShared (s : State) (a : Agent) (n : Nat) (v : Word) : State :=
  match a with
  | .wave k => (s.modTeam k.team (·.writeS (s.sharedKey a true) n v)).modAgent a (·.see (·.put 0 n v))
  | .cp _ => s

/-- `MOVK` mode 3 (R69, R210): a team-shared register write. -/
def execMovkSK (d sv : BitVec 6) (s : State) : Host.Outcome State Fault Refusal :=
  issue (.movkSK d sv) s fun x s => .done (s.writeShared x.a d.toNat (x.w.kreg sv.toNat))

/-- A special value of a wave for a lane (R18, R31, R57, R211), as 64 bits. -/
def State.special (s : State) (k : WaveKey) (lane : Nat) (code : Nat) : DWord :=
  let g := (s.grid? k.team.grid).getD {}
  let core := ((s.team? k.team).map (·.core)).getD 0
  let slot := ((s.team? k.team).map (·.slot)).getD 0
  match code with
  | 0x00 => BitVec.ofNat 64 lane
  | 0x01 => BitVec.ofNat 64 k.idx
  | 0x02 => BitVec.ofNat 64 (k.team.num % g.gx)
  | 0x03 => BitVec.ofNat 64 (k.team.num / g.gx % g.gy)
  | 0x04 => BitVec.ofNat 64 (k.team.num / g.gx / g.gy)
  | 0x05 => BitVec.ofNat 64 k.team.grid.gid
  | 0x06 => BitVec.ofNat 64 g.depth
  | 0x07 => BitVec.ofNat 64 (core % 80)
  | 0x08 => BitVec.ofNat 64 (core % 80 / 4)
  | 0x09 => BitVec.ofNat 64 (core / 80)
  | 0x0A => (s.dvReg 0x001).setWidth 64
  | 0x0B => BitVec.ofNat 64 (bits (s.dvReg 0x002) 0 16)
  | 0x0C => BitVec.ofNat 64 (bits (s.dvReg 0x002) 16 16)
  | 0x0D => BitVec.ofNat 64 (bits (s.dvReg 0x003) 0 16)
  | 0x0E => g.waveBase slot k.idx
  | _ => g.teamBase slot

/-- `MOVS` (R211): with K = 0 each thread's own value, with K = 1 that of the lowest thread; codes 0x0E and 0x0F give a pair. -/
def execMovs (d : BitVec 6) (c : BitVec 8) (k : BitVec 1) (s : State) : Host.Outcome State Fault Refusal :=
  issue (.movs d c k) s fun x s =>
    match x.a with
    | .cp _ => .raise Cause.illegal s
    | .wave wk =>
      let v (l : Nat) : DWord := s.special wk l c.toNat
      let wide := decide (14 ≤ c.toNat)
      x.finish s
        (if k = 0 then
          if wide then x.w.writePairs x.e d.toNat v else x.w.writeLanes x.e d.toNat fun l => loWord (v l)
         else if wide then x.w.setKpair d.toNat (v x.low) else x.w.setK d.toNat (loWord (v x.low)))

end Sys2Proof.Machine
end

