-- ==== Sys2Proof/Machine/Multiply.lean ====
section
/-! DEFINITION. Multiplication (R189): major 0x03, with the uniform forms. -/

namespace Sys2Proof.Machine

open Sys2Proof

/-- `IMUL` (R189). -/
def execImul (u : BitVec 1) (d a b : BitVec 5) (s : State) : Host.Outcome State Fault Refusal :=
  issue (.imul u d a b) s (plain u d.toNat fun r => r a.toNat * r b.toNat)

/-- `IMULH.i32` (R189): bits [63:32] of the signed product. -/
def execImulhI32 (u : BitVec 1) (d a b : BitVec 5) (s : State) : Host.Outcome State Fault Refusal :=
  issue (.imulhI32 u d a b) s (plain u d.toNat fun r => BitVec.ofInt 32 ((r a.toNat).toInt * (r b.toNat).toInt / 2 ^ 32))

/-- `IMULH.n32` (R189): bits [63:32] of the unsigned product. -/
def execImulhN32 (u : BitVec 1) (d a b : BitVec 5) (s : State) : Host.Outcome State Fault Refusal :=
  issue (.imulhN32 u d a b) s (plain u d.toNat fun r => BitVec.ofNat 32 ((r a.toNat).toNat * (r b.toNat).toNat / 2 ^ 32))

/-- `IMAD` (R189). -/
def execImad (u : BitVec 1) (d a b c : BitVec 5) (s : State) : Host.Outcome State Fault Refusal :=
  issue (.imad u d a b c) s (plain u d.toNat fun r => r a.toNat * r b.toNat + r c.toNat)

/-- `IMADW.i32` (R189): the signed product plus the c pair. -/
def execImadwI32 (u : BitVec 1) (d a b c : BitVec 5) (s : State) : Host.Outcome State Fault Refusal :=
  issue (.imadwI32 u d a b c) s (arithPair u d.toNat fun r => (r a.toNat).signExtend 64 * (r b.toNat).signExtend 64 + r.pair c.toNat)

/-- `IMADW.n32` (R189): the unsigned product plus the c pair. -/
def execImadwN32 (u : BitVec 1) (d a b c : BitVec 5) (s : State) : Host.Outcome State Fault Refusal :=
  issue (.imadwN32 u d a b c) s (arithPair u d.toNat fun r => (r a.toNat).setWidth 64 * (r b.toNat).setWidth 64 + r.pair c.toNat)

/-- `ISAD` (R189). -/
def execIsad (u : BitVec 1) (d a b c : BitVec 5) (s : State) : Host.Outcome State Fault Refusal :=
  issue (.isad u d a b c) s (plain u d.toNat fun r => absDiff (r a.toNat) (r b.toNat) + r c.toNat)

end Sys2Proof.Machine
end

