-- ==== Sys2Proof/Machine/Packed.lean ====
section
/-! DEFINITION. Packed narrow arithmetic (R206 to R208): major 0x09. -/

namespace Sys2Proof.Machine

open Sys2Proof

/-- `DOT4I8` (R206): modulo 2^32. -/
def execDot4i8 (d a b c : BitVec 5) (s : State) : Host.Outcome State Fault Refusal :=
  issue (.dot4i8 d a b c) s (laneOp d.toNat fun v => (BitVec.ofInt 32 (dotInt 8 4 (v a.toNat) (v b.toNat) (v c.toNat)), 0))

/-- `DOT4I8.sat` (R206). -/
def execDot4i8Sat (d a b c : BitVec 5) (s : State) : Host.Outcome State Fault Refusal :=
  issue (.dot4i8Sat d a b c) s (laneOp d.toNat fun v => satI32 (dotInt 8 4 (v a.toNat) (v b.toNat) (v c.toNat)))

/-- `DOT8I4` (R206): modulo 2^32. -/
def execDot8i4 (d a b c : BitVec 5) (s : State) : Host.Outcome State Fault Refusal :=
  issue (.dot8i4 d a b c) s (laneOp d.toNat fun v => (BitVec.ofInt 32 (dotInt 4 8 (v a.toNat) (v b.toNat) (v c.toNat)), 0))

/-- `DOT8I4.sat` (R206). -/
def execDot8i4Sat (d a b c : BitVec 5) (s : State) : Host.Outcome State Fault Refusal :=
  issue (.dot8i4Sat d a b c) s (laneOp d.toNat fun v => satI32 (dotInt 4 8 (v a.toNat) (v b.toNat) (v c.toNat)))

/-- `DOT4F8.e4m3` (R207). -/
def execDot4f8E4m3 (d a b c : BitVec 5) (s : State) : Host.Outcome State Fault Refusal :=
  issue (.dot4f8E4m3 d a b c) s (laneOp d.toNat fun v => dotF8 e4m3 (v a.toNat) (v b.toNat) (v c.toNat))

/-- `DOT4F8.e5m2` (R207). -/
def execDot4f8E5m2 (d a b c : BitVec 5) (s : State) : Host.Outcome State Fault Refusal :=
  issue (.dot4f8E5m2 d a b c) s (laneOp d.toNat fun v => dotF8 e5m2 (v a.toNat) (v b.toNat) (v c.toNat))

/-- `HFMA2` of bf16 (R208). -/
def execHfma2Bf16 (d a b c : BitVec 5) (s : State) : Host.Outcome State Fault Refusal :=
  issue (.hfma2Bf16 d a b c) s (laneOp d.toNat fun v => pairOp bf16 fun j =>
    ((bf16.read (elem 16 (v a.toNat) j)).mul (bf16.read (elem 16 (v b.toNat) j))).add .rn (bf16.read (elem 16 (v c.toNat) j)))

/-- `HFMA2` of fp16 (R208). -/
def execHfma2F16 (d a b c : BitVec 5) (s : State) : Host.Outcome State Fault Refusal :=
  issue (.hfma2F16 d a b c) s (laneOp d.toNat fun v => pairOp fp16 fun j =>
    ((fp16.read (elem 16 (v a.toNat) j)).mul (fp16.read (elem 16 (v b.toNat) j))).add .rn (fp16.read (elem 16 (v c.toNat) j)))

/-- `HADD2` of bf16 (R208). -/
def execHadd2Bf16 (d a b : BitVec 5) (s : State) : Host.Outcome State Fault Refusal :=
  issue (.hadd2Bf16 d a b) s (laneOp d.toNat fun v => pairOp bf16 fun j => (bf16.read (elem 16 (v a.toNat) j)).add .rn (bf16.read (elem 16 (v b.toNat) j)))

/-- `HADD2` of fp16 (R208). -/
def execHadd2F16 (d a b : BitVec 5) (s : State) : Host.Outcome State Fault Refusal :=
  issue (.hadd2F16 d a b) s (laneOp d.toNat fun v => pairOp fp16 fun j => (fp16.read (elem 16 (v a.toNat) j)).add .rn (fp16.read (elem 16 (v b.toNat) j)))

/-- `HMUL2` of bf16 (R208). -/
def execHmul2Bf16 (d a b : BitVec 5) (s : State) : Host.Outcome State Fault Refusal :=
  issue (.hmul2Bf16 d a b) s (laneOp d.toNat fun v => pairOp bf16 fun j => (bf16.read (elem 16 (v a.toNat) j)).mul (bf16.read (elem 16 (v b.toNat) j)))

/-- `HMUL2` of fp16 (R208). -/
def execHmul2F16 (d a b : BitVec 5) (s : State) : Host.Outcome State Fault Refusal :=
  issue (.hmul2F16 d a b) s (laneOp d.toNat fun v => pairOp fp16 fun j => (fp16.read (elem 16 (v a.toNat) j)).mul (fp16.read (elem 16 (v b.toNat) j)))

/-- `HMAX2` of bf16 (R208). -/
def execHmax2Bf16 (d a b : BitVec 5) (s : State) : Host.Outcome State Fault Refusal :=
  issue (.hmax2Bf16 d a b) s (laneOp d.toNat fun v => pairBits fun j => bf16.minmax false true (elem 16 (v a.toNat) j) (elem 16 (v b.toNat) j))

/-- `HMAX2` of fp16 (R208). -/
def execHmax2F16 (d a b : BitVec 5) (s : State) : Host.Outcome State Fault Refusal :=
  issue (.hmax2F16 d a b) s (laneOp d.toNat fun v => pairBits fun j => fp16.minmax false true (elem 16 (v a.toNat) j) (elem 16 (v b.toNat) j))

end Sys2Proof.Machine
end

