-- ==== Sys2Proof/Machine/Power.lean ====
section
/-! DEFINITION. The events of power management (R20, R72, R302 to R311, R405 to R416): gating, clock ratios, droop, buckets, the ramp
governor, heat and power intents. Time passes in `State.timeRef` (ticks of 1 ns) and in the clock counts of the clusters; an event that
comes at an interval is enabled once the interval has passed since the last one. -/

namespace Sys2Proof.Machine

open Sys2Proof

/-! Gating (R72, R415). -/

/-- No wave that the running contexts have on a core has a running group. -/
def State.coreIdle (s : State) (core : Nat) : Bool :=
  s.teams.all fun (k, t) => t.core ≠ core || t.saved || !s.running k.grid.ctx || !(t.waves.any Wave.busy)

/-- `CORE_GATE` (R72, R415): with CGATE set, a core without a running group for 4 µs is gated. Its store is retained; nothing is written
back. -/
def execCoreGate (core : Nat) (s : State) : Host.Outcome State Fault Refusal :=
  if 320 ≤ core then .fault (.noSuchUnit "CORE_GATE")
  else
    event "CORE_GATE" s fun s =>
      let c := s.core core
      if !c.gated && (s.pwReg 0).getLsbD 0 && s.coreIdle core && decide (c.busyAt + 4000 ≤ s.timeRef) then
        some (s.putCore core { c with gated := true })
      else none

/-- `CORE_WAKE` (R72): a gated core wakes when a wait of one of its waves has ended. The other causes wake it as they come: a lagoon access or an
acquire that reaches it, a team that is placed, and system software. -/
def execCoreWake (core : Nat) (s : State) : Host.Outcome State Fault Refusal :=
  if 320 ≤ core then .fault (.noSuchUnit "CORE_WAKE")
  else
    event "CORE_WAKE" s fun s =>
      if (s.core core).gated && !s.coreIdle core then some (s.wakeCore core) else none

/-- `CGATE_CLEAR` (R415): CGATE is cleared, and every gated core wakes. -/
def execCgateClear (s : State) : Host.Outcome State Fault Refusal :=
  event "CGATE_CLEAR" s fun s =>
    if (s.pwReg 0).getLsbD 0 then some (s.writePw 0 (s.pwReg 0 &&& ~~~1)) else none

/-! The clock ratio (R20, R307, R308). -/

/-- The request of a wave as it counts in the vote: in the active set only, and capped by its context's PCAP (R307, R308, R332). -/
def State.ratioRequest (s : State) (ctx : Nat) (w : Wave) : Nat :=
  if w.cls = .active && !w.done then min w.perf.toNat (bits (s.ctReg ctx 0) 4 2) else 0

/-- Weight of a setting on a cluster (R308). -/
def State.ratioWeight (s : State) (cluster r : Nat) : Nat :=
  s.teams.foldl
    (fun n (k, t) =>
      if clusterOf t.core = cluster && !t.saved then
        t.waves.foldl (fun n w => if s.ratioRequest k.grid.ctx w = r then n + w.issued else n) n
      else n)
    0

/-- The setting that a vote chooses (R308). -/
def ratioChoice (half equal double : Nat) (old : BitVec 2) : BitVec 2 :=
  if half = 0 && equal = 0 && double = 0 then old
  else
    let m := max half (max equal double)
    if equal = m || (half = m && double = m) then 2 else if half = m then 1 else 3

/-- `RATIO_VOTE` (R308): every 4 µs a cluster sets its ratio, and the count of issued instructions begins again. -/
def execRatioVote (cluster : Nat) (s : State) : Host.Outcome State Fault Refusal :=
  if 80 ≤ cluster then .fault (.noSuchUnit "RATIO_VOTE")
  else
    event "RATIO_VOTE" s fun s =>
      let c := s.cluster cluster
      if s.timeRef < c.voteAt + 4000 then none
      else
        let r := ratioChoice (s.ratioWeight cluster 1) (s.ratioWeight cluster 2) (s.ratioWeight cluster 3) c.ratio
        let s := s.putCluster cluster { c with ratio := r, voteAt := c.voteAt + 4000 }
        some { s with teams := s.teams.map (fun (p : TeamKey × Team) =>
          if clusterOf p.2.core = cluster then
            (p.1, { p.2 with waves := p.2.waves.map (fun (w : Wave) => { w with issued := 0 }) })
          else p) }

/-! Droop (R309, R413). -/

/-- A reading lies above the threshold; for 1 µs after a write, above the old one is a trip as well (R413). -/
def State.droopAbove (s : State) (mv : Nat) : Bool :=
  decide (bits (s.pwReg 5) 0 7 < mv) || s.droopOld.any fun q => decide (s.timeRef < q.2) && decide (q.1 < mv)

/-- The 6 lclk that follow a trip are stretched (R309): those after the one in progress, which ends with the fclk in progress or, in the half setting,
with the fclk that completes it. A stretch in progress goes on, to 6 lclk after the trip. -/
def Cluster.trip (c : Cluster) (now : Nat) : Cluster :=
  let c := { c with
    halved := if c.halfIssue then 66 else 65, trips := c.trips.filter (fun t => decide (now < t + 16000)) ++ [now] }
  if c.stretched then { c with stretch := 6 + (if c.ratio = 3 then 2 else 1) }
  else { c with stretch := 6, stretchAt := if c.ratio = 1 then c.cyc + 2 - c.cyc % 2 else c.cyc + 1 }

/-- `DROOP_TRIP` (R309): the next 6 lclk are stretched, and issue is halved for the 64 fclk after them. -/
def execDroopTrip (cluster mv : Nat) (s : State) : Host.Outcome State Fault Refusal :=
  if 80 ≤ cluster then .fault (.noSuchUnit "DROOP_TRIP")
  else
    event "DROOP_TRIP" s fun s =>
      let c := s.cluster cluster
      if s.droopAbove mv then some (s.putCluster cluster (c.trip s.timeRef)) else none

/-- `DROOP_ISSUE_END` (R309): the 64 fclk after the last stretched lclk have passed. -/
def execDroopIssueEnd (cluster : Nat) (s : State) : Host.Outcome State Fault Refusal :=
  if 80 ≤ cluster then .fault (.noSuchUnit "DROOP_ISSUE_END")
  else
    event "DROOP_ISSUE_END" s fun s =>
      let c := s.cluster cluster
      if c.stretch = 0 && c.halved = 1 then some (s.putCluster cluster { c with halved := 0 }) else none

/-! Buckets (R304, R407). -/

/-- Grants for requests, in order, out of a bucket: in full when it holds their sum, else in proportion, rounded down, the remainder to
the first that can take it (R407). -/
def grants (bucket : Nat) (wants : List Nat) : List Nat :=
  let total := wants.foldl (· + ·) 0
  if total ≤ bucket then wants
  else
    let base := wants.map fun w => bucket * w / total
    let left := bucket - base.foldl (· + ·) 0
    ((wants.zip base).foldl
      (fun (p : List Nat × Nat) q =>
        let x := min p.2 (q.1 - q.2)
        (p.1 ++ [q.2 + x], p.2 - x))
      ([], left)).1

/-- The position of the lowest share, the lower quarter on a tie. -/
def lowestShare (sh : List Int) : Nat :=
  (List.range sh.length).foldl (fun b j => if sh[j]?.getD 0 < sh[b]?.getD 0 then j else b) 0

/-- Give n tokens one at a time, each to the share that is then lowest (R304). -/
def giveLowest (sh : List Int) : Nat → List Int
  | 0 => sh
  | n + 1 => giveLowest (sh.modify (lowestShare sh) (· + 1)) n

/-- A grant divided among four shares (R304): a quarter each, the rest to the lowest, and what exceeds 16,384 passes to the lowest. R304 gives no
order among these: the excess passes on after the rest is given, from the lower quarter first (DESIGN CHOICE, log entry 64). -/
def divideGrant (sh : List Int) (g : Nat) : List Int :=
  let sh := giveLowest (sh.map (· + ((g / 4 : Nat) : Int))) (g % 4)
  (List.range 16).foldl
    (fun sh j =>
      let excess := sh[j % 4]?.getD 0 - 16384
      if excess ≤ 0 then sh
      else
        let sh := sh.set (j % 4) 16384
        sh.modify (lowestShare sh) (· + excess))
    sh

/-- What would raise the sum of a core's shares to 65,536 (R407); a gated core draws nothing (R408). -/
def Core.deficitTokens (c : Core) : Nat := if c.gated then 0 else (65536 - c.shares.foldl (· + ·) 0).toNat

/-- The enabled cores of a die whose 64 fclk have passed. -/
def State.dueCores (s : State) (die : Nat) : List Nat :=
  (List.range 320).filter fun c =>
    dieOf c = die && s.sec.enabled.getLsbD c && decide ((s.core c).refillAt + 64 ≤ (s.cluster (clusterOf c)).cyc)

/-- Charges of the ticks that the package bucket has reached leave it (R408). -/
def State.payDue (s : State) : State :=
  { s with
    pkg := s.pkg - (s.pkgDue.filter fun q => decide (q.1 ≤ s.pkgAt)).foldl (fun n q => n + q.2) 0
    pkgDue := s.pkgDue.filter fun q => decide (s.pkgAt < q.1) }

/-- `CORE_REFILL` (R304, R407): the die bucket serves the cores that draw in this tick. -/
def execCoreRefill (core : Nat) (s : State) : Host.Outcome State Fault Refusal :=
  if 320 ≤ core then .fault (.noSuchUnit "CORE_REFILL")
  else
    event "CORE_REFILL" s fun s =>
      let d := dieOf core
      let due := s.dueCores d
      if !s.ready || !due.contains core then none
      else
        let x := s.die d
        let gs := grants x.bucket (due.map fun c => (s.core c).deficitTokens)
        let s := s.putDie d { x with bucket := x.bucket - gs.foldl (· + ·) 0 }
        some ((due.zip gs).foldl
          (fun s (c, g) =>
            let y := s.core c
            s.putCore c { y with shares := divideGrant y.shares g, refillAt := y.refillAt + 64 })
          s)

/-- `DIE_REFILL` (R407, R408): the package bucket serves the dies whose 16 ticks have passed, once every charge of that tick has been made. -/
def execDieRefill (die : Nat) (s : State) : Host.Outcome State Fault Refusal :=
  if 4 ≤ die then .fault (.noSuchUnit "DIE_REFILL")
  else
    event "DIE_REFILL" s fun s =>
      let due := (List.range 4).filter fun d => decide ((s.die d).drawAt + 16 ≤ s.pkgAt)
      if !s.ready || !due.contains die || decide (s.timeRef ≤ s.pkgAt) then none
      else
        let s := s.payDue
        let gs := grants s.pkg (due.map fun d => 0x400000 - (s.die d).bucket)
        let s : State := { s with pkg := s.pkg - gs.foldl (· + ·) 0 }
        some ((due.zip gs).foldl
          (fun s (d, g) =>
            let x := s.die d
            s.putDie d { x with bucket := x.bucket + g, drawAt := x.drawAt + 16 })
          s)

/-- The package bucket can gain the tokens of some ticks together (R407, R408): no die is to draw, no charge is to be paid, and RATE does not change,
before they are over. -/
def State.refillable (s : State) (ticks : Nat) : Bool :=
  s.ready && decide (ticks ≠ 0) && decide (s.pkgAt + ticks ≤ s.timeRef) && decide (s.pkgAt + ticks ≤ s.govAt + 1000) &&
    (s.dies.all fun d => decide (s.pkgAt + ticks ≤ d.drawAt + 16)) && s.pkgDue.all fun q => decide (q.1 ≤ s.pkgAt) || decide (s.pkgAt + ticks ≤ q.1)

/-- `PACKAGE_REFILL` (R407): the package bucket gains RATE / 1,000 tokens per tick, up to 2^24. -/
def execPackageRefill (ticks : Nat) (s : State) : Host.Outcome State Fault Refusal :=
  event "PACKAGE_REFILL" s fun s =>
    if s.refillable ticks then
      some { s.payDue with pkg := min 0x1000000 (s.payDue.pkg + s.rate * ticks / 1000), pkgAt := s.pkgAt + ticks }
    else none

/-! The governor (R310, R311, R409 to R411). -/

/-- The budget in tokens per µs (R409). -/
def State.budget (s : State) : Nat := bits (s.pwReg 1) 0 12 * 1000000

/-- One slew step (R409). -/
def State.slewStep (s : State) : Nat := bits (s.pwReg 2) 0 10 * bits (s.pwReg 1) 0 12 * 100

/-- The reserve in mJ (R310). -/
def State.reserve (s : State) : Nat := bits (s.pwReg 0x00B) 0 14

/-- The target T (R409): the demand, limited by the budget and by the boost while the reserve and the time above the budget permit it. -/
def State.govTarget (s : State) (demand : Nat) (boost : Bool) : Nat :=
  let b := if boost && decide (1000 < s.reserve) && decide (s.above < 2000) then bits (s.pwReg 4) 0 12 * 1000000 else 0
  min demand (s.budget + b)

/-- The time at which a rise of the own plan begins (R416): in the module's slot of its interval, and as many slots later as it is delayed. -/
def State.riseStart (s : State) (x : Rise) : Nat := x.since + (bits (s.pwReg 0x010) 16 16 % 16 + x.delay) * 1250

/-- A rise of the rate may have begun (R416): at once without intents, and where the plan holds none for the present interval and an earlier one is
not outstanding; else in the slot of such a rise. -/
def State.riseBegun (s : State) : Bool :=
  !s.intentsOn || s.rises.isEmpty || s.rises.any fun x => decide (s.riseStart x ≤ s.timeRef)

/-- The rate after a step (R409). -/
def State.govRate (s : State) (demand : Nat) (boost : Bool) : Nat :=
  let t := s.govTarget demand boost
  let r := s.rate
  if r ≤ t then (if s.riseBegun then min t (r + s.slewStep) else r) else max t (r - s.slewStep)

/-- RATE is set, and `PW_RATE` shows it; what the register reads beyond 32 bits is stated by no rule (R406, R409, DESIGN CHOICE, log entry 3). -/
def State.setRate (s : State) (n : Nat) : State :=
  let (w, s) := if n < 2 ^ 32 then (BitVec.ofNat 32 n, s) else s.free
  { s.setPwReg 3 w with rate := n }

/-- The sample of the reserve (R310): it falls while the package draws more than 2,400 W, else it recharges, by amounts that no rule
states. -/
def State.sampleReserve (s : State) : State :=
  let (x, s) := s.free
  let (v, s) := s.free
  let old := s.reserve
  let new := if 2400000000 < s.rate then old - x.toNat % (old + 1) else old + x.toNat % (12000 - old + 1)
  s.setPwReg 0x00B (BitVec.ofNat 32 (new + 65536 * (v.toNat % 4096)))

/-- A reserve that reaches 0, from `before`, sets RATE to the budget at once; while it is empty RATE does not stay above the budget (R409, R411). -/
def State.reserveEmpty (s : State) (before : Nat) : State :=
  if s.reserve = 0 then s.setRate (if before = 0 then min s.rate s.budget else s.budget) else s

/-- The declared range has a page that prefetch may read (R411): in this module's DRAM and outside the reserved rows. -/
def State.prefetchable (s : State) : Bool :=
  let base := bits (s.pwReg 0x00D) 12 20 + bits (s.pwReg 0x00E) 0 14 * 2 ^ 20
  (List.range (bits (s.pwReg 0x00F) 0 20)).any fun j =>
    match physKind (4096 * (base + j)) with
    | .dram x => decide (x < usableTop) && decide (shoalOffset x < reservedRows)
    | _ => false

/-- Ballast has work in a trough (R311, R411): scrubbing, lane self-test, or prefetch of a declared range, as `PW_CTL` enables them. -/
def State.ballasts (s : State) : Bool := decide (bits (s.pwReg 0) 1 2 ≠ 0) || ((s.pwReg 0).getLsbD 3 && s.prefetchable)

/-- `GOVERNOR_STEP` (R310, R311, R409 to R411): each µs, once the package bucket has gained up to it, with the demand of the dies, whether boost is
asked for, and the DRAM rows scrubbed as ballast, which needs a trough and SCRUB. What ballast of any kind takes in a trough is charged to the package
bucket. A prefetch fills lines of the LLC and may evict others, which are written back: no value changes (R311). -/
def execGovernorStep (demand : Nat) (boost : Bool) (scrubbed : Nat) (s : State) : Host.Outcome State Fault Refusal :=
  event "GOVERNOR_STEP" s fun s =>
    let trough := decide (s.govTarget demand boost + s.slewStep < s.rate)
    if !s.ready || decide (s.timeRef < s.govAt + 1000) || decide (s.pkgAt < s.govAt + 1000) || (decide (scrubbed ≠ 0) && !(trough && (s.pwReg 0).getLsbD 1)) then none
    else
      let s := s.setRate (s.govRate demand boost)
      let s : State := { s with govAt := s.govAt + 1000, above := if s.budget < s.rate then s.above + 1 else 0 }
      let s := if trough && s.ballasts then s.chargeOpen else s
      let s := if scrubbed = 0 then s
        else s.setPwReg 0x00C (BitVec.ofNat 32 (min 0xFFFFFFFF ((s.pwReg 0x00C).toNat + scrubbed)))
      some (s.sampleReserve.reserveEmpty s.reserve)

/-- `CAPACITOR_RESERVE_EXHAUSTED` (R310, R409): the reserve, which falls while the package draws more than 2,400 W, reaches 0, and RATE is set to the
budget at once; the package bucket has gained up to then. -/
def execCapacitorReserveExhausted (s : State) : Host.Outcome State Fault Refusal :=
  event "CAPACITOR_RESERVE_EXHAUSTED" s fun s =>
    if !s.ready || decide (s.reserve = 0) || decide (s.rate ≤ 2400000000) || decide (s.pkgAt ≠ s.timeRef) then none
    else some ((s.setPwReg 0x00B (setBits (s.pwReg 0x00B) 0 14 0)).setRate s.budget)

/-! Heat (R406, R414). -/

/-- The heat of a cluster's cores (R414). -/
def State.heatOf (s : State) (temp : Nat) (c : Cluster) : Nat :=
  let cfg := s.pwReg 6
  min 7 ((temp - bits cfg 0 8) / bits cfg 8 4 + min 3 (c.trips.filter fun t => decide (s.timeRef < t + 16000)).length)

/-- The hottest cluster of a die and its temperature (R406), the lowest number on a tie (DESIGN CHOICE, log entry 3). -/
def State.hottest (s : State) (d : Nat) : Nat × Nat :=
  (List.range 20).foldl (fun (b : Nat × Nat) i => let t := (s.cluster (20 * d + i)).temp; if b.2 < t then (i, t) else b)
    (0, (s.cluster (20 * d)).temp)

/-- `HEAT_UPDATE` (R356, R406, R414): each µs the heat of a cluster's cores is computed from its temperature. -/
def execHeatUpdate (cluster temp : Nat) (s : State) : Host.Outcome State Fault Refusal :=
  if 80 ≤ cluster || 256 ≤ temp then .fault (.noSuchUnit "HEAT_UPDATE")
  else
    event "HEAT_UPDATE" s fun s =>
      let c := s.cluster cluster
      if s.timeRef < c.heatAt + 1000 then none
      else
        let h := s.heatOf temp c
        let s := s.putCluster cluster { c with temp := temp, heatAt := c.heatAt + 1000 }
        let s := (List.range 4).foldl (fun s j => let i := 4 * cluster + j; s.putCore i { s.core i with heat := h }) s
        let (i, t) := s.hottest (cluster / 20)
        some (s.setPwReg (0x007 + cluster / 20) (BitVec.ofNat 32 (t + 256 * i)))

/-! Power intents (R416). -/

/-- A plan holds a rise for interval j, after the rate of the interval before. -/
def risesAt (before : Nat) (plan : List Word) (j : Nat) : Bool :=
  decide ((if j = 0 then before else (wordOf plan (j - 1))) < wordOf plan j)
where
  wordOf (p : List Word) (j : Nat) : Nat := (p[j]?.getD 0).toNat

/-- A received intent of a module with a lower chip number announces a rise that begins at a time (R416). -/
def State.clashes (s : State) (t : Nat) (h : Heard) : Bool :=
  decide (h.intent.chip.toNat < bits (s.dvReg 1) 0 18) && (List.range 5).any fun k =>
    risesAt h.before h.intent.plan k && decide (s.intentAt + 20000 * k + h.intent.rank.toNat % 16 * 1250 = t + 20000 * h.age)

/-- A rise that has not begun is delayed, one slot after another, until no received intent announces one in its slot, by at most 15 slots in all
(R416). -/
def State.delayed (s : State) (x : Rise) : Nat → Rise
  | 0 => x
  | n + 1 =>
    if decide (x.delay < 15) && decide (s.timeRef ≤ s.riseStart x) && s.intents.any (s.clashes (s.riseStart x)) then
      s.delayed { x with delay := x.delay + 1 } n
    else x

/-- The own rises are delayed. -/
def State.delayRises (s : State) : State := { s with rises := s.rises.map fun x => s.delayed x 15 }

/-- `POWER_INTENT_SEND` (R416): every 20 µs, with EN set, an intent leaves on each strait that is up. The interval that begins then is the first of
its plan, and the next one of what was received. A rise of the interval before that was delayed beyond it is still to begin. -/
def execPowerIntentSend (plan : List Word) (s : State) : Host.Outcome State Fault Refusal :=
  event "POWER_INTENT_SEND" s fun s =>
    if !s.intentsOn || plan.length ≠ 5 || decide (s.timeRef < s.intentAt + 20000) then none
    else
      let i : Intent := { chip := BitVec.ofNat 18 (bits (s.dvReg 1) 0 18), rank := BitVec.ofNat 16 (bits (s.pwReg 0x010) 16 16),
                          seq := s.intentSeq, plan := plan }
      let ports := (List.range 6).filter fun p => (s.dvReg 0x013).getLsbD p
      let s : State := { s.chargeOpen with
        out := s.out ++ ports.map fun p => .intent p i,
        intents := s.intents.map fun (h : Heard) => { h with age := h.age + 1 },
        intentSeq := s.intentSeq + 1, intentAt := s.intentAt + 20000, plan := plan,
        rises := (s.rises.filter fun x => decide (s.timeRef < s.riseStart x)) ++ if risesAt s.rate plan 0 then [{ since := s.intentAt + 20000 }] else [] }
      some s.delayRises

/-- An intent as it is heard on a port: the rate that it rises from is the one that the port's intent before it planned for the interval before its
first one. -/
def State.hear (s : State) (port : Nat) (i : Intent) : Heard :=
  let before : Nat :=
    match s.intents.find? fun h => h.port = port with
    | some h => (h.intent.plan[(i.seq - h.intent.seq).toNat - 1]?.getD 0).toNat
    | none => 0
  { port := port, before := before, intent := i }

/-- `POWER_INTENT_RECEIVE` (R416): a received intent that announces a rise in the slot of the own rise delays the module with the higher
chip number by one slot, at most 15 in all; with EN = 0 it is discarded. -/
def execPowerIntentReceive (port : Nat) (i : Intent) (s : State) : Host.Outcome State Fault Refusal :=
  if 6 ≤ port then .fault (.noSuchUnit "POWER_INTENT_RECEIVE")
  else
    event "POWER_INTENT_RECEIVE" s fun s =>
      if !(s.dvReg 0x013).getLsbD port then none
      else if !s.intentsOn then some s
      else
        let s : State := { s with intents := (s.intents.filter fun h => h.port ≠ port) ++ [s.hear port i] }
        some s.delayRises

end Sys2Proof.Machine
end

