-- ==== Sys2Proof/Machine/Short16.lean ====
section
/-! DEFINITION. The 16-bit forms (R155, R156): each is the 32-bit form with the first source equal to d. -/

namespace Sys2Proof.Machine

open Sys2Proof

/-- `MOV` (R156). -/
def execMov16 (d : BitVec 5) (b : BitVec 6) (s : State) : Host.Outcome State Fault Refusal :=
  issue (.mov16 d b) s (laneOp d.toNat fun r => (r b.toNat, 0))

/-- `MOVI` (R156): the immediate, sign-extended. -/
def execMovi16 (d : BitVec 5) (ix : BitVec 6) (s : State) : Host.Outcome State Fault Refusal :=
  issue (.movi16 d ix) s (laneOp d.toNat fun _ => (ix.signExtend 32, 0))

/-- `IADD` (R156, R186). -/
def execIadd16 (d : BitVec 5) (b : BitVec 6) (s : State) : Host.Outcome State Fault Refusal :=
  issue (.iadd16 d b) s (laneOp d.toNat fun r => (r d.toNat + r b.toNat, 0))

/-- `IADDI` (R156, R188). -/
def execIaddi16 (d : BitVec 5) (ix : BitVec 6) (s : State) : Host.Outcome State Fault Refusal :=
  issue (.iaddi16 d ix) s (laneOp d.toNat fun r => (r d.toNat + ix.signExtend 32, 0))

/-- `ISUB` (R156, R186). -/
def execIsub16 (d : BitVec 5) (b : BitVec 6) (s : State) : Host.Outcome State Fault Refusal :=
  issue (.isub16 d b) s (laneOp d.toNat fun r => (r d.toNat - r b.toNat, 0))

/-- `AND` (R156, R186). -/
def execAnd16 (d : BitVec 5) (b : BitVec 6) (s : State) : Host.Outcome State Fault Refusal :=
  issue (.and16 d b) s (laneOp d.toNat fun r => (r d.toNat &&& r b.toNat, 0))

/-- `OR` (R156, R186). -/
def execOr16 (d : BitVec 5) (b : BitVec 6) (s : State) : Host.Outcome State Fault Refusal :=
  issue (.or16 d b) s (laneOp d.toNat fun r => (r d.toNat ||| r b.toNat, 0))

/-- `XOR` (R156, R186). -/
def execXor16 (d : BitVec 5) (b : BitVec 6) (s : State) : Host.Outcome State Fault Refusal :=
  issue (.xor16 d b) s (laneOp d.toNat fun r => (r d.toNat ^^^ r b.toNat, 0))

/-- `SHLI` (R156, R188). -/
def execShli16 (d ix : BitVec 5) (s : State) : Host.Outcome State Fault Refusal :=
  issue (.shli16 d ix) s (laneOp d.toNat fun r => (shlW (r d.toNat) (ix.setWidth 32), 0))

/-- `SHRI` (R156, R188). -/
def execShri16 (d ix : BitVec 5) (s : State) : Host.Outcome State Fault Refusal :=
  issue (.shri16 d ix) s (laneOp d.toNat fun r => (shrW (r d.toNat) (ix.setWidth 32), 0))

/-- `SARI` (R156, R188). -/
def execSari16 (d ix : BitVec 5) (s : State) : Host.Outcome State Fault Refusal :=
  issue (.sari16 d ix) s (laneOp d.toNat fun r => (sarW (r d.toNat) (ix.setWidth 32), 0))

/-- `FADD.rn` (R156, R194). -/
def execFadd16 (d : BitVec 5) (b : BitVec 6) (s : State) : Host.Outcome State Fault Refusal :=
  issue (.fadd16 d b) s (laneOp d.toNat fun r => fadd false .rn (r d.toNat) (r b.toNat))

/-- `FSUB.rn` (R156, R194). -/
def execFsub16 (d : BitVec 5) (b : BitVec 6) (s : State) : Host.Outcome State Fault Refusal :=
  issue (.fsub16 d b) s (laneOp d.toNat fun r => fsub false .rn (r d.toNat) (r b.toNat))

/-- `FMUL.rn` (R156, R194). -/
def execFmul16 (d : BitVec 5) (b : BitVec 6) (s : State) : Host.Outcome State Fault Refusal :=
  issue (.fmul16 d b) s (laneOp d.toNat fun r => fmul false .rn (r d.toNat) (r b.toNat))

/-- `FMAX` (R156, R195). -/
def execFmax16 (d : BitVec 5) (b : BitVec 6) (s : State) : Host.Outcome State Fault Refusal :=
  issue (.fmax16 d b) s (laneOp d.toNat fun r => fminmax false true (r d.toNat) (r b.toNat))

/-- `FMIN` (R156, R195). -/
def execFmin16 (d : BitVec 5) (b : BitVec 6) (s : State) : Host.Outcome State Fault Refusal :=
  issue (.fmin16 d b) s (laneOp d.toNat fun r => fminmax false false (r d.toNat) (r b.toNat))

end Sys2Proof.Machine
end

