-- ==== Sys2Proof/Machine/SpecialFn.lean ====
section
/-! DEFINITION. Special functions (R199, R200): major 0x07; bit [7] is FTZ. -/

namespace Sys2Proof.Machine

open Sys2Proof

/-- `FRCP` (R199, R200). -/
def execFrcp (z : BitVec 1) (d a : BitVec 6) (s : State) : Host.Outcome State Fault Refusal :=
  issue (.frcp z d a) s (laneOp d.toNat fun v => special .rcp (ftzBit z) (v a.toNat))

/-- `FRSQ` (R199, R200). -/
def execFrsq (z : BitVec 1) (d a : BitVec 6) (s : State) : Host.Outcome State Fault Refusal :=
  issue (.frsq z d a) s (laneOp d.toNat fun v => special .rsq (ftzBit z) (v a.toNat))

/-- `FSQRT` (R199, R200). -/
def execFsqrt (z : BitVec 1) (d a : BitVec 6) (s : State) : Host.Outcome State Fault Refusal :=
  issue (.fsqrt z d a) s (laneOp d.toNat fun v => special .sqrt (ftzBit z) (v a.toNat))

/-- `FEX2` (R199, R200). -/
def execFex2 (z : BitVec 1) (d a : BitVec 6) (s : State) : Host.Outcome State Fault Refusal :=
  issue (.fex2 z d a) s (laneOp d.toNat fun v => special .ex2 (ftzBit z) (v a.toNat))

/-- `FLG2` (R199, R200). -/
def execFlg2 (z : BitVec 1) (d a : BitVec 6) (s : State) : Host.Outcome State Fault Refusal :=
  issue (.flg2 z d a) s (laneOp d.toNat fun v => special .lg2 (ftzBit z) (v a.toNat))

/-- `FSIN` (R199, R200). -/
def execFsin (z : BitVec 1) (d a : BitVec 6) (s : State) : Host.Outcome State Fault Refusal :=
  issue (.fsin z d a) s (laneOp d.toNat fun v => special .sin (ftzBit z) (v a.toNat))

/-- `FCOS` (R199, R200). -/
def execFcos (z : BitVec 1) (d a : BitVec 6) (s : State) : Host.Outcome State Fault Refusal :=
  issue (.fcos z d a) s (laneOp d.toNat fun v => special .cos (ftzBit z) (v a.toNat))

/-- `FTANH` (R199, R200). -/
def execFtanh (z : BitVec 1) (d a : BitVec 6) (s : State) : Host.Outcome State Fault Refusal :=
  issue (.ftanh z d a) s (laneOp d.toNat fun v => special .tanh (ftzBit z) (v a.toNat))

end Sys2Proof.Machine
end

