-- ==== Sys2Proof/Machine/Dispatch.lean ====
section
/-! DEFINITION. The dispatch of every constructor of Instr to its meaning, one arm per row of the opcode table. -/

namespace Sys2Proof.Machine

open Sys2Proof

def exec (i : Instr) (s : State) : Host.Outcome State Fault Refusal :=
  match i with
  | .mov16 d b => Sys2Proof.Machine.execMov16 d b s
  | .movi16 d ix => Sys2Proof.Machine.execMovi16 d ix s
  | .iadd16 d b => Sys2Proof.Machine.execIadd16 d b s
  | .iaddi16 d ix => Sys2Proof.Machine.execIaddi16 d ix s
  | .isub16 d b => Sys2Proof.Machine.execIsub16 d b s
  | .and16 d b => Sys2Proof.Machine.execAnd16 d b s
  | .or16 d b => Sys2Proof.Machine.execOr16 d b s
  | .xor16 d b => Sys2Proof.Machine.execXor16 d b s
  | .shli16 d ix => Sys2Proof.Machine.execShli16 d ix s
  | .shri16 d ix => Sys2Proof.Machine.execShri16 d ix s
  | .sari16 d ix => Sys2Proof.Machine.execSari16 d ix s
  | .fadd16 d b => Sys2Proof.Machine.execFadd16 d b s
  | .fsub16 d b => Sys2Proof.Machine.execFsub16 d b s
  | .fmul16 d b => Sys2Proof.Machine.execFmul16 d b s
  | .fmax16 d b => Sys2Proof.Machine.execFmax16 d b s
  | .fmin16 d b => Sys2Proof.Machine.execFmin16 d b s
  | .iadd u d a b => Sys2Proof.Machine.execIadd u d a b s
  | .iaddSatI32 u d a b => Sys2Proof.Machine.execIaddSatI32 u d a b s
  | .iaddSatN32 u d a b => Sys2Proof.Machine.execIaddSatN32 u d a b s
  | .iaddc u d a b => Sys2Proof.Machine.execIaddc u d a b s
  | .isub u d a b => Sys2Proof.Machine.execIsub u d a b s
  | .isubSatI32 u d a b => Sys2Proof.Machine.execIsubSatI32 u d a b s
  | .isubSatN32 u d a b => Sys2Proof.Machine.execIsubSatN32 u d a b s
  | .isubb u d a b => Sys2Proof.Machine.execIsubb u d a b s
  | .ineg u d a => Sys2Proof.Machine.execIneg u d a s
  | .inegSat u d a => Sys2Proof.Machine.execInegSat u d a s
  | .iabs u d a => Sys2Proof.Machine.execIabs u d a s
  | .iabsSat u d a => Sys2Proof.Machine.execIabsSat u d a s
  | .iminI32 u d a b => Sys2Proof.Machine.execIminI32 u d a b s
  | .iminN32 u d a b => Sys2Proof.Machine.execIminN32 u d a b s
  | .imaxI32 u d a b => Sys2Proof.Machine.execImaxI32 u d a b s
  | .imaxN32 u d a b => Sys2Proof.Machine.execImaxN32 u d a b s
  | .andI u d a b => Sys2Proof.Machine.execAndI u d a b s
  | .orI u d a b => Sys2Proof.Machine.execOrI u d a b s
  | .xorI u d a b => Sys2Proof.Machine.execXorI u d a b s
  | .notI u d a => Sys2Proof.Machine.execNotI u d a s
  | .andn u d a b => Sys2Proof.Machine.execAndn u d a b s
  | .shl u d a b => Sys2Proof.Machine.execShl u d a b s
  | .shr u d a b => Sys2Proof.Machine.execShr u d a b s
  | .sar u d a b => Sys2Proof.Machine.execSar u d a b s
  | .rotl u d a b => Sys2Proof.Machine.execRotl u d a b s
  | .iadd64 u d a b => Sys2Proof.Machine.execIadd64 u d a b s
  | .trilog z d y a x b w t => Sys2Proof.Machine.execTrilog z d y a x b w t s
  | .iaddImm u d a ix => Sys2Proof.Machine.execIaddImm u d a ix s
  | .andImm u d a ix => Sys2Proof.Machine.execAndImm u d a ix s
  | .orImm u d a ix => Sys2Proof.Machine.execOrImm u d a ix s
  | .xorImm u d a ix => Sys2Proof.Machine.execXorImm u d a ix s
  | .shlImm u d a ix => Sys2Proof.Machine.execShlImm u d a ix s
  | .shrImm u d a ix => Sys2Proof.Machine.execShrImm u d a ix s
  | .sarImm u d a ix => Sys2Proof.Machine.execSarImm u d a ix s
  | .rotlImm u d a ix => Sys2Proof.Machine.execRotlImm u d a ix s
  | .imul u d a b => Sys2Proof.Machine.execImul u d a b s
  | .imulhI32 u d a b => Sys2Proof.Machine.execImulhI32 u d a b s
  | .imulhN32 u d a b => Sys2Proof.Machine.execImulhN32 u d a b s
  | .imad u d a b c => Sys2Proof.Machine.execImad u d a b c s
  | .imadwI32 u d a b c => Sys2Proof.Machine.execImadwI32 u d a b c s
  | .imadwN32 u d a b c => Sys2Proof.Machine.execImadwN32 u d a b c s
  | .isad u d a b c => Sys2Proof.Machine.execIsad u d a b c s
  | .bfxN32 u d a b => Sys2Proof.Machine.execBfxN32 u d a b s
  | .bfxI32 u d a b => Sys2Proof.Machine.execBfxI32 u d a b s
  | .bfi u d a b c => Sys2Proof.Machine.execBfi u d a b c s
  | .popc u d a => Sys2Proof.Machine.execPopc u d a s
  | .clz u d a => Sys2Proof.Machine.execClz u d a s
  | .ctz u d a => Sys2Proof.Machine.execCtz u d a s
  | .brev u d a => Sys2Proof.Machine.execBrev u d a s
  | .shfL u d a b c => Sys2Proof.Machine.execShfL u d a b c s
  | .shfR u d a b c => Sys2Proof.Machine.execShfR u d a b c s
  | .icmpEqI32 d a b => Sys2Proof.Machine.execIcmpEqI32 d a b s
  | .fcmpEq d a b => Sys2Proof.Machine.execFcmpEq d a b s
  | .plogAnd d a b => Sys2Proof.Machine.execPlogAnd d a b s
  | .plogOr d a b => Sys2Proof.Machine.execPlogOr d a b s
  | .plogXor d a b => Sys2Proof.Machine.execPlogXor d a b s
  | .plogAndn d a b => Sys2Proof.Machine.execPlogAndn d a b s
  | .plogOrn d a b => Sys2Proof.Machine.execPlogOrn d a b s
  | .plogXnor d a b => Sys2Proof.Machine.execPlogXnor d a b s
  | .sel d a b p => Sys2Proof.Machine.execSel d a b p s
  | .fadd z d a b r => Sys2Proof.Machine.execFadd z d a b r s
  | .fsub z d a b r => Sys2Proof.Machine.execFsub z d a b r s
  | .fmul z d a b r => Sys2Proof.Machine.execFmul z d a b r s
  | .ffmaRn z d a b c => Sys2Proof.Machine.execFfmaRn z d a b c s
  | .ffmaRz z d a b c => Sys2Proof.Machine.execFfmaRz z d a b c s
  | .ffmaRu z d a b c => Sys2Proof.Machine.execFfmaRu z d a b c s
  | .ffmaRd z d a b c => Sys2Proof.Machine.execFfmaRd z d a b c s
  | .fmin z d a b => Sys2Proof.Machine.execFmin z d a b s
  | .fmax z d a b => Sys2Proof.Machine.execFmax z d a b s
  | .frnd z d a r => Sys2Proof.Machine.execFrnd z d a r s
  | .fclass d a => Sys2Proof.Machine.execFclass d a s
  | .fscale z d a b r => Sys2Proof.Machine.execFscale z d a b r s
  | .frcp z d a => Sys2Proof.Machine.execFrcp z d a s
  | .frsq z d a => Sys2Proof.Machine.execFrsq z d a s
  | .fsqrt z d a => Sys2Proof.Machine.execFsqrt z d a s
  | .fex2 z d a => Sys2Proof.Machine.execFex2 z d a s
  | .flg2 z d a => Sys2Proof.Machine.execFlg2 z d a s
  | .fsin z d a => Sys2Proof.Machine.execFsin z d a s
  | .fcos z d a => Sys2Proof.Machine.execFcos z d a s
  | .ftanh z d a => Sys2Proof.Machine.execFtanh z d a s
  | .f2iI8 d a r => Sys2Proof.Machine.execF2iI8 d a r s
  | .i2fI8 d a r => Sys2Proof.Machine.execI2fI8 d a r s
  | .i2iI8 d a y x => Sys2Proof.Machine.execI2iI8 d a y x s
  | .i2iI16 d a y x => Sys2Proof.Machine.execI2iI16 d a y x s
  | .i2iI32 d a y x => Sys2Proof.Machine.execI2iI32 d a y x s
  | .i2iN8 d a y x => Sys2Proof.Machine.execI2iN8 d a y x s
  | .i2iN16 d a y x => Sys2Proof.Machine.execI2iN16 d a y x s
  | .i2iN32 d a y x => Sys2Proof.Machine.execI2iN32 d a y x s
  | .fcvtBf16 d a r => Sys2Proof.Machine.execFcvtBf16 d a r s
  | .fcvtF16 d a r => Sys2Proof.Machine.execFcvtF16 d a r s
  | .fcvtE4m3 d a r => Sys2Proof.Machine.execFcvtE4m3 d a r s
  | .fcvtE5m2 d a r => Sys2Proof.Machine.execFcvtE5m2 d a r s
  | .fcvtE2m1 d a r => Sys2Proof.Machine.execFcvtE2m1 d a r s
  | .fcvtSrBf16 d a b => Sys2Proof.Machine.execFcvtSrBf16 d a b s
  | .fcvtSrF16 d a b => Sys2Proof.Machine.execFcvtSrF16 d a b s
  | .fcvtSrE4m3 d a b => Sys2Proof.Machine.execFcvtSrE4m3 d a b s
  | .fcvtSrE5m2 d a b => Sys2Proof.Machine.execFcvtSrE5m2 d a b s
  | .fcvtSrE2m1 d a b => Sys2Proof.Machine.execFcvtSrE2m1 d a b s
  | .fpkBf16 d a => Sys2Proof.Machine.execFpkBf16 d a s
  | .fpkF16 d a => Sys2Proof.Machine.execFpkF16 d a s
  | .fpkE4m3 d a => Sys2Proof.Machine.execFpkE4m3 d a s
  | .fpkE5m2 d a => Sys2Proof.Machine.execFpkE5m2 d a s
  | .fpkSrBf16 d a b => Sys2Proof.Machine.execFpkSrBf16 d a b s
  | .fpkSrF16 d a b => Sys2Proof.Machine.execFpkSrF16 d a b s
  | .fpkSrE4m3 d a b => Sys2Proof.Machine.execFpkSrE4m3 d a b s
  | .fpkSrE5m2 d a b => Sys2Proof.Machine.execFpkSrE5m2 d a b s
  | .funpkBf16 d a j => Sys2Proof.Machine.execFunpkBf16 d a j s
  | .funpkF16 d a j => Sys2Proof.Machine.execFunpkF16 d a j s
  | .funpkE4m3 d a j => Sys2Proof.Machine.execFunpkE4m3 d a j s
  | .funpkE5m2 d a j => Sys2Proof.Machine.execFunpkE5m2 d a j s
  | .funpkE2m1 d a j => Sys2Proof.Machine.execFunpkE2m1 d a j s
  | .dot4i8 d a b c => Sys2Proof.Machine.execDot4i8 d a b c s
  | .dot4i8Sat d a b c => Sys2Proof.Machine.execDot4i8Sat d a b c s
  | .dot8i4 d a b c => Sys2Proof.Machine.execDot8i4 d a b c s
  | .dot8i4Sat d a b c => Sys2Proof.Machine.execDot8i4Sat d a b c s
  | .dot4f8E4m3 d a b c => Sys2Proof.Machine.execDot4f8E4m3 d a b c s
  | .dot4f8E5m2 d a b c => Sys2Proof.Machine.execDot4f8E5m2 d a b c s
  | .hfma2Bf16 d a b c => Sys2Proof.Machine.execHfma2Bf16 d a b c s
  | .hfma2F16 d a b c => Sys2Proof.Machine.execHfma2F16 d a b c s
  | .hadd2Bf16 d a b => Sys2Proof.Machine.execHadd2Bf16 d a b s
  | .hadd2F16 d a b => Sys2Proof.Machine.execHadd2F16 d a b s
  | .hmul2Bf16 d a b => Sys2Proof.Machine.execHmul2Bf16 d a b s
  | .hmul2F16 d a b => Sys2Proof.Machine.execHmul2F16 d a b s
  | .hmax2Bf16 d a b => Sys2Proof.Machine.execHmax2Bf16 d a b s
  | .hmax2F16 d a b => Sys2Proof.Machine.execHmax2F16 d a b s
  | .mov d sv => Sys2Proof.Machine.execMov d sv s
  | .movi d ix => Sys2Proof.Machine.execMovi d ix s
  | .movih d ix => Sys2Proof.Machine.execMovih d ix s
  | .movkVK d sv => Sys2Proof.Machine.execMovkVK d sv s
  | .movkKV d sv => Sys2Proof.Machine.execMovkKV d sv s
  | .movkKS d sv => Sys2Proof.Machine.execMovkKS d sv s
  | .movkSK d sv => Sys2Proof.Machine.execMovkSK d sv s
  | .movs d c k => Sys2Proof.Machine.execMovs d c k s
  | .moviK d ix => Sys2Proof.Machine.execMoviK d ix s
  | .movihK d ix => Sys2Proof.Machine.execMovihK d ix s
  | .lanexPick d a b => Sys2Proof.Machine.execLanexPick d a b s
  | .lanexLo d a b => Sys2Proof.Machine.execLanexLo d a b s
  | .lanexHi d a b => Sys2Proof.Machine.execLanexHi d a b s
  | .lanexFlip d a b => Sys2Proof.Machine.execLanexFlip d a b s
  | .lanexRot d a b => Sys2Proof.Machine.execLanexRot d a b s
  | .pconsAll d a => Sys2Proof.Machine.execPconsAll d a s
  | .pconsSome d a => Sys2Proof.Machine.execPconsSome d a s
  | .pconsSame d a => Sys2Proof.Machine.execPconsSame d a s
  | .pmask d a => Sys2Proof.Machine.execPmask d a s
  | .wfoldAddI32 d a => Sys2Proof.Machine.execWfoldAddI32 d a s
  | .bra o => Sys2Proof.Machine.execBra o s
  | .br p n j o => Sys2Proof.Machine.execBr p n j o s
  | .brk p n j o => Sys2Proof.Machine.execBrk p n j o s
  | .jmpt a j o => Sys2Proof.Machine.execJmpt a j o s
  | .call o => Sys2Proof.Machine.execCall o s
  | .callt a j o => Sys2Proof.Machine.execCallt a j o s
  | .joinI j => Sys2Proof.Machine.execJoinI j s
  | .trap c => Sys2Proof.Machine.execTrap c s
  | .breakI c => Sys2Proof.Machine.execBreakI c s
  | .ld f d b t sv o => Sys2Proof.Machine.execLd f d b t sv o s
  | .ldLast f d b t o => Sys2Proof.Machine.execLdLast f d b t o s
  | .pref d b o => Sys2Proof.Machine.execPref d b o s
  | .st d b t sv o => Sys2Proof.Machine.execSt d b t sv o s
  | .ldk f d b t sv o => Sys2Proof.Machine.execLdk f d b t sv o s
  | .stk d b t sv o => Sys2Proof.Machine.execStk d b t sv o s
  | .spop d => Sys2Proof.Machine.execSpop d s
  | .spush d => Sys2Proof.Machine.execSpush d s
  | .ldl f d b t sv o => Sys2Proof.Machine.execLdl f d b t sv o s
  | .stl d b t sv o => Sys2Proof.Machine.execStl d b t sv o s
  | .atom f d b o sv => Sys2Proof.Machine.execAtom f d b o sv s
  | .red d b o sv => Sys2Proof.Machine.execRed d b o sv s
  | .atoml f d b o sv => Sys2Proof.Machine.execAtoml f d b o sv s
  | .redl d b o sv => Sys2Proof.Machine.execRedl d b o sv s
  | .fence sv => Sys2Proof.Machine.execFence sv s
  | .bar b => Sys2Proof.Machine.execBar b s
  | .barx d k sv => Sys2Proof.Machine.execBarx d k sv s
  | .semwait d k sv => Sys2Proof.Machine.execSemwait d k sv s
  | .semsig d k sv => Sys2Proof.Machine.execSemsig d k sv s
  | .semtk f d k sv => Sys2Proof.Machine.execSemtk f d k sv s
  | .semrd f d k sv => Sys2Proof.Machine.execSemrd f d k sv s
  | .bcopy f g ix => Sys2Proof.Machine.execBcopy f g ix s
  | .bcopyt f g ix m => Sys2Proof.Machine.execBcopyt f g ix m s
  | .bcopyo f g ix m => Sys2Proof.Machine.execBcopyo f g ix m s
  | .tdef g m n => Sys2Proof.Machine.execTdef g m n s
  | .trel g m => Sys2Proof.Machine.execTrel g m s
  | .tstate g m n => Sys2Proof.Machine.execTstate g m n s
  | .gang g h a c => Sys2Proof.Machine.execGang g h a c s
  | .mma f g h e a m q t u => Sys2Proof.Machine.execMma f g h e a m q t u s
  | .mmaX f g h e a m q t u => Sys2Proof.Machine.execMmaX f g h e a m q t u s
  | .mmaq f g h e a m q t u => Sys2Proof.Machine.execMmaq f g h e a m q t u s
  | .zclr g z n => Sys2Proof.Machine.execZclr g z n s
  | .zld f g z n => Sys2Proof.Machine.execZld f g z n s
  | .zst f g z n => Sys2Proof.Machine.execZst f g z n s
  | .zepi f g z n o r => Sys2Proof.Machine.execZepi f g z n o r s
  | .zepiRoute f g z e n o r => Sys2Proof.Machine.execZepiRoute f g z e n o r s
  | .zmovToV f g z q b => Sys2Proof.Machine.execZmovToV f g z q b s
  | .zmovToZ f g z q b => Sys2Proof.Machine.execZmovToZ f g z q b s
  | .rowact f g w n p y => Sys2Proof.Machine.execRowact f g w n p y s
  | .rowcon f g w m p y => Sys2Proof.Machine.execRowcon f g w m p y s
  | .rowput f g w m p y => Sys2Proof.Machine.execRowput f g w m p y s
  | .rowpre g w p y => Sys2Proof.Machine.execRowpre g w p y s
  | .rowq g w a => Sys2Proof.Machine.execRowq g w a s
  | .cpost g ix q p => Sys2Proof.Machine.execCpost g ix q p s
  | .cctr g n a p => Sys2Proof.Machine.execCctr g n a p s
  | .cctrSet g n a => Sys2Proof.Machine.execCctrSet g n a s
  | .cwait g n a => Sys2Proof.Machine.execCwait g n a s
  | .eroute g e ix => Sys2Proof.Machine.execEroute g e ix s
  | .launch f g ix d => Sys2Proof.Machine.execLaunch f g ix d s
  | .gwait g d a => Sys2Proof.Machine.execGwait g d a s
  | .qlaunch g q ix => Sys2Proof.Machine.execQlaunch g q ix s
  | .qcopy g q ix => Sys2Proof.Machine.execQcopy g q ix s
  | .qsemw g q n a => Sys2Proof.Machine.execQsemw g q n a s
  | .qsems g q n a => Sys2Proof.Machine.execQsems g q n a s
  | .qirq g q v => Sys2Proof.Machine.execQirq g q v s
  | .qswap g c => Sys2Proof.Machine.execQswap g c s
  | .phase a => Sys2Proof.Machine.execPhase a s
  | .perf a => Sys2Proof.Machine.execPerf a s
  | .tokq u d a => Sys2Proof.Machine.execTokq u d a s
  | .capq u d => Sys2Proof.Machine.execCapq u d s
  | .timeRef u d => Sys2Proof.Machine.execTimeRef u d s
  | .timeCyc u d => Sys2Proof.Machine.execTimeCyc u d s
  | .rng u d a b => Sys2Proof.Machine.execRng u d a b s
  | .mfsr d r => Sys2Proof.Machine.execMfsr d r s
  | .mtsr d r => Sys2Proof.Machine.execMtsr d r s
  | .ctxfl d l ix => Sys2Proof.Machine.execCtxfl d l ix s
  | .tlbiCtx d => Sys2Proof.Machine.execTlbiCtx d s
  | .tlbiPage d => Sys2Proof.Machine.execTlbiPage d s
  | .park d l => Sys2Proof.Machine.execPark d l s
  | .unpark d l x => Sys2Proof.Machine.execUnpark d l x s
  | .haltc c => Sys2Proof.Machine.execHaltc c s
  | .icmpNeI32 d a b => Sys2Proof.Machine.execIcmpNeI32 d a b s
  | .icmpLtI32 d a b => Sys2Proof.Machine.execIcmpLtI32 d a b s
  | .icmpLeI32 d a b => Sys2Proof.Machine.execIcmpLeI32 d a b s
  | .icmpGtI32 d a b => Sys2Proof.Machine.execIcmpGtI32 d a b s
  | .icmpGeI32 d a b => Sys2Proof.Machine.execIcmpGeI32 d a b s
  | .icmpEqN32 d a b => Sys2Proof.Machine.execIcmpEqN32 d a b s
  | .icmpNeN32 d a b => Sys2Proof.Machine.execIcmpNeN32 d a b s
  | .icmpLtN32 d a b => Sys2Proof.Machine.execIcmpLtN32 d a b s
  | .icmpLeN32 d a b => Sys2Proof.Machine.execIcmpLeN32 d a b s
  | .icmpGtN32 d a b => Sys2Proof.Machine.execIcmpGtN32 d a b s
  | .icmpGeN32 d a b => Sys2Proof.Machine.execIcmpGeN32 d a b s
  | .fcmpNe d a b => Sys2Proof.Machine.execFcmpNe d a b s
  | .fcmpLt d a b => Sys2Proof.Machine.execFcmpLt d a b s
  | .fcmpLe d a b => Sys2Proof.Machine.execFcmpLe d a b s
  | .fcmpGt d a b => Sys2Proof.Machine.execFcmpGt d a b s
  | .fcmpGe d a b => Sys2Proof.Machine.execFcmpGe d a b s
  | .fcmpOrd d a b => Sys2Proof.Machine.execFcmpOrd d a b s
  | .fcmpUno d a b => Sys2Proof.Machine.execFcmpUno d a b s
  | .f2iI16 d a r => Sys2Proof.Machine.execF2iI16 d a r s
  | .f2iI32 d a r => Sys2Proof.Machine.execF2iI32 d a r s
  | .f2iN8 d a r => Sys2Proof.Machine.execF2iN8 d a r s
  | .f2iN16 d a r => Sys2Proof.Machine.execF2iN16 d a r s
  | .f2iN32 d a r => Sys2Proof.Machine.execF2iN32 d a r s
  | .i2fI16 d a r => Sys2Proof.Machine.execI2fI16 d a r s
  | .i2fI32 d a r => Sys2Proof.Machine.execI2fI32 d a r s
  | .i2fN8 d a r => Sys2Proof.Machine.execI2fN8 d a r s
  | .i2fN16 d a r => Sys2Proof.Machine.execI2fN16 d a r s
  | .i2fN32 d a r => Sys2Proof.Machine.execI2fN32 d a r s
  | .wfoldMinI32 d a => Sys2Proof.Machine.execWfoldMinI32 d a s
  | .wfoldMaxI32 d a => Sys2Proof.Machine.execWfoldMaxI32 d a s
  | .wfoldMinN32 d a => Sys2Proof.Machine.execWfoldMinN32 d a s
  | .wfoldMaxN32 d a => Sys2Proof.Machine.execWfoldMaxN32 d a s
  | .wfoldAnd d a => Sys2Proof.Machine.execWfoldAnd d a s
  | .wfoldOr d a => Sys2Proof.Machine.execWfoldOr d a s
  | .wfoldXor d a => Sys2Proof.Machine.execWfoldXor d a s
  | .wfoldAddF32 d a => Sys2Proof.Machine.execWfoldAddF32 d a s
  | .wfoldMinF32 d a => Sys2Proof.Machine.execWfoldMinF32 d a s
  | .wfoldMaxF32 d a => Sys2Proof.Machine.execWfoldMaxF32 d a s
  | .barrierAddition op n => Sys2Proof.Machine.execBarrierAddition op n s
  | .launchCompletion op => Sys2Proof.Machine.execLaunchCompletion op s
  | .registerMiss w => Sys2Proof.Machine.execRegisterMiss w s
  | .registerLineFill w line => Sys2Proof.Machine.execRegisterLineFill w line s
  | .waveActivation w => Sys2Proof.Machine.execWaveActivation w s
  | .wavePendingEntry w => Sys2Proof.Machine.execWavePendingEntry w s
  | .flagWaitDemotion w => Sys2Proof.Machine.execFlagWaitDemotion w s
  | .waveHang w => Sys2Proof.Machine.execWaveHang w s
  | .loadCompletion op => Sys2Proof.Machine.execLoadCompletion op s
  | .releasePromotion core => Sys2Proof.Machine.execReleasePromotion core s
  | .engineTransferCompletion op => Sys2Proof.Machine.execEngineTransferCompletion op s
  | .tileFillCompletion op => Sys2Proof.Machine.execTileFillCompletion op s
  | .tileDrainCompletion op => Sys2Proof.Machine.execTileDrainCompletion op s
  | .mmaCompletion op => Sys2Proof.Machine.execMmaCompletion op s
  | .enginePageFault op => Sys2Proof.Machine.execEnginePageFault op s
  | .engineTransferStop op => Sys2Proof.Machine.execEngineTransferStop op s
  | .rowSensed op => Sys2Proof.Machine.execRowSensed op s
  | .leaseExpiry t slot => Sys2Proof.Machine.execLeaseExpiry t slot s
  | .rowputCompletion op => Sys2Proof.Machine.execRowputCompletion op s
  | .entrySourceRead ctx qp n => Sys2Proof.Machine.execEntrySourceRead ctx qp n s
  | .collectiveDelivery d => Sys2Proof.Machine.execCollectiveDelivery d s
  | .orderedContribution d => Sys2Proof.Machine.execOrderedContribution d s
  | .queueLaunchStart ctx q => Sys2Proof.Machine.execQueueLaunchStart ctx q s
  | .queueCopyStart ctx q => Sys2Proof.Machine.execQueueCopyStart ctx q s
  | .queueSemwaitStart ctx q => Sys2Proof.Machine.execQueueSemwaitStart ctx q s
  | .queueSemsigStart ctx q => Sys2Proof.Machine.execQueueSemsigStart ctx q s
  | .queueIrqStart ctx q => Sys2Proof.Machine.execQueueIrqStart ctx q s
  | .batchDispatch p => Sys2Proof.Machine.execBatchDispatch p s
  | .teamPlacement die => Sys2Proof.Machine.execTeamPlacement die s
  | .batchReturn die => Sys2Proof.Machine.execBatchReturn die s
  | .haltComplete ctx => Sys2Proof.Machine.execHaltComplete ctx s
  | .swapExchange p => Sys2Proof.Machine.execSwapExchange p s
  | .swapRestore p => Sys2Proof.Machine.execSwapRestore p s
  | .vacateCluster p die cluster => Sys2Proof.Machine.execVacateCluster p die cluster s
  | .teamMove t => Sys2Proof.Machine.execTeamMove t s
  | .preemptTimeout w => Sys2Proof.Machine.execPreemptTimeout w s
  | .coreGate core => Sys2Proof.Machine.execCoreGate core s
  | .coreWake core => Sys2Proof.Machine.execCoreWake core s
  | .ratioVote cluster => Sys2Proof.Machine.execRatioVote cluster s
  | .droopTrip cluster mv => Sys2Proof.Machine.execDroopTrip cluster mv s
  | .droopIssueEnd cluster => Sys2Proof.Machine.execDroopIssueEnd cluster s
  | .coreRefill core => Sys2Proof.Machine.execCoreRefill core s
  | .dieRefill die => Sys2Proof.Machine.execDieRefill die s
  | .packageRefill ticks => Sys2Proof.Machine.execPackageRefill ticks s
  | .governorStep demand boost scrubbed => Sys2Proof.Machine.execGovernorStep demand boost scrubbed s
  | .heatUpdate cluster temp => Sys2Proof.Machine.execHeatUpdate cluster temp s
  | .powerIntentSend plan => Sys2Proof.Machine.execPowerIntentSend plan s
  | .powerIntentReceive port ix => Sys2Proof.Machine.execPowerIntentReceive port ix s
  | .probeToken origin blocked => Sys2Proof.Machine.execProbeToken origin blocked s
  | .probePass q next => Sys2Proof.Machine.execProbePass q next s
  | .flitForward f => Sys2Proof.Machine.execFlitForward f s
  | .inboundRequest r => Sys2Proof.Machine.execInboundRequest r s
  | .remoteNack op lanes => Sys2Proof.Machine.execRemoteNack op lanes s
  | .remoteTimeout op lanes performed => Sys2Proof.Machine.execRemoteTimeout op lanes performed s
  | .hostMemAccess r => Sys2Proof.Machine.execHostMemAccess r s
  | .eventRecord p => Sys2Proof.Machine.execEventRecord p s
  | .eventRingGet p n => Sys2Proof.Machine.execEventRingGet p n s
  | .faultRingGet ctx n => Sys2Proof.Machine.execFaultRingGet ctx n s
  | .pfackRetry ctx => Sys2Proof.Machine.execPfackRetry ctx s
  | .cpStart ctx => Sys2Proof.Machine.execCpStart ctx s
  | .swapreq p c => Sys2Proof.Machine.execSwapreq p c s
  | .llcWayGate die => Sys2Proof.Machine.execLlcWayGate die s
  | .attestationComplete status report => Sys2Proof.Machine.execAttestationComplete status report s
  | .storageError site outcome => Sys2Proof.Machine.execStorageError site outcome s
  | .readClear p num => Sys2Proof.Machine.execReadClear p num s
  | .registerWrite level p num val => Sys2Proof.Machine.execRegisterWrite level p num val s
  | .powerGood b => Sys2Proof.Machine.execPowerGood b s
  | .straitPortDown port => Sys2Proof.Machine.execStraitPortDown port s
  | .privilegedCompletion a => Sys2Proof.Machine.execPrivilegedCompletion a s
  | .llcWayDark die way => Sys2Proof.Machine.execLlcWayDark die way s
  | .msiXUnmask fn vec => Sys2Proof.Machine.execMsiXUnmask fn vec s
  | .ret => Sys2Proof.Machine.execRet s
  | .exitI => Sys2Proof.Machine.execExitI s
  | .nop => Sys2Proof.Machine.execNop s
  | .yieldI => Sys2Proof.Machine.execYieldI s
  | .eret => Sys2Proof.Machine.execEret s
  | .clauseStart => Sys2Proof.Machine.execClauseStart s
  | .asyncCauseDelivery => Sys2Proof.Machine.execAsyncCauseDelivery s
  | .cgateClear => Sys2Proof.Machine.execCgateClear s
  | .attestationStart => Sys2Proof.Machine.execAttestationStart s
  | .reservedEncoding => Sys2Proof.Machine.execReservedEncoding s
  | .capacitorReserveExhausted => Sys2Proof.Machine.execCapacitorReserveExhausted s
  | .powerLoss => Sys2Proof.Machine.execPowerLoss s

end Sys2Proof.Machine
end

