-- ==== Sys2Proof/Machine/Schedule.lean ====
section
/-! DEFINITION. What moves in one step: the passing of time, who can issue (R37, R40, R50, R51, R72, R345, R350, R387), the fetch of the
leading group (R153, R154, R172, R380), the orders that the memory model leaves open (R102, R105, R126, R127, R135), the default order of
an empty agenda (log entries 1, 2 and 4), and what hardware does at the end of a step. -/

namespace Sys2Proof.Machine

open Sys2Proof

/-! Time (DESIGN CHOICE, log entry 4). -/

/-- The next fclk edge of a cluster at its highest clock, no earlier than `now`, in eighths of a ns (R20, R309): fclk runs at 1.6 GHz at most, at
0.8 GHz in the double setting, and a stretched period lasts twice as long. -/
def Cluster.nextAt (c : Cluster) (now : Nat) : Nat := max now (c.edgeAt + (if c.ratio = 3 then 10 else 5) * (if c.stretched then 2 else 1))

/-- One fclk edge of a cluster, no earlier than `now` and before `till`; none where its clock gives none in that time (R20, R309). In the double
setting two lclk pass with it, in the half setting one with every other. The fclk of halved issue are counted from the last stretched one. -/
def Cluster.edge (c : Cluster) (now till : Nat) : Option Cluster :=
  let l := if c.ratio = 3 then 2 else if c.ratio = 1 then c.cyc % 2 else 1
  if till ≤ c.nextAt now then none
  else
    some { c with
      cyc := c.cyc + 1, lclk := c.lclk + l, edgeAt := c.nextAt now, stretch := if c.stretched then c.stretch - l else c.stretch,
      halved := if c.stretch ≠ 0 then min 65 c.halved else if 1 < c.halved then c.halved - 1 else c.halved }

/-- At most n fclk edges of a cluster. -/
def Cluster.elapse (c : Cluster) (now till : Nat) : Nat → Cluster
  | 0 => c
  | n + 1 => match c.edge now till with | some c => c.elapse now till n | none => c

/-- The clocks of a cluster stand still while every core of it is gated (R72). -/
def State.clockStopped (s : State) (cl : Nat) : Bool := (List.range 4).all fun j => (s.core (4 * cl + j)).gated

/-- A cluster once its edges of an entry of the agenda have passed. -/
def State.clusterAfter (s : State) (ticks : Nat) (edges : List (Nat × Nat)) (cl : Nat) : Cluster :=
  if s.clockStopped cl then s.cluster cl
  else
    match edges.find? fun e => e.1 = cl with
    | some (_, f) => (s.cluster cl).elapse (8 * s.timeRef) (8 * (s.timeRef + ticks) + 8) f
    | none => s.cluster cl

/-- The fclk and lclk edges that pass in a cluster. -/
def State.edgesOf (s : State) (ticks : Nat) (edges : List (Nat × Nat)) (cl : Nat) : Nat × Nat :=
  ((s.clusterAfter ticks edges cl).cyc - (s.cluster cl).cyc, (s.clusterAfter ticks edges cl).lclk - (s.cluster cl).lclk)

/-- The hub fclk after some ticks (R22): fixed at 1.6 GHz, 5 edges in 25 eighths of a ns, in an open phase. -/
def State.hubAfter (s : State) (ticks hub : Nat) : Nat :=
  let now := 8 * (s.timeRef + ticks)
  max s.hubCyc (min ((now + 11) / 5) (max (now / 5) (s.hubCyc + hub)))

/-- Time in a team: leases run in lclk (R116) unless the context has halted, requests to stop are counted in fclk (R398), and groups that wait for
the activation limit test it again (R117). -/
def Team.elapse (t : Team) (frozen : Bool) (f l : Nat) : Team :=
  { t with
    rows := if frozen then t.rows else t.rows.map (fun (p : Nat × RowSlot) =>
      (p.1, if p.2.st = 2 then { p.2 with lease := p.2.lease - l } else p.2)),
    waves := t.waves.map (fun (w : Wave) =>
      { w with stopReq := w.stopReq.map (· + f), recheck := w.recheck || (decide (l ≠ 0) && decide (w.waitingFor [11] ≠ 0#32)) }) }

/-- Cores of a cluster begin another fclk (R69). -/
def State.newRound (s : State) (cl : Nat) : State :=
  { s with cores := s.cores.map (fun (p : Nat × Core) =>
      if clusterOf p.1 = cl then (p.1, { p.2 with round := p.2.round + 1, units := 0, lastPos := 0 }) else p) }

/-- Time passes: reference ticks, hub fclk, and edges of each cluster (R22, R284). -/
def State.elapseBy (s : State) (ticks hub : Nat) (edges : List (Nat × Nat)) : State :=
  let u : State := { s with
    timeRef := s.timeRef + ticks,
    hubCyc := s.hubAfter ticks hub,
    moment := if ticks = 0 && hub = 0 && edges.isEmpty then s.moment else s.moment + 1,
    dies := s.dies.map (fun (d : Die) => if d.queue.isEmpty then d else { d with wait := d.wait + ticks }),
    teams := s.teams.map (fun (p : TeamKey × Team) =>
      let e := s.edgesOf ticks edges (clusterOf p.2.core)
      if p.2.saved then p else (p.1, p.2.elapse (s.halted p.1.grid.ctx) e.1 e.2)) }
  (edges.foldl
    (fun t e =>
      if e.1 < 80 && s.edgesOf ticks edges e.1 ≠ (0, 0) then (t.putCluster e.1 (s.clusterAfter ticks edges e.1)).newRound e.1 else t)
    u).expireLeases.noteBusy

/-- The time of an entry of the agenda passes. -/
def State.elapse (s : State) (act : Act) : State := s.elapseBy act.ticks act.hub act.edges

/-- The next fclk edge of a cluster comes, with the reference ticks up to it. -/
def State.nextEdge (s : State) (cl : Nat) : State := s.elapseBy ((s.cluster cl).nextAt (8 * s.timeRef) / 8 - s.timeRef) 0 [(cl, 1)]

/-! Issue. -/

/-- The exchange of a swap of the partition has been done and the restoration has not (R339). -/
def State.exchanging (s : State) (p : Nat) : Bool := match (s.part p).swap with | some w => w.exchanged | none => false

/-- An agent can issue: a wave in the active set of a core that is not gated, with a leading group, neither parked nor stopped, in a context that
runs and has not halted (R37, R49, R51, R72, R345, R387), and not beyond 16,384 fclk after a request to stop (R398); a command processor whose
program runs (R339, R350). -/
def State.canIssue (s : State) (a : Agent) : Bool :=
  s.running (ctxOf a) && !s.halted (ctxOf a) && !s.exchanging (partOf (ctxOf a)) &&
    match a with
    | .wave k =>
      match s.team? k.team, s.wave? k with
      | some t, some w =>
        w.cls = .active && !w.spk && !w.cpk && !w.done && w.lead ≠ 0#32 && (match w.stopReq with | none => true | some n => w.tm && decide (n < 16384)) &&
          !t.saved && !(s.core t.core).gated
      | _, _ => false
    | .cp c => (s.ctReg c 0x009).getLsbD 1 && (s.ctx c).cp.lead ≠ 0#32 && (s.part (partOf c)).swap.isNone

/-- An agent is selected to issue. -/
def State.select (s : State) (a : Agent) : State := { s with issuer := some a }

/-- An agent issues at an fclk edge of its cluster (R20, R284): where a reference tick has passed since the last one, another has come. -/
def State.atEdge (s : State) (a : Agent) : State :=
  match a with
  | .cp _ => s
  | .wave _ =>
    let cl := clusterOf (s.coreOf a)
    if (s.cluster cl).edgeAt / 8 < s.timeRef then s.nextEdge cl else s

/-- A unit that an instruction of a quarter can take in the fclk that a core is in (R12, R185, R309): a quarter issues at most four instructions, or
two while issue is halved, and one to each unit; its special-function pipe takes one in 4 lclk. -/
def State.freeUnit (s : State) (core quarter : Nat) (i : Instr) : Option Nat :=
  let c := s.core core
  let mine := (List.range 5).filter fun u => c.units.getLsbD (5 * quarter + u) ||
    (u = 2 && decide ((s.cluster (clusterOf core)).lclk < c.sfFree.get 0 quarter))
  let taken := (List.range 5).filter fun u => c.units.getLsbD (5 * quarter + u)
  if taken.length < (if (s.cluster (clusterOf core)).halfIssue then 2 else 4) then (unitsOfInstr i).find? fun u => !mine.contains u else none

/-- The place of a wave's issue among those of one fclk (R112, R359): by a rotation of the quarters, which begins with quarter 0 in fclk 0 (DESIGN
CHOICE, log entry 69), then by slot. -/
def State.issuePos (s : State) (core : Nat) (w : Wave) : Nat := (w.quarter + 4 - (s.core core).round % 4) % 4 * 8 + w.slot % 8

/-- An instruction of a wave can issue in the fclk that its core is in: a unit is free, and no later place has issued. -/
def State.canTake (s : State) (core : Nat) (w : Wave) (i : Instr) : Bool :=
  (s.freeUnit core w.quarter i).isSome && decide ((s.core core).lastPos ≤ s.issuePos core w)

/-- The fclk in which an instruction of a wave can issue comes: at most n edges. -/
def State.awaitUnit (s : State) (core : Nat) (w : Wave) (i : Instr) : Nat → State
  | 0 => s
  | n + 1 => if s.canTake core w i then s else (s.nextEdge (clusterOf core)).awaitUnit core w i n

/-- The wave of whose quarter an instruction takes a unit: its own, or for a gang that of position 0, once, at the issue (R185). -/
def State.unitWave (s : State) (a : Agent) (i : Instr) : Option Wave :=
  match gangEffect i, s.issuer? with
  | some (h, eff), some x =>
    match eff x s, a with
    | .wait _ _, _ | _, .cp _ => none
    | _, .wave k => (s.team? k.team).bind fun t => ((t.gangs.get {} h.toNat).list.head?).bind fun j => t.waves[j]?
  | _, _ => s.agent? a

/-- An instruction takes a unit (R12, R185); where none is free, or its place in the order of the fclk has passed, it issues in a later fclk. -/
def State.occupy (s : State) (a : Agent) (i : Instr) : State :=
  match a, s.unitWave a i with
  | .wave _, some w =>
    let c := s.coreOf a
    let s := s.awaitUnit c w i 9
    let x := s.core c
    match s.freeUnit c w.quarter i with
    | some u =>
      s.putCore c { x with
        units := x.units ||| BitVec.ofNat 20 (2 ^ (5 * w.quarter + u))
        lastPos := s.issuePos c w
        sfFree := if u = 2 then x.sfFree.put 0 w.quarter ((s.cluster (clusterOf c)).lclk + 4) else x.sfFree }
    | none => s
  | _, _ => s

/-- The leading group of the selected agent issues (R153, R154, R172, R173, R380): between clauses a header is tested; else the instruction at its
program counter issues. -/
noncomputable def State.issueLead (s : State) (x : Issuer) : Host.Outcome State Fault Refusal :=
  if x.th.chdr = 0 then exec .clauseStart s
  else
    match s.fetch x with
    | (.page, s) => .next (s.parkPage x 1 x.e (s.codeMiss x.a x.pc) false false)
    | (.access, s) => .next (s.fetchCause x Cause.access)
    | (.refused c, s) => .next (s.pendCause x.a c 0)
    | (.header, s) => .next (s.fetchCause x Cause.clause)
    | (.reserved, s) => exec .reservedEncoding s
    | (.instr i, s) => exec i (s.occupy x.a i)

/-- An agent issues (R37, R380): a pending cause is taken before anything else. -/
noncomputable def State.issueBy (s : State) (a : Agent) : Host.Outcome State Fault Refusal :=
  if !s.canIssue a then .next s
  else
    let s := (s.atEdge a).select a
    match s.issuer? with
    | none => .next s
    | some x => if x.w.pend ≠ 0 then exec .asyncCauseDelivery s else s.issueLead x

/-! Waits that are tested again (R58, R244). -/

/-- The lanes of a wave that wait with a kind, by the instruction at which they wait. -/
def Wave.waitSets (w : Wave) (kinds : List Nat) : List (Nat × LaneMask) :=
  kinds.flatMap fun k =>
    let m := w.waitingFor [k]
    ((lanesOf m).map fun l => (w.th l).pc).eraseDups.map fun pc => (k, maskOf fun l => m.getLsbD l && decide ((w.th l).pc = pc))

/-- Threads of an agent that wait run and lead, in order to repeat the instruction at which they wait. -/
def State.leadWith (s : State) (a : Agent) (m : LaneMask) : State :=
  { s.modAgent a fun w => { w.modLanes m fun t => { t with stat := .running, kind := 0 } with groups := m :: w.groups } with issuer := some a }

/-- The wait of threads still holds: with the instruction repeated, all of them would wait for the same thing again. -/
noncomputable def State.waitHolds (s : State) (a : Agent) (k : Nat) (m : LaneMask) : Bool :=
  let s := (s.leadWith a m).modAgent a fun w => { w with absent := [], poison := [] }
  match s.issuer? with
  | none => false
  | some x =>
    match s.issueLead x with
    | .next t => (match t.agent? a with | some w => m &&& ~~~w.waitingFor [k] = 0#32 | none => false)
    | _ => false

/-- What a wait at an object repeats (R244): the instruction's test without its arrival. -/
def waitTest : Instr → Option (Issuer → State → Effect)
  | .barx d k sv => some (barxAgain d k sv)
  | .semwait d k sv => some (semwaitTest d k sv)
  | _ => none

/-- Threads that wait at an object test it again, and wait there again where their test fails (R244). Where the object's page is missing, R244 does
not say what becomes of them: they park with `PAGE`; where the page of their instruction is missing, they wait on untested (DESIGN CHOICE, log entry
62). -/
noncomputable def State.waitAgain (s : State) (a : Agent) (m : LaneMask) : State :=
  let t : State := { s with waiters := s.waiters.filter fun w => !(w.agent = a && w.queue.isNone && decide (w.lanes &&& m ≠ 0#32)) }
  let t := t.leadWith a m
  match t.issuer? with
  | none => s
  | some x =>
    match t.fetch x with
    | (.instr i, t) =>
      match waitTest i with
      | none => s
      | some eff =>
        let t := match eff x t with | .done u .. => u.modAgent a fun w => w.stepPast x.e i.size | .moved u => u | e => conclude i x e
        { t.modAgent a fun w => { w with groups := w.groups.drop 1 } with issuer := s.issuer }
    | _ => s

/-- Threads whose wait has ended in a wave that is parked with `CONTEXT` are released (R74): they stand after the wait with the value that it writes,
in no issue group yet. -/
noncomputable def State.releaseParked (s : State) (a : Agent) (m : LaneMask) : State :=
  match s.agent? a with
  | none => s
  | some w =>
    let t := (s.leadWith a m).modAgent a fun w => { w with absent := [] }
    match t.issuer? with
    | none => s
    | some x =>
      match t.issueLead x with
      | .next u =>
        { u.modAgent a fun v => { v with
            absent := w.absent, dirtied := v.dirtied.filter fun l => !w.absent.contains l, groups := v.groups.filter fun g => g &&& m = 0#32 } with
          issuer := s.issuer }
      | _ => s

/-- The waits of an agent that have ended release their threads: those for which a condition may have come to hold, and, where the wave resumes,
those at objects too (R51, R58, R74, R244). -/
noncomputable def State.retest (s : State) (a : Agent) (w : Wave) : State :=
  let s := s.modAgent a fun w => { w with recheck := false, resumed := w.resumed && w.cpk }
  let s := (w.waitSets [5, 6, 8, 10, 11]).foldl
    (fun s (k, m) =>
      if s.waitHolds a k m then s
      else if w.cpk && k < 10 then s.releaseParked a m
      else s.modAgent a fun w => w.modLanes m fun t => { t with stat := .running, kind := 0 })
    s
  if w.resumed && !w.cpk then (w.waitSets [3, 4]).foldl (fun s p => s.waitAgain a p.2) s else s

/-- The agents of which waits are to be tested again: they run and their headers are held, or they are parked with `CONTEXT`, their headers
unchanged by stores (R74). -/
def State.retestable (s : State) : List (Agent × Wave) :=
  let go (a : Agent) (w : Wave) : Option (Agent × Wave) :=
    let ready := if w.cpk then w.recheck && !w.edited else (w.recheck || w.resumed) && !w.spk && !w.absent.contains 0
    if ready && !w.done && s.running (ctxOf a) && !s.halted (ctxOf a) then some (a, w) else none
  (s.teams.flatMap fun (k, t) => if t.saved then [] else t.waves.zipIdx.filterMap fun p => go (.wave ⟨k, p.2⟩) p.1) ++
    s.ctxs.zipIdx.filterMap fun p => go (.cp p.2) p.1.cp

/-- Every wait that may have ended is tested again. -/
noncomputable def State.retestAll (s : State) : State := s.retestable.foldl (fun s p => s.retest p.1 p.2) s

/-! Orders that the memory model leaves open. -/

/-- A sector leaves a core's L1 (R102, R133): its dirty bytes are written back, and a release recorded in its line is promoted first. -/
def State.evict (s : State) (c sector : Nat) : State :=
  let s :=
    match (s.core c).l1.recs.reverse.findIdx? fun r => r.addr / 256 = sector / 4 with
    | some j => s.promote c ((s.core c).l1.recs.length - 1 - j)
    | none => s
  let s := s.writeBackAll c (((s.core c).l1.dirty.map (·.1)).filter fun x => x / 64 = sector)
  s.modL1 c fun l => { l with clean := l.clean.del sector }

/-- An event may come about on its own; an encoded instruction, and what happens at an issue boundary, only at an issue. -/
def Instr.spontaneous (i : Instr) : Bool :=
  (encodeWord i).isNone && decide (i ≠ .clauseStart) && decide (i ≠ .asyncCauseDelivery) && decide (i ≠ .reservedEncoding)

/-- A word of an operation's result arrives before its completion (R175): of an access that has been performed, or of a `ZMOV` to `v` whose turn it
is. The words of a `LAUNCH` are known at its completion only (log entry 54). -/
def State.early (s : State) (id lane word : Nat) : State :=
  match s.op? id with
  | none => s
  | some o =>
    match o.kind, o.teamKey.bind s.team? with
    | .zmovV z q b, some t => if s.matrixTurn o then s.arriveEarly o (o.zmovResult t z q b) lane word else s
    | k, _ =>
      if k.returns && o.accs.any fun a => (k.uniform || a.lane = lane) && a.result.isSome && !a.skip then s.arriveEarly o o.results lane word else s

/-- What moves. -/
noncomputable def State.run (s : State) : What → Host.Outcome State Fault Refusal
  | .issue a => s.issueBy a
  | .retry a => .next (s.modAgent a Wave.testWaits)
  | .event i => if Instr.spontaneous i then exec i (match i with | .registerMiss w => s.lookAhead w | _ => s) else .next s
  | .writeBack c a => .next (s.writeBack c a)
  | .refuseBack c a late done => .next (s.refuseBack c a late done)
  | .evict c x => .next (s.evict c x)
  | .llcClean a => .next (s.llcClean a)
  | .drain c => .next (s.drainOne c)
  | .perform o l => .next (s.performLane o l).dropStores
  | .early o l j => .next (s.early o l j)
  | .tlbDrop c i => .next (s.putCluster c { s.cluster c with tlb := (s.cluster c).tlb.eraseIdx i })
  | .tlbVictim c i j =>
    .next (s.putCluster c { s.cluster c with
      tlb := (s.cluster c).tlb.modify i fun e => if e.place = 0 then { e with place := 5 + j % 4 } else e })
  | .holdCode g b => .next { s with codeOld := s.codeOld ++ [{ grid := g, block := b, bytes := s.homeBytes (16 * b) 16 }] }
  | .move o n => .next (s.transferMove o n)
  | .answer i => .next (if (s.awaiting.find? fun p => p.id = i).any (fun p => p.own.isNone && !p.lost) then (s.answered i none).getD s else s)
  | .deliver i => .next ((s.deliverOwn i).getD s)
  | .queueLoad q n => .next (s.queueLevel q n)
  | .inboundFull p b => .next (s.putPart p { s.part p with inFull := b })
  | .inbound p => .next ((s.inboundNext p).getD s)

/-! The default order of an empty agenda (DESIGN CHOICE, log entry 2). -/

/-- Every wave. -/
def State.allWaves (s : State) : List WaveKey :=
  s.teams.flatMap fun (k, t) => (List.range t.waves.length).map fun i => ⟨k, i⟩

/-- The events that can end an operation. -/
noncomputable def opEvents (o : Op) : List Instr :=
  match o.kind with
  | .load .. | .atomic .. | .semTake _ | .semRead _ => [.loadCompletion o.id]
  | .store .. => []
  | .mma _ | .zclr _ _ | .zmovV _ _ _ | .zmovZ _ _ _ => [.mmaCompletion o.id]
  | .rowact _ _ => [.rowSensed o.id]
  | .rowput _ _ _ => [.rowputCompletion o.id]
  | .launch .. => [.launchCompletion o.id]
  | _ => [.tileFillCompletion o.id, .engineTransferCompletion o.id, .engineTransferStop o.id, .enginePageFault o.id]

/-- Events that need nothing from outside the module and no passing of time, in the order in which they are tried. -/
noncomputable def State.candidates (s : State) : List Instr :=
  s.allWaves.map .preemptTimeout ++
    (s.ops.flatMap fun o => match o.kind with | .load .. | .atomic .. => [.loadCompletion o.id] | _ => []) ++
    (List.range 16).map .haltComplete ++
    (List.range 8).flatMap (fun p => [.swapExchange p, .swapRestore p]) ++
    s.teams.map (fun p => .teamMove p.1) ++
    s.ops.flatMap opEvents ++
    (List.range 16).flatMap (fun c =>
      (List.range 12).flatMap (fun q =>
        if ((s.ctx c).queues[q]?.getD {}).entries.isEmpty then []
        else [.queueLaunchStart c q, .queueCopyStart c q, .queueSemwaitStart c q, .queueSemsigStart c q, .queueIrqStart c q]) ++
      (s.ctx c).qps.flatMap fun q => if q.2.firing.isEmpty then [] else [.entrySourceRead c q.1 0]) ++
    (List.range 4).map .teamPlacement ++ (List.range 8).map .batchDispatch ++
    (s.allWaves.flatMap fun k => (((s.wave? k).map (·.missing)).getD []).map (.registerLineFill k)) ++
    s.allWaves.map .waveActivation ++ s.allWaves.map .wavePendingEntry ++
    s.allWaves.map (fun k => .privilegedCompletion (.wave k)) ++ (List.range 16).map (fun c => .privilegedCompletion (.cp c)) ++
    (List.range 8).map .eventRecord

/-- The agents, in the order of their rotation. -/
def State.agents (s : State) : List Agent := s.allWaves.map .wave ++ (List.range 16).map .cp

/-- The first event of a list that comes about. -/
noncomputable def State.firstEvent (s : State) : List Instr → Option State
  | [] => none
  | i :: is =>
    match exec i s with
    | .next s' => some s'
    | _ => s.firstEvent is

/-- An L1 with bytes to write back, and the write-back of its first one. -/
def State.autoWriteBack (s : State) : Option State :=
  s.cores.findSome? fun (c, x) =>
    if !x.l1.wtq.isEmpty then some (s.drainOne c)
    else
      match x.l1.dirty with
      | (a, _) :: _ => some (s.writeBack c a)
      | [] => none

/-- A store or an uncounted reduction in flight, and the performance of its first lane. -/
def State.autoPerform (s : State) : Option State :=
  s.ops.findSome? fun o =>
    let counted := match o.kind with | .store .. => false | .atomic _ none .. => !o.flags.isEmpty | _ => true
    if counted then none
    else
      match o.accs.find? fun a => a.result.isNone && !a.skip with
      | some a => some (s.performLane o.id a.lane).dropStores
      | none => none

/-- What memory does on its own: such an access is performed, or a dirty byte is written back. -/
def State.autoMemory (s : State) : Option State :=
  match s.autoPerform with
  | some s => some s
  | none => s.autoWriteBack

/-- With an empty agenda, accesses in flight are performed while a context halts; then this module takes its own deliveries; then an event that can
come about does; else an agent that can issue does, in rotation, and at every eighth turn memory moves instead where it has something to do; else
memory moves; else the machine stands idle. -/
noncomputable def State.auto (s : State) : Host.Outcome State Fault Refusal :=
  match if s.ctxs.any fun c => c.halt.isSome then s.autoPerform else none with
  | some s => .next s
  | none =>
  match s.awaiting.findSome? fun p => s.deliverOwn p.id with
  | some s => .next s
  | none =>
  match s.firstEvent s.candidates with
  | some s => .next s
  | none =>
    match s.agents.filter s.canIssue with
    | [] => .next (s.autoMemory.getD s)
    | as =>
      let t : State := { s with turn := s.turn + 1 }
      match if s.turn % 8 = 7 then t.autoMemory else none with
      | some u => .next u
      | none => t.issueBy (as[(s.turn - s.turn / 8) % as.length]?.getD (.cp 0))

/-! The end of a step. -/

/-- A `PARK` that waited for a masked handler takes effect after its `ERET` (R347, R398). -/
def State.realiseParks (s : State) : State :=
  { s with teams := s.teams.map (fun (p : TeamKey × Team) =>
      (p.1, { p.2 with waves := p.2.waves.map (fun (w : Wave) =>
        if w.parkReq && !w.tm then { w.unrequest (s.teamStops p.1) with spk := true } else w) })) }

/-- Waves that have issued 2^20 instructions with a group deferred are reported (R42). -/
def State.reportHangs (s : State) : State :=
  s.allWaves.foldl
    (fun s k =>
      match execWaveHang k s with
      | .next s => s
      | _ => s)
    s

/-- What hardware does within a step after what has moved. The issue groups are formed again last. An instruction that passes the leading role on, or
after which groups merge, starts the count of R42 again before it is compared: R42 gives no order where that instruction is the 2^20th (DESIGN CHOICE,
log entry 57). -/
noncomputable def State.finish (s : State) : State :=
  s.tellAllRefused.settle.overflow.noteVacations.expireLeases.realiseParks.retestAll.regroupAll.noteWaits.reportHangs.noteBusy.noteDirty.regroupAll

/-- An outcome with the end of the step. -/
noncomputable def finishStep : Host.Outcome State Fault Refusal → Host.Outcome State Fault Refusal
  | .next s => .next s.finish
  | .fault f => .fault f
  | .refused r => .refused r

end Sys2Proof.Machine
end

