-- ==== Sys2Proof/Machine/Loader.lean ====
section
/-! DEFINITION. A state in which a given instruction is fetched next (DESIGN CHOICE, log entry 27). A program comes to run from reset through bring-up,
system software's register writes, and a command processor's launch or start; what stands here is the state after such steps, with one
wave, or a command-processor program for the words that only it executes. -/

namespace Sys2Proof.Machine

open Sys2Proof

/-- The header of the clause in which the instruction stands alone: flag A is `f0`, flag B `f1` (R171). -/
def loadHeader : Word := 0x00800001

/-- The address of that header; virtual addresses of the first GiB map to the same physical ones. -/
def loadBase : Nat := 0x20000

/-- The kernel of the wave: every grant, a handler. -/
def loadDesc : KDesc :=
  { entry := BitVec.ofNat 64 loadBase, handler := 0x30000, nregs := 256, tx := 32, lagoon := 4096, tiles := 64, ztiles := 32, rows := 4,
    gangs := 8, routes := 4, code := 8 }

/-- The grid of the wave. -/
def loadGrid : Grid := { desc := loadDesc, segBase := 0x100000, next := 1, used := [0] }

/-- A thread at the instruction. -/
def loadThread : Thread := { pc := BitVec.ofNat 64 (loadBase + 4), chdr := loadHeader, stat := .running }

/-- The wave: 32 threads in one group. -/
def loadWave : Wave := { threads := List.replicate 32 loadThread, groups := [BitVec.allOnes 32], cls := .active }

/-- The team of the wave, on core 0. -/
def loadTeam : Team := { waves := [loadWave], sFrame := some 0x100000, placed := true }

/-- The wave's name. -/
def loadKey : WaveKey := ⟨⟨⟨0, 1⟩, 0⟩, 0⟩

/-- Page tables of three levels above a leaf of 1 GiB (R363, R365): tables at 0x10000, 0x11000 and 0x12000. -/
def loadTables : List (Nat × List Byte) := [(0x10000, leBytes 8 0x11001), (0x11000, leBytes 8 0x12001), (0x12000, leBytes 8 0x0F)]

/-- A word that only a command processor executes (R169): functions 2 to 7 of major 0x1A. -/
def loadOnCp (nbits w : Nat) : Bool := nbits = 32 && w % 128 = 0x35 && decide (2 ≤ w / 2048 % 8)

/-- Registers of the module, partition 0 and context 0 that let it run (R332 to R334, R364, R429). -/
def State.loadRegs (s : State) : State :=
  let s := (((s.putCtx 0 Ctx.reset).putPart 0 Part.reset).putCluster 0 {}).putCore 0 {}
  ((((((((s.setDvReg 0x00D 7).setPtReg 0 0x000 1).setPtReg 0 0x001 1).setPtReg 0 0x005 0x0FFF0000).setCtReg 0 0x000 0x27).setCtReg 0 0x003
    0x04000100).setCtReg 0 0x006 1).setCtReg 0 0x00E 0x10000).setCtReg 0 0x00F 0

/-- Memory with the page tables, the header and the instruction. -/
def State.loadMem (s : State) (nbits w : Nat) : State :=
  let m := loadTables.foldl (fun m c => Tab.putList 0 m c.1 c.2) s.home
  { s with home := Tab.putList 0 m loadBase (leBytes 4 loadHeader.toNat ++ leBytes 4 (w % 2 ^ nbits)), llc := [] }

/-- The state in which the instruction stands where the next step fetches. -/
def State.load (s : State) (nbits w : Nat) : State :=
  let s := s.loadRegs.loadMem nbits w
  if loadOnCp nbits w then
    let s := s.setCtReg 0 0x009 2
    let s := s.modAgent (.cp 0) fun c => { c with threads := c.threads.set 0 loadThread, groups := [1] }
    { s with agenda := [{ what := .issue (.cp 0) }] }
  else
    let s := (s.putGrid loadKey.team.grid loadGrid).putTeam loadKey.team loadTeam
    { s with sec := { s.sec with enabled := 1 }, agenda := [{ what := .issue (.wave loadKey) }] }

end Sys2Proof.Machine
end

