-- ==== Sys2Proof/Machine/Step.lean ====
section
/-! DEFINITION. One step of the module: time passes, one thing moves, and the step ends. -/

namespace Sys2Proof.Machine

open Sys2Proof

/-- One step: the head of the agenda moves once its time has passed; with an empty agenda the default order moves (log entries 1, 2). -/
noncomputable def step (s : State) : Host.Outcome State Fault Refusal :=
  match s.agenda with
  | [] => finishStep s.auto
  | act :: rest => finishStep (State.run (State.elapse { s with agenda := rest } act) act.what)

/-- The state with an instruction stored where the next step fetches it, and with all that lets that step run it (DESIGN CHOICE, log entry 27). -/
def State.withFetchWord (s : State) (nbits w : Nat) : State := s.load nbits w

end Sys2Proof.Machine
end

