-- ==== Sys2Proof/Safety.lean ====
section
/-! DEFINITION. The terms in which claims are stated: when an instruction issues and completes, what it leaves unchanged, and the
invariants of states. -/

namespace Sys2Proof.Machine

open Sys2Proof

/-! When an instruction issues (R37, R73, R170, R174, R184). -/

/-- The state selects an issuer that issues the instruction without a register miss, a poisoned line, an encoding cause or a full flag. -/
structure Ready (i : Instr) (s : State) (x : Issuer) : Prop where
  issuer  : s.issuer? = some x
  present : x.w.missed i x.e (s.descOf x.a).nregs = false
  clean   : x.w.poisoned i x.e (s.descOf x.a).nregs = none
  legal   : encodingCause i s x.a x.th = none
  room    : flagFull i x = false

/-- The issuer's kernel enables no floating-point trap (R98). -/
def Untrapped (s : State) (x : Issuer) : Prop := (s.descOf x.a).trapIV = false ∧ (s.descOf x.a).trapOF = false

/-- Lane l belongs to the issuing group. -/
def Issuer.has (x : Issuer) (l : Nat) : Prop := x.e.getLsbD l = true

/-! What an instruction leaves unchanged. -/

/-- Only the issuer's wave changed, into w, with the charge: a token share of a core or the package bucket. Every byte reads as before on
every core. -/
structure OnlyWave (s t : State) (a : Agent) (w : Wave) : Prop where
  rest   : t = { s.putAgent a w with cores := t.cores, pkgDue := t.pkgDue }
  cores  : ∀ c, { t.core c with shares := (s.core c).shares } = s.core c
  memory : ∀ c b, t.coreByte c b = s.coreByte c b

/-- Within the wave only registers, threads, sticky bits and the counts of issues changed, and what the register cache notes of lines
written. -/
def OnlyRegs (v w : Wave) : Prop :=
  { w with
    v := v.v, k := v.k, threads := v.threads, sticky := v.sticky, hang := v.hang, issued := v.issued, tokens := v.tokens,
    synced := v.synced, dirtied := v.dirtied, poison := v.poison } = v

/-- The running threads of the group stepped past an instruction of n bytes; every other thread is as it was (R153, R172). -/
def Passed (x : Issuer) (n : Nat) (w : Wave) : Prop :=
  ∀ l, l < 32 → w.th l = if x.e.getLsbD l && decide ((x.w.th l).stat = .running) then (x.w.th l).advance n else x.w.th l

/-- Registers `k` and `v` are as they were. -/
def SameRegs (v w : Wave) : Prop := (∀ n l, l < 32 → w.vreg n l = v.vreg n l) ∧ ∀ n, w.kreg n = v.kreg n

/-- Register d of each lane of the group holds a value; every other register is as it was. On a command processor the registers are the
`k` registers (R351). -/
def LaneRegs (x : Issuer) (d : Nat) (f : Nat → Word) (w : Wave) : Prop :=
  (∀ l, l < 32 → x.has l → w.vreg d l = f l) ∧
    (∀ n l, l < 32 → n ≠ d → w.vreg n l = x.w.vreg n l) ∧
    (x.w.cpu = false → (∀ l, l < 32 → ¬x.has l → w.vreg d l = x.w.vreg d l) ∧ ∀ n, w.kreg n = x.w.kreg n)

/-- Registers d and d + 1 of each lane of the group hold the words of a pair; every other register is as it was. -/
def LanePairs (x : Issuer) (d : Nat) (f : Nat → DWord) (w : Wave) : Prop :=
  (∀ l, l < 32 → x.has l → w.vreg d l = loWord (f l) ∧ w.vreg (d + 1) l = hiWord (f l)) ∧
    (∀ n l, l < 32 → n ≠ d → n ≠ d + 1 → w.vreg n l = x.w.vreg n l) ∧
    (x.w.cpu = false →
      (∀ n l, l < 32 → ¬x.has l → w.vreg n l = x.w.vreg n l) ∧ ∀ n, w.kreg n = x.w.kreg n)

/-- Register `k`d holds a value; every other register is as it was. -/
def UniRegs (x : Issuer) (d : Nat) (v : Word) (w : Wave) : Prop :=
  (∀ n, w.kreg n = if n = d then v else x.w.kreg n) ∧ (x.w.cpu = false → ∀ n l, l < 32 → w.vreg n l = x.w.vreg n l)

/-- Registers `k`d and `k`d+1 hold the words of a pair; every other register is as it was. -/
def UniPair (x : Issuer) (d : Nat) (v : DWord) (w : Wave) : Prop :=
  (∀ n, w.kreg n = if n = d then loWord v else if n = d + 1 then hiWord v else x.w.kreg n) ∧
    (x.w.cpu = false → ∀ n l, l < 32 → w.vreg n l = x.w.vreg n l)

/-- Instruction i completes with only its wave changed, and P holds of the wave after it. -/
def Completes (i : Instr) (s : State) (x : Issuer) (P : Wave → Prop) : Prop :=
  ∃ t w, exec i s = .next t ∧ OnlyWave s t x.a w ∧ OnlyRegs x.w w ∧ P w

/-- Instruction i ends in state t: its effect left v, and the running threads of the group stepped past it; only the wave and its charge
changed after v, and in the wave no register and no sticky bit. -/
def Advances (v t : State) (x : Issuer) (i : Instr) : Prop :=
  ∀ w₀, v.agent? x.a = some w₀ →
    ∃ w, OnlyWave v t x.a w ∧ OnlyRegs w₀ w ∧ SameRegs w₀ w ∧ w.sticky = w₀.sticky ∧
      ∀ l, l < 32 → w.th l = if x.e.getLsbD l && decide ((w₀.th l).stat = .running) then (w₀.th l).advance i.size else w₀.th l

/-- Instruction i ends in state t, whose threads its effect has already placed: only the wave's counts and its charge changed after v. -/
def Moves (v t : State) (x : Issuer) : Prop :=
  ∀ w₀, v.agent? x.a = some w₀ → ∃ w, OnlyWave v t x.a w ∧ OnlyRegs w₀ w ∧ SameRegs w₀ w ∧ w.sticky = w₀.sticky ∧ w.threads = w₀.threads

/-- Every access that a group asks for passes its checks (R225), at these places; u is the state that the look-ups leave. -/
def State.Grants (s u : State) (a : Agent) (size : Nat) (reqs : List (Nat × DWord × AccMode)) (ps : List (Nat × Place)) : Prop :=
  s.checkLanes a size reqs = ({ oks := ps }, u) ∧ ps ≠ []

/-- The object that an address names passes its checks (R237): its place, and the state that the look-up leaves. -/
def State.Finds (s u : State) (x : Issuer) (va : DWord) (wr : Bool) (o : ObjAddr) (p : Place) : Prop :=
  (va.extractLsb' 32 32 ≠ 0xF0000000 ∧ ∃ a nc row, s.Grants u x.a 16 [(x.low, va, .object wr)] [(x.low, .mem a nc row)] ∧
    o = .mem a ∧ p = .mem a nc row) ∨
  (va.extractLsb' 32 32 = 0xF0000000 ∧ ∃ t off, s.lagoonPlaces x 16 [(x.low, loWord va, 0)] = .ok [(x.low, .lagoon t off)] ∧
    o = .lagoon t off ∧ p = .lagoon t off ∧ u = s)

/-- The state in which an instruction has reached its object's home point, after what its ordering puts before it (R127 to R132, R141, R142); a
request for one at a peer has left the module (R423). `rel` is the written scope of a release. -/
def State.reachedBy (u : State) (x : Issuer) (rel : Option Nat) (o : ObjAddr) (p : Place) : State :=
  let v := (u.beforeObj x (rel.map (objScope x.a o)) p).requestAt (partOf x.ctx) p 2 16
  v.reachObj (v.coreOf x.a) o

/-- An engine instruction of a wave issues with a true guard (R248): the wave's key and its team. -/
structure EngineReady (i : Instr) (g : BitVec 3) (s : State) (x : Issuer) (k : WaveKey) (t : Team) : Prop where
  ready : Ready i s x
  wave  : x.a = .wave k
  team  : s.team? k.team = some t
  guard : x.guarded g ≠ 0

/-- The guard of an engine instruction (R165, R248); the matrix instructions of a gang test theirs at the rendezvous. -/
def guardOf : Instr → Option (BitVec 3)
  | .bcopy _ g _ | .bcopyt _ g _ _ | .bcopyo _ g _ _ | .tdef g _ _ | .trel g _ | .tstate g _ _ | .gang g _ _ _ => some g
  | .zclr g _ _ | .zld _ g _ _ | .zst _ g _ _ | .zepi _ g _ _ _ _ | .zepiRoute _ g _ _ _ _ _ => some g
  | .zmovToV _ g _ _ _ | .zmovToZ _ g _ _ _ | .rowact _ g _ _ _ _ | .rowcon _ g _ _ _ _ | .rowput _ g _ _ _ _ => some g
  | .rowpre g _ _ _ | .rowq g _ _ | .cpost g _ _ _ | .cctr g _ _ _ | .cctrSet g _ _ | .cwait g _ _ | .eroute g _ _ => some g
  | .launch _ g _ _ | .gwait g _ _ | .qlaunch g _ _ | .qcopy g _ _ | .qsemw g _ _ _ | .qsems g _ _ _ | .qirq g _ _ => some g
  | .qswap g _ => some g
  | _ => none

/-- An event of the table comes about, and P holds of the state after it. -/
def Occurs (i : Instr) (s : State) (P : State → Prop) : Prop := ∃ t, exec i s = .next t ∧ P t

/-- An instruction on an object at its place (R237, R393): where the object's module is reached and the object is not poisoned where the instruction
reads it (`rd`), it completes with P of the state after it. Where no route leads to the module or its port is down (R420), the model's choice (log
entry 33) is that it completes with no effect but the request and the cause that becomes pending. -/
def OnObject (i : Instr) (s u : State) (x : Issuer) (rd : Bool) (rel : Option Nat) (o : ObjAddr) (p : Place) (P : State → Prop) : Prop :=
  let v := u.beforeObj x (rel.map (objScope x.a o)) p
  let t := u.reachedBy x rel o p
  (v.reachPlace p = .ok → rd = false ∨ t.objPoison (t.coreOf x.a) o = 0 → Occurs i s P) ∧
  (v.reachPlace p = .noRoute →
    Occurs i s fun r => Advances ((v.noRoute (partOf x.ctx) p.globalAddr 2 16).pendCause x.a Cause.remote 0) r x i) ∧
  (v.reachPlace p = .down → Occurs i s fun r => Advances ((v.requestAt (partOf x.ctx) p 2 16).pendCause x.a Cause.remoteTimeout 0) r x i)

/-- A core's write-backs have no effect elsewhere and none is refused: nothing waits at an object, no other core has recorded a release, what
the core's L1 is to write back belongs to this module, and its dirty bytes are in order. -/
structure State.Quiet (s : State) (c : Nat) : Prop where
  waiters : s.waiters = []
  records : ∀ p ∈ s.cores, p.1 ≠ c → p.2.l1.recs = []
  dirty   : ∀ p ∈ (s.core c).l1.dirty, isPeer p.1 = false
  queued  : ∀ t ∈ (s.core c).l1.wtq, isPeer t.addr = false
  sorted  : ((s.core c).l1.dirty.map (·.1)).Pairwise (· < ·)

/-- What a core reads of a location at its home point is there: the core's L1 queues no write and holds no dirty byte of the location's line, and no
other core has recorded a release in that line. -/
structure State.AtHome (s : State) (c a : Nat) : Prop where
  queued  : (s.core c).l1.wtq = []
  dirty   : ∀ p ∈ (s.core c).l1.dirty, p.1 / 256 ≠ a / 256
  records : ∀ c', c' ≠ c → ∀ r ∈ (s.core c').l1.recs, r.addr / 256 ≠ a / 256

/-- Every core sees every byte of memory as before. -/
def State.SameMemory (s t : State) : Prop := ∀ c b, t.coreByte c b = s.coreByte c b

/-! Results of register instructions. -/

/-- A lane instruction writes f of each thread's registers to its register d, and g of them to the sticky word (R181, R184). -/
def LaneFlags (i : Instr) (d : Nat) (f g : Reader → Word) : Prop :=
  ∀ s x, Ready i s x → Untrapped s x →
    Completes i s x fun w =>
      Passed x i.size w ∧ LaneRegs x d (fun l => f (x.w.reader l)) w ∧
        w.sticky = x.w.sticky ||| orLanes x.e fun l => g (x.w.reader l)

/-- A lane instruction that writes the word and sets the sticky bits of one function of each thread's registers. -/
def LaneOf (i : Instr) (d : Nat) (f : Reader → Word × Word) : Prop := LaneFlags i d (fun r => (f r).1) fun r => (f r).2

/-- A lane instruction that sets no sticky bit. -/
def LaneResult (i : Instr) (d : Nat) (f : Reader → Word) : Prop :=
  ∀ s x, Ready i s x →
    Completes i s x fun w => Passed x i.size w ∧ LaneRegs x d (fun l => f (x.w.reader l)) w ∧ w.sticky = x.w.sticky

/-- A uniform instruction writes f of the `k` registers to `k`d, and g of them to the sticky word (R183, R184). -/
def UniFlags (i : Instr) (d : Nat) (f g : Reader → Word) : Prop :=
  ∀ s x, Ready i s x → Untrapped s x →
    Completes i s x fun w => Passed x i.size w ∧ UniRegs x d (f x.w.kreg) w ∧ w.sticky = x.w.sticky ||| g x.w.kreg

/-- A uniform instruction that sets no sticky bit. -/
def UniResult (i : Instr) (d : Nat) (f : Reader → Word) : Prop :=
  ∀ s x, Ready i s x → Completes i s x fun w => Passed x i.size w ∧ UniRegs x d (f x.w.kreg) w ∧ w.sticky = x.w.sticky

/-- Both forms of an instruction: the lane form, and with U = 1 the uniform one (R159, R183). -/
def BothResult (i : BitVec 1 → Instr) (d : Nat) (f : Reader → Word) : Prop := LaneResult (i 0) d f ∧ UniResult (i 1) d f

/-- Both forms of an instruction that sets sticky bits. -/
def BothFlags (i : BitVec 1 → Instr) (d : Nat) (f g : Reader → Word) : Prop := LaneFlags (i 0) d f g ∧ UniFlags (i 1) d f g

/-- Both forms of an instruction that writes a pair. -/
def BothPair (i : BitVec 1 → Instr) (d : Nat) (f : Reader → DWord) : Prop :=
  (∀ s x, Ready (i 0) s x →
    Completes (i 0) s x fun w => Passed x (i 0).size w ∧ LanePairs x d (fun l => f (x.w.reader l)) w ∧ w.sticky = x.w.sticky) ∧
  (∀ s x, Ready (i 1) s x →
    Completes (i 1) s x fun w => Passed x (i 1).size w ∧ UniPair x d (f x.w.kreg) w ∧ w.sticky = x.w.sticky)

/-- The running threads of the group stepped past the instruction with predicate p set to a value; a write to `p7` is discarded (R62). -/
def PassedPred (x : Issuer) (p n : Nat) (f : Nat → Bool) (w : Wave) : Prop :=
  (∀ l, l < 32 → x.has l → (x.w.th l).stat = .running → w.th l = { (x.w.th l).advance n with pred := (w.th l).pred }) ∧
    (∀ l, l < 32 → ¬x.has l → w.th l = x.w.th l) ∧
    ∀ j l, l < 32 → x.has l → l < x.w.threads.length → w.preg j l = if j = p ∧ p < 7 then f l else x.w.preg j l

/-- A lane instruction writes a predicate of every thread (R192): from the thread's registers and its predicates. -/
def PredResult (i : Instr) (p : Nat) (f : Reader → (Nat → Bool) → Bool) : Prop :=
  ∀ s x, Ready i s x →
    Completes i s x fun w =>
      PassedPred x p i.size (fun l => f (x.w.reader l) fun j => x.w.preg j l) w ∧ SameRegs x.w w ∧ w.sticky = x.w.sticky

/-! Invariants. -/

/-- The issue groups of a wave (R37 to R39): each is a set of running threads at one address, every running thread belongs to one, and
no two stand at one address. -/
structure GroupsOk (w : Wave) : Prop where
  running  : ∀ g ∈ w.groups, g ≠ 0#32 ∧ ∀ l, g.getLsbD l = true → (w.th l).stat = .running ∧ (w.th l).pc = (w.th (lowLane g)).pc
  covered  : ∀ l, l < 32 → (w.th l).stat = .running → ∃ g ∈ w.groups, g.getLsbD l = true
  distinct : w.groups.Pairwise fun g h => (w.th (lowLane g)).pc ≠ (w.th (lowLane h)).pc

/-- The issue groups of every wave and of every command processor are well formed. -/
def State.GroupsOk (s : State) : Prop :=
  (∀ p ∈ s.teams, ∀ w ∈ p.2.waves, Machine.GroupsOk w) ∧ ∀ c ∈ s.ctxs, Machine.GroupsOk c.cp

/-- Context c halts: its halt line is raised with a cause code, or it had halted before (R386, R387). -/
def State.HaltsWith (s t : State) (c : Nat) (code : Cause) : Prop :=
  s.halted c = false → ∃ h, (t.ctx c).halt = some h ∧ h.code = code

end Sys2Proof.Machine
end

