-- ==== Sys2Proof/WellFormed.lean ====
section
/-! DEFINITION. Which instructions are well formed: no field holds a value that its encoding reserves. An ill-formed one decodes, and
raises `ILLEGAL` when it reaches issue (R158 to R170). -/

namespace Sys2Proof

/-- No field holds a value that the encoding of the instruction reserves. -/
def Instr.wellFormed (i : Instr) : Bool := !Machine.reservedField i

end Sys2Proof
end

