-- ==== Sys2Proof/Certificates/Slice0/Obligations.lean ====
section
/-! DEFINITION. The statements for the provers. -/

open Sys2Proof Sys2Proof.Machine

/-! Decoding, stepping and reset. -/

/-- Words written out from the layouts of R155 to R163 decode to the instructions they stand for: `IADD` (16 bits), `IADD`, the uniform
`IADD` with an immediate, `FFMA.rz`, `MOV`, `LD` and `EXIT`. -/
def Obligations.WordsDecode : Prop :=
  decodeTableWord 16 0x0864 = some (.iadd16 3 2) ∧ decodeTableWord 32 0x0020C103 = some (.iadd 0 1 3 2) ∧
    decodeTableWord 32 0xFF808285 = some (.iaddImm 1 2 2 0x1FF) ∧ decodeTableWord 32 0x20C4148D = some (.ffmaRz 1 1 2 3 4) ∧
    decodeTableWord 32 0xC8070015 = some (.mov 0x07 0xC8) ∧ decodeTableWord 32 0x1920859F = some (.ld 1 5 2 2 2 3) ∧
    decodeTableWord 32 0x0000009D = some .exitI

/-- Decoding the encoding of a well-formed instruction gives the instruction back, whatever bytes follow (R153). -/
def Obligations.EncodingRoundTrip : Prop :=
  ∀ (i : Instr) (bs rest : List Byte), i.wellFormed = true → encode i = some bs → decode (bs ++ rest) = .ok (i, rest)

/-- R167 and R172: a word whose bit [0] is 1 is no instruction when its major opcode is 0x1D to 0x3F, which are reserved, or 0x00, which is
the clause header's; what a fetch finds there raises `ILLEGAL` or `CLAUSE`: on a wave, its context halts with that code. -/
def Obligations.ReservedWords : Prop :=
  (∀ w : Nat, w < 2 ^ 32 → w % 2 = 1 → 0x1D ≤ w / 2 % 64 → ∀ rest, decode (leBytes 4 w ++ rest) = .error .reserved) ∧
  (∀ w : Nat, w < 2 ^ 32 → w % 2 = 1 → w / 2 % 64 = 0 → ∀ rest, decode (leBytes 4 w ++ rest) = .error .clauseHeader) ∧
  ∀ (s u : State) (x : Issuer) (k : WaveKey) (bs : List Byte), s.issuer? = some x → x.a = .wave k →
    s.codeInstr x.a x.pc = (.ok bs, u) → k.team.grid.ctx < u.ctxs.length → (u.agent? x.a).isSome = true →
      ∃ t, exec .reservedEncoding s = .next t ∧ State.HaltsWith u t k.team.grid.ctx
        (if bs.length = 4 ∧ isClauseHeader (BitVec.ofNat 32 (ofLeBytes bs)) = true then Cause.clause else Cause.illegal)

/-- R153, R154: when the first entry of the agenda lets an agent issue that can, whose leading group stands within a clause with no
pending cause and finds, at its program counter, bytes that decode to an instruction, then the step is that instruction's meaning at that
state, followed by the end of the step. The state handed to it is the one that the passing of time and the fetch leave, at an fclk edge of its
cluster, with an issue unit taken (R185): in a quarter that can take the instruction, of the wave itself or of gang position 0, this changes nothing but
what the core notes of its units. The agenda, how time passes and the phase of the quarters' rotation are the model's (log entries 1, 2, 4 and 69). -/
def Obligations.StepRunsDecoded : Prop :=
  (∀ (s : State) (act : Act) (rest : List Act) (a : Agent) (x : Issuer) (i : Instr) (u : State),
    s.agenda = act :: rest → act.what = .issue a →
      let v := State.elapse { s with agenda := rest } act
      let e := (v.atEdge a).select a
      v.canIssue a = true → e.issuer? = some x → x.w.pend = 0 → x.th.chdr ≠ 0 → e.fetch x = (.instr i, u) →
        step s = finishStep (exec i (u.occupy x.a i))) ∧
  (∀ (u : State) (c : Nat) (i : Instr), u.atEdge (.cp c) = u ∧ u.occupy (.cp c) i = u) ∧
  (∀ (u : State) (k : WaveKey) (i : Instr), u.unitWave (.wave k) i = none → u.occupy (.wave k) i = u) ∧
  (∀ (u : State) (k : WaveKey) (i : Instr), gangEffect i = none → u.unitWave (.wave k) i = u.wave? k) ∧
  ∀ (u : State) (k : WaveKey) (w : Wave) (i : Instr), u.unitWave (.wave k) i = some w →
    let c := u.coreOf (.wave k)
    let t := u.occupy (.wave k) i
    (u.timeRef ≤ (u.cluster (clusterOf c)).edgeAt / 8 → u.atEdge (.wave k) = u) ∧
    (u.canTake c w i = true → t = { u with cores := t.cores } ∧
      ∀ n, { t.core n with units := (u.core n).units, lastPos := (u.core n).lastPos, sfFree := (u.core n).sfFree } = u.core n)

/-- R37 to R39: after every step the issue groups of every wave and of every command processor are well formed. -/
def Obligations.StepKeepsGroups : Prop := ∀ s t : State, s.GroupsOk → step s = .next t → t.GroupsOk

/-- The issue groups are well formed at reset. -/
def Obligations.ResetGroups : Prop := State.GroupsOk State.reset

/-- R302, R332, R333, R406, R429: the values that the register tables give for reset. `CT_CTL` holds PCAP = 2, `PT_CTL` holds IDLE = 1, the
power registers and the price table hold their reset values, and every `DV_` register but the identity is 0, so that
`DV_BOOT` reports RESET; no context is valid and nothing runs. -/
def Obligations.ResetRegisters : Prop :=
  (∀ c i, c < 16 → State.reset.ctReg c i = if i = 0 then 0x20 else 0) ∧
  (∀ p i, p < 8 → State.reset.ptReg p i = if i = 0 then 0x20 else 0) ∧
  (List.range 0x11).map State.reset.pwReg = [7, 2400, 150, 0, 0, 30, 0x446, 0, 0, 0, 0, 12000, 0, 0, 0, 0, 0] ∧
  ((List.range 64).map fun i => State.reset.pwReg (0x040 + i)) =
    [8, 24, 16, 4, 4, 0, 0, 0] ++ [20, 32, 48, 12, 24, 20, 28, 0] ++ [64, 96, 160, 8, 24, 128, 40, 32] ++ [160, 120, 120, 4, 120, 80, 16, 0] ++
    [13000, 13000, 14000, 14000, 15000, 10000, 14000, 0] ++ [24000, 2000, 2500, 200, 0, 0, 0, 0] ++ [40, 16, 64, 0, 0, 0, 0, 0] ++
    List.replicate 8 0 ∧
  (∀ i, i ≠ 0 → State.reset.dvReg i = 0) ∧ State.reset.timeRef = 0 ∧ (∀ c, c < 16 → State.reset.valid c = false) ∧ State.reset.teams = [] ∧ Memory.wf State.reset = true

/-! Integer and logic instructions. -/

/-- R155, R156, R186, R188: the 16-bit integer forms, which read d as their first source. -/
def Obligations.ShortIntegerResults : Prop :=
  (∀ (d : BitVec 5) (b : BitVec 6),
    LaneResult (.mov16 d b) d.toNat (fun r => r b.toNat) ∧ LaneResult (.movi16 d b) d.toNat (fun _ => BitVec.ofInt 32 b.toInt) ∧
    LaneResult (.iadd16 d b) d.toNat (fun r => r d.toNat + r b.toNat) ∧
    LaneResult (.iaddi16 d b) d.toNat (fun r => BitVec.ofInt 32 ((r d.toNat).toInt + b.toInt)) ∧
    LaneResult (.isub16 d b) d.toNat (fun r => r d.toNat - r b.toNat) ∧
    LaneResult (.and16 d b) d.toNat (fun r => r d.toNat &&& r b.toNat) ∧ LaneResult (.or16 d b) d.toNat (fun r => r d.toNat ||| r b.toNat) ∧
    LaneResult (.xor16 d b) d.toNat (fun r => r d.toNat ^^^ r b.toNat)) ∧
  ∀ d n : BitVec 5,
    LaneResult (.shli16 d n) d.toNat (fun r => BitVec.ofNat 32 ((r d.toNat).toNat * 2 ^ n.toNat)) ∧
    LaneResult (.shri16 d n) d.toNat (fun r => BitVec.ofNat 32 ((r d.toNat).toNat / 2 ^ n.toNat)) ∧
    LaneResult (.sari16 d n) d.toNat (fun r => BitVec.ofInt 32 ((r d.toNat).toInt / 2 ^ n.toNat))

/-- R186, R188: sums, differences, carries and borrows, negation, absolute value and the pair sum, in both forms. -/
def Obligations.SumResults : Prop :=
  (∀ d a b : BitVec 6,
    BothResult (.iadd · d a b) d.toNat (fun r => BitVec.ofNat 32 ((r a.toNat).toNat + (r b.toNat).toNat)) ∧
    BothResult (.iaddc · d a b) d.toNat (fun r => if 2 ^ 32 ≤ (r a.toNat).toNat + (r b.toNat).toNat then 1 else 0) ∧
    BothResult (.isub · d a b) d.toNat (fun r => BitVec.ofInt 32 ((r a.toNat).toNat - (r b.toNat).toNat)) ∧
    BothResult (.isubb · d a b) d.toNat (fun r => if (r a.toNat).toNat < (r b.toNat).toNat then 1 else 0) ∧
    BothResult (.ineg · d a) d.toNat (fun r => BitVec.ofInt 32 (-(r a.toNat).toInt)) ∧
    BothResult (.iabs · d a) d.toNat (fun r => BitVec.ofInt 32 |(r a.toNat).toInt|) ∧
    BothPair (.iadd64 · d a b) d.toNat (fun r =>
      BitVec.ofNat 64 ((r.pair a.toNat).toNat + (r.pair b.toNat).toNat))) ∧
  ∀ (d a : BitVec 6) (n : BitVec 9),
    BothResult (.iaddImm · d a n) d.toNat (fun r => BitVec.ofInt 32 ((r a.toNat).toInt + n.toInt))

/-- R80, R186: the saturating forms limit the exact result to the signed or the unsigned range and set IS where that changes it. -/
def Obligations.SaturatingResults : Prop :=
  let clampS (x : Int) : Word := BitVec.ofInt 32 (max (-2 ^ 31) (min (2 ^ 31 - 1) x))
  let clampU (x : Int) : Word := BitVec.ofInt 32 (max 0 (min (2 ^ 32 - 1) x))
  let setS (x : Int) : Word := if -2 ^ 31 ≤ x ∧ x < 2 ^ 31 then 0 else fIS
  let setU (x : Int) : Word := if 0 ≤ x ∧ x < 2 ^ 32 then 0 else fIS
  ∀ d a b : BitVec 6,
    BothFlags (.iaddSatI32 · d a b) d.toNat (fun r => clampS ((r a.toNat).toInt + (r b.toNat).toInt))
      (fun r => setS ((r a.toNat).toInt + (r b.toNat).toInt)) ∧
    BothFlags (.iaddSatN32 · d a b) d.toNat (fun r => clampU ((r a.toNat).toNat + (r b.toNat).toNat))
      (fun r => setU ((r a.toNat).toNat + (r b.toNat).toNat)) ∧
    BothFlags (.isubSatI32 · d a b) d.toNat (fun r => clampS ((r a.toNat).toInt - (r b.toNat).toInt))
      (fun r => setS ((r a.toNat).toInt - (r b.toNat).toInt)) ∧
    BothFlags (.isubSatN32 · d a b) d.toNat (fun r => clampU (((r a.toNat).toNat : Int) - (r b.toNat).toNat))
      (fun r => setU (((r a.toNat).toNat : Int) - (r b.toNat).toNat)) ∧
    BothFlags (.inegSat · d a) d.toNat (fun r => clampS (-(r a.toNat).toInt)) (fun r => setS (-(r a.toNat).toInt)) ∧
    BothFlags (.iabsSat · d a) d.toNat (fun r => clampS |(r a.toNat).toInt|) (fun r => setS |(r a.toNat).toInt|)

/-- R186 to R188: minima and maxima, logic, and shifts by a whole register or by five bits, in both forms; and `TRILOG`, whose bit i is the
bit of its table that the three inputs' bits i select. -/
def Obligations.LogicResults : Prop :=
  (∀ d a b : BitVec 6,
    BothResult (.iminI32 · d a b) d.toNat (fun r => BitVec.ofInt 32 (min (r a.toNat).toInt (r b.toNat).toInt)) ∧
    BothResult (.imaxI32 · d a b) d.toNat (fun r => BitVec.ofInt 32 (max (r a.toNat).toInt (r b.toNat).toInt)) ∧
    BothResult (.iminN32 · d a b) d.toNat (fun r => BitVec.ofNat 32 (min (r a.toNat).toNat (r b.toNat).toNat)) ∧
    BothResult (.imaxN32 · d a b) d.toNat (fun r => BitVec.ofNat 32 (max (r a.toNat).toNat (r b.toNat).toNat)) ∧
    BothResult (.andI · d a b) d.toNat (fun r => r a.toNat &&& r b.toNat) ∧
      BothResult (.orI · d a b) d.toNat (fun r => r a.toNat ||| r b.toNat) ∧
    BothResult (.xorI · d a b) d.toNat (fun r => r a.toNat ^^^ r b.toNat) ∧ BothResult (.notI · d a) d.toNat (fun r => ~~~r a.toNat) ∧
    BothResult (.andn · d a b) d.toNat (fun r => r a.toNat &&& ~~~r b.toNat) ∧
    BothResult (.shl · d a b) d.toNat (fun r => BitVec.ofNat 32 ((r a.toNat).toNat * 2 ^ (r b.toNat).toNat)) ∧
    BothResult (.shr · d a b) d.toNat (fun r => BitVec.ofNat 32 ((r a.toNat).toNat / 2 ^ (r b.toNat).toNat)) ∧
    BothResult (.sar · d a b) d.toNat (fun r => BitVec.ofInt 32 ((r a.toNat).toInt / 2 ^ min (r b.toNat).toNat 31)) ∧
    BothResult (.rotl · d a b) d.toNat (fun r => (r a.toNat).rotateLeft ((r b.toNat).toNat % 32))) ∧
  (∀ (d a : BitVec 6) (n : BitVec 9),
    BothResult (.andImm · d a n) d.toNat (fun r => r a.toNat &&& BitVec.ofInt 32 n.toInt) ∧
    BothResult (.orImm · d a n) d.toNat (fun r => r a.toNat ||| BitVec.ofInt 32 n.toInt) ∧
    BothResult (.xorImm · d a n) d.toNat (fun r => r a.toNat ^^^ BitVec.ofInt 32 n.toInt)) ∧
  (∀ (d a : BitVec 6) (n : BitVec 5),
    BothResult (.shlImm · d a n) d.toNat (fun r => BitVec.ofNat 32 ((r a.toNat).toNat * 2 ^ n.toNat)) ∧
    BothResult (.shrImm · d a n) d.toNat (fun r => BitVec.ofNat 32 ((r a.toNat).toNat / 2 ^ n.toNat)) ∧
    BothResult (.sarImm · d a n) d.toNat (fun r => BitVec.ofInt 32 ((r a.toNat).toInt / 2 ^ n.toNat)) ∧
    BothResult (.rotlImm · d a n) d.toNat (fun r => (r a.toNat).rotateLeft n.toNat)) ∧
  ∀ (z y x w : BitVec 1) (d a b : BitVec 5) (t : BitVec 4), ∃ f : Reader → Word,
    LaneResult (.trilog z d y a x b w t) d.toNat f ∧
    ∀ r i, i < 32 → (f r).getLsbD i = (w ++ x ++ y ++ z ++ t).getLsbD
      (((r a.toNat).getLsbD i).toNat + 2 * ((r b.toNat).getLsbD i).toNat + 4 * ((r d.toNat).getLsbD i).toNat)

/-- R189: products, their high words, multiply-add in words and in pairs, and the sum of absolute differences, in both forms. -/
def Obligations.MultiplyResults : Prop :=
  ∀ d a b c : BitVec 5,
    BothResult (.imul · d a b) d.toNat (fun r => BitVec.ofNat 32 ((r a.toNat).toNat * (r b.toNat).toNat)) ∧
    BothResult (.imulhI32 · d a b) d.toNat (fun r => BitVec.ofInt 32 ((r a.toNat).toInt * (r b.toNat).toInt / 2 ^ 32)) ∧
    BothResult (.imulhN32 · d a b) d.toNat (fun r => BitVec.ofNat 32 ((r a.toNat).toNat * (r b.toNat).toNat / 2 ^ 32)) ∧
    BothResult (.imad · d a b c) d.toNat (fun r => BitVec.ofNat 32 ((r a.toNat).toNat * (r b.toNat).toNat + (r c.toNat).toNat)) ∧
    BothPair (.imadwI32 · d a b c) d.toNat
      (fun r => BitVec.ofInt 64 ((r a.toNat).toInt * (r b.toNat).toInt + (r.pair c.toNat).toInt)) ∧
    BothPair (.imadwN32 · d a b c) d.toNat
      (fun r => BitVec.ofNat 64 ((r a.toNat).toNat * (r b.toNat).toNat + (r.pair c.toNat).toNat)) ∧
    BothResult (.isad · d a b c) d.toNat
      (fun r => BitVec.ofInt 32 (|((r a.toNat).toNat : Int) - (r b.toNat).toNat| + (r c.toNat).toNat))

/-- R190, R191: bit fields extracted and inserted, counts of bits, reversal and the funnel shifts, in both forms. `CLZ` and `CTZ` are
stated by the bits around the one they find, `POPC` as a sum over the bits. -/
def Obligations.BitFieldResults : Prop :=
  ∀ d a b c : BitVec 5,
    BothResult (.bfxN32 · d a b) d.toNat (fun r =>
      BitVec.ofNat 32 ((r a.toNat).toNat / 2 ^ ((r b.toNat).toNat % 256) % 2 ^ min ((r b.toNat).toNat / 256 % 256) 32)) ∧
    (∃ f : Reader → Word, BothResult (.bfxI32 · d a b) d.toNat f ∧ ∀ r,
      let pos := (r b.toNat).toNat % 256
      let len := min ((r b.toNat).toNat / 256 % 256) 32
      ∀ i, i < 32 → (f r).getLsbD i = if len = 0 then false else (r a.toNat).getLsbD (min (pos + min i (len - 1)) 31)) ∧
    (∃ f : Reader → Word, BothResult (.bfi · d a b c) d.toNat f ∧ ∀ r,
      let pos := (r b.toNat).toNat % 256
      let len := min ((r b.toNat).toNat / 256 % 256) 32
      ∀ i, i < 32 → (f r).getLsbD i = if pos ≤ i ∧ i < pos + len then (r a.toNat).getLsbD (i - pos) else (r c.toNat).getLsbD i) ∧
    BothResult (.popc · d a) d.toNat (fun r => BitVec.ofNat 32 ((List.range 32).map fun i => ((r a.toNat).getLsbD i).toNat).sum) ∧
    (∃ f : Reader → Word, BothResult (.clz · d a) d.toNat f ∧ ∀ r, (f r).toNat ≤ 32 ∧
      (∀ i, i < 32 → 32 ≤ i + (f r).toNat → (r a.toNat).getLsbD i = false) ∧
      ((f r).toNat < 32 → (r a.toNat).getLsbD (31 - (f r).toNat) = true)) ∧
    (∃ f : Reader → Word, BothResult (.ctz · d a) d.toNat f ∧ ∀ r, (f r).toNat ≤ 32 ∧
      (∀ i, i < (f r).toNat → (r a.toNat).getLsbD i = false) ∧ ((f r).toNat < 32 → (r a.toNat).getLsbD (f r).toNat = true)) ∧
    (∃ f : Reader → Word, BothResult (.brev · d a) d.toNat f ∧ ∀ r i, i < 32 → (f r).getLsbD i = (r a.toNat).getLsbD (31 - i)) ∧
    BothResult (.shfL · d a b c) d.toNat (fun r =>
      BitVec.ofNat 32 (((r a.toNat).toNat * 2 ^ 32 + (r b.toNat).toNat) * 2 ^ min (r c.toNat).toNat 32 / 2 ^ 32)) ∧
    BothResult (.shfR · d a b c) d.toNat (fun r =>
      BitVec.ofNat 32 (((r a.toNat).toNat * 2 ^ 32 + (r b.toNat).toNat) / 2 ^ min (r c.toNat).toNat 32))

/-! Compare and select. -/

/-- R192: the integer comparisons write their predicate; a write to `p7` is discarded (R62), and no register changes. -/
def Obligations.IntegerCompareResults : Prop :=
  ∀ (d : BitVec 3) (a b : BitVec 6),
    PredResult (.icmpEqI32 d a b) d.toNat (fun r _ => decide (r a.toNat = r b.toNat)) ∧
    PredResult (.icmpNeI32 d a b) d.toNat (fun r _ => decide (r a.toNat ≠ r b.toNat)) ∧
    PredResult (.icmpLtI32 d a b) d.toNat (fun r _ => decide ((r a.toNat).toInt < (r b.toNat).toInt)) ∧
    PredResult (.icmpLeI32 d a b) d.toNat (fun r _ => decide ((r a.toNat).toInt ≤ (r b.toNat).toInt)) ∧
    PredResult (.icmpGtI32 d a b) d.toNat (fun r _ => decide ((r b.toNat).toInt < (r a.toNat).toInt)) ∧
    PredResult (.icmpGeI32 d a b) d.toNat (fun r _ => decide ((r b.toNat).toInt ≤ (r a.toNat).toInt)) ∧
    PredResult (.icmpEqN32 d a b) d.toNat (fun r _ => decide (r a.toNat = r b.toNat)) ∧
    PredResult (.icmpNeN32 d a b) d.toNat (fun r _ => decide (r a.toNat ≠ r b.toNat)) ∧
    PredResult (.icmpLtN32 d a b) d.toNat (fun r _ => decide ((r a.toNat).toNat < (r b.toNat).toNat)) ∧
    PredResult (.icmpLeN32 d a b) d.toNat (fun r _ => decide ((r a.toNat).toNat ≤ (r b.toNat).toNat)) ∧
    PredResult (.icmpGtN32 d a b) d.toNat (fun r _ => decide ((r b.toNat).toNat < (r a.toNat).toNat)) ∧
    PredResult (.icmpGeN32 d a b) d.toNat (fun r _ => decide ((r b.toNat).toNat ≤ (r a.toNat).toNat))

/-- R193: the floating-point comparisons compare exact values, −0 equal to +0; every comparison with a NaN is false but `ne` and `uno`.
They set no sticky bit. -/
def Obligations.FloatCompareResults : Prop :=
  let num (w : Word) : Prop := fp32.read w.toNat ≠ .nan
  let less (v w : Word) : Bool := (fp32.read v.toNat).lt false (fp32.read w.toNat)
  ∀ (d : BitVec 3) (a b : BitVec 6), ∃ eq ne lt le gt ge ord uno : Word → Word → Bool,
    PredResult (.fcmpEq d a b) d.toNat (fun r _ => eq (r a.toNat) (r b.toNat)) ∧
    PredResult (.fcmpNe d a b) d.toNat (fun r _ => ne (r a.toNat) (r b.toNat)) ∧
    PredResult (.fcmpLt d a b) d.toNat (fun r _ => lt (r a.toNat) (r b.toNat)) ∧
    PredResult (.fcmpLe d a b) d.toNat (fun r _ => le (r a.toNat) (r b.toNat)) ∧
    PredResult (.fcmpGt d a b) d.toNat (fun r _ => gt (r a.toNat) (r b.toNat)) ∧
    PredResult (.fcmpGe d a b) d.toNat (fun r _ => ge (r a.toNat) (r b.toNat)) ∧
    PredResult (.fcmpOrd d a b) d.toNat (fun r _ => ord (r a.toNat) (r b.toNat)) ∧
    PredResult (.fcmpUno d a b) d.toNat (fun r _ => uno (r a.toNat) (r b.toNat)) ∧
    (∀ v w, num v → num w →
      eq v w = (!less v w && !less w v) ∧ ne v w = (less v w || less w v) ∧ lt v w = less v w ∧ le v w = !less w v ∧
        gt v w = less w v ∧ ge v w = !less v w ∧ ord v w = true ∧ uno v w = false) ∧
    (∀ v w, ¬num v ∨ ¬num w →
      eq v w = false ∧ ne v w = true ∧ lt v w = false ∧ le v w = false ∧ gt v w = false ∧ ge v w = false ∧ ord v w = false ∧
        uno v w = true) ∧
    less 0x80000000 0 = false ∧ less 0 0x80000000 = false

/-- R192: predicate logic, in which `p7` reads as true, and the selection by a predicate. -/
def Obligations.PredicateResults : Prop :=
  (∀ d a b : BitVec 3,
    PredResult (.plogAnd d a b) d.toNat (fun _ p => p a.toNat && p b.toNat) ∧
    PredResult (.plogOr d a b) d.toNat (fun _ p => p a.toNat || p b.toNat) ∧
    PredResult (.plogXor d a b) d.toNat (fun _ p => p a.toNat != p b.toNat) ∧
    PredResult (.plogAndn d a b) d.toNat (fun _ p => p a.toNat && !p b.toNat) ∧
    PredResult (.plogOrn d a b) d.toNat (fun _ p => p a.toNat || !p b.toNat) ∧
    PredResult (.plogXnor d a b) d.toNat (fun _ p => p a.toNat == p b.toNat)) ∧
  (∀ (w : Wave) (l : Nat), w.preg 7 l = true) ∧
  ∀ (d a b : BitVec 6) (p : BitVec 3) s x, Ready (.sel d a b p) s x →
    Completes (.sel d a b p) s x fun w =>
      Passed x 4 w ∧ LaneRegs x d.toNat (fun l => if x.w.preg p.toNat l then x.w.vreg a.toNat l else x.w.vreg b.toNat l) w ∧
        w.sticky = x.w.sticky

/-! Floating point. -/

/-- R77, R84, R89, R194: sums, differences, products and fused products are the exact result rounded once; `.ftz` reads and writes
subnormals as zeros. The 16-bit forms round to nearest. -/
def Obligations.FloatArithmeticResults : Prop :=
  (∀ (z : BitVec 1) (d a b m : BitVec 5),
    LaneOf (.fadd z d a b m) d.toNat (fun r => wr32 (z = 1) (Rnd.ofCode m.toNat)
      ((rd32 (z = 1) (r a.toNat)).add (Rnd.ofCode m.toNat) (rd32 (z = 1) (r b.toNat)))) ∧
    LaneOf (.fsub z d a b m) d.toNat (fun r => wr32 (z = 1) (Rnd.ofCode m.toNat)
      ((rd32 (z = 1) (r a.toNat)).add (Rnd.ofCode m.toNat) (rd32 (z = 1) (r b.toNat)).neg)) ∧
    LaneOf (.fmul z d a b m) d.toNat (fun r => wr32 (z = 1) (Rnd.ofCode m.toNat) ((rd32 (z = 1) (r a.toNat)).mul (rd32 (z = 1) (r b.toNat))))) ∧
  (∀ (z : BitVec 1) (d a b c : BitVec 5),
    LaneOf (.ffmaRn z d a b c) d.toNat (fun r => ffma (z = 1) .rn (r a.toNat) (r b.toNat) (r c.toNat)) ∧
    LaneOf (.ffmaRz z d a b c) d.toNat (fun r => ffma (z = 1) .rz (r a.toNat) (r b.toNat) (r c.toNat)) ∧
    LaneOf (.ffmaRu z d a b c) d.toNat (fun r => ffma (z = 1) .ru (r a.toNat) (r b.toNat) (r c.toNat)) ∧
    LaneOf (.ffmaRd z d a b c) d.toNat (fun r => ffma (z = 1) .rd (r a.toNat) (r b.toNat) (r c.toNat))) ∧
  ∀ (d : BitVec 5) (b : BitVec 6),
    LaneOf (.fadd16 d b) d.toNat (fun r => fadd false .rn (r d.toNat) (r b.toNat)) ∧
    LaneOf (.fsub16 d b) d.toNat (fun r => fsub false .rn (r d.toNat) (r b.toNat)) ∧
    LaneOf (.fmul16 d b) d.toNat (fun r => fmul false .rn (r d.toNat) (r b.toNat)) ∧
    LaneOf (.fmax16 d b) d.toNat (fun r => fminmax false true (r d.toNat) (r b.toNat)) ∧
    LaneOf (.fmin16 d b) d.toNat (fun r => fminmax false false (r d.toNat) (r b.toNat))

/-- R89, R195 to R198: `FMIN` and `FMAX` give the lesser and the greater operand, −0 below +0, the other operand beside a NaN, and the
canonical NaN with IV for two; `FRND` gives the integral value of its mode with the operand's sign, and only a NaN sets a bit; `FCLASS` sets
the one bit of the operand's class; `FSCALE` rounds the operand times a power of two once. `.ftz` reads a subnormal as zero of its sign. -/
def Obligations.FloatOtherResults : Prop :=
  ∀ (z : BitVec 1) (d a b m : BitVec 5),
    let isNan (w : Word) : Prop := fp32.read w.toNat = .nan
    let flush (w : Word) : Word := if z = 1 ∧ w.extractLsb' 23 8 = 0 then w &&& 0x80000000 else w
    let less (v w : Word) : Bool := (fp32.read v.toNat).lt true (fp32.read w.toNat)
    let val (w : Word) : Option ℚ :=
      match fp32.read w.toNat with | .fin n k e => some ((if n then -1 else 1) * (k : ℚ) * (2 : ℚ) ^ e) | _ => none
    let rounds (q : ℚ) (n : Int) : Prop :=
      match Rnd.ofCode m.toNat with
      | .rz => |(n : ℚ)| ≤ |q| ∧ |q| < |(n : ℚ)| + 1
      | .ru => q ≤ n ∧ (n : ℚ) < q + 1
      | .rd => (n : ℚ) ≤ q ∧ q < n + 1
      | _ => |q - n| ≤ 1 / 2 ∧ (|q - n| = 1 / 2 → n % 2 = 0)
    (∃ lo hi : Word → Word → Word × Word,
      LaneOf (.fmin z d a b) d.toNat (fun r => lo (r a.toNat) (r b.toNat)) ∧
      LaneOf (.fmax z d a b) d.toNat (fun r => hi (r a.toNat) (r b.toNat)) ∧ ∀ v w,
        (isNan v → isNan w → lo v w = (0x7FC00000, fIV) ∧ hi v w = (0x7FC00000, fIV)) ∧
        (isNan v → ¬isNan w → lo v w = (flush w, 0) ∧ hi v w = (flush w, 0)) ∧
        (¬isNan v → isNan w → lo v w = (flush v, 0) ∧ hi v w = (flush v, 0)) ∧
        (¬isNan v → ¬isNan w →
          lo v w = (if less (flush w) (flush v) then flush w else flush v, 0) ∧
          hi v w = (if less (flush v) (flush w) then flush w else flush v, 0))) ∧
    less 0x80000000 0 = true ∧ less 0 0x80000000 = false ∧
    (∃ f : Word → Word × Word, LaneOf (.frnd z d a m) d.toNat (fun r => f (r a.toNat)) ∧ ∀ w,
      (isNan w → f w = (0x7FC00000, fIV)) ∧ (w = 0x7F800000 ∨ w = 0xFF800000 → f w = (w, 0)) ∧
      ∀ q, val (flush w) = some q → (f w).2 = 0 ∧ (f w).1.msb = w.msb ∧ ∃ n : Int, val (f w).1 = some (n : ℚ) ∧ rounds q n) ∧
    LaneResult (.fclass d a) d.toNat (fun r =>
      let n := (r a.toNat).toNat
      BitVec.ofNat 32 (2 ^ (
        if n = 0xFF800000 then 0 else if 0x80800000 ≤ n ∧ n < 0xFF800000 then 1 else if 0x80000001 ≤ n ∧ n < 0x80800000 then 2
        else if n = 0x80000000 then 3 else if n = 0 then 4 else if 1 ≤ n ∧ n < 0x00800000 then 5
        else if 0x00800000 ≤ n ∧ n < 0x7F800000 then 6 else if n = 0x7F800000 then 7 else 8))) ∧
    LaneOf (.fscale z d a b m) d.toNat (fun r => wr32 (z = 1) (Rnd.ofCode m.toNat)
      (match rd32 (z = 1) (r a.toNat) with
       | .fin n k e => .fin n k (e + max (-300) (min 300 (r b.toNat).toInt))
       | x => x))

/-- R199, R200: the special functions, with the results and the sticky bits that R200 gives for zeros, infinities and NaN. -/
def Obligations.SpecialFunctionResults : Prop :=
  (∀ (z : BitVec 1) (d a : BitVec 6),
    LaneOf (.frcp z d a) d.toNat (fun r => special .rcp (z = 1) (r a.toNat)) ∧
    LaneOf (.frsq z d a) d.toNat (fun r => special .rsq (z = 1) (r a.toNat)) ∧
    LaneOf (.fsqrt z d a) d.toNat (fun r => special .sqrt (z = 1) (r a.toNat)) ∧
    LaneOf (.fex2 z d a) d.toNat (fun r => special .ex2 (z = 1) (r a.toNat)) ∧
    LaneOf (.flg2 z d a) d.toNat (fun r => special .lg2 (z = 1) (r a.toNat)) ∧
    LaneOf (.fsin z d a) d.toNat (fun r => special .sin (z = 1) (r a.toNat)) ∧
    LaneOf (.fcos z d a) d.toNat (fun r => special .cos (z = 1) (r a.toNat)) ∧
    LaneOf (.ftanh z d a) d.toNat (fun r => special .tanh (z = 1) (r a.toNat))) ∧
  ∀ z : Bool,
    (∀ (fn : SFn) (w : Word), fp32.read w.toNat = .nan → special fn z w = (0x7FC00000, fIV)) ∧
    special .rcp z 0 = (0x7F800000, fDZ) ∧ special .rcp z 0x80000000 = (0xFF800000, fDZ) ∧ special .rcp z 0x7F800000 = (0, 0) ∧
    special .rcp z 0xFF800000 = (0x80000000, 0) ∧ special .rsq z 0 = (0x7F800000, 0) ∧ special .rsq z 0x80000000 = (0xFF800000, 0) ∧
    special .rsq z 0x7F800000 = (0, 0) ∧ special .rsq z 0xFF800000 = (0x7FC00000, fIV) ∧ special .sqrt z 0 = (0, 0) ∧
    special .sqrt z 0x80000000 = (0x80000000, 0) ∧ special .sqrt z 0x7F800000 = (0x7F800000, 0) ∧
    special .sqrt z 0xFF800000 = (0x7FC00000, fIV) ∧ special .ex2 z 0 = (0x3F800000, 0) ∧ special .ex2 z 0x7F800000 = (0x7F800000, 0) ∧
    special .ex2 z 0xFF800000 = (0, 0) ∧ special .lg2 z 0 = (0xFF800000, fDZ) ∧ special .lg2 z 0x7F800000 = (0x7F800000, 0) ∧
    special .lg2 z 0xFF800000 = (0x7FC00000, fIV) ∧ special .sin z 0x80000000 = (0x80000000, 0) ∧
    special .sin z 0x7F800000 = (0x7FC00000, fIV) ∧ special .cos z 0x80000000 = (0x3F800000, 0) ∧
    special .cos z 0x7F800000 = (0x7FC00000, fIV) ∧ special .tanh z 0x7F800000 = (0x3F800000, 0) ∧
    special .tanh z 0xFF800000 = (0xBF800000, 0) ∧
    ∀ w : Word, 0x80000000 < w.toNat → w.toNat < 0xFF800000 → (z = true → 0x80800000 ≤ w.toNat) →
      special .rsq z w = (0x7FC00000, fIV) ∧ special .sqrt z w = (0x7FC00000, fIV) ∧ special .lg2 z w = (0x7FC00000, fIV)

/-- R201 to R203: conversions between FP32 and integers and between integers, of every type. -/
def Obligations.IntegerConversionResults : Prop :=
  (∀ d a m : BitVec 6,
    LaneOf (.f2iI8 d a m) d.toNat (fun r => f2i .i8 (Rnd.ofCode m.toNat) (r a.toNat)) ∧
    LaneOf (.f2iI16 d a m) d.toNat (fun r => f2i .i16 (Rnd.ofCode m.toNat) (r a.toNat)) ∧
    LaneOf (.f2iI32 d a m) d.toNat (fun r => f2i .i32 (Rnd.ofCode m.toNat) (r a.toNat)) ∧
    LaneOf (.f2iN8 d a m) d.toNat (fun r => f2i .n8 (Rnd.ofCode m.toNat) (r a.toNat)) ∧
    LaneOf (.f2iN16 d a m) d.toNat (fun r => f2i .n16 (Rnd.ofCode m.toNat) (r a.toNat)) ∧
    LaneOf (.f2iN32 d a m) d.toNat (fun r => f2i .n32 (Rnd.ofCode m.toNat) (r a.toNat)) ∧
    LaneOf (.i2fI8 d a m) d.toNat (fun r => i2f .i8 (Rnd.ofCode m.toNat) (r a.toNat)) ∧
    LaneOf (.i2fI16 d a m) d.toNat (fun r => i2f .i16 (Rnd.ofCode m.toNat) (r a.toNat)) ∧
    LaneOf (.i2fI32 d a m) d.toNat (fun r => i2f .i32 (Rnd.ofCode m.toNat) (r a.toNat)) ∧
    LaneOf (.i2fN8 d a m) d.toNat (fun r => i2f .n8 (Rnd.ofCode m.toNat) (r a.toNat)) ∧
    LaneOf (.i2fN16 d a m) d.toNat (fun r => i2f .n16 (Rnd.ofCode m.toNat) (r a.toNat)) ∧
    LaneOf (.i2fN32 d a m) d.toNat (fun r => i2f .n32 (Rnd.ofCode m.toNat) (r a.toNat))) ∧
  (∀ (d a y : BitVec 6) (x : BitVec 1),
    LaneOf (.i2iI8 d a y x) d.toNat (fun r => i2i .i8 (ITy.ofIdx y.toNat) (x = 1) (r a.toNat)) ∧
    LaneOf (.i2iI16 d a y x) d.toNat (fun r => i2i .i16 (ITy.ofIdx y.toNat) (x = 1) (r a.toNat)) ∧
    LaneOf (.i2iI32 d a y x) d.toNat (fun r => i2i .i32 (ITy.ofIdx y.toNat) (x = 1) (r a.toNat)) ∧
    LaneOf (.i2iN8 d a y x) d.toNat (fun r => i2i .n8 (ITy.ofIdx y.toNat) (x = 1) (r a.toNat)) ∧
    LaneOf (.i2iN16 d a y x) d.toNat (fun r => i2i .n16 (ITy.ofIdx y.toNat) (x = 1) (r a.toNat)) ∧
    LaneOf (.i2iN32 d a y x) d.toNat (fun r => i2i .n32 (ITy.ofIdx y.toNat) (x = 1) (r a.toNat))) ∧
  (∀ (t : ITy) (m : Rnd) (w : Word), t.lo ≤ t.val (f2i t m w).1 ∧ t.val (f2i t m w).1 ≤ t.hi) ∧
  ∀ (t u : ITy) (w : Word), t.lo ≤ u.val w → u.val w ≤ t.hi → (i2i t u true w).2 = 0 ∧ t.val (i2i t u true w).1 = u.val w

/-- R204, R205: conversions from FP32 to the narrow formats, to nearest or stochastic, one element or a packed word, and back. An element of an 8-bit
or 4-bit format that is no NaN widens to a word that every deterministic rounding narrows to it again, exactly; and, from R84 to R88, a tie goes to the even
neighbour, a value beyond the format's largest becomes the format's overflow result, and a stochastic rounding goes up exactly where the discarded part
exceeds the random one. -/
def Obligations.NarrowConversionResults : Prop :=
  (∀ f ∈ [e4m3, e5m2, e2m1], ∀ b, b < 2 ^ f.width → f.read b ≠ .nan →
    ∀ m ∈ [Rnd.rn, .rz, .ru, .rd], narrow f m (widen f b).1 = (b, 0)) ∧
  narrowW bf16 .rn 0x3F808000 = (0x3F80, fNX) ∧ narrowW bf16 .rn 0x3F818000 = (0x3F82, fNX) ∧
  narrowW bf16 .rn 0x3F808001 = (0x3F81, fNX) ∧ narrowW bf16 .rz 0x3F808001 = (0x3F80, fNX) ∧
  narrowW e4m3 .rn 0x41500000 = (0x55, 0) ∧ narrowW e4m3 .rn 0x41580000 = (0x56, fNX) ∧
  narrowW e4m3 .rn 0x43FA0000 = (0x7E, fOF ||| fNX) ∧ narrowW bf16 .rn 0x7F7FFFFF = (0x7F80, fOF ||| fNX) ∧
  narrowW bf16 (srFrom32 0x3F808001 0x8000) 0x3F808001 = (0x3F81, fNX) ∧
  narrowW bf16 (srFrom32 0x3F808001 0x12347FFE) 0x3F808001 = (0x3F80, fNX) ∧
  ∀ d a b : BitVec 6,
    LaneOf (.fcvtBf16 d a b) d.toNat (fun r => narrowW bf16 (Rnd.ofCode b.toNat) (r a.toNat)) ∧
    LaneOf (.fcvtF16 d a b) d.toNat (fun r => narrowW fp16 (Rnd.ofCode b.toNat) (r a.toNat)) ∧
    LaneOf (.fcvtE4m3 d a b) d.toNat (fun r => narrowW e4m3 (Rnd.ofCode b.toNat) (r a.toNat)) ∧
    LaneOf (.fcvtE5m2 d a b) d.toNat (fun r => narrowW e5m2 (Rnd.ofCode b.toNat) (r a.toNat)) ∧
    LaneOf (.fcvtE2m1 d a b) d.toNat (fun r => narrowW e2m1 (Rnd.ofCode b.toNat) (r a.toNat)) ∧
    LaneOf (.fcvtSrBf16 d a b) d.toNat (fun r => narrowW bf16 (srFrom32 (r a.toNat) (r b.toNat)) (r a.toNat)) ∧
    LaneOf (.fcvtSrF16 d a b) d.toNat (fun r => narrowW fp16 (srFrom32 (r a.toNat) (r b.toNat)) (r a.toNat)) ∧
    LaneOf (.fcvtSrE4m3 d a b) d.toNat (fun r => narrowW e4m3 (srFrom32 (r a.toNat) (r b.toNat)) (r a.toNat)) ∧
    LaneOf (.fcvtSrE5m2 d a b) d.toNat (fun r => narrowW e5m2 (srFrom32 (r a.toNat) (r b.toNat)) (r a.toNat)) ∧
    LaneOf (.fcvtSrE2m1 d a b) d.toNat (fun r => narrowW e2m1 (srFrom32 (r a.toNat) (r b.toNat)) (r a.toNat)) ∧
    LaneOf (.fpkBf16 d a) d.toNat (fun r => packW bf16 2 r a.toNat fun _ _ => .rn) ∧
    LaneOf (.fpkF16 d a) d.toNat (fun r => packW fp16 2 r a.toNat fun _ _ => .rn) ∧
    LaneOf (.fpkE4m3 d a) d.toNat (fun r => packW e4m3 4 r a.toNat fun _ _ => .rn) ∧
    LaneOf (.fpkE5m2 d a) d.toNat (fun r => packW e5m2 4 r a.toNat fun _ _ => .rn) ∧
    LaneOf (.fpkSrBf16 d a b) d.toNat (fun r => packW bf16 2 r a.toNat fun j w => srFrom32 w (srWord (r b.toNat) j 2)) ∧
    LaneOf (.fpkSrF16 d a b) d.toNat (fun r => packW fp16 2 r a.toNat fun j w => srFrom32 w (srWord (r b.toNat) j 2)) ∧
    LaneOf (.fpkSrE4m3 d a b) d.toNat (fun r => packW e4m3 4 r a.toNat fun j w => srFrom32 w (srWord (r b.toNat) j 4)) ∧
    LaneOf (.fpkSrE5m2 d a b) d.toNat (fun r => packW e5m2 4 r a.toNat fun j w => srFrom32 w (srWord (r b.toNat) j 4)) ∧
    LaneOf (.funpkBf16 d a b) d.toNat (fun r => widen bf16 (elem 16 (r a.toNat) b.toNat)) ∧
    LaneOf (.funpkF16 d a b) d.toNat (fun r => widen fp16 (elem 16 (r a.toNat) b.toNat)) ∧
    LaneOf (.funpkE4m3 d a b) d.toNat (fun r => widen e4m3 (elem 8 (r a.toNat) b.toNat)) ∧
    LaneOf (.funpkE5m2 d a b) d.toNat (fun r => widen e5m2 (elem 8 (r a.toNat) b.toNat)) ∧
    LaneOf (.funpkE2m1 d a b) d.toNat (fun r => widen e2m1 (elem 4 (r a.toNat) b.toNat))

/-- R206 to R208: dot products, modulo 2^32, saturating, and of FP8 elements rounded once; and packed 16-bit arithmetic, in which each
element is one exact result rounded once. -/
def Obligations.PackedResults : Prop :=
  let s8 (w : Word) (j : Nat) : Int := (w.extractLsb' (8 * j) 8).toInt
  let s4 (w : Word) (j : Nat) : Int := (w.extractLsb' (4 * j) 4).toInt
  let dot8 (v w c : Word) : Int := c.toInt + ((List.range 4).map fun j => s8 v j * s8 w j).sum
  let dot4 (v w c : Word) : Int := c.toInt + ((List.range 8).map fun j => s4 v j * s4 w j).sum
  let el (f : Fmt) (w : Word) (j : Nat) : FVal := f.read (w.extractLsb' (16 * j) 16).toNat
  ∀ d a b c : BitVec 5,
    LaneOf (.dot4i8 d a b c) d.toNat (fun r => (BitVec.ofInt 32 (dot8 (r a.toNat) (r b.toNat) (r c.toNat)), 0)) ∧
    LaneOf (.dot8i4 d a b c) d.toNat (fun r => (BitVec.ofInt 32 (dot4 (r a.toNat) (r b.toNat) (r c.toNat)), 0)) ∧
    LaneOf (.dot4i8Sat d a b c) d.toNat (fun r => satI32 (dot8 (r a.toNat) (r b.toNat) (r c.toNat))) ∧
    LaneOf (.dot8i4Sat d a b c) d.toNat (fun r => satI32 (dot4 (r a.toNat) (r b.toNat) (r c.toNat))) ∧
    LaneOf (.dot4f8E4m3 d a b c) d.toNat (fun r => dotF8 e4m3 (r a.toNat) (r b.toNat) (r c.toNat)) ∧
    LaneOf (.dot4f8E5m2 d a b c) d.toNat (fun r => dotF8 e5m2 (r a.toNat) (r b.toNat) (r c.toNat)) ∧
    LaneOf (.hfma2Bf16 d a b c) d.toNat (fun r =>
      pairOp bf16 fun j => ((el bf16 (r a.toNat) j).mul (el bf16 (r b.toNat) j)).add .rn (el bf16 (r c.toNat) j)) ∧
    LaneOf (.hfma2F16 d a b c) d.toNat (fun r =>
      pairOp fp16 fun j => ((el fp16 (r a.toNat) j).mul (el fp16 (r b.toNat) j)).add .rn (el fp16 (r c.toNat) j)) ∧
    LaneOf (.hadd2Bf16 d a b) d.toNat (fun r => pairOp bf16 fun j => (el bf16 (r a.toNat) j).add .rn (el bf16 (r b.toNat) j)) ∧
    LaneOf (.hadd2F16 d a b) d.toNat (fun r => pairOp fp16 fun j => (el fp16 (r a.toNat) j).add .rn (el fp16 (r b.toNat) j)) ∧
    LaneOf (.hmul2Bf16 d a b) d.toNat (fun r => pairOp bf16 fun j => (el bf16 (r a.toNat) j).mul (el bf16 (r b.toNat) j)) ∧
    LaneOf (.hmul2F16 d a b) d.toNat (fun r => pairOp fp16 fun j => (el fp16 (r a.toNat) j).mul (el fp16 (r b.toNat) j)) ∧
    LaneOf (.hmax2Bf16 d a b) d.toNat (fun r =>
      pairBits fun j => bf16.minmax false true ((r a.toNat).extractLsb' (16 * j) 16).toNat ((r b.toNat).extractLsb' (16 * j) 16).toNat) ∧
    LaneOf (.hmax2F16 d a b) d.toNat (fun r =>
      pairBits fun j => fp16.minmax false true ((r a.toNat).extractLsb' (16 * j) 16).toNat ((r b.toNat).extractLsb' (16 * j) 16).toNat)

/-! Moves and cross-lane instructions. -/

/-- R57, R69, R209 to R211: moves among `v`, `k` and `s` registers, immediates, and the special values of a wave. A write of an `s` register
reaches the team at once, unless another wave's write in the same fclk stands above it, and the writing wave's own view. A read takes the word as the
group's lowest thread sees it. -/
def Obligations.MoveResults : Prop :=
  (∀ d a : BitVec 8, LaneResult (.mov d a) d.toNat (fun r => r a.toNat)) ∧
  (∀ (d : BitVec 6) (n : BitVec 16),
    LaneResult (.movi d n) d.toNat (fun _ => BitVec.ofInt 32 n.toInt) ∧
    LaneResult (.movih d n) d.toNat (fun r => BitVec.ofNat 32 (n.toNat * 2 ^ 16 + (r d.toNat).toNat % 2 ^ 16)) ∧
    UniResult (.moviK d n) d.toNat (fun _ => BitVec.ofInt 32 n.toInt) ∧
    UniResult (.movihK d n) d.toNat (fun r => BitVec.ofNat 32 (n.toNat * 2 ^ 16 + (r d.toNat).toNat % 2 ^ 16))) ∧
  (∀ (d a : BitVec 6) s x,
    (Ready (.movkVK d a) s x → Completes (.movkVK d a) s x fun w =>
      Passed x 4 w ∧ LaneRegs x d.toNat (fun _ => x.w.kreg a.toNat) w ∧ w.sticky = x.w.sticky) ∧
    (Ready (.movkKV d a) s x → Completes (.movkKV d a) s x fun w =>
      Passed x 4 w ∧ UniRegs x d.toNat (x.w.vreg a.toNat x.low) w ∧ w.sticky = x.w.sticky) ∧
    (Ready (.movkKS d a) s x → Completes (.movkKS d a) s x fun w =>
      Passed x 4 w ∧ UniRegs x d.toNat (x.th.seen.get 0 a.toNat) w ∧ w.sticky = x.w.sticky) ∧
    ∀ k, x.a = .wave k → Ready (.movkSK d a) s x → ∃ t, exec (.movkSK d a) s = .next t ∧
      (∃ p q, s.team? k.team = some p ∧ t.team? k.team = some q ∧
        let key := s.sharedKey x.a true
        let old := p.sBy.get 0 d.toNat
        let beaten := key ≠ 0 ∧ key < old ∧ (key - 1) / 64 = (old - 1) / 64 ∧ (key - 1) % 32 ≠ (old - 1) % 32
        (∀ n, n ≠ d.toNat → q.s.get 0 n = p.s.get 0 n) ∧ (¬beaten → q.s.get 0 d.toNat = x.w.kreg a.toNat) ∧
          (beaten → q.s.get 0 d.toNat = p.s.get 0 d.toNat)) ∧
      (∃ w, t.agent? x.a = some w ∧ SameRegs x.w w ∧ Passed { x with w := x.w.see (·.put 0 d.toNat (x.w.kreg a.toNat)) } 4 w ∧
        ∀ l n, l < 32 → l < x.w.threads.length → (w.th l).seen.get 0 n = if n = d.toNat then x.w.kreg a.toNat else (x.w.th l).seen.get 0 n) ∧
      ∀ c b, t.coreByte c b = s.coreByte c b) ∧
  ∀ (d : BitVec 6) (c : BitVec 8) s x k, x.a = .wave k →
    (Ready (.movs d c 0) s x → Completes (.movs d c 0) s x fun w =>
      Passed x 4 w ∧ w.sticky = x.w.sticky ∧
        if c.toNat < 14 then LaneRegs x d.toNat (fun l => loWord (s.special k l c.toNat)) w
        else LanePairs x d.toNat (fun l => s.special k l c.toNat) w) ∧
    (Ready (.movs d c 1) s x → Completes (.movs d c 1) s x fun w =>
      Passed x 4 w ∧ w.sticky = x.w.sticky ∧
        if c.toNat < 14 then UniRegs x d.toNat (loWord (s.special k x.low c.toNat)) w
        else UniPair x d.toNat (s.special k x.low c.toNat) w)

/-- R212 to R214: exchanges among the lanes of the group, which give a lane its own value where the source is no member; predicates over
the group, and the mask of a predicate. -/
def Obligations.CrossLaneResults : Prop :=
  let from_ (x : Issuer) (a : BitVec 6) (l : Nat) (q : Option Nat) : Word :=
    match q with
    | some m => if x.e.getLsbD m = true then x.w.vreg a.toNat m else x.w.vreg a.toNat l
    | none => x.w.vreg a.toNat l
  let dist (x : Issuer) (b : BitVec 6) (l : Nat) : Nat := (x.w.vreg b.toNat l).toNat % 32
  (∀ (d a b : BitVec 6) s x,
    (Ready (.lanexPick d a b) s x → Completes (.lanexPick d a b) s x fun w =>
      Passed x 4 w ∧ LaneRegs x d.toNat (fun l => from_ x a l (some (dist x b l))) w ∧ w.sticky = x.w.sticky) ∧
    (Ready (.lanexLo d a b) s x → Completes (.lanexLo d a b) s x fun w =>
      Passed x 4 w ∧ LaneRegs x d.toNat (fun l => from_ x a l (if dist x b l ≤ l then some (l - dist x b l) else none)) w ∧
        w.sticky = x.w.sticky) ∧
    (Ready (.lanexHi d a b) s x → Completes (.lanexHi d a b) s x fun w =>
      Passed x 4 w ∧ LaneRegs x d.toNat (fun l => from_ x a l (if l + dist x b l ≤ 31 then some (l + dist x b l) else none)) w ∧
        w.sticky = x.w.sticky) ∧
    (Ready (.lanexFlip d a b) s x → Completes (.lanexFlip d a b) s x fun w =>
      Passed x 4 w ∧ LaneRegs x d.toNat (fun l => from_ x a l (some (l ^^^ dist x b l))) w ∧ w.sticky = x.w.sticky) ∧
    (Ready (.lanexRot d a b) s x → Completes (.lanexRot d a b) s x fun w =>
      Passed x 4 w ∧ LaneRegs x d.toNat (fun l => from_ x a l (some ((l + dist x b l) % 32))) w ∧ w.sticky = x.w.sticky)) ∧
  (∀ (d a : BitVec 3) s x,
    (Ready (.pconsAll d a) s x → Completes (.pconsAll d a) s x fun w =>
      PassedPred x d.toNat 4 (fun _ => (List.range 32).all fun l => !x.e.getLsbD l || x.w.preg a.toNat l) w ∧ SameRegs x.w w ∧
        w.sticky = x.w.sticky) ∧
    (Ready (.pconsSome d a) s x → Completes (.pconsSome d a) s x fun w =>
      PassedPred x d.toNat 4 (fun _ => (List.range 32).any fun l => x.e.getLsbD l && x.w.preg a.toNat l) w ∧ SameRegs x.w w ∧
        w.sticky = x.w.sticky) ∧
    (Ready (.pconsSame d a) s x → Completes (.pconsSame d a) s x fun w =>
      PassedPred x d.toNat 4 (fun _ => (List.range 32).all fun l => !x.e.getLsbD l || x.w.preg a.toNat l == x.w.preg a.toNat x.low) w ∧
        SameRegs x.w w ∧
        w.sticky = x.w.sticky)) ∧
  ∀ (d : BitVec 6) (a : BitVec 3) s x, Ready (.pmask d a) s x → ∃ m : Word,
    (Completes (.pmask d a) s x fun w => Passed x 4 w ∧ LaneRegs x d.toNat (fun _ => m) w ∧ w.sticky = x.w.sticky) ∧
      ∀ l, l < 32 → m.getLsbD l = (x.e.getLsbD l && x.w.preg a.toNat l)

/-- R215: a fold over the group's values in ascending lane order, written to every member. -/
def Obligations.FoldResults : Prop :=
  ∀ (d a : BitVec 6) s x,
    let fold (f : Word → Word → Word) : Word := (x.lanes.tail.map (x.w.vreg a.toNat)).foldl f (x.w.vreg a.toNat x.low)
    let foldF (f : Word → Word → Word × Word) : Word × Word :=
      (x.lanes.tail.map (x.w.vreg a.toNat)).foldl (fun p y => ((f p.1 y).1, p.2 ||| (f p.1 y).2)) (x.w.vreg a.toNat x.low, 0)
    let gives (i : Instr) (v : Word) : Prop :=
      Ready i s x → Completes i s x fun w => Passed x 4 w ∧ LaneRegs x d.toNat (fun _ => v) w ∧ w.sticky = x.w.sticky
    let givesF (i : Instr) (v : Word × Word) : Prop :=
      Ready i s x → Untrapped s x → Completes i s x fun w =>
        Passed x 4 w ∧ LaneRegs x d.toNat (fun _ => v.1) w ∧ w.sticky = x.w.sticky ||| v.2
    gives (.wfoldAddI32 d a) (fold (· + ·)) ∧
    gives (.wfoldMinI32 d a) (fold fun p q => BitVec.ofInt 32 (min p.toInt q.toInt)) ∧
    gives (.wfoldMaxI32 d a) (fold fun p q => BitVec.ofInt 32 (max p.toInt q.toInt)) ∧
    gives (.wfoldMinN32 d a) (fold fun p q => BitVec.ofNat 32 (min p.toNat q.toNat)) ∧
    gives (.wfoldMaxN32 d a) (fold fun p q => BitVec.ofNat 32 (max p.toNat q.toNat)) ∧
    gives (.wfoldAnd d a) (fold (· &&& ·)) ∧ gives (.wfoldOr d a) (fold (· ||| ·)) ∧ gives (.wfoldXor d a) (fold (· ^^^ ·)) ∧
    givesF (.wfoldAddF32 d a) (foldF (fadd false .rn)) ∧ givesF (.wfoldMinF32 d a) (foldF (fminmax false false)) ∧
    givesF (.wfoldMaxF32 d a) (foldF (fminmax false true))

/-! Control transfer. -/

/-- R38, R43, R153, R154, R166, R217 to R219, R221: branches and table jumps. Where the targets pass their look-up, `BRA` moves every thread
of the group, `BR` records the group in its mask and divides it, `BRK` takes the threads that leave out of its mask, `JMPT` moves each
thread to the entry that its index names. `NOP` only steps past; `YIELD` passes the leading role on. -/
def Obligations.BranchResults : Prop :=
  (∀ (o : BitVec 22) s x u, Ready (.bra o) s x → s.lookTargets x [x.pc + BitVec.ofInt 64 (2 * o.toInt)] = (none, u) →
    ∃ t, exec (.bra o) s = .next t ∧ Moves (u.modAgent x.a fun w => w.jump x.e fun _ => x.pc + BitVec.ofInt 64 (2 * o.toInt)) t x) ∧
  (∀ (p : BitVec 3) (n : BitVec 1) (j : BitVec 3) (o : BitVec 15) s x u m,
    (∀ l, l < 32 → m.getLsbD l = (x.e.getLsbD l && (x.w.preg p.toNat l != decide (n = 1)))) →
    s.lookTargets x (if m = 0 then [] else [x.pc + BitVec.ofInt 64 (2 * o.toInt)]) = (none, u) →
    (Ready (.br p n j o) s x → ∃ t, exec (.br p n j o) s = .next t ∧
      Moves (u.modAgent x.a fun w => (w.setMask j.toNat x.e).branch x m (x.pc + BitVec.ofInt 64 (2 * o.toInt))) t x) ∧
    (Ready (.brk p n j o) s x → ∃ t, exec (.brk p n j o) s = .next t ∧
      Moves (u.modAgent x.a fun w => ((w.setMask j.toNat (w.mask j.toNat &&& ~~~m)).branch x m
        (x.pc + BitVec.ofInt 64 (2 * o.toInt))).joinRelease j.toNat) t x)) ∧
  (∀ (a : BitVec 6) (j : BitVec 3) (o : BitVec 13) s x nw ts u u' u'', Ready (.jmpt a j o) s x →
    (x.pc + BitVec.ofInt 64 (2 * o.toInt)).toNat % 4 = 0 →
    s.codeWord x.a (x.pc + BitVec.ofInt 64 (2 * o.toInt)) = (.ok nw, u) →
    1 ≤ nw.toNat → nw.toNat ≤ 1024 → (∀ l ∈ x.lanes, (x.w.vreg a.toNat l).toNat < nw.toNat) →
    u.tableTargets x (x.pc + BitVec.ofInt 64 (2 * o.toInt)) (x.lanes.map fun l => (x.w.vreg a.toNat l).toNat) = ({ targets := ts.map some }, u') →
    u'.lookTargets x ts = (none, u'') →
    ∃ t, exec (.jmpt a j o) s = .next t ∧
      ∀ w₀, u''.agent? x.a = some w₀ → ∃ w, t.agent? x.a = some w ∧ w.mask j.toNat = x.e ∧ SameRegs w₀ w ∧
        ∀ l, l < 32 → w.th l = if x.e.getLsbD l ∧ l < w₀.threads.length then
          { w₀.th l with pc := pcOf (ts[x.lanes.idxOf l]?.getD 0), cpos := 0, chdr := 0 } else w₀.th l) ∧
  (∀ (w : Wave) (x : Issuer) (m : LaneMask) (d : DWord) l, l < 32 → l < w.threads.length → x.e.getLsbD l = true →
    ((w.branch x m d).th l).pc = pcOf (if m.getLsbD l then d else x.pc + 4)) ∧
  (∀ (w : Wave) (x : Issuer) (m : LaneMask) (d : DWord), w.groups.head? = some x.e →
    (w.branch x m d).groups = if m = 0 ∨ m = x.e then w.groups else (x.e &&& ~~~m) :: w.groups.tail) ∧
  (∀ (w : Wave) (x : Issuer) (m : LaneMask) (d : DWord) gs, GroupsOk w → w.groups = x.e :: gs → m ≠ 0 → m ≠ x.e → m &&& ~~~x.e = 0 →
    pcOf d ≠ pcOf (x.pc + 4) → (∀ h ∈ gs, (w.th (lowLane h)).pc ≠ pcOf d ∧ (w.th (lowLane h)).pc ≠ pcOf (x.pc + 4)) →
    ((w.branch x m d).regroup).groups = (x.e &&& ~~~m) :: gs ++ [m]) ∧
  (∀ s x, Ready .nop s x → ∃ t, exec .nop s = .next t ∧ Advances s t x .nop) ∧
  ∀ s x, Ready .yieldI s x → ∃ t, exec .yieldI s = .next t ∧ Moves (s.modAgent x.a fun w => (w.stepPast x.e 4).yieldLead) t x

/-- R61, R220: `CALL` and `CALLT` push the address after the instruction on each thread's spill stack (a `CALLT` through the last entry of
its table does not) and go to their targets; `RET` pops it. -/
def Obligations.CallResults : Prop :=
  (∀ (o : BitVec 22) s x u, Ready (.call o) s x → s.lookTargets x [x.pc + BitVec.ofInt 64 (2 * o.toInt)] = (none, u) →
    (∀ l ∈ x.lanes, (x.w.th l).spill ≤ 126) →
    ∃ t, exec (.call o) s = .next t ∧
      Moves (u.modAgent x.a fun w => (w.pushReturns (u.descOf x.a).nregs x.e (x.pc + 4)).jump x.e fun _ => x.pc + BitVec.ofInt 64 (2 * o.toInt)) t x) ∧
  (∀ (a : BitVec 6) (j : BitVec 3) (o : BitVec 13) s x nw ts u u' u'' push, Ready (.callt a j o) s x →
    (x.pc + BitVec.ofInt 64 (2 * o.toInt)).toNat % 4 = 0 →
    s.codeWord x.a (x.pc + BitVec.ofInt 64 (2 * o.toInt)) = (.ok nw, u) →
    1 ≤ nw.toNat → nw.toNat ≤ 1024 → (∀ l ∈ x.lanes, (x.w.vreg a.toNat l).toNat < nw.toNat) →
    u.tableTargets x (x.pc + BitVec.ofInt 64 (2 * o.toInt)) (x.lanes.map fun l => (x.w.vreg a.toNat l).toNat) = ({ targets := ts.map some }, u') →
    u'.lookTargets x ts = (none, u'') →
    (∀ l, l < 32 → push.getLsbD l = (x.e.getLsbD l && decide ((x.w.vreg a.toNat l).toNat ≠ nw.toNat - 1))) →
    (∀ l ∈ lanesOf push, (x.w.th l).spill ≤ 126) →
    ∃ t, exec (.callt a j o) s = .next t ∧
      Moves (u''.modAgent x.a fun w =>
        ((w.setMask j.toNat x.e).pushReturns (u''.descOf x.a).nregs push (x.pc + 4)).jump x.e fun l => ts[x.lanes.idxOf l]?.getD 0) t x) ∧
  (∀ s x u, Ready .ret s x → (∀ l ∈ x.lanes, 2 ≤ (x.w.th l).spill) → s.lookTargets x (x.lanes.map x.w.returnAddr) = (none, u) →
    ∃ t, exec .ret s = .next t ∧
      Moves (u.modAgent x.a fun w => (w.jump x.e x.w.returnAddr).modLanes x.e fun h => { h with spill := h.spill - 2 }) t x) ∧
  ∀ (w : Wave) (nr : Nat) (m : LaneMask) (d : DWord) l, l < 32 → l < w.threads.length → m.getLsbD l = true →
    ((w.pushReturns nr m d).th l).spill = (w.th l).spill + 2 ∧ (w.pushReturns nr m d).returnAddr l = d

/-- R25, R43, R221, R350: a `JOIN` at an empty mask steps past, and else waits there with the release test; `EXIT` ends the group's
threads, and the program of a command processor, which sets DONE. -/
def Obligations.JoinExitResults : Prop :=
  (∀ (j : BitVec 3) s x, Ready (.joinI j) s x → ∃ t, exec (.joinI j) s = .next t ∧
    (x.w.mask j.toNat = 0 → Advances s t x (.joinI j)) ∧
    (x.w.mask j.toNat ≠ 0 → Moves (s.modAgent x.a fun w => (w.waitAt x.e 1 j.toNat).joinRelease j.toNat) t x)) ∧
  (∀ s x k, x.a = .wave k → Ready .exitI s x → ∃ t w, exec .exitI s = .next t ∧ OnlyWave s t x.a w ∧ SameRegs x.w w ∧
    ∀ l, l < 32 → w.th l = if x.e.getLsbD l = true ∧ l < x.w.threads.length then { x.w.th l with stat := .exited, kind := 0 } else x.w.th l) ∧
  ∀ s x c, x.a = .cp c → c < 16 → s.ctxs.length = 16 → Ready .exitI s x → ∃ t, exec .exitI s = .next t ∧
    (t.ctReg c 0x009).getLsbD 1 = false ∧ (t.ctReg c 0x009).getLsbD 2 = true ∧
    (∀ n, n ≠ 0x009 → t.ctReg c n = s.ctReg c n) ∧ ∀ n b, t.coreByte n b = s.coreByte n b

/-! Causes. -/

/-- R221, R382 to R384: `TRAP` and `BREAK`, on a wave whose traps are not masked and whose kernel has a handler, enter it: the cause and
the trap code are recorded, the return point after the instruction and the group are saved, traps are masked, `k60` to `k63` take the
cause, the group and the return address, and the group runs at the handler; every other register and thread is as it was. -/
def Obligations.HandlerEntry : Prop :=
  ∀ (n : BitVec 8) (i : Instr) (code : Nat), (i = .trap n ∧ code = 0x17) ∨ (i = .breakI n ∧ code = 0x18) →
    ∀ s x k, x.a = .wave k → Ready i s x → x.w.tm = false → x.w.cpu = false → (s.descOf x.a).handler ≠ 0 →
      ∃ t w, exec i s = .next t ∧ OnlyWave s t x.a w ∧
        w.tm = true ∧ w.code = BitVec.ofNat 8 code ∧ w.tcode = n ∧ w.epc = pc57 (x.pc + 4) ∧
        w.ecpos = (x.th.advance 4).cpos ∧ w.echdr = (x.th.advance 4).chdr ∧ w.emask = x.e ∧
        w.kreg 60 = BitVec.ofNat 32 (n.toNat * 256 + code) ∧ w.kreg 61 = x.e ∧ w.kpair 62 = (pc57 (x.pc + 4)).setWidth 64 ∧
        (∀ m, m < 60 → w.kreg m = x.w.kreg m) ∧ (∀ m l, l < 32 → w.vreg m l = x.w.vreg m l) ∧
        ∀ l, l < 32 → w.th l = if x.e.getLsbD l = true ∧ l < x.w.threads.length then
          { x.w.th l with pc := pcOf (s.descOf x.a).handler, cpos := 0, chdr := 0, stat := .running, kind := 0 } else x.w.th l

/-- R222, R384: `ERET` with traps masked, once every thread of `WV_EMASK` that has not exited stands at it, and where its return point raises no
cause, unmasks traps and resumes them all at the saved point; with saved position 0 no clause is in progress there, so that its header is tested again,
and a point that is no clause header raises `CLAUSE` (log entry 52). A point within a clause takes the saved header. -/
def Obligations.HandlerReturn : Prop :=
  (∀ s x u, Ready .eret s x → x.w.tm = true → x.e &&& ~~~x.w.emask = 0 →
    x.w.emask &&& x.w.live &&& ~~~(x.e ||| x.w.waitingFor [9]) = 0 → s.returnCause x = (none, u) →
    ∃ t, exec .eret s = .next t ∧ Moves (u.modAgent x.a Wave.returnFromHandler) t x ∧
      ∀ w₀ : Wave, w₀.returnFromHandler.tm = false ∧ SameRegs w₀ w₀.returnFromHandler ∧
        ∀ l, l < 32 → l < w₀.threads.length → w₀.returnFromHandler.th l =
          if w₀.emask.getLsbD l ∧ (w₀.th l).stat ≠ .exited then
            { w₀.th l with
              pc := w₀.epc.setWidth 64, cpos := w₀.ecpos, chdr := if w₀.ecpos = 0 then 0 else w₀.echdr, stat := .running, kind := 0, arg := 0 }
          else w₀.th l) ∧
  ∀ (s : State) (x : Issuer) (word : Word) (u : State), (x.w.epc.setWidth 64).getLsbD 0 = false → s.codeHead x.a (x.w.epc.setWidth 64) = (.ok word, u) →
    s.returnCause x = (if x.w.ecpos = 0 ∧ isClauseHeader word = false then some Cause.clause else none, u)

/-- R351, R382, R385 to R387: a cause other than `PAGE` and `CONTEXT`, which park, that no handler takes (its class is not the handler's, traps are
masked, or the kernel has no handler) halts the wave's context with its code, and changes no register of the wave; on a command processor the program stops and `CP_FAULT` is
raised. -/
def Obligations.CauseHalts : Prop :=
  (∀ (s : State) (k : WaveKey) (w : Wave) (e : LaneMask) (code : Cause) (tc : Byte) (pc : DWord) (ret : Thread) (src : Nat),
    s.agent? (.wave k) = some w → k.team.grid.ctx < s.ctxs.length → code ≠ Cause.page → code ≠ Cause.context →
    (Cause.handlerClass code = false ∨ w.tm = true ∨ (s.descOf (.wave k)).handler = 0) →
      State.HaltsWith s (s.takeCause (.wave k) e code tc pc ret src) k.team.grid.ctx code ∧
      ∃ w', (s.takeCause (.wave k) e code tc pc ret src).agent? (.wave k) = some w' ∧ SameRegs w w' ∧ w'.threads = w.threads ∧
        w'.code = BitVec.ofNat 8 code ∧ w'.tcode = tc) ∧
  ∀ (s : State) (c : Nat) (e : LaneMask) (code : Cause) (tc : Byte) (pc : DWord) (ret : Thread) (src : Nat),
    c < s.ctxs.length → code < 256 →
      let t := s.takeCause (.cp c) e code tc pc ret src
      (t.ctReg c 0x009).getLsbD 1 = false ∧ (t.ctReg c 0x009).getLsbD 3 = true ∧ bits (t.ctReg c 0x009) 4 8 = code ∧
        (∀ l, l < 32 → ((t.ctx c).cp.th l).stat = .exited) ∧ (partOf c < s.parts.length → ∃ r ∈ (t.part (partOf c)).evq, r.event = 4)

/-! Memory. -/

/-- R45, R64, R125, R127, R128, R224 to R229: where every lane passes its checks, a load first performs the accesses in flight that
program order puts before it; then it puts one access a lane in flight under its flag, and the group steps past it. The flag rises by 1, the
operation joins those in flight, and no byte of memory changes. -/
def Obligations.LoadIssues : Prop :=
  let goes (i : Instr) (s u : State) (x : Issuer) (uni last : Bool) (t : BitVec 3) (d : BitVec 6) (m : Sem) (ps : List (Nat × Place)) : Prop :=
    let e := if uni then x.e else lanesOfPlaces ps
    let v := u.forceBefore x.a e uni (typeSize t) ps
    Occurs i s fun r => Advances (v.launchOp x i e
      (.load (typeSize t) (signExtends t) (blockOf t d).1 uni last (2 ≤ m.scope) m.acq)
      (ps.map fun p => { lane := p.1, place := p.2 })) r x i
  (∀ (f : BitVec 1) (d b : BitVec 6) (t : BitVec 3) (sv : BitVec 4) (o : BitVec 5) (s u : State) (x : Issuer) (ps : List (Nat × Place)),
    let reqs := x.lanes.map fun l => (l, x.base b l + BitVec.ofNat 64 (o.toNat * typeSize t), AccMode.load)
    s.ctxHazard x false (typeSize t) (reqs.map fun r => (r.1, r.2.1)) = false → s.Grants u x.a (typeSize t) reqs ps →
      (Ready (.ld f d b t sv o) s x → goes (.ld f d b t sv o) s u x false false t d (semOf sv.toNat 0) ps) ∧
      (Ready (.ldLast f d b t o) s x → goes (.ldLast f d b t o) s u x false true t d (semOf 0 0) ps)) ∧
  (∀ (f : BitVec 1) (d : BitVec 6) (b : BitVec 5) (t : BitVec 3) (sv : BitVec 4) (o : BitVec 5)
      (s u : State) (x : Issuer) (ps : List (Nat × Place)),
    let reqs := [(x.low, x.w.kpair (2 * b.toNat) + BitVec.ofNat 64 (o.toNat * typeSize t), AccMode.load)]
    Ready (.ldk f d b t sv o) s x → s.ctxHazard x true (typeSize t) (reqs.map fun r => (r.1, r.2.1)) = false →
    s.Grants u x.a (typeSize t) reqs ps → goes (.ldk f d b t sv o) s u x true false t d (semOf sv.toNat 0) ps) ∧
  (∀ (f : BitVec 1) (d : BitVec 6) (b : BitVec 5) (t : BitVec 3) (sv : BitVec 4) (o : BitVec 5)
      (s : State) (x : Issuer) (ps : List (Nat × Place)), Ready (.ldl f d b t sv o) s x →
    s.lagoonPlaces x (typeSize t) (x.lanes.map fun l => (l, x.w.vreg b.toNat l, o.toNat * typeSize t)) = .ok ps →
    let m := semOf sv.toNat 0
    let v := s.forceBefore x.a x.e false (typeSize t) ps
    Occurs (.ldl f d b t sv o) s fun r =>
      Advances (v.launchOp x (.ldl f d b t sv o) x.e
        (.load (typeSize t) (signExtends t) (blockOf t d).1 false false false m.acq)
        (ps.map fun p => { lane := p.1, place := p.2 })) r x (.ldl f d b t sv o)) ∧
  (∀ (s : State) (x : Issuer) (i : Instr) (e : LaneMask) (kind : OpKind) (accs : List LaneAcc),
    (s.launchOp x i e kind accs).ops = s.ops ++
      [{ id := s.opCtr, agent := x.a, pc := x.pc, core := s.coreOf x.a, lanes := e, flags := x.flags i, kind := kind, accs := accs,
         who := s.whoBase x.a, quarter := x.w.quarter }] ∧
      s.SameMemory (s.launchOp x i e kind accs)) ∧
  (∀ (s : State) (x : Issuer) (i : Instr) (e : LaneMask) (kind : OpKind) (accs : List LaneAcc) (k : WaveKey) (w : Wave)
      (n : Nat), x.a = .wave k → s.agent? x.a = some w → flagOf i x.th.chdr = some n →
    ∃ w', (s.launchOp x i e kind accs).agent? x.a = some w' ∧ w'.flag n = w.flag n + 1 ∧ SameRegs w w') ∧
  ∀ (s : State) (a : Agent) (e : LaneMask) (uni : Bool) (size : Nat) (ps : List (Nat × Place)), (∀ o ∈ s.ops, o.agent ≠ a) →
    s.SameMemory (s.forceBefore a e uni size ps)

/-- R119, R125, R132, R224 to R229: where every lane passes its checks, a store writes its lanes' bytes in ascending lane order, so that
the highest lane's byte stands, after what program order and a release put before it; the group steps past it. The writing core sees the
bytes at once (log entry 8), every other byte of memory is as it was on every core, and so is a lagoon but for the bytes written to it. -/
def Obligations.StoreResults : Prop :=
  let goes (i : Instr) (s u : State) (x : Issuer) (uni : Bool) (size : Nat) (m : Sem) (reqs : List (Nat × DWord × List Byte))
      (ps : List (Nat × Place)) : Prop :=
    let e := if uni then x.e else lanesOfPlaces ps
    let v := (u.forceBefore x.a e uni size ps).releaseBefore x m
    Occurs i s fun r =>
      Advances (v.storeLanes x i uni m
        (reqs.filterMap fun q => (ps.find? fun p => p.1 = q.1).map fun p => (q.1, q.2.1, p.2, q.2.2))) r x i
  (∀ (d b : BitVec 6) (t : BitVec 3) (sv : BitVec 4) (o : BitVec 5) (s u : State) (x : Issuer) (ps : List (Nat × Place)),
    Ready (.st d b t sv o) s x →
    let reqs := x.lanes.map fun l =>
      (l, x.base b l + BitVec.ofNat 64 (o.toNat * typeSize t), blockBytes (x.w.reader l) (blockOf t d).1 (typeSize t))
    s.ctxHazard x false (typeSize t) (reqs.map fun r => (r.1, r.2.1)) = false → s.Grants u x.a (typeSize t) (reqs.map fun q => (q.1, q.2.1, .store q.2.2)) ps →
      goes (.st d b t sv o) s u x false (typeSize t) (semOf sv.toNat 0) reqs ps) ∧
  (∀ (d : BitVec 6) (b : BitVec 5) (t : BitVec 3) (sv : BitVec 4) (o : BitVec 5) (s u : State) (x : Issuer) (ps : List (Nat × Place)),
    Ready (.stk d b t sv o) s x →
    let reqs := [(x.low, x.w.kpair (2 * b.toNat) + BitVec.ofNat 64 (o.toNat * typeSize t),
      blockBytes x.w.kreg (blockOf t d).1 (typeSize t))]
    s.ctxHazard x true (typeSize t) (reqs.map fun r => (r.1, r.2.1)) = false → s.Grants u x.a (typeSize t) (reqs.map fun q => (q.1, q.2.1, .store q.2.2)) ps →
      goes (.stk d b t sv o) s u x true (typeSize t) (semOf sv.toNat 0) reqs ps) ∧
  (∀ (d : BitVec 6) (b : BitVec 5) (t : BitVec 3) (sv : BitVec 4) (o : BitVec 5) (s : State) (x : Issuer) (ps : List (Nat × Place)),
    Ready (.stl d b t sv o) s x →
    s.lagoonPlaces x (typeSize t) (x.lanes.map fun l => (l, x.w.vreg b.toNat l, o.toNat * typeSize t)) = .ok ps →
    let m := lagoonSem x (semOf sv.toNat 0) ps
    let v := (s.forceBefore x.a x.e false (typeSize t) ps).releaseBefore x m
    Occurs (.stl d b t sv o) s fun r =>
      Advances (v.storeLanes x (.stl d b t sv o) false m
        (ps.map fun p => (p.1, 0, p.2, blockBytes (x.w.reader p.1) (blockOf t d).1 (typeSize t)))) r x (.stl d b t sv o)) ∧
  (∀ (s : State) (x : Issuer) (i : Instr) (uni : Bool) (m : Sem) (qs : List (Nat × DWord × Place × List Byte)), x.coreReleases m = 0 → m.rel = false →
    s.coreOf x.a < 320 → (∀ e ∈ (s.core (s.coreOf x.a)).l1.wtq, e.addr % 64 + e.bytes.length ≤ 64) →
    (∀ q ∈ qs, ∃ pa nc row, q.2.2.1 = .mem pa nc row ∧ q.2.2.1.remoteStore (s.coreOf x.a) = false ∧ pa % 64 + q.2.2.2.length ≤ 64 ∧
      s.waited q.2.2.1 q.2.2.2.length = false) →
    let t := s.storeLanes x i uni m qs
    (∀ c b, c ≠ s.coreOf x.a → t.coreByte c b = s.coreByte c b) ∧
    (∀ b, (∀ q ∈ qs, ∀ pa nc row, q.2.2.1 = .mem pa nc row → b < pa ∨ pa + q.2.2.2.length ≤ b) →
      t.coreByte (s.coreOf x.a) b = s.coreByte (s.coreOf x.a) b) ∧
    ∀ pre post l va pa nc row (bs : List Byte) j (h : j < bs.length), qs = pre ++ (l, va, .mem pa nc row, bs) :: post →
      (∀ q ∈ post, ∀ pb nc' row', q.2.2.1 = .mem pb nc' row' → pa + j < pb ∨ pb + q.2.2.2.length ≤ pa + j) →
      t.coreByte (s.coreOf x.a) (pa + j) = bs[j]) ∧
  ∀ (s : State) (x : Issuer) (b : StoreId) (va : DWord) (k : TeamKey) (off : Nat) (bs : List Byte), (s.team? k).isSome = true →
    s.lagoonCore k = s.coreOf x.a → s.waited (.lagoon k off) bs.length = false →
    let t := s.storeLane x b va (.lagoon k off) bs
    s.SameMemory t ∧ (∀ j (h : j < bs.length), t.lagoonRead k (off + j) 1 = [bs[j]]) ∧
      ∀ k' b, k' ≠ k ∨ b < off ∨ off + bs.length ≤ b → t.lagoonRead k' b 1 = s.lagoonRead k' b 1

/-- R61, R230: `SPUSH` writes register d of each lane at its spill pointer and raises the pointer; `SPOP` lowers it and reads the entry. A
full stack, or an empty one, is `ACCESS`, with no effect. -/
def Obligations.SpillResults : Prop :=
  ∀ (d : BitVec 6) (s : State) (x : Issuer),
    (Ready (.spush d) s x → (∀ l ∈ x.lanes, (x.w.th l).spill ≠ 128) → ∃ t w, exec (.spush d) s = .next t ∧ OnlyWave s t x.a w ∧
      SameRegs x.w w ∧ w.sticky = x.w.sticky ∧
      (∀ l, l < 32 → l < x.w.threads.length → x.has l → (x.w.th l).stat = .running →
        w.th l = { (x.w.th l).advance (Instr.spush d).size with spill := (x.w.th l).spill + 1 }) ∧
      (∀ l, l < 32 → ¬x.has l → w.th l = x.w.th l) ∧
      ∀ n l, l < 32 → w.spill.get 0 (32 * n + l) =
        if x.e.getLsbD l = true ∧ n = (x.w.th l).spill then x.w.vreg d.toNat l else x.w.spill.get 0 (32 * n + l)) ∧
    (Ready (.spop d) s x → (∀ l ∈ x.lanes, (x.w.th l).spill ≠ 0) → ∃ t w, exec (.spop d) s = .next t ∧ OnlyWave s t x.a w ∧
      LaneRegs x d.toNat (fun l => x.w.spill.get 0 (32 * ((x.w.th l).spill - 1) + l)) w ∧ w.sticky = x.w.sticky ∧ w.spill = x.w.spill ∧
      (∀ l, l < 32 → l < x.w.threads.length → x.has l → (x.w.th l).stat = .running →
        w.th l = { (x.w.th l).advance (Instr.spop d).size with spill := (x.w.th l).spill - 1 }) ∧
      ∀ l, l < 32 → ¬x.has l → w.th l = x.w.th l) ∧
    ∀ k, x.a = .wave k → k.team.grid.ctx < s.ctxs.length →
      (Ready (.spush d) s x → (∃ l ∈ x.lanes, (x.w.th l).spill = 128) →
        Occurs (.spush d) s fun t => State.HaltsWith s t k.team.grid.ctx Cause.access) ∧
      (Ready (.spop d) s x → (∃ l ∈ x.lanes, (x.w.th l).spill = 0) →
        Occurs (.spop d) s fun t => State.HaltsWith s t k.team.grid.ctx Cause.access)

/-- R45, R66, R225: the checks of one lane in their order, and what a group does where a lane fails one: the lowest cause is taken with
no effect; lanes that find `PAGE` alone park, and the others' load or store is performed. -/
def Obligations.AccessChecks : Prop :=
  (∀ (s : State) (a : Agent) (l : Nat) (m : AccMode) (n : Nat) (va : DWord), 2 ^ 57 ≤ va.toNat → (s.checkLane a l m n va).1 = .cause Cause.access) ∧
  (∀ (s : State) (a : Agent) (l : Nat) (m : AccMode) (n : Nat) (va : DWord), va.toNat < 2 ^ 57 → va.toNat % n ≠ 0 →
    (s.checkLane a l m n va).1 = .cause Cause.align) ∧
  (∀ (s : State) (a : Agent) (l : Nat) (m : AccMode) (n : Nat) (va : DWord) (u : State), va.toNat < 2 ^ 57 → va.toNat % n = 0 →
    s.translate (ctxOf a) (s.coreOf a) (s.level a) m.kind va = (.page, u) →
    s.checkLane a l m n va = (.page, u)) ∧
  (∀ (s : State) (a : Agent) (n : Nat) (reqs : List (Nat × DWord × AccMode)) c, (∀ r ∈ reqs, 2 ^ 57 ≤ r.2.1.toNat ∨ r.2.1.toNat % n ≠ 0) →
    (s.checkLanes a n reqs).1.cause = some c →
      if ∀ r ∈ reqs, 2 ^ 57 ≤ r.2.1.toNat then c = Cause.access else c = Cause.align) ∧
  (∀ (d b : BitVec 6) (t : BitVec 3) (sv : BitVec 4) (o : BitVec 5) (s : State) (x : Issuer) (p : Checked × State),
    Ready (.st d b t sv o) s x →
    s.ctxHazard x false (typeSize t) (x.lanes.map fun l => (l, x.base b l + BitVec.ofNat 64 (o.toNat * typeSize t))) = false →
    s.checkLanes x.a (typeSize t) (x.lanes.map fun l =>
      (l, x.base b l + BitVec.ofNat 64 (o.toNat * typeSize t),
        .store (blockBytes (x.w.reader l) (blockOf t d).1 (typeSize t)))) = p →
    ∀ c, p.1.cause = some c →
      exec (.st d b t sv o) s = .next (p.2.takeCause x.a x.e c 0 x.pc (x.th.advance 4) 0)) ∧
  (∀ (d b : BitVec 6) (t : BitVec 3) (sv : BitVec 4) (o : BitVec 5) (s : State) (x : Issuer) (c : Checked) (u : State),
    Ready (.st d b t sv o) s x →
    let reqs := x.lanes.map fun l =>
      (l, x.base b l + BitVec.ofNat 64 (o.toNat * typeSize t), blockBytes (x.w.reader l) (blockOf t d).1 (typeSize t))
    s.ctxHazard x false (typeSize t) (reqs.map fun r => (r.1, r.2.1)) = false →
    s.checkLanes x.a (typeSize t) (reqs.map fun q => (q.1, q.2.1, .store q.2.2)) = (c, u) →
    c.cause = none → c.drop = false → c.paged ≠ [] →
      let v := u.parkPaged x false c.paged true false
      let m := semOf sv.toNat 0
      (c.oks = [] → Occurs (.st d b t sv o) s fun r => Moves v r x) ∧
      let y := (v.forceBefore x.a (lanesOfPlaces c.oks) false (typeSize t) c.oks).releaseBefore x m
      (c.oks ≠ [] → Occurs (.st d b t sv o) s fun r =>
        Advances (y.storeLanes x (.st d b t sv o) false m
          (reqs.filterMap fun q => (c.oks.find? fun p => p.1 = q.1).map fun p => (q.1, q.2.1, p.2, q.2.2))) r x (.st d b t sv o))) ∧
  ∀ (f : BitVec 1) (d b : BitVec 6) (t : BitVec 3) (sv : BitVec 4) (o : BitVec 5) (s : State) (x : Issuer) (c : Checked) (u : State),
    Ready (.ld f d b t sv o) s x →
    let reqs := x.lanes.map fun l => (l, x.base b l + BitVec.ofNat 64 (o.toNat * typeSize t), AccMode.load)
    s.ctxHazard x false (typeSize t) (reqs.map fun r => (r.1, r.2.1)) = false → s.checkLanes x.a (typeSize t) reqs = (c, u) →
    let v := u.parkPaged x false c.paged false false
    let m := semOf sv.toNat 0
    (∀ k, c.cause = some k → exec (.ld f d b t sv o) s = .next (u.takeCause x.a x.e k 0 x.pc (x.th.advance 4) 0)) ∧
    (c.cause = none → c.drop = false → c.paged ≠ [] → c.oks = [] → Occurs (.ld f d b t sv o) s fun r => Moves v r x) ∧
    let y := v.forceBefore x.a (lanesOfPlaces c.oks) false (typeSize t) c.oks
    (c.cause = none → c.drop = false → c.paged ≠ [] → c.oks ≠ [] →
      Occurs (.ld f d b t sv o) s fun r =>
      Advances (y.launchOp x (.ld f d b t sv o) (lanesOfPlaces c.oks)
        (.load (typeSize t) (signExtends t) (blockOf t d).1 false false (2 ≤ m.scope) m.acq)
        (c.oks.map fun p => { lane := p.1, place := p.2 })) r x (.ld f d b t sv o))

/-- R129, R132 to R136, R227, R236: `FENCE` performs the wave's accesses in flight; releasing at `.core`
makes the later strong writes of its threads release points; releasing wider leaves no dirty byte and no queued write in the core's L1, each at its home point, and changes
nothing that the core itself sees, where none of them meets an object that is waited at or leaves the module; acquiring at `.clus` or wider
leaves no clean byte. `PREF` fills the L1 at level 0, which changes nothing that a core sees. -/
def Obligations.FenceResults : Prop :=
  (∀ (sv : BitVec 5) (s : State) (x : Issuer), Ready (.fence sv) s x →
    let m := semOf sv.toNat 3
    let u := s.forceAll x.a
    let v :=
      if m.rel = true ∧ m.scope = 1 then u.modAgent x.a fun w => { w with relFence := w.relFence ||| x.e }
      else if m.rel = true ∧ 2 ≤ m.scope then u.release (u.coreOf x.a) 2 none
      else u
    Occurs (.fence sv) s fun t =>
      Advances (if m.acq then v.acquire (v.coreOf x.a) m.scope else v) t x (.fence sv)) ∧
  (∀ (s : State) (x : Issuer) (m : Sem) (lanes : LaneMask) (l pa : Nat) (nc row : Bool), l < 32 → m.strong = true → m.rel = false →
    x.e.getLsbD l = true → lanes.getLsbD l = true → x.w.relFence.getLsbD l = true →
    s.recordRelease x m lanes (.mem pa nc row) = s.release (s.coreOf x.a) 1 (some pa)) ∧
  (∀ (s : State) (c : Nat), c < 320 → s.Quiet c →
    let t := s.release c 2 none
    (t.core c).l1.dirty = [] ∧ (t.core c).l1.wtq = [] ∧ (∀ b, t.coreByte c b = s.coreByte c b) ∧
      ∀ a b, (s.core c).l1.dirty.find a = some b → t.homeByte a = b) ∧
  (∀ (s : State) (c n : Nat), c < 320 → 2 ≤ n → ((s.acquire c n).core c).l1 = { (s.core c).l1 with clean := [] } ∧
    ∀ c' b, c' ≠ c → (s.acquire c n).coreByte c' b = s.coreByte c' b) ∧
  (∀ (d b : BitVec 6) (o : BitVec 5) (s : State) (x : Issuer), Ready (.pref d b o) s x →
    Occurs (.pref d b o) s fun t =>
      Advances (if d = 0 then x.lanes.foldl (fun v l => v.prefetch x l (x.base b l + BitVec.ofNat 64 (o.toNat * 256))) s else s)
        t x (.pref d b o)) ∧
  ∀ (s : State) (c a : Nat), s.SameMemory (s.fillSector c a)

/-- R121, R132, R163, R173 to R175, R224: a load whose accesses have been performed completes: each lane's destination takes its value,
extended by its sign or by zeros, no other register changes, and the flag falls; which words come before the completion is open. The promotion
of a release performs the oldest record of a core; the core sees nothing change. -/
def Obligations.AccessCompletions : Prop :=
  (∀ (s : State) (op : Nat) (o : Op), (s.performOp op).op? op = some o → o.kind.returns = true → o.settled = true →
    exec (.loadCompletion op) s =
      .next ((((((s.performOp op).dropOp op).discardRead o).modAgent o.agent (o.deliver o.results)).dropFlags o.flags).pendOp o)) ∧
  (∀ (o : Op) (w : Wave), o.early = [] → o.deliver o.results w = o.accs.foldl (fun w a => o.writeResult w a) w) ∧
  (∀ (s : State) (op : Nat), (∀ o ∈ s.ops, ∀ a ∈ o.accs, a.result.isSome = true ∨ a.skip = true) → s.performOp op = s) ∧
  (∀ (o : Op) (w : Wave) (a : LaneAcc) (bs : List Byte) n sext dst last home acq, o.kind = .load n sext dst false last home acq →
    a.result = some bs → a.skip = false → bs.length = n → n = 1 ∨ n = 2 ∨ n = 4 → w.cpu = false → a.lane < 32 →
      (o.writeResult w a).vreg dst a.lane = BitVec.ofInt 32
        (if sext = true ∧ 2 ^ (8 * n - 1) ≤ ofLeBytes bs then (ofLeBytes bs : Int) - 2 ^ (8 * n) else ofLeBytes bs) ∧
      (∀ m l, l < 32 → m ≠ dst ∨ l ≠ a.lane → (o.writeResult w a).vreg m l = w.vreg m l) ∧
      ∀ m, (o.writeResult w a).kreg m = w.kreg m) ∧
  ∀ (s : State) (core : Nat), core < 320 → (s.core core).l1.recs ≠ [] → s.Quiet core → Occurs (.releasePromotion core) s fun t =>
    (t.core core).l1.recs = (s.core core).l1.recs.tail ∧ ∀ b, t.coreByte core b = s.coreByte core b

/-- R127, R128, R132, R143, R168, R231 to R235: where every lane passes its checks, an atomic goes in flight after what its ordering puts
before it, and the group steps past it; the location has the size of the operation's type, and the operand is in the data block of R232. At its home point, where the core's L1 has nothing of the location's
line to write back or queued and no other core a release recorded there, it returns the old value and leaves the new one of R233, and no other byte
changes. Where the scope and the page allow the core's L1, and no other core has a release recorded in the line, it returns what the core saw and
leaves the new value there, and no other byte changes. Its completion writes the old value to the data block. -/
def Obligations.AtomicResults : Prop :=
  let v (s : State) (x : Issuer) (i : Instr) (o : BitVec 5) (dst : Option Nat) (m : Sem) (home : Bool) (d : Nat) (ps : List (Nat × Place)) :
      State :=
    (ps.foldl (fun s p => if dst.isNone || home || p.2.uncached then s.recordRelease x m (laneBit p.1) p.2 else s) s).launchOp x i (lanesOfPlaces ps)
      (.atomic o dst home m.acq (x.coreReleases m ≠ 0)) (atomAccs x o.toNat d ps)
  (∀ (f : BitVec 1) (d b : BitVec 6) (o sv : BitVec 5) (s u : State) (x : Issuer) (ps : List (Nat × Place)),
    s.Grants u x.a (atomSize o.toNat) (x.lanes.map fun l => (l, x.base b l, .atom o.toNat)) ps →
    let m := semOf sv.toNat 3
    let y := (u.forceBefore x.a (lanesOfPlaces ps) false (atomSize o.toNat) ps).releaseBefore x m
    (Ready (.atom f d b o sv) s x → Occurs (.atom f d b o sv) s fun t =>
      Advances (v y x (.atom f d b o sv) o (some (atomBlock o d).1) m (2 ≤ m.scope) (atomBlock o d).1 ps) t x (.atom f d b o sv)) ∧
    (Ready (.red d b o sv) s x → Occurs (.red d b o sv) s fun t =>
      Advances (v y x (.red d b o sv) o none m true (atomBlock o d).1 ps) t x (.red d b o sv))) ∧
  (∀ (f : BitVec 1) (d b : BitVec 6) (o sv : BitVec 5) (s : State) (x : Issuer) (ps : List (Nat × Place)),
    s.lagoonPlaces x (atomSize o.toNat) (x.lanes.map fun l => (l, x.w.vreg b.toNat l, 0)) = .ok ps →
    let m := lagoonSem x (semOf sv.toNat 3) ps
    let y := (s.forceBefore x.a (lanesOfPlaces ps) false (atomSize o.toNat) ps).releaseBefore x m
    (Ready (.atoml f d b o sv) s x → Occurs (.atoml f d b o sv) s fun t =>
      Advances (v y x (.atoml f d b o sv) o (some (atomBlock o d).1) m true (atomBlock o d).1 ps) t x (.atoml f d b o sv)) ∧
    (Ready (.redl d b o sv) s x → Occurs (.redl d b o sv) s fun t =>
      Advances (v y x (.redl d b o sv) o none m true (atomBlock o d).1 ps) t x (.redl d b o sv))) ∧
  (∀ n, n < 0x17 → atomSize n = if n ∈ [0x01, 0x0E, 0x0F, 0x10, 0x12, 0x14] then 8 else if n ∈ [0x03, 0x04] then 2 else 4) ∧
  (∀ (x : Issuer) (n d : Nat) (ps : List (Nat × Place)),
    let z (w : Word) : DWord := w.setWidth 64
    atomAccs x n d ps = ps.map fun p =>
      let r := x.w.reader p.1
      { lane := p.1, place := p.2,
        operand :=
          if n = 0x03 ∨ n = 0x04 then z (r d &&& 0xFFFF) else if n = 0x13 then z (r (d + 1)) else if n = 0x14 then r.pair (d + 2)
          else if n ∈ [0x01, 0x0E, 0x0F, 0x10, 0x12] then r.pair d else z (r d),
        compare := if n = 0x04 then z (r (d + 1)) else if n = 0x13 then z (r d) else if n = 0x14 then r.pair d else 0 }) ∧
  (∀ (s : State) (o : Op) (a : LaneAcc) (op pa : Nat) (nc row acq rel : Bool), a.place = .mem pa nc row →
    s.waited a.place (atomSize op) = false → s.AtHome o.core pa → s.poisonAt o.core pa = 0 →
    let r := s.runAtomic o a op true acq rel
    r.1 = s.homeBytes pa (atomSize op) ∧ r.2.1 = false ∧
      r.2.2.homeBytes pa (atomSize op) = leBytes (atomSize op) (rmw op (s.homeWord pa (atomSize op)) a.operand.toNat a.compare.toNat) ∧
      ∀ b, b < pa ∨ pa + atomSize op ≤ b → r.2.2.homeByte b = s.homeByte b) ∧
  (∀ (s : State) (o : Op) (a : LaneAcc) (op pa : Nat) (row acq : Bool), a.place = .mem pa false row →
    s.waited a.place (atomSize op) = false → o.core < 320 → pa % 64 + atomSize op ≤ 64 →
    (∀ c, c ≠ o.core → ∀ r ∈ (s.core c).l1.recs, r.addr / 256 ≠ pa / 256) → s.poisonAt o.core pa = 0 →
    let old := (List.range (atomSize op)).map fun j => s.coreByte o.core (pa + j)
    let r := s.runAtomic o a op false acq false
    r.1 = old ∧ r.2.1 = false ∧ (∀ b, r.2.2.homeByte b = s.homeByte b) ∧
      (∀ j, j < atomSize op → some (r.2.2.coreByte o.core (pa + j)) =
        (leBytes (atomSize op) (rmw op (ofLeBytes old) a.operand.toNat a.compare.toNat))[j]?) ∧
      ∀ c b, c ≠ o.core ∨ b < pa ∨ pa + atomSize op ≤ b → r.2.2.coreByte c b = s.coreByte c b) ∧
  (∀ (o : Op) (w : Wave) (a : LaneAcc) (bs : List Byte) op dst home acq rel, o.kind = .atomic op (some dst) home acq rel →
    a.result = some bs → a.skip = false → bs.length = atomSize op.toNat → w.cpu = false → a.lane < 32 →
      (atomSize op.toNat < 8 → (o.writeResult w a).vreg dst a.lane = BitVec.ofNat 32 (ofLeBytes bs)) ∧
      (atomSize op.toNat = 8 → (o.writeResult w a).vpair dst a.lane = BitVec.ofNat 64 (ofLeBytes bs)) ∧
      ∀ m l, l < 32 → l ≠ a.lane ∨ m < dst ∨ dst + 2 ≤ m → (o.writeResult w a).vreg m l = w.vreg m l) ∧
  (∀ (p q : Word) (c : Nat),
    rmw 0x00 p.toNat q.toNat c = (p + q).toNat ∧ rmw 0x02 p.toNat q.toNat c = (fadd false .rn p q).1.toNat ∧
    rmw 0x05 p.toNat q.toNat c = (BitVec.ofInt 32 (min p.toInt q.toInt)).toNat ∧ rmw 0x06 p.toNat q.toNat c = min p.toNat q.toNat ∧
    rmw 0x07 p.toNat q.toNat c = (BitVec.ofInt 32 (max p.toInt q.toInt)).toNat ∧ rmw 0x08 p.toNat q.toNat c = max p.toNat q.toNat ∧
    rmw 0x09 p.toNat q.toNat c = (fminmax false false p q).1.toNat ∧ rmw 0x0A p.toNat q.toNat c = (fminmax false true p q).1.toNat ∧
    rmw 0x0B p.toNat q.toNat c = (p &&& q).toNat ∧ rmw 0x0C p.toNat q.toNat c = (p ||| q).toNat ∧
    rmw 0x0D p.toNat q.toNat c = (p ^^^ q).toNat ∧ rmw 0x11 p.toNat q.toNat c = q.toNat ∧
    rmw 0x13 p.toNat q.toNat c = (if p.toNat = c then q.toNat else p.toNat) ∧
    rmw 0x15 p.toNat q.toNat c = (if q.toNat ≤ p.toNat then 0 else p.toNat + 1) ∧
    rmw 0x16 p.toNat q.toNat c = (if p.toNat = 0 ∨ q.toNat < p.toNat then q.toNat else p.toNat - 1)) ∧
  (∀ (p q : DWord) (c : Nat),
    rmw 0x01 p.toNat q.toNat c = (p + q).toNat ∧ rmw 0x0E p.toNat q.toNat c = (p &&& q).toNat ∧
    rmw 0x0F p.toNat q.toNat c = (p ||| q).toNat ∧ rmw 0x10 p.toNat q.toNat c = (p ^^^ q).toNat ∧ rmw 0x12 p.toNat q.toNat c = q.toNat ∧
    rmw 0x14 p.toNat q.toNat c = if p.toNat = c then q.toNat else p.toNat) ∧
  ∀ (p q : BitVec 16) (r : Word), let x := bf16.read p.toNat; let y := bf16.read q.toNat
    rmw 0x03 p.toNat q.toNat r.toNat = (bf16.ofVal .rn (x.add .rn y)).1 ∧
    rmw 0x04 p.toNat q.toNat r.toNat = (bf16.ofVal (srSum bf16 x y r) (x.add (srSum bf16 x y r) y)).1

/-! Barriers and semaphores. -/

/-- R140, R141, R237 to R240: `BAR` waits for the team, whose waves run on together once every wave that has not exited has arrived; `BARX`
adds the lanes' counts to the object's count after a release, and lets the threads pass whose register differs from PHASE, while the
others wait; before a poisoned object it does not. An addition that reaches the target completes one phase, and leaves no thread waiting on the
object. What they do where the object's module is not reached is the model's choice (log entry 33). -/
def Obligations.BarrierResults : Prop :=
  (∀ (b : BitVec 4) (s : State) (x : Issuer) (k : WaveKey), x.a = .wave k → Ready (.bar b) s x →
    let v := s.forceAll x.a
    Occurs (.bar b) s fun r =>
      Moves ((v.modAgent x.a fun w => w.waitAt x.e 2 b.toNat).modTeam k.team fun t => t.barStep b.toNat) r x) ∧
  (∀ (t : Team) (b : Nat), t.waves.length ≤ 32 → (∃ w ∈ t.waves, w.atBar b = true) → (∀ w ∈ t.waves, w.atBar b = true ∨ w.exited = true) →
    (t.barStep b).waves = (t.waves.map fun w => w.modLanes (w.waitingAt 2 b) Thread.resumeAfter) ∧ (t.barStep b).bars.get 0 b = 0) ∧
  (∀ (t : Team) (b i : Nat) (w : Wave), i < 32 → t.waves[i]? = some w → w.atBar b = false → w.exited = false →
    (t.bars.get 0 b).getLsbD i = false → (t.barStep b).waves = t.waves) ∧
  (∀ (d : BitVec 6) (k sv : BitVec 5) (s u : State) (x : Issuer) (o : ObjAddr) (p : Place), Ready (.barx d k sv) s x →
    let m := semOf sv.toNat 3
    let arrives := sv = 0 || m.rel
    let waits := sv = 0 || m.acq
    s.Finds u x (x.w.kpair (2 * k.toNat)) arrives o p →
    let rel := if arrives = true then some m.scope else none
    let v := u.reachedBy x rel o p
    let a := if arrives = true then v.objAdd o p.row ((x.lanes.map fun l => x.w.vreg (2 * d.toNat) l).foldl (· + ·) 0) else v
    OnObject (.barx d k sv) s u x waits rel o p fun r =>
      Advances (if waits = true then a.barWait x o (2 * d.toNat + 1) (objScope x.a o m.scope) else a) r x (.barx d k sv)) ∧
  ∀ (s : State) (a : Nat) (row : Bool) (n : Word),
    let o := ObjAddr.mem a
    let t := s.objAdd o row n
    let count := s.objWord o 1 + n
    t.objWord o 0 = s.objWord o 0 ∧
    (if (s.objWord o 0).toNat ≤ count.toNat then
      t.objWord o 1 = count - s.objWord o 0 ∧ t.objWord o 2 = s.objWord o 2 + 1 ∧ ∀ w ∈ t.waiters, w.obj = o → w.phase = false
    else t.objWord o 1 = count ∧ t.objWord o 2 = s.objWord o 2 ∧ t.waiters = s.waiters) ∧
    ∀ b, b < a ∨ a + 16 ≤ b → t.homeByte b = s.homeByte b

/-- R129, R142, R237, R243: `SEMWAIT` passes with VALUE once VALUE has reached its register, and else waits; `SEMSIG` adds to VALUE after a
release and leaves no thread waiting whose test passes; `SEMTK` and `SEMRD` go in flight as counted accesses, the write of a `SEMTK` after a
`FENCE.rel` at `.core` as a release, and a `SEMTK` performed at its home point, of which no core has the line dirty, queued or marked, returns TICKET
and raises it by 1. What they do where the object's module is not reached is the model's choice (log entry 33). -/
def Obligations.SemaphoreResults : Prop :=
  (∀ (d : BitVec 6) (k sv : BitVec 5) (s u : State) (x : Issuer) (o : ObjAddr) (p : Place), Ready (.semwait d k sv) s x →
    s.Finds u x (x.w.kpair (2 * k.toNat)) false o p →
    let v := u.reachedBy x none o p
    let sc := objScope x.a o (semOf sv.toNat 3).scope
    OnObject (.semwait d k sv) s u x true none o p fun r =>
      if 0 ≤ (v.objWord o 0 - x.w.vreg d.toNat x.low).toInt then
        Advances ((v.modAgent x.a fun w => w.writeLanes x.e d.toNat fun _ => v.objWord o 0).acquire (v.coreOf x.a) sc) r x (.semwait d k sv)
      else ∃ v' : State, v' = (v.modAgent x.a fun w => w.waitAt x.e 4 d.toNat) ∧ Moves { v' with waiters := v'.waiters ++
        [{ obj := o, agent := x.a, lanes := x.e, queue := none, value := x.w.vreg d.toNat x.low, phase := false, scope := sc }] } r x) ∧
  (∀ (d : BitVec 6) (k sv : BitVec 5) (s u : State) (x : Issuer) (o : ObjAddr) (p : Place), Ready (.semsig d k sv) s x →
    s.Finds u x (x.w.kpair (2 * k.toNat)) true o p →
    let rel := some (semOf sv.toNat 3).scope
    OnObject (.semsig d k sv) s u x false rel o p fun r =>
      Advances ((u.reachedBy x rel o p).semAdd o p.row (x.w.vreg d.toNat x.low)) r x (.semsig d k sv)) ∧
  (∀ (f : BitVec 1) (d : BitVec 6) (k sv : BitVec 5) (s u : State) (x : Issuer) (o : ObjAddr) (p : Place),
    let v := u.reachedBy x none o p
    (Ready (.semtk f d k sv) s x → s.Finds u x (x.w.kpair (2 * k.toNat)) true o p →
      OnObject (.semtk f d k sv) s u x false none o p fun r =>
        Advances ((v.recordRelease x ⟨3, false, false, true⟩ x.e p).launchOp x (.semtk f d k sv) x.e (.semTake d.toNat)
          [{ lane := x.low, place := p }]) r x (.semtk f d k sv)) ∧
    (Ready (.semrd f d k sv) s x → s.Finds u x (x.w.kpair (2 * k.toNat)) false o p →
      OnObject (.semrd f d k sv) s u x false none o p fun r =>
        Advances (v.launchOp x (.semrd f d k sv) x.e (.semRead d.toNat) [{ lane := x.low, place := p }]) r x (.semrd f d k sv))) ∧
  (∀ (s : State) (a : Nat) (row : Bool) (n : Word),
    let t := s.semAdd (.mem a) row n
    t.objWord (.mem a) 0 = s.objWord (.mem a) 0 + n ∧
      (∀ w ∈ t.waiters, w.obj = .mem a → w.phase = false → ¬0 ≤ (s.objWord (.mem a) 0 + n - w.value).toInt) ∧
      ∀ b, b < a ∨ a + 4 ≤ b → t.homeByte b = s.homeByte b) ∧
  ∀ (s : State) (o : Op) (c : LaneAcc) (d pa : Nat) (nc row : Bool), o.kind = .semTake d → c.place = .mem pa nc row →
    s.AtHome o.core pa → s.poisonAt o.core pa = 0 →
    (s.runAcc o c).1 = s.homeBytes (pa + 4) 4 ∧
      (s.runAcc o c).2.2.homeWord (pa + 4) 4 = (s.homeWord (pa + 4) 4 + 1) % 2 ^ 32 ∧
      ∀ b, b < pa + 4 ∨ pa + 8 ≤ b → (s.runAcc o c).2.2.homeByte b = s.homeByte b

/-! Engines. -/

/-- R165, R248, R303: an engine instruction of which no thread of the group has a true guard has no effect and no charge. -/
def Obligations.GuardFalseResults : Prop :=
  ∀ (i : Instr) (g : BitVec 3) (s : State) (x : Issuer), guardOf i = some g → Ready i s x → x.guarded g = 0 →
    Occurs i s fun t => Advances s t x i ∧ t.cores = s.cores ∧ t.pkg = s.pkg ∧ t.pkgDue = s.pkgDue

/-- R104, R110 to R112, R250, R252 to R258: a copy whose block meets no cause goes in flight after the wave's accesses; a fill makes its
tile FILLING, a drain makes it DRAINING with one reader more; `TDEF`, `TREL` and `TSTATE` write, free and read an entry; `GANG` lists
waves. What a block meets is taken with no effect. -/
def Obligations.CopyGroupResults : Prop :=
  (∀ (f : BitVec 1) (g ix : BitVec 3) (s : State) (x : Issuer) (k : WaveKey) (t : Team), EngineReady (.bcopy f g ix) g s x k t →
    let b := x.block ix
    let len := (wordAt b 4).toNat
    let v := s.forceAll x.a
    (∀ c, s.copyCause k b (some len) [(pairAt b 0, len), (pairAt b 2, len)] = some c →
      exec (.bcopy f g ix) s = .next (s.takeCause x.a x.e c 0 x.pc (x.th.advance 4) 0)) ∧
    (s.copyCause k b (some len) [(pairAt b 0, len), (pairAt b 2, len)] = none → len = 0 ∨ v.copiesFull t.core = false →
      Occurs (.bcopy f g ix) s fun r => Advances (if len = 0 then v else v.launchOp x (.bcopy f g ix) x.e
        (.copy { src := pairAt b 0, dst := pairAt b 2, len := len, bar := copyBarOf b }) []) r x (.bcopy f g ix))) ∧
  (∀ (s : State) (k : WaveKey) (b : List Word) (n : Nat) (as : List (DWord × Nat)), (wordAt b 5).toNat / 2 ≠ 0 ∨ 0x1000000 < n →
    s.copyCause k b (some n) as = some Cause.illegal) ∧
  (∀ (f : BitVec 1) (g ix : BitVec 3) (m : BitVec 6) (s : State) (x : Issuer) (k : WaveKey) (t : Team),
    let b := x.block ix
    let e := t.entry m.toNat
    let span := (tileRows e - 1) * (wordAt b 4).toNat + tileRow e
    let copy (fill : Bool) (src dst : DWord) : Copy :=
      { src := src, dst := dst, len := tileExtent e, stride := (wordAt b 4).toNat, rowLen := tileRow e, tile := some m.toNat,
        fill := fill, base := tileBase e, bar := copyBarOf b }
    let v := s.forceAll x.a
    s.copiesFull t.core = false →
    (EngineReady (.bcopyt f g ix m) g s x k t → s.copyCause k b none [(pairAt b 0, span)] = none → t.admitsFill m.toNat = true →
      Occurs (.bcopyt f g ix m) s fun r =>
        Advances ((v.modTeam k.team fun t => t.setTstate m.toNat tFilling).launchOp x (.bcopyt f g ix m) x.e
          (.copy (copy true (pairAt b 0) 0)) []) r x (.bcopyt f g ix m)) ∧
    (EngineReady (.bcopyo f g ix m) g s x k t → s.copyCause k b none [(pairAt b 2, span)] = none → t.tstate m.toNat = tReady →
      Occurs (.bcopyo f g ix m) s fun r =>
        Advances ((v.modTeam k.team fun t => (t.setTstate m.toNat tDraining).modReaders m.toNat (· + 1)).launchOp x
          (.bcopyo f g ix m) x.e (.copy (copy false 0 (pairAt b 2))) []) r x (.bcopyo f g ix m))) ∧
  (∀ (g : BitVec 3) (m : BitVec 6) (n : BitVec 5) (s : State) (x : Issuer) (k : WaveKey) (t : Team),
    let v := x.w.kpair (2 * n.toNat)
    (EngineReady (.tdef g m n) g s x k t → v.toNat < 2 ^ 51 → tileBase v + tileExtent v ≤ (s.descOf x.a).tiles * 8192 →
      t.tstate m.toNat = tEmpty →
      Occurs (.tdef g m n) s fun r =>
        Advances (s.modTeam k.team fun t => { t with tiles := t.tiles.put 0 m.toNat v }) r x (.tdef g m n)) ∧
    (EngineReady (.trel g m) g s x k t → t.tstate m.toNat = tReady → t.readers.get 0 m.toNat = 0 →
      Occurs (.trel g m) s fun r => Advances (s.modTeam k.team fun t => (t.setTstate m.toNat tEmpty).wakeTiles) r x (.trel g m)) ∧
    (EngineReady (.tstate g m n) g s x k t → Completes (.tstate g m n) s x fun w =>
      Passed x 4 w ∧ UniPair x (2 * n.toNat) (t.entry m.toNat) w ∧ w.sticky = x.w.sticky)) ∧
  (∀ (g h : BitVec 3) (a : BitVec 6) (c : BitVec 3) (s : State) (x : Issuer) (k : WaveKey) (t : Team),
    let l := (List.range c.toNat).map fun j => bits (x.w.kreg a.toNat) (5 * j) 5
    EngineReady (.gang g h a c) g s x k t → (x.w.kreg a.toNat).toNat < 2 ^ (5 * c.toNat) → l.Nodup → (∀ i ∈ l, i < t.waves.length) →
    (t.gangs.get {} h.toNat).latch = none →
      Occurs (.gang g h a c) s fun r =>
        Advances (s.modTeam k.team fun t => { t with gangs := t.gangs.put {} h.toNat { list := l } }) r x (.gang g h a c)) ∧
  ∀ (t : Team) (m st : Nat), st < 4 → (t.setTstate m st).tstate m = st ∧
    ((t.setTstate m st).entry m).toNat % 2 ^ 51 = (t.entry m).toNat % 2 ^ 51 ∧
    ∀ n, n ≠ m → (t.setTstate m st).entry n = t.entry n

/-- R46 to R48, R259 to R267: the accumulator instructions go in flight in the order of the matrix engine. A matrix instruction of one
wave, at which every thread of the wave that has not exited stands, on tiles that are READY, goes in flight with one reader more on
its tiles; with a false guard in every thread it has no effect. -/
def Obligations.MatrixResults : Prop :=
  (∀ (g : BitVec 3) (z n : BitVec 5) (s : State) (x : Issuer) (k : WaveKey) (t : Team), EngineReady (.zclr g z n) g s x k t →
    Occurs (.zclr g z n) s fun r =>
      Advances (if (s.ops.any fun o => o.kind.matrix && o.core = t.core) = true then
          s.launchOp x (.zclr g z n) x.e (.zclr z.toNat (n.toNat + 1)) []
        else s.modTeam k.team fun t => t.clearZ z.toNat (n.toNat + 1)) r x (.zclr g z n)) ∧
  (∀ (f : BitVec 1) (g : BitVec 3) (z n : BitVec 5) (o : BitVec 3) (r : BitVec 2) (s : State) (x : Issuer) (k : WaveKey) (t : Team),
    let a := x.w.kpair (2 * n.toNat)
    let ok (bytes : Nat) : Prop := a.toNat % 64 = 0 ∧ (isLagoonAddr a = true → ∃ p, s.lagoonExtent k a bytes = .ok p)
    let v := s.forceAll x.a
    let goes (i : Instr) (kind : OpKind) : Prop :=
      Occurs i s fun q => Advances (v.launchOp x i x.e kind []) q x i
    (EngineReady (.zld f g z n) g s x k t → ok 8192 → goes (.zld f g z n) (.zld z.toNat a 0)) ∧
    (EngineReady (.zst f g z n) g s x k t → ok 8192 → goes (.zst f g z n) (.zst z.toNat a 0)) ∧
    (EngineReady (.zepi f g z n o r) g s x k t → ok (2048 * epiSize o.toNat) →
      goes (.zepi f g z n o r) (.zepi { z := z.toNat, ofmt := o.toNat, rnd := r.toNat, addr := a }))) ∧
  (∀ (f : BitVec 1) (g : BitVec 3) (z : BitVec 5) (e : BitVec 2) (n : BitVec 5) (o : BitVec 3) (r : BitVec 2) (s : State) (x : Issuer)
      (k : WaveKey) (t : Team), EngineReady (.zepiRoute f g z e n o r) g s x k t →
    let rt := t.routes.get [] e.toNat
    let a := pairAt rt 0 + x.w.kpair (2 * n.toNat)
    routeModeOk (bits (wordAt rt 4) 11 2) o.toNat = true → a.toNat % epiSize o.toNat = 0 → (wordAt rt 2).toNat % epiSize o.toNat = 0 →
      Occurs (.zepiRoute f g z e n o r) s fun q =>
        Advances ((s.forceAll x.a).launchOp x (.zepiRoute f g z e n o r) x.e
        (.zepi { z := z.toNat, ofmt := o.toNat, rnd := r.toNat, addr := a, route := some rt }) []) q x (.zepiRoute f g z e n o r)) ∧
  (∀ (f : BitVec 1) (g : BitVec 3) (z : BitVec 5) (q : BitVec 2) (b : BitVec 4) (s : State) (x : Issuer), x.guarded g ≠ 0 →
    (Ready (.zmovToV f g z q b) s x → Occurs (.zmovToV f g z q b) s fun r =>
      Advances (s.launchOp x (.zmovToV f g z q b) (x.guarded g) (.zmovV z.toNat q.toNat b.toNat) []) r x (.zmovToV f g z q b)) ∧
    (Ready (.zmovToZ f g z q b) s x → Occurs (.zmovToZ f g z q b) s fun r =>
      Advances (s.launchOp x (.zmovToZ f g z q b) (x.guarded g) (.zmovZ z.toNat q.toNat
        ((lanesOf (x.guarded g)).map fun l => (l, (List.range 16).map fun j => x.w.vreg (16 * b.toNat + j) l))) []) r x
        (.zmovToZ f g z q b))) ∧
  ∀ (f : BitVec 1) (g h a : BitVec 3) (m : BitVec 6) (q : BitVec 3) (tr u : BitVec 1) (i : Instr) (fn : Nat) (s : State) (x : Issuer)
      (k : WaveKey) (t : Team),
    (i = .mma f g h 0 a m q tr u ∧ fn = 0) ∨ (i = .mmaX f g h 0 a m q tr u ∧ fn = 1) ∨ (i = .mmaq f g h 0 a m q tr u ∧ fn = 2) →
    Ready i s x → x.a = .wave k → s.team? k.team = some t → (x.w.latch = none ∨ x.w.latch = some x.pc) →
    x.w.live &&& ~~~(x.e ||| x.w.standing x.pc) = 0 →
    let t' : Team := { t with waves := t.waves.modify k.idx fun w => { w with latch := some x.pc } }
    let passed := t'.passRendezvous [k.idx] k.idx x.pc
    let last := if fn = 2 then m.toNat + 1 else m.toNat
    ((∀ l ∈ lanesOf x.w.live, x.w.preg g.toNat l = false) →
      Occurs i s fun r => Advances (s.putTeam k.team passed) r x i ∧ r.cores = s.cores) ∧
    ∀ o, (∃ l ∈ lanesOf x.w.live, x.w.preg g.toNat l = true) → x.w.done = false → t.tstate m.toNat = tReady → t.tstate last = tReady →
      t'.matOp fn [k.idx] a.toNat m.toNat q.toNat (decide (tr = 1)) (s.descOf x.a).ztiles = .ok o →
      Occurs i s fun r => Advances ((s.putTeam k.team (if fn = 2 then (passed.modReaders m.toNat (· + 1)).modReaders last (· + 1)
        else passed.modReaders m.toNat (· + 1))).addOp fun id =>
          { id := id, agent := x.a, pc := x.pc, core := t.core, lanes := x.e, flags := x.flags i, kind := .mma o }) r x i

/-- R47, R262, R265: a matrix instruction of a gang, of which every listed wave has arrived and still stands there, or has exited, and some thread has a
true guard, goes in flight once for the gang, whose waves all pass it; a wave that arrives before the others waits at the rendezvous. That a wave without
a live thread counts as exited whatever its flag counters hold is the model's choice (log entry 32). -/
def Obligations.GangResults : Prop :=
  ∀ (f : BitVec 1) (g h a : BitVec 3) (m : BitVec 6) (q : BitVec 3) (tr u : BitVec 1) (i : Instr) (fn : Nat) (s : State) (x : Issuer)
      (k : WaveKey) (t : Team),
    (i = .mma f g h 1 a m q tr u ∧ fn = 0) ∨ (i = .mmaX f g h 1 a m q tr u ∧ fn = 1) ∨ (i = .mmaq f g h 1 a m q tr u ∧ fn = 2) →
    Ready i s x → x.a = .wave k → s.team? k.team = some t →
    let gang := t.gangs.get {} h.toNat
    k.idx ∈ gang.list → (gang.latch = none ∨ gang.latch = some x.pc) → x.w.live &&& ~~~(x.e ||| x.w.standing x.pc) = 0 →
    let here (j : Nat) : Prop := j = k.idx ∨ ∀ w, t.waves[j]? = some w → w.live = 0 ∨
      ((gang.arrived ||| laneBit k.idx).getLsbD j = true ∧ w.live &&& ~~~w.atRendezvous x.pc = 0)
    ((∃ j ∈ gang.list, ¬here j) → Occurs i s fun r => r.ops = s.ops ∧ s.SameMemory r ∧
      ∃ t' w, r.team? k.team = some t' ∧ (t'.gangs.get {} h.toNat).latch = some x.pc ∧
        (t'.gangs.get {} h.toNat).arrived = gang.arrived ||| laneBit k.idx ∧ r.agent? x.a = some w ∧ SameRegs x.w w ∧
        ∀ l, l < 32 → x.has l → l < x.w.threads.length → (x.w.th l).stat = .running → (w.th l).stat = .waiting ∧ (w.th l).pc = (x.w.th l).pc) ∧
    ∀ o, (∀ j ∈ gang.list, here j) → (∃ j ∈ gang.list, ∃ w l, t.waves[j]? = some w ∧ l ∈ lanesOf w.live ∧ w.preg g.toNat l = true) →
      t.tstate m.toNat = tReady → t.tstate (if fn = 2 then m.toNat + 1 else m.toNat) = tReady →
      (∀ j n, j ∈ gang.list → flagOf i x.th.chdr = some n → ∀ w, t.waves[j]? = some w → w.flag n < 63) →
      t.matOp fn gang.list a.toNat m.toNat q.toNat (decide (tr = 1)) (s.descOf x.a).ztiles = .ok o →
      Occurs i s fun r => (r.ops.map fun p => p.kind) = (s.ops.map fun p => p.kind) ++ [.mma o] ∧ s.SameMemory r ∧
        ∃ t', r.team? k.team = some t' ∧ ∀ j ∈ gang.list, j ≠ k.idx → ∀ w, t.waves[j]? = some w → ∃ w', t'.waves[j]? = some w' ∧ SameRegs w w' ∧
          ∀ l, l < 32 → l < w.threads.length → w'.th l = if (w.atRendezvous x.pc).getLsbD l = true then (w.th l).resumeAfter else w.th l

/-- R111, R112, R118, R241, R249, R250, R254, R265, R374: a transfer ends once the rest of it moves, and a drained tile is READY once its
last byte is read; a missing page holds a transfer, and a refused access ends it with its cause. Counted bytes are added at the barrier
object. The end of a transfer changes no byte of memory and leaves it no longer in flight. -/
def Obligations.EngineEvents : Prop :=
  (∀ (s u : State) (op : Nat) (o o' : Op), s.op? op = some o → o.kind.transfer = true → s.transferRest op = (.finished, u) →
    u.op? op = some o' →
      (o.kind.fills = false → exec (.engineTransferCompletion op) s = .next (u.endTransfer o' none)) ∧
      (o.kind.fills = true → exec (.tileFillCompletion op) s = .next (u.endTransfer o' none))) ∧
  (∀ (s : State) (op off j : Nat) (l : List Nat) (o : Op), s.op? op = some o →
    ∃ o', (s.noteRefused op off (j :: l)).op? op = some o' ∧ o'.cause = lowerCause Cause.barstore o.cause ∧ o'.kind = o.kind) ∧
  (∀ (s : State) (op : Nat) (o : Op) (w m base : Nat), s.op? op = some o → o.kind = .rowcon w m base → s.rowTurn o = true →
    s.halted (ctxOf o.agent) = false → exec (.tileFillCompletion op) s = .next ((s.conRow o w base).endTransfer o none)) ∧
  (∀ (s : State) (op : Nat) (o o' : Op) (c : Copy) (m : Nat) (k : TeamKey), s.op? op = some o → o.kind.transfer = true →
    (s.transferMove op o.kind.fuel).op? op = some o' → o'.kind = .copy c → o'.teamKey = some k → c.tile = some m → c.fill = false →
    c.len ≤ c.done →
      exec (.tileDrainCompletion op) s =
        .next (((s.transferMove op o.kind.fuel).tileReady k m true).modCopy op fun c => { c with tile := none })) ∧
  (∀ (s u : State) (op n : Nat) (o : Op) (c : Copy) (bar : DWord) (p : Place) (b : ObjAddr), s.op? op = some o → o.kind = .copy c → 0 < n →
    o.held = none → n ≤ c.done - c.refused - c.added → c.bar = some bar → s.copyBar o bar = .ok (p, b, u) →
      let y := match p with | .mem a _ _ => u.request (partOf (ctxOf o.agent)) a 2 16 | _ => u
      exec (.barrierAddition op n) s = .next (((y.reachObj o.core b).objAdd b p.row (BitVec.ofNat 32 n)).modCopy o.id
        fun c => { c with added := c.added + n })) ∧
  (∀ (s u v : State) (op : Nat) (o : Op) (va : DWord) (wr : Bool), s.op? op = some o → o.kind.transfer = true →
    s.transferRest op = (.page va wr u, v) → exec (.enginePageFault op) s = .next (u.holdTransfer o va wr)) ∧
  (∀ (s u v : State) (op : Nat) (o o' : Op) (c : Cause), s.op? op = some o → o.kind.transfer = true →
    s.transferRest op = (.stop c u, v) → u.op? o.id = some o' → exec (.engineTransferStop op) s = .next (u.endTransfer o' (some c))) ∧
  (∀ (s : State) (o : Op) (c : Option Cause), (∀ p ∈ (s.endTransfer o c).ops, p.id ≠ o.id) ∧ s.SameMemory (s.endTransfer o c)) ∧
  (∀ (s : State) (op : Nat) (o : Op) (k : TeamKey) (t : Team), s.op? op = some o → o.teamKey = some k → s.team? k = some t →
    s.matrixTurn o = true → (o.kind matches .mma _ | .zclr _ _ | .zmovV _ _ _ | .zmovZ _ _ _) = true →
      Occurs (.mmaCompletion op) s fun r => s.SameMemory r ∧ ∀ p ∈ r.ops, p.id ≠ o.id) ∧
  ∀ (m : MatOp) (row : List Word) (b b2 : List Byte) (j : Nat) (acc : Word), m.quant = false → m.fmtB = 6 →
    m.cell row b b2 j acc = (BitVec.ofInt 32 (acc.toInt + ((List.range m.kk).map fun k =>
      signedOf 8 (wordsElem 8 row k) * signedOf 8 (bytesElem 8 b (if m.trans = true then j * m.kk + k else k * 64 + j))).sum), 0)

/-- R115 to R120, R145, R146, R268 to R270: the row instructions on a slot that meets no cause write true to their predicate: `ROWACT`, before which the
writes made on its core come home, makes its slot SENSING, `ROWCON` a tile FILLING, `ROWPUT` a tile DRAINING, `ROWPRE` closes the slot, and `ROWQ`
reads it. A slot that is sensed
opens with a lease of 2,048 lclk and the row's bytes, once releases that other cores recorded in its lines have come home; a `ROWPUT` writes the tile's
bytes to the array; an ended lease closes the slot. -/
def Obligations.RowResults : Prop :=
  let wrote (v r : State) (x : Issuer) (i : Instr) (e : LaneMask) (p : BitVec 3) : Prop :=
    Advances (v.modAgent x.a fun w => w.writePreds e p.toNat fun _ => true) r x i
  (∀ (f : BitVec 1) (g : BitVec 3) (w : BitVec 2) (n : BitVec 5) (p : BitVec 3) (yt : BitVec 1) (s u : State) (x : Issuer) (k : WaveKey)
      (t : Team) (q : Place) (ga : Nat) (pte : DWord) (off : Nat),
    EngineReady (.rowact f g w n p yt) g s x k t → (t.slotAt w.toNat).st ≠ 1 →
    ((t.slotAt w.toNat).st = 2 → s.slotBusy k.team w.toNat = false) →
    s.translate x.ctx t.core (s.level x.a) .read (x.w.kpair (2 * n.toNat)) = (.ok q ga pte, u) →
    u.rowPlace x.ctx t.core (x.w.kpair (2 * n.toNat)) ga pte = some off → u.bankAllowed x.ctx (off / 0x1000 % 64) = true →
    u.bankHeld t.core k.team w.toNat (off / 0x1000 % 64) = false → (u.recentActs t.core).length < 8 →
    let y := u.forceAll x.a
    let v := (y.putCore t.core { y.core t.core with acts := y.recentActs t.core ++ [(y.cluster (clusterOf t.core)).lclk] }).drainAll t.core
    let pa := interleaved t.core (off / 0x1000 * 0x1000)
    let v := v.writeBackAll t.core (((v.core t.core).l1.dirty.map (·.1)).filter fun b => pa ≤ b && b < pa + 4096)
    let slot : RowSlot :=
      { st := 1, row := BitVec.ofNat 12 (off / 0x40000), bank := BitVec.ofNat 6 (off / 0x1000 % 64), wr := pteBit pte 1 }
    Occurs (.rowact f g w n p yt) s fun r =>
      wrote ((v.modTeam k.team fun t => t.putSlot w.toNat slot).launchOp x (.rowact f g w n p yt) (x.guarded g)
        (.rowact w.toNat pa) []) r x (.rowact f g w n p yt) (x.guarded g) p) ∧
  (∀ (f : BitVec 1) (g : BitVec 3) (w : BitVec 2) (m : BitVec 6) (p : BitVec 3) (y : BitVec 1) (s : State) (x : Issuer) (k : WaveKey)
      (t : Team), rowSized (t.entry m.toNat) = true → (t.slotAt w.toNat).st = 2 → (t.slotAt w.toNat).lease ≠ 0 →
    let v := s.forceAll x.a
    (EngineReady (.rowcon f g w m p y) g s x k t → t.admitsFill m.toNat = true → Occurs (.rowcon f g w m p y) s fun r =>
      wrote ((v.modTeam k.team fun t => t.setTstate m.toNat tFilling).launchOp x (.rowcon f g w m p y) (x.guarded g)
        (.rowcon w.toNat m.toNat (tileBase (t.entry m.toNat))) []) r x (.rowcon f g w m p y) (x.guarded g) p) ∧
    (EngineReady (.rowput f g w m p y) g s x k t → t.tstate m.toNat = tReady → (t.slotAt w.toNat).wr = true →
      Occurs (.rowput f g w m p y) s fun r =>
        wrote ((v.modTeam k.team fun t => (t.setTstate m.toNat tDraining).modReaders m.toNat (· + 1)).launchOp x
          (.rowput f g w m p y) (x.guarded g) (.rowput w.toNat m.toNat (tileBase (t.entry m.toNat))) []) r x (.rowput f g w m p y)
            (x.guarded g) p)) ∧
  (∀ (g : BitVec 3) (w : BitVec 2) (p : BitVec 3) (y : BitVec 1) (s : State) (x : Issuer) (k : WaveKey) (t : Team),
    EngineReady (.rowpre g w p y) g s x k t →
    ((t.slotAt w.toNat).st ≠ 1 → ((t.slotAt w.toNat).st = 2 → s.slotBusy k.team w.toNat = false) →
      Occurs (.rowpre g w p y) s fun r => wrote (s.modTeam k.team fun t => t.putSlot w.toNat
        { t.slotAt w.toNat with st := 0, lease := 0, snap := [], codes := [], held := [], writes := 0 }) r x (.rowpre g w p y) (x.guarded g) p) ∧
    ((t.slotAt w.toNat).st = 1 → y = 1 → Occurs (.rowpre g w p y) s fun r =>
      Advances (s.modAgent x.a fun v => v.writePreds (x.guarded g) p.toNat fun _ => false) r x (.rowpre g w p y))) ∧
  (∀ (g : BitVec 3) (w : BitVec 2) (a : BitVec 6) (s : State) (x : Issuer) (k : WaveKey) (t : Team),
    EngineReady (.rowq g w a) g s x k t → Completes (.rowq g w a) s x fun v =>
      let r := t.slotAt w.toNat
      Passed x 4 v ∧ v.sticky = x.w.sticky ∧ UniRegs x a.toNat (BitVec.ofNat 32 (r.st.toNat + 2 ^ 2 * r.row.toNat + 2 ^ 14 * r.bank.toNat +
        2 ^ 20 * (if r.st = 2 then r.lease else 0))) v) ∧
  (∀ (s : State) (op : Nat) (o : Op) (w pa : Nat) (k : TeamKey) (t : Team), s.op? op = some o → o.kind = .rowact w pa →
    o.teamKey = some k → s.team? k = some t → s.halted (ctxOf o.agent) = false → Occurs (.rowSensed op) s fun r =>
      (s.reachRow o.core pa).SameMemory r ∧
      ∃ t', r.team? k = some t' ∧ (t'.slotAt w).st = 2 ∧ (t'.slotAt w).lease = 2048 ∧ (t'.slotAt w).held = [] ∧
        (∀ j, j < 4096 → (t'.slotAt w).snap.get 0 j = (s.reachRow o.core pa).homeByte (pa + j)) ∧
        ∀ j, j < 64 → (t'.slotAt w).codes.get 0 j = (s.reachRow o.core pa).poison.get 0 (pa / 64 + j)) ∧
  (∀ (s : State) (c pa : Nat),
    (∀ d, d ≠ c → ∀ r ∈ (s.core d).l1.recs, r.addr / 256 < pa / 256 ∨ pa / 256 + 16 ≤ r.addr / 256) → s.reachRow c pa = s) ∧
  (∀ (s : State) (op : Nat) (o : Op) (w m base : Nat), s.op? op = some o → o.kind = .rowput w m base → s.rowTurn o = true →
    s.halted (ctxOf o.agent) = false → exec (.rowputCompletion op) s =
      .next ((s.putRow o w base).endTransfer o (if s.rowRefused o w then some Cause.barstore else none))) ∧
  (∀ (s : State) (o : Op) (w base : Nat) (k : TeamKey) (t : Team), o.teamKey = some k → s.team? k = some t → (t.slotAt w).held = [] →
    s.reachRow o.core (rowOf t.core (t.slotAt w)) = s →
    (∀ j, j < 4096 → (s.putRow o w base).homeByte (rowOf t.core (t.slotAt w) + j) =
      if s.objWaited (rowOf t.core (t.slotAt w) + j) then s.homeByte (rowOf t.core (t.slotAt w) + j) else t.tileMem.get 0 (base + j)) ∧
    ∀ b, b < rowOf t.core (t.slotAt w) ∨ rowOf t.core (t.slotAt w) + 4096 ≤ b → (s.putRow o w base).homeByte b = s.homeByte b) ∧
  ∀ (s : State) (k : TeamKey) (slot : Nat) (t : Team), s.team? k = some t → (t.slotAt slot).st = 2 → (t.slotAt slot).lease = 0 →
    s.slotBusy k slot = false → s.halted k.grid.ctx = false → Occurs (.leaseExpiry k slot) s fun r => s.SameMemory r ∧
      ∃ t', r.team? k = some t' ∧ (t'.slotAt slot).st = 3 ∧ (t'.slotAt slot).row = (t.slotAt slot).row ∧
        (t'.slotAt slot).bank = (t.slotAt slot).bank ∧ (t'.slotAt slot).held = []

/-! The collective engine. -/

/-- R148, R273, R275, R276, R288: `CPOST` of a permitted entry on a pair with a free place appends the entry, tested once, fires the armed
entries at the head, and writes true to its predicate; on a full pair it posts nothing, raises `QUEUE_QUOTA` and writes false. `CCTR` adds
to a counter after a release, `.set` writes it, `CWAIT` passes once the difference is not negative, `EROUTE` writes a route
register. -/
def Obligations.CollectiveResults : Prop :=
  (∀ (g ix : BitVec 3) (q : BitVec 8) (p : BitVec 3) (s : State) (x : Issuer) (k : WaveKey) (t : Team),
    EngineReady (.cpost g ix q p) g s x k t →
    let en : WorkEntry := { words := x.block ix, wave := k }
    let c := s.ctx x.ctx
    let qp := c.qps.get {} q.toNat
    (en.permitted = false → exec (.cpost g ix q p) s = .next (s.takeCause x.a x.e Cause.illegal 0 x.pc (x.th.advance 4) 0)) ∧
    (en.permitted = true → qp.entries.length < s.pairLimit x.ctx →
      let v := (s.forceAll x.a).release (s.coreOf x.a) 3 none
      let armed := { en with
        armed := decide (0 ≤ (v.counter x.ctx en.armCtr - wordAt en.words 6).toInt),
        who := v.whoBase x.a, core := v.coreOf x.a, quarter := x.w.quarter }
      let posted := QueuePair.fire { qp with entries := qp.entries ++ [armed] }
      Occurs (.cpost g ix q p) s fun r => Advances ((v.putPair x.ctx q.toNat posted).modAgent x.a fun w =>
        w.writePreds (x.guarded g) p.toNat fun _ => true) r x (.cpost g ix q p)) ∧
    (en.permitted = true → s.pairLimit x.ctx ≤ qp.entries.length → Occurs (.cpost g ix q p) s fun r =>
      Advances (((s.setCtReg x.ctx 0x00D (s.ctReg x.ctx 0x00D ||| 0x1000)).raiseEvent (partOf x.ctx) 0x02 (x.ctx % 2)
        ([1, 0] ++ leBytes 2 q.toNat)).modAgent x.a fun w => w.writePreds (x.guarded g) p.toNat fun _ => false) r x
          (.cpost g ix q p))) ∧
  (∀ qp : QueuePair, (∃ rest, qp.entries = (qp.fire.firing.drop qp.firing.length) ++ rest ∧ qp.fire.entries = rest ∧
      ∀ e, rest.head? = some e → e.armed = false ∨ e.slot ≠ none ∨ qp.stuck ≠ none) ∧
    (qp.fire.firing.take qp.firing.length = qp.firing) ∧ ∀ e ∈ qp.fire.firing.drop qp.firing.length, e.armed = true ∧ e.slot = none) ∧
  (∀ (g : BitVec 3) (n : BitVec 10) (a : BitVec 6) (f : BitVec 1) (s : State) (x : Issuer) (k : WaveKey) (t : Team),
    (EngineReady (.cctr g n a f) g s x k t →
      let v := (s.forceAll x.a).release (s.coreOf x.a) (if f = 1 then 4 else 3) none
      Occurs (.cctr g n a f) s fun r =>
        Advances (v.setCounter x.ctx n.toNat (v.counter x.ctx n.toNat + x.w.kreg a.toNat)) r x (.cctr g n a f)) ∧
    (EngineReady (.cctrSet g n a) g s x k t → Occurs (.cctrSet g n a) s fun r =>
      Advances (s.setCounter x.ctx n.toNat (x.w.kreg a.toNat)) r x (.cctrSet g n a)) ∧
    (EngineReady (.cwait g n a) g s x k t →
      (0 ≤ (s.counter x.ctx n.toNat - x.w.kreg a.toNat).toInt → Occurs (.cwait g n a) s fun r =>
        Advances (s.acquire (s.coreOf x.a) 4) r x (.cwait g n a)) ∧
      ((s.counter x.ctx n.toNat - x.w.kreg a.toNat).toInt < 0 →
        exec (.cwait g n a) s = .next (s.modAgent x.a fun w => w.setWaiting (x.e &&& w.lanesIn .running) 5)))) ∧
  (∀ (s : State) (c n : Nat) (v : Word), c < s.ctxs.length →
    let t := s.setCounter c n v
    t.counter c n = v ∧ (∀ m, m ≠ n → t.counter c m = s.counter c m) ∧ (∀ d m, d ≠ c → t.counter d m = s.counter d m) ∧
      s.SameMemory t) ∧
  ∀ (g : BitVec 3) (e : BitVec 2) (ix : BitVec 3) (s : State) (x : Issuer) (k : WaveKey) (t : Team),
    EngineReady (.eroute g e ix) g s x k t →
    (routeReserved (x.block ix) = false → Occurs (.eroute g e ix) s fun r =>
      Advances (s.modTeam k.team fun t => { t with routes := t.routes.put [] e.toNat (x.block ix) }) r x (.eroute g e ix)) ∧
    (routeReserved (x.block ix) = true →
      exec (.eroute g e ix) s = .next (s.takeCause x.a x.e Cause.illegal 0 x.pc (x.th.advance 4) 0))

/-- R148, R274, R288, R293, R420, R422 to R424: a fired entry reads its source, is sent, and raises SCNT
where enabled; a missing page holds its pair, and another cause of the source ends it. A delivery for no bound job, or for a context that is not there,
is refused with a fault record and a negative acknowledgment; what the target applies is applied whole, and every core sees written bytes. A multicast goes on to the next
module over a port that is up. A reduction combines each element as its operation says. The model's choices: the charge of a fired entry is open (log
entry 3), the record of an unbound job goes to the ring of one of the enabled partitions (log entry 33), SCNT rises at the sending and, of a parcel
that waits for answers, at the last one (log entry 34). -/
def Obligations.CollectiveEvents : Prop :=
  (∀ (s u : State) (c q n : Nat) (e : WorkEntry) (bs : List Byte) (codes : List Nat), c < 16 → s.halted c = false →
    let qp := (s.ctx c).qps.get {} q
    qp.firing[n]? = some e → qp.held = none →
    s.readSource c e.src e.len (e.len / 16 + 2) = .ok (bs, codes, u) →
    let rest := { qp with firing := qp.firing.eraseIdx n }
    exec (.entrySourceRead c q n) s = .next (((u.putPair c q rest).chargeOpen).sendEntry c q e bs codes)) ∧
  (∀ (s : State) (c q : Nat) (e : WorkEntry) (bs : List Byte) (codes : List Nat), c < s.ctxs.length → e.ctl 20 1 = 0 → e.cnt 30 1 = 1 →
    (s.sendEntry c q e bs codes).counter c (e.cnt 10 10) = s.counter c (e.cnt 10 10) + 1) ∧
  (∀ (s : State) (id c n : Nat) (p : Parcel), (s.awaiting.find? fun p => p.id = id) = some p → p.left ≤ 1 → p.cause = none →
    p.rise = some (c, n) →
      s.answered id none = some ({ s with awaiting := s.awaiting.filter fun q => q.id ≠ id }.bumpCounter c n 1)) ∧
  (∀ (s u : State) (c q n : Nat) (e : WorkEntry) (va : DWord), c < 16 → s.halted c = false →
    let qp := (s.ctx c).qps.get {} q
    qp.firing[n]? = some e → qp.held = none →
    (s.readSource c e.src e.len (e.len / 16 + 2) = .error (Cause.page, va, u) →
      exec (.entrySourceRead c q n) s =
        .next ((u.putPair c q { qp with held := some va }).pageFault c va 0 3 false false 511 3 0)) ∧
    ∀ k, k ≠ Cause.page → s.readSource c e.src e.len (e.len / 16 + 2) = .error (k, va, u) →
      exec (.entrySourceRead c q n) s = .next ((u.putPair c q { qp with firing := qp.firing.eraseIdx n }).pendCause (.wave e.wave) k 1 e.who
        e.core e.quarter)) ∧
  (∀ (d : Delivery) (s : State) (i : Instr), (i = .collectiveDelivery d ∧ d.ord = false) ∨ (i = .orderedContribution d ∧ d.ord = true) →
    let pass (r : State) : State := if d.ord = true ∨ d.hops = 0 ∨ r.portUp (bits (r.nbr d.axis) 18 3) = false then r else
      { r with out := r.out ++ [.delivery (bits (r.nbr d.axis) 0 18) { d with hops := d.hops - 1 }] }
    let kind := if d.ord then 4 else 3
    let nack (r : State) : State := { r with out := r.out ++ [.nack d.chip d.job d.addr] }
    (s.bound d.job = none → exec i s = .next (pass (nack (s.unboundFault d.addr d.chip d.job kind d.data.length)))) ∧
    (∀ p, s.bound d.job = some (p, none) →
      exec i s = .next (pass (nack (s.inboundFault p 0xFF d.addr d.chip d.job 1 kind d.data.length)))) ∧
    ∀ p c, s.bound d.job = some (p, some c) → (s.part p).inFull = false → (s.part p).inq = [] → (s.part p).inHeld = none →
      (∀ u, s.arrive p c d = .applied u → exec i s = .next (pass u)) ∧
      ∀ n u, s.arrive p c d = .refused n u →
      exec i s = .next (pass (nack (u.inboundFault p (c % 2) d.addr d.chip d.job n kind d.data.length)))) ∧
  (∀ (d : Delivery) (s u : State) (p c : Nat), d.ord = false → d.mc = false →
    (s.settleRange c d.addr d.op d.data.length (deliveryFuel d)).deliver c d.addr d.op d.fmt d.data d.codes 0 (deliveryFuel d) = (none, false, u) →
    s.arrive p c d = .applied (match d.counter with | some n => u.setCounter c n (u.counter c n + 1) | none => u)) ∧
  (∀ (s : State) (a : Nat) (row : Bool) (bs : List Byte) (code : Nat),
    (∀ n, ∀ r ∈ (s.core n).l1.recs, r.addr / 256 ≠ a / 256) → s.waited (.mem a true row) bs.length = false →
    let t := s.deliverAt a row .write 0 bs code
    (∀ j, j < bs.length → t.homeByte (a + j) = bs[j]?.getD 0 ∧ ∀ n, t.coreByte n (a + j) = bs[j]?.getD 0) ∧
    ∀ b, b < a ∨ a + bs.length ≤ b → t.homeByte b = s.homeByte b) ∧
  (∀ old v : Word,
    combine .write 0 old.toNat v.toNat = v.toNat ∧ combine .add 8 old.toNat v.toNat = (old + v).toNat ∧
    combine .add 0 old.toNat v.toNat = (fadd false .rn old v).1.toNat ∧
    combine .max 8 old.toNat v.toNat = (if old.toInt ≤ v.toInt then v else old).toNat ∧
    combine .max 0 old.toNat v.toNat = (fminmax false true old v).1.toNat) ∧
  ∀ old v : BitVec 16,
    combine .add 1 old.toNat v.toNat = (bf16.ofVal .rn ((bf16.read old.toNat).add .rn (bf16.read v.toNat))).1 ∧
    combine .write 0 old.toNat v.toNat = v.toNat

/-! Launches and command queues. -/

/-- R28, R31, R32, R278 to R282, R353: `LAUNCH` gives status 2 to a thread that does not lead its team, 1 at depth 10, 3 where no grid entry
is free, and 0 with a new identifier to the leader whose block is valid; its completion accepts the child and writes the statuses.
`GWAIT` gives each thread the summary of its child, once all the named children have retired. The model's choices: which free identifier a grid takes (log entry 11), that the
child is accepted at the completion event (log entry 35), and the engine code 5 of its page fault (log entry 47). -/
def Obligations.LaunchResults : Prop :=
  (∀ (f : BitVec 1) (g ix : BitVec 3) (d : BitVec 5) (s : State) (x : Issuer) (k : WaveKey) (t : Team),
    EngineReady (.launch f g ix d) g s x k t →
    let i := Instr.launch f g ix d
    let e := x.guarded g
    let v := s.forceAll x.a
    let ends (u : State) (st : List (Nat × Word × Word)) (child : Option (GridKey × Grid)) : Prop :=
      Occurs i s fun r => Advances (u.launchOp x i e (.launch (2 * d.toNat) st child) []) r x i
    ((∀ l, t.leader = some (k.idx, l) → e.getLsbD l = false) → ends v ((lanesOf e).map fun l => (l, 2, 0)) none) ∧
    ∀ l, t.leader = some (k.idx, l) → l < 32 → e.getLsbD l = true →
      let others := (lanesOf (e &&& ~~~laneBit l)).map fun l => (l, (2 : Word), (0 : Word))
      let depth := ((v.grid? k.team.grid).map (·.depth)).getD 0
      let b := x.block ix
      (depth = 10 → ends v (others ++ [(l, 1, 0)]) none) ∧
      (depth ≠ 10 → 65536 ≤ v.liveGrids x.ctx → ends v (others ++ [(l, 3, 0)]) none) ∧
      (depth ≠ 10 → v.liveGrids x.ctx < 65536 → (pairAt b 0).toNat % 64 ≠ 0 →
        exec i s = .next (v.takeCause x.a x.e Cause.illegal 0 x.pc (x.th.advance i.size) 0)) ∧
      ∀ bs u, depth ≠ 10 → v.liveGrids x.ctx < 65536 → (pairAt b 0).toNat % 64 = 0 → v.readDesc x (pairAt b 0) = (.ok bs, u) →
        (u.blockOk (partOf x.ctx) b bs = false →
          exec i s = .next (u.takeCause x.a x.e Cause.illegal 0 x.pc (x.th.advance i.size) 0)) ∧
        (u.blockOk (partOf x.ctx) b bs = true →
          let gid := (u.takeGid x.ctx).1
          ends ((u.takeGid x.ctx).2.modGrid k.team.grid fun p => { p with children := p.children ++ [{ gid := gid }] })
            (others ++ [(l, 0, BitVec.ofNat 32 gid)])
            (some (⟨x.ctx, gid⟩, gridOf b (KDesc.ofBytes bs) (depth + 1) (some k.team.grid) none)))) ∧
  (∀ (s : State) (c : Nat), c < s.ctxs.length → s.liveGrids c < 65536 →
    let t := (s.takeGid c).2
    (s.gidTaken c (s.ctx c).nextGid = false → (s.takeGid c).1 = (s.ctx c).nextGid) ∧
      (t.ctx c).nextGid = ((s.takeGid c).1 + 1) % 2 ^ 32 ∧ t.liveGrids c = s.liveGrids c + 1 ∧ s.SameMemory t) ∧
  (∀ (s : State) (op : Nat) (o : Op) (dst : Nat) (st : List (Nat × Word × Word)) (child : Option (GridKey × Grid)),
    s.op? op = some o → o.kind = .launch dst st child →
    let finish (v : State) : State := ((v.dropOp op).modAgent o.agent fun w =>
      st.foldl (fun w (r : Nat × Word × Word) => (w.setV dst r.1 r.2.1).setV (dst + 1) r.1 r.2.2) w).dropFlags o.flags
    (child = none → exec (.launchCompletion op) s = .next (finish s)) ∧
    (∀ k g u, child = some (k, g) → o.held = none → s.acceptGrid k g = .ok u →
      exec (.launchCompletion op) s = .next (finish u)) ∧
    (∀ k g va wr u, child = some (k, g) → o.held = none → s.acceptGrid k g = .error (Cause.page, va, wr, u) →
      exec (.launchCompletion op) s =
        .next ((u.modOp op fun o => { o with held := some va }).pageFault k.ctx va 0 3 wr false 511 5 0)) ∧
    ∀ k g c va wr u, child = some (k, g) → o.held = none → c ≠ Cause.page → s.acceptGrid k g = .error (c, va, wr, u) →
      exec (.launchCompletion op) s = .next (u.raiseHalt k.ctx { code := if wr = true then Cause.access else c, src := 1, core := 511 })) ∧
  (∀ (s u : State) (k : GridKey) (g : Grid), s.acceptGrid k g = .ok u → ∃ bs o, u.grid? k = some { g with args := bs, order := o }) ∧
  ∀ (g : BitVec 3) (d a : BitVec 6) (s : State) (x : Issuer) (k : WaveKey) (t : Team), EngineReady (.gwait g d a) g s x k t →
    let e := x.guarded g
    let cs := ((s.grid? k.team.grid).map (·.children)).getD []
    let name (l : Nat) : Nat := (x.w.vreg a.toNat l).toNat
    let child (l : Nat) : Option Child := cs.find? fun c => c.gid = name l && !c.used
    ((∃ l ∈ lanesOf e, ∃ c, child l = some c ∧ c.summary = none) →
      exec (.gwait g d a) s = .next (s.modAgent x.a fun w => w.setWaiting (x.e &&& w.lanesIn .running) 6)) ∧
    ((∀ l ∈ lanesOf e, ∀ c, child l = some c → c.summary ≠ none) → Occurs (.gwait g d a) s fun r =>
      let v := s.modGrid k.team.grid fun p => { p with
        children := p.children.map fun (c : Child) => if ((lanesOf e).map name).contains c.gid then { c with used := true } else c }
      let v := v.modAgent x.a fun w =>
        w.writeLanes e d.toNat fun l => match child l with | some c => c.summary.getD 0 | none => 0xFFFFFFFF
      Advances (v.acquire (v.coreOf x.a) 4) r x (.gwait g d a))

/-- R152, R246, R278, R283, R339, R352: an instruction of a command queue that has a place appends its entry; one whose queue is full waits, and
raises `QUEUE_QUOTA` once for the wait. `QIRQ` comes after every earlier write of its source. `QSWAP`
asks for the swap at once. That a `QCOPY` of misaligned addresses is appended, and meets `ALIGN` at its start, is the model's choice (log entry 35). -/
def Obligations.QueueResults : Prop :=
  (∀ (i : Instr) (g : BitVec 3) (q : BitVec 4) (s b u : State) (x : Issuer) (en : QEntry), Ready i s x → x.guarded g ≠ 0 →
    ((∃ ix bs, i = .qlaunch g q ix ∧ b = s ∧ (pairAt (x.block ix) 0).toNat % 64 = 0 ∧ s.readDesc x (pairAt (x.block ix) 0) = (.ok bs, u) ∧
        u.blockOk (partOf x.ctx) (x.block ix) bs = true ∧ en = .launch (x.block ix) (KDesc.ofBytes bs)) ∨
      (∃ ix, i = .qcopy g q ix ∧ wordAt (x.block ix) 5 = 0 ∧ wordAt (x.block ix) 6 = 0 ∧ wordAt (x.block ix) 7 = 0 ∧
        (wordAt (x.block ix) 4).toNat ≤ 0x1000000 ∧ b = s ∧ u = s ∧
        en = .copy (x.block ix)) ∨
      (∃ n a, i = .qsemw g q n a ∧ b = s ∧ u = s ∧ en = .semw (x.w.kpair (2 * n.toNat)) (x.w.kreg a.toNat)) ∨
      (∃ n a, i = .qsems g q n a ∧ b = s ∧ u = s ∧ en = .sems (x.w.kpair (2 * n.toNat)) (x.w.kreg a.toNat)) ∨
      ∃ v, i = .qirq g q v ∧ b = s.forceAll x.a ∧ u = b ∧ en = .irq v.toNat) →
    let y := (b.ctx x.ctx).queues[q.toNat]?.getD {}
    let append (y : CmdQueue) : CmdQueue := { y with entries := y.entries ++ [en], quota := false }
    (y.entries.length < b.queueLimit x.ctx → Occurs i s fun r =>
      Advances (u.putCtx x.ctx { u.ctx x.ctx with queues := (u.ctx x.ctx).queues.modify q.toNat append }) r x i) ∧
    (b.queueLimit x.ctx ≤ y.entries.length → y.quota = true →
      exec i s = .next (b.modAgent x.a fun w => w.setWaiting (x.e &&& w.lanesIn .running) 5)) ∧
    (b.queueLimit x.ctx ≤ y.entries.length → y.quota = false →
      let v := b.putCtx x.ctx { b.ctx x.ctx with queues := (b.ctx x.ctx).queues.set q.toNat { y with quota := true } }
      let v := v.setCtReg x.ctx 0x00D (v.ctReg x.ctx 0x00D ||| BitVec.ofNat 32 (2 ^ q.toNat))
      exec i s = .next ((v.raiseEvent (partOf x.ctx) 0x02 (x.ctx % 2) ([0, 0] ++ leBytes 2 q.toNat)).modAgent x.a fun w =>
        w.setWaiting (x.e &&& w.lanesIn .running) 5))) ∧
  (∀ (g : BitVec 3) (c : BitVec 1) (s : State) (x : Issuer), Ready (.qswap g c) s x → x.guarded g ≠ 0 →
    Occurs (.qswap g c) s fun r => Advances (s.swapRequest (partOf x.ctx) c.toNat) r x (.qswap g c)) ∧
  ∀ (s : State) (p c : Nat), (s.part p).swap = none → s.runningCtx p = some (2 * p + c) → s.swapRequest p c = s

/-- R142, R152, R253, R279, R280, R283, R418: the next entry of a queue starts: a grid is accepted, a copy goes in flight, a semaphore wait
passes or stands as a waiter, a signal raises VALUE, an interrupt is raised; an entry that is done at once leaves the queue. Only a running
context that has not halted, with no entry in progress, starts an entry. That a `QCOPY` meets its
`ALIGN` check at its start and not at its queueing is the model's choice (log entry 35). -/
def Obligations.QueueStarts : Prop :=
  (∀ (s : State) (c q : Nat) (en : QEntry), s.nextEntry c q = some en →
    s.running c = true ∧ s.halted c = false ∧ ∃ y, (s.ctx c).queues[q]? = some y ∧ y.started = false ∧ y.held = none ∧ y.stuck = none ∧
      y.entries.head? = some en) ∧
  (∀ (s v : State) (c q : Nat) (b : List Word) (d : KDesc), c < 16 → s.nextEntry c q = some (.launch b d) → s.liveGrids c < 65536 →
    (s.takeGid c).2.acceptGrid ⟨c, (s.takeGid c).1⟩ (gridOf b d 0 none (some q)) = .ok v →
      exec (.queueLaunchStart c q) s = .next (v.modQueue c q fun y => { y with started := true })) ∧
  (∀ (s u : State) (c q : Nat) (b : List Word) (d : KDesc) (k : Cause) (va : DWord) (wr : Bool), c < 16 → s.nextEntry c q = some (.launch b d) →
    s.liveGrids c < 65536 →
    (s.takeGid c).2.acceptGrid ⟨c, (s.takeGid c).1⟩ (gridOf b d 0 none (some q)) = .error (k, va, wr, u) →
      exec (.queueLaunchStart c q) s = .next ((if k = Cause.page then s else u).entryCause c q k va wr)) ∧
  (∀ (s : State) (c q : Nat) (b : List Word), c < 16 → s.nextEntry c q = some (.copy b) →
    let len := (wordAt b 4).toNat
    let aligned := (pairAt b 0).toNat % 16 = 0 ∧ (pairAt b 2).toNat % 16 = 0 ∧ len % 16 = 0
    (¬aligned → exec (.queueCopyStart c q) s = .next (s.entryCause c q Cause.align 0 false)) ∧
    (aligned → len = 0 → exec (.queueCopyStart c q) s = .next (s.queueDone c q)) ∧
    (aligned → len ≠ 0 → exec (.queueCopyStart c q) s =
      .next ((s.modQueue c q fun y => { y with started := true }).addOp fun id =>
        { id := id, agent := .cp c, core := 511, kind := .copy { src := pairAt b 0, dst := pairAt b 2, len := len }, queue := some q }))) ∧
  (∀ (s u : State) (c q : Nat) (va : DWord) (v : Word) (p : Place) (o : ObjAddr), c < 16 →
    (s.nextEntry c q = some (.semw va v) → s.entryObject c va false = .ok (p, o, u) →
      exec (.queueSemwaitStart c q) s = .next (if 0 ≤ (u.objWord o 0 - v).toInt then u.queueDone c q else
        let w := u.modQueue c q fun y => { y with started := true }
        { w with waiters := w.waiters ++ [{ obj := o, agent := .cp c, lanes := 0, queue := some q, value := v, phase := false }] })) ∧
    (s.nextEntry c q = some (.sems va v) → s.entryObject c va true = .ok (p, o, u) →
      exec (.queueSemsigStart c q) s = .next ((u.semAdd o p.row v).queueDone c q)) ∧
    ∀ k : Cause, (s.nextEntry c q = some (.semw va v) → s.entryObject c va false = .error (k, u) →
        exec (.queueSemwaitStart c q) s = .next (u.entryCause c q k va false)) ∧
      (s.nextEntry c q = some (.sems va v) → s.entryObject c va true = .error (k, u) →
        exec (.queueSemsigStart c q) s = .next (u.entryCause c q k va true))) ∧
  (∀ (s : State) (c q v : Nat), c < 16 → s.nextEntry c q = some (.irq v) →
    exec (.queueIrqStart c q) s = .next ((s.raiseMsix (1 + partOf c) v).queueDone c q)) ∧
  (∀ (s : State) (f v : Nat), (f, v) ∉ s.msixMask → s.raiseMsix f v = { s with out := s.out ++ [.msix f v] }) ∧
  (∀ (s : State) (c q : Nat) (y : CmdQueue), c < s.ctxs.length → (s.ctx c).queues[q]? = some y →
    ∃ z, ((s.queueDone c q).ctx c).queues[q]? = some z ∧ z.entries = y.entries.tail ∧ z.started = false ∧
      z.completed = y.completed + 1) ∧
  ∀ (s : State) (c q : Nat) (k : Cause) (va : DWord) (wr : Bool), c < s.ctxs.length → k ≠ Cause.page →
    State.HaltsWith s (s.entryCause c q k va wr) c k

/-! Power, time and random numbers; system registers; privileged instructions. -/

/-- R284 to R287, R304, R307, R310: `PHASE` changes nothing; `PERF` notes the request of the lowest thread and whether the others agree;
`TOKQ`, `CAPQ`, `TIME` and `RNG` write their sample, and nothing else. On a command processor `TIME.cyc` counts hub fclk, and the core tokens
have no stated value: the instruction still writes its register. That selector 0 reads the core bucket, and selector 1 the issuing clause's tokens, before
the charge of the `TOKQ` itself is the model's choice (all three: log entry 22). -/
def Obligations.TimeResults : Prop :=
  let word (i : BitVec 1 → Instr) (d : Nat) (s : State) (x : Issuer) (v : Nat → Word) (z : Word) : Prop :=
    (Ready (i 0) s x → Completes (i 0) s x fun w => Passed x 4 w ∧ LaneRegs x d v w ∧ w.sticky = x.w.sticky) ∧
    (Ready (i 1) s x → Completes (i 1) s x fun w => Passed x 4 w ∧ UniRegs x d z w ∧ w.sticky = x.w.sticky)
  let double (i : BitVec 1 → Instr) (d : Nat) (s : State) (x : Issuer) (v : DWord) : Prop :=
    (Ready (i 0) s x → Completes (i 0) s x fun w => Passed x 4 w ∧ LanePairs x d (fun _ => v) w ∧ w.sticky = x.w.sticky) ∧
    (Ready (i 1) s x → Completes (i 1) s x fun w => Passed x 4 w ∧ UniPair x d v w ∧ w.sticky = x.w.sticky)
  let drawn (i : Instr) (n : Nat) (s : State) (x : Issuer) (P : Wave → Prop) : Prop :=
    Ready i s x → ∃ t w, exec i s = .next t ∧ OnlyWave { s with freeCtr := s.freeCtr + n } t x.a w ∧ OnlyRegs x.w w ∧ Passed x 4 w ∧ P w
  (∀ (a : BitVec 6) (s : State) (x : Issuer), Ready (.phase a) s x → Completes (.phase a) s x fun w =>
    Passed x 4 w ∧ SameRegs x.w w ∧ w.sticky = x.w.sticky) ∧
  (∀ (a : BitVec 6) (s : State) (x : Issuer), Ready (.perf a) s x →
    let req (l : Nat) : BitVec 2 := (x.w.vreg a.toNat l).setWidth 2
    Occurs (.perf a) s fun r => Advances (s.putAgent x.a
      { x.w with perf := req x.low, pnu := x.w.pnu || x.lanes.any fun l => req l != req x.low }) r x (.perf a)) ∧
  (∀ (d : BitVec 6) (s : State) (x : Issuer),
    let i (a : BitVec 6) (u : BitVec 1) : Instr := .tokq u d a
    word (i 2) d.toNat s x (fun _ => s.pwReg 0x003) (s.pwReg 0x003) ∧
    (∀ k, x.a = .wave k →
      word (i 0) d.toNat s x (fun _ => BitVec.ofNat 32 (s.core (s.coreOf x.a)).tokens) (BitVec.ofNat 32 (s.core (s.coreOf x.a)).tokens) ∧
      word (i 1) d.toNat s x (fun _ => x.w.tokens) x.w.tokens) ∧
    ∀ c a, x.a = .cp c → a.toNat < 2 →
      drawn (i a 0) 1 s x (fun w => ∃ v, LaneRegs x d.toNat (fun _ => v) w) ∧ drawn (i a 1) 1 s x fun w => ∃ v, UniRegs x d.toNat v w) ∧
  (∀ c : Core, 0 ≤ c.shares.foldl (· + ·) 0 → c.shares.foldl (· + ·) 0 ≤ 65536 → (c.tokens : Int) = c.shares.foldl (· + ·) 0) ∧
  (∀ (d : BitVec 6) (s : State) (x : Issuer),
    word (fun u => .capq u d) d.toNat s x (fun _ => s.pwReg 0x00B &&& 0x3FFF) (s.pwReg 0x00B &&& 0x3FFF) ∧
    double (fun u => .timeRef u d) d.toNat s x (BitVec.ofNat 64 s.timeRef) ∧
    (∀ k, x.a = .wave k → double (fun u => .timeCyc u d) d.toNat s x (BitVec.ofNat 64 (s.cluster (clusterOf (s.coreOf x.a))).cyc)) ∧
    ∀ c, x.a = .cp c → double (fun u => .timeCyc u d) d.toNat s x (BitVec.ofNat 64 s.hubCyc)) ∧
  (∀ (d a b : BitVec 6) (s : State) (x : Issuer),
    word (fun u => .rng u d a b) d.toNat s x (fun l => mix (x.w.kpair b.toNat) (x.w.vreg a.toNat l))
      (mix (x.w.kpair b.toNat) (x.w.kreg a.toNat))) ∧
  ∀ x y ka kb : Word, mixRound (x, y, ka, kb) =
    (BitVec.ofNat 32 (x.toNat * 0xD2511F53 / 2 ^ 32) ^^^ y ^^^ kb, x * 0xD2511F53 ^^^ (ka + 0x9E3779B9), ka + 0x9E3779B9, kb + 0xBB67AE85)

/-- R7, R327 to R330, R345, R346, R430: `MFSR` writes the register read, `MTSR` writes the register, each between two fences at `.dev`. At level 0,
and for a write below the register's level, they take `PRIV`. A write changes a writable bit to the value and clears a write-one-to-clear
bit; a read clears the read-to-clear bits. A write through the device window reaches the same registers. -/
def Obligations.SystemRegisters : Prop :=
  (∀ (b : RegBits) (old v : Word) (j : Nat), j < 32 → (b.write old v).getLsbD j =
    if b.rw.getLsbD j = true then v.getLsbD j else if b.w1c.getLsbD j = true ∧ v.getLsbD j = true then false else old.getLsbD j) ∧
  (∀ (d : BitVec 6) (n : BitVec 16) (s : State) (x : Issuer),
    let v := s.privFence x.a
    let g := v.regAgent x.a
    (Ready (.mfsr d n) s x → Occurs (.mfsr d n) s fun r =>
      Advances (((v.readReg g n).2.modAgent x.a fun w => w.setK d.toNat (v.readReg g n).1).privFence x.a) r x (.mfsr d n)) ∧
    (Ready (.mtsr d n) s x → Occurs (.mtsr d n) s fun r =>
      Advances ((v.writeReg g n (x.w.kreg d.toNat)).privFence x.a) r x (.mtsr d n))) ∧
  (∀ (i : Instr) (s : State) (x : Issuer) (k : WaveKey), s.issuer? = some x → x.a = .wave k →
    x.w.missed i x.e (s.descOf x.a).nregs = false → x.w.poisoned i x.e (s.descOf x.a).nregs = none → reservedField i = false →
    ((s.sys k.team.grid.ctx = false ∧ ((∃ d n, i = .mfsr d n) ∨ (∃ d n, i = .mtsr d n) ∨ ∃ c, i = .haltc c)) ∨
      ∃ d n, i = .mtsr d n ∧ regWriteLevel n = 2) →
    exec i s = .next (s.takeCause x.a x.e Cause.priv 0 x.pc (x.th.advance 4) 0)) ∧
  (∀ (s : State) (c p i : Nat) (v : Word), c < s.ctxs.length → p < s.parts.length →
    (s.setCtReg c i v).ctReg c i = v ∧ (s.setPtReg p i v).ptReg p i = v ∧ (i ≠ 0 → (s.setDvReg i v).dvReg i = v) ∧
      (s.setPwReg i v).pwReg i = v ∧
    ∀ e j, (c, i) ≠ (e, j) → (s.setCtReg c i v).ctReg e j = s.ctReg e j) ∧
  (∀ (s : State) (p : Nat) (n : BitVec 16), p < 8 → s.parts.length = 8 → (regBits n).rc ≠ 0 → s.ready = true →
    let g : RegAgent := { level := 2, part := p }
    let t := (s.readReg g n).2
    exec (.readClear p n) s = .next t ∧ (s.readReg g n).1 = s.regNow g n ∧ t.regNow g n = s.regNow g n &&& ~~~(regBits n).rc) ∧
  ∀ (s : State) (level p : Nat) (n : BitVec 16) (v : Word), p < 8 → level < 3 →
    let g : RegAgent := { level := level, part := p }
    Occurs (.registerWrite level p n v) s fun r =>
      (s.ready = true → regDefined n = true → regWriteLevel n ≤ level → n.toNat < 0x6000 ∨ p = 0 → 0 < level → r = s.writeReg g n v) ∧
      (s.ready = false ∨ regDefined n = false ∨ level < regWriteLevel n ∨ (0x6000 ≤ n.toNat ∧ p ≠ 0) → r = s)

/-- R72, R75, R345, R347 to R349: a privileged instruction acts between two fences. One whose target names nothing live sets `NOTGT` and does nothing
else; a reserved bit in its address raises `ILLEGAL`. `CTXFL` writes the lines of its target back, `TLBI` drops translations, `PARK`
stops its waves and waits until all have stopped, `UNPARK` lets them run, `HALTC` raises the halt line of its context. `TLBI.page` flushes the L1s of the
partition whole (log entry 24) and wakes its gated cores. CORE and QUARTER of the header of `HALTC` are open (log entry 25), and
so is that it halts a slot that is not valid as any other (log entry 75). -/
def Obligations.SystemResults : Prop :=
  (∀ (i : Instr) (d : BitVec 6) (lvl : Nat) (s : State) (x : Issuer), Ready i s x →
    (∃ l f, (i = .ctxfl d l f ∨ i = .park d l ∨ i = .unpark d l f) ∧ lvl = l.toNat) →
    let v := s.privFence x.a
    let kp := x.w.kpair d.toNat
    let ws := v.targetWaves (targetCtx x kp) lvl (targetVa kp)
    let awake := ws.foldl (fun s k => s.wakeCore (s.coreOf (.wave k))) v
    (targetBad kp lvl = true → exec i s = .next (v.takeCause x.a x.e Cause.illegal 0 x.pc (x.th.advance 4) 0)) ∧
    (targetBad kp lvl = false → ws = [] → Occurs i s fun r => Advances ((v.noTarget (partOf x.ctx)).privFence x.a) r x i) ∧
    (targetBad kp lvl = false → ws ≠ [] →
      (∀ l f, i = .ctxfl d l f → Occurs i s fun r => Advances
        ((awake.flushTargets ws (awake.targetTeams (targetCtx x kp) lvl (targetVa kp)) (decide (f = 1))).privFence x.a) r x i) ∧
      (∀ l f, i = .unpark d l f → Occurs i s fun r =>
        Advances ((ws.foldl (State.unparkWave · (decide (f = 1))) awake).privFence x.a) r x i) ∧
      ∀ l, i = .park d l →
        let u := ws.foldl (fun s k => s.modAgent (.wave k) Wave.park) awake
        (u.parked ws = true → Occurs i s fun r => Advances (u.privFence x.a) r x i) ∧
        (u.parked ws = false → Occurs i s fun r => Moves (u.modAgent x.a fun w =>
          { w.setWaiting x.e 12 with parkWait := w.parkWait ++ [(x.e, ws)] }) r x))) ∧
  (∀ w : Wave, w.tm = false → w.park.spk = true ∧ { w.park with spk := w.spk } = w) ∧
  (∀ (s : State) (a : Agent) (w : Wave) (p : LaneMask × List WaveKey), s.agent? a = some w →
    (w.parkWait.find? fun p => s.parked p.2) = some p → exec (.privilegedCompletion a) s =
      .next ((s.putAgent a { w.modLanes (p.1 &&& w.waitingAt 12 0) Thread.resumeAfter with parkWait := w.parkWait.erase p }).privFence a)) ∧
  (∀ (d : BitVec 6) (s : State) (x : Issuer),
    let b := s.privFence x.a
    let v := b.forcePartition (partOf x.ctx)
    let kp := x.w.kpair d.toNat
    let flushed := (v.cores.map (·.1)).foldl
      (fun s c => if s.inMask (partOf x.ctx) 0x001 (clusterOf c) then (s.flushL1 c).wakeCore c else s) v
    targetBad kp 0 = false →
    (Ready (.tlbiCtx d) s x → Occurs (.tlbiCtx d) s fun r =>
      Advances ((v.dropTlb fun e => e.ctx = targetCtx x kp).privFence x.a) r x (.tlbiCtx d)) ∧
    (Ready (.tlbiPage d) s x → Occurs (.tlbiPage d) s fun r => Advances
      ((flushed.dropTlb fun e => e.ctx = targetCtx x kp && e.vpage = (targetVa kp).toNat / 2 ^ e.bits).privFence x.a) r x
        (.tlbiPage d))) ∧
  (∀ (s : State) (f : TlbEntry → Bool) (c : Nat), ∀ e ∈ ((s.dropTlb f).cluster c).tlb, f e = false ∧ e ∈ (s.cluster c).tlb) ∧
  (∀ (c : BitVec 1) (s : State) (x : Issuer), Ready (.haltc c) s x →
    let v := s.privFence x.a
    Occurs (.haltc c) s fun r => ∃ n q, Advances ((State.raiseHalt { v with freeCtr := v.freeCtr + 1 } (2 * partOf x.ctx + c.toNat)
      { code := 0, src := 2, core := n, quarter := q }).privFence x.a) r x (.haltc c)) ∧
  ∀ (s : State) (c : Nat) (h : HaltHdr), c < s.ctxs.length → State.HaltsWith s (s.raiseHalt c h) c h.code

/-! Waves. -/

/-- R38, R42, R50, R69, R73, R74, R171 to R173, R358, R380: a group at a header begins the clause when every WAIT flag is 0, and else waits;
a word that is no header, or a malformed one, raises `CLAUSE`. The lowest pending cause is taken at an issue boundary. Waves move between
the active set, the pending set and memory, and fill their lines; a hang is reported and the wave goes on. The model's choices: that a wave takes the
lowest free place of a set, and which pending waves give up register lines first (log entry 10); of a register miss, that it waits for the lines its next
instruction names, as the step found them (log entry 32); that after 64 fclk a wait of kind 11, for a full flag counter or another limit, leaves the
active set as a wait of kind 8 at a header does, of which alone R50 speaks (log entry 58). -/
def Obligations.WaveEvents : Prop :=
  (∀ (s u : State) (x : Issuer) (word : Word), s.issuer? = some x → x.th.chdr = 0 →
    x.pc.getLsbD 0 = false → s.codeHead x.a x.pc = (.ok word, u) →
    let h := ClauseHeader.ofWord word
    (isClauseHeader word = false ∨ h.bad = true → exec .clauseStart s = .next (u.fetchCause x Cause.clause)) ∧
    (isClauseHeader word = true → h.bad = false →
      ((∃ n, n < 12 ∧ h.wait.getLsbD n = true ∧ x.w.flag n ≠ 0) →
        exec .clauseStart s = .next (u.modAgent x.a fun w => w.setWaiting x.e 8)) ∧
      ((∀ n, n < 12 → h.wait.getLsbD n = true → x.w.flag n = 0) → exec .clauseStart s = .next (u.beginClause x word)))) ∧
  (∀ (s : State) (x : Issuer) (word : Word) (w : Wave), s.agent? x.a = some w → (ClauseHeader.ofWord word).y = false →
    ∃ v, (s.beginClause x word).agent? x.a = some v ∧ v.groups = w.groups ∧ SameRegs w v ∧ ∀ l, l < w.threads.length →
      v.th l = if x.e.getLsbD l = true then { w.th l with
        pc := pcOf ((w.th l).pc + 4), cpos := 0, chdr := word
        seen := match x.a with | .wave k => ((s.team? k.team).map (·.s)).getD [] | .cp _ => (w.th l).seen } else w.th l) ∧
  (∀ (s : State) (x : Issuer) (c : Cause), s.issuer? = some x → 0 < c → c < 32 → x.w.pend.getLsbD c = true →
    (∀ d, 0 < d → d < c → x.w.pend.getLsbD d = false) →
    let b : Word := BitVec.ofNat 32 (2 ^ c)
    exec .asyncCauseDelivery s = .next ((s.modAgent x.a fun w => { w with pend := w.pend &&& ~~~b, pendEng := w.pendEng &&& ~~~b }).takeCause
      x.a x.e c 0 x.pc x.th (if x.w.pendEng.getLsbD c then 1 else 0))) ∧
  (∀ (s u : State) (k : WaveKey) (t : Team) (v : Wave) (ok : Bool), s.team? k.team = some t → s.wave? k = some v → s.onCore k = true →
    v.couldRun = true →
    let act := s.quarterWaves t.core v.quarter .active
    let all := s.quarterWaves t.core v.quarter .pending
    let pen := all.filter fun (_, _, x) => x.couldRun
    let mem := (s.quarterWaves t.core v.quarter .memory).filter fun (_, _, x) => x.couldRun || x.unread
    let slot := s.fclk t.core / 128 % 24
    (v.cls = .pending → (if (pen.any fun (_, _, x) => x.slot = slot) = true then v.slot = slot else s.firstByRank k t pen = true) →
      act.length < 8 → s.regBytes act + 128 * (s.descOf (.wave k)).nregs ≤ s.regBudget t.core →
      s.fillLines k (List.range (16 + (s.waveSpan k).2)) = (ok, u) → exec (.waveActivation k) s =
        .next (if ok = true then
          (u.modAgent (.wave k) fun x => { x with cls := .active, slot := freeSlot act 8, missing := [] }).applyEdit k |>.fitRegs k else u)) ∧
    (v.cls = .memory → s.firstByRank k t mem = true → all.length < 24 → ∀ f, s.fillS k.team t.core (s.level (.wave k)) = (.ok (), f) →
      f.fillLines k (List.range 16) = (ok, u) → exec (.wavePendingEntry k) s = .next (if ok = true then
        (u.modAgent (.wave k) fun x => { x with cls := .pending, slot := freeSlot all 24 }).applyEdit k else u)) ∧
    (v.cls = .active → (∃ n ∈ v.needs, n ∈ v.absent) → exec (.registerMiss k) s =
      .next ((s.toPending k).modAgent (.wave k) fun x => { x with missing := v.needs.filter x.absent.contains, needs := [] }))) ∧
  (∀ (s : State) (k : WaveKey) (v : Wave) (line : Nat), s.wave? k = some v → s.onCore k = true → v.cls = .pending → v.cpk = false →
    line ∈ v.absent → exec (.registerLineFill k line) s = .next (s.fillLines k [line]).2) ∧
  (∀ (s : State) (k : WaveKey) (t : Team) (v : Wave), s.team? k.team = some t → s.wave? k = some v → s.onCore k = true →
    v.cls = .active → v.waitingFor [8, 11] ≠ 0 → v.flagSince ≠ 0 → 64 < s.fclk t.core + 1 - v.flagSince →
    exec (.flagWaitDemotion k) s = .next ((s.toPending k).modAgent (.wave k) fun x => { x with flagSince := 0 })) ∧
  (∀ (s : State) (k : WaveKey) (v : Wave), s.wave? k = some v → 2 ^ 20 ≤ v.hang →
    let c := k.team.grid.ctx
    exec (.waveHang k) s = .next ((s.putWave k { v with hang := 0 }).raiseEvent (partOf c) 0x01 (c % 2)
      (leBytes 8 (s.whoBase (.wave k)).toNat ++ leBytes 4 k.team.grid.gid ++ [BitVec.ofNat 8 k.idx]))) ∧
  ∀ (s : State) (k : WaveKey) (v : Wave) (line pa : Nat), s.wave? k = some v → line ∈ v.absent →
    ∃ w, (s.readLine k line pa).wave? k = some w ∧ line ∉ w.absent ∧ ∀ l, l ≠ line → (l ∈ w.absent ↔ l ∈ v.absent)

/-! Dispatch, placement, swaps and halts. -/

/-- R27, R353 to R357, R396, R398: the partitions take turns, and of those that can send a batch one has the turn. A batch is the first grid's
by priority and acceptance that can send one, and goes to the die with the most free slots. A team is placed on a core of its ring
that fits it. What no core can hold for 65,536 memory clocks is returned, and kept in ascending number. A
stopped team of a vacated cluster is saved with its archipelago and goes ahead of the batches. The model's choices: the quarters are open (log entry
10); the core that takes the lagoon held for an exited member of a moved archipelago (log entry 78); where the pointer of a ring starts, that a team of
a swapped-out context stays in its queue, and that a moved team is returned as a batch of its own (log entry 73). -/
def Obligations.PlacementEvents : Prop :=
  (∀ (s : State) (p c d : Nat) (k : GridKey) (g : Grid) (ns : List Nat), p < 8 → s.runningCtx p = some c → s.halted c = false →
    (s.part p).swap = none →
    let gs := s.grids.filter fun (k, g) => k.ctx = c && (decide (g.next < g.total) || !g.returned.isEmpty) && !(s.gridBatch p g).2.isEmpty
    (gs.find? fun (_, g) => gs.all fun (_, h) => !gridBefore h g) = some (k, g) → s.gridBatch p g = (d, ns) →
    s.turnOf p = true →
    let v := ns.foldl (fun s n => s.sendTeam k n) s
    let die := v.die d
    let sent := { die with queue := die.queue ++ ns.map fun n => { team := ⟨k, n⟩, batch := v.opCtr } }
    exec (.batchDispatch p) s = .next { v.putDie d sent with opCtr := v.opCtr + 1, served := p }) ∧
  (∀ (s : State) (p : Nat), s.served < 8 → p < 8 →
    ((∀ q, q < 8 → q ≠ p → s.nextBatch q = none) → s.turnOf p = true) ∧
    ∀ q, q < 8 → s.turnOf p = true → s.turnOf q = true → s.nextBatch p ≠ none → s.nextBatch q ≠ none → p = q) ∧
  (∀ a b : Grid, gridBefore a b = true ↔ b.prio < a.prio ∨ (a.prio = b.prio ∧ a.order < b.order)) ∧
  (∀ (s : State) (p : Nat) (g : Grid), (s.gridBatch p g).2.length ≤ 64 ∧ (s.gridBatch p g).2.length ≤ s.dieFree p (s.bestDie p g) g ∧
    ∀ d, d < 4 → s.dieFree p d g ≤ s.dieFree p (s.bestDie p g) g ∧
      (d < s.bestDie p g → s.ring p d ≠ [] → s.dieFree p d g < s.dieFree p (s.bestDie p g) g)) ∧
  (∀ (s : State) (die c : Nat) (k : TeamKey) (ms : List TeamKey) (g : Grid) (p : Nat) (ring : List Nat), die < 4 →
    s.dieHead die = some (k :: ms, g, p, ring) → s.running k.grid.ctx = true → s.halted k.grid.ctx = false → (s.part p).swap = none →
    ring.any (s.headFits ring g (k :: ms)) = true →
    let u := s.tickDeficit ring ((s.die die).ptr.get 0 p)
    u.chooseCore ring (u.headFits ring g (k :: ms)) ((u.die die).ptr.get 0 p) = some c →
    let v := (u.placeAll p die ring g (k :: ms) c).moveHeld (k :: ms) g (u.heldHomes ring g (ms.length + 1) c)
    let x := v.die die
    exec (.teamPlacement die) s =
      .next (v.putDie die { x with
        queue := x.queue.filter fun q => !(k :: ms).contains q.team
        wait := 0
        lost := x.lost.erase (((x.queue.head?).map (·.batch)).getD 0) })) ∧
  (∀ (s : State) (ring : List Nat) (fit : Nat → Bool) (p : Nat),
    (∀ c, s.chooseCore ring fit p = some c → c ∈ ring ∧ fit c = true) ∧ (ring.any fit = true → (s.chooseCore ring fit p).isSome = true)) ∧
  (∀ (s : State) (k : TeamKey) (c : Nat) (t : Team), s.team? k = some t → t.move = none → ∃ r, (s.placeTeam k c).team? k = some r ∧
    r.core = c ∧ r.saved = false ∧ r.slot = t.slot ∧ r.waves.length = t.waves.length ∧
      ∀ w ∈ r.waves, w.cls = .memory ∧ w.quarter < 4) ∧
  (∀ (s : State) (die : Nat) (ms : List TeamKey) (g : Grid) (p : Nat) (ring : List Nat) (h : Sent) (rest : List Sent), die < 4 →
    s.dieHead die = some (ms, g, p, ring) → (s.die die).queue = h :: rest → ring.any (s.headFits ring g ms) = false →
    65536 * 16 ≤ (s.die die).wait * 25 ∨ h.batch ∈ (s.die die).lost →
    let x := s.die die
    let v := s.putDie die { x with queue := x.queue.filter (fun q => q.batch ≠ h.batch), wait := 0, lost := x.lost.erase h.batch }
    exec (.batchReturn die) s = .next ((x.queue.filter fun q => q.batch = h.batch).foldl
      (fun s q => s.modGrid q.team.grid fun g => { g with
          returned := g.returned.filter (· < q.team.num) ++ q.team.num :: g.returned.filter (q.team.num < ·) }) v)) ∧
  ∀ (s u : State) (k : TeamKey) (g : Grid), s.grid? k.grid = some g → s.running k.grid.ctx = true → s.halted k.grid.ctx = false →
    (s.part (partOf k.grid.ctx)).swap = none → s.liveMembers k g ≠ [] → (∀ m ∈ s.liveMembers k g, s.canMove m = true) →
    s.saveMembers (s.liveMembers k g) = some u →
    let p := partOf k.grid.ctx
    let d := u.bestDie p g
    let x := u.die d
    let new : List Sent := (s.liveMembers k g).map fun m => { team := m, batch := u.opCtr, moved := true }
    let ahead := x.queue.filter (·.moved)
    let v := u.putDie d { x with
      queue := ahead ++ new ++ x.queue.filter fun q => !q.moved
      wait := if ahead = [] then 0 else x.wait }
    exec (.teamMove k) s = .next (State.vacUpdate { v with
      opCtr := v.opCtr + 1
      heldLag := v.heldLag.map fun q => if q.1.grid = k.grid && q.1.num / g.arch = k.num / g.arch then (q.1, { q.2 with core := 511 }) else q } p)

/-- R7, R332, R339 to R344, R349 to R351, R386 to R391, R396 to R398: a halt that completes leaves the context halted and not running, with
none of its operations in flight. A swap is exchanged once the outgoing context has stopped, and its restore makes the incoming context the
running one. A request for the running context has no effect, and one for a context that is not valid or has halted sets ERR. A command
processor's program starts at its address, and its registers keep their values (log entry 9). A masked
handler that has not stopped in 16,384 fclk halts its context. The model's choices: the time that `PT_SWAPT` shows counts from the exchange (log entry
36), and a swap back recorded while no context went out is dropped (log entry 65). -/
def Obligations.SwapEvents : Prop :=
  (∀ (s : State) (c : Nat) (h : HaltHdr), c < 16 → s.ctxs.length = 16 → (s.ctx c).halt = some h →
    (∀ w, (s.part (partOf c)).swap = some w → w.incoming ≠ c) → Occurs (.haltComplete c) s fun r =>
      (r.ctx c).halt = none ∧ (r.ctReg c 0).getLsbD 3 = true ∧ (r.ctReg c 0).getLsbD 2 = false ∧ r.liveGrids c = 0 ∧
        (∀ o ∈ r.ops, ctxOf o.agent ≠ c) ∧ (∀ w ∈ r.waiters, ctxOf w.agent ≠ c) ∧
        (s.running c = true → s.parts.length = 8 → (r.ptReg (partOf c) 0).getLsbD 5 = true)) ∧
  (∀ (s : State) (p : Nat) (w : Swap), p < 8 → s.parts.length = 8 → (s.part p).swap = some w → w.exchanged = false →
    (∀ o, w.outgoing = some o → (s.ctReg o 0).getLsbD 3 = true ∨ (s.stopped o = true ∧ (s.ctx o).halt = none)) → Occurs (.swapExchange p) s fun r =>
      (r.part p).swap = some { w with exchanged := true, haltAt := some s.timeRef } ∧
        ∀ c, s.inMask p 0x001 (clusterOf c) = true → (r.core c).gated = false) ∧
  (∀ (s : State) (p : Nat) (w : Swap), p < 8 → s.parts.length = 8 → s.ctxs.length = 16 → w.incoming < 16 →
    (s.part p).swap = some w → w.exchanged = true → w.back = false → Occurs (.swapRestore p) s fun r =>
      (r.part p).swap = none ∧ (r.ctReg w.incoming 0).getLsbD 2 = true ∧
        (∀ o, w.outgoing = some o → o ≠ w.incoming → o < 16 → (r.ctReg o 0).getLsbD 2 = false) ∧
        (r.ptReg p 0).getLsbD 1 = decide (w.incoming % 2 = 1) ∧ (r.ptReg p 0).getLsbD 2 = false ∧ (r.ptReg p 0).getLsbD 5 = false ∧
        s.SameMemory r) ∧
  (∀ (s : State) (p : Nat) (w : Swap), p < 8 → s.parts.length = 8 → s.ctxs.length = 16 → (s.part p).swap = some w → w.exchanged = true →
    w.back = true → w.incoming / 2 = p →
    (w.outgoing = none → Occurs (.swapRestore p) s fun r => (r.part p).swap = none) ∧
    ∀ o, w.outgoing = some o → o / 2 = p → o ≠ w.incoming → s.valid o = true → (s.ctReg o 0).getLsbD 3 = false →
      Occurs (.swapRestore p) s fun r => (r.part p).swap = some { incoming := o, outgoing := some w.incoming }) ∧
  (∀ (s : State) (p : Nat) (c : BitVec 1), p < 8 →
    let v : Word := (s.ptReg p 0x01A &&& ~~~1) ||| c.setWidth 32
    exec (.swapreq p c) s = .next (if (s.ptReg p 0).getLsbD 0 = true then (s.setPtReg p 0x01A v).swapRequest p c.toNat
      else s.setPtReg p 0x01A v)) ∧
  (∀ (s : State) (p c : Nat), (s.part p).swap = none → s.runningCtx p ≠ some (2 * p + c) →
    (s.valid (2 * p + c) = true → (s.ctReg (2 * p + c) 0).getLsbD 3 = false → s.swapRequest p c = s.beginSwap p c) ∧
    (s.valid (2 * p + c) = false ∨ (s.ctReg (2 * p + c) 0).getLsbD 3 = true →
      s.swapRequest p c = s.setPtReg p 0 (s.ptReg p 0 ||| 8))) ∧
  (∀ (s : State) (c : Nat), c < 16 → s.ctxs.length = 16 →
    ((s.ctReg c 0x009).getLsbD 1 = false → 0 < (s.ctx c).cp.threads.length → Occurs (.cpStart c) s fun r =>
      (r.ctReg c 0x009).getLsbD 1 = true ∧ ((r.ctx c).cp.th 0).stat = .running ∧ ((r.ctx c).cp.th 0).chdr = 0 ∧
        ((r.ctx c).cp.th 0).pc = pair (s.ctReg c 0x007) (s.ctReg c 0x008 &&& 0x01FFFFFF) ∧ (r.ctx c).cp.k = (s.ctx c).cp.k) ∧
    ((s.ctReg c 0x009).getLsbD 1 = true → Occurs (.cpStart c) s fun r => (r.ctx c).cp = (s.ctx c).cp)) ∧
  (∀ (s : State) (p die cl : Nat), p < 8 → die < 4 → cl < 20 →
    exec (.vacateCluster p die cl) s = .next (s.writeVac p die ((s.ptReg p (0x00E + die) &&& 0xFFF00000) |||
      ((s.ptReg p (0x00E + die) ||| BitVec.ofNat 32 (2 ^ cl)) &&& 0xFFFFF)))) ∧
  ∀ (s : State) (k : WaveKey) (v : Wave) (n : Nat), s.wave? k = some v → v.stopReq = some n → 16384 ≤ n → v.tm = true → v.done = false →
    k.team.grid.ctx < s.ctxs.length →
    Occurs (.preemptTimeout k) s fun r => State.HaltsWith s r k.team.grid.ctx Cause.preemptTimeout ∧
      ∃ w, r.wave? k = some w ∧ w.code = 0x19

/-! Power. -/

/-- R20, R42, R72, R304, R307 to R311, R406 to R416: gating leaves a core's store as it is; the vote of a cluster takes the setting of the
most issued instructions; a droop above the threshold, or for 1 µs after a write above an old one, stretches the 6 lclk that follow, whose edges lie
twice as far apart, and halves issue for the 64 fclk after them; a bucket serves the requests of a tick in full or in proportion, once its charges are
paid; a governor step moves RATE by at most one slew step. The model's choices: the amounts that the reserve changes by are open, and what `PW_RATE`
shows of a RATE beyond 32 bits (log entry 3); ticks that are refilled together are rounded once (log entry 7); the order in which excess shares pass on
(log entry 64); the order of power intents and the delays of a rise (log entry 37). -/
def Obligations.PowerEvents : Prop :=
  let settled (s r : State) : Prop :=
    (∀ x ∈ r.rises, x.delay < 15 → r.timeRef ≤ r.riseStart x → ∀ h ∈ r.intents, r.clashes (r.riseStart x) h = false) ∧
    ((∀ x ∈ s.rises, x.delay ≤ 15) → ∀ x ∈ r.rises, x.delay ≤ 15)
  (∀ (s : State) (c : Nat), c < 320 →
    ((s.core c).gated = false → (s.pwReg 0).getLsbD 0 = true → s.coreIdle c = true → (s.core c).busyAt + 4000 ≤ s.timeRef →
      exec (.coreGate c) s = .next (s.putCore c { s.core c with gated := true })) ∧
    ((s.core c).gated = true → s.coreIdle c = false → exec (.coreWake c) s = .next (s.putCore c { s.core c with gated := false })) ∧
    s.SameMemory (s.putCore c { s.core c with gated := true })) ∧
  (∀ s : State, (s.pwReg 0).getLsbD 0 = true → Occurs .cgateClear s fun r =>
    (r.pwReg 0).getLsbD 0 = false ∧ (∀ c, (r.core c).gated = false) ∧ s.SameMemory r) ∧
  (∀ (s : State) (k : Nat), k < 80 → (s.cluster k).voteAt + 4000 ≤ s.timeRef → Occurs (.ratioVote k) s fun r =>
    r.cluster k = { s.cluster k with
      ratio := ratioChoice (s.ratioWeight k 1) (s.ratioWeight k 2) (s.ratioWeight k 3) (s.cluster k).ratio,
      voteAt := (s.cluster k).voteAt + 4000 } ∧ ∀ p ∈ r.teams, clusterOf p.2.core = k → ∀ w ∈ p.2.waves, w.issued = 0) ∧
  (∀ (h e d : Nat) (old : BitVec 2), ratioChoice 0 0 0 old = old ∧ (0 < e → h ≤ e → d ≤ e → ratioChoice h e d old = 2) ∧
    (e < h → d < h → ratioChoice h e d old = 1) ∧ (e < d → h < d → ratioChoice h e d old = 3) ∧
    (e < h → h = d → ratioChoice h e d old = 2)) ∧
  (∀ (s : State) (k mv : Nat), k < 80 →
    (bits (s.pwReg 5) 0 7 < mv ∨ (∃ q ∈ s.droopOld, s.timeRef < q.2 ∧ q.1 < mv) →
      exec (.droopTrip k mv) s = .next (s.putCluster k ((s.cluster k).trip s.timeRef))) ∧
    ((s.cluster k).stretch = 0 → (s.cluster k).halved = 1 →
      exec (.droopIssueEnd k) s = .next (s.putCluster k { s.cluster k with halved := 0 }))) ∧
  (∀ (c : Cluster) (now : Nat), let d := c.trip now
    (c.stretched = false → d.stretch = 6 ∧ d.stretchAt = if c.ratio = 1 then 2 * (c.cyc / 2 + 1) else c.cyc + 1) ∧
    (c.stretched = true → d.stretchAt = c.stretchAt ∧ d.stretch = 6 + if c.ratio = 3 then 2 else 1) ∧
    d.trips = (c.trips.filter fun t => decide (now < t + 16000)) ++ [now] ∧ 65 ≤ d.halved ∧
    { d with stretch := c.stretch, stretchAt := c.stretchAt, halved := c.halved, trips := c.trips } = c) ∧
  (∀ (c d : Cluster) (now till : Nat), c.edge now till = some d →
    d.cyc = c.cyc + 1 ∧ now ≤ d.edgeAt ∧ d.edgeAt < till ∧ c.edgeAt + (if c.ratio = 3 then 10 else 5) * (if c.stretched then 2 else 1) ≤ d.edgeAt ∧
      d.lclk = c.lclk + (if c.ratio = 3 then 2 else if c.ratio = 1 then c.cyc % 2 else 1) ∧
      d.stretch = (if c.stretched then c.stretch - (d.lclk - c.lclk) else c.stretch) ∧
      d.halved = if c.stretch ≠ 0 then min 65 c.halved else if 1 < c.halved then c.halved - 1 else c.halved) ∧
  (∀ (s : State) (c : Nat), c < 320 → s.ready = true → c ∈ s.dueCores (dieOf c) →
    let d := dieOf c
    let due := s.dueCores d
    let gs := grants (s.die d).bucket (due.map fun c => (s.core c).deficitTokens)
    exec (.coreRefill c) s = .next ((due.zip gs).foldl
      (fun s (c, g) => s.putCore c { s.core c with shares := divideGrant (s.core c).shares g, refillAt := (s.core c).refillAt + 64 })
      (s.putDie d { s.die d with bucket := (s.die d).bucket - gs.foldl (· + ·) 0 }))) ∧
  (∀ (s : State) (d : Nat), d < 4 → s.ready = true → s.pkgAt < s.timeRef → (s.die d).drawAt + 16 ≤ s.pkgAt →
    let u := s.payDue
    let due := (List.range 4).filter fun d => decide ((s.die d).drawAt + 16 ≤ s.pkgAt)
    let gs := grants u.pkg (due.map fun d => 0x400000 - (s.die d).bucket)
    exec (.dieRefill d) s = .next ((due.zip gs).foldl
      (fun s (d, g) => s.putDie d { s.die d with bucket := (s.die d).bucket + g, drawAt := (s.die d).drawAt + 16 })
      { u with pkg := u.pkg - gs.foldl (· + ·) 0 })) ∧
  (∀ s : State, (∀ q ∈ s.payDue.pkgDue, s.pkgAt < q.1) ∧
    s.payDue.pkg = s.pkg - ((s.pkgDue.filter fun q => decide (q.1 ≤ s.pkgAt)).map (·.2)).sum) ∧
  (∀ (b : Nat) (ws : List Nat), (grants b ws).length = ws.length ∧ (grants b ws).sum = min b ws.sum ∧
    (ws.sum ≤ b → grants b ws = ws) ∧ ∀ j : Nat, (grants b ws)[j]?.getD 0 ≤ ws[j]?.getD 0) ∧
  (∀ (a b c d : Int) (g : Nat), (divideGrant [a, b, c, d] g).sum = a + b + c + d + g) ∧
  (∀ (s : State) (n : Nat), s.refillable n = true → exec (.packageRefill n) s =
    .next { s.payDue with pkg := min (2 ^ 24) (s.payDue.pkg + s.rate * n / 1000), pkgAt := s.pkgAt + n }) ∧
  (∀ (s : State) (demand rows : Nat) (boost : Bool), s.ready = true → s.govAt + 1000 ≤ s.timeRef → s.govAt + 1000 ≤ s.pkgAt →
    rows = 0 ∨ (s.govTarget demand boost + s.slewStep < s.rate ∧ (s.pwReg 0).getLsbD 1 = true) →
    Occurs (.governorStep demand boost rows) s fun r => r.govAt = s.govAt + 1000 ∧ s.SameMemory r ∧
      (r.reserve ≠ 0 → r.rate = s.govRate demand boost) ∧ (r.reserve = 0 → r.rate ≤ s.budget) ∧
      (r.rate < 2 ^ 32 → (r.pwReg 3).toNat = r.rate) ∧
      r.pwReg 0x00C = (if rows = 0 then s.pwReg 0x00C else BitVec.ofNat 32 (min (2 ^ 32 - 1) ((s.pwReg 0x00C).toNat + rows)))) ∧
  (∀ (s : State) (demand : Nat) (boost : Bool),
    let rate := s.rate
    s.govRate demand boost ≤ rate + s.slewStep ∧ rate ≤ s.govRate demand boost + s.slewStep ∧
      (rate ≤ s.govTarget demand boost → rate ≤ s.govRate demand boost ∧ s.govRate demand boost ≤ s.govTarget demand boost) ∧
      (s.govTarget demand boost ≤ rate → s.govTarget demand boost ≤ s.govRate demand boost ∧ s.govRate demand boost ≤ rate) ∧
      s.slewStep = bits (s.pwReg 2) 0 10 * bits (s.pwReg 1) 0 12 * 10 ^ 6 / 10 ^ 4) ∧
  (∀ s : State, s.ready = true → s.reserve ≠ 0 → 2400000000 < s.rate → s.pkgAt = s.timeRef → Occurs .capacitorReserveExhausted s fun r =>
    r.reserve = 0 ∧ r.rate = bits (s.pwReg 1) 0 12 * 10 ^ 6 ∧ (r.pwReg 3).toNat = r.rate ∧ s.SameMemory r) ∧
  (∀ (s : State) (k temp : Nat), k < 80 → temp < 256 → (s.cluster k).heatAt + 1000 ≤ s.timeRef → Occurs (.heatUpdate k temp) s fun r =>
    r.cluster k = { s.cluster k with temp := temp, heatAt := (s.cluster k).heatAt + 1000 } ∧
      ∀ c, clusterOf c = k → (r.core c).heat = min 7 ((temp - bits (s.pwReg 6) 0 8) / bits (s.pwReg 6) 8 4 +
        min 3 ((s.cluster k).trips.filter fun t => decide (s.timeRef < t + 16000)).length)) ∧
  (∀ (s : State) (plan : List Word), (s.pwReg 0x010).getLsbD 0 = true → plan.length = 5 → s.intentAt + 20000 ≤ s.timeRef →
    Occurs (.powerIntentSend plan) s fun r => r.intentSeq = s.intentSeq + 1 ∧ r.intentAt = s.intentAt + 20000 ∧
      r.plan = plan ∧ settled s r ∧ (risesAt s.rate plan 0 = true → ∃ x ∈ r.rises, x.since = r.intentAt) ∧
      (∀ y ∈ s.rises, s.timeRef < s.riseStart y → ∃ x ∈ r.rises, x.since = y.since ∧ y.delay ≤ x.delay) ∧
      (∀ x ∈ r.rises, (x.since = r.intentAt ∧ risesAt s.rate plan 0 = true) ∨ ∃ y ∈ s.rises, x.since = y.since ∧ s.timeRef < s.riseStart y) ∧
      ∃ i : Intent, i.plan = plan ∧ i.seq = s.intentSeq ∧ i.chip.toNat = bits (s.dvReg 1) 0 18 ∧
        r.out = s.out ++ ((List.range 6).filter fun p => (s.dvReg 0x013).getLsbD p).map fun p => .intent p i) ∧
  ∀ (s : State) (port : Nat) (i : Intent), port < 6 → (s.dvReg 0x013).getLsbD port = true →
    ((s.pwReg 0x010).getLsbD 0 = false → exec (.powerIntentReceive port i) s = .next s) ∧
    ((s.pwReg 0x010).getLsbD 0 = true → Occurs (.powerIntentReceive port i) s fun r =>
      s.hear port i ∈ r.intents ∧ (∀ h ∈ r.intents, h.port = port → h = s.hear port i) ∧ settled s r ∧
        r.rises.length = s.rises.length ∧
        (∀ (j : Nat) (y : Rise), s.rises[j]? = some y → ∃ x, r.rises[j]? = some x ∧ x.since = y.since ∧ y.delay ≤ x.delay) ∧
        ((∀ h ∈ r.intents, bits (s.dvReg 1) 0 18 ≤ h.intent.chip.toNat) → r.rises = s.rises) ∧ s.SameMemory r)

/-! The fabric, the host, the device. -/

/-- R109, R250, R362, R394, R395, R417, R418, R420 to R424: a probe comes back to its origin, which grants its reserve entry; a flit for
another chip leaves by the route that matches, is refused where none does, and is discarded at 63 hops; an inbound request is bound by its job, and performed
at the home point or refused with a record and a negative acknowledgment; a refusal or a timeout at the initiator ends what asked with `REMOTE`
or `REMOTE_TIMEOUT`; from READY on, the host reaches the usable memory, the register windows, and the vectors' masks. The model's choices: the record of
a request for an unbound job goes to the ring of one of the enabled partitions, and a refused flit's answer leaves as a message of its own (log entry
33); a write of the host leaves the bytes of an object with waiters as they are (log entries 40 and 68). -/
def Obligations.FabricEvents : Prop :=
  (∀ (s : State) (o b : QueueName) (t : Nat), o.part < 8 → (s.loadOf o).since = some t → t + 256 ≤ s.queueClock o →
    (∀ p ∈ s.probes, p.origin ≠ o) →
      exec (.probeToken o b) s = .next { s with probes := s.probes ++ [{ origin := o, at_ := b }] }) ∧
  (∀ (s : State) (q r : QueueName) (p : Probe) (rest : List Probe), s.probes = p :: rest → p.at_ = q →
    let gone : State := { s with probes := rest }
    ((s.loadOf q).since = none → exec (.probePass q none) s = .next gone) ∧
    ((s.loadOf q).since ≠ none → exec (.probePass q (some r)) s = .next (
      if r ≠ p.origin then { s with probes := { p with at_ := r } :: rest }
      else if (s.loadOf r).spent = true then gone
      else (gone.putLoad { s.loadOf r with spent := true }).setPtReg r.part 0x00D (s.ptReg r.part 0x00D + 1)))) ∧
  (∀ (s : State) (q : QueueName),
    (((s.queueLevel q 0).loadOf q).since = none ∧ ((s.queueLevel q 0).loadOf q).spent = false) ∧
    (((s.queueLevel q 1).loadOf q).since = none ∧ ((s.queueLevel q 1).loadOf q).spent = (s.loadOf q).spent) ∧
    ((s.loadOf q).since = none → ((s.queueLevel q 2).loadOf q).since = some (s.queueClock q)) ∧
    ∀ r l, r ≠ q → (s.queueLevel q l).loadOf r = s.loadOf r) ∧
  (∀ (s : State) (f : Flit), f.chip.toNat ≠ s.chip → exec (.flitForward f) s = .next (match s.routeTo f.chip.toNat with
    | none => { s with out := s.out ++ [.refusal f] }
    | some p => if s.portUp p = true ∧ f.hops + 1 < 63 then { s with out := s.out ++ [.flit p { f with hops := f.hops + 1 }] } else s)) ∧
  (∀ (s : State) (chip p : Nat), s.routeTo chip = some p → ∃ i, i < 64 ∧ (s.dvReg (0x040 + 2 * i)).getLsbD 31 = true ∧ p < 6 ∧
    bits (s.dvReg (0x041 + 2 * i)) 18 3 = p ∧ Nat.land chip (bits (s.dvReg (0x041 + 2 * i)) 0 18) =
      Nat.land (bits (s.dvReg (0x040 + 2 * i)) 0 18) (bits (s.dvReg (0x041 + 2 * i)) 0 18)) ∧
  (∀ (s : State) (r : InRequest),
    let nack (v : State) : State := { v with out := v.out ++ [.nack r.chip r.job r.addr] }
    (s.bound r.job = none → exec (.inboundRequest r) s =
      .next (nack (s.unboundFault r.addr r.chip r.job (inKindCode r) (inLen r)))) ∧
    (∀ p, s.bound r.job = some (p, none) → exec (.inboundRequest r) s =
      .next (nack (s.inboundFault p 0xFF r.addr r.chip r.job 1 (inKindCode r) (inLen r)))) ∧
    (∀ p c ps u, s.bound r.job = some (p, some c) → (s.part p).inFull = false → (s.part p).inq = [] → (s.part p).inHeld = none →
      s.inboundPlaces p c r r.addr (inLen r) (inFuel r) = (.ok ps, u) →
      Occurs (.inboundRequest r) s fun t =>
        (∀ n, r.kind = .read n → t = { (u.readPieces ps).2 with out := (u.readPieces ps).2.out ++ [.response r (u.readPieces ps).1] }) ∧
        (∀ bs, r.kind = .write bs → t = { u.writePieces ps bs with out := (u.writePieces ps bs).out ++ [.response r []] }) ∧
        ∀ op v c, r.kind = .atomic op v c → ∃ w, t = { w with out := w.out ++ [.response r (u.readPieces ps).1] } ∧
          w = (u.readPieces ps).2.writePieces ps
            (leBytes (atomSize op.toNat) (rmw op.toNat (ofLeBytes (u.readPieces ps).1) v.toNat c.toNat))) ∧
    ∀ p c n u, s.bound r.job = some (p, some c) → (s.part p).inFull = false → (s.part p).inq = [] → (s.part p).inHeld = none →
      s.inboundPlaces p c r r.addr (inLen r) (inFuel r) = (.error n, u) →
      exec (.inboundRequest r) s =
        .next (nack (u.inboundFault p (c % 2) r.addr r.chip r.job n (inKindCode r) (inLen r)))) ∧
  (∀ (s : State) (p c addr chip job n kind len : Nat), p < s.parts.length →
    let ptr := s.ptReg p 0x019
    (bits ptr 0 8 + 256 - bits ptr 8 8) % 256 ≠ 64 →
      bits ((s.inboundFault p c (BitVec.ofNat 64 addr) chip job n kind len).ptReg p 0x019) 0 8 = (bits ptr 0 8 + 1) % 256) ∧
  (∀ (s : State) (i : Instr) (op : Nat) (m q : LaneMask) (k : Cause) (far : Bool), (i = .remoteNack ⟨op, far⟩ m ∧ k = Cause.remote ∧ q = 0) ∨
      (i = .remoteTimeout op m q ∧ k = Cause.remoteTimeout ∧ far = false) →
    let late := decide (k = Cause.remoteTimeout)
    let told (c : Nat) (va : DWord) (kind len : Nat) (s : State) : State := if far = true then s.noRoute (partOf c) va kind len else s
    (∀ a t, s.awaiting.find? (fun p => p.id = op) = some a → a.own = none → a.lost = false ∨ late = true →
      State.answered (match a.sent with | some (va, kind, len) => told (ctxOf a.agent) va kind len s | none => s) op (some k) = some t →
        exec i s = .next t) ∧
    (∀ a, s.awaiting.find? (fun p => p.id = op) = some a → a.left ≤ 1 → a.cause = none → a.rise = none → a.op = none →
      s.answered op (some k) =
        some (State.pendCause { s with awaiting := s.awaiting.filter fun p => p.id ≠ op } a.agent k 1 a.who a.core a.quarter)) ∧
    (∀ o p, s.awaiting.find? (fun p => p.id = op) = none → s.op? op = some o → o.kind.transfer = true → s.transferAtPeer late o = some p →
      exec i s = .next ((told (ctxOf o.agent) p.globalAddr o.kind.reqKind 64 s).endTransfer o (some k))) ∧
    ∀ o, s.awaiting.find? (fun p => p.id = op) = none → s.op? op = some o → o.kind.transfer = false → o.lanesAtPeer late m = true →
      q = 0 → exec i s = .next (((lanesOf m).foldl (fun s l => s.refuseAcc op l k) (o.accs.foldl (fun (s : State) a =>
        if m.getLsbD a.lane = true then told (ctxOf o.agent) a.place.globalAddr o.kind.reqKind o.kind.size s else s) s)).dropStores)) ∧
  (∀ (s : State) (p : Nat), p < 6 → s.portUp p = true → Occurs (.straitPortDown p) s fun r => r.portUp p = false ∧
    (∀ n, n ≠ p → r.portUp n = s.portUp n) ∧ s.SameMemory r) ∧
  (∀ (s : State) (a n : Nat) (bs : List Byte),
    (s.ready = true → a + n ≤ usableTop → Occurs (.hostMemAccess (.read a n)) s fun r =>
      r.out = (s.readBytes 511 a n true true).2.out ++ [.hostData (s.readBytes 511 a n true true).1]) ∧
    (s.ready = true → (∀ c, ∀ r ∈ (s.core c).l1.recs, r.addr / 256 ≠ a / 256) → a + bs.length ≤ usableTop →
      Occurs (.hostMemAccess (.write a bs)) s fun r =>
      (∀ j, j < bs.length → r.homeByte (a + j) = if s.objWaited (a + j) = true then s.homeByte (a + j) else bs[j]?.getD 0) ∧
        ∀ b, b < a ∨ a + bs.length ≤ b → r.homeByte b = s.homeByte b) ∧
    (hostBase + a + bs.length ≤ 2 ^ 46 → Occurs (.hostMemAccess (.own a bs)) s fun r =>
      (∀ j, j < bs.length → r.homeByte (hostBase + a + j) = if s.objWaited (hostBase + a + j) = true then s.homeByte (hostBase + a + j)
        else bs[j]?.getD 0) ∧
        ∀ b, b < hostBase + a ∨ hostBase + a + bs.length ≤ b → r.homeByte b = s.homeByte b)) ∧
  (∀ (s : State) (f p n : Nat) (v : Word), f < 9 → p < 8 → f = 0 ∨ f = p + 1 →
    exec (.hostMemAccess (.regWrite f p n v)) s = .next (s.windowWrite (hostAgent f) (0x40000 * p + 4 * n) v) ∧
    Occurs (.hostMemAccess (.regRead f p n)) s fun r => ∃ w u, s.windowRead (hostAgent f) (0x40000 * p + 4 * n) = (w, u) ∧
      r = { u with out := u.out ++ [.hostData (leBytes 4 w.toNat)] }) ∧
  ∀ (s : State) (f v : Nat),
    (v < msixVectors f → (f, v) ∉ s.msixMask → exec (.hostMemAccess (.maskVector f v)) s = .next { s with msixMask := s.msixMask ++ [(f, v)] }) ∧
    ((f, v) ∈ s.msixMask → Occurs (.msiXUnmask f v) s fun r => (f, v) ∉ r.msixMask ∧
      ((f, v) ∈ s.msixPend → r.out = s.out ++ [.msix f v] ∧ (f, v) ∉ r.msixPend) ∧
      ((f, v) ∉ s.msixPend → r.out = s.out ∧ r.msixPend = s.msixPend))

/-- R3, R7, R73, R105, R375, R392, R393, R399 to R404, R418, R425 to R430: the oldest event goes to the ring while it has room, with its
vectors; a write of GET and of RETRY does what the register's own write does; a way that is to be dark is written back first; a transient
error is counted, a lasting one fetches a clean copy again or poisons the granule; bring-up ends in READY, with RATE and the buckets at 0 and the
block that flash keeps applied, or in FAILED; a loss of power leaves what flash holds. The model's choices: a way that goes dark takes every line of its
die's LLC with it (log entry 38); the index may have advanced at a loss of power during a report, and has not where the report ends with a flash error
(STATUS 2), which neither R426 nor R427 says (log entry 39); an event record or a report leaves the bytes of an object with waiters as they are (log
entry 68); SHA-256 is the function of FIPS 180-4 (log entry 79). -/
def Obligations.DeviceEvents : Prop :=
  (∀ (s : State) (p : Nat) (e : EvRec) (rest : List EvRec), p < 8 → s.parts.length = 8 → (s.part p).evq = e :: rest →
    s.evRingFull p = false → Occurs (.eventRecord p) s fun r => (r.part p).evq = rest ∧
      bits (r.ptReg p 0x015) 0 16 = (bits (s.ptReg p 0x015) 0 16 + 1) % 2 ^ 16 ∧ bits (r.ptReg p 0x015) 16 16 = bits (s.ptReg p 0x015) 16 16 ∧
      (∀ a, physKind (bits (s.ptReg p 0x013) 13 19 * 2 ^ 13 + bits (s.ptReg p 0x014) 0 14 * 2 ^ 32 +
        32 * (bits (s.ptReg p 0x015) 0 16 % 256)) = .dram a → ∀ j, j < (s.evBytes e).length →
          r.homeByte (a + j) = if s.objWaited (a + j) = true then s.homeByte (a + j) else (s.evBytes e)[j]?.getD 0) ∧
      ((1 + p, 256) ∉ s.msixMask → (0, p) ∉ s.msixMask → r.out = s.out ++ [.msix (1 + p) 256, .msix 0 p])) ∧
  (∀ (s : State) (p : Nat) (n : BitVec 16), p < 8 → s.parts.length = 8 → s.ready = true → Occurs (.eventRingGet p n) s fun r =>
    bits (r.ptReg p 0x015) 16 16 = n.toNat ∧ bits (r.ptReg p 0x015) 0 16 = bits (s.ptReg p 0x015) 0 16 ∧ s.SameMemory r) ∧
  (∀ (s : State) (c : Nat) (n : BitVec 16), c < 16 → s.ready = true → exec (.faultRingGet c n) s =
    .next ((s.setCtReg c 0x012 ((s.ctReg c 0x012 &&& 0xFFFF) ||| BitVec.ofNat 32 (65536 * n.toNat))).recordFaults c 128)) ∧
  (∀ (s : State) (c : Nat), c < 16 → s.ctxs.length = 16 → s.ready = true → Occurs (.pfackRetry c) s fun r =>
    (∀ o ∈ r.ops, ctxOf o.agent = c → o.held = none) ∧ (∀ q ∈ (r.ctx c).queues, q.held = none ∧ q.stuck = none) ∧
      (∀ p ∈ (r.ctx c).qps, p.2.held = none ∧ p.2.stuck = none) ∧
      (s.halted c = false → ∀ p ∈ (s.ctx c).qps, (p.1, QueuePair.fire { p.2 with held := none, stuck := none }) ∈ (r.ctx c).qps) ∧
      (∀ p ∈ r.grids, p.1.ctx = c → p.2.recHeld = false) ∧ s.SameMemory r) ∧
  (∀ (s : State) (d : Nat), d < 4 →
    let q := s.dvReg (0x004 + d)
    let want := q &&& ~~~(q >>> 16) &&& 0xFFFF
    let dark := s.dvReg (0x008 + d)
    (Occurs (.llcWayGate d) s fun r => s.SameMemory r ∧ ∀ w, w < 16 →
      (r.dvReg (0x008 + d)).getLsbD w = (dark.getLsbD w && want.getLsbD w)) ∧
    ∀ w, w < 16 → want.getLsbD w = true → dark.getLsbD w = false → Occurs (.llcWayDark d w) s fun r =>
      (r.dvReg (0x008 + d)).getLsbD w = true ∧ (∀ b, r.homeByte b = s.homeByte b) ∧
        ∀ a, isDram a = true → shoalOf a / 80 = d → r.llc.find a = none) ∧
  (∀ (s : State) (x : ErrSite), Occurs (.storageError x .transient) s fun r =>
      bits (r.dvReg 0x00C) 0 16 = min 65535 (bits (s.dvReg 0x00C) 0 16 + 1) ∧ bits (r.dvReg 0x00C) 16 16 = bits (s.dvReg 0x00C) 16 16) ∧
  (∀ (s : State) (x : ErrSite), s.siteClean x = true → Occurs (.storageError x .lastingClean) s fun r =>
      bits (r.dvReg 0x00C) 16 16 = min 65535 (bits (s.dvReg 0x00C) 16 16 + 1) ∧ r.poison = s.poison) ∧
  (∀ (s : State) (x : ErrSite), s.siteClean x = false ∨ ErrSite.link x = true → Occurs (.storageError x .lastingDirty) s fun r =>
      bits (r.dvReg 0x00C) 16 16 = min 65535 (bits (s.dvReg 0x00C) 16 16 + 1) ∧
        (∀ a, x = .dram a → r.poison.get 0 (a / 64) = 1) ∧ (∀ a, x = .llc a → r.poison.get 0 (a / 64) = 2) ∧
        ∀ b, r.homeByte b = s.homeByte b) ∧
  (∀ s : State, (s.dvReg 0x023).getLsbD 0 = false → s.ready = true → Occurs .attestationStart s fun r =>
    (r.dvReg 0x023).getLsbD 0 = true ∧ bits (r.dvReg 0x023) 1 3 = 0 ∧ s.SameMemory r) ∧
  (∀ (s : State) (rep : List Byte), (s.dvReg 0x023).getLsbD 0 = true →
    (2 ^ 30 ≤ s.sec.index → Occurs (.attestationComplete 3 rep) s fun r => r.sec = s.sec ∧ s.SameMemory r ∧ r.dvReg 0x023 = 6) ∧
    (s.sec.index < 2 ^ 30 → s.reportBuffer = none → Occurs (.attestationComplete 1 rep) s fun r => r.sec = s.sec ∧ r.dvReg 0x023 = 2) ∧
    ∀ a, s.sec.index < 2 ^ 30 → s.reportBuffer = some a →
      (Occurs (.attestationComplete 2 rep) s fun r => r.sec = s.sec ∧ s.SameMemory r ∧ r.dvReg 0x023 = 4) ∧
      (s.reportOk a rep = true → Occurs (.attestationComplete 0 rep) s fun r =>
        r.sec = { s.sec with index := s.sec.index + 1 } ∧ r.dvReg 0x023 = 0 ∧
          ((∀ c, ∀ q ∈ (s.core c).l1.recs, q.addr / 256 ≠ (a + 64) / 256) → ∀ j, j < rep.length →
            r.homeByte (a + 64 + j) = if s.objWaited (a + 64 + j) = true then s.homeByte (a + 64 + j) else rep[j]?.getD 0))) ∧
  (∀ (s : State) (b : BringUp), s.dvReg 0x00D = 0 →
    (∀ c, bringUpFail b s.sec = none → s.sec.blockFor b = some c → Occurs (.powerGood b) s fun r => r.dvReg 0x00D = 7 ∧ r.ready = true ∧
      r.sec.enabled = c.enabledMask ∧ r.sec.ceiling = c.ceiling ∧ r.sec.block = some c ∧ r.sec.version = max s.sec.version c.image.version ∧
      r.sec.firmware = max s.sec.firmware b.firmware.version ∧
      r.sec.measures = [(sha256 b.firmware.bytes, b.firmware.version), (sha256 c.image.bytes, c.image.version)] ∧
      r.rate = 0 ∧ r.pkg = 0 ∧ r.govAt = s.timeRef ∧ ∀ d ∈ r.dies, d.bucket = 0 ∧ d.drawAt = s.timeRef) ∧
    (bringUpFail b s.sec = none → (s.sec.blockFor b).isSome = true ∧ imageAccepted b.firmware s.sec.firmware = true) ∧
    ∀ k, 1 ≤ k → k ≤ 7 → bringUpFail b s.sec = some k → Occurs (.powerGood b) s fun r =>
      r.ready = false ∧ bits (r.dvReg 0x00D) 0 4 = 15 ∧ bits (r.dvReg 0x00D) 8 8 = k - 1) ∧
  ∀ s : State, Occurs .powerLoss s fun r => r.sec.version = s.sec.version ∧ r.sec.firmware = s.sec.firmware ∧ r.sec.block = s.sec.block ∧ (r.sec.index = s.sec.index ∨
      (r.sec.index = s.sec.index + 1 ∧ s.sec.index < 2 ^ 30 ∧ (s.dvReg 0x023).getLsbD 0 = true)) ∧
    r.teams = [] ∧ r.grids = [] ∧ r.ops = [] ∧ r.dvReg 0x00D = 0
end

