-- ==== Sys2Proof/Laws/Table.lean ====
section
/-! SUPPORT. What reading a table gives after a write, and that writes keep the canonical form. -/

set_option Elab.async false

namespace Sys2Proof.Machine

variable {α κ : Type}

theorem Tab.get_del (d : α) (t : Tab α) (n m : Nat) : (t.del n).get d m = if m = n then d else t.get d m := by
  induction t with
  | nil => simp [Tab.del, Tab.get]
  | cons p t ih =>
    obtain ⟨k, v⟩ := p
    simp only [Tab.del]
    split <;> simp only [Tab.get, ih] <;> grind

theorem Tab.get_ins (d : α) (t : Tab α) (n m : Nat) (v : α) : (t.ins n v).get d m = if m = n then v else t.get d m := by
  induction t with
  | nil => simp [Tab.ins, Tab.get, eq_comm]
  | cons p t ih =>
    obtain ⟨k, w⟩ := p
    simp only [Tab.ins]
    repeat' split
    all_goals simp only [Tab.get, ih]
    all_goals grind

/-- Reading after a write gives the value written at its key, and what was there at any other. -/
theorem Tab.get_put [DecidableEq α] (d : α) (t : Tab α) (n m : Nat) (v : α) :
    (t.put d n v).get d m = if m = n then v else t.get d m := by
  unfold Tab.put
  split
  · rw [Tab.get_del]; grind
  · exact Tab.get_ins ..

@[simp] theorem Tab.get_put_same [DecidableEq α] (d : α) (t : Tab α) (n : Nat) (v : α) : (t.put d n v).get d n = v := by
  simp [Tab.get_put]

theorem Tab.get_put_other [DecidableEq α] (d : α) (t : Tab α) {n m : Nat} (v : α) (h : m ≠ n) :
    (t.put d n v).get d m = t.get d m := by simp [Tab.get_put, h]

@[simp] theorem Tab.get_nil (d : α) (n : Nat) : Tab.get d ([] : Tab α) n = d := rfl

theorem Tab.find_del (t : Tab α) (n m : Nat) : (t.del n).find m = if m = n then none else t.find m := by
  induction t with
  | nil => simp [Tab.del, Tab.find]
  | cons p t ih =>
    obtain ⟨k, v⟩ := p
    simp only [Tab.del]
    split <;> simp only [Tab.find, ih] <;> grind

theorem Tab.find_ins (t : Tab α) (n m : Nat) (v : α) : (t.ins n v).find m = if m = n then some v else t.find m := by
  induction t with
  | nil => simp [Tab.ins, Tab.find, eq_comm]
  | cons p t ih =>
    obtain ⟨k, w⟩ := p
    simp only [Tab.ins]
    repeat' split
    all_goals simp only [Tab.find, ih]
    all_goals grind

/-! The canonical form: keys strictly rising, no entry equal to the value of an unlisted key. -/

/-- Every key of a table lies above a bound. -/
def Tab.above (b : Nat) (t : Tab α) : Prop := ∀ p ∈ t, b < p.1

theorem Tab.wf_cons [DecidableEq α] (d : α) (k : Nat) (v : α) (t : Tab α) :
    Tab.wf d ((k, v) :: t) = true ↔ v ≠ d ∧ Tab.above k t ∧ Tab.wf d t = true := by
  induction t generalizing k v with
  | nil => simp [Tab.wf, Tab.above]
  | cons p t ih =>
    obtain ⟨k', v'⟩ := p
    simp only [Tab.wf, Bool.and_eq_true, decide_eq_true_eq]
    constructor
    · rintro ⟨⟨h1, h2⟩, h3⟩
      refine ⟨h1, ?_, h3⟩
      have := (ih k' v').1 h3
      intro q hm
      rcases List.mem_cons.1 hm with hq | hm
      · subst hq; exact h2
      · exact lt_trans h2 (this.2.1 _ hm)
    · rintro ⟨h1, h2, h3⟩
      exact ⟨⟨h1, h2 (k', v') (by simp)⟩, h3⟩

theorem Tab.above_del (b n : Nat) (t : Tab α) (h : Tab.above b t) : Tab.above b (t.del n) := by
  induction t with
  | nil => exact h
  | cons p t ih =>
    obtain ⟨k, v⟩ := p
    have ht : Tab.above b t := fun q hq => h q (by simp [hq])
    simp only [Tab.del]
    split
    · exact ih ht
    · rintro q hq
      rcases List.mem_cons.1 hq with rfl | hq
      · exact h _ (by simp)
      · exact ih ht q hq

theorem Tab.wf_del [DecidableEq α] (d : α) (t : Tab α) (n : Nat) (h : Tab.wf d t = true) : Tab.wf d (t.del n) = true := by
  induction t with
  | nil => exact h
  | cons p t ih =>
    obtain ⟨k, v⟩ := p
    obtain ⟨h1, h2, h3⟩ := (Tab.wf_cons d k v t).1 h
    simp only [Tab.del]
    split
    · exact ih h3
    · exact (Tab.wf_cons ..).2 ⟨h1, Tab.above_del _ _ _ h2, ih h3⟩

theorem Tab.above_ins (b n : Nat) (v : α) (t : Tab α) (h : Tab.above b t) (hn : b < n) : Tab.above b (t.ins n v) := by
  induction t with
  | nil => rintro q hq; simp [Tab.ins] at hq; subst hq; exact hn
  | cons p t ih =>
    obtain ⟨k, w⟩ := p
    have ht : Tab.above b t := fun q hq => h q (by simp [hq])
    simp only [Tab.ins]
    repeat' split
    · rintro q hq
      rcases List.mem_cons.1 hq with rfl | hq
      · exact hn
      · exact h q hq
    · rintro q hq
      rcases List.mem_cons.1 hq with rfl | hq
      · exact hn
      · exact ht q hq
    · rintro q hq
      rcases List.mem_cons.1 hq with rfl | hq
      · exact h _ (by simp)
      · exact ih ht q hq

theorem Tab.wf_ins [DecidableEq α] (d : α) (t : Tab α) (n : Nat) (v : α) (hv : v ≠ d) (h : Tab.wf d t = true) :
    Tab.wf d (t.ins n v) = true := by
  induction t with
  | nil => simpa [Tab.ins, Tab.wf] using hv
  | cons p t ih =>
    obtain ⟨k, w⟩ := p
    obtain ⟨h1, h2, h3⟩ := (Tab.wf_cons d k w t).1 h
    simp only [Tab.ins]
    repeat' split
    · refine (Tab.wf_cons ..).2 ⟨hv, ?_, h⟩
      rintro q hq
      rcases List.mem_cons.1 hq with rfl | hq
      · assumption
      · exact lt_trans ‹_› (h2 q hq)
    · subst_vars
      exact (Tab.wf_cons ..).2 ⟨hv, h2, h3⟩
    · exact (Tab.wf_cons ..).2 ⟨h1, Tab.above_ins _ _ _ _ h2 (by omega), ih h3⟩

/-- A write keeps the canonical form. -/
theorem Tab.wf_put [DecidableEq α] (d : α) (t : Tab α) (n : Nat) (v : α) (h : Tab.wf d t = true) :
    Tab.wf d (t.put d n v) = true := by
  unfold Tab.put
  split
  · exact Tab.wf_del d t n h
  · exact Tab.wf_ins d t n v ‹_› h

theorem Tab.wf_putList [DecidableEq α] (d : α) (vs : List α) (t : Tab α) (n : Nat) (h : Tab.wf d t = true) :
    Tab.wf d (t.putList d n vs) = true := by
  induction vs generalizing t n with
  | nil => exact h
  | cons v vs ih => exact ih _ _ (Tab.wf_put d t n v h)

/-- Keeping some entries keeps the canonical form. -/
theorem Tab.wf_filter [DecidableEq α] (d : α) (t : Tab α) (f : Nat × α → Bool) (h : Tab.wf d t = true) :
    Tab.wf d (t.filter f) = true := by
  induction t with
  | nil => exact h
  | cons p t ih =>
    obtain ⟨k, v⟩ := p
    obtain ⟨h1, h2, h3⟩ := (Tab.wf_cons d k v t).1 h
    simp only [List.filter_cons]
    split
    · exact (Tab.wf_cons ..).2 ⟨h1, fun q hq => h2 q (List.mem_filter.1 hq).1, ih h3⟩
    · exact ih h3

/-! Association lists. -/

theorem assocGet_put [DecidableEq κ] (t : List (κ × α)) (n m : κ) (v : α) :
    assocGet (assocPut t n v) m = if m = n then some v else assocGet t m := by
  induction t with
  | nil => simp [assocPut, assocGet, eq_comm]
  | cons p t ih =>
    obtain ⟨k, w⟩ := p
    simp only [assocPut]
    split <;> simp only [assocGet, ih] <;> grind

@[simp] theorem assocGet_put_same [DecidableEq κ] (t : List (κ × α)) (n : κ) (v : α) : assocGet (assocPut t n v) n = some v := by
  simp [assocGet_put]

theorem assocGet_put_other [DecidableEq κ] (t : List (κ × α)) {n m : κ} (v : α) (h : m ≠ n) :
    assocGet (assocPut t n v) m = assocGet t m := by simp [assocGet_put, h]

@[simp] theorem assocPut_put [DecidableEq κ] (t : List (κ × α)) (n : κ) (v w : α) :
    assocPut (assocPut t n v) n w = assocPut t n w := by
  induction t with
  | nil => simp [assocPut]
  | cons p t ih =>
    obtain ⟨k, x⟩ := p
    simp only [assocPut]
    split
    · simp [assocPut]
    · simp [assocPut, *]

theorem assocGet_del [DecidableEq κ] (t : List (κ × α)) (n m : κ) :
    assocGet (assocDel t n) m = if m = n then none else assocGet t m := by
  induction t with
  | nil => simp [assocDel, assocGet]
  | cons p t ih =>
    obtain ⟨k, v⟩ := p
    simp only [assocDel]
    split <;> simp only [assocGet, ih] <;> grind

end Sys2Proof.Machine
end

