-- ==== Sys2Proof/Laws/State.lean ====
section
/-! SUPPORT. What each update of the state does to each field: a field that the update does not name keeps its value. -/

set_option Elab.async false

namespace Sys2Proof.Machine

open Sys2Proof

namespace State

@[simp] theorem putTeam_parts (s : State) (k : TeamKey) (x : Team) : (s.putTeam k x).parts = s.parts := rfl
@[simp] theorem putTeam_ctxs (s : State) (k : TeamKey) (x : Team) : (s.putTeam k x).ctxs = s.ctxs := rfl
@[simp] theorem putTeam_grids (s : State) (k : TeamKey) (x : Team) : (s.putTeam k x).grids = s.grids := rfl
@[simp] theorem putTeam_heldLag (s : State) (k : TeamKey) (x : Team) : (s.putTeam k x).heldLag = s.heldLag := rfl
@[simp] theorem putTeam_cores (s : State) (k : TeamKey) (x : Team) : (s.putTeam k x).cores = s.cores := rfl
@[simp] theorem putTeam_clusters (s : State) (k : TeamKey) (x : Team) : (s.putTeam k x).clusters = s.clusters := rfl
@[simp] theorem putTeam_dies (s : State) (k : TeamKey) (x : Team) : (s.putTeam k x).dies = s.dies := rfl
@[simp] theorem putTeam_ops (s : State) (k : TeamKey) (x : Team) : (s.putTeam k x).ops = s.ops := rfl
@[simp] theorem putTeam_waiters (s : State) (k : TeamKey) (x : Team) : (s.putTeam k x).waiters = s.waiters := rfl
@[simp] theorem putTeam_home (s : State) (k : TeamKey) (x : Team) : (s.putTeam k x).home = s.home := rfl
@[simp] theorem putTeam_llc (s : State) (k : TeamKey) (x : Team) : (s.putTeam k x).llc = s.llc := rfl
@[simp] theorem putTeam_poison (s : State) (k : TeamKey) (x : Team) : (s.putTeam k x).poison = s.poison := rfl
@[simp] theorem putTeam_dv (s : State) (k : TeamKey) (x : Team) : (s.putTeam k x).dv = s.dv := rfl
@[simp] theorem putTeam_pw (s : State) (k : TeamKey) (x : Team) : (s.putTeam k x).pw = s.pw := rfl
@[simp] theorem putTeam_timeRef (s : State) (k : TeamKey) (x : Team) : (s.putTeam k x).timeRef = s.timeRef := rfl
@[simp] theorem putTeam_pkg (s : State) (k : TeamKey) (x : Team) : (s.putTeam k x).pkg = s.pkg := rfl
@[simp] theorem putTeam_pkgAt (s : State) (k : TeamKey) (x : Team) : (s.putTeam k x).pkgAt = s.pkgAt := rfl
@[simp] theorem putTeam_pkgDue (s : State) (k : TeamKey) (x : Team) : (s.putTeam k x).pkgDue = s.pkgDue := rfl
@[simp] theorem putTeam_rate (s : State) (k : TeamKey) (x : Team) : (s.putTeam k x).rate = s.rate := rfl
@[simp] theorem putTeam_above (s : State) (k : TeamKey) (x : Team) : (s.putTeam k x).above = s.above := rfl
@[simp] theorem putTeam_govAt (s : State) (k : TeamKey) (x : Team) : (s.putTeam k x).govAt = s.govAt := rfl
@[simp] theorem putTeam_intentAt (s : State) (k : TeamKey) (x : Team) : (s.putTeam k x).intentAt = s.intentAt := rfl
@[simp] theorem putTeam_plan (s : State) (k : TeamKey) (x : Team) : (s.putTeam k x).plan = s.plan := rfl
@[simp] theorem putTeam_rises (s : State) (k : TeamKey) (x : Team) : (s.putTeam k x).rises = s.rises := rfl
@[simp] theorem putTeam_droopOld (s : State) (k : TeamKey) (x : Team) : (s.putTeam k x).droopOld = s.droopOld := rfl
@[simp] theorem putTeam_sec (s : State) (k : TeamKey) (x : Team) : (s.putTeam k x).sec = s.sec := rfl
@[simp] theorem putTeam_awaiting (s : State) (k : TeamKey) (x : Team) : (s.putTeam k x).awaiting = s.awaiting := rfl
@[simp] theorem putTeam_msixPend (s : State) (k : TeamKey) (x : Team) : (s.putTeam k x).msixPend = s.msixPend := rfl
@[simp] theorem putTeam_msixMask (s : State) (k : TeamKey) (x : Team) : (s.putTeam k x).msixMask = s.msixMask := rfl
@[simp] theorem putTeam_out (s : State) (k : TeamKey) (x : Team) : (s.putTeam k x).out = s.out := rfl
@[simp] theorem putTeam_intents (s : State) (k : TeamKey) (x : Team) : (s.putTeam k x).intents = s.intents := rfl
@[simp] theorem putTeam_intentSeq (s : State) (k : TeamKey) (x : Team) : (s.putTeam k x).intentSeq = s.intentSeq := rfl
@[simp] theorem putTeam_probes (s : State) (k : TeamKey) (x : Team) : (s.putTeam k x).probes = s.probes := rfl
@[simp] theorem putTeam_issuer (s : State) (k : TeamKey) (x : Team) : (s.putTeam k x).issuer = s.issuer := rfl
@[simp] theorem putTeam_agenda (s : State) (k : TeamKey) (x : Team) : (s.putTeam k x).agenda = s.agenda := rfl
@[simp] theorem putTeam_turn (s : State) (k : TeamKey) (x : Team) : (s.putTeam k x).turn = s.turn := rfl
@[simp] theorem putTeam_hubCyc (s : State) (k : TeamKey) (x : Team) : (s.putTeam k x).hubCyc = s.hubCyc := rfl
@[simp] theorem putTeam_moment (s : State) (k : TeamKey) (x : Team) : (s.putTeam k x).moment = s.moment := rfl
@[simp] theorem putTeam_codeOld (s : State) (k : TeamKey) (x : Team) : (s.putTeam k x).codeOld = s.codeOld := rfl
@[simp] theorem putTeam_served (s : State) (k : TeamKey) (x : Team) : (s.putTeam k x).served = s.served := rfl
@[simp] theorem putTeam_loads (s : State) (k : TeamKey) (x : Team) : (s.putTeam k x).loads = s.loads := rfl
@[simp] theorem putTeam_freeCtr (s : State) (k : TeamKey) (x : Team) : (s.putTeam k x).freeCtr = s.freeCtr := rfl
@[simp] theorem putTeam_opCtr (s : State) (k : TeamKey) (x : Team) : (s.putTeam k x).opCtr = s.opCtr := rfl

@[simp] theorem putGrid_parts (s : State) (k : GridKey) (x : Grid) : (s.putGrid k x).parts = s.parts := rfl
@[simp] theorem putGrid_ctxs (s : State) (k : GridKey) (x : Grid) : (s.putGrid k x).ctxs = s.ctxs := rfl
@[simp] theorem putGrid_teams (s : State) (k : GridKey) (x : Grid) : (s.putGrid k x).teams = s.teams := rfl
@[simp] theorem putGrid_heldLag (s : State) (k : GridKey) (x : Grid) : (s.putGrid k x).heldLag = s.heldLag := rfl
@[simp] theorem putGrid_cores (s : State) (k : GridKey) (x : Grid) : (s.putGrid k x).cores = s.cores := rfl
@[simp] theorem putGrid_clusters (s : State) (k : GridKey) (x : Grid) : (s.putGrid k x).clusters = s.clusters := rfl
@[simp] theorem putGrid_dies (s : State) (k : GridKey) (x : Grid) : (s.putGrid k x).dies = s.dies := rfl
@[simp] theorem putGrid_ops (s : State) (k : GridKey) (x : Grid) : (s.putGrid k x).ops = s.ops := rfl
@[simp] theorem putGrid_waiters (s : State) (k : GridKey) (x : Grid) : (s.putGrid k x).waiters = s.waiters := rfl
@[simp] theorem putGrid_home (s : State) (k : GridKey) (x : Grid) : (s.putGrid k x).home = s.home := rfl
@[simp] theorem putGrid_llc (s : State) (k : GridKey) (x : Grid) : (s.putGrid k x).llc = s.llc := rfl
@[simp] theorem putGrid_poison (s : State) (k : GridKey) (x : Grid) : (s.putGrid k x).poison = s.poison := rfl
@[simp] theorem putGrid_dv (s : State) (k : GridKey) (x : Grid) : (s.putGrid k x).dv = s.dv := rfl
@[simp] theorem putGrid_pw (s : State) (k : GridKey) (x : Grid) : (s.putGrid k x).pw = s.pw := rfl
@[simp] theorem putGrid_timeRef (s : State) (k : GridKey) (x : Grid) : (s.putGrid k x).timeRef = s.timeRef := rfl
@[simp] theorem putGrid_pkg (s : State) (k : GridKey) (x : Grid) : (s.putGrid k x).pkg = s.pkg := rfl
@[simp] theorem putGrid_pkgAt (s : State) (k : GridKey) (x : Grid) : (s.putGrid k x).pkgAt = s.pkgAt := rfl
@[simp] theorem putGrid_pkgDue (s : State) (k : GridKey) (x : Grid) : (s.putGrid k x).pkgDue = s.pkgDue := rfl
@[simp] theorem putGrid_rate (s : State) (k : GridKey) (x : Grid) : (s.putGrid k x).rate = s.rate := rfl
@[simp] theorem putGrid_above (s : State) (k : GridKey) (x : Grid) : (s.putGrid k x).above = s.above := rfl
@[simp] theorem putGrid_govAt (s : State) (k : GridKey) (x : Grid) : (s.putGrid k x).govAt = s.govAt := rfl
@[simp] theorem putGrid_intentAt (s : State) (k : GridKey) (x : Grid) : (s.putGrid k x).intentAt = s.intentAt := rfl
@[simp] theorem putGrid_plan (s : State) (k : GridKey) (x : Grid) : (s.putGrid k x).plan = s.plan := rfl
@[simp] theorem putGrid_rises (s : State) (k : GridKey) (x : Grid) : (s.putGrid k x).rises = s.rises := rfl
@[simp] theorem putGrid_droopOld (s : State) (k : GridKey) (x : Grid) : (s.putGrid k x).droopOld = s.droopOld := rfl
@[simp] theorem putGrid_sec (s : State) (k : GridKey) (x : Grid) : (s.putGrid k x).sec = s.sec := rfl
@[simp] theorem putGrid_awaiting (s : State) (k : GridKey) (x : Grid) : (s.putGrid k x).awaiting = s.awaiting := rfl
@[simp] theorem putGrid_msixPend (s : State) (k : GridKey) (x : Grid) : (s.putGrid k x).msixPend = s.msixPend := rfl
@[simp] theorem putGrid_msixMask (s : State) (k : GridKey) (x : Grid) : (s.putGrid k x).msixMask = s.msixMask := rfl
@[simp] theorem putGrid_out (s : State) (k : GridKey) (x : Grid) : (s.putGrid k x).out = s.out := rfl
@[simp] theorem putGrid_intents (s : State) (k : GridKey) (x : Grid) : (s.putGrid k x).intents = s.intents := rfl
@[simp] theorem putGrid_intentSeq (s : State) (k : GridKey) (x : Grid) : (s.putGrid k x).intentSeq = s.intentSeq := rfl
@[simp] theorem putGrid_probes (s : State) (k : GridKey) (x : Grid) : (s.putGrid k x).probes = s.probes := rfl
@[simp] theorem putGrid_issuer (s : State) (k : GridKey) (x : Grid) : (s.putGrid k x).issuer = s.issuer := rfl
@[simp] theorem putGrid_agenda (s : State) (k : GridKey) (x : Grid) : (s.putGrid k x).agenda = s.agenda := rfl
@[simp] theorem putGrid_turn (s : State) (k : GridKey) (x : Grid) : (s.putGrid k x).turn = s.turn := rfl
@[simp] theorem putGrid_hubCyc (s : State) (k : GridKey) (x : Grid) : (s.putGrid k x).hubCyc = s.hubCyc := rfl
@[simp] theorem putGrid_moment (s : State) (k : GridKey) (x : Grid) : (s.putGrid k x).moment = s.moment := rfl
@[simp] theorem putGrid_codeOld (s : State) (k : GridKey) (x : Grid) : (s.putGrid k x).codeOld = s.codeOld := rfl
@[simp] theorem putGrid_served (s : State) (k : GridKey) (x : Grid) : (s.putGrid k x).served = s.served := rfl
@[simp] theorem putGrid_loads (s : State) (k : GridKey) (x : Grid) : (s.putGrid k x).loads = s.loads := rfl
@[simp] theorem putGrid_freeCtr (s : State) (k : GridKey) (x : Grid) : (s.putGrid k x).freeCtr = s.freeCtr := rfl
@[simp] theorem putGrid_opCtr (s : State) (k : GridKey) (x : Grid) : (s.putGrid k x).opCtr = s.opCtr := rfl

@[simp] theorem putCtx_parts (s : State) (c : Nat) (x : Ctx) : (s.putCtx c x).parts = s.parts := rfl
@[simp] theorem putCtx_grids (s : State) (c : Nat) (x : Ctx) : (s.putCtx c x).grids = s.grids := rfl
@[simp] theorem putCtx_teams (s : State) (c : Nat) (x : Ctx) : (s.putCtx c x).teams = s.teams := rfl
@[simp] theorem putCtx_heldLag (s : State) (c : Nat) (x : Ctx) : (s.putCtx c x).heldLag = s.heldLag := rfl
@[simp] theorem putCtx_cores (s : State) (c : Nat) (x : Ctx) : (s.putCtx c x).cores = s.cores := rfl
@[simp] theorem putCtx_clusters (s : State) (c : Nat) (x : Ctx) : (s.putCtx c x).clusters = s.clusters := rfl
@[simp] theorem putCtx_dies (s : State) (c : Nat) (x : Ctx) : (s.putCtx c x).dies = s.dies := rfl
@[simp] theorem putCtx_ops (s : State) (c : Nat) (x : Ctx) : (s.putCtx c x).ops = s.ops := rfl
@[simp] theorem putCtx_waiters (s : State) (c : Nat) (x : Ctx) : (s.putCtx c x).waiters = s.waiters := rfl
@[simp] theorem putCtx_home (s : State) (c : Nat) (x : Ctx) : (s.putCtx c x).home = s.home := rfl
@[simp] theorem putCtx_llc (s : State) (c : Nat) (x : Ctx) : (s.putCtx c x).llc = s.llc := rfl
@[simp] theorem putCtx_poison (s : State) (c : Nat) (x : Ctx) : (s.putCtx c x).poison = s.poison := rfl
@[simp] theorem putCtx_dv (s : State) (c : Nat) (x : Ctx) : (s.putCtx c x).dv = s.dv := rfl
@[simp] theorem putCtx_pw (s : State) (c : Nat) (x : Ctx) : (s.putCtx c x).pw = s.pw := rfl
@[simp] theorem putCtx_timeRef (s : State) (c : Nat) (x : Ctx) : (s.putCtx c x).timeRef = s.timeRef := rfl
@[simp] theorem putCtx_pkg (s : State) (c : Nat) (x : Ctx) : (s.putCtx c x).pkg = s.pkg := rfl
@[simp] theorem putCtx_pkgAt (s : State) (c : Nat) (x : Ctx) : (s.putCtx c x).pkgAt = s.pkgAt := rfl
@[simp] theorem putCtx_pkgDue (s : State) (c : Nat) (x : Ctx) : (s.putCtx c x).pkgDue = s.pkgDue := rfl
@[simp] theorem putCtx_rate (s : State) (c : Nat) (x : Ctx) : (s.putCtx c x).rate = s.rate := rfl
@[simp] theorem putCtx_above (s : State) (c : Nat) (x : Ctx) : (s.putCtx c x).above = s.above := rfl
@[simp] theorem putCtx_govAt (s : State) (c : Nat) (x : Ctx) : (s.putCtx c x).govAt = s.govAt := rfl
@[simp] theorem putCtx_intentAt (s : State) (c : Nat) (x : Ctx) : (s.putCtx c x).intentAt = s.intentAt := rfl
@[simp] theorem putCtx_plan (s : State) (c : Nat) (x : Ctx) : (s.putCtx c x).plan = s.plan := rfl
@[simp] theorem putCtx_rises (s : State) (c : Nat) (x : Ctx) : (s.putCtx c x).rises = s.rises := rfl
@[simp] theorem putCtx_droopOld (s : State) (c : Nat) (x : Ctx) : (s.putCtx c x).droopOld = s.droopOld := rfl
@[simp] theorem putCtx_sec (s : State) (c : Nat) (x : Ctx) : (s.putCtx c x).sec = s.sec := rfl
@[simp] theorem putCtx_awaiting (s : State) (c : Nat) (x : Ctx) : (s.putCtx c x).awaiting = s.awaiting := rfl
@[simp] theorem putCtx_msixPend (s : State) (c : Nat) (x : Ctx) : (s.putCtx c x).msixPend = s.msixPend := rfl
@[simp] theorem putCtx_msixMask (s : State) (c : Nat) (x : Ctx) : (s.putCtx c x).msixMask = s.msixMask := rfl
@[simp] theorem putCtx_out (s : State) (c : Nat) (x : Ctx) : (s.putCtx c x).out = s.out := rfl
@[simp] theorem putCtx_intents (s : State) (c : Nat) (x : Ctx) : (s.putCtx c x).intents = s.intents := rfl
@[simp] theorem putCtx_intentSeq (s : State) (c : Nat) (x : Ctx) : (s.putCtx c x).intentSeq = s.intentSeq := rfl
@[simp] theorem putCtx_probes (s : State) (c : Nat) (x : Ctx) : (s.putCtx c x).probes = s.probes := rfl
@[simp] theorem putCtx_issuer (s : State) (c : Nat) (x : Ctx) : (s.putCtx c x).issuer = s.issuer := rfl
@[simp] theorem putCtx_agenda (s : State) (c : Nat) (x : Ctx) : (s.putCtx c x).agenda = s.agenda := rfl
@[simp] theorem putCtx_turn (s : State) (c : Nat) (x : Ctx) : (s.putCtx c x).turn = s.turn := rfl
@[simp] theorem putCtx_hubCyc (s : State) (c : Nat) (x : Ctx) : (s.putCtx c x).hubCyc = s.hubCyc := rfl
@[simp] theorem putCtx_moment (s : State) (c : Nat) (x : Ctx) : (s.putCtx c x).moment = s.moment := rfl
@[simp] theorem putCtx_codeOld (s : State) (c : Nat) (x : Ctx) : (s.putCtx c x).codeOld = s.codeOld := rfl
@[simp] theorem putCtx_served (s : State) (c : Nat) (x : Ctx) : (s.putCtx c x).served = s.served := rfl
@[simp] theorem putCtx_loads (s : State) (c : Nat) (x : Ctx) : (s.putCtx c x).loads = s.loads := rfl
@[simp] theorem putCtx_freeCtr (s : State) (c : Nat) (x : Ctx) : (s.putCtx c x).freeCtr = s.freeCtr := rfl
@[simp] theorem putCtx_opCtr (s : State) (c : Nat) (x : Ctx) : (s.putCtx c x).opCtr = s.opCtr := rfl

@[simp] theorem putPart_ctxs (s : State) (p : Nat) (x : Part) : (s.putPart p x).ctxs = s.ctxs := rfl
@[simp] theorem putPart_grids (s : State) (p : Nat) (x : Part) : (s.putPart p x).grids = s.grids := rfl
@[simp] theorem putPart_teams (s : State) (p : Nat) (x : Part) : (s.putPart p x).teams = s.teams := rfl
@[simp] theorem putPart_heldLag (s : State) (p : Nat) (x : Part) : (s.putPart p x).heldLag = s.heldLag := rfl
@[simp] theorem putPart_cores (s : State) (p : Nat) (x : Part) : (s.putPart p x).cores = s.cores := rfl
@[simp] theorem putPart_clusters (s : State) (p : Nat) (x : Part) : (s.putPart p x).clusters = s.clusters := rfl
@[simp] theorem putPart_dies (s : State) (p : Nat) (x : Part) : (s.putPart p x).dies = s.dies := rfl
@[simp] theorem putPart_ops (s : State) (p : Nat) (x : Part) : (s.putPart p x).ops = s.ops := rfl
@[simp] theorem putPart_waiters (s : State) (p : Nat) (x : Part) : (s.putPart p x).waiters = s.waiters := rfl
@[simp] theorem putPart_home (s : State) (p : Nat) (x : Part) : (s.putPart p x).home = s.home := rfl
@[simp] theorem putPart_llc (s : State) (p : Nat) (x : Part) : (s.putPart p x).llc = s.llc := rfl
@[simp] theorem putPart_poison (s : State) (p : Nat) (x : Part) : (s.putPart p x).poison = s.poison := rfl
@[simp] theorem putPart_dv (s : State) (p : Nat) (x : Part) : (s.putPart p x).dv = s.dv := rfl
@[simp] theorem putPart_pw (s : State) (p : Nat) (x : Part) : (s.putPart p x).pw = s.pw := rfl
@[simp] theorem putPart_timeRef (s : State) (p : Nat) (x : Part) : (s.putPart p x).timeRef = s.timeRef := rfl
@[simp] theorem putPart_pkg (s : State) (p : Nat) (x : Part) : (s.putPart p x).pkg = s.pkg := rfl
@[simp] theorem putPart_pkgAt (s : State) (p : Nat) (x : Part) : (s.putPart p x).pkgAt = s.pkgAt := rfl
@[simp] theorem putPart_pkgDue (s : State) (p : Nat) (x : Part) : (s.putPart p x).pkgDue = s.pkgDue := rfl
@[simp] theorem putPart_rate (s : State) (p : Nat) (x : Part) : (s.putPart p x).rate = s.rate := rfl
@[simp] theorem putPart_above (s : State) (p : Nat) (x : Part) : (s.putPart p x).above = s.above := rfl
@[simp] theorem putPart_govAt (s : State) (p : Nat) (x : Part) : (s.putPart p x).govAt = s.govAt := rfl
@[simp] theorem putPart_intentAt (s : State) (p : Nat) (x : Part) : (s.putPart p x).intentAt = s.intentAt := rfl
@[simp] theorem putPart_plan (s : State) (p : Nat) (x : Part) : (s.putPart p x).plan = s.plan := rfl
@[simp] theorem putPart_rises (s : State) (p : Nat) (x : Part) : (s.putPart p x).rises = s.rises := rfl
@[simp] theorem putPart_droopOld (s : State) (p : Nat) (x : Part) : (s.putPart p x).droopOld = s.droopOld := rfl
@[simp] theorem putPart_sec (s : State) (p : Nat) (x : Part) : (s.putPart p x).sec = s.sec := rfl
@[simp] theorem putPart_awaiting (s : State) (p : Nat) (x : Part) : (s.putPart p x).awaiting = s.awaiting := rfl
@[simp] theorem putPart_msixPend (s : State) (p : Nat) (x : Part) : (s.putPart p x).msixPend = s.msixPend := rfl
@[simp] theorem putPart_msixMask (s : State) (p : Nat) (x : Part) : (s.putPart p x).msixMask = s.msixMask := rfl
@[simp] theorem putPart_out (s : State) (p : Nat) (x : Part) : (s.putPart p x).out = s.out := rfl
@[simp] theorem putPart_intents (s : State) (p : Nat) (x : Part) : (s.putPart p x).intents = s.intents := rfl
@[simp] theorem putPart_intentSeq (s : State) (p : Nat) (x : Part) : (s.putPart p x).intentSeq = s.intentSeq := rfl
@[simp] theorem putPart_probes (s : State) (p : Nat) (x : Part) : (s.putPart p x).probes = s.probes := rfl
@[simp] theorem putPart_issuer (s : State) (p : Nat) (x : Part) : (s.putPart p x).issuer = s.issuer := rfl
@[simp] theorem putPart_agenda (s : State) (p : Nat) (x : Part) : (s.putPart p x).agenda = s.agenda := rfl
@[simp] theorem putPart_turn (s : State) (p : Nat) (x : Part) : (s.putPart p x).turn = s.turn := rfl
@[simp] theorem putPart_hubCyc (s : State) (p : Nat) (x : Part) : (s.putPart p x).hubCyc = s.hubCyc := rfl
@[simp] theorem putPart_moment (s : State) (p : Nat) (x : Part) : (s.putPart p x).moment = s.moment := rfl
@[simp] theorem putPart_codeOld (s : State) (p : Nat) (x : Part) : (s.putPart p x).codeOld = s.codeOld := rfl
@[simp] theorem putPart_served (s : State) (p : Nat) (x : Part) : (s.putPart p x).served = s.served := rfl
@[simp] theorem putPart_loads (s : State) (p : Nat) (x : Part) : (s.putPart p x).loads = s.loads := rfl
@[simp] theorem putPart_freeCtr (s : State) (p : Nat) (x : Part) : (s.putPart p x).freeCtr = s.freeCtr := rfl
@[simp] theorem putPart_opCtr (s : State) (p : Nat) (x : Part) : (s.putPart p x).opCtr = s.opCtr := rfl

@[simp] theorem putCore_parts (s : State) (c : Nat) (x : Core) : (s.putCore c x).parts = s.parts := rfl
@[simp] theorem putCore_ctxs (s : State) (c : Nat) (x : Core) : (s.putCore c x).ctxs = s.ctxs := rfl
@[simp] theorem putCore_grids (s : State) (c : Nat) (x : Core) : (s.putCore c x).grids = s.grids := rfl
@[simp] theorem putCore_teams (s : State) (c : Nat) (x : Core) : (s.putCore c x).teams = s.teams := rfl
@[simp] theorem putCore_heldLag (s : State) (c : Nat) (x : Core) : (s.putCore c x).heldLag = s.heldLag := rfl
@[simp] theorem putCore_clusters (s : State) (c : Nat) (x : Core) : (s.putCore c x).clusters = s.clusters := rfl
@[simp] theorem putCore_dies (s : State) (c : Nat) (x : Core) : (s.putCore c x).dies = s.dies := rfl
@[simp] theorem putCore_ops (s : State) (c : Nat) (x : Core) : (s.putCore c x).ops = s.ops := rfl
@[simp] theorem putCore_waiters (s : State) (c : Nat) (x : Core) : (s.putCore c x).waiters = s.waiters := rfl
@[simp] theorem putCore_home (s : State) (c : Nat) (x : Core) : (s.putCore c x).home = s.home := rfl
@[simp] theorem putCore_llc (s : State) (c : Nat) (x : Core) : (s.putCore c x).llc = s.llc := rfl
@[simp] theorem putCore_poison (s : State) (c : Nat) (x : Core) : (s.putCore c x).poison = s.poison := rfl
@[simp] theorem putCore_dv (s : State) (c : Nat) (x : Core) : (s.putCore c x).dv = s.dv := rfl
@[simp] theorem putCore_pw (s : State) (c : Nat) (x : Core) : (s.putCore c x).pw = s.pw := rfl
@[simp] theorem putCore_timeRef (s : State) (c : Nat) (x : Core) : (s.putCore c x).timeRef = s.timeRef := rfl
@[simp] theorem putCore_pkg (s : State) (c : Nat) (x : Core) : (s.putCore c x).pkg = s.pkg := rfl
@[simp] theorem putCore_pkgAt (s : State) (c : Nat) (x : Core) : (s.putCore c x).pkgAt = s.pkgAt := rfl
@[simp] theorem putCore_pkgDue (s : State) (c : Nat) (x : Core) : (s.putCore c x).pkgDue = s.pkgDue := rfl
@[simp] theorem putCore_rate (s : State) (c : Nat) (x : Core) : (s.putCore c x).rate = s.rate := rfl
@[simp] theorem putCore_above (s : State) (c : Nat) (x : Core) : (s.putCore c x).above = s.above := rfl
@[simp] theorem putCore_govAt (s : State) (c : Nat) (x : Core) : (s.putCore c x).govAt = s.govAt := rfl
@[simp] theorem putCore_intentAt (s : State) (c : Nat) (x : Core) : (s.putCore c x).intentAt = s.intentAt := rfl
@[simp] theorem putCore_plan (s : State) (c : Nat) (x : Core) : (s.putCore c x).plan = s.plan := rfl
@[simp] theorem putCore_rises (s : State) (c : Nat) (x : Core) : (s.putCore c x).rises = s.rises := rfl
@[simp] theorem putCore_droopOld (s : State) (c : Nat) (x : Core) : (s.putCore c x).droopOld = s.droopOld := rfl
@[simp] theorem putCore_sec (s : State) (c : Nat) (x : Core) : (s.putCore c x).sec = s.sec := rfl
@[simp] theorem putCore_awaiting (s : State) (c : Nat) (x : Core) : (s.putCore c x).awaiting = s.awaiting := rfl
@[simp] theorem putCore_msixPend (s : State) (c : Nat) (x : Core) : (s.putCore c x).msixPend = s.msixPend := rfl
@[simp] theorem putCore_msixMask (s : State) (c : Nat) (x : Core) : (s.putCore c x).msixMask = s.msixMask := rfl
@[simp] theorem putCore_out (s : State) (c : Nat) (x : Core) : (s.putCore c x).out = s.out := rfl
@[simp] theorem putCore_intents (s : State) (c : Nat) (x : Core) : (s.putCore c x).intents = s.intents := rfl
@[simp] theorem putCore_intentSeq (s : State) (c : Nat) (x : Core) : (s.putCore c x).intentSeq = s.intentSeq := rfl
@[simp] theorem putCore_probes (s : State) (c : Nat) (x : Core) : (s.putCore c x).probes = s.probes := rfl
@[simp] theorem putCore_issuer (s : State) (c : Nat) (x : Core) : (s.putCore c x).issuer = s.issuer := rfl
@[simp] theorem putCore_agenda (s : State) (c : Nat) (x : Core) : (s.putCore c x).agenda = s.agenda := rfl
@[simp] theorem putCore_turn (s : State) (c : Nat) (x : Core) : (s.putCore c x).turn = s.turn := rfl
@[simp] theorem putCore_hubCyc (s : State) (c : Nat) (x : Core) : (s.putCore c x).hubCyc = s.hubCyc := rfl
@[simp] theorem putCore_moment (s : State) (c : Nat) (x : Core) : (s.putCore c x).moment = s.moment := rfl
@[simp] theorem putCore_codeOld (s : State) (c : Nat) (x : Core) : (s.putCore c x).codeOld = s.codeOld := rfl
@[simp] theorem putCore_served (s : State) (c : Nat) (x : Core) : (s.putCore c x).served = s.served := rfl
@[simp] theorem putCore_loads (s : State) (c : Nat) (x : Core) : (s.putCore c x).loads = s.loads := rfl
@[simp] theorem putCore_freeCtr (s : State) (c : Nat) (x : Core) : (s.putCore c x).freeCtr = s.freeCtr := rfl
@[simp] theorem putCore_opCtr (s : State) (c : Nat) (x : Core) : (s.putCore c x).opCtr = s.opCtr := rfl

@[simp] theorem putCluster_parts (s : State) (c : Nat) (x : Cluster) : (s.putCluster c x).parts = s.parts := rfl
@[simp] theorem putCluster_ctxs (s : State) (c : Nat) (x : Cluster) : (s.putCluster c x).ctxs = s.ctxs := rfl
@[simp] theorem putCluster_grids (s : State) (c : Nat) (x : Cluster) : (s.putCluster c x).grids = s.grids := rfl
@[simp] theorem putCluster_teams (s : State) (c : Nat) (x : Cluster) : (s.putCluster c x).teams = s.teams := rfl
@[simp] theorem putCluster_heldLag (s : State) (c : Nat) (x : Cluster) : (s.putCluster c x).heldLag = s.heldLag := rfl
@[simp] theorem putCluster_cores (s : State) (c : Nat) (x : Cluster) : (s.putCluster c x).cores = s.cores := rfl
@[simp] theorem putCluster_dies (s : State) (c : Nat) (x : Cluster) : (s.putCluster c x).dies = s.dies := rfl
@[simp] theorem putCluster_ops (s : State) (c : Nat) (x : Cluster) : (s.putCluster c x).ops = s.ops := rfl
@[simp] theorem putCluster_waiters (s : State) (c : Nat) (x : Cluster) : (s.putCluster c x).waiters = s.waiters := rfl
@[simp] theorem putCluster_home (s : State) (c : Nat) (x : Cluster) : (s.putCluster c x).home = s.home := rfl
@[simp] theorem putCluster_llc (s : State) (c : Nat) (x : Cluster) : (s.putCluster c x).llc = s.llc := rfl
@[simp] theorem putCluster_poison (s : State) (c : Nat) (x : Cluster) : (s.putCluster c x).poison = s.poison := rfl
@[simp] theorem putCluster_dv (s : State) (c : Nat) (x : Cluster) : (s.putCluster c x).dv = s.dv := rfl
@[simp] theorem putCluster_pw (s : State) (c : Nat) (x : Cluster) : (s.putCluster c x).pw = s.pw := rfl
@[simp] theorem putCluster_timeRef (s : State) (c : Nat) (x : Cluster) : (s.putCluster c x).timeRef = s.timeRef := rfl
@[simp] theorem putCluster_pkg (s : State) (c : Nat) (x : Cluster) : (s.putCluster c x).pkg = s.pkg := rfl
@[simp] theorem putCluster_pkgAt (s : State) (c : Nat) (x : Cluster) : (s.putCluster c x).pkgAt = s.pkgAt := rfl
@[simp] theorem putCluster_pkgDue (s : State) (c : Nat) (x : Cluster) : (s.putCluster c x).pkgDue = s.pkgDue := rfl
@[simp] theorem putCluster_rate (s : State) (c : Nat) (x : Cluster) : (s.putCluster c x).rate = s.rate := rfl
@[simp] theorem putCluster_above (s : State) (c : Nat) (x : Cluster) : (s.putCluster c x).above = s.above := rfl
@[simp] theorem putCluster_govAt (s : State) (c : Nat) (x : Cluster) : (s.putCluster c x).govAt = s.govAt := rfl
@[simp] theorem putCluster_intentAt (s : State) (c : Nat) (x : Cluster) : (s.putCluster c x).intentAt = s.intentAt := rfl
@[simp] theorem putCluster_plan (s : State) (c : Nat) (x : Cluster) : (s.putCluster c x).plan = s.plan := rfl
@[simp] theorem putCluster_rises (s : State) (c : Nat) (x : Cluster) : (s.putCluster c x).rises = s.rises := rfl
@[simp] theorem putCluster_droopOld (s : State) (c : Nat) (x : Cluster) : (s.putCluster c x).droopOld = s.droopOld := rfl
@[simp] theorem putCluster_sec (s : State) (c : Nat) (x : Cluster) : (s.putCluster c x).sec = s.sec := rfl
@[simp] theorem putCluster_awaiting (s : State) (c : Nat) (x : Cluster) : (s.putCluster c x).awaiting = s.awaiting := rfl
@[simp] theorem putCluster_msixPend (s : State) (c : Nat) (x : Cluster) : (s.putCluster c x).msixPend = s.msixPend := rfl
@[simp] theorem putCluster_msixMask (s : State) (c : Nat) (x : Cluster) : (s.putCluster c x).msixMask = s.msixMask := rfl
@[simp] theorem putCluster_out (s : State) (c : Nat) (x : Cluster) : (s.putCluster c x).out = s.out := rfl
@[simp] theorem putCluster_intents (s : State) (c : Nat) (x : Cluster) : (s.putCluster c x).intents = s.intents := rfl
@[simp] theorem putCluster_intentSeq (s : State) (c : Nat) (x : Cluster) : (s.putCluster c x).intentSeq = s.intentSeq := rfl
@[simp] theorem putCluster_probes (s : State) (c : Nat) (x : Cluster) : (s.putCluster c x).probes = s.probes := rfl
@[simp] theorem putCluster_issuer (s : State) (c : Nat) (x : Cluster) : (s.putCluster c x).issuer = s.issuer := rfl
@[simp] theorem putCluster_agenda (s : State) (c : Nat) (x : Cluster) : (s.putCluster c x).agenda = s.agenda := rfl
@[simp] theorem putCluster_turn (s : State) (c : Nat) (x : Cluster) : (s.putCluster c x).turn = s.turn := rfl
@[simp] theorem putCluster_hubCyc (s : State) (c : Nat) (x : Cluster) : (s.putCluster c x).hubCyc = s.hubCyc := rfl
@[simp] theorem putCluster_moment (s : State) (c : Nat) (x : Cluster) : (s.putCluster c x).moment = s.moment := rfl
@[simp] theorem putCluster_codeOld (s : State) (c : Nat) (x : Cluster) : (s.putCluster c x).codeOld = s.codeOld := rfl
@[simp] theorem putCluster_served (s : State) (c : Nat) (x : Cluster) : (s.putCluster c x).served = s.served := rfl
@[simp] theorem putCluster_loads (s : State) (c : Nat) (x : Cluster) : (s.putCluster c x).loads = s.loads := rfl
@[simp] theorem putCluster_freeCtr (s : State) (c : Nat) (x : Cluster) : (s.putCluster c x).freeCtr = s.freeCtr := rfl
@[simp] theorem putCluster_opCtr (s : State) (c : Nat) (x : Cluster) : (s.putCluster c x).opCtr = s.opCtr := rfl

@[simp] theorem putDie_parts (s : State) (d : Nat) (x : Die) : (s.putDie d x).parts = s.parts := rfl
@[simp] theorem putDie_ctxs (s : State) (d : Nat) (x : Die) : (s.putDie d x).ctxs = s.ctxs := rfl
@[simp] theorem putDie_grids (s : State) (d : Nat) (x : Die) : (s.putDie d x).grids = s.grids := rfl
@[simp] theorem putDie_teams (s : State) (d : Nat) (x : Die) : (s.putDie d x).teams = s.teams := rfl
@[simp] theorem putDie_heldLag (s : State) (d : Nat) (x : Die) : (s.putDie d x).heldLag = s.heldLag := rfl
@[simp] theorem putDie_cores (s : State) (d : Nat) (x : Die) : (s.putDie d x).cores = s.cores := rfl
@[simp] theorem putDie_clusters (s : State) (d : Nat) (x : Die) : (s.putDie d x).clusters = s.clusters := rfl
@[simp] theorem putDie_ops (s : State) (d : Nat) (x : Die) : (s.putDie d x).ops = s.ops := rfl
@[simp] theorem putDie_waiters (s : State) (d : Nat) (x : Die) : (s.putDie d x).waiters = s.waiters := rfl
@[simp] theorem putDie_home (s : State) (d : Nat) (x : Die) : (s.putDie d x).home = s.home := rfl
@[simp] theorem putDie_llc (s : State) (d : Nat) (x : Die) : (s.putDie d x).llc = s.llc := rfl
@[simp] theorem putDie_poison (s : State) (d : Nat) (x : Die) : (s.putDie d x).poison = s.poison := rfl
@[simp] theorem putDie_dv (s : State) (d : Nat) (x : Die) : (s.putDie d x).dv = s.dv := rfl
@[simp] theorem putDie_pw (s : State) (d : Nat) (x : Die) : (s.putDie d x).pw = s.pw := rfl
@[simp] theorem putDie_timeRef (s : State) (d : Nat) (x : Die) : (s.putDie d x).timeRef = s.timeRef := rfl
@[simp] theorem putDie_pkg (s : State) (d : Nat) (x : Die) : (s.putDie d x).pkg = s.pkg := rfl
@[simp] theorem putDie_pkgAt (s : State) (d : Nat) (x : Die) : (s.putDie d x).pkgAt = s.pkgAt := rfl
@[simp] theorem putDie_pkgDue (s : State) (d : Nat) (x : Die) : (s.putDie d x).pkgDue = s.pkgDue := rfl
@[simp] theorem putDie_rate (s : State) (d : Nat) (x : Die) : (s.putDie d x).rate = s.rate := rfl
@[simp] theorem putDie_above (s : State) (d : Nat) (x : Die) : (s.putDie d x).above = s.above := rfl
@[simp] theorem putDie_govAt (s : State) (d : Nat) (x : Die) : (s.putDie d x).govAt = s.govAt := rfl
@[simp] theorem putDie_intentAt (s : State) (d : Nat) (x : Die) : (s.putDie d x).intentAt = s.intentAt := rfl
@[simp] theorem putDie_plan (s : State) (d : Nat) (x : Die) : (s.putDie d x).plan = s.plan := rfl
@[simp] theorem putDie_rises (s : State) (d : Nat) (x : Die) : (s.putDie d x).rises = s.rises := rfl
@[simp] theorem putDie_droopOld (s : State) (d : Nat) (x : Die) : (s.putDie d x).droopOld = s.droopOld := rfl
@[simp] theorem putDie_sec (s : State) (d : Nat) (x : Die) : (s.putDie d x).sec = s.sec := rfl
@[simp] theorem putDie_awaiting (s : State) (d : Nat) (x : Die) : (s.putDie d x).awaiting = s.awaiting := rfl
@[simp] theorem putDie_msixPend (s : State) (d : Nat) (x : Die) : (s.putDie d x).msixPend = s.msixPend := rfl
@[simp] theorem putDie_msixMask (s : State) (d : Nat) (x : Die) : (s.putDie d x).msixMask = s.msixMask := rfl
@[simp] theorem putDie_out (s : State) (d : Nat) (x : Die) : (s.putDie d x).out = s.out := rfl
@[simp] theorem putDie_intents (s : State) (d : Nat) (x : Die) : (s.putDie d x).intents = s.intents := rfl
@[simp] theorem putDie_intentSeq (s : State) (d : Nat) (x : Die) : (s.putDie d x).intentSeq = s.intentSeq := rfl
@[simp] theorem putDie_probes (s : State) (d : Nat) (x : Die) : (s.putDie d x).probes = s.probes := rfl
@[simp] theorem putDie_issuer (s : State) (d : Nat) (x : Die) : (s.putDie d x).issuer = s.issuer := rfl
@[simp] theorem putDie_agenda (s : State) (d : Nat) (x : Die) : (s.putDie d x).agenda = s.agenda := rfl
@[simp] theorem putDie_turn (s : State) (d : Nat) (x : Die) : (s.putDie d x).turn = s.turn := rfl
@[simp] theorem putDie_hubCyc (s : State) (d : Nat) (x : Die) : (s.putDie d x).hubCyc = s.hubCyc := rfl
@[simp] theorem putDie_moment (s : State) (d : Nat) (x : Die) : (s.putDie d x).moment = s.moment := rfl
@[simp] theorem putDie_codeOld (s : State) (d : Nat) (x : Die) : (s.putDie d x).codeOld = s.codeOld := rfl
@[simp] theorem putDie_served (s : State) (d : Nat) (x : Die) : (s.putDie d x).served = s.served := rfl
@[simp] theorem putDie_loads (s : State) (d : Nat) (x : Die) : (s.putDie d x).loads = s.loads := rfl
@[simp] theorem putDie_freeCtr (s : State) (d : Nat) (x : Die) : (s.putDie d x).freeCtr = s.freeCtr := rfl
@[simp] theorem putDie_opCtr (s : State) (d : Nat) (x : Die) : (s.putDie d x).opCtr = s.opCtr := rfl

@[simp] theorem setDvReg_parts (s : State) (i : Nat) (v : Word) : (s.setDvReg i v).parts = s.parts := rfl
@[simp] theorem setDvReg_ctxs (s : State) (i : Nat) (v : Word) : (s.setDvReg i v).ctxs = s.ctxs := rfl
@[simp] theorem setDvReg_grids (s : State) (i : Nat) (v : Word) : (s.setDvReg i v).grids = s.grids := rfl
@[simp] theorem setDvReg_teams (s : State) (i : Nat) (v : Word) : (s.setDvReg i v).teams = s.teams := rfl
@[simp] theorem setDvReg_heldLag (s : State) (i : Nat) (v : Word) : (s.setDvReg i v).heldLag = s.heldLag := rfl
@[simp] theorem setDvReg_cores (s : State) (i : Nat) (v : Word) : (s.setDvReg i v).cores = s.cores := rfl
@[simp] theorem setDvReg_clusters (s : State) (i : Nat) (v : Word) : (s.setDvReg i v).clusters = s.clusters := rfl
@[simp] theorem setDvReg_dies (s : State) (i : Nat) (v : Word) : (s.setDvReg i v).dies = s.dies := rfl
@[simp] theorem setDvReg_ops (s : State) (i : Nat) (v : Word) : (s.setDvReg i v).ops = s.ops := rfl
@[simp] theorem setDvReg_waiters (s : State) (i : Nat) (v : Word) : (s.setDvReg i v).waiters = s.waiters := rfl
@[simp] theorem setDvReg_home (s : State) (i : Nat) (v : Word) : (s.setDvReg i v).home = s.home := rfl
@[simp] theorem setDvReg_llc (s : State) (i : Nat) (v : Word) : (s.setDvReg i v).llc = s.llc := rfl
@[simp] theorem setDvReg_poison (s : State) (i : Nat) (v : Word) : (s.setDvReg i v).poison = s.poison := rfl
@[simp] theorem setDvReg_pw (s : State) (i : Nat) (v : Word) : (s.setDvReg i v).pw = s.pw := rfl
@[simp] theorem setDvReg_timeRef (s : State) (i : Nat) (v : Word) : (s.setDvReg i v).timeRef = s.timeRef := rfl
@[simp] theorem setDvReg_pkg (s : State) (i : Nat) (v : Word) : (s.setDvReg i v).pkg = s.pkg := rfl
@[simp] theorem setDvReg_pkgAt (s : State) (i : Nat) (v : Word) : (s.setDvReg i v).pkgAt = s.pkgAt := rfl
@[simp] theorem setDvReg_pkgDue (s : State) (i : Nat) (v : Word) : (s.setDvReg i v).pkgDue = s.pkgDue := rfl
@[simp] theorem setDvReg_rate (s : State) (i : Nat) (v : Word) : (s.setDvReg i v).rate = s.rate := rfl
@[simp] theorem setDvReg_above (s : State) (i : Nat) (v : Word) : (s.setDvReg i v).above = s.above := rfl
@[simp] theorem setDvReg_govAt (s : State) (i : Nat) (v : Word) : (s.setDvReg i v).govAt = s.govAt := rfl
@[simp] theorem setDvReg_intentAt (s : State) (i : Nat) (v : Word) : (s.setDvReg i v).intentAt = s.intentAt := rfl
@[simp] theorem setDvReg_plan (s : State) (i : Nat) (v : Word) : (s.setDvReg i v).plan = s.plan := rfl
@[simp] theorem setDvReg_rises (s : State) (i : Nat) (v : Word) : (s.setDvReg i v).rises = s.rises := rfl
@[simp] theorem setDvReg_droopOld (s : State) (i : Nat) (v : Word) : (s.setDvReg i v).droopOld = s.droopOld := rfl
@[simp] theorem setDvReg_sec (s : State) (i : Nat) (v : Word) : (s.setDvReg i v).sec = s.sec := rfl
@[simp] theorem setDvReg_awaiting (s : State) (i : Nat) (v : Word) : (s.setDvReg i v).awaiting = s.awaiting := rfl
@[simp] theorem setDvReg_msixPend (s : State) (i : Nat) (v : Word) : (s.setDvReg i v).msixPend = s.msixPend := rfl
@[simp] theorem setDvReg_msixMask (s : State) (i : Nat) (v : Word) : (s.setDvReg i v).msixMask = s.msixMask := rfl
@[simp] theorem setDvReg_out (s : State) (i : Nat) (v : Word) : (s.setDvReg i v).out = s.out := rfl
@[simp] theorem setDvReg_intents (s : State) (i : Nat) (v : Word) : (s.setDvReg i v).intents = s.intents := rfl
@[simp] theorem setDvReg_intentSeq (s : State) (i : Nat) (v : Word) : (s.setDvReg i v).intentSeq = s.intentSeq := rfl
@[simp] theorem setDvReg_probes (s : State) (i : Nat) (v : Word) : (s.setDvReg i v).probes = s.probes := rfl
@[simp] theorem setDvReg_issuer (s : State) (i : Nat) (v : Word) : (s.setDvReg i v).issuer = s.issuer := rfl
@[simp] theorem setDvReg_agenda (s : State) (i : Nat) (v : Word) : (s.setDvReg i v).agenda = s.agenda := rfl
@[simp] theorem setDvReg_turn (s : State) (i : Nat) (v : Word) : (s.setDvReg i v).turn = s.turn := rfl
@[simp] theorem setDvReg_hubCyc (s : State) (i : Nat) (v : Word) : (s.setDvReg i v).hubCyc = s.hubCyc := rfl
@[simp] theorem setDvReg_moment (s : State) (i : Nat) (v : Word) : (s.setDvReg i v).moment = s.moment := rfl
@[simp] theorem setDvReg_codeOld (s : State) (i : Nat) (v : Word) : (s.setDvReg i v).codeOld = s.codeOld := rfl
@[simp] theorem setDvReg_served (s : State) (i : Nat) (v : Word) : (s.setDvReg i v).served = s.served := rfl
@[simp] theorem setDvReg_loads (s : State) (i : Nat) (v : Word) : (s.setDvReg i v).loads = s.loads := rfl
@[simp] theorem setDvReg_freeCtr (s : State) (i : Nat) (v : Word) : (s.setDvReg i v).freeCtr = s.freeCtr := rfl
@[simp] theorem setDvReg_opCtr (s : State) (i : Nat) (v : Word) : (s.setDvReg i v).opCtr = s.opCtr := rfl

@[simp] theorem setPwReg_parts (s : State) (i : Nat) (v : Word) : (s.setPwReg i v).parts = s.parts := rfl
@[simp] theorem setPwReg_ctxs (s : State) (i : Nat) (v : Word) : (s.setPwReg i v).ctxs = s.ctxs := rfl
@[simp] theorem setPwReg_grids (s : State) (i : Nat) (v : Word) : (s.setPwReg i v).grids = s.grids := rfl
@[simp] theorem setPwReg_teams (s : State) (i : Nat) (v : Word) : (s.setPwReg i v).teams = s.teams := rfl
@[simp] theorem setPwReg_heldLag (s : State) (i : Nat) (v : Word) : (s.setPwReg i v).heldLag = s.heldLag := rfl
@[simp] theorem setPwReg_cores (s : State) (i : Nat) (v : Word) : (s.setPwReg i v).cores = s.cores := rfl
@[simp] theorem setPwReg_clusters (s : State) (i : Nat) (v : Word) : (s.setPwReg i v).clusters = s.clusters := rfl
@[simp] theorem setPwReg_dies (s : State) (i : Nat) (v : Word) : (s.setPwReg i v).dies = s.dies := rfl
@[simp] theorem setPwReg_ops (s : State) (i : Nat) (v : Word) : (s.setPwReg i v).ops = s.ops := rfl
@[simp] theorem setPwReg_waiters (s : State) (i : Nat) (v : Word) : (s.setPwReg i v).waiters = s.waiters := rfl
@[simp] theorem setPwReg_home (s : State) (i : Nat) (v : Word) : (s.setPwReg i v).home = s.home := rfl
@[simp] theorem setPwReg_llc (s : State) (i : Nat) (v : Word) : (s.setPwReg i v).llc = s.llc := rfl
@[simp] theorem setPwReg_poison (s : State) (i : Nat) (v : Word) : (s.setPwReg i v).poison = s.poison := rfl
@[simp] theorem setPwReg_dv (s : State) (i : Nat) (v : Word) : (s.setPwReg i v).dv = s.dv := rfl
@[simp] theorem setPwReg_timeRef (s : State) (i : Nat) (v : Word) : (s.setPwReg i v).timeRef = s.timeRef := rfl
@[simp] theorem setPwReg_pkg (s : State) (i : Nat) (v : Word) : (s.setPwReg i v).pkg = s.pkg := rfl
@[simp] theorem setPwReg_pkgAt (s : State) (i : Nat) (v : Word) : (s.setPwReg i v).pkgAt = s.pkgAt := rfl
@[simp] theorem setPwReg_pkgDue (s : State) (i : Nat) (v : Word) : (s.setPwReg i v).pkgDue = s.pkgDue := rfl
@[simp] theorem setPwReg_rate (s : State) (i : Nat) (v : Word) : (s.setPwReg i v).rate = s.rate := rfl
@[simp] theorem setPwReg_above (s : State) (i : Nat) (v : Word) : (s.setPwReg i v).above = s.above := rfl
@[simp] theorem setPwReg_govAt (s : State) (i : Nat) (v : Word) : (s.setPwReg i v).govAt = s.govAt := rfl
@[simp] theorem setPwReg_intentAt (s : State) (i : Nat) (v : Word) : (s.setPwReg i v).intentAt = s.intentAt := rfl
@[simp] theorem setPwReg_plan (s : State) (i : Nat) (v : Word) : (s.setPwReg i v).plan = s.plan := rfl
@[simp] theorem setPwReg_rises (s : State) (i : Nat) (v : Word) : (s.setPwReg i v).rises = s.rises := rfl
@[simp] theorem setPwReg_droopOld (s : State) (i : Nat) (v : Word) : (s.setPwReg i v).droopOld = s.droopOld := rfl
@[simp] theorem setPwReg_sec (s : State) (i : Nat) (v : Word) : (s.setPwReg i v).sec = s.sec := rfl
@[simp] theorem setPwReg_awaiting (s : State) (i : Nat) (v : Word) : (s.setPwReg i v).awaiting = s.awaiting := rfl
@[simp] theorem setPwReg_msixPend (s : State) (i : Nat) (v : Word) : (s.setPwReg i v).msixPend = s.msixPend := rfl
@[simp] theorem setPwReg_msixMask (s : State) (i : Nat) (v : Word) : (s.setPwReg i v).msixMask = s.msixMask := rfl
@[simp] theorem setPwReg_out (s : State) (i : Nat) (v : Word) : (s.setPwReg i v).out = s.out := rfl
@[simp] theorem setPwReg_intents (s : State) (i : Nat) (v : Word) : (s.setPwReg i v).intents = s.intents := rfl
@[simp] theorem setPwReg_intentSeq (s : State) (i : Nat) (v : Word) : (s.setPwReg i v).intentSeq = s.intentSeq := rfl
@[simp] theorem setPwReg_probes (s : State) (i : Nat) (v : Word) : (s.setPwReg i v).probes = s.probes := rfl
@[simp] theorem setPwReg_issuer (s : State) (i : Nat) (v : Word) : (s.setPwReg i v).issuer = s.issuer := rfl
@[simp] theorem setPwReg_agenda (s : State) (i : Nat) (v : Word) : (s.setPwReg i v).agenda = s.agenda := rfl
@[simp] theorem setPwReg_turn (s : State) (i : Nat) (v : Word) : (s.setPwReg i v).turn = s.turn := rfl
@[simp] theorem setPwReg_hubCyc (s : State) (i : Nat) (v : Word) : (s.setPwReg i v).hubCyc = s.hubCyc := rfl
@[simp] theorem setPwReg_moment (s : State) (i : Nat) (v : Word) : (s.setPwReg i v).moment = s.moment := rfl
@[simp] theorem setPwReg_codeOld (s : State) (i : Nat) (v : Word) : (s.setPwReg i v).codeOld = s.codeOld := rfl
@[simp] theorem setPwReg_served (s : State) (i : Nat) (v : Word) : (s.setPwReg i v).served = s.served := rfl
@[simp] theorem setPwReg_loads (s : State) (i : Nat) (v : Word) : (s.setPwReg i v).loads = s.loads := rfl
@[simp] theorem setPwReg_freeCtr (s : State) (i : Nat) (v : Word) : (s.setPwReg i v).freeCtr = s.freeCtr := rfl
@[simp] theorem setPwReg_opCtr (s : State) (i : Nat) (v : Word) : (s.setPwReg i v).opCtr = s.opCtr := rfl

@[simp] theorem setCtReg_parts (s : State) (c i : Nat) (v : Word) : (s.setCtReg c i v).parts = s.parts := rfl
@[simp] theorem setCtReg_grids (s : State) (c i : Nat) (v : Word) : (s.setCtReg c i v).grids = s.grids := rfl
@[simp] theorem setCtReg_teams (s : State) (c i : Nat) (v : Word) : (s.setCtReg c i v).teams = s.teams := rfl
@[simp] theorem setCtReg_heldLag (s : State) (c i : Nat) (v : Word) : (s.setCtReg c i v).heldLag = s.heldLag := rfl
@[simp] theorem setCtReg_cores (s : State) (c i : Nat) (v : Word) : (s.setCtReg c i v).cores = s.cores := rfl
@[simp] theorem setCtReg_clusters (s : State) (c i : Nat) (v : Word) : (s.setCtReg c i v).clusters = s.clusters := rfl
@[simp] theorem setCtReg_dies (s : State) (c i : Nat) (v : Word) : (s.setCtReg c i v).dies = s.dies := rfl
@[simp] theorem setCtReg_ops (s : State) (c i : Nat) (v : Word) : (s.setCtReg c i v).ops = s.ops := rfl
@[simp] theorem setCtReg_waiters (s : State) (c i : Nat) (v : Word) : (s.setCtReg c i v).waiters = s.waiters := rfl
@[simp] theorem setCtReg_home (s : State) (c i : Nat) (v : Word) : (s.setCtReg c i v).home = s.home := rfl
@[simp] theorem setCtReg_llc (s : State) (c i : Nat) (v : Word) : (s.setCtReg c i v).llc = s.llc := rfl
@[simp] theorem setCtReg_poison (s : State) (c i : Nat) (v : Word) : (s.setCtReg c i v).poison = s.poison := rfl
@[simp] theorem setCtReg_dv (s : State) (c i : Nat) (v : Word) : (s.setCtReg c i v).dv = s.dv := rfl
@[simp] theorem setCtReg_pw (s : State) (c i : Nat) (v : Word) : (s.setCtReg c i v).pw = s.pw := rfl
@[simp] theorem setCtReg_timeRef (s : State) (c i : Nat) (v : Word) : (s.setCtReg c i v).timeRef = s.timeRef := rfl
@[simp] theorem setCtReg_pkg (s : State) (c i : Nat) (v : Word) : (s.setCtReg c i v).pkg = s.pkg := rfl
@[simp] theorem setCtReg_pkgAt (s : State) (c i : Nat) (v : Word) : (s.setCtReg c i v).pkgAt = s.pkgAt := rfl
@[simp] theorem setCtReg_pkgDue (s : State) (c i : Nat) (v : Word) : (s.setCtReg c i v).pkgDue = s.pkgDue := rfl
@[simp] theorem setCtReg_rate (s : State) (c i : Nat) (v : Word) : (s.setCtReg c i v).rate = s.rate := rfl
@[simp] theorem setCtReg_above (s : State) (c i : Nat) (v : Word) : (s.setCtReg c i v).above = s.above := rfl
@[simp] theorem setCtReg_govAt (s : State) (c i : Nat) (v : Word) : (s.setCtReg c i v).govAt = s.govAt := rfl
@[simp] theorem setCtReg_intentAt (s : State) (c i : Nat) (v : Word) : (s.setCtReg c i v).intentAt = s.intentAt := rfl
@[simp] theorem setCtReg_plan (s : State) (c i : Nat) (v : Word) : (s.setCtReg c i v).plan = s.plan := rfl
@[simp] theorem setCtReg_rises (s : State) (c i : Nat) (v : Word) : (s.setCtReg c i v).rises = s.rises := rfl
@[simp] theorem setCtReg_droopOld (s : State) (c i : Nat) (v : Word) : (s.setCtReg c i v).droopOld = s.droopOld := rfl
@[simp] theorem setCtReg_sec (s : State) (c i : Nat) (v : Word) : (s.setCtReg c i v).sec = s.sec := rfl
@[simp] theorem setCtReg_awaiting (s : State) (c i : Nat) (v : Word) : (s.setCtReg c i v).awaiting = s.awaiting := rfl
@[simp] theorem setCtReg_msixPend (s : State) (c i : Nat) (v : Word) : (s.setCtReg c i v).msixPend = s.msixPend := rfl
@[simp] theorem setCtReg_msixMask (s : State) (c i : Nat) (v : Word) : (s.setCtReg c i v).msixMask = s.msixMask := rfl
@[simp] theorem setCtReg_out (s : State) (c i : Nat) (v : Word) : (s.setCtReg c i v).out = s.out := rfl
@[simp] theorem setCtReg_intents (s : State) (c i : Nat) (v : Word) : (s.setCtReg c i v).intents = s.intents := rfl
@[simp] theorem setCtReg_intentSeq (s : State) (c i : Nat) (v : Word) : (s.setCtReg c i v).intentSeq = s.intentSeq := rfl
@[simp] theorem setCtReg_probes (s : State) (c i : Nat) (v : Word) : (s.setCtReg c i v).probes = s.probes := rfl
@[simp] theorem setCtReg_issuer (s : State) (c i : Nat) (v : Word) : (s.setCtReg c i v).issuer = s.issuer := rfl
@[simp] theorem setCtReg_agenda (s : State) (c i : Nat) (v : Word) : (s.setCtReg c i v).agenda = s.agenda := rfl
@[simp] theorem setCtReg_turn (s : State) (c i : Nat) (v : Word) : (s.setCtReg c i v).turn = s.turn := rfl
@[simp] theorem setCtReg_hubCyc (s : State) (c i : Nat) (v : Word) : (s.setCtReg c i v).hubCyc = s.hubCyc := rfl
@[simp] theorem setCtReg_moment (s : State) (c i : Nat) (v : Word) : (s.setCtReg c i v).moment = s.moment := rfl
@[simp] theorem setCtReg_codeOld (s : State) (c i : Nat) (v : Word) : (s.setCtReg c i v).codeOld = s.codeOld := rfl
@[simp] theorem setCtReg_served (s : State) (c i : Nat) (v : Word) : (s.setCtReg c i v).served = s.served := rfl
@[simp] theorem setCtReg_loads (s : State) (c i : Nat) (v : Word) : (s.setCtReg c i v).loads = s.loads := rfl
@[simp] theorem setCtReg_freeCtr (s : State) (c i : Nat) (v : Word) : (s.setCtReg c i v).freeCtr = s.freeCtr := rfl
@[simp] theorem setCtReg_opCtr (s : State) (c i : Nat) (v : Word) : (s.setCtReg c i v).opCtr = s.opCtr := rfl

@[simp] theorem setPtReg_ctxs (s : State) (p i : Nat) (v : Word) : (s.setPtReg p i v).ctxs = s.ctxs := rfl
@[simp] theorem setPtReg_grids (s : State) (p i : Nat) (v : Word) : (s.setPtReg p i v).grids = s.grids := rfl
@[simp] theorem setPtReg_teams (s : State) (p i : Nat) (v : Word) : (s.setPtReg p i v).teams = s.teams := rfl
@[simp] theorem setPtReg_heldLag (s : State) (p i : Nat) (v : Word) : (s.setPtReg p i v).heldLag = s.heldLag := rfl
@[simp] theorem setPtReg_cores (s : State) (p i : Nat) (v : Word) : (s.setPtReg p i v).cores = s.cores := rfl
@[simp] theorem setPtReg_clusters (s : State) (p i : Nat) (v : Word) : (s.setPtReg p i v).clusters = s.clusters := rfl
@[simp] theorem setPtReg_dies (s : State) (p i : Nat) (v : Word) : (s.setPtReg p i v).dies = s.dies := rfl
@[simp] theorem setPtReg_ops (s : State) (p i : Nat) (v : Word) : (s.setPtReg p i v).ops = s.ops := rfl
@[simp] theorem setPtReg_waiters (s : State) (p i : Nat) (v : Word) : (s.setPtReg p i v).waiters = s.waiters := rfl
@[simp] theorem setPtReg_home (s : State) (p i : Nat) (v : Word) : (s.setPtReg p i v).home = s.home := rfl
@[simp] theorem setPtReg_llc (s : State) (p i : Nat) (v : Word) : (s.setPtReg p i v).llc = s.llc := rfl
@[simp] theorem setPtReg_poison (s : State) (p i : Nat) (v : Word) : (s.setPtReg p i v).poison = s.poison := rfl
@[simp] theorem setPtReg_dv (s : State) (p i : Nat) (v : Word) : (s.setPtReg p i v).dv = s.dv := rfl
@[simp] theorem setPtReg_pw (s : State) (p i : Nat) (v : Word) : (s.setPtReg p i v).pw = s.pw := rfl
@[simp] theorem setPtReg_timeRef (s : State) (p i : Nat) (v : Word) : (s.setPtReg p i v).timeRef = s.timeRef := rfl
@[simp] theorem setPtReg_pkg (s : State) (p i : Nat) (v : Word) : (s.setPtReg p i v).pkg = s.pkg := rfl
@[simp] theorem setPtReg_pkgAt (s : State) (p i : Nat) (v : Word) : (s.setPtReg p i v).pkgAt = s.pkgAt := rfl
@[simp] theorem setPtReg_pkgDue (s : State) (p i : Nat) (v : Word) : (s.setPtReg p i v).pkgDue = s.pkgDue := rfl
@[simp] theorem setPtReg_rate (s : State) (p i : Nat) (v : Word) : (s.setPtReg p i v).rate = s.rate := rfl
@[simp] theorem setPtReg_above (s : State) (p i : Nat) (v : Word) : (s.setPtReg p i v).above = s.above := rfl
@[simp] theorem setPtReg_govAt (s : State) (p i : Nat) (v : Word) : (s.setPtReg p i v).govAt = s.govAt := rfl
@[simp] theorem setPtReg_intentAt (s : State) (p i : Nat) (v : Word) : (s.setPtReg p i v).intentAt = s.intentAt := rfl
@[simp] theorem setPtReg_plan (s : State) (p i : Nat) (v : Word) : (s.setPtReg p i v).plan = s.plan := rfl
@[simp] theorem setPtReg_rises (s : State) (p i : Nat) (v : Word) : (s.setPtReg p i v).rises = s.rises := rfl
@[simp] theorem setPtReg_droopOld (s : State) (p i : Nat) (v : Word) : (s.setPtReg p i v).droopOld = s.droopOld := rfl
@[simp] theorem setPtReg_sec (s : State) (p i : Nat) (v : Word) : (s.setPtReg p i v).sec = s.sec := rfl
@[simp] theorem setPtReg_awaiting (s : State) (p i : Nat) (v : Word) : (s.setPtReg p i v).awaiting = s.awaiting := rfl
@[simp] theorem setPtReg_msixPend (s : State) (p i : Nat) (v : Word) : (s.setPtReg p i v).msixPend = s.msixPend := rfl
@[simp] theorem setPtReg_msixMask (s : State) (p i : Nat) (v : Word) : (s.setPtReg p i v).msixMask = s.msixMask := rfl
@[simp] theorem setPtReg_out (s : State) (p i : Nat) (v : Word) : (s.setPtReg p i v).out = s.out := rfl
@[simp] theorem setPtReg_intents (s : State) (p i : Nat) (v : Word) : (s.setPtReg p i v).intents = s.intents := rfl
@[simp] theorem setPtReg_intentSeq (s : State) (p i : Nat) (v : Word) : (s.setPtReg p i v).intentSeq = s.intentSeq := rfl
@[simp] theorem setPtReg_probes (s : State) (p i : Nat) (v : Word) : (s.setPtReg p i v).probes = s.probes := rfl
@[simp] theorem setPtReg_issuer (s : State) (p i : Nat) (v : Word) : (s.setPtReg p i v).issuer = s.issuer := rfl
@[simp] theorem setPtReg_agenda (s : State) (p i : Nat) (v : Word) : (s.setPtReg p i v).agenda = s.agenda := rfl
@[simp] theorem setPtReg_turn (s : State) (p i : Nat) (v : Word) : (s.setPtReg p i v).turn = s.turn := rfl
@[simp] theorem setPtReg_hubCyc (s : State) (p i : Nat) (v : Word) : (s.setPtReg p i v).hubCyc = s.hubCyc := rfl
@[simp] theorem setPtReg_moment (s : State) (p i : Nat) (v : Word) : (s.setPtReg p i v).moment = s.moment := rfl
@[simp] theorem setPtReg_codeOld (s : State) (p i : Nat) (v : Word) : (s.setPtReg p i v).codeOld = s.codeOld := rfl
@[simp] theorem setPtReg_served (s : State) (p i : Nat) (v : Word) : (s.setPtReg p i v).served = s.served := rfl
@[simp] theorem setPtReg_loads (s : State) (p i : Nat) (v : Word) : (s.setPtReg p i v).loads = s.loads := rfl
@[simp] theorem setPtReg_freeCtr (s : State) (p i : Nat) (v : Word) : (s.setPtReg p i v).freeCtr = s.freeCtr := rfl
@[simp] theorem setPtReg_opCtr (s : State) (p i : Nat) (v : Word) : (s.setPtReg p i v).opCtr = s.opCtr := rfl

@[simp] theorem putWave_parts (s : State) (k : WaveKey) (w : Wave) : (s.putWave k w).parts = s.parts := by unfold putWave; split <;> rfl
@[simp] theorem putWave_ctxs (s : State) (k : WaveKey) (w : Wave) : (s.putWave k w).ctxs = s.ctxs := by unfold putWave; split <;> rfl
@[simp] theorem putWave_grids (s : State) (k : WaveKey) (w : Wave) : (s.putWave k w).grids = s.grids := by unfold putWave; split <;> rfl
@[simp] theorem putWave_heldLag (s : State) (k : WaveKey) (w : Wave) : (s.putWave k w).heldLag = s.heldLag := by unfold putWave; split <;> rfl
@[simp] theorem putWave_cores (s : State) (k : WaveKey) (w : Wave) : (s.putWave k w).cores = s.cores := by unfold putWave; split <;> rfl
@[simp] theorem putWave_clusters (s : State) (k : WaveKey) (w : Wave) : (s.putWave k w).clusters = s.clusters := by unfold putWave; split <;> rfl
@[simp] theorem putWave_dies (s : State) (k : WaveKey) (w : Wave) : (s.putWave k w).dies = s.dies := by unfold putWave; split <;> rfl
@[simp] theorem putWave_ops (s : State) (k : WaveKey) (w : Wave) : (s.putWave k w).ops = s.ops := by unfold putWave; split <;> rfl
@[simp] theorem putWave_waiters (s : State) (k : WaveKey) (w : Wave) : (s.putWave k w).waiters = s.waiters := by unfold putWave; split <;> rfl
@[simp] theorem putWave_home (s : State) (k : WaveKey) (w : Wave) : (s.putWave k w).home = s.home := by unfold putWave; split <;> rfl
@[simp] theorem putWave_llc (s : State) (k : WaveKey) (w : Wave) : (s.putWave k w).llc = s.llc := by unfold putWave; split <;> rfl
@[simp] theorem putWave_poison (s : State) (k : WaveKey) (w : Wave) : (s.putWave k w).poison = s.poison := by unfold putWave; split <;> rfl
@[simp] theorem putWave_dv (s : State) (k : WaveKey) (w : Wave) : (s.putWave k w).dv = s.dv := by unfold putWave; split <;> rfl
@[simp] theorem putWave_pw (s : State) (k : WaveKey) (w : Wave) : (s.putWave k w).pw = s.pw := by unfold putWave; split <;> rfl
@[simp] theorem putWave_timeRef (s : State) (k : WaveKey) (w : Wave) : (s.putWave k w).timeRef = s.timeRef := by unfold putWave; split <;> rfl
@[simp] theorem putWave_pkg (s : State) (k : WaveKey) (w : Wave) : (s.putWave k w).pkg = s.pkg := by unfold putWave; split <;> rfl
@[simp] theorem putWave_pkgAt (s : State) (k : WaveKey) (w : Wave) : (s.putWave k w).pkgAt = s.pkgAt := by unfold putWave; split <;> rfl
@[simp] theorem putWave_pkgDue (s : State) (k : WaveKey) (w : Wave) : (s.putWave k w).pkgDue = s.pkgDue := by unfold putWave; split <;> rfl
@[simp] theorem putWave_rate (s : State) (k : WaveKey) (w : Wave) : (s.putWave k w).rate = s.rate := by unfold putWave; split <;> rfl
@[simp] theorem putWave_above (s : State) (k : WaveKey) (w : Wave) : (s.putWave k w).above = s.above := by unfold putWave; split <;> rfl
@[simp] theorem putWave_govAt (s : State) (k : WaveKey) (w : Wave) : (s.putWave k w).govAt = s.govAt := by unfold putWave; split <;> rfl
@[simp] theorem putWave_intentAt (s : State) (k : WaveKey) (w : Wave) : (s.putWave k w).intentAt = s.intentAt := by unfold putWave; split <;> rfl
@[simp] theorem putWave_plan (s : State) (k : WaveKey) (w : Wave) : (s.putWave k w).plan = s.plan := by unfold putWave; split <;> rfl
@[simp] theorem putWave_rises (s : State) (k : WaveKey) (w : Wave) : (s.putWave k w).rises = s.rises := by unfold putWave; split <;> rfl
@[simp] theorem putWave_droopOld (s : State) (k : WaveKey) (w : Wave) : (s.putWave k w).droopOld = s.droopOld := by unfold putWave; split <;> rfl
@[simp] theorem putWave_sec (s : State) (k : WaveKey) (w : Wave) : (s.putWave k w).sec = s.sec := by unfold putWave; split <;> rfl
@[simp] theorem putWave_awaiting (s : State) (k : WaveKey) (w : Wave) : (s.putWave k w).awaiting = s.awaiting := by unfold putWave; split <;> rfl
@[simp] theorem putWave_msixPend (s : State) (k : WaveKey) (w : Wave) : (s.putWave k w).msixPend = s.msixPend := by unfold putWave; split <;> rfl
@[simp] theorem putWave_msixMask (s : State) (k : WaveKey) (w : Wave) : (s.putWave k w).msixMask = s.msixMask := by unfold putWave; split <;> rfl
@[simp] theorem putWave_out (s : State) (k : WaveKey) (w : Wave) : (s.putWave k w).out = s.out := by unfold putWave; split <;> rfl
@[simp] theorem putWave_intents (s : State) (k : WaveKey) (w : Wave) : (s.putWave k w).intents = s.intents := by unfold putWave; split <;> rfl
@[simp] theorem putWave_intentSeq (s : State) (k : WaveKey) (w : Wave) : (s.putWave k w).intentSeq = s.intentSeq := by unfold putWave; split <;> rfl
@[simp] theorem putWave_probes (s : State) (k : WaveKey) (w : Wave) : (s.putWave k w).probes = s.probes := by unfold putWave; split <;> rfl
@[simp] theorem putWave_issuer (s : State) (k : WaveKey) (w : Wave) : (s.putWave k w).issuer = s.issuer := by unfold putWave; split <;> rfl
@[simp] theorem putWave_agenda (s : State) (k : WaveKey) (w : Wave) : (s.putWave k w).agenda = s.agenda := by unfold putWave; split <;> rfl
@[simp] theorem putWave_turn (s : State) (k : WaveKey) (w : Wave) : (s.putWave k w).turn = s.turn := by unfold putWave; split <;> rfl
@[simp] theorem putWave_hubCyc (s : State) (k : WaveKey) (w : Wave) : (s.putWave k w).hubCyc = s.hubCyc := by unfold putWave; split <;> rfl
@[simp] theorem putWave_moment (s : State) (k : WaveKey) (w : Wave) : (s.putWave k w).moment = s.moment := by unfold putWave; split <;> rfl
@[simp] theorem putWave_codeOld (s : State) (k : WaveKey) (w : Wave) : (s.putWave k w).codeOld = s.codeOld := by unfold putWave; split <;> rfl
@[simp] theorem putWave_served (s : State) (k : WaveKey) (w : Wave) : (s.putWave k w).served = s.served := by unfold putWave; split <;> rfl
@[simp] theorem putWave_loads (s : State) (k : WaveKey) (w : Wave) : (s.putWave k w).loads = s.loads := by unfold putWave; split <;> rfl
@[simp] theorem putWave_freeCtr (s : State) (k : WaveKey) (w : Wave) : (s.putWave k w).freeCtr = s.freeCtr := by unfold putWave; split <;> rfl
@[simp] theorem putWave_opCtr (s : State) (k : WaveKey) (w : Wave) : (s.putWave k w).opCtr = s.opCtr := by unfold putWave; split <;> rfl

@[simp] theorem putAgent_parts (s : State) (a : Agent) (w : Wave) : (s.putAgent a w).parts = s.parts := by cases a <;> simp [putAgent]
@[simp] theorem putAgent_grids (s : State) (a : Agent) (w : Wave) : (s.putAgent a w).grids = s.grids := by cases a <;> simp [putAgent]
@[simp] theorem putAgent_heldLag (s : State) (a : Agent) (w : Wave) : (s.putAgent a w).heldLag = s.heldLag := by cases a <;> simp [putAgent]
@[simp] theorem putAgent_cores (s : State) (a : Agent) (w : Wave) : (s.putAgent a w).cores = s.cores := by cases a <;> simp [putAgent]
@[simp] theorem putAgent_clusters (s : State) (a : Agent) (w : Wave) : (s.putAgent a w).clusters = s.clusters := by cases a <;> simp [putAgent]
@[simp] theorem putAgent_dies (s : State) (a : Agent) (w : Wave) : (s.putAgent a w).dies = s.dies := by cases a <;> simp [putAgent]
@[simp] theorem putAgent_ops (s : State) (a : Agent) (w : Wave) : (s.putAgent a w).ops = s.ops := by cases a <;> simp [putAgent]
@[simp] theorem putAgent_waiters (s : State) (a : Agent) (w : Wave) : (s.putAgent a w).waiters = s.waiters := by cases a <;> simp [putAgent]
@[simp] theorem putAgent_home (s : State) (a : Agent) (w : Wave) : (s.putAgent a w).home = s.home := by cases a <;> simp [putAgent]
@[simp] theorem putAgent_llc (s : State) (a : Agent) (w : Wave) : (s.putAgent a w).llc = s.llc := by cases a <;> simp [putAgent]
@[simp] theorem putAgent_poison (s : State) (a : Agent) (w : Wave) : (s.putAgent a w).poison = s.poison := by cases a <;> simp [putAgent]
@[simp] theorem putAgent_dv (s : State) (a : Agent) (w : Wave) : (s.putAgent a w).dv = s.dv := by cases a <;> simp [putAgent]
@[simp] theorem putAgent_pw (s : State) (a : Agent) (w : Wave) : (s.putAgent a w).pw = s.pw := by cases a <;> simp [putAgent]
@[simp] theorem putAgent_timeRef (s : State) (a : Agent) (w : Wave) : (s.putAgent a w).timeRef = s.timeRef := by cases a <;> simp [putAgent]
@[simp] theorem putAgent_pkg (s : State) (a : Agent) (w : Wave) : (s.putAgent a w).pkg = s.pkg := by cases a <;> simp [putAgent]
@[simp] theorem putAgent_pkgAt (s : State) (a : Agent) (w : Wave) : (s.putAgent a w).pkgAt = s.pkgAt := by cases a <;> simp [putAgent]
@[simp] theorem putAgent_pkgDue (s : State) (a : Agent) (w : Wave) : (s.putAgent a w).pkgDue = s.pkgDue := by cases a <;> simp [putAgent]
@[simp] theorem putAgent_rate (s : State) (a : Agent) (w : Wave) : (s.putAgent a w).rate = s.rate := by cases a <;> simp [putAgent]
@[simp] theorem putAgent_above (s : State) (a : Agent) (w : Wave) : (s.putAgent a w).above = s.above := by cases a <;> simp [putAgent]
@[simp] theorem putAgent_govAt (s : State) (a : Agent) (w : Wave) : (s.putAgent a w).govAt = s.govAt := by cases a <;> simp [putAgent]
@[simp] theorem putAgent_intentAt (s : State) (a : Agent) (w : Wave) : (s.putAgent a w).intentAt = s.intentAt := by cases a <;> simp [putAgent]
@[simp] theorem putAgent_plan (s : State) (a : Agent) (w : Wave) : (s.putAgent a w).plan = s.plan := by cases a <;> simp [putAgent]
@[simp] theorem putAgent_rises (s : State) (a : Agent) (w : Wave) : (s.putAgent a w).rises = s.rises := by cases a <;> simp [putAgent]
@[simp] theorem putAgent_droopOld (s : State) (a : Agent) (w : Wave) : (s.putAgent a w).droopOld = s.droopOld := by cases a <;> simp [putAgent]
@[simp] theorem putAgent_sec (s : State) (a : Agent) (w : Wave) : (s.putAgent a w).sec = s.sec := by cases a <;> simp [putAgent]
@[simp] theorem putAgent_awaiting (s : State) (a : Agent) (w : Wave) : (s.putAgent a w).awaiting = s.awaiting := by cases a <;> simp [putAgent]
@[simp] theorem putAgent_msixPend (s : State) (a : Agent) (w : Wave) : (s.putAgent a w).msixPend = s.msixPend := by cases a <;> simp [putAgent]
@[simp] theorem putAgent_msixMask (s : State) (a : Agent) (w : Wave) : (s.putAgent a w).msixMask = s.msixMask := by cases a <;> simp [putAgent]
@[simp] theorem putAgent_out (s : State) (a : Agent) (w : Wave) : (s.putAgent a w).out = s.out := by cases a <;> simp [putAgent]
@[simp] theorem putAgent_intents (s : State) (a : Agent) (w : Wave) : (s.putAgent a w).intents = s.intents := by cases a <;> simp [putAgent]
@[simp] theorem putAgent_intentSeq (s : State) (a : Agent) (w : Wave) : (s.putAgent a w).intentSeq = s.intentSeq := by cases a <;> simp [putAgent]
@[simp] theorem putAgent_probes (s : State) (a : Agent) (w : Wave) : (s.putAgent a w).probes = s.probes := by cases a <;> simp [putAgent]
@[simp] theorem putAgent_issuer (s : State) (a : Agent) (w : Wave) : (s.putAgent a w).issuer = s.issuer := by cases a <;> simp [putAgent]
@[simp] theorem putAgent_agenda (s : State) (a : Agent) (w : Wave) : (s.putAgent a w).agenda = s.agenda := by cases a <;> simp [putAgent]
@[simp] theorem putAgent_turn (s : State) (a : Agent) (w : Wave) : (s.putAgent a w).turn = s.turn := by cases a <;> simp [putAgent]
@[simp] theorem putAgent_hubCyc (s : State) (a : Agent) (w : Wave) : (s.putAgent a w).hubCyc = s.hubCyc := by cases a <;> simp [putAgent]
@[simp] theorem putAgent_moment (s : State) (a : Agent) (w : Wave) : (s.putAgent a w).moment = s.moment := by cases a <;> simp [putAgent]
@[simp] theorem putAgent_codeOld (s : State) (a : Agent) (w : Wave) : (s.putAgent a w).codeOld = s.codeOld := by cases a <;> simp [putAgent]
@[simp] theorem putAgent_served (s : State) (a : Agent) (w : Wave) : (s.putAgent a w).served = s.served := by cases a <;> simp [putAgent]
@[simp] theorem putAgent_loads (s : State) (a : Agent) (w : Wave) : (s.putAgent a w).loads = s.loads := by cases a <;> simp [putAgent]
@[simp] theorem putAgent_freeCtr (s : State) (a : Agent) (w : Wave) : (s.putAgent a w).freeCtr = s.freeCtr := by cases a <;> simp [putAgent]
@[simp] theorem putAgent_opCtr (s : State) (a : Agent) (w : Wave) : (s.putAgent a w).opCtr = s.opCtr := by cases a <;> simp [putAgent]

end State

end Sys2Proof.Machine
end

