-- ==== Sys2Proof/Laws/Agent.lean ====
section
/-! SUPPORT. Reading and writing agents' waves, and the registers and threads of a wave. -/

set_option Elab.async false

namespace Sys2Proof.Machine

open Sys2Proof

/-! Agents. -/

theorem State.agent?_putAgent {s : State} {a : Agent} {v : Wave} (h : s.agent? a = some v) (w : Wave) :
    (s.putAgent a w).agent? a = some w := by
  cases a with
  | wave k =>
    simp only [agent?, wave?, putAgent, putWave, team?] at *
    cases ht : assocGet s.teams k.team with
    | none => simp [ht] at h
    | some t =>
      simp [ht] at h
      obtain ⟨hlt, -⟩ := List.getElem?_eq_some_iff.1 h
      simp [putTeam, hlt]
  | cp c =>
    simp only [agent?, ctx?, putAgent, putCtx] at *
    cases hc : s.ctxs[c]? with
    | none => simp [hc] at h
    | some y =>
      obtain ⟨hlt, -⟩ := List.getElem?_eq_some_iff.1 hc
      simp [hlt]

theorem State.putAgent_putAgent {s : State} {a : Agent} (v w : Wave) :
    (s.putAgent a v).putAgent a w = s.putAgent a w := by
  cases a with
  | wave k =>
    simp only [putAgent, putWave, team?]
    cases ht : assocGet s.teams k.team with
    | none => simp [ht]
    | some t => simp [putTeam]
  | cp c =>
    simp only [putAgent, putCtx, ctx]
    by_cases hlt : c < s.ctxs.length
    · simp [hlt]
    · rw [List.set_eq_of_length_le (by simpa using hlt), List.set_eq_of_length_le (by simpa using hlt),
        List.set_eq_of_length_le (by simpa using hlt)]

theorem State.modAgent_putAgent {s : State} {a : Agent} {v : Wave} (h : s.agent? a = some v) (w : Wave) (f : Wave → Wave) :
    (s.putAgent a w).modAgent a f = s.putAgent a (f w) := by
  unfold modAgent
  rw [agent?_putAgent h]
  exact putAgent_putAgent w (f w)

theorem State.modAgent_some {s : State} {a : Agent} {v : Wave} (h : s.agent? a = some v) (f : Wave → Wave) :
    s.modAgent a f = s.putAgent a (f v) := by simp [modAgent, h]

theorem State.issuer?_agent {s : State} {x : Issuer} (h : s.issuer? = some x) : s.agent? x.a = some x.w ∧ x.e = x.w.lead := by
  unfold issuer? at h
  split at h
  · cases h
  · split at h
    · cases h
    · split at h
      · cases h
      · cases h; exact ⟨‹_›, rfl⟩

/-! Registers. -/

namespace Wave

@[simp] theorem unsync_threads (w : Wave) (off n : Nat) : (w.unsync off n).threads = w.threads := rfl
@[simp] theorem unsync_groups (w : Wave) (off n : Nat) : (w.unsync off n).groups = w.groups := rfl
@[simp] theorem unsync_v (w : Wave) (off n : Nat) : (w.unsync off n).v = w.v := rfl
@[simp] theorem unsync_k (w : Wave) (off n : Nat) : (w.unsync off n).k = w.k := rfl
@[simp] theorem unsync_spill (w : Wave) (off n : Nat) : (w.unsync off n).spill = w.spill := rfl
@[simp] theorem unsync_flags (w : Wave) (off n : Nat) : (w.unsync off n).flags = w.flags := rfl
@[simp] theorem unsync_masks (w : Wave) (off n : Nat) : (w.unsync off n).masks = w.masks := rfl
@[simp] theorem unsync_cls (w : Wave) (off n : Nat) : (w.unsync off n).cls = w.cls := rfl
@[simp] theorem unsync_absent (w : Wave) (off n : Nat) : (w.unsync off n).absent = w.absent := rfl
@[simp] theorem unsync_cpu (w : Wave) (off n : Nat) : (w.unsync off n).cpu = w.cpu := rfl

theorem setK_kreg (w : Wave) (n m : Nat) (x : Word) : (w.setK n x).kreg m = if m = n then x else w.kreg m := Tab.get_put ..

@[simp] theorem setK_cpu (w : Wave) (n : Nat) (x : Word) : (w.setK n x).cpu = w.cpu := rfl
@[simp] theorem setK_v (w : Wave) (n : Nat) (x : Word) : (w.setK n x).v = w.v := rfl
@[simp] theorem setK_threads (w : Wave) (n : Nat) (x : Word) : (w.setK n x).threads = w.threads := rfl
@[simp] theorem setV_cpu (w : Wave) (n l : Nat) (x : Word) : (w.setV n l x).cpu = w.cpu := by unfold setV; split <;> rfl
@[simp] theorem setV_threads (w : Wave) (n l : Nat) (x : Word) : (w.setV n l x).threads = w.threads := by unfold setV; split <;> rfl

theorem setV_vreg (w : Wave) (n l m j : Nat) (x : Word) (hl : l < 32) (hj : j < 32) :
    (w.setV n l x).vreg m j = if m = n ∧ (w.cpu = true ∨ j = l) then x else w.vreg m j := by
  unfold setV vreg
  by_cases hc : w.cpu = true
  · simp [hc, setK_kreg]
  · simp only [hc, Bool.false_eq_true, if_false, unsync_cpu, Tab.get_put, false_or]
    congr 1
    apply propext
    constructor
    · intro h; omega
    · rintro ⟨rfl, rfl⟩; rfl

theorem setV_kreg (w : Wave) (n l m : Nat) (x : Word) : (w.setV n l x).kreg m = if w.cpu = true ∧ m = n then x else w.kreg m := by
  unfold setV
  by_cases hc : w.cpu = true
  · simp [hc, setK_kreg]
  · simp [hc, kreg]

end Wave

/-- What a fold over lanes leaves where every step keeps it. -/
theorem Wave.forLanes_keeps {α : Type} (p : Wave → α) (f : Nat → Wave → Wave) (h : ∀ l w, p (f l w) = p w) (w : Wave) (m : LaneMask) :
    p (w.forLanes m f) = p w := by
  unfold forLanes
  induction lanesOf m generalizing w with
  | nil => rfl
  | cons l ls ih => simp only [List.foldl_cons]; rw [ih, h]

theorem laneBit_getLsbD (l i : Nat) (hl : l < 32) (hi : i < 32) : (laneBit l).getLsbD i = decide (i = l) := by
  unfold laneBit
  have : (BitVec.ofNat 32 (2 ^ l)) = BitVec.twoPow 32 l := by
    apply BitVec.eq_of_toNat_eq; simp [BitVec.toNat_twoPow]
  rw [this, BitVec.getLsbD_twoPow]
  by_cases h : i = l
  · subst h; simp [hi]
  · simp [h, Ne.symm h]

theorem foldl_or_getLsbD (p : Nat → Bool) (ls : List Nat) (hls : ∀ l ∈ ls, l < 32) (m : LaneMask) (i : Nat) (hi : i < 32) :
    (ls.foldl (fun m l => if p l then m ||| laneBit l else m) m).getLsbD i = (m.getLsbD i || (decide (i ∈ ls) && p i)) := by
  induction ls generalizing m with
  | nil => simp
  | cons l ls ih =>
    simp only [List.foldl_cons]
    rw [ih (fun k hk => hls k (by simp [hk]))]
    by_cases hp : p l = true
    · simp only [hp, if_true, BitVec.getLsbD_or, laneBit_getLsbD l i (hls l (by simp)) hi]
      by_cases hil : i = l
      · subst hil; simp [hp]
      · simp [hil]
    · by_cases hil : i = l
      · subst hil; simp [hp]
      · simp [hp, hil]

/-- The mask of the lanes that pass a test holds them. -/
theorem maskOf_getLsbD (p : Nat → Bool) {l : Nat} (hl : l < 32) : (maskOf p).getLsbD l = p l := by
  unfold maskOf
  rw [foldl_or_getLsbD p _ (fun k hk => by simpa using hk) 0 l hl]
  simp [hl]

theorem mem_lanesOf (m : LaneMask) (l : Nat) : l ∈ lanesOf m ↔ l < 32 ∧ m.getLsbD l = true := by simp [lanesOf]

theorem lanesOf_lt {m : LaneMask} {l : Nat} (h : l ∈ lanesOf m) : l < 32 := ((mem_lanesOf m l).1 h).1

theorem Wave.foldl_setV (d : Nat) (f : Nat → Word) (ls : List Nat) (hls : ∀ l ∈ ls, l < 32) (w : Wave) :
    let w' := ls.foldl (fun v l => v.setV d l (f l)) w
    w'.cpu = w.cpu ∧
      (∀ n j, j < 32 → n ≠ d → w'.vreg n j = w.vreg n j) ∧
      (w.cpu = false → (∀ j, j < 32 → w'.vreg d j = if j ∈ ls then f j else w.vreg d j) ∧ ∀ n, w'.kreg n = w.kreg n) ∧
      (w.cpu = true → ∀ c, (∀ l ∈ ls, f l = c) → ls ≠ [] → ∀ j, w'.vreg d j = c) := by
  induction ls using List.reverseRecOn with
  | nil => simp
  | append_singleton ls l ih =>
    have hl : l < 32 := hls l (by simp)
    obtain ⟨h1, h2, h3, h4⟩ := ih fun m hm => hls m (by simp [hm])
    simp only [List.foldl_append, List.foldl_cons, List.foldl_nil] at *
    generalize List.foldl (fun v l => v.setV d l (f l)) w ls = w' at *
    refine ⟨by simp [h1], fun n j hj hn => by rw [setV_vreg _ _ _ _ _ _ hl hj]; simp [hn, h2 n j hj hn], fun hc => ⟨fun j hj => ?_, fun n => ?_⟩,
      fun hc c hf _ j => ?_⟩
    · rw [setV_vreg _ _ _ _ _ _ hl hj, (h3 hc).1 j hj]
      have : w'.cpu ≠ true := by simp [h1, hc]
      simp only [true_and, this, List.mem_append, List.mem_singleton]
      by_cases hjl : j = l
      · simp [hjl]
      · simp [hjl]
    · rw [setV_kreg, (h3 hc).2 n]; simp [h1, hc]
    · have hf' := hf l (by simp)
      unfold vreg setV
      simp [h1, hc, hf', setK_kreg]

/-- Writing a word to a register of every lane of a mask (R181). -/
theorem Wave.writeLanes_spec (w : Wave) (e : LaneMask) (d : Nat) (f : Nat → Word) :
    (∀ n j, j < 32 → n ≠ d → (w.writeLanes e d f).vreg n j = w.vreg n j) ∧
      (w.cpu = false →
        (∀ j, j < 32 → (w.writeLanes e d f).vreg d j = if e.getLsbD j then f j else w.vreg d j) ∧
          ∀ n, (w.writeLanes e d f).kreg n = w.kreg n) ∧
      (w.cpu = true → ∀ c, (∀ l, f l = c) → e ≠ 0#32 → ∀ j, (w.writeLanes e d f).vreg d j = c) := by
  obtain ⟨-, h2, h3, h4⟩ := Wave.foldl_setV d f (lanesOf e) (fun l hl => lanesOf_lt hl) w
  refine ⟨h2, fun hc => ⟨fun j hj => ?_, (h3 hc).2⟩, fun hc c hf he j => h4 hc c (fun l _ => hf l) ?_ j⟩
  · have := (h3 hc).1 j hj
    simpa [writeLanes, forLanes, mem_lanesOf, hj] using this
  · intro h0
    apply he
    apply BitVec.eq_of_getLsbD_eq
    intro i hi
    have : i ∉ lanesOf e := by rw [h0]; simp
    rw [mem_lanesOf] at this
    simp at this
    simpa using this hi

end Sys2Proof.Machine
end

