-- ==== Sys2Proof/Laws/Decode.lean ====
section
/-! SUPPORT. Layouts, rows and bytes: reading the fields of a word gives back what was packed, and the row that a word fits is the only
one of its major opcode. -/

set_option Elab.async false

namespace Sys2Proof

/-! Layouts. -/

namespace Layout

/-- One value for each operand field, none too large for it. -/
def fits : Layout → List Nat → Bool
  | [], fs => fs.isEmpty
  | (n, some v) :: l, fs => decide (v < 2 ^ n) && fits l fs
  | (n, none) :: l, f :: fs => decide (f < 2 ^ n) && fits l fs
  | (_, none) :: _, [] => false

/-- The bits of a layout. -/
def width : Layout → Nat
  | [] => 0
  | (n, _) :: l => n + width l

theorem unpack_pack {l : Layout} {fs : List Nat} (h : l.fits fs = true) : l.unpack (l.pack fs) = some fs := by
  induction l generalizing fs with
  | nil => cases fs <;> simp_all [fits, unpack]
  | cons p l ih =>
    obtain ⟨n, v⟩ := p
    have hn : 0 < 2 ^ n := Nat.two_pow_pos n
    cases v with
    | some v =>
      simp only [fits, Bool.and_eq_true, decide_eq_true_eq] at h
      have h1 : (v + 2 ^ n * pack l fs) % 2 ^ n = v := by rw [Nat.add_mul_mod_self_left, Nat.mod_eq_of_lt h.1]
      have h2 : (v + 2 ^ n * pack l fs) / 2 ^ n = pack l fs := by
        rw [Nat.add_mul_div_left _ _ hn, Nat.div_eq_of_lt h.1, Nat.zero_add]
      simp only [unpack, pack, h1, h2, if_true]
      exact ih h.2
    | none =>
      cases fs with
      | nil => simp [fits] at h
      | cons f fs =>
        simp only [fits, Bool.and_eq_true, decide_eq_true_eq] at h
        simp only [unpack, pack]
        rw [Nat.add_mul_mod_self_left, Nat.mod_eq_of_lt h.1, Nat.add_mul_div_left _ _ hn, Nat.div_eq_of_lt h.1, Nat.zero_add, ih h.2]
        rfl

theorem pack_lt {l : Layout} {fs : List Nat} (h : l.fits fs = true) : l.pack fs < 2 ^ l.width := by
  induction l generalizing fs with
  | nil => simp [pack, width]
  | cons p l ih =>
    obtain ⟨n, v⟩ := p
    have step {f x : Nat} (hf : f < 2 ^ n) (hx : x < 2 ^ width l) : f + 2 ^ n * x < 2 ^ (n + width l) := by
      rw [Nat.pow_add]
      calc f + 2 ^ n * x < 2 ^ n + 2 ^ n * x := by omega
        _ = 2 ^ n * (x + 1) := by ring
        _ ≤ 2 ^ n * 2 ^ width l := Nat.mul_le_mul_left _ hx
    cases v with
    | some v =>
      simp only [fits, Bool.and_eq_true, decide_eq_true_eq] at h
      exact step h.1 (ih h.2)
    | none =>
      cases fs with
      | nil => simp [fits] at h
      | cons f fs =>
        simp only [fits, Bool.and_eq_true, decide_eq_true_eq] at h
        exact step h.1 (ih h.2)

theorem land_add_mul {a b c d n : Nat} (ha : a < 2 ^ n) (hc : c < 2 ^ n) :
    (a + 2 ^ n * b) &&& (c + 2 ^ n * d) = (a &&& c) + 2 ^ n * (b &&& d) := by
  have hac : a &&& c < 2 ^ n := Nat.and_lt_two_pow _ hc
  apply Nat.eq_of_testBit_eq
  intro i
  rw [Nat.add_comm a, Nat.add_comm c, Nat.add_comm (a &&& c), Nat.testBit_and, Nat.testBit_two_pow_mul_add _ ha,
    Nat.testBit_two_pow_mul_add _ hc, Nat.testBit_two_pow_mul_add _ hac]
  split <;> simp

/-- A word that fits a layout holds the bits that the layout fixes. -/
theorem land_mask {l : Layout} {w : Nat} {fs : List Nat} (h : l.unpack w = some fs) : w &&& l.mask = l.match := by
  induction l generalizing w fs with
  | nil => simp [mask, Layout.match]
  | cons p l ih =>
    obtain ⟨n, v⟩ := p
    have hn : 0 < 2 ^ n := Nat.two_pow_pos n
    have hw : w = w % 2 ^ n + 2 ^ n * (w / 2 ^ n) := by rw [Nat.mod_add_div]
    have hlt : w % 2 ^ n < 2 ^ n := Nat.mod_lt _ hn
    cases v with
    | some v =>
      simp only [unpack] at h
      split at h
      · rename_i hv
        simp only [mask, Layout.match]
        rw [hw, land_add_mul hlt (by omega), Nat.and_two_pow_sub_one_eq_mod, Nat.mod_mod, hv, ih h]
      · cases h
    | none =>
      simp only [unpack, Option.map_eq_some_iff] at h
      obtain ⟨fs', h, -⟩ := h
      simp only [mask, Layout.match]
      have := land_add_mul (b := w / 2 ^ n) (d := mask l) hlt hn
      rw [Nat.zero_add, Nat.and_zero, Nat.zero_add, ← hw] at this
      rw [this, ih h]

/-- A word that fits one of two clashing layouts does not fit the other. -/
theorem unpack_clash {a b : Layout} {w : Nat} {fs : List Nat} (h : a.unpack w = some fs) (hc : b.clash a = true) : b.unpack w = none := by
  cases hb : b.unpack w with
  | none => rfl
  | some gs =>
    have h1 := land_mask h
    have h2 := land_mask hb
    have : b.match &&& a.mask = a.match &&& b.mask := by
      rw [← h1, ← h2, Nat.and_assoc, Nat.and_assoc, Nat.and_comm b.mask]
    simp [clash, this] at hc

end Layout

/-! Rows. -/

/-- The row that a word fits answers, where no earlier row fits. -/
theorem decodeRows_at {rs : List DecodeRow} {k : Nat} {l : Layout} {mk : List Nat → Option Instr} {w : Nat} {fs : List Nat}
    (hk : rs[k]? = some (l, mk)) (hu : l.unpack w = some fs) (hb : ∀ j r, j < k → rs[j]? = some r → r.1.unpack w = none) :
    decodeRows rs w = mk fs := by
  induction rs generalizing k with
  | nil => simp at hk
  | cons r rs ih =>
    cases k with
    | zero =>
      simp only [List.getElem?_cons_zero, Option.some.injEq] at hk
      subst hk
      simp [decodeRows, hu]
    | succ k =>
      have h0 := hb 0 r (by omega) (by simp)
      obtain ⟨a, b⟩ := r
      simp only [decodeRows, h0]
      exact ih (by simpa using hk) fun j r hj hr => hb (j + 1) r (by omega) (by simpa using hr)

/-- In a list of rows that clash in pairs, the row that a word fits answers. -/
theorem decodeRows_clash {rs : List DecodeRow} (hp : rs.Pairwise fun a b => a.1.clash b.1 = true) {k : Nat} {l : Layout}
    {mk : List Nat → Option Instr} {w : Nat} {fs : List Nat} (hk : rs[k]? = some (l, mk)) (hu : l.unpack w = some fs) :
    decodeRows rs w = mk fs := by
  refine decodeRows_at hk hu fun j r hj hr => Layout.unpack_clash hu ?_
  obtain ⟨hlk, hek⟩ := List.getElem?_eq_some_iff.1 hk
  obtain ⟨hlj, hej⟩ := List.getElem?_eq_some_iff.1 hr
  have := List.pairwise_iff_getElem.1 hp j k hlj hlk hj
  rw [hek, hej] at this
  exact this

/-! Bytes. -/

theorem ofNat8_toNat (w : Nat) : (BitVec.ofNat 8 w).toNat = w % 256 := by simp

/-- The word that four bytes give back. -/
theorem decode_le32 {w : Nat} (h : w < 2 ^ 32) (hodd : w % 2 = 1) (rest : List Byte) :
    decode (leBytes (32 / 8) w ++ rest) = (decode32 w).map (·, rest) := by
  have h2 : w % 256 + 256 * (w / 256 % 256) + 65536 * (w / 256 / 256 % 256) + 16777216 * (w / 256 / 256 / 256 % 256) = w := by omega
  have h3 : ¬w % 256 % 2 = 0 := by omega
  simp only [show 32 / 8 = 4 from rfl, leBytes, List.cons_append, List.nil_append, decode, ofNat8_toNat, h2, h3, if_false]

/-- The word that two bytes give back. -/
theorem decode_le16 {w : Nat} (h : w < 2 ^ 16) (heven : w % 2 = 0) (rest : List Byte) :
    decode (leBytes (16 / 8) w ++ rest) = (decode16 w).map (·, rest) := by
  have h2 : w % 256 + 256 * (w / 256 % 256) = w := by omega
  have h3 : w % 256 % 2 = 0 := by omega
  simp only [show 16 / 8 = 2 from rfl, leBytes, List.cons_append, List.nil_append, decode, ofNat8_toNat, h2, h3, if_true]

/-- The low seven bits of a word are those of its first segment. -/
theorem Layout.pack_low {n v : Nat} (hn : 7 ≤ n) (l : Layout) (fs : List Nat) : Layout.pack ((n, some v) :: l) fs % 128 = v % 128 := by
  obtain ⟨m, rfl⟩ := Nat.exists_eq_add_of_le hn
  simp only [Layout.pack, Nat.pow_add]
  rw [show 2 ^ 7 * 2 ^ m * Layout.pack l fs = 128 * (2 ^ m * Layout.pack l fs) by ring, Nat.add_mul_mod_self_left]

/-- Decoding what a row's layout packed gives the row's instruction: 32-bit words. -/
theorem round_32 {i : Instr} {n v m : Nat} {l : Layout} {fs : List Nat} {rest : List Byte}
    (hf : Layout.fits ((n, some v) :: l) fs = true) (hw : Layout.width ((n, some v) :: l) = 32) (hn : 7 ≤ n) (hv : v % 128 = 2 * m + 1)
    (hm : m ≠ 0) (hr : decodeRows (rowsOfMajor m) (Layout.pack ((n, some v) :: l) fs) = some i) :
    decode (leBytes (32 / 8) (Layout.pack ((n, some v) :: l) fs) ++ rest) = .ok (i, rest) := by
  have h1 := Layout.pack_low (v := v) hn l fs
  have h2 := Layout.pack_lt hf
  rw [hw] at h2
  have h3 : Layout.pack ((n, some v) :: l) fs / 2 % 64 = m := by omega
  rw [decode_le32 h2 (by omega)]
  simp [decode32, h3, hm, hr, Except.map]

/-- Decoding what a row's layout packed gives the row's instruction: 16-bit forms. -/
theorem round_16 {i : Instr} {l : Layout} {fs : List Nat} {rest : List Byte} (hf : l.fits fs = true) (hw : l.width = 16)
    (hv : l.pack fs % 2 = 0) (hr : decodeRows rowsShort (l.pack fs) = some i) :
    decode (leBytes (16 / 8) (l.pack fs) ++ rest) = .ok (i, rest) := by
  have h2 := Layout.pack_lt hf
  rw [hw] at h2
  rw [decode_le16 h2 hv]
  simp [decode16, hr, Except.map]

end Sys2Proof
end

