-- ==== Sys2Proof/Laws/Alike.lean ====
section
/-! SUPPORT. Rows that issue as the first row of their family: they are ready when it is, and have its size. -/

set_option Elab.async false

namespace Sys2Proof.Machine

open Sys2Proof

/-- The major opcode is that of the first segment of the layout. -/
theorem majorOf_pack {i : Instr} {L : Layout} {fs : List Nat} (h : encodeWord i = some (32, L.pack fs)) {n v : Nat} {l : Layout}
    (hl : L = (n, some v) :: l) (hn : 7 ≤ n) : majorOf i = v % 128 / 2 := by
  subst hl
  have h1 := Layout.pack_low (v := v) hn l fs
  simp only [majorOf, h]
  omega

theorem Ready.alike {i j : Instr} (hc : ∀ s a th, encodingCause i s a th = encodingCause j s a th) (hv : vOps i = vOps j)
    (hs : ∀ t, spillEntries i t = spillEntries j t) (hf : countedBit i = countedBit j) (hk : kReads i = kReads j)
    (hr : ∀ t, spillReads i t = spillReads j t) (hx : sharedLines i = sharedLines j) (hp : ∀ t, spillFails i t = spillFails j t)
    (hw : vReads i = vReads j) {s : State} {x : Issuer} (h : Ready i s x) :
    Ready j s x := by
  refine ⟨h.issuer, ?_, ?_, (hc s x.a x.th) ▸ h.legal, ?_⟩
  · have := h.present; unfold Wave.missed neededLines Wave.spillOf at *; simpa only [hv, hs, hx, hp] using this
  · have := h.clean; unfold Wave.poisoned operandGranules Wave.spillOf at *; simpa only [hw, hk, hr, hp] using this
  · have := h.room; unfold flagFull flagOf at *; simpa only [hf] using this

/-- Two instructions of one major opcode below 10, or of major 11, that name no counted flag raise the same encoding cause
where their reserved fields and their ranges are alike. -/
theorem encodingCause_alike {i j : Instr} {m : Nat} (hm : m < 10 ∨ m = 11) (hi : majorOf i = m) (hj : majorOf j = m)
    (hr : reservedField i = reservedField j)
    (ci : cpAllowed i = decide (1 ≤ m ∧ m ≤ 5)) (cj : cpAllowed j = decide (1 ≤ m ∧ m ≤ 5))
    (bi : mustBeLast i = false) (bj : mustBeLast j = false)
    (fi : countedBit i = none) (fj : countedBit j = none) (gi : ∀ s a, outOfRange i s a = outOfRange j s a) (s : State) (a : Agent)
    (th : Thread) : encodingCause i s a th = encodingCause j s a th := by
  have h1 : ∀ k, majorOf k = m → lacksPrivilege k (s.level a) = false := fun k hk => by
    have : m ≠ 28 := by omega
    simp [lacksPrivilege, hk, this]
  have h2 : wrongPlace i a = wrongPlace j a := by
    have : m ≠ 26 := by omega
    cases a <;> simp [wrongPlace, ci, cj, hi, hj, this]
  simp only [encodingCause, hr, h2, h1 i hi, h1 j hj, bi, bj, flagOf, fi, fj, gi]

theorem ready_icmpNeI32 {d a b} {s : State} {x : Issuer} (h : Ready (.icmpNeI32 d a b) s x) : Ready (.icmpEqI32 d a b) s x := by
  have hi : majorOf (.icmpNeI32 d a b) = 5 := majorOf_pack (i := .icmpNeI32 d a b) (L := Layout.icmpNeI32) (fs := [d.toNat, a.toNat, b.toNat]) rfl rfl (by decide)
  have hj : majorOf (.icmpEqI32 d a b) = 5 := majorOf_pack (i := .icmpEqI32 d a b) (L := Layout.icmpEqI32) (fs := [d.toNat, a.toNat, b.toNat]) rfl rfl (by decide)
  exact h.alike (encodingCause_alike (by decide) hi hj rfl (by simp [cpAllowed, hi, show cpMemory (.icmpNeI32 d a b) = false from rfl])
    (by simp [cpAllowed, hj, show cpMemory (.icmpEqI32 d a b) = false from rfl])
    (by simp only [mustBeLast, hi]; rfl) (by simp only [mustBeLast, hj]; rfl) rfl rfl fun _ _ => rfl) rfl (fun _ => rfl) rfl rfl
    (fun _ => rfl) rfl (fun _ => rfl) rfl

theorem ready_icmpLtI32 {d a b} {s : State} {x : Issuer} (h : Ready (.icmpLtI32 d a b) s x) : Ready (.icmpEqI32 d a b) s x := by
  have hi : majorOf (.icmpLtI32 d a b) = 5 := majorOf_pack (i := .icmpLtI32 d a b) (L := Layout.icmpLtI32) (fs := [d.toNat, a.toNat, b.toNat]) rfl rfl (by decide)
  have hj : majorOf (.icmpEqI32 d a b) = 5 := majorOf_pack (i := .icmpEqI32 d a b) (L := Layout.icmpEqI32) (fs := [d.toNat, a.toNat, b.toNat]) rfl rfl (by decide)
  exact h.alike (encodingCause_alike (by decide) hi hj rfl (by simp [cpAllowed, hi, show cpMemory (.icmpLtI32 d a b) = false from rfl])
    (by simp [cpAllowed, hj, show cpMemory (.icmpEqI32 d a b) = false from rfl])
    (by simp only [mustBeLast, hi]; rfl) (by simp only [mustBeLast, hj]; rfl) rfl rfl fun _ _ => rfl) rfl (fun _ => rfl) rfl rfl
    (fun _ => rfl) rfl (fun _ => rfl) rfl

theorem ready_icmpLeI32 {d a b} {s : State} {x : Issuer} (h : Ready (.icmpLeI32 d a b) s x) : Ready (.icmpEqI32 d a b) s x := by
  have hi : majorOf (.icmpLeI32 d a b) = 5 := majorOf_pack (i := .icmpLeI32 d a b) (L := Layout.icmpLeI32) (fs := [d.toNat, a.toNat, b.toNat]) rfl rfl (by decide)
  have hj : majorOf (.icmpEqI32 d a b) = 5 := majorOf_pack (i := .icmpEqI32 d a b) (L := Layout.icmpEqI32) (fs := [d.toNat, a.toNat, b.toNat]) rfl rfl (by decide)
  exact h.alike (encodingCause_alike (by decide) hi hj rfl (by simp [cpAllowed, hi, show cpMemory (.icmpLeI32 d a b) = false from rfl])
    (by simp [cpAllowed, hj, show cpMemory (.icmpEqI32 d a b) = false from rfl])
    (by simp only [mustBeLast, hi]; rfl) (by simp only [mustBeLast, hj]; rfl) rfl rfl fun _ _ => rfl) rfl (fun _ => rfl) rfl rfl
    (fun _ => rfl) rfl (fun _ => rfl) rfl

theorem ready_icmpGtI32 {d a b} {s : State} {x : Issuer} (h : Ready (.icmpGtI32 d a b) s x) : Ready (.icmpEqI32 d a b) s x := by
  have hi : majorOf (.icmpGtI32 d a b) = 5 := majorOf_pack (i := .icmpGtI32 d a b) (L := Layout.icmpGtI32) (fs := [d.toNat, a.toNat, b.toNat]) rfl rfl (by decide)
  have hj : majorOf (.icmpEqI32 d a b) = 5 := majorOf_pack (i := .icmpEqI32 d a b) (L := Layout.icmpEqI32) (fs := [d.toNat, a.toNat, b.toNat]) rfl rfl (by decide)
  exact h.alike (encodingCause_alike (by decide) hi hj rfl (by simp [cpAllowed, hi, show cpMemory (.icmpGtI32 d a b) = false from rfl])
    (by simp [cpAllowed, hj, show cpMemory (.icmpEqI32 d a b) = false from rfl])
    (by simp only [mustBeLast, hi]; rfl) (by simp only [mustBeLast, hj]; rfl) rfl rfl fun _ _ => rfl) rfl (fun _ => rfl) rfl rfl
    (fun _ => rfl) rfl (fun _ => rfl) rfl

theorem ready_icmpGeI32 {d a b} {s : State} {x : Issuer} (h : Ready (.icmpGeI32 d a b) s x) : Ready (.icmpEqI32 d a b) s x := by
  have hi : majorOf (.icmpGeI32 d a b) = 5 := majorOf_pack (i := .icmpGeI32 d a b) (L := Layout.icmpGeI32) (fs := [d.toNat, a.toNat, b.toNat]) rfl rfl (by decide)
  have hj : majorOf (.icmpEqI32 d a b) = 5 := majorOf_pack (i := .icmpEqI32 d a b) (L := Layout.icmpEqI32) (fs := [d.toNat, a.toNat, b.toNat]) rfl rfl (by decide)
  exact h.alike (encodingCause_alike (by decide) hi hj rfl (by simp [cpAllowed, hi, show cpMemory (.icmpGeI32 d a b) = false from rfl])
    (by simp [cpAllowed, hj, show cpMemory (.icmpEqI32 d a b) = false from rfl])
    (by simp only [mustBeLast, hi]; rfl) (by simp only [mustBeLast, hj]; rfl) rfl rfl fun _ _ => rfl) rfl (fun _ => rfl) rfl rfl
    (fun _ => rfl) rfl (fun _ => rfl) rfl

theorem ready_icmpEqN32 {d a b} {s : State} {x : Issuer} (h : Ready (.icmpEqN32 d a b) s x) : Ready (.icmpEqI32 d a b) s x := by
  have hi : majorOf (.icmpEqN32 d a b) = 5 := majorOf_pack (i := .icmpEqN32 d a b) (L := Layout.icmpEqN32) (fs := [d.toNat, a.toNat, b.toNat]) rfl rfl (by decide)
  have hj : majorOf (.icmpEqI32 d a b) = 5 := majorOf_pack (i := .icmpEqI32 d a b) (L := Layout.icmpEqI32) (fs := [d.toNat, a.toNat, b.toNat]) rfl rfl (by decide)
  exact h.alike (encodingCause_alike (by decide) hi hj rfl (by simp [cpAllowed, hi, show cpMemory (.icmpEqN32 d a b) = false from rfl])
    (by simp [cpAllowed, hj, show cpMemory (.icmpEqI32 d a b) = false from rfl])
    (by simp only [mustBeLast, hi]; rfl) (by simp only [mustBeLast, hj]; rfl) rfl rfl fun _ _ => rfl) rfl (fun _ => rfl) rfl rfl
    (fun _ => rfl) rfl (fun _ => rfl) rfl

theorem ready_icmpNeN32 {d a b} {s : State} {x : Issuer} (h : Ready (.icmpNeN32 d a b) s x) : Ready (.icmpEqI32 d a b) s x := by
  have hi : majorOf (.icmpNeN32 d a b) = 5 := majorOf_pack (i := .icmpNeN32 d a b) (L := Layout.icmpNeN32) (fs := [d.toNat, a.toNat, b.toNat]) rfl rfl (by decide)
  have hj : majorOf (.icmpEqI32 d a b) = 5 := majorOf_pack (i := .icmpEqI32 d a b) (L := Layout.icmpEqI32) (fs := [d.toNat, a.toNat, b.toNat]) rfl rfl (by decide)
  exact h.alike (encodingCause_alike (by decide) hi hj rfl (by simp [cpAllowed, hi, show cpMemory (.icmpNeN32 d a b) = false from rfl])
    (by simp [cpAllowed, hj, show cpMemory (.icmpEqI32 d a b) = false from rfl])
    (by simp only [mustBeLast, hi]; rfl) (by simp only [mustBeLast, hj]; rfl) rfl rfl fun _ _ => rfl) rfl (fun _ => rfl) rfl rfl
    (fun _ => rfl) rfl (fun _ => rfl) rfl

theorem ready_icmpLtN32 {d a b} {s : State} {x : Issuer} (h : Ready (.icmpLtN32 d a b) s x) : Ready (.icmpEqI32 d a b) s x := by
  have hi : majorOf (.icmpLtN32 d a b) = 5 := majorOf_pack (i := .icmpLtN32 d a b) (L := Layout.icmpLtN32) (fs := [d.toNat, a.toNat, b.toNat]) rfl rfl (by decide)
  have hj : majorOf (.icmpEqI32 d a b) = 5 := majorOf_pack (i := .icmpEqI32 d a b) (L := Layout.icmpEqI32) (fs := [d.toNat, a.toNat, b.toNat]) rfl rfl (by decide)
  exact h.alike (encodingCause_alike (by decide) hi hj rfl (by simp [cpAllowed, hi, show cpMemory (.icmpLtN32 d a b) = false from rfl])
    (by simp [cpAllowed, hj, show cpMemory (.icmpEqI32 d a b) = false from rfl])
    (by simp only [mustBeLast, hi]; rfl) (by simp only [mustBeLast, hj]; rfl) rfl rfl fun _ _ => rfl) rfl (fun _ => rfl) rfl rfl
    (fun _ => rfl) rfl (fun _ => rfl) rfl

theorem ready_icmpLeN32 {d a b} {s : State} {x : Issuer} (h : Ready (.icmpLeN32 d a b) s x) : Ready (.icmpEqI32 d a b) s x := by
  have hi : majorOf (.icmpLeN32 d a b) = 5 := majorOf_pack (i := .icmpLeN32 d a b) (L := Layout.icmpLeN32) (fs := [d.toNat, a.toNat, b.toNat]) rfl rfl (by decide)
  have hj : majorOf (.icmpEqI32 d a b) = 5 := majorOf_pack (i := .icmpEqI32 d a b) (L := Layout.icmpEqI32) (fs := [d.toNat, a.toNat, b.toNat]) rfl rfl (by decide)
  exact h.alike (encodingCause_alike (by decide) hi hj rfl (by simp [cpAllowed, hi, show cpMemory (.icmpLeN32 d a b) = false from rfl])
    (by simp [cpAllowed, hj, show cpMemory (.icmpEqI32 d a b) = false from rfl])
    (by simp only [mustBeLast, hi]; rfl) (by simp only [mustBeLast, hj]; rfl) rfl rfl fun _ _ => rfl) rfl (fun _ => rfl) rfl rfl
    (fun _ => rfl) rfl (fun _ => rfl) rfl

theorem ready_icmpGtN32 {d a b} {s : State} {x : Issuer} (h : Ready (.icmpGtN32 d a b) s x) : Ready (.icmpEqI32 d a b) s x := by
  have hi : majorOf (.icmpGtN32 d a b) = 5 := majorOf_pack (i := .icmpGtN32 d a b) (L := Layout.icmpGtN32) (fs := [d.toNat, a.toNat, b.toNat]) rfl rfl (by decide)
  have hj : majorOf (.icmpEqI32 d a b) = 5 := majorOf_pack (i := .icmpEqI32 d a b) (L := Layout.icmpEqI32) (fs := [d.toNat, a.toNat, b.toNat]) rfl rfl (by decide)
  exact h.alike (encodingCause_alike (by decide) hi hj rfl (by simp [cpAllowed, hi, show cpMemory (.icmpGtN32 d a b) = false from rfl])
    (by simp [cpAllowed, hj, show cpMemory (.icmpEqI32 d a b) = false from rfl])
    (by simp only [mustBeLast, hi]; rfl) (by simp only [mustBeLast, hj]; rfl) rfl rfl fun _ _ => rfl) rfl (fun _ => rfl) rfl rfl
    (fun _ => rfl) rfl (fun _ => rfl) rfl

theorem ready_icmpGeN32 {d a b} {s : State} {x : Issuer} (h : Ready (.icmpGeN32 d a b) s x) : Ready (.icmpEqI32 d a b) s x := by
  have hi : majorOf (.icmpGeN32 d a b) = 5 := majorOf_pack (i := .icmpGeN32 d a b) (L := Layout.icmpGeN32) (fs := [d.toNat, a.toNat, b.toNat]) rfl rfl (by decide)
  have hj : majorOf (.icmpEqI32 d a b) = 5 := majorOf_pack (i := .icmpEqI32 d a b) (L := Layout.icmpEqI32) (fs := [d.toNat, a.toNat, b.toNat]) rfl rfl (by decide)
  exact h.alike (encodingCause_alike (by decide) hi hj rfl (by simp [cpAllowed, hi, show cpMemory (.icmpGeN32 d a b) = false from rfl])
    (by simp [cpAllowed, hj, show cpMemory (.icmpEqI32 d a b) = false from rfl])
    (by simp only [mustBeLast, hi]; rfl) (by simp only [mustBeLast, hj]; rfl) rfl rfl fun _ _ => rfl) rfl (fun _ => rfl) rfl rfl
    (fun _ => rfl) rfl (fun _ => rfl) rfl

theorem ready_fcmpNe {d a b} {s : State} {x : Issuer} (h : Ready (.fcmpNe d a b) s x) : Ready (.fcmpEq d a b) s x := by
  have hi : majorOf (.fcmpNe d a b) = 5 := majorOf_pack (i := .fcmpNe d a b) (L := Layout.fcmpNe) (fs := [d.toNat, a.toNat, b.toNat]) rfl rfl (by decide)
  have hj : majorOf (.fcmpEq d a b) = 5 := majorOf_pack (i := .fcmpEq d a b) (L := Layout.fcmpEq) (fs := [d.toNat, a.toNat, b.toNat]) rfl rfl (by decide)
  exact h.alike (encodingCause_alike (by decide) hi hj rfl (by simp [cpAllowed, hi, show cpMemory (.fcmpNe d a b) = false from rfl])
    (by simp [cpAllowed, hj, show cpMemory (.fcmpEq d a b) = false from rfl])
    (by simp only [mustBeLast, hi]; rfl) (by simp only [mustBeLast, hj]; rfl) rfl rfl fun _ _ => rfl) rfl (fun _ => rfl) rfl rfl
    (fun _ => rfl) rfl (fun _ => rfl) rfl

theorem ready_fcmpLt {d a b} {s : State} {x : Issuer} (h : Ready (.fcmpLt d a b) s x) : Ready (.fcmpEq d a b) s x := by
  have hi : majorOf (.fcmpLt d a b) = 5 := majorOf_pack (i := .fcmpLt d a b) (L := Layout.fcmpLt) (fs := [d.toNat, a.toNat, b.toNat]) rfl rfl (by decide)
  have hj : majorOf (.fcmpEq d a b) = 5 := majorOf_pack (i := .fcmpEq d a b) (L := Layout.fcmpEq) (fs := [d.toNat, a.toNat, b.toNat]) rfl rfl (by decide)
  exact h.alike (encodingCause_alike (by decide) hi hj rfl (by simp [cpAllowed, hi, show cpMemory (.fcmpLt d a b) = false from rfl])
    (by simp [cpAllowed, hj, show cpMemory (.fcmpEq d a b) = false from rfl])
    (by simp only [mustBeLast, hi]; rfl) (by simp only [mustBeLast, hj]; rfl) rfl rfl fun _ _ => rfl) rfl (fun _ => rfl) rfl rfl
    (fun _ => rfl) rfl (fun _ => rfl) rfl

theorem ready_fcmpLe {d a b} {s : State} {x : Issuer} (h : Ready (.fcmpLe d a b) s x) : Ready (.fcmpEq d a b) s x := by
  have hi : majorOf (.fcmpLe d a b) = 5 := majorOf_pack (i := .fcmpLe d a b) (L := Layout.fcmpLe) (fs := [d.toNat, a.toNat, b.toNat]) rfl rfl (by decide)
  have hj : majorOf (.fcmpEq d a b) = 5 := majorOf_pack (i := .fcmpEq d a b) (L := Layout.fcmpEq) (fs := [d.toNat, a.toNat, b.toNat]) rfl rfl (by decide)
  exact h.alike (encodingCause_alike (by decide) hi hj rfl (by simp [cpAllowed, hi, show cpMemory (.fcmpLe d a b) = false from rfl])
    (by simp [cpAllowed, hj, show cpMemory (.fcmpEq d a b) = false from rfl])
    (by simp only [mustBeLast, hi]; rfl) (by simp only [mustBeLast, hj]; rfl) rfl rfl fun _ _ => rfl) rfl (fun _ => rfl) rfl rfl
    (fun _ => rfl) rfl (fun _ => rfl) rfl

theorem ready_fcmpGt {d a b} {s : State} {x : Issuer} (h : Ready (.fcmpGt d a b) s x) : Ready (.fcmpEq d a b) s x := by
  have hi : majorOf (.fcmpGt d a b) = 5 := majorOf_pack (i := .fcmpGt d a b) (L := Layout.fcmpGt) (fs := [d.toNat, a.toNat, b.toNat]) rfl rfl (by decide)
  have hj : majorOf (.fcmpEq d a b) = 5 := majorOf_pack (i := .fcmpEq d a b) (L := Layout.fcmpEq) (fs := [d.toNat, a.toNat, b.toNat]) rfl rfl (by decide)
  exact h.alike (encodingCause_alike (by decide) hi hj rfl (by simp [cpAllowed, hi, show cpMemory (.fcmpGt d a b) = false from rfl])
    (by simp [cpAllowed, hj, show cpMemory (.fcmpEq d a b) = false from rfl])
    (by simp only [mustBeLast, hi]; rfl) (by simp only [mustBeLast, hj]; rfl) rfl rfl fun _ _ => rfl) rfl (fun _ => rfl) rfl rfl
    (fun _ => rfl) rfl (fun _ => rfl) rfl

theorem ready_fcmpGe {d a b} {s : State} {x : Issuer} (h : Ready (.fcmpGe d a b) s x) : Ready (.fcmpEq d a b) s x := by
  have hi : majorOf (.fcmpGe d a b) = 5 := majorOf_pack (i := .fcmpGe d a b) (L := Layout.fcmpGe) (fs := [d.toNat, a.toNat, b.toNat]) rfl rfl (by decide)
  have hj : majorOf (.fcmpEq d a b) = 5 := majorOf_pack (i := .fcmpEq d a b) (L := Layout.fcmpEq) (fs := [d.toNat, a.toNat, b.toNat]) rfl rfl (by decide)
  exact h.alike (encodingCause_alike (by decide) hi hj rfl (by simp [cpAllowed, hi, show cpMemory (.fcmpGe d a b) = false from rfl])
    (by simp [cpAllowed, hj, show cpMemory (.fcmpEq d a b) = false from rfl])
    (by simp only [mustBeLast, hi]; rfl) (by simp only [mustBeLast, hj]; rfl) rfl rfl fun _ _ => rfl) rfl (fun _ => rfl) rfl rfl
    (fun _ => rfl) rfl (fun _ => rfl) rfl

theorem ready_fcmpOrd {d a b} {s : State} {x : Issuer} (h : Ready (.fcmpOrd d a b) s x) : Ready (.fcmpEq d a b) s x := by
  have hi : majorOf (.fcmpOrd d a b) = 5 := majorOf_pack (i := .fcmpOrd d a b) (L := Layout.fcmpOrd) (fs := [d.toNat, a.toNat, b.toNat]) rfl rfl (by decide)
  have hj : majorOf (.fcmpEq d a b) = 5 := majorOf_pack (i := .fcmpEq d a b) (L := Layout.fcmpEq) (fs := [d.toNat, a.toNat, b.toNat]) rfl rfl (by decide)
  exact h.alike (encodingCause_alike (by decide) hi hj rfl (by simp [cpAllowed, hi, show cpMemory (.fcmpOrd d a b) = false from rfl])
    (by simp [cpAllowed, hj, show cpMemory (.fcmpEq d a b) = false from rfl])
    (by simp only [mustBeLast, hi]; rfl) (by simp only [mustBeLast, hj]; rfl) rfl rfl fun _ _ => rfl) rfl (fun _ => rfl) rfl rfl
    (fun _ => rfl) rfl (fun _ => rfl) rfl

theorem ready_fcmpUno {d a b} {s : State} {x : Issuer} (h : Ready (.fcmpUno d a b) s x) : Ready (.fcmpEq d a b) s x := by
  have hi : majorOf (.fcmpUno d a b) = 5 := majorOf_pack (i := .fcmpUno d a b) (L := Layout.fcmpUno) (fs := [d.toNat, a.toNat, b.toNat]) rfl rfl (by decide)
  have hj : majorOf (.fcmpEq d a b) = 5 := majorOf_pack (i := .fcmpEq d a b) (L := Layout.fcmpEq) (fs := [d.toNat, a.toNat, b.toNat]) rfl rfl (by decide)
  exact h.alike (encodingCause_alike (by decide) hi hj rfl (by simp [cpAllowed, hi, show cpMemory (.fcmpUno d a b) = false from rfl])
    (by simp [cpAllowed, hj, show cpMemory (.fcmpEq d a b) = false from rfl])
    (by simp only [mustBeLast, hi]; rfl) (by simp only [mustBeLast, hj]; rfl) rfl rfl fun _ _ => rfl) rfl (fun _ => rfl) rfl rfl
    (fun _ => rfl) rfl (fun _ => rfl) rfl

theorem ready_f2iI16 {d a r} {s : State} {x : Issuer} (h : Ready (.f2iI16 d a r) s x) : Ready (.f2iI8 d a r) s x := by
  have hi : majorOf (.f2iI16 d a r) = 8 := majorOf_pack (i := .f2iI16 d a r) (L := Layout.f2iI16) (fs := [d.toNat, a.toNat, r.toNat]) rfl rfl (by decide)
  have hj : majorOf (.f2iI8 d a r) = 8 := majorOf_pack (i := .f2iI8 d a r) (L := Layout.f2iI8) (fs := [d.toNat, a.toNat, r.toNat]) rfl rfl (by decide)
  exact h.alike (encodingCause_alike (by decide) hi hj rfl (by simp [cpAllowed, hi, show cpMemory (.f2iI16 d a r) = false from rfl])
    (by simp [cpAllowed, hj, show cpMemory (.f2iI8 d a r) = false from rfl])
    (by simp only [mustBeLast, hi]; rfl) (by simp only [mustBeLast, hj]; rfl) rfl rfl fun _ _ => rfl) rfl (fun _ => rfl) rfl rfl
    (fun _ => rfl) rfl (fun _ => rfl) rfl

theorem ready_f2iI32 {d a r} {s : State} {x : Issuer} (h : Ready (.f2iI32 d a r) s x) : Ready (.f2iI8 d a r) s x := by
  have hi : majorOf (.f2iI32 d a r) = 8 := majorOf_pack (i := .f2iI32 d a r) (L := Layout.f2iI32) (fs := [d.toNat, a.toNat, r.toNat]) rfl rfl (by decide)
  have hj : majorOf (.f2iI8 d a r) = 8 := majorOf_pack (i := .f2iI8 d a r) (L := Layout.f2iI8) (fs := [d.toNat, a.toNat, r.toNat]) rfl rfl (by decide)
  exact h.alike (encodingCause_alike (by decide) hi hj rfl (by simp [cpAllowed, hi, show cpMemory (.f2iI32 d a r) = false from rfl])
    (by simp [cpAllowed, hj, show cpMemory (.f2iI8 d a r) = false from rfl])
    (by simp only [mustBeLast, hi]; rfl) (by simp only [mustBeLast, hj]; rfl) rfl rfl fun _ _ => rfl) rfl (fun _ => rfl) rfl rfl
    (fun _ => rfl) rfl (fun _ => rfl) rfl

theorem ready_f2iN8 {d a r} {s : State} {x : Issuer} (h : Ready (.f2iN8 d a r) s x) : Ready (.f2iI8 d a r) s x := by
  have hi : majorOf (.f2iN8 d a r) = 8 := majorOf_pack (i := .f2iN8 d a r) (L := Layout.f2iN8) (fs := [d.toNat, a.toNat, r.toNat]) rfl rfl (by decide)
  have hj : majorOf (.f2iI8 d a r) = 8 := majorOf_pack (i := .f2iI8 d a r) (L := Layout.f2iI8) (fs := [d.toNat, a.toNat, r.toNat]) rfl rfl (by decide)
  exact h.alike (encodingCause_alike (by decide) hi hj rfl (by simp [cpAllowed, hi, show cpMemory (.f2iN8 d a r) = false from rfl])
    (by simp [cpAllowed, hj, show cpMemory (.f2iI8 d a r) = false from rfl])
    (by simp only [mustBeLast, hi]; rfl) (by simp only [mustBeLast, hj]; rfl) rfl rfl fun _ _ => rfl) rfl (fun _ => rfl) rfl rfl
    (fun _ => rfl) rfl (fun _ => rfl) rfl

theorem ready_f2iN16 {d a r} {s : State} {x : Issuer} (h : Ready (.f2iN16 d a r) s x) : Ready (.f2iI8 d a r) s x := by
  have hi : majorOf (.f2iN16 d a r) = 8 := majorOf_pack (i := .f2iN16 d a r) (L := Layout.f2iN16) (fs := [d.toNat, a.toNat, r.toNat]) rfl rfl (by decide)
  have hj : majorOf (.f2iI8 d a r) = 8 := majorOf_pack (i := .f2iI8 d a r) (L := Layout.f2iI8) (fs := [d.toNat, a.toNat, r.toNat]) rfl rfl (by decide)
  exact h.alike (encodingCause_alike (by decide) hi hj rfl (by simp [cpAllowed, hi, show cpMemory (.f2iN16 d a r) = false from rfl])
    (by simp [cpAllowed, hj, show cpMemory (.f2iI8 d a r) = false from rfl])
    (by simp only [mustBeLast, hi]; rfl) (by simp only [mustBeLast, hj]; rfl) rfl rfl fun _ _ => rfl) rfl (fun _ => rfl) rfl rfl
    (fun _ => rfl) rfl (fun _ => rfl) rfl

theorem ready_f2iN32 {d a r} {s : State} {x : Issuer} (h : Ready (.f2iN32 d a r) s x) : Ready (.f2iI8 d a r) s x := by
  have hi : majorOf (.f2iN32 d a r) = 8 := majorOf_pack (i := .f2iN32 d a r) (L := Layout.f2iN32) (fs := [d.toNat, a.toNat, r.toNat]) rfl rfl (by decide)
  have hj : majorOf (.f2iI8 d a r) = 8 := majorOf_pack (i := .f2iI8 d a r) (L := Layout.f2iI8) (fs := [d.toNat, a.toNat, r.toNat]) rfl rfl (by decide)
  exact h.alike (encodingCause_alike (by decide) hi hj rfl (by simp [cpAllowed, hi, show cpMemory (.f2iN32 d a r) = false from rfl])
    (by simp [cpAllowed, hj, show cpMemory (.f2iI8 d a r) = false from rfl])
    (by simp only [mustBeLast, hi]; rfl) (by simp only [mustBeLast, hj]; rfl) rfl rfl fun _ _ => rfl) rfl (fun _ => rfl) rfl rfl
    (fun _ => rfl) rfl (fun _ => rfl) rfl

theorem ready_i2fI16 {d a r} {s : State} {x : Issuer} (h : Ready (.i2fI16 d a r) s x) : Ready (.i2fI8 d a r) s x := by
  have hi : majorOf (.i2fI16 d a r) = 8 := majorOf_pack (i := .i2fI16 d a r) (L := Layout.i2fI16) (fs := [d.toNat, a.toNat, r.toNat]) rfl rfl (by decide)
  have hj : majorOf (.i2fI8 d a r) = 8 := majorOf_pack (i := .i2fI8 d a r) (L := Layout.i2fI8) (fs := [d.toNat, a.toNat, r.toNat]) rfl rfl (by decide)
  exact h.alike (encodingCause_alike (by decide) hi hj rfl (by simp [cpAllowed, hi, show cpMemory (.i2fI16 d a r) = false from rfl])
    (by simp [cpAllowed, hj, show cpMemory (.i2fI8 d a r) = false from rfl])
    (by simp only [mustBeLast, hi]; rfl) (by simp only [mustBeLast, hj]; rfl) rfl rfl fun _ _ => rfl) rfl (fun _ => rfl) rfl rfl
    (fun _ => rfl) rfl (fun _ => rfl) rfl

theorem ready_i2fI32 {d a r} {s : State} {x : Issuer} (h : Ready (.i2fI32 d a r) s x) : Ready (.i2fI8 d a r) s x := by
  have hi : majorOf (.i2fI32 d a r) = 8 := majorOf_pack (i := .i2fI32 d a r) (L := Layout.i2fI32) (fs := [d.toNat, a.toNat, r.toNat]) rfl rfl (by decide)
  have hj : majorOf (.i2fI8 d a r) = 8 := majorOf_pack (i := .i2fI8 d a r) (L := Layout.i2fI8) (fs := [d.toNat, a.toNat, r.toNat]) rfl rfl (by decide)
  exact h.alike (encodingCause_alike (by decide) hi hj rfl (by simp [cpAllowed, hi, show cpMemory (.i2fI32 d a r) = false from rfl])
    (by simp [cpAllowed, hj, show cpMemory (.i2fI8 d a r) = false from rfl])
    (by simp only [mustBeLast, hi]; rfl) (by simp only [mustBeLast, hj]; rfl) rfl rfl fun _ _ => rfl) rfl (fun _ => rfl) rfl rfl
    (fun _ => rfl) rfl (fun _ => rfl) rfl

theorem ready_i2fN8 {d a r} {s : State} {x : Issuer} (h : Ready (.i2fN8 d a r) s x) : Ready (.i2fI8 d a r) s x := by
  have hi : majorOf (.i2fN8 d a r) = 8 := majorOf_pack (i := .i2fN8 d a r) (L := Layout.i2fN8) (fs := [d.toNat, a.toNat, r.toNat]) rfl rfl (by decide)
  have hj : majorOf (.i2fI8 d a r) = 8 := majorOf_pack (i := .i2fI8 d a r) (L := Layout.i2fI8) (fs := [d.toNat, a.toNat, r.toNat]) rfl rfl (by decide)
  exact h.alike (encodingCause_alike (by decide) hi hj rfl (by simp [cpAllowed, hi, show cpMemory (.i2fN8 d a r) = false from rfl])
    (by simp [cpAllowed, hj, show cpMemory (.i2fI8 d a r) = false from rfl])
    (by simp only [mustBeLast, hi]; rfl) (by simp only [mustBeLast, hj]; rfl) rfl rfl fun _ _ => rfl) rfl (fun _ => rfl) rfl rfl
    (fun _ => rfl) rfl (fun _ => rfl) rfl

theorem ready_i2fN16 {d a r} {s : State} {x : Issuer} (h : Ready (.i2fN16 d a r) s x) : Ready (.i2fI8 d a r) s x := by
  have hi : majorOf (.i2fN16 d a r) = 8 := majorOf_pack (i := .i2fN16 d a r) (L := Layout.i2fN16) (fs := [d.toNat, a.toNat, r.toNat]) rfl rfl (by decide)
  have hj : majorOf (.i2fI8 d a r) = 8 := majorOf_pack (i := .i2fI8 d a r) (L := Layout.i2fI8) (fs := [d.toNat, a.toNat, r.toNat]) rfl rfl (by decide)
  exact h.alike (encodingCause_alike (by decide) hi hj rfl (by simp [cpAllowed, hi, show cpMemory (.i2fN16 d a r) = false from rfl])
    (by simp [cpAllowed, hj, show cpMemory (.i2fI8 d a r) = false from rfl])
    (by simp only [mustBeLast, hi]; rfl) (by simp only [mustBeLast, hj]; rfl) rfl rfl fun _ _ => rfl) rfl (fun _ => rfl) rfl rfl
    (fun _ => rfl) rfl (fun _ => rfl) rfl

theorem ready_i2fN32 {d a r} {s : State} {x : Issuer} (h : Ready (.i2fN32 d a r) s x) : Ready (.i2fI8 d a r) s x := by
  have hi : majorOf (.i2fN32 d a r) = 8 := majorOf_pack (i := .i2fN32 d a r) (L := Layout.i2fN32) (fs := [d.toNat, a.toNat, r.toNat]) rfl rfl (by decide)
  have hj : majorOf (.i2fI8 d a r) = 8 := majorOf_pack (i := .i2fI8 d a r) (L := Layout.i2fI8) (fs := [d.toNat, a.toNat, r.toNat]) rfl rfl (by decide)
  exact h.alike (encodingCause_alike (by decide) hi hj rfl (by simp [cpAllowed, hi, show cpMemory (.i2fN32 d a r) = false from rfl])
    (by simp [cpAllowed, hj, show cpMemory (.i2fI8 d a r) = false from rfl])
    (by simp only [mustBeLast, hi]; rfl) (by simp only [mustBeLast, hj]; rfl) rfl rfl fun _ _ => rfl) rfl (fun _ => rfl) rfl rfl
    (fun _ => rfl) rfl (fun _ => rfl) rfl

theorem ready_wfoldMinI32 {d a} {s : State} {x : Issuer} (h : Ready (.wfoldMinI32 d a) s x) : Ready (.wfoldAddI32 d a) s x := by
  have hi : majorOf (.wfoldMinI32 d a) = 11 := majorOf_pack (i := .wfoldMinI32 d a) (L := Layout.wfoldMinI32) (fs := [d.toNat, a.toNat]) rfl rfl (by decide)
  have hj : majorOf (.wfoldAddI32 d a) = 11 := majorOf_pack (i := .wfoldAddI32 d a) (L := Layout.wfoldAddI32) (fs := [d.toNat, a.toNat]) rfl rfl (by decide)
  exact h.alike (encodingCause_alike (by decide) hi hj rfl (by simp [cpAllowed, hi, show cpMemory (.wfoldMinI32 d a) = false from rfl])
    (by simp [cpAllowed, hj, show cpMemory (.wfoldAddI32 d a) = false from rfl])
    (by simp only [mustBeLast, hi]; rfl) (by simp only [mustBeLast, hj]; rfl) rfl rfl fun _ _ => rfl) rfl (fun _ => rfl) rfl rfl
    (fun _ => rfl) rfl (fun _ => rfl) rfl

theorem ready_wfoldMaxI32 {d a} {s : State} {x : Issuer} (h : Ready (.wfoldMaxI32 d a) s x) : Ready (.wfoldAddI32 d a) s x := by
  have hi : majorOf (.wfoldMaxI32 d a) = 11 := majorOf_pack (i := .wfoldMaxI32 d a) (L := Layout.wfoldMaxI32) (fs := [d.toNat, a.toNat]) rfl rfl (by decide)
  have hj : majorOf (.wfoldAddI32 d a) = 11 := majorOf_pack (i := .wfoldAddI32 d a) (L := Layout.wfoldAddI32) (fs := [d.toNat, a.toNat]) rfl rfl (by decide)
  exact h.alike (encodingCause_alike (by decide) hi hj rfl (by simp [cpAllowed, hi, show cpMemory (.wfoldMaxI32 d a) = false from rfl])
    (by simp [cpAllowed, hj, show cpMemory (.wfoldAddI32 d a) = false from rfl])
    (by simp only [mustBeLast, hi]; rfl) (by simp only [mustBeLast, hj]; rfl) rfl rfl fun _ _ => rfl) rfl (fun _ => rfl) rfl rfl
    (fun _ => rfl) rfl (fun _ => rfl) rfl

theorem ready_wfoldMinN32 {d a} {s : State} {x : Issuer} (h : Ready (.wfoldMinN32 d a) s x) : Ready (.wfoldAddI32 d a) s x := by
  have hi : majorOf (.wfoldMinN32 d a) = 11 := majorOf_pack (i := .wfoldMinN32 d a) (L := Layout.wfoldMinN32) (fs := [d.toNat, a.toNat]) rfl rfl (by decide)
  have hj : majorOf (.wfoldAddI32 d a) = 11 := majorOf_pack (i := .wfoldAddI32 d a) (L := Layout.wfoldAddI32) (fs := [d.toNat, a.toNat]) rfl rfl (by decide)
  exact h.alike (encodingCause_alike (by decide) hi hj rfl (by simp [cpAllowed, hi, show cpMemory (.wfoldMinN32 d a) = false from rfl])
    (by simp [cpAllowed, hj, show cpMemory (.wfoldAddI32 d a) = false from rfl])
    (by simp only [mustBeLast, hi]; rfl) (by simp only [mustBeLast, hj]; rfl) rfl rfl fun _ _ => rfl) rfl (fun _ => rfl) rfl rfl
    (fun _ => rfl) rfl (fun _ => rfl) rfl

theorem ready_wfoldMaxN32 {d a} {s : State} {x : Issuer} (h : Ready (.wfoldMaxN32 d a) s x) : Ready (.wfoldAddI32 d a) s x := by
  have hi : majorOf (.wfoldMaxN32 d a) = 11 := majorOf_pack (i := .wfoldMaxN32 d a) (L := Layout.wfoldMaxN32) (fs := [d.toNat, a.toNat]) rfl rfl (by decide)
  have hj : majorOf (.wfoldAddI32 d a) = 11 := majorOf_pack (i := .wfoldAddI32 d a) (L := Layout.wfoldAddI32) (fs := [d.toNat, a.toNat]) rfl rfl (by decide)
  exact h.alike (encodingCause_alike (by decide) hi hj rfl (by simp [cpAllowed, hi, show cpMemory (.wfoldMaxN32 d a) = false from rfl])
    (by simp [cpAllowed, hj, show cpMemory (.wfoldAddI32 d a) = false from rfl])
    (by simp only [mustBeLast, hi]; rfl) (by simp only [mustBeLast, hj]; rfl) rfl rfl fun _ _ => rfl) rfl (fun _ => rfl) rfl rfl
    (fun _ => rfl) rfl (fun _ => rfl) rfl

theorem ready_wfoldAnd {d a} {s : State} {x : Issuer} (h : Ready (.wfoldAnd d a) s x) : Ready (.wfoldAddI32 d a) s x := by
  have hi : majorOf (.wfoldAnd d a) = 11 := majorOf_pack (i := .wfoldAnd d a) (L := Layout.wfoldAnd) (fs := [d.toNat, a.toNat]) rfl rfl (by decide)
  have hj : majorOf (.wfoldAddI32 d a) = 11 := majorOf_pack (i := .wfoldAddI32 d a) (L := Layout.wfoldAddI32) (fs := [d.toNat, a.toNat]) rfl rfl (by decide)
  exact h.alike (encodingCause_alike (by decide) hi hj rfl (by simp [cpAllowed, hi, show cpMemory (.wfoldAnd d a) = false from rfl])
    (by simp [cpAllowed, hj, show cpMemory (.wfoldAddI32 d a) = false from rfl])
    (by simp only [mustBeLast, hi]; rfl) (by simp only [mustBeLast, hj]; rfl) rfl rfl fun _ _ => rfl) rfl (fun _ => rfl) rfl rfl
    (fun _ => rfl) rfl (fun _ => rfl) rfl

theorem ready_wfoldOr {d a} {s : State} {x : Issuer} (h : Ready (.wfoldOr d a) s x) : Ready (.wfoldAddI32 d a) s x := by
  have hi : majorOf (.wfoldOr d a) = 11 := majorOf_pack (i := .wfoldOr d a) (L := Layout.wfoldOr) (fs := [d.toNat, a.toNat]) rfl rfl (by decide)
  have hj : majorOf (.wfoldAddI32 d a) = 11 := majorOf_pack (i := .wfoldAddI32 d a) (L := Layout.wfoldAddI32) (fs := [d.toNat, a.toNat]) rfl rfl (by decide)
  exact h.alike (encodingCause_alike (by decide) hi hj rfl (by simp [cpAllowed, hi, show cpMemory (.wfoldOr d a) = false from rfl])
    (by simp [cpAllowed, hj, show cpMemory (.wfoldAddI32 d a) = false from rfl])
    (by simp only [mustBeLast, hi]; rfl) (by simp only [mustBeLast, hj]; rfl) rfl rfl fun _ _ => rfl) rfl (fun _ => rfl) rfl rfl
    (fun _ => rfl) rfl (fun _ => rfl) rfl

theorem ready_wfoldXor {d a} {s : State} {x : Issuer} (h : Ready (.wfoldXor d a) s x) : Ready (.wfoldAddI32 d a) s x := by
  have hi : majorOf (.wfoldXor d a) = 11 := majorOf_pack (i := .wfoldXor d a) (L := Layout.wfoldXor) (fs := [d.toNat, a.toNat]) rfl rfl (by decide)
  have hj : majorOf (.wfoldAddI32 d a) = 11 := majorOf_pack (i := .wfoldAddI32 d a) (L := Layout.wfoldAddI32) (fs := [d.toNat, a.toNat]) rfl rfl (by decide)
  exact h.alike (encodingCause_alike (by decide) hi hj rfl (by simp [cpAllowed, hi, show cpMemory (.wfoldXor d a) = false from rfl])
    (by simp [cpAllowed, hj, show cpMemory (.wfoldAddI32 d a) = false from rfl])
    (by simp only [mustBeLast, hi]; rfl) (by simp only [mustBeLast, hj]; rfl) rfl rfl fun _ _ => rfl) rfl (fun _ => rfl) rfl rfl
    (fun _ => rfl) rfl (fun _ => rfl) rfl

theorem ready_wfoldAddF32 {d a} {s : State} {x : Issuer} (h : Ready (.wfoldAddF32 d a) s x) : Ready (.wfoldAddI32 d a) s x := by
  have hi : majorOf (.wfoldAddF32 d a) = 11 := majorOf_pack (i := .wfoldAddF32 d a) (L := Layout.wfoldAddF32) (fs := [d.toNat, a.toNat]) rfl rfl (by decide)
  have hj : majorOf (.wfoldAddI32 d a) = 11 := majorOf_pack (i := .wfoldAddI32 d a) (L := Layout.wfoldAddI32) (fs := [d.toNat, a.toNat]) rfl rfl (by decide)
  exact h.alike (encodingCause_alike (by decide) hi hj rfl (by simp [cpAllowed, hi, show cpMemory (.wfoldAddF32 d a) = false from rfl])
    (by simp [cpAllowed, hj, show cpMemory (.wfoldAddI32 d a) = false from rfl])
    (by simp only [mustBeLast, hi]; rfl) (by simp only [mustBeLast, hj]; rfl) rfl rfl fun _ _ => rfl) rfl (fun _ => rfl) rfl rfl
    (fun _ => rfl) rfl (fun _ => rfl) rfl

theorem ready_wfoldMinF32 {d a} {s : State} {x : Issuer} (h : Ready (.wfoldMinF32 d a) s x) : Ready (.wfoldAddI32 d a) s x := by
  have hi : majorOf (.wfoldMinF32 d a) = 11 := majorOf_pack (i := .wfoldMinF32 d a) (L := Layout.wfoldMinF32) (fs := [d.toNat, a.toNat]) rfl rfl (by decide)
  have hj : majorOf (.wfoldAddI32 d a) = 11 := majorOf_pack (i := .wfoldAddI32 d a) (L := Layout.wfoldAddI32) (fs := [d.toNat, a.toNat]) rfl rfl (by decide)
  exact h.alike (encodingCause_alike (by decide) hi hj rfl (by simp [cpAllowed, hi, show cpMemory (.wfoldMinF32 d a) = false from rfl])
    (by simp [cpAllowed, hj, show cpMemory (.wfoldAddI32 d a) = false from rfl])
    (by simp only [mustBeLast, hi]; rfl) (by simp only [mustBeLast, hj]; rfl) rfl rfl fun _ _ => rfl) rfl (fun _ => rfl) rfl rfl
    (fun _ => rfl) rfl (fun _ => rfl) rfl

theorem ready_wfoldMaxF32 {d a} {s : State} {x : Issuer} (h : Ready (.wfoldMaxF32 d a) s x) : Ready (.wfoldAddI32 d a) s x := by
  have hi : majorOf (.wfoldMaxF32 d a) = 11 := majorOf_pack (i := .wfoldMaxF32 d a) (L := Layout.wfoldMaxF32) (fs := [d.toNat, a.toNat]) rfl rfl (by decide)
  have hj : majorOf (.wfoldAddI32 d a) = 11 := majorOf_pack (i := .wfoldAddI32 d a) (L := Layout.wfoldAddI32) (fs := [d.toNat, a.toNat]) rfl rfl (by decide)
  exact h.alike (encodingCause_alike (by decide) hi hj rfl (by simp [cpAllowed, hi, show cpMemory (.wfoldMaxF32 d a) = false from rfl])
    (by simp [cpAllowed, hj, show cpMemory (.wfoldAddI32 d a) = false from rfl])
    (by simp only [mustBeLast, hi]; rfl) (by simp only [mustBeLast, hj]; rfl) rfl rfl fun _ _ => rfl) rfl (fun _ => rfl) rfl rfl
    (fun _ => rfl) rfl (fun _ => rfl) rfl

end Sys2Proof.Machine
end

