-- ==== Sys2Proof/Laws/Issue.lean ====
section
/-! SUPPORT. What issuing an instruction gives: the next state where nothing stands in the way, and what completing a register
instruction changes. -/

set_option Elab.async false

namespace Sys2Proof.Machine

open Sys2Proof

/-- An instruction that is ready issues: the next state is that of its effect. -/
theorem issue_ready {i : Instr} {s : State} {x : Issuer} (h : Ready i s x) (eff : Issuer → State → Effect) :
    issue i s eff = .next (conclude i x (eff x s)) := by
  obtain ⟨h1, h2, h3, h4, h5⟩ := h
  simp [issue, h1, State.issueAs, h2, h3, h4, h5]

theorem Ready.agent {i : Instr} {s : State} {x : Issuer} (h : Ready i s x) : s.agent? x.a = some x.w := (State.issuer?_agent h.issuer).1

theorem Ready.lead {i : Instr} {s : State} {x : Issuer} (h : Ready i s x) : x.e ≠ 0#32 := by
  have h := h.issuer
  unfold State.issuer? at h
  split at h
  · cases h
  · split at h
    · cases h
    · split at h
      · cases h
      · cases h; assumption

/-! The charge. -/

/-- Only an agent's wave changed, into w, with token shares and the charges to the package bucket. -/
structure OnlyCharge (s t : State) (a : Agent) (w : Wave) : Prop where
  rest  : t = { s.putAgent a w with cores := t.cores, pkgDue := t.pkgDue }
  cores : ∀ c, { t.core c with shares := (s.core c).shares } = s.core c

theorem OnlyCharge.refl (s : State) (a : Agent) (w : Wave) : OnlyCharge s (s.putAgent a w) a w :=
  ⟨by cases a <;> simp [State.putAgent, State.putWave, State.putCtx, State.putTeam],
   fun c => by simp [State.core]⟩

theorem OnlyCharge.of_put {s t : State} {a : Agent} {v w : Wave} (h : OnlyCharge (s.putAgent a v) t a w) : OnlyCharge s t a w := by
  refine ⟨?_, fun c => ?_⟩
  · have := h.rest; rwa [State.putAgent_putAgent] at this
  · simpa [State.core] using h.cores c

/-- A charge changes token shares, the charges to the package bucket and the wave's reading (R303, R304, R408). -/
theorem State.charge_spec {s : State} {a : Agent} {v : Wave} (h : s.agent? a = some v) (n : Nat) :
    ∃ k, OnlyCharge s (s.charge a n) a { v with tokens := k } := by
  cases a with
  | cp c =>
    refine ⟨v.tokens, ⟨?_, fun _ => by simp only [charge, chargePkg, core]⟩⟩
    have hv : s.putAgent (.cp c) v = s := by
      simp only [agent?, ctx?, Option.map_eq_some_iff] at h
      obtain ⟨y, hy, rfl⟩ := h
      simp only [putAgent, putCtx, ctx, hy, Option.getD_some]
      obtain ⟨hlt, hg⟩ := List.getElem?_eq_some_iff.1 hy
      have : s.ctxs.set c y = s.ctxs := by rw [← hg]; simp
      simp [this]
    simp only [charge, chargePkg]
    rw [show ({ v with tokens := v.tokens } : Wave) = v from rfl, hv]
  | wave k =>
    simp only [agent?] at h
    have h2 := h
    simp only [wave?, Option.bind_eq_some_iff] at h2
    obtain ⟨t, ht, -⟩ := h2
    refine ⟨v.tokens + BitVec.ofNat 32 n, ?_⟩
    simp only [charge, ht, h]
    refine ⟨?_, fun c => ?_⟩
    · simp only [putAgent, putWave, team?, putCore] at *
      simp [ht, putTeam]
    · simp only [core, putWave_cores, putCore, Tab.get_put]
      split
      · subst_vars; rfl
      · rfl

/-- The count and the charge of an issue. -/
theorem State.account_spec {s : State} {x : Issuer} {v : Wave} (h : s.agent? x.a = some v) (i : Instr) (units : Nat) (price : Option Nat) :
    ∃ k, OnlyCharge s (s.account i x units none price) x.a { x.w.countIssue v with tokens := k } := by
  unfold account
  rw [modAgent_some h]
  split
  · exact ⟨v.tokens, OnlyCharge.refl s x.a _⟩
  · obtain ⟨k, hk⟩ := charge_spec (agent?_putAgent h (x.w.countIssue v))
      ((s.putAgent x.a (x.w.countIssue v)).tokensOf i (match x.a with | .cp _ => true | .wave _ => false) (laneCount x.e) units price)
    exact ⟨k, hk.of_put⟩

/-- What every core sees of memory stays as it was. -/
theorem OnlyCharge.memory {s t : State} {a : Agent} {w : Wave} (h : OnlyCharge s t a w) (c b : Nat) : t.coreByte c b = s.coreByte c b := by
  have h0 := congrArg Core.l1 (h.cores c)
  have h1 : (t.core c).l1 = (s.core c).l1 := h0
  have h2 : t.home = s.home := by rw [h.rest]; simp
  have h3 : t.llc = s.llc := by rw [h.rest]; simp
  simp [State.coreByte, State.homeByte, h1, h2, h3]

theorem OnlyCharge.onlyWave {s t : State} {a : Agent} {w : Wave} (h : OnlyCharge s t a w) : OnlyWave s t a w := ⟨h.rest, h.cores, h.memory⟩

/-! Completion of a register instruction. -/

/-- The threads after a group has stepped past an instruction. -/
theorem Wave.stepPast_th (w : Wave) (e : LaneMask) (n l : Nat) (hl : l < 32) :
    (w.stepPast e n).th l = if e.getLsbD l && decide ((w.th l).stat = .running) then (w.th l).advance n else w.th l := by
  have hm : (e &&& w.lanesIn .running).getLsbD l = (e.getLsbD l && decide ((w.th l).stat = .running)) := by
    simp [lanesIn, maskOf_getLsbD _ hl]
  unfold stepPast modLanes th at *
  simp only [List.getElem?_mapIdx]
  cases ht : w.threads[l]? with
  | none => simp
  | some t =>
    simp only [ht, Option.map_some, Option.getD_some] at *
    rw [hm]

end Sys2Proof.Machine
end

