-- ==== Sys2Proof/Laws/Memory.lean ====
section
/-! SUPPORT. Memory: every operation keeps its canonical form, and a byte reads back as it was written at its home point. -/

set_option Elab.async false

namespace Sys2Proof.Machine

open Sys2Proof

theorem Memory.wf_reset : Memory.wf State.reset = true := rfl

/-- The form depends on the cells only. -/
theorem Memory.wf_congr {s t : State} (h : t.home = s.home) (hs : Memory.wf s = true) : Memory.wf t = true := by
  unfold Memory.wf at *; rwa [h]

/-- A fold keeps the form where every step does. -/
theorem Memory.wf_foldl {α : Type} (f : State → α → State) (h : ∀ s a, Memory.wf s = true → Memory.wf (f s a) = true) (l : List α) (s : State)
    (hs : Memory.wf s = true) : Memory.wf (l.foldl f s) = true := by
  induction l generalizing s with
  | nil => exact hs
  | cons a l ih => exact ih _ (h s a hs)

namespace State

theorem modTeam_home (s : State) (k : TeamKey) (f : Team → Team) : (s.modTeam k f).home = s.home := by unfold modTeam; split <;> simp
theorem modTeam_llc (s : State) (k : TeamKey) (f : Team → Team) : (s.modTeam k f).llc = s.llc := by unfold modTeam; split <;> simp
@[simp] theorem modL1_home (s : State) (c : Nat) (f : L1 → L1) : (s.modL1 c f).home = s.home := rfl
@[simp] theorem modL1_llc (s : State) (c : Nat) (f : L1 → L1) : (s.modL1 c f).llc = s.llc := rfl

theorem wf_homeWrite (s : State) (a : Nat) (b : Byte) (wt : Bool) (h : Memory.wf s = true) : Memory.wf (s.homeWrite a b wt) = true := by
  unfold homeWrite Memory.wf at *
  split
  · have hk : ∀ s' : State, s'.home = s.home → Tab.wf 0
        (if wt then { s' with llc := s'.llc.del a, home := s'.home.put 0 a b } else { s' with llc := s'.llc.ins a b }).home = true := by
      intro s' hs'
      split
      · simpa [hs'] using Tab.wf_put 0 s.home a b h
      · simpa [hs'] using h
    apply hk
    split
    · exact modTeam_home ..
    · rfl
  · exact Tab.wf_put 0 s.home a b h

theorem modAgent_home (s : State) (a : Agent) (f : Wave → Wave) : (s.modAgent a f).home = s.home := by unfold modAgent; split <;> simp

theorem countHeld_home (s : State) (a : Nat) : (s.countHeld a).home = s.home := by
  unfold countHeld
  split
  · split
    · exact modTeam_home ..
    · rfl
  · rfl

theorem wf_homeCells (s : State) (cells : List Host.Cell) (wt : Bool) (h : Memory.wf s = true) : Memory.wf (s.homeCells cells wt) = true := by
  unfold homeCells
  split
  · exact h
  · exact Memory.wf_foldl _ (fun s (y : Host.Cell) => wf_homeWrite s y.1 y.2 wt) _ _ (Memory.wf_congr (countHeld_home ..) h)

theorem wf_homeWrites (s : State) (a : Nat) (bs : List Byte) (wt : Bool) (h : Memory.wf s = true) : Memory.wf (s.homeWrites a bs wt) = true :=
  Memory.wf_congr (s := s.homeCells (bs.mapIdx fun j b => (a + j, b)) wt) rfl (wf_homeCells _ _ _ h)

theorem wf_recordWrites (s : State) (a : Nat) (bs : List Byte) (wt : Bool) (h : Memory.wf s = true) : Memory.wf (s.recordWrites a bs wt) = true := by
  unfold recordWrites
  simp only
  split
  · exact wf_homeCells _ _ _ h
  · exact wf_homeWrites _ _ _ _ h

theorem wf_llcClean (s : State) (a : Nat) (h : Memory.wf s = true) : Memory.wf (s.llcClean a) = true := by
  unfold llcClean
  split
  · exact Tab.wf_put 0 s.home a _ h
  · exact h

/-! Causes and records. -/

theorem raiseEvent_home (s : State) (p event ctx : Nat) (payload : List Byte) : (s.raiseEvent p event ctx payload).home = s.home := by
  unfold raiseEvent
  simp only
  split
  · split <;> rfl
  · rfl

theorem raiseHalt_home (s : State) (c : Nat) (x : HaltHdr) : (s.raiseHalt c x).home = s.home := by
  unfold raiseHalt
  simp only
  split
  · rfl
  · split
    · split <;> rfl
    · rfl

theorem takeCause_home (s : State) (a : Agent) (e : LaneMask) (code : Cause) (tcode : Byte) (pc : DWord) (ret : Thread) (src : Nat) :
    (s.takeCause a e code tcode pc ret src).home = s.home := by
  unfold takeCause
  split
  · simp only [raiseEvent_home, putCtx_home, modAgent_home, setCtReg_home]
  · split
    · rfl
    · split
      · exact putAgent_home ..
      · rw [raiseHalt_home, putAgent_home]

theorem pendCause_home (s : State) (a : Agent) (code : Cause) (src : Nat) (who : DWord) (core quarter : Nat) :
    (s.pendCause a code src who core quarter).home = s.home := by
  unfold pendCause
  split
  · simp only
    split
    · split
      · exact takeCause_home ..
      · rfl
    · exact raiseHalt_home ..
  · split
    · exact raiseHalt_home ..
    · split
      · exact raiseHalt_home ..
      · exact putAgent_home ..

theorem wf_inboundFault (s : State) (p ctx : Nat) (addr : DWord) (chip job reason kind len : Nat) (h : Memory.wf s = true) :
    Memory.wf (s.inboundFault p ctx addr chip job reason kind len) = true := by
  have key : ∀ (u : State) (v : Word) (pl : List Byte), Memory.wf u = true → Memory.wf ((u.setPtReg p 0x019 v).raiseEvent p 0x07 ctx pl) = true :=
    fun u v pl hu => Memory.wf_congr ((raiseEvent_home ..).trans (setPtReg_home ..)) hu
  unfold inboundFault
  simp only
  split
  · exact key _ _ _ h
  · apply key
    split
    · exact wf_recordWrites _ _ _ _ h
    · exact h

theorem wf_noRoute (s : State) (p : Nat) (addr : DWord) (kind len : Nat) (h : Memory.wf s = true) :
    Memory.wf (s.noRoute p addr kind len) = true := wf_inboundFault _ _ _ _ _ _ _ _ _ h

theorem wf_pendCause (s : State) (a : Agent) (code : Cause) (src : Nat) (who : DWord) (core quarter : Nat) (h : Memory.wf s = true) :
    Memory.wf (s.pendCause a code src who core quarter) = true := Memory.wf_congr (pendCause_home ..) h

/-! The L1. -/

theorem wf_modL1 (s : State) (c : Nat) (f : L1 → L1) (h : Memory.wf s = true) : Memory.wf (s.modL1 c f) = true := h

theorem wf_wakeCore (s : State) (c : Nat) (h : Memory.wf s = true) : Memory.wf (s.wakeCore c) = true := by
  unfold wakeCore; split <;> exact h

theorem wf_carryPoison (s : State) (c g : Nat) (h : Memory.wf s = true) : Memory.wf (s.carryPoison c g) = true := by
  unfold carryPoison
  simp only
  split
  · exact h
  · split <;> exact h

/-- A request that leaves the module changes no byte. -/
theorem request_home (s : State) (p a kind len : Nat) : (s.request p a kind len).home = s.home := by unfold request; split <;> rfl

theorem wf_request (s : State) (p a kind len : Nat) (h : Memory.wf s = true) : Memory.wf (s.request p a kind len) = true :=
  Memory.wf_congr (request_home ..) h

theorem wf_refuseStore (s : State) (c : Nat) (b : StoreId) (cause : Cause) (h : Memory.wf s = true) :
    Memory.wf (s.refuseStore c b cause) = true := by
  have key : ∀ (p q r : Bool) (t : State), Memory.wf t = true →
      Memory.wf (if p = true then s else if q = true then s else
        if r = true then t.pendCause b.agent cause 0 b.who c b.quarter else t) = true := by
    intro p q r t ht
    cases p <;> cases q <;> cases r <;> simp [h, ht, wf_pendCause]
  unfold refuseStore
  exact key _ _ _ _ (wf_modL1 _ _ _ h)

theorem wf_dropPoison (s : State) (c g : Nat) (h : Memory.wf s = true) : Memory.wf (s.dropPoison c g) = true := by
  unfold dropPoison; split <;> exact h

theorem wf_tellRefused (s : State) (c : Nat) (h : Memory.wf s = true) : Memory.wf (s.tellRefused c) = true := by
  refine Memory.wf_foldl _ (fun s a hs => ?_) _ s h
  simp only
  split
  · exact wf_pendCause _ _ _ _ _ _ _ hs
  · exact hs

theorem wf_tellAllRefused (s : State) (h : Memory.wf s = true) : Memory.wf s.tellAllRefused = true :=
  Memory.wf_foldl _ (fun s p hs => wf_tellRefused s p.1 hs) _ s h

theorem wf_arriveHome (s : State) (c : Nat) (cells : List Host.Cell) (who : Option StoreId) (wt : Bool) (h : Memory.wf s = true) :
    Memory.wf (s.arriveHome c cells who wt) = true := by
  unfold arriveHome
  simp only
  split
  · split
    · exact wf_refuseStore _ _ _ _ (wf_noRoute _ _ _ _ _ (wf_dropPoison _ _ _ h))
    · exact wf_dropPoison _ _ _ h
  · split
    · exact wf_refuseStore _ _ _ _ (wf_request _ _ _ _ _ (wf_dropPoison _ _ _ h))
    · exact wf_dropPoison _ _ _ h
  · have key : ∀ t : State, Memory.wf t = true →
        Memory.wf (match who with
          | some b =>
            let u := t.request (partOf (ctxOf b.agent)) (cells.headD (0, 0)).1 1 cells.length
            if (cells.filter fun x => !s.objWaited x.1).length = cells.length then u else u.refuseStore c b Cause.barstore
          | none => t) = true := by
      intro t ht
      split
      · simp only
        split
        · exact wf_request _ _ _ _ _ ht
        · exact wf_refuseStore _ _ _ _ (wf_request _ _ _ _ _ ht)
      · exact ht
    apply key
    apply wf_carryPoison
    split
    · exact wf_homeWrites _ _ _ _ (wf_modL1 _ _ _ h)
    · exact wf_homeCells _ _ _ (wf_modL1 _ _ _ h)

theorem wf_writeBackNow (s : State) (c a : Nat) (h : Memory.wf s = true) : Memory.wf (s.writeBackNow c a) = true := by
  unfold writeBackNow
  simp only
  split
  · exact h
  · exact wf_arriveHome _ _ _ _ _ (wf_modL1 _ _ _ h)

theorem wf_refuseBack (s : State) (c a : Nat) (late done : Bool) (h : Memory.wf s = true) : Memory.wf (s.refuseBack c a late done) = true := by
  have key : ∀ (t : State) (cells : List Host.Cell) (who : Option StoreId), Memory.wf t = true →
      Memory.wf (match who with
        | some b => ((if (late && done) = true then t.homeCells cells false else t).dropPoison c (a / 64)).refuseStore c b
            (if late = true then Cause.remoteTimeout else Cause.remote)
        | none => (if (late && done) = true then t.homeCells cells false else t).dropPoison c (a / 64)) = true := by
    intro t cells who ht
    have hd : Memory.wf ((if (late && done) = true then t.homeCells cells false else t).dropPoison c (a / 64)) = true := by
      apply wf_dropPoison
      split
      · exact wf_homeCells _ _ _ ht
      · exact ht
    split
    · exact wf_refuseStore _ _ _ _ hd
    · exact hd
  unfold refuseBack
  simp only
  split
  · exact h
  · split
    · split
      · exact key _ _ _ (wf_modL1 _ _ _ h)
      · exact h
    · exact h
    · exact key _ _ _ (wf_modL1 _ _ _ h)

theorem wf_drainNow (s : State) (c : Nat) (h : Memory.wf s = true) : Memory.wf (s.drainNow c) = true := by
  unfold drainNow
  split
  · exact h
  · exact wf_arriveHome _ _ _ _ _ (wf_modL1 _ _ _ h)

theorem wf_promoteTo (f : Nat) (s : State) (c n : Nat) (h : Memory.wf s = true) : Memory.wf (promoteTo f s c n) = true := by
  induction f generalizing s c n with
  | zero => exact h
  | succ f ih =>
    have out : ∀ (s : State) (a : Nat), Memory.wf s = true → Memory.wf (s.cores.foldl
        (fun (s : State) (x : Nat × Core) =>
          if x.1 = c then s
          else
            match ((s.core x.1).l1.recs.reverse.findIdx? fun r => decide (r.addr / 256 = a / 256)) with
            | some j => promoteTo f s x.1 ((s.core x.1).l1.recs.length - 1 - j)
            | none => s) s) = true := by
      intro s a hs
      refine Memory.wf_foldl _ (fun s p hs => ?_) s.cores s hs
      split
      · exact hs
      · split
        · exact ih _ _ _ hs
        · exact hs
    unfold promoteTo
    refine Memory.wf_foldl _ (fun s a hs => wf_writeBackNow _ _ _ (out s a hs)) _ _ ?_
    exact Memory.wf_foldl _ (fun s (t : Through) hs => wf_drainNow _ _ (out s t.addr hs)) _ _ (wf_wakeCore _ _ (wf_modL1 _ _ _ h))

theorem wf_promote (s : State) (c n : Nat) (h : Memory.wf s = true) : Memory.wf (s.promote c n) = true := wf_promoteTo _ _ _ _ h

theorem wf_promoteFor (s : State) (c a : Nat) (h : Memory.wf s = true) : Memory.wf (s.promoteFor c a) = true := by
  refine Memory.wf_foldl _ (fun s p hs => ?_) s.cores s h
  obtain ⟨k, -⟩ := p
  simp only
  split
  · exact hs
  · split
    · exact wf_promote _ _ _ hs
    · exact hs

theorem wf_drainOne (s : State) (c : Nat) (h : Memory.wf s = true) : Memory.wf (s.drainOne c) = true := by
  unfold drainOne
  split
  · exact h
  · exact wf_drainNow _ _ (wf_promoteFor _ _ _ h)

theorem wf_drainAll (s : State) (c : Nat) (h : Memory.wf s = true) : Memory.wf (s.drainAll c) = true :=
  Memory.wf_foldl _ (fun s _ => wf_drainOne s c) _ s h

theorem wf_drainBefore (s : State) (c a : Nat) (h : Memory.wf s = true) : Memory.wf (s.drainBefore c a) = true := by
  unfold drainBefore
  split
  · exact wf_drainAll _ _ h
  · exact h

theorem wf_writeBack (s : State) (c a : Nat) (h : Memory.wf s = true) : Memory.wf (s.writeBack c a) = true :=
  wf_writeBackNow _ _ _ (wf_promoteFor _ _ _ (wf_drainBefore _ _ _ h))

theorem wf_writeBackAll (s : State) (c : Nat) (as : List Nat) (h : Memory.wf s = true) : Memory.wf (s.writeBackAll c as) = true :=
  Memory.wf_foldl _ (fun s a => wf_writeBack s c a) as s h

theorem wf_release (s : State) (c scope : Nat) (addr : Option Nat) (h : Memory.wf s = true) : Memory.wf (s.release c scope addr) = true := by
  unfold release
  split
  · exact h
  · split
    · split
      · exact h
      · simp only
        split
        · exact wf_modL1 _ _ _ (wf_promote _ _ _ h)
        · exact h
    · exact wf_writeBackAll _ _ _ (wf_drainAll _ _ h)

theorem wf_acquire (s : State) (c scope : Nat) (h : Memory.wf s = true) : Memory.wf (s.acquire c scope) = true := by
  unfold acquire; split <;> exact h

theorem wf_flushL1 (s : State) (c : Nat) (h : Memory.wf s = true) : Memory.wf (s.flushL1 c) = true :=
  wf_modL1 _ _ _ (wf_writeBackAll _ _ _ (wf_drainAll _ _ h))

theorem wf_kernelBoundary (s : State) (k : GridKey) (h : Memory.wf s = true) : Memory.wf (s.kernelBoundary k) = true :=
  Memory.wf_congr (s := (s.cores.map (·.1)).foldl flushL1 s) rfl (Memory.wf_foldl _ (fun s c => wf_flushL1 s c) _ s h)

theorem wf_fillSector (s : State) (c a : Nat) (h : Memory.wf s = true) : Memory.wf (s.fillSector c a) = true := by
  unfold fillSector
  split
  · exact h
  · split <;> exact h

theorem wf_readBytes (s : State) (c a n : Nat) (nc atHome : Bool) (h : Memory.wf s = true) : Memory.wf (s.readBytes c a n nc atHome).2 = true := by
  unfold readBytes
  split
  · exact wf_promoteFor _ _ _ h
  · split
    · exact wf_promoteFor _ _ _ (wf_writeBackAll _ _ _ (wf_drainAll _ _ h))
    · simp only
      apply wf_fillSector
      split
      · exact h
      · exact wf_promoteFor _ _ _ h

theorem wf_writeBytes (s : State) (c : Nat) (who : StoreId) (a : Nat) (bs : List Byte) (nc row : Bool) (h : Memory.wf s = true) :
    Memory.wf (s.writeBytes c who a bs nc row) = true := by
  unfold writeBytes
  split
  · exact wf_homeWrites _ _ _ _ (wf_promoteFor _ _ _ h)
  · split <;> exact h

theorem wf_wroteWhole (s : State) (c : Nat) (rs : List (Nat × Nat)) (h : Memory.wf s = true) : Memory.wf (s.wroteWhole c rs) = true := by
  unfold wroteWhole
  split
  · exact h
  · exact Memory.wf_foldl _ (fun s g hs => wf_modL1 _ _ _ hs) _ _ h

theorem wf_dropClean (s : State) (a n : Nat) (h : Memory.wf s = true) : Memory.wf (s.dropClean a n) = true :=
  Memory.wf_foldl _ (fun s c => wf_modL1 s c _) _ s h

theorem wf_settleStores (s : State) (a n : Nat) (h : Memory.wf s = true) : Memory.wf (s.settleStores a n) = true := by
  refine Memory.wf_foldl _ (fun s p hs => ?_) _ s h
  simp only
  split
  · exact hs
  · have hc : Memory.wf s.choose.2 = true := hs
    split
    · apply wf_writeBackAll
      split
      · exact wf_drainAll _ _ hc
      · exact hc
    · exact hc

theorem wf_invalidateRange (s : State) (a n : Nat) (h : Memory.wf s = true) : Memory.wf (s.invalidateRange a n) = true :=
  Memory.wf_foldl _ (fun s c => wf_modL1 s c _) _ s h

theorem wf_discardLine (s : State) (c a : Nat) (h : Memory.wf s = true) : Memory.wf (s.discardLine c a) = true := by
  unfold discardLine
  simp only
  split
  · split
    · exact wf_promote _ _ _ h
    · exact h
  · have h0 : ∀ t : State, Memory.wf t = true →
        Memory.wf (({ t with llc := t.llc.filter fun x => decide (x.1 / 256 ≠ a / 256) } : State)) = true := fun t ht => ht
    exact h0 _ (Memory.wf_foldl _ (fun s k hs => wf_modL1 s k _ hs) _ _ (wf_modL1 _ _ _ h))

theorem wf_lagoonWrite (s : State) (t : TeamKey) (off : Nat) (bs : List Byte) (h : Memory.wf s = true) :
    Memory.wf (s.lagoonWrite t off bs) = true := by
  refine Memory.wf_congr ?_ h
  unfold lagoonWrite putLagoon
  split
  · rfl
  · exact modTeam_home ..

/-! A byte at its home point. -/

/-- A byte reads back at its home point as it was written there, and every other byte as before. -/
theorem homeByte_homeWrite (s : State) (a x : Nat) (b : Byte) (wt : Bool) :
    (s.homeWrite a b wt).homeByte x = if x = a then b else s.homeByte x := by
  unfold homeWrite
  split
  · have hk : ∀ s' : State, s'.home = s.home → s'.llc = s.llc →
        (if wt then { s' with llc := s'.llc.del a, home := s'.home.put 0 a b } else { s' with llc := s'.llc.ins a b }).homeByte x =
          if x = a then b else s.homeByte x := by
      intro s' h1 h2
      unfold homeByte
      cases wt with
      | true =>
        simp only [if_true, h1, h2, Tab.find_del, Tab.get_put]
        by_cases hx : x = a
        · simp [hx]
        · simp [hx]
      | false =>
        simp only [Bool.false_eq_true, if_false, h1, h2, Tab.find_ins]
        by_cases hx : x = a
        · simp [hx]
        · simp [hx]
    apply hk
    · split
      · exact modTeam_home ..
      · rfl
    · split
      · exact modTeam_llc ..
      · rfl
  · unfold homeByte
    simp only [Tab.find_del, Tab.get_put]
    by_cases hx : x = a
    · simp [hx]
    · simp [hx]

/-- Cleaning the LLC changes no byte that anything reads. -/
theorem homeByte_llcClean (s : State) (a x : Nat) : (s.llcClean a).homeByte x = s.homeByte x := by
  unfold llcClean
  cases h : s.llc.find a with
  | none => rfl
  | some b =>
    unfold homeByte
    simp only [Tab.find_del, Tab.get_put]
    by_cases hx : x = a
    · simp [hx, h]
    · simp [hx]

end State

end Sys2Proof.Machine
end

