-- ==== Sys2Proof/Laws/PerInstr.lean ====
section
/-! SUPPORT. The family of statements `Enc`: decoding the encoding of a well-formed instruction gives the instruction back, with every
operand at every value that the encoding admits; one lemma per constructor. -/

set_option Elab.async false

namespace Sys2Proof

namespace Layout

theorem fits_nil : fits [] [] = true := rfl

theorem fits_operand {n : Nat} (x : BitVec n) (l : Layout) (fs : List Nat) : fits ((n, none) :: l) (x.toNat :: fs) = fits l fs := by
  simp [fits, x.isLt]

theorem fits_fixed {n v : Nat} (h : v < 2 ^ n) (l : Layout) (fs : List Nat) : fits ((n, some v) :: l) fs = fits l fs := by
  simp [fits, h]

end Layout

namespace Laws.Enc

/-- Decoding the encoding of a well-formed instruction gives it back, whatever bytes follow. -/
def Statement (i : Instr) : Prop :=
  i.wellFormed = true → ∀ bs rest, encode i = some bs → decode (bs ++ rest) = .ok (i, rest)

/-! The rows of a major opcode clash in pairs, but for two majors whose encodings a reserved type code divides. -/

theorem clash_rowsShort : rowsShort.Pairwise fun a b => a.1.clash b.1 = true := by decide +kernel
theorem clash_rowsInteger : rowsInteger.Pairwise fun a b => a.1.clash b.1 = true := by decide +kernel
theorem clash_rowsIntegerImm : rowsIntegerImm.Pairwise fun a b => a.1.clash b.1 = true := by decide +kernel
theorem clash_rowsMultiply : rowsMultiply.Pairwise fun a b => a.1.clash b.1 = true := by decide +kernel
theorem clash_rowsBitField : rowsBitField.Pairwise fun a b => a.1.clash b.1 = true := by decide +kernel
theorem clash_rowsCompare : rowsCompare.Pairwise fun a b => a.1.clash b.1 = true := by decide +kernel
theorem clash_rowsFp32 : rowsFp32.Pairwise fun a b => a.1.clash b.1 = true := by decide +kernel
theorem clash_rowsSpecial : rowsSpecial.Pairwise fun a b => a.1.clash b.1 = true := by decide +kernel
theorem clash_rowsConvert : rowsConvert.Pairwise fun a b => a.1.clash b.1 = true := by decide +kernel
theorem clash_rowsPacked : rowsPacked.Pairwise fun a b => a.1.clash b.1 = true := by decide +kernel
theorem clash_rowsMove : rowsMove.Pairwise fun a b => a.1.clash b.1 = true := by decide +kernel
theorem clash_rowsCrossLane : rowsCrossLane.Pairwise fun a b => a.1.clash b.1 = true := by decide +kernel
theorem clash_rowsBranch : rowsBranch.Pairwise fun a b => a.1.clash b.1 = true := by decide +kernel
theorem clash_rowsJump : rowsJump.Pairwise fun a b => a.1.clash b.1 = true := by decide +kernel
theorem clash_rowsExit : rowsExit.Pairwise fun a b => a.1.clash b.1 = true := by decide +kernel
theorem clash_rowsStore : rowsStore.Pairwise fun a b => a.1.clash b.1 = true := by decide +kernel
theorem clash_rowsLagoon : rowsLagoon.Pairwise fun a b => a.1.clash b.1 = true := by decide +kernel
theorem clash_rowsAtomic : rowsAtomic.Pairwise fun a b => a.1.clash b.1 = true := by decide +kernel
theorem clash_rowsFence : rowsFence.Pairwise fun a b => a.1.clash b.1 = true := by decide +kernel
theorem clash_rowsBarrier : rowsBarrier.Pairwise fun a b => a.1.clash b.1 = true := by decide +kernel
theorem clash_rowsCopy : rowsCopy.Pairwise fun a b => a.1.clash b.1 = true := by decide +kernel
theorem clash_rowsMatrix : rowsMatrix.Pairwise fun a b => a.1.clash b.1 = true := by decide +kernel
theorem clash_rowsRow : rowsRow.Pairwise fun a b => a.1.clash b.1 = true := by decide +kernel
theorem clash_rowsCollective : rowsCollective.Pairwise fun a b => a.1.clash b.1 = true := by decide +kernel
theorem clash_rowsLaunch : rowsLaunch.Pairwise fun a b => a.1.clash b.1 = true := by decide +kernel
theorem clash_rowsPower : rowsPower.Pairwise fun a b => a.1.clash b.1 = true := by decide +kernel
theorem clash_rowsSystem : rowsSystem.Pairwise fun a b => a.1.clash b.1 = true := by decide +kernel

theorem mov16 d b : Statement (.mov16 d b) := by
  intro _ bs rest henc
  obtain rfl := Option.some.inj henc
  have hf : Layout.mov16.fits [d.toNat, b.toNat] = true := by simp [Layout.mov16, Layout.fits_operand, Layout.fits_fixed, Layout.fits_nil]
  exact round_16 hf rfl (by simp [Layout.mov16, Layout.pack]; try omega)
    ((decodeRows_clash clash_rowsShort (k := 3) rfl (Layout.unpack_pack hf)).trans (by simp))

theorem movi16 d i : Statement (.movi16 d i) := by
  intro _ bs rest henc
  obtain rfl := Option.some.inj henc
  have hf : Layout.movi16.fits [d.toNat, i.toNat] = true := by simp [Layout.movi16, Layout.fits_operand, Layout.fits_fixed, Layout.fits_nil]
  exact round_16 hf rfl (by simp [Layout.movi16, Layout.pack]; try omega)
    ((decodeRows_clash clash_rowsShort (k := 4) rfl (Layout.unpack_pack hf)).trans (by simp))

theorem iadd16 d b : Statement (.iadd16 d b) := by
  intro _ bs rest henc
  obtain rfl := Option.some.inj henc
  have hf : Layout.iadd16.fits [d.toNat, b.toNat] = true := by simp [Layout.iadd16, Layout.fits_operand, Layout.fits_fixed, Layout.fits_nil]
  exact round_16 hf rfl (by simp [Layout.iadd16, Layout.pack]; try omega)
    ((decodeRows_clash clash_rowsShort (k := 5) rfl (Layout.unpack_pack hf)).trans (by simp))

theorem iaddi16 d i : Statement (.iaddi16 d i) := by
  intro _ bs rest henc
  obtain rfl := Option.some.inj henc
  have hf : Layout.iaddi16.fits [d.toNat, i.toNat] = true := by simp [Layout.iaddi16, Layout.fits_operand, Layout.fits_fixed, Layout.fits_nil]
  exact round_16 hf rfl (by simp [Layout.iaddi16, Layout.pack]; try omega)
    ((decodeRows_clash clash_rowsShort (k := 6) rfl (Layout.unpack_pack hf)).trans (by simp))

theorem isub16 d b : Statement (.isub16 d b) := by
  intro _ bs rest henc
  obtain rfl := Option.some.inj henc
  have hf : Layout.isub16.fits [d.toNat, b.toNat] = true := by simp [Layout.isub16, Layout.fits_operand, Layout.fits_fixed, Layout.fits_nil]
  exact round_16 hf rfl (by simp [Layout.isub16, Layout.pack]; try omega)
    ((decodeRows_clash clash_rowsShort (k := 7) rfl (Layout.unpack_pack hf)).trans (by simp))

theorem and16 d b : Statement (.and16 d b) := by
  intro _ bs rest henc
  obtain rfl := Option.some.inj henc
  have hf : Layout.and16.fits [d.toNat, b.toNat] = true := by simp [Layout.and16, Layout.fits_operand, Layout.fits_fixed, Layout.fits_nil]
  exact round_16 hf rfl (by simp [Layout.and16, Layout.pack]; try omega)
    ((decodeRows_clash clash_rowsShort (k := 8) rfl (Layout.unpack_pack hf)).trans (by simp))

theorem or16 d b : Statement (.or16 d b) := by
  intro _ bs rest henc
  obtain rfl := Option.some.inj henc
  have hf : Layout.or16.fits [d.toNat, b.toNat] = true := by simp [Layout.or16, Layout.fits_operand, Layout.fits_fixed, Layout.fits_nil]
  exact round_16 hf rfl (by simp [Layout.or16, Layout.pack]; try omega)
    ((decodeRows_clash clash_rowsShort (k := 9) rfl (Layout.unpack_pack hf)).trans (by simp))

theorem xor16 d b : Statement (.xor16 d b) := by
  intro _ bs rest henc
  obtain rfl := Option.some.inj henc
  have hf : Layout.xor16.fits [d.toNat, b.toNat] = true := by simp [Layout.xor16, Layout.fits_operand, Layout.fits_fixed, Layout.fits_nil]
  exact round_16 hf rfl (by simp [Layout.xor16, Layout.pack]; try omega)
    ((decodeRows_clash clash_rowsShort (k := 10) rfl (Layout.unpack_pack hf)).trans (by simp))

theorem shli16 d i : Statement (.shli16 d i) := by
  intro _ bs rest henc
  obtain rfl := Option.some.inj henc
  have hf : Layout.shli16.fits [d.toNat, i.toNat] = true := by simp [Layout.shli16, Layout.fits_operand, Layout.fits_fixed, Layout.fits_nil]
  exact round_16 hf rfl (by simp [Layout.shli16, Layout.pack]; try omega)
    ((decodeRows_clash clash_rowsShort (k := 0) rfl (Layout.unpack_pack hf)).trans (by simp))

theorem shri16 d i : Statement (.shri16 d i) := by
  intro _ bs rest henc
  obtain rfl := Option.some.inj henc
  have hf : Layout.shri16.fits [d.toNat, i.toNat] = true := by simp [Layout.shri16, Layout.fits_operand, Layout.fits_fixed, Layout.fits_nil]
  exact round_16 hf rfl (by simp [Layout.shri16, Layout.pack]; try omega)
    ((decodeRows_clash clash_rowsShort (k := 1) rfl (Layout.unpack_pack hf)).trans (by simp))

theorem sari16 d i : Statement (.sari16 d i) := by
  intro _ bs rest henc
  obtain rfl := Option.some.inj henc
  have hf : Layout.sari16.fits [d.toNat, i.toNat] = true := by simp [Layout.sari16, Layout.fits_operand, Layout.fits_fixed, Layout.fits_nil]
  exact round_16 hf rfl (by simp [Layout.sari16, Layout.pack]; try omega)
    ((decodeRows_clash clash_rowsShort (k := 2) rfl (Layout.unpack_pack hf)).trans (by simp))

theorem fadd16 d b : Statement (.fadd16 d b) := by
  intro _ bs rest henc
  obtain rfl := Option.some.inj henc
  have hf : Layout.fadd16.fits [d.toNat, b.toNat] = true := by simp [Layout.fadd16, Layout.fits_operand, Layout.fits_fixed, Layout.fits_nil]
  exact round_16 hf rfl (by simp [Layout.fadd16, Layout.pack]; try omega)
    ((decodeRows_clash clash_rowsShort (k := 11) rfl (Layout.unpack_pack hf)).trans (by simp))

theorem fsub16 d b : Statement (.fsub16 d b) := by
  intro _ bs rest henc
  obtain rfl := Option.some.inj henc
  have hf : Layout.fsub16.fits [d.toNat, b.toNat] = true := by simp [Layout.fsub16, Layout.fits_operand, Layout.fits_fixed, Layout.fits_nil]
  exact round_16 hf rfl (by simp [Layout.fsub16, Layout.pack]; try omega)
    ((decodeRows_clash clash_rowsShort (k := 12) rfl (Layout.unpack_pack hf)).trans (by simp))

theorem fmul16 d b : Statement (.fmul16 d b) := by
  intro _ bs rest henc
  obtain rfl := Option.some.inj henc
  have hf : Layout.fmul16.fits [d.toNat, b.toNat] = true := by simp [Layout.fmul16, Layout.fits_operand, Layout.fits_fixed, Layout.fits_nil]
  exact round_16 hf rfl (by simp [Layout.fmul16, Layout.pack]; try omega)
    ((decodeRows_clash clash_rowsShort (k := 13) rfl (Layout.unpack_pack hf)).trans (by simp))

theorem fmax16 d b : Statement (.fmax16 d b) := by
  intro _ bs rest henc
  obtain rfl := Option.some.inj henc
  have hf : Layout.fmax16.fits [d.toNat, b.toNat] = true := by simp [Layout.fmax16, Layout.fits_operand, Layout.fits_fixed, Layout.fits_nil]
  exact round_16 hf rfl (by simp [Layout.fmax16, Layout.pack]; try omega)
    ((decodeRows_clash clash_rowsShort (k := 14) rfl (Layout.unpack_pack hf)).trans (by simp))

theorem fmin16 d b : Statement (.fmin16 d b) := by
  intro _ bs rest henc
  obtain rfl := Option.some.inj henc
  have hf : Layout.fmin16.fits [d.toNat, b.toNat] = true := by simp [Layout.fmin16, Layout.fits_operand, Layout.fits_fixed, Layout.fits_nil]
  exact round_16 hf rfl (by simp [Layout.fmin16, Layout.pack]; try omega)
    ((decodeRows_clash clash_rowsShort (k := 15) rfl (Layout.unpack_pack hf)).trans (by simp))

theorem iadd u d a b : Statement (.iadd u d a b) := by
  intro _ bs rest henc
  obtain rfl := Option.some.inj henc
  have hf : Layout.iadd.fits [u.toNat, d.toNat, a.toNat, b.toNat] = true := by simp [Layout.iadd, Layout.fits_operand, Layout.fits_fixed, Layout.fits_nil]
  exact round_32 (m := 1) hf rfl (by decide) rfl (by decide)
    ((decodeRows_clash clash_rowsInteger (k := 5) rfl (Layout.unpack_pack hf)).trans (by simp))

theorem iaddSatI32 u d a b : Statement (.iaddSatI32 u d a b) := by
  intro _ bs rest henc
  obtain rfl := Option.some.inj henc
  have hf : Layout.iaddSatI32.fits [u.toNat, d.toNat, a.toNat, b.toNat] = true := by simp [Layout.iaddSatI32, Layout.fits_operand, Layout.fits_fixed, Layout.fits_nil]
  exact round_32 (m := 1) hf rfl (by decide) rfl (by decide)
    ((decodeRows_clash clash_rowsInteger (k := 6) rfl (Layout.unpack_pack hf)).trans (by simp))

theorem iaddSatN32 u d a b : Statement (.iaddSatN32 u d a b) := by
  intro _ bs rest henc
  obtain rfl := Option.some.inj henc
  have hf : Layout.iaddSatN32.fits [u.toNat, d.toNat, a.toNat, b.toNat] = true := by simp [Layout.iaddSatN32, Layout.fits_operand, Layout.fits_fixed, Layout.fits_nil]
  exact round_32 (m := 1) hf rfl (by decide) rfl (by decide)
    ((decodeRows_clash clash_rowsInteger (k := 7) rfl (Layout.unpack_pack hf)).trans (by simp))

theorem iaddc u d a b : Statement (.iaddc u d a b) := by
  intro _ bs rest henc
  obtain rfl := Option.some.inj henc
  have hf : Layout.iaddc.fits [u.toNat, d.toNat, a.toNat, b.toNat] = true := by simp [Layout.iaddc, Layout.fits_operand, Layout.fits_fixed, Layout.fits_nil]
  exact round_32 (m := 1) hf rfl (by decide) rfl (by decide)
    ((decodeRows_clash clash_rowsInteger (k := 8) rfl (Layout.unpack_pack hf)).trans (by simp))

theorem isub u d a b : Statement (.isub u d a b) := by
  intro _ bs rest henc
  obtain rfl := Option.some.inj henc
  have hf : Layout.isub.fits [u.toNat, d.toNat, a.toNat, b.toNat] = true := by simp [Layout.isub, Layout.fits_operand, Layout.fits_fixed, Layout.fits_nil]
  exact round_32 (m := 1) hf rfl (by decide) rfl (by decide)
    ((decodeRows_clash clash_rowsInteger (k := 9) rfl (Layout.unpack_pack hf)).trans (by simp))

theorem isubSatI32 u d a b : Statement (.isubSatI32 u d a b) := by
  intro _ bs rest henc
  obtain rfl := Option.some.inj henc
  have hf : Layout.isubSatI32.fits [u.toNat, d.toNat, a.toNat, b.toNat] = true := by simp [Layout.isubSatI32, Layout.fits_operand, Layout.fits_fixed, Layout.fits_nil]
  exact round_32 (m := 1) hf rfl (by decide) rfl (by decide)
    ((decodeRows_clash clash_rowsInteger (k := 10) rfl (Layout.unpack_pack hf)).trans (by simp))

theorem isubSatN32 u d a b : Statement (.isubSatN32 u d a b) := by
  intro _ bs rest henc
  obtain rfl := Option.some.inj henc
  have hf : Layout.isubSatN32.fits [u.toNat, d.toNat, a.toNat, b.toNat] = true := by simp [Layout.isubSatN32, Layout.fits_operand, Layout.fits_fixed, Layout.fits_nil]
  exact round_32 (m := 1) hf rfl (by decide) rfl (by decide)
    ((decodeRows_clash clash_rowsInteger (k := 11) rfl (Layout.unpack_pack hf)).trans (by simp))

theorem isubb u d a b : Statement (.isubb u d a b) := by
  intro _ bs rest henc
  obtain rfl := Option.some.inj henc
  have hf : Layout.isubb.fits [u.toNat, d.toNat, a.toNat, b.toNat] = true := by simp [Layout.isubb, Layout.fits_operand, Layout.fits_fixed, Layout.fits_nil]
  exact round_32 (m := 1) hf rfl (by decide) rfl (by decide)
    ((decodeRows_clash clash_rowsInteger (k := 12) rfl (Layout.unpack_pack hf)).trans (by simp))

theorem ineg u d a : Statement (.ineg u d a) := by
  intro _ bs rest henc
  obtain rfl := Option.some.inj henc
  have hf : Layout.ineg.fits [u.toNat, d.toNat, a.toNat] = true := by simp [Layout.ineg, Layout.fits_operand, Layout.fits_fixed, Layout.fits_nil]
  exact round_32 (m := 1) hf rfl (by decide) rfl (by decide)
    ((decodeRows_clash clash_rowsInteger (k := 0) rfl (Layout.unpack_pack hf)).trans (by simp))

theorem inegSat u d a : Statement (.inegSat u d a) := by
  intro _ bs rest henc
  obtain rfl := Option.some.inj henc
  have hf : Layout.inegSat.fits [u.toNat, d.toNat, a.toNat] = true := by simp [Layout.inegSat, Layout.fits_operand, Layout.fits_fixed, Layout.fits_nil]
  exact round_32 (m := 1) hf rfl (by decide) rfl (by decide)
    ((decodeRows_clash clash_rowsInteger (k := 1) rfl (Layout.unpack_pack hf)).trans (by simp))

theorem iabs u d a : Statement (.iabs u d a) := by
  intro _ bs rest henc
  obtain rfl := Option.some.inj henc
  have hf : Layout.iabs.fits [u.toNat, d.toNat, a.toNat] = true := by simp [Layout.iabs, Layout.fits_operand, Layout.fits_fixed, Layout.fits_nil]
  exact round_32 (m := 1) hf rfl (by decide) rfl (by decide)
    ((decodeRows_clash clash_rowsInteger (k := 2) rfl (Layout.unpack_pack hf)).trans (by simp))

theorem iabsSat u d a : Statement (.iabsSat u d a) := by
  intro _ bs rest henc
  obtain rfl := Option.some.inj henc
  have hf : Layout.iabsSat.fits [u.toNat, d.toNat, a.toNat] = true := by simp [Layout.iabsSat, Layout.fits_operand, Layout.fits_fixed, Layout.fits_nil]
  exact round_32 (m := 1) hf rfl (by decide) rfl (by decide)
    ((decodeRows_clash clash_rowsInteger (k := 3) rfl (Layout.unpack_pack hf)).trans (by simp))

theorem iminI32 u d a b : Statement (.iminI32 u d a b) := by
  intro _ bs rest henc
  obtain rfl := Option.some.inj henc
  have hf : Layout.iminI32.fits [u.toNat, d.toNat, a.toNat, b.toNat] = true := by simp [Layout.iminI32, Layout.fits_operand, Layout.fits_fixed, Layout.fits_nil]
  exact round_32 (m := 1) hf rfl (by decide) rfl (by decide)
    ((decodeRows_clash clash_rowsInteger (k := 13) rfl (Layout.unpack_pack hf)).trans (by simp))

theorem iminN32 u d a b : Statement (.iminN32 u d a b) := by
  intro _ bs rest henc
  obtain rfl := Option.some.inj henc
  have hf : Layout.iminN32.fits [u.toNat, d.toNat, a.toNat, b.toNat] = true := by simp [Layout.iminN32, Layout.fits_operand, Layout.fits_fixed, Layout.fits_nil]
  exact round_32 (m := 1) hf rfl (by decide) rfl (by decide)
    ((decodeRows_clash clash_rowsInteger (k := 14) rfl (Layout.unpack_pack hf)).trans (by simp))

theorem imaxI32 u d a b : Statement (.imaxI32 u d a b) := by
  intro _ bs rest henc
  obtain rfl := Option.some.inj henc
  have hf : Layout.imaxI32.fits [u.toNat, d.toNat, a.toNat, b.toNat] = true := by simp [Layout.imaxI32, Layout.fits_operand, Layout.fits_fixed, Layout.fits_nil]
  exact round_32 (m := 1) hf rfl (by decide) rfl (by decide)
    ((decodeRows_clash clash_rowsInteger (k := 15) rfl (Layout.unpack_pack hf)).trans (by simp))

theorem imaxN32 u d a b : Statement (.imaxN32 u d a b) := by
  intro _ bs rest henc
  obtain rfl := Option.some.inj henc
  have hf : Layout.imaxN32.fits [u.toNat, d.toNat, a.toNat, b.toNat] = true := by simp [Layout.imaxN32, Layout.fits_operand, Layout.fits_fixed, Layout.fits_nil]
  exact round_32 (m := 1) hf rfl (by decide) rfl (by decide)
    ((decodeRows_clash clash_rowsInteger (k := 16) rfl (Layout.unpack_pack hf)).trans (by simp))

theorem andI u d a b : Statement (.andI u d a b) := by
  intro _ bs rest henc
  obtain rfl := Option.some.inj henc
  have hf : Layout.andI.fits [u.toNat, d.toNat, a.toNat, b.toNat] = true := by simp [Layout.andI, Layout.fits_operand, Layout.fits_fixed, Layout.fits_nil]
  exact round_32 (m := 1) hf rfl (by decide) rfl (by decide)
    ((decodeRows_clash clash_rowsInteger (k := 17) rfl (Layout.unpack_pack hf)).trans (by simp))

theorem orI u d a b : Statement (.orI u d a b) := by
  intro _ bs rest henc
  obtain rfl := Option.some.inj henc
  have hf : Layout.orI.fits [u.toNat, d.toNat, a.toNat, b.toNat] = true := by simp [Layout.orI, Layout.fits_operand, Layout.fits_fixed, Layout.fits_nil]
  exact round_32 (m := 1) hf rfl (by decide) rfl (by decide)
    ((decodeRows_clash clash_rowsInteger (k := 18) rfl (Layout.unpack_pack hf)).trans (by simp))

theorem xorI u d a b : Statement (.xorI u d a b) := by
  intro _ bs rest henc
  obtain rfl := Option.some.inj henc
  have hf : Layout.xorI.fits [u.toNat, d.toNat, a.toNat, b.toNat] = true := by simp [Layout.xorI, Layout.fits_operand, Layout.fits_fixed, Layout.fits_nil]
  exact round_32 (m := 1) hf rfl (by decide) rfl (by decide)
    ((decodeRows_clash clash_rowsInteger (k := 19) rfl (Layout.unpack_pack hf)).trans (by simp))

theorem notI u d a : Statement (.notI u d a) := by
  intro _ bs rest henc
  obtain rfl := Option.some.inj henc
  have hf : Layout.notI.fits [u.toNat, d.toNat, a.toNat] = true := by simp [Layout.notI, Layout.fits_operand, Layout.fits_fixed, Layout.fits_nil]
  exact round_32 (m := 1) hf rfl (by decide) rfl (by decide)
    ((decodeRows_clash clash_rowsInteger (k := 4) rfl (Layout.unpack_pack hf)).trans (by simp))

theorem andn u d a b : Statement (.andn u d a b) := by
  intro _ bs rest henc
  obtain rfl := Option.some.inj henc
  have hf : Layout.andn.fits [u.toNat, d.toNat, a.toNat, b.toNat] = true := by simp [Layout.andn, Layout.fits_operand, Layout.fits_fixed, Layout.fits_nil]
  exact round_32 (m := 1) hf rfl (by decide) rfl (by decide)
    ((decodeRows_clash clash_rowsInteger (k := 20) rfl (Layout.unpack_pack hf)).trans (by simp))

theorem shl u d a b : Statement (.shl u d a b) := by
  intro _ bs rest henc
  obtain rfl := Option.some.inj henc
  have hf : Layout.shl.fits [u.toNat, d.toNat, a.toNat, b.toNat] = true := by simp [Layout.shl, Layout.fits_operand, Layout.fits_fixed, Layout.fits_nil]
  exact round_32 (m := 1) hf rfl (by decide) rfl (by decide)
    ((decodeRows_clash clash_rowsInteger (k := 21) rfl (Layout.unpack_pack hf)).trans (by simp))

theorem shr u d a b : Statement (.shr u d a b) := by
  intro _ bs rest henc
  obtain rfl := Option.some.inj henc
  have hf : Layout.shr.fits [u.toNat, d.toNat, a.toNat, b.toNat] = true := by simp [Layout.shr, Layout.fits_operand, Layout.fits_fixed, Layout.fits_nil]
  exact round_32 (m := 1) hf rfl (by decide) rfl (by decide)
    ((decodeRows_clash clash_rowsInteger (k := 22) rfl (Layout.unpack_pack hf)).trans (by simp))

theorem sar u d a b : Statement (.sar u d a b) := by
  intro _ bs rest henc
  obtain rfl := Option.some.inj henc
  have hf : Layout.sar.fits [u.toNat, d.toNat, a.toNat, b.toNat] = true := by simp [Layout.sar, Layout.fits_operand, Layout.fits_fixed, Layout.fits_nil]
  exact round_32 (m := 1) hf rfl (by decide) rfl (by decide)
    ((decodeRows_clash clash_rowsInteger (k := 23) rfl (Layout.unpack_pack hf)).trans (by simp))

theorem rotl u d a b : Statement (.rotl u d a b) := by
  intro _ bs rest henc
  obtain rfl := Option.some.inj henc
  have hf : Layout.rotl.fits [u.toNat, d.toNat, a.toNat, b.toNat] = true := by simp [Layout.rotl, Layout.fits_operand, Layout.fits_fixed, Layout.fits_nil]
  exact round_32 (m := 1) hf rfl (by decide) rfl (by decide)
    ((decodeRows_clash clash_rowsInteger (k := 24) rfl (Layout.unpack_pack hf)).trans (by simp))

theorem iadd64 u d a b : Statement (.iadd64 u d a b) := by
  intro _ bs rest henc
  obtain rfl := Option.some.inj henc
  have hf : Layout.iadd64.fits [u.toNat, d.toNat, a.toNat, b.toNat] = true := by simp [Layout.iadd64, Layout.fits_operand, Layout.fits_fixed, Layout.fits_nil]
  exact round_32 (m := 1) hf rfl (by decide) rfl (by decide)
    ((decodeRows_clash clash_rowsInteger (k := 25) rfl (Layout.unpack_pack hf)).trans (by simp))

theorem trilog z d y a x b w t : Statement (.trilog z d y a x b w t) := by
  intro _ bs rest henc
  obtain rfl := Option.some.inj henc
  have hf : Layout.trilog.fits [z.toNat, d.toNat, y.toNat, a.toNat, x.toNat, b.toNat, w.toNat, t.toNat] = true := by simp [Layout.trilog, Layout.fits_operand, Layout.fits_fixed, Layout.fits_nil]
  exact round_32 (m := 1) hf rfl (by decide) rfl (by decide)
    ((decodeRows_clash clash_rowsInteger (k := 26) rfl (Layout.unpack_pack hf)).trans (by simp))

theorem iaddImm u d a i : Statement (.iaddImm u d a i) := by
  intro _ bs rest henc
  obtain rfl := Option.some.inj henc
  have hf : Layout.iaddImm.fits [u.toNat, d.toNat, a.toNat, i.toNat] = true := by simp [Layout.iaddImm, Layout.fits_operand, Layout.fits_fixed, Layout.fits_nil]
  exact round_32 (m := 2) hf rfl (by decide) rfl (by decide)
    ((decodeRows_clash clash_rowsIntegerImm (k := 4) rfl (Layout.unpack_pack hf)).trans (by simp))

theorem andImm u d a i : Statement (.andImm u d a i) := by
  intro _ bs rest henc
  obtain rfl := Option.some.inj henc
  have hf : Layout.andImm.fits [u.toNat, d.toNat, a.toNat, i.toNat] = true := by simp [Layout.andImm, Layout.fits_operand, Layout.fits_fixed, Layout.fits_nil]
  exact round_32 (m := 2) hf rfl (by decide) rfl (by decide)
    ((decodeRows_clash clash_rowsIntegerImm (k := 5) rfl (Layout.unpack_pack hf)).trans (by simp))

theorem orImm u d a i : Statement (.orImm u d a i) := by
  intro _ bs rest henc
  obtain rfl := Option.some.inj henc
  have hf : Layout.orImm.fits [u.toNat, d.toNat, a.toNat, i.toNat] = true := by simp [Layout.orImm, Layout.fits_operand, Layout.fits_fixed, Layout.fits_nil]
  exact round_32 (m := 2) hf rfl (by decide) rfl (by decide)
    ((decodeRows_clash clash_rowsIntegerImm (k := 6) rfl (Layout.unpack_pack hf)).trans (by simp))

theorem xorImm u d a i : Statement (.xorImm u d a i) := by
  intro _ bs rest henc
  obtain rfl := Option.some.inj henc
  have hf : Layout.xorImm.fits [u.toNat, d.toNat, a.toNat, i.toNat] = true := by simp [Layout.xorImm, Layout.fits_operand, Layout.fits_fixed, Layout.fits_nil]
  exact round_32 (m := 2) hf rfl (by decide) rfl (by decide)
    ((decodeRows_clash clash_rowsIntegerImm (k := 7) rfl (Layout.unpack_pack hf)).trans (by simp))

theorem shlImm u d a i : Statement (.shlImm u d a i) := by
  intro _ bs rest henc
  obtain rfl := Option.some.inj henc
  have hf : Layout.shlImm.fits [u.toNat, d.toNat, a.toNat, i.toNat] = true := by simp [Layout.shlImm, Layout.fits_operand, Layout.fits_fixed, Layout.fits_nil]
  exact round_32 (m := 2) hf rfl (by decide) rfl (by decide)
    ((decodeRows_clash clash_rowsIntegerImm (k := 0) rfl (Layout.unpack_pack hf)).trans (by simp))

theorem shrImm u d a i : Statement (.shrImm u d a i) := by
  intro _ bs rest henc
  obtain rfl := Option.some.inj henc
  have hf : Layout.shrImm.fits [u.toNat, d.toNat, a.toNat, i.toNat] = true := by simp [Layout.shrImm, Layout.fits_operand, Layout.fits_fixed, Layout.fits_nil]
  exact round_32 (m := 2) hf rfl (by decide) rfl (by decide)
    ((decodeRows_clash clash_rowsIntegerImm (k := 1) rfl (Layout.unpack_pack hf)).trans (by simp))

theorem sarImm u d a i : Statement (.sarImm u d a i) := by
  intro _ bs rest henc
  obtain rfl := Option.some.inj henc
  have hf : Layout.sarImm.fits [u.toNat, d.toNat, a.toNat, i.toNat] = true := by simp [Layout.sarImm, Layout.fits_operand, Layout.fits_fixed, Layout.fits_nil]
  exact round_32 (m := 2) hf rfl (by decide) rfl (by decide)
    ((decodeRows_clash clash_rowsIntegerImm (k := 2) rfl (Layout.unpack_pack hf)).trans (by simp))

theorem rotlImm u d a i : Statement (.rotlImm u d a i) := by
  intro _ bs rest henc
  obtain rfl := Option.some.inj henc
  have hf : Layout.rotlImm.fits [u.toNat, d.toNat, a.toNat, i.toNat] = true := by simp [Layout.rotlImm, Layout.fits_operand, Layout.fits_fixed, Layout.fits_nil]
  exact round_32 (m := 2) hf rfl (by decide) rfl (by decide)
    ((decodeRows_clash clash_rowsIntegerImm (k := 3) rfl (Layout.unpack_pack hf)).trans (by simp))

theorem imul u d a b : Statement (.imul u d a b) := by
  intro _ bs rest henc
  obtain rfl := Option.some.inj henc
  have hf : Layout.imul.fits [u.toNat, d.toNat, a.toNat, b.toNat] = true := by simp [Layout.imul, Layout.fits_operand, Layout.fits_fixed, Layout.fits_nil]
  exact round_32 (m := 3) hf rfl (by decide) rfl (by decide)
    ((decodeRows_clash clash_rowsMultiply (k := 0) rfl (Layout.unpack_pack hf)).trans (by simp))

theorem imulhI32 u d a b : Statement (.imulhI32 u d a b) := by
  intro _ bs rest henc
  obtain rfl := Option.some.inj henc
  have hf : Layout.imulhI32.fits [u.toNat, d.toNat, a.toNat, b.toNat] = true := by simp [Layout.imulhI32, Layout.fits_operand, Layout.fits_fixed, Layout.fits_nil]
  exact round_32 (m := 3) hf rfl (by decide) rfl (by decide)
    ((decodeRows_clash clash_rowsMultiply (k := 1) rfl (Layout.unpack_pack hf)).trans (by simp))

theorem imulhN32 u d a b : Statement (.imulhN32 u d a b) := by
  intro _ bs rest henc
  obtain rfl := Option.some.inj henc
  have hf : Layout.imulhN32.fits [u.toNat, d.toNat, a.toNat, b.toNat] = true := by simp [Layout.imulhN32, Layout.fits_operand, Layout.fits_fixed, Layout.fits_nil]
  exact round_32 (m := 3) hf rfl (by decide) rfl (by decide)
    ((decodeRows_clash clash_rowsMultiply (k := 2) rfl (Layout.unpack_pack hf)).trans (by simp))

theorem imad u d a b c : Statement (.imad u d a b c) := by
  intro _ bs rest henc
  obtain rfl := Option.some.inj henc
  have hf : Layout.imad.fits [u.toNat, d.toNat, a.toNat, b.toNat, c.toNat] = true := by simp [Layout.imad, Layout.fits_operand, Layout.fits_fixed, Layout.fits_nil]
  exact round_32 (m := 3) hf rfl (by decide) rfl (by decide)
    ((decodeRows_clash clash_rowsMultiply (k := 3) rfl (Layout.unpack_pack hf)).trans (by simp))

theorem imadwI32 u d a b c : Statement (.imadwI32 u d a b c) := by
  intro _ bs rest henc
  obtain rfl := Option.some.inj henc
  have hf : Layout.imadwI32.fits [u.toNat, d.toNat, a.toNat, b.toNat, c.toNat] = true := by simp [Layout.imadwI32, Layout.fits_operand, Layout.fits_fixed, Layout.fits_nil]
  exact round_32 (m := 3) hf rfl (by decide) rfl (by decide)
    ((decodeRows_clash clash_rowsMultiply (k := 4) rfl (Layout.unpack_pack hf)).trans (by simp))

theorem imadwN32 u d a b c : Statement (.imadwN32 u d a b c) := by
  intro _ bs rest henc
  obtain rfl := Option.some.inj henc
  have hf : Layout.imadwN32.fits [u.toNat, d.toNat, a.toNat, b.toNat, c.toNat] = true := by simp [Layout.imadwN32, Layout.fits_operand, Layout.fits_fixed, Layout.fits_nil]
  exact round_32 (m := 3) hf rfl (by decide) rfl (by decide)
    ((decodeRows_clash clash_rowsMultiply (k := 5) rfl (Layout.unpack_pack hf)).trans (by simp))

theorem isad u d a b c : Statement (.isad u d a b c) := by
  intro _ bs rest henc
  obtain rfl := Option.some.inj henc
  have hf : Layout.isad.fits [u.toNat, d.toNat, a.toNat, b.toNat, c.toNat] = true := by simp [Layout.isad, Layout.fits_operand, Layout.fits_fixed, Layout.fits_nil]
  exact round_32 (m := 3) hf rfl (by decide) rfl (by decide)
    ((decodeRows_clash clash_rowsMultiply (k := 6) rfl (Layout.unpack_pack hf)).trans (by simp))

theorem bfxN32 u d a b : Statement (.bfxN32 u d a b) := by
  intro _ bs rest henc
  obtain rfl := Option.some.inj henc
  have hf : Layout.bfxN32.fits [u.toNat, d.toNat, a.toNat, b.toNat] = true := by simp [Layout.bfxN32, Layout.fits_operand, Layout.fits_fixed, Layout.fits_nil]
  exact round_32 (m := 4) hf rfl (by decide) rfl (by decide)
    ((decodeRows_clash clash_rowsBitField (k := 4) rfl (Layout.unpack_pack hf)).trans (by simp))

theorem bfxI32 u d a b : Statement (.bfxI32 u d a b) := by
  intro _ bs rest henc
  obtain rfl := Option.some.inj henc
  have hf : Layout.bfxI32.fits [u.toNat, d.toNat, a.toNat, b.toNat] = true := by simp [Layout.bfxI32, Layout.fits_operand, Layout.fits_fixed, Layout.fits_nil]
  exact round_32 (m := 4) hf rfl (by decide) rfl (by decide)
    ((decodeRows_clash clash_rowsBitField (k := 5) rfl (Layout.unpack_pack hf)).trans (by simp))

theorem bfi u d a b c : Statement (.bfi u d a b c) := by
  intro _ bs rest henc
  obtain rfl := Option.some.inj henc
  have hf : Layout.bfi.fits [u.toNat, d.toNat, a.toNat, b.toNat, c.toNat] = true := by simp [Layout.bfi, Layout.fits_operand, Layout.fits_fixed, Layout.fits_nil]
  exact round_32 (m := 4) hf rfl (by decide) rfl (by decide)
    ((decodeRows_clash clash_rowsBitField (k := 6) rfl (Layout.unpack_pack hf)).trans (by simp))

theorem popc u d a : Statement (.popc u d a) := by
  intro _ bs rest henc
  obtain rfl := Option.some.inj henc
  have hf : Layout.popc.fits [u.toNat, d.toNat, a.toNat] = true := by simp [Layout.popc, Layout.fits_operand, Layout.fits_fixed, Layout.fits_nil]
  exact round_32 (m := 4) hf rfl (by decide) rfl (by decide)
    ((decodeRows_clash clash_rowsBitField (k := 0) rfl (Layout.unpack_pack hf)).trans (by simp))

theorem clz u d a : Statement (.clz u d a) := by
  intro _ bs rest henc
  obtain rfl := Option.some.inj henc
  have hf : Layout.clz.fits [u.toNat, d.toNat, a.toNat] = true := by simp [Layout.clz, Layout.fits_operand, Layout.fits_fixed, Layout.fits_nil]
  exact round_32 (m := 4) hf rfl (by decide) rfl (by decide)
    ((decodeRows_clash clash_rowsBitField (k := 1) rfl (Layout.unpack_pack hf)).trans (by simp))

theorem ctz u d a : Statement (.ctz u d a) := by
  intro _ bs rest henc
  obtain rfl := Option.some.inj henc
  have hf : Layout.ctz.fits [u.toNat, d.toNat, a.toNat] = true := by simp [Layout.ctz, Layout.fits_operand, Layout.fits_fixed, Layout.fits_nil]
  exact round_32 (m := 4) hf rfl (by decide) rfl (by decide)
    ((decodeRows_clash clash_rowsBitField (k := 2) rfl (Layout.unpack_pack hf)).trans (by simp))

theorem brev u d a : Statement (.brev u d a) := by
  intro _ bs rest henc
  obtain rfl := Option.some.inj henc
  have hf : Layout.brev.fits [u.toNat, d.toNat, a.toNat] = true := by simp [Layout.brev, Layout.fits_operand, Layout.fits_fixed, Layout.fits_nil]
  exact round_32 (m := 4) hf rfl (by decide) rfl (by decide)
    ((decodeRows_clash clash_rowsBitField (k := 3) rfl (Layout.unpack_pack hf)).trans (by simp))

theorem shfL u d a b c : Statement (.shfL u d a b c) := by
  intro _ bs rest henc
  obtain rfl := Option.some.inj henc
  have hf : Layout.shfL.fits [u.toNat, d.toNat, a.toNat, b.toNat, c.toNat] = true := by simp [Layout.shfL, Layout.fits_operand, Layout.fits_fixed, Layout.fits_nil]
  exact round_32 (m := 4) hf rfl (by decide) rfl (by decide)
    ((decodeRows_clash clash_rowsBitField (k := 7) rfl (Layout.unpack_pack hf)).trans (by simp))

theorem shfR u d a b c : Statement (.shfR u d a b c) := by
  intro _ bs rest henc
  obtain rfl := Option.some.inj henc
  have hf : Layout.shfR.fits [u.toNat, d.toNat, a.toNat, b.toNat, c.toNat] = true := by simp [Layout.shfR, Layout.fits_operand, Layout.fits_fixed, Layout.fits_nil]
  exact round_32 (m := 4) hf rfl (by decide) rfl (by decide)
    ((decodeRows_clash clash_rowsBitField (k := 8) rfl (Layout.unpack_pack hf)).trans (by simp))

theorem icmpEqI32 d a b : Statement (.icmpEqI32 d a b) := by
  intro _ bs rest henc
  obtain rfl := Option.some.inj henc
  have hf : Layout.icmpEqI32.fits [d.toNat, a.toNat, b.toNat] = true := by simp [Layout.icmpEqI32, Layout.fits_operand, Layout.fits_fixed, Layout.fits_nil]
  exact round_32 (m := 5) hf rfl (by decide) rfl (by decide)
    ((decodeRows_clash clash_rowsCompare (k := 6) rfl (Layout.unpack_pack hf)).trans (by simp))

theorem fcmpEq d a b : Statement (.fcmpEq d a b) := by
  intro _ bs rest henc
  obtain rfl := Option.some.inj henc
  have hf : Layout.fcmpEq.fits [d.toNat, a.toNat, b.toNat] = true := by simp [Layout.fcmpEq, Layout.fits_operand, Layout.fits_fixed, Layout.fits_nil]
  exact round_32 (m := 5) hf rfl (by decide) rfl (by decide)
    ((decodeRows_clash clash_rowsCompare (k := 18) rfl (Layout.unpack_pack hf)).trans (by simp))

theorem plogAnd d a b : Statement (.plogAnd d a b) := by
  intro _ bs rest henc
  obtain rfl := Option.some.inj henc
  have hf : Layout.plogAnd.fits [d.toNat, a.toNat, b.toNat] = true := by simp [Layout.plogAnd, Layout.fits_operand, Layout.fits_fixed, Layout.fits_nil]
  exact round_32 (m := 5) hf rfl (by decide) rfl (by decide)
    ((decodeRows_clash clash_rowsCompare (k := 0) rfl (Layout.unpack_pack hf)).trans (by simp))

theorem plogOr d a b : Statement (.plogOr d a b) := by
  intro _ bs rest henc
  obtain rfl := Option.some.inj henc
  have hf : Layout.plogOr.fits [d.toNat, a.toNat, b.toNat] = true := by simp [Layout.plogOr, Layout.fits_operand, Layout.fits_fixed, Layout.fits_nil]
  exact round_32 (m := 5) hf rfl (by decide) rfl (by decide)
    ((decodeRows_clash clash_rowsCompare (k := 1) rfl (Layout.unpack_pack hf)).trans (by simp))

theorem plogXor d a b : Statement (.plogXor d a b) := by
  intro _ bs rest henc
  obtain rfl := Option.some.inj henc
  have hf : Layout.plogXor.fits [d.toNat, a.toNat, b.toNat] = true := by simp [Layout.plogXor, Layout.fits_operand, Layout.fits_fixed, Layout.fits_nil]
  exact round_32 (m := 5) hf rfl (by decide) rfl (by decide)
    ((decodeRows_clash clash_rowsCompare (k := 2) rfl (Layout.unpack_pack hf)).trans (by simp))

theorem plogAndn d a b : Statement (.plogAndn d a b) := by
  intro _ bs rest henc
  obtain rfl := Option.some.inj henc
  have hf : Layout.plogAndn.fits [d.toNat, a.toNat, b.toNat] = true := by simp [Layout.plogAndn, Layout.fits_operand, Layout.fits_fixed, Layout.fits_nil]
  exact round_32 (m := 5) hf rfl (by decide) rfl (by decide)
    ((decodeRows_clash clash_rowsCompare (k := 3) rfl (Layout.unpack_pack hf)).trans (by simp))

theorem plogOrn d a b : Statement (.plogOrn d a b) := by
  intro _ bs rest henc
  obtain rfl := Option.some.inj henc
  have hf : Layout.plogOrn.fits [d.toNat, a.toNat, b.toNat] = true := by simp [Layout.plogOrn, Layout.fits_operand, Layout.fits_fixed, Layout.fits_nil]
  exact round_32 (m := 5) hf rfl (by decide) rfl (by decide)
    ((decodeRows_clash clash_rowsCompare (k := 4) rfl (Layout.unpack_pack hf)).trans (by simp))

theorem plogXnor d a b : Statement (.plogXnor d a b) := by
  intro _ bs rest henc
  obtain rfl := Option.some.inj henc
  have hf : Layout.plogXnor.fits [d.toNat, a.toNat, b.toNat] = true := by simp [Layout.plogXnor, Layout.fits_operand, Layout.fits_fixed, Layout.fits_nil]
  exact round_32 (m := 5) hf rfl (by decide) rfl (by decide)
    ((decodeRows_clash clash_rowsCompare (k := 5) rfl (Layout.unpack_pack hf)).trans (by simp))

theorem sel d a b p : Statement (.sel d a b p) := by
  intro _ bs rest henc
  obtain rfl := Option.some.inj henc
  have hf : Layout.sel.fits [d.toNat, a.toNat, b.toNat, p.toNat] = true := by simp [Layout.sel, Layout.fits_operand, Layout.fits_fixed, Layout.fits_nil]
  exact round_32 (m := 5) hf rfl (by decide) rfl (by decide)
    ((decodeRows_clash clash_rowsCompare (k := 26) rfl (Layout.unpack_pack hf)).trans (by simp))

theorem fadd z d a b r : Statement (.fadd z d a b r) := by
  intro _ bs rest henc
  obtain rfl := Option.some.inj henc
  have hf : Layout.fadd.fits [z.toNat, d.toNat, a.toNat, b.toNat, r.toNat] = true := by simp [Layout.fadd, Layout.fits_operand, Layout.fits_fixed, Layout.fits_nil]
  exact round_32 (m := 6) hf rfl (by decide) rfl (by decide)
    ((decodeRows_clash clash_rowsFp32 (k := 4) rfl (Layout.unpack_pack hf)).trans (by simp))

theorem fsub z d a b r : Statement (.fsub z d a b r) := by
  intro _ bs rest henc
  obtain rfl := Option.some.inj henc
  have hf : Layout.fsub.fits [z.toNat, d.toNat, a.toNat, b.toNat, r.toNat] = true := by simp [Layout.fsub, Layout.fits_operand, Layout.fits_fixed, Layout.fits_nil]
  exact round_32 (m := 6) hf rfl (by decide) rfl (by decide)
    ((decodeRows_clash clash_rowsFp32 (k := 5) rfl (Layout.unpack_pack hf)).trans (by simp))

theorem fmul z d a b r : Statement (.fmul z d a b r) := by
  intro _ bs rest henc
  obtain rfl := Option.some.inj henc
  have hf : Layout.fmul.fits [z.toNat, d.toNat, a.toNat, b.toNat, r.toNat] = true := by simp [Layout.fmul, Layout.fits_operand, Layout.fits_fixed, Layout.fits_nil]
  exact round_32 (m := 6) hf rfl (by decide) rfl (by decide)
    ((decodeRows_clash clash_rowsFp32 (k := 6) rfl (Layout.unpack_pack hf)).trans (by simp))

theorem ffmaRn z d a b c : Statement (.ffmaRn z d a b c) := by
  intro _ bs rest henc
  obtain rfl := Option.some.inj henc
  have hf : Layout.ffmaRn.fits [z.toNat, d.toNat, a.toNat, b.toNat, c.toNat] = true := by simp [Layout.ffmaRn, Layout.fits_operand, Layout.fits_fixed, Layout.fits_nil]
  exact round_32 (m := 6) hf rfl (by decide) rfl (by decide)
    ((decodeRows_clash clash_rowsFp32 (k := 7) rfl (Layout.unpack_pack hf)).trans (by simp))

theorem ffmaRz z d a b c : Statement (.ffmaRz z d a b c) := by
  intro _ bs rest henc
  obtain rfl := Option.some.inj henc
  have hf : Layout.ffmaRz.fits [z.toNat, d.toNat, a.toNat, b.toNat, c.toNat] = true := by simp [Layout.ffmaRz, Layout.fits_operand, Layout.fits_fixed, Layout.fits_nil]
  exact round_32 (m := 6) hf rfl (by decide) rfl (by decide)
    ((decodeRows_clash clash_rowsFp32 (k := 8) rfl (Layout.unpack_pack hf)).trans (by simp))

theorem ffmaRu z d a b c : Statement (.ffmaRu z d a b c) := by
  intro _ bs rest henc
  obtain rfl := Option.some.inj henc
  have hf : Layout.ffmaRu.fits [z.toNat, d.toNat, a.toNat, b.toNat, c.toNat] = true := by simp [Layout.ffmaRu, Layout.fits_operand, Layout.fits_fixed, Layout.fits_nil]
  exact round_32 (m := 6) hf rfl (by decide) rfl (by decide)
    ((decodeRows_clash clash_rowsFp32 (k := 9) rfl (Layout.unpack_pack hf)).trans (by simp))

theorem ffmaRd z d a b c : Statement (.ffmaRd z d a b c) := by
  intro _ bs rest henc
  obtain rfl := Option.some.inj henc
  have hf : Layout.ffmaRd.fits [z.toNat, d.toNat, a.toNat, b.toNat, c.toNat] = true := by simp [Layout.ffmaRd, Layout.fits_operand, Layout.fits_fixed, Layout.fits_nil]
  exact round_32 (m := 6) hf rfl (by decide) rfl (by decide)
    ((decodeRows_clash clash_rowsFp32 (k := 10) rfl (Layout.unpack_pack hf)).trans (by simp))

theorem fmin z d a b : Statement (.fmin z d a b) := by
  intro _ bs rest henc
  obtain rfl := Option.some.inj henc
  have hf : Layout.fmin.fits [z.toNat, d.toNat, a.toNat, b.toNat] = true := by simp [Layout.fmin, Layout.fits_operand, Layout.fits_fixed, Layout.fits_nil]
  exact round_32 (m := 6) hf rfl (by decide) rfl (by decide)
    ((decodeRows_clash clash_rowsFp32 (k := 1) rfl (Layout.unpack_pack hf)).trans (by simp))

theorem fmax z d a b : Statement (.fmax z d a b) := by
  intro _ bs rest henc
  obtain rfl := Option.some.inj henc
  have hf : Layout.fmax.fits [z.toNat, d.toNat, a.toNat, b.toNat] = true := by simp [Layout.fmax, Layout.fits_operand, Layout.fits_fixed, Layout.fits_nil]
  exact round_32 (m := 6) hf rfl (by decide) rfl (by decide)
    ((decodeRows_clash clash_rowsFp32 (k := 2) rfl (Layout.unpack_pack hf)).trans (by simp))

theorem frnd z d a r : Statement (.frnd z d a r) := by
  intro _ bs rest henc
  obtain rfl := Option.some.inj henc
  have hf : Layout.frnd.fits [z.toNat, d.toNat, a.toNat, r.toNat] = true := by simp [Layout.frnd, Layout.fits_operand, Layout.fits_fixed, Layout.fits_nil]
  exact round_32 (m := 6) hf rfl (by decide) rfl (by decide)
    ((decodeRows_clash clash_rowsFp32 (k := 3) rfl (Layout.unpack_pack hf)).trans (by simp))

theorem fclass d a : Statement (.fclass d a) := by
  intro _ bs rest henc
  obtain rfl := Option.some.inj henc
  have hf : Layout.fclass.fits [d.toNat, a.toNat] = true := by simp [Layout.fclass, Layout.fits_operand, Layout.fits_fixed, Layout.fits_nil]
  exact round_32 (m := 6) hf rfl (by decide) rfl (by decide)
    ((decodeRows_clash clash_rowsFp32 (k := 0) rfl (Layout.unpack_pack hf)).trans (by simp))

theorem fscale z d a b r : Statement (.fscale z d a b r) := by
  intro _ bs rest henc
  obtain rfl := Option.some.inj henc
  have hf : Layout.fscale.fits [z.toNat, d.toNat, a.toNat, b.toNat, r.toNat] = true := by simp [Layout.fscale, Layout.fits_operand, Layout.fits_fixed, Layout.fits_nil]
  exact round_32 (m := 6) hf rfl (by decide) rfl (by decide)
    ((decodeRows_clash clash_rowsFp32 (k := 11) rfl (Layout.unpack_pack hf)).trans (by simp))

theorem frcp z d a : Statement (.frcp z d a) := by
  intro _ bs rest henc
  obtain rfl := Option.some.inj henc
  have hf : Layout.frcp.fits [z.toNat, d.toNat, a.toNat] = true := by simp [Layout.frcp, Layout.fits_operand, Layout.fits_fixed, Layout.fits_nil]
  exact round_32 (m := 7) hf rfl (by decide) rfl (by decide)
    ((decodeRows_clash clash_rowsSpecial (k := 0) rfl (Layout.unpack_pack hf)).trans (by simp))

theorem frsq z d a : Statement (.frsq z d a) := by
  intro _ bs rest henc
  obtain rfl := Option.some.inj henc
  have hf : Layout.frsq.fits [z.toNat, d.toNat, a.toNat] = true := by simp [Layout.frsq, Layout.fits_operand, Layout.fits_fixed, Layout.fits_nil]
  exact round_32 (m := 7) hf rfl (by decide) rfl (by decide)
    ((decodeRows_clash clash_rowsSpecial (k := 1) rfl (Layout.unpack_pack hf)).trans (by simp))

theorem fsqrt z d a : Statement (.fsqrt z d a) := by
  intro _ bs rest henc
  obtain rfl := Option.some.inj henc
  have hf : Layout.fsqrt.fits [z.toNat, d.toNat, a.toNat] = true := by simp [Layout.fsqrt, Layout.fits_operand, Layout.fits_fixed, Layout.fits_nil]
  exact round_32 (m := 7) hf rfl (by decide) rfl (by decide)
    ((decodeRows_clash clash_rowsSpecial (k := 2) rfl (Layout.unpack_pack hf)).trans (by simp))

theorem fex2 z d a : Statement (.fex2 z d a) := by
  intro _ bs rest henc
  obtain rfl := Option.some.inj henc
  have hf : Layout.fex2.fits [z.toNat, d.toNat, a.toNat] = true := by simp [Layout.fex2, Layout.fits_operand, Layout.fits_fixed, Layout.fits_nil]
  exact round_32 (m := 7) hf rfl (by decide) rfl (by decide)
    ((decodeRows_clash clash_rowsSpecial (k := 3) rfl (Layout.unpack_pack hf)).trans (by simp))

theorem flg2 z d a : Statement (.flg2 z d a) := by
  intro _ bs rest henc
  obtain rfl := Option.some.inj henc
  have hf : Layout.flg2.fits [z.toNat, d.toNat, a.toNat] = true := by simp [Layout.flg2, Layout.fits_operand, Layout.fits_fixed, Layout.fits_nil]
  exact round_32 (m := 7) hf rfl (by decide) rfl (by decide)
    ((decodeRows_clash clash_rowsSpecial (k := 4) rfl (Layout.unpack_pack hf)).trans (by simp))

theorem fsin z d a : Statement (.fsin z d a) := by
  intro _ bs rest henc
  obtain rfl := Option.some.inj henc
  have hf : Layout.fsin.fits [z.toNat, d.toNat, a.toNat] = true := by simp [Layout.fsin, Layout.fits_operand, Layout.fits_fixed, Layout.fits_nil]
  exact round_32 (m := 7) hf rfl (by decide) rfl (by decide)
    ((decodeRows_clash clash_rowsSpecial (k := 5) rfl (Layout.unpack_pack hf)).trans (by simp))

theorem fcos z d a : Statement (.fcos z d a) := by
  intro _ bs rest henc
  obtain rfl := Option.some.inj henc
  have hf : Layout.fcos.fits [z.toNat, d.toNat, a.toNat] = true := by simp [Layout.fcos, Layout.fits_operand, Layout.fits_fixed, Layout.fits_nil]
  exact round_32 (m := 7) hf rfl (by decide) rfl (by decide)
    ((decodeRows_clash clash_rowsSpecial (k := 6) rfl (Layout.unpack_pack hf)).trans (by simp))

theorem ftanh z d a : Statement (.ftanh z d a) := by
  intro _ bs rest henc
  obtain rfl := Option.some.inj henc
  have hf : Layout.ftanh.fits [z.toNat, d.toNat, a.toNat] = true := by simp [Layout.ftanh, Layout.fits_operand, Layout.fits_fixed, Layout.fits_nil]
  exact round_32 (m := 7) hf rfl (by decide) rfl (by decide)
    ((decodeRows_clash clash_rowsSpecial (k := 7) rfl (Layout.unpack_pack hf)).trans (by simp))

theorem f2iI8 d a r : Statement (.f2iI8 d a r) := by
  intro _ bs rest henc
  obtain rfl := Option.some.inj henc
  have hf : Layout.f2iI8.fits [d.toNat, a.toNat, r.toNat] = true := by simp [Layout.f2iI8, Layout.fits_operand, Layout.fits_fixed, Layout.fits_nil]
  exact round_32 (m := 8) hf rfl (by decide) rfl (by decide)
    ((decodeRows_clash clash_rowsConvert (k := 4) rfl (Layout.unpack_pack hf)).trans (by simp))

theorem i2fI8 d a r : Statement (.i2fI8 d a r) := by
  intro _ bs rest henc
  obtain rfl := Option.some.inj henc
  have hf : Layout.i2fI8.fits [d.toNat, a.toNat, r.toNat] = true := by simp [Layout.i2fI8, Layout.fits_operand, Layout.fits_fixed, Layout.fits_nil]
  exact round_32 (m := 8) hf rfl (by decide) rfl (by decide)
    ((decodeRows_clash clash_rowsConvert (k := 10) rfl (Layout.unpack_pack hf)).trans (by simp))

theorem i2iI8 d a y x : Statement (.i2iI8 d a y x) := by
  intro _ bs rest henc
  obtain rfl := Option.some.inj henc
  have hf : Layout.i2iI8.fits [d.toNat, a.toNat, y.toNat, x.toNat] = true := by simp [Layout.i2iI8, Layout.fits_operand, Layout.fits_fixed, Layout.fits_nil]
  exact round_32 (m := 8) hf rfl (by decide) rfl (by decide)
    ((decodeRows_clash clash_rowsConvert (k := 35) rfl (Layout.unpack_pack hf)).trans (by simp))

theorem i2iI16 d a y x : Statement (.i2iI16 d a y x) := by
  intro _ bs rest henc
  obtain rfl := Option.some.inj henc
  have hf : Layout.i2iI16.fits [d.toNat, a.toNat, y.toNat, x.toNat] = true := by simp [Layout.i2iI16, Layout.fits_operand, Layout.fits_fixed, Layout.fits_nil]
  exact round_32 (m := 8) hf rfl (by decide) rfl (by decide)
    ((decodeRows_clash clash_rowsConvert (k := 36) rfl (Layout.unpack_pack hf)).trans (by simp))

theorem i2iI32 d a y x : Statement (.i2iI32 d a y x) := by
  intro _ bs rest henc
  obtain rfl := Option.some.inj henc
  have hf : Layout.i2iI32.fits [d.toNat, a.toNat, y.toNat, x.toNat] = true := by simp [Layout.i2iI32, Layout.fits_operand, Layout.fits_fixed, Layout.fits_nil]
  exact round_32 (m := 8) hf rfl (by decide) rfl (by decide)
    ((decodeRows_clash clash_rowsConvert (k := 37) rfl (Layout.unpack_pack hf)).trans (by simp))

theorem i2iN8 d a y x : Statement (.i2iN8 d a y x) := by
  intro _ bs rest henc
  obtain rfl := Option.some.inj henc
  have hf : Layout.i2iN8.fits [d.toNat, a.toNat, y.toNat, x.toNat] = true := by simp [Layout.i2iN8, Layout.fits_operand, Layout.fits_fixed, Layout.fits_nil]
  exact round_32 (m := 8) hf rfl (by decide) rfl (by decide)
    ((decodeRows_clash clash_rowsConvert (k := 38) rfl (Layout.unpack_pack hf)).trans (by simp))

theorem i2iN16 d a y x : Statement (.i2iN16 d a y x) := by
  intro _ bs rest henc
  obtain rfl := Option.some.inj henc
  have hf : Layout.i2iN16.fits [d.toNat, a.toNat, y.toNat, x.toNat] = true := by simp [Layout.i2iN16, Layout.fits_operand, Layout.fits_fixed, Layout.fits_nil]
  exact round_32 (m := 8) hf rfl (by decide) rfl (by decide)
    ((decodeRows_clash clash_rowsConvert (k := 39) rfl (Layout.unpack_pack hf)).trans (by simp))

theorem i2iN32 d a y x : Statement (.i2iN32 d a y x) := by
  intro _ bs rest henc
  obtain rfl := Option.some.inj henc
  have hf : Layout.i2iN32.fits [d.toNat, a.toNat, y.toNat, x.toNat] = true := by simp [Layout.i2iN32, Layout.fits_operand, Layout.fits_fixed, Layout.fits_nil]
  exact round_32 (m := 8) hf rfl (by decide) rfl (by decide)
    ((decodeRows_clash clash_rowsConvert (k := 40) rfl (Layout.unpack_pack hf)).trans (by simp))

theorem fcvtBf16 d a r : Statement (.fcvtBf16 d a r) := by
  intro _ bs rest henc
  obtain rfl := Option.some.inj henc
  have hf : Layout.fcvtBf16.fits [d.toNat, a.toNat, r.toNat] = true := by simp [Layout.fcvtBf16, Layout.fits_operand, Layout.fits_fixed, Layout.fits_nil]
  exact round_32 (m := 8) hf rfl (by decide) rfl (by decide)
    ((decodeRows_clash clash_rowsConvert (k := 16) rfl (Layout.unpack_pack hf)).trans (by simp))

theorem fcvtF16 d a r : Statement (.fcvtF16 d a r) := by
  intro _ bs rest henc
  obtain rfl := Option.some.inj henc
  have hf : Layout.fcvtF16.fits [d.toNat, a.toNat, r.toNat] = true := by simp [Layout.fcvtF16, Layout.fits_operand, Layout.fits_fixed, Layout.fits_nil]
  exact round_32 (m := 8) hf rfl (by decide) rfl (by decide)
    ((decodeRows_clash clash_rowsConvert (k := 17) rfl (Layout.unpack_pack hf)).trans (by simp))

theorem fcvtE4m3 d a r : Statement (.fcvtE4m3 d a r) := by
  intro _ bs rest henc
  obtain rfl := Option.some.inj henc
  have hf : Layout.fcvtE4m3.fits [d.toNat, a.toNat, r.toNat] = true := by simp [Layout.fcvtE4m3, Layout.fits_operand, Layout.fits_fixed, Layout.fits_nil]
  exact round_32 (m := 8) hf rfl (by decide) rfl (by decide)
    ((decodeRows_clash clash_rowsConvert (k := 18) rfl (Layout.unpack_pack hf)).trans (by simp))

theorem fcvtE5m2 d a r : Statement (.fcvtE5m2 d a r) := by
  intro _ bs rest henc
  obtain rfl := Option.some.inj henc
  have hf : Layout.fcvtE5m2.fits [d.toNat, a.toNat, r.toNat] = true := by simp [Layout.fcvtE5m2, Layout.fits_operand, Layout.fits_fixed, Layout.fits_nil]
  exact round_32 (m := 8) hf rfl (by decide) rfl (by decide)
    ((decodeRows_clash clash_rowsConvert (k := 19) rfl (Layout.unpack_pack hf)).trans (by simp))

theorem fcvtE2m1 d a r : Statement (.fcvtE2m1 d a r) := by
  intro _ bs rest henc
  obtain rfl := Option.some.inj henc
  have hf : Layout.fcvtE2m1.fits [d.toNat, a.toNat, r.toNat] = true := by simp [Layout.fcvtE2m1, Layout.fits_operand, Layout.fits_fixed, Layout.fits_nil]
  exact round_32 (m := 8) hf rfl (by decide) rfl (by decide)
    ((decodeRows_clash clash_rowsConvert (k := 20) rfl (Layout.unpack_pack hf)).trans (by simp))

theorem fcvtSrBf16 d a b : Statement (.fcvtSrBf16 d a b) := by
  intro _ bs rest henc
  obtain rfl := Option.some.inj henc
  have hf : Layout.fcvtSrBf16.fits [d.toNat, a.toNat, b.toNat] = true := by simp [Layout.fcvtSrBf16, Layout.fits_operand, Layout.fits_fixed, Layout.fits_nil]
  exact round_32 (m := 8) hf rfl (by decide) rfl (by decide)
    ((decodeRows_clash clash_rowsConvert (k := 21) rfl (Layout.unpack_pack hf)).trans (by simp))

theorem fcvtSrF16 d a b : Statement (.fcvtSrF16 d a b) := by
  intro _ bs rest henc
  obtain rfl := Option.some.inj henc
  have hf : Layout.fcvtSrF16.fits [d.toNat, a.toNat, b.toNat] = true := by simp [Layout.fcvtSrF16, Layout.fits_operand, Layout.fits_fixed, Layout.fits_nil]
  exact round_32 (m := 8) hf rfl (by decide) rfl (by decide)
    ((decodeRows_clash clash_rowsConvert (k := 22) rfl (Layout.unpack_pack hf)).trans (by simp))

theorem fcvtSrE4m3 d a b : Statement (.fcvtSrE4m3 d a b) := by
  intro _ bs rest henc
  obtain rfl := Option.some.inj henc
  have hf : Layout.fcvtSrE4m3.fits [d.toNat, a.toNat, b.toNat] = true := by simp [Layout.fcvtSrE4m3, Layout.fits_operand, Layout.fits_fixed, Layout.fits_nil]
  exact round_32 (m := 8) hf rfl (by decide) rfl (by decide)
    ((decodeRows_clash clash_rowsConvert (k := 23) rfl (Layout.unpack_pack hf)).trans (by simp))

theorem fcvtSrE5m2 d a b : Statement (.fcvtSrE5m2 d a b) := by
  intro _ bs rest henc
  obtain rfl := Option.some.inj henc
  have hf : Layout.fcvtSrE5m2.fits [d.toNat, a.toNat, b.toNat] = true := by simp [Layout.fcvtSrE5m2, Layout.fits_operand, Layout.fits_fixed, Layout.fits_nil]
  exact round_32 (m := 8) hf rfl (by decide) rfl (by decide)
    ((decodeRows_clash clash_rowsConvert (k := 24) rfl (Layout.unpack_pack hf)).trans (by simp))

theorem fcvtSrE2m1 d a b : Statement (.fcvtSrE2m1 d a b) := by
  intro _ bs rest henc
  obtain rfl := Option.some.inj henc
  have hf : Layout.fcvtSrE2m1.fits [d.toNat, a.toNat, b.toNat] = true := by simp [Layout.fcvtSrE2m1, Layout.fits_operand, Layout.fits_fixed, Layout.fits_nil]
  exact round_32 (m := 8) hf rfl (by decide) rfl (by decide)
    ((decodeRows_clash clash_rowsConvert (k := 25) rfl (Layout.unpack_pack hf)).trans (by simp))

theorem fpkBf16 d a : Statement (.fpkBf16 d a) := by
  intro _ bs rest henc
  obtain rfl := Option.some.inj henc
  have hf : Layout.fpkBf16.fits [d.toNat, a.toNat] = true := by simp [Layout.fpkBf16, Layout.fits_operand, Layout.fits_fixed, Layout.fits_nil]
  exact round_32 (m := 8) hf rfl (by decide) rfl (by decide)
    ((decodeRows_clash clash_rowsConvert (k := 0) rfl (Layout.unpack_pack hf)).trans (by simp))

theorem fpkF16 d a : Statement (.fpkF16 d a) := by
  intro _ bs rest henc
  obtain rfl := Option.some.inj henc
  have hf : Layout.fpkF16.fits [d.toNat, a.toNat] = true := by simp [Layout.fpkF16, Layout.fits_operand, Layout.fits_fixed, Layout.fits_nil]
  exact round_32 (m := 8) hf rfl (by decide) rfl (by decide)
    ((decodeRows_clash clash_rowsConvert (k := 1) rfl (Layout.unpack_pack hf)).trans (by simp))

theorem fpkE4m3 d a : Statement (.fpkE4m3 d a) := by
  intro _ bs rest henc
  obtain rfl := Option.some.inj henc
  have hf : Layout.fpkE4m3.fits [d.toNat, a.toNat] = true := by simp [Layout.fpkE4m3, Layout.fits_operand, Layout.fits_fixed, Layout.fits_nil]
  exact round_32 (m := 8) hf rfl (by decide) rfl (by decide)
    ((decodeRows_clash clash_rowsConvert (k := 2) rfl (Layout.unpack_pack hf)).trans (by simp))

theorem fpkE5m2 d a : Statement (.fpkE5m2 d a) := by
  intro _ bs rest henc
  obtain rfl := Option.some.inj henc
  have hf : Layout.fpkE5m2.fits [d.toNat, a.toNat] = true := by simp [Layout.fpkE5m2, Layout.fits_operand, Layout.fits_fixed, Layout.fits_nil]
  exact round_32 (m := 8) hf rfl (by decide) rfl (by decide)
    ((decodeRows_clash clash_rowsConvert (k := 3) rfl (Layout.unpack_pack hf)).trans (by simp))

theorem fpkSrBf16 d a b : Statement (.fpkSrBf16 d a b) := by
  intro _ bs rest henc
  obtain rfl := Option.some.inj henc
  have hf : Layout.fpkSrBf16.fits [d.toNat, a.toNat, b.toNat] = true := by simp [Layout.fpkSrBf16, Layout.fits_operand, Layout.fits_fixed, Layout.fits_nil]
  exact round_32 (m := 8) hf rfl (by decide) rfl (by decide)
    ((decodeRows_clash clash_rowsConvert (k := 26) rfl (Layout.unpack_pack hf)).trans (by simp))

theorem fpkSrF16 d a b : Statement (.fpkSrF16 d a b) := by
  intro _ bs rest henc
  obtain rfl := Option.some.inj henc
  have hf : Layout.fpkSrF16.fits [d.toNat, a.toNat, b.toNat] = true := by simp [Layout.fpkSrF16, Layout.fits_operand, Layout.fits_fixed, Layout.fits_nil]
  exact round_32 (m := 8) hf rfl (by decide) rfl (by decide)
    ((decodeRows_clash clash_rowsConvert (k := 27) rfl (Layout.unpack_pack hf)).trans (by simp))

theorem fpkSrE4m3 d a b : Statement (.fpkSrE4m3 d a b) := by
  intro _ bs rest henc
  obtain rfl := Option.some.inj henc
  have hf : Layout.fpkSrE4m3.fits [d.toNat, a.toNat, b.toNat] = true := by simp [Layout.fpkSrE4m3, Layout.fits_operand, Layout.fits_fixed, Layout.fits_nil]
  exact round_32 (m := 8) hf rfl (by decide) rfl (by decide)
    ((decodeRows_clash clash_rowsConvert (k := 28) rfl (Layout.unpack_pack hf)).trans (by simp))

theorem fpkSrE5m2 d a b : Statement (.fpkSrE5m2 d a b) := by
  intro _ bs rest henc
  obtain rfl := Option.some.inj henc
  have hf : Layout.fpkSrE5m2.fits [d.toNat, a.toNat, b.toNat] = true := by simp [Layout.fpkSrE5m2, Layout.fits_operand, Layout.fits_fixed, Layout.fits_nil]
  exact round_32 (m := 8) hf rfl (by decide) rfl (by decide)
    ((decodeRows_clash clash_rowsConvert (k := 29) rfl (Layout.unpack_pack hf)).trans (by simp))

theorem funpkBf16 d a j : Statement (.funpkBf16 d a j) := by
  intro _ bs rest henc
  obtain rfl := Option.some.inj henc
  have hf : Layout.funpkBf16.fits [d.toNat, a.toNat, j.toNat] = true := by simp [Layout.funpkBf16, Layout.fits_operand, Layout.fits_fixed, Layout.fits_nil]
  exact round_32 (m := 8) hf rfl (by decide) rfl (by decide)
    ((decodeRows_clash clash_rowsConvert (k := 30) rfl (Layout.unpack_pack hf)).trans (by simp))

theorem funpkF16 d a j : Statement (.funpkF16 d a j) := by
  intro _ bs rest henc
  obtain rfl := Option.some.inj henc
  have hf : Layout.funpkF16.fits [d.toNat, a.toNat, j.toNat] = true := by simp [Layout.funpkF16, Layout.fits_operand, Layout.fits_fixed, Layout.fits_nil]
  exact round_32 (m := 8) hf rfl (by decide) rfl (by decide)
    ((decodeRows_clash clash_rowsConvert (k := 31) rfl (Layout.unpack_pack hf)).trans (by simp))

theorem funpkE4m3 d a j : Statement (.funpkE4m3 d a j) := by
  intro _ bs rest henc
  obtain rfl := Option.some.inj henc
  have hf : Layout.funpkE4m3.fits [d.toNat, a.toNat, j.toNat] = true := by simp [Layout.funpkE4m3, Layout.fits_operand, Layout.fits_fixed, Layout.fits_nil]
  exact round_32 (m := 8) hf rfl (by decide) rfl (by decide)
    ((decodeRows_clash clash_rowsConvert (k := 32) rfl (Layout.unpack_pack hf)).trans (by simp))

theorem funpkE5m2 d a j : Statement (.funpkE5m2 d a j) := by
  intro _ bs rest henc
  obtain rfl := Option.some.inj henc
  have hf : Layout.funpkE5m2.fits [d.toNat, a.toNat, j.toNat] = true := by simp [Layout.funpkE5m2, Layout.fits_operand, Layout.fits_fixed, Layout.fits_nil]
  exact round_32 (m := 8) hf rfl (by decide) rfl (by decide)
    ((decodeRows_clash clash_rowsConvert (k := 33) rfl (Layout.unpack_pack hf)).trans (by simp))

theorem funpkE2m1 d a j : Statement (.funpkE2m1 d a j) := by
  intro _ bs rest henc
  obtain rfl := Option.some.inj henc
  have hf : Layout.funpkE2m1.fits [d.toNat, a.toNat, j.toNat] = true := by simp [Layout.funpkE2m1, Layout.fits_operand, Layout.fits_fixed, Layout.fits_nil]
  exact round_32 (m := 8) hf rfl (by decide) rfl (by decide)
    ((decodeRows_clash clash_rowsConvert (k := 34) rfl (Layout.unpack_pack hf)).trans (by simp))

theorem dot4i8 d a b c : Statement (.dot4i8 d a b c) := by
  intro _ bs rest henc
  obtain rfl := Option.some.inj henc
  have hf : Layout.dot4i8.fits [d.toNat, a.toNat, b.toNat, c.toNat] = true := by simp [Layout.dot4i8, Layout.fits_operand, Layout.fits_fixed, Layout.fits_nil]
  exact round_32 (m := 9) hf rfl (by decide) rfl (by decide)
    ((decodeRows_clash clash_rowsPacked (k := 6) rfl (Layout.unpack_pack hf)).trans (by simp))

theorem dot4i8Sat d a b c : Statement (.dot4i8Sat d a b c) := by
  intro _ bs rest henc
  obtain rfl := Option.some.inj henc
  have hf : Layout.dot4i8Sat.fits [d.toNat, a.toNat, b.toNat, c.toNat] = true := by simp [Layout.dot4i8Sat, Layout.fits_operand, Layout.fits_fixed, Layout.fits_nil]
  exact round_32 (m := 9) hf rfl (by decide) rfl (by decide)
    ((decodeRows_clash clash_rowsPacked (k := 7) rfl (Layout.unpack_pack hf)).trans (by simp))

theorem dot8i4 d a b c : Statement (.dot8i4 d a b c) := by
  intro _ bs rest henc
  obtain rfl := Option.some.inj henc
  have hf : Layout.dot8i4.fits [d.toNat, a.toNat, b.toNat, c.toNat] = true := by simp [Layout.dot8i4, Layout.fits_operand, Layout.fits_fixed, Layout.fits_nil]
  exact round_32 (m := 9) hf rfl (by decide) rfl (by decide)
    ((decodeRows_clash clash_rowsPacked (k := 8) rfl (Layout.unpack_pack hf)).trans (by simp))

theorem dot8i4Sat d a b c : Statement (.dot8i4Sat d a b c) := by
  intro _ bs rest henc
  obtain rfl := Option.some.inj henc
  have hf : Layout.dot8i4Sat.fits [d.toNat, a.toNat, b.toNat, c.toNat] = true := by simp [Layout.dot8i4Sat, Layout.fits_operand, Layout.fits_fixed, Layout.fits_nil]
  exact round_32 (m := 9) hf rfl (by decide) rfl (by decide)
    ((decodeRows_clash clash_rowsPacked (k := 9) rfl (Layout.unpack_pack hf)).trans (by simp))

theorem dot4f8E4m3 d a b c : Statement (.dot4f8E4m3 d a b c) := by
  intro _ bs rest henc
  obtain rfl := Option.some.inj henc
  have hf : Layout.dot4f8E4m3.fits [d.toNat, a.toNat, b.toNat, c.toNat] = true := by simp [Layout.dot4f8E4m3, Layout.fits_operand, Layout.fits_fixed, Layout.fits_nil]
  exact round_32 (m := 9) hf rfl (by decide) rfl (by decide)
    ((decodeRows_clash clash_rowsPacked (k := 10) rfl (Layout.unpack_pack hf)).trans (by simp))

theorem dot4f8E5m2 d a b c : Statement (.dot4f8E5m2 d a b c) := by
  intro _ bs rest henc
  obtain rfl := Option.some.inj henc
  have hf : Layout.dot4f8E5m2.fits [d.toNat, a.toNat, b.toNat, c.toNat] = true := by simp [Layout.dot4f8E5m2, Layout.fits_operand, Layout.fits_fixed, Layout.fits_nil]
  exact round_32 (m := 9) hf rfl (by decide) rfl (by decide)
    ((decodeRows_clash clash_rowsPacked (k := 11) rfl (Layout.unpack_pack hf)).trans (by simp))

theorem hfma2Bf16 d a b c : Statement (.hfma2Bf16 d a b c) := by
  intro _ bs rest henc
  obtain rfl := Option.some.inj henc
  have hf : Layout.hfma2Bf16.fits [d.toNat, a.toNat, b.toNat, c.toNat] = true := by simp [Layout.hfma2Bf16, Layout.fits_operand, Layout.fits_fixed, Layout.fits_nil]
  exact round_32 (m := 9) hf rfl (by decide) rfl (by decide)
    ((decodeRows_clash clash_rowsPacked (k := 12) rfl (Layout.unpack_pack hf)).trans (by simp))

theorem hfma2F16 d a b c : Statement (.hfma2F16 d a b c) := by
  intro _ bs rest henc
  obtain rfl := Option.some.inj henc
  have hf : Layout.hfma2F16.fits [d.toNat, a.toNat, b.toNat, c.toNat] = true := by simp [Layout.hfma2F16, Layout.fits_operand, Layout.fits_fixed, Layout.fits_nil]
  exact round_32 (m := 9) hf rfl (by decide) rfl (by decide)
    ((decodeRows_clash clash_rowsPacked (k := 13) rfl (Layout.unpack_pack hf)).trans (by simp))

theorem hadd2Bf16 d a b : Statement (.hadd2Bf16 d a b) := by
  intro _ bs rest henc
  obtain rfl := Option.some.inj henc
  have hf : Layout.hadd2Bf16.fits [d.toNat, a.toNat, b.toNat] = true := by simp [Layout.hadd2Bf16, Layout.fits_operand, Layout.fits_fixed, Layout.fits_nil]
  exact round_32 (m := 9) hf rfl (by decide) rfl (by decide)
    ((decodeRows_clash clash_rowsPacked (k := 0) rfl (Layout.unpack_pack hf)).trans (by simp))

theorem hadd2F16 d a b : Statement (.hadd2F16 d a b) := by
  intro _ bs rest henc
  obtain rfl := Option.some.inj henc
  have hf : Layout.hadd2F16.fits [d.toNat, a.toNat, b.toNat] = true := by simp [Layout.hadd2F16, Layout.fits_operand, Layout.fits_fixed, Layout.fits_nil]
  exact round_32 (m := 9) hf rfl (by decide) rfl (by decide)
    ((decodeRows_clash clash_rowsPacked (k := 1) rfl (Layout.unpack_pack hf)).trans (by simp))

theorem hmul2Bf16 d a b : Statement (.hmul2Bf16 d a b) := by
  intro _ bs rest henc
  obtain rfl := Option.some.inj henc
  have hf : Layout.hmul2Bf16.fits [d.toNat, a.toNat, b.toNat] = true := by simp [Layout.hmul2Bf16, Layout.fits_operand, Layout.fits_fixed, Layout.fits_nil]
  exact round_32 (m := 9) hf rfl (by decide) rfl (by decide)
    ((decodeRows_clash clash_rowsPacked (k := 2) rfl (Layout.unpack_pack hf)).trans (by simp))

theorem hmul2F16 d a b : Statement (.hmul2F16 d a b) := by
  intro _ bs rest henc
  obtain rfl := Option.some.inj henc
  have hf : Layout.hmul2F16.fits [d.toNat, a.toNat, b.toNat] = true := by simp [Layout.hmul2F16, Layout.fits_operand, Layout.fits_fixed, Layout.fits_nil]
  exact round_32 (m := 9) hf rfl (by decide) rfl (by decide)
    ((decodeRows_clash clash_rowsPacked (k := 3) rfl (Layout.unpack_pack hf)).trans (by simp))

theorem hmax2Bf16 d a b : Statement (.hmax2Bf16 d a b) := by
  intro _ bs rest henc
  obtain rfl := Option.some.inj henc
  have hf : Layout.hmax2Bf16.fits [d.toNat, a.toNat, b.toNat] = true := by simp [Layout.hmax2Bf16, Layout.fits_operand, Layout.fits_fixed, Layout.fits_nil]
  exact round_32 (m := 9) hf rfl (by decide) rfl (by decide)
    ((decodeRows_clash clash_rowsPacked (k := 4) rfl (Layout.unpack_pack hf)).trans (by simp))

theorem hmax2F16 d a b : Statement (.hmax2F16 d a b) := by
  intro _ bs rest henc
  obtain rfl := Option.some.inj henc
  have hf : Layout.hmax2F16.fits [d.toNat, a.toNat, b.toNat] = true := by simp [Layout.hmax2F16, Layout.fits_operand, Layout.fits_fixed, Layout.fits_nil]
  exact round_32 (m := 9) hf rfl (by decide) rfl (by decide)
    ((decodeRows_clash clash_rowsPacked (k := 5) rfl (Layout.unpack_pack hf)).trans (by simp))

theorem mov d s : Statement (.mov d s) := by
  intro _ bs rest henc
  obtain rfl := Option.some.inj henc
  have hf : Layout.mov.fits [d.toNat, s.toNat] = true := by simp [Layout.mov, Layout.fits_operand, Layout.fits_fixed, Layout.fits_nil]
  exact round_32 (m := 10) hf rfl (by decide) rfl (by decide)
    ((decodeRows_clash clash_rowsMove (k := 5) rfl (Layout.unpack_pack hf)).trans (by simp))

theorem movi d i : Statement (.movi d i) := by
  intro _ bs rest henc
  obtain rfl := Option.some.inj henc
  have hf : Layout.movi.fits [d.toNat, i.toNat] = true := by simp [Layout.movi, Layout.fits_operand, Layout.fits_fixed, Layout.fits_nil]
  exact round_32 (m := 10) hf rfl (by decide) rfl (by decide)
    ((decodeRows_clash clash_rowsMove (k := 6) rfl (Layout.unpack_pack hf)).trans (by simp))

theorem movih d i : Statement (.movih d i) := by
  intro _ bs rest henc
  obtain rfl := Option.some.inj henc
  have hf : Layout.movih.fits [d.toNat, i.toNat] = true := by simp [Layout.movih, Layout.fits_operand, Layout.fits_fixed, Layout.fits_nil]
  exact round_32 (m := 10) hf rfl (by decide) rfl (by decide)
    ((decodeRows_clash clash_rowsMove (k := 7) rfl (Layout.unpack_pack hf)).trans (by simp))

theorem movkVK d s : Statement (.movkVK d s) := by
  intro _ bs rest henc
  obtain rfl := Option.some.inj henc
  have hf : Layout.movkVK.fits [d.toNat, s.toNat] = true := by simp [Layout.movkVK, Layout.fits_operand, Layout.fits_fixed, Layout.fits_nil]
  exact round_32 (m := 10) hf rfl (by decide) rfl (by decide)
    ((decodeRows_clash clash_rowsMove (k := 0) rfl (Layout.unpack_pack hf)).trans (by simp))

theorem movkKV d s : Statement (.movkKV d s) := by
  intro _ bs rest henc
  obtain rfl := Option.some.inj henc
  have hf : Layout.movkKV.fits [d.toNat, s.toNat] = true := by simp [Layout.movkKV, Layout.fits_operand, Layout.fits_fixed, Layout.fits_nil]
  exact round_32 (m := 10) hf rfl (by decide) rfl (by decide)
    ((decodeRows_clash clash_rowsMove (k := 1) rfl (Layout.unpack_pack hf)).trans (by simp))

theorem movkKS d s : Statement (.movkKS d s) := by
  intro _ bs rest henc
  obtain rfl := Option.some.inj henc
  have hf : Layout.movkKS.fits [d.toNat, s.toNat] = true := by simp [Layout.movkKS, Layout.fits_operand, Layout.fits_fixed, Layout.fits_nil]
  exact round_32 (m := 10) hf rfl (by decide) rfl (by decide)
    ((decodeRows_clash clash_rowsMove (k := 2) rfl (Layout.unpack_pack hf)).trans (by simp))

theorem movkSK d s : Statement (.movkSK d s) := by
  intro _ bs rest henc
  obtain rfl := Option.some.inj henc
  have hf : Layout.movkSK.fits [d.toNat, s.toNat] = true := by simp [Layout.movkSK, Layout.fits_operand, Layout.fits_fixed, Layout.fits_nil]
  exact round_32 (m := 10) hf rfl (by decide) rfl (by decide)
    ((decodeRows_clash clash_rowsMove (k := 3) rfl (Layout.unpack_pack hf)).trans (by simp))

theorem movs d c k : Statement (.movs d c k) := by
  intro _ bs rest henc
  obtain rfl := Option.some.inj henc
  have hf : Layout.movs.fits [d.toNat, c.toNat, k.toNat] = true := by simp [Layout.movs, Layout.fits_operand, Layout.fits_fixed, Layout.fits_nil]
  exact round_32 (m := 10) hf rfl (by decide) rfl (by decide)
    ((decodeRows_clash clash_rowsMove (k := 4) rfl (Layout.unpack_pack hf)).trans (by simp))

theorem moviK d i : Statement (.moviK d i) := by
  intro _ bs rest henc
  obtain rfl := Option.some.inj henc
  have hf : Layout.moviK.fits [d.toNat, i.toNat] = true := by simp [Layout.moviK, Layout.fits_operand, Layout.fits_fixed, Layout.fits_nil]
  exact round_32 (m := 10) hf rfl (by decide) rfl (by decide)
    ((decodeRows_clash clash_rowsMove (k := 8) rfl (Layout.unpack_pack hf)).trans (by simp))

theorem movihK d i : Statement (.movihK d i) := by
  intro _ bs rest henc
  obtain rfl := Option.some.inj henc
  have hf : Layout.movihK.fits [d.toNat, i.toNat] = true := by simp [Layout.movihK, Layout.fits_operand, Layout.fits_fixed, Layout.fits_nil]
  exact round_32 (m := 10) hf rfl (by decide) rfl (by decide)
    ((decodeRows_clash clash_rowsMove (k := 9) rfl (Layout.unpack_pack hf)).trans (by simp))

theorem lanexPick d a b : Statement (.lanexPick d a b) := by
  intro _ bs rest henc
  obtain rfl := Option.some.inj henc
  have hf : Layout.lanexPick.fits [d.toNat, a.toNat, b.toNat] = true := by simp [Layout.lanexPick, Layout.fits_operand, Layout.fits_fixed, Layout.fits_nil]
  exact round_32 (m := 11) hf rfl (by decide) rfl (by decide)
    ((decodeRows_clash clash_rowsCrossLane (k := 15) rfl (Layout.unpack_pack hf)).trans (by simp))

theorem lanexLo d a b : Statement (.lanexLo d a b) := by
  intro _ bs rest henc
  obtain rfl := Option.some.inj henc
  have hf : Layout.lanexLo.fits [d.toNat, a.toNat, b.toNat] = true := by simp [Layout.lanexLo, Layout.fits_operand, Layout.fits_fixed, Layout.fits_nil]
  exact round_32 (m := 11) hf rfl (by decide) rfl (by decide)
    ((decodeRows_clash clash_rowsCrossLane (k := 16) rfl (Layout.unpack_pack hf)).trans (by simp))

theorem lanexHi d a b : Statement (.lanexHi d a b) := by
  intro _ bs rest henc
  obtain rfl := Option.some.inj henc
  have hf : Layout.lanexHi.fits [d.toNat, a.toNat, b.toNat] = true := by simp [Layout.lanexHi, Layout.fits_operand, Layout.fits_fixed, Layout.fits_nil]
  exact round_32 (m := 11) hf rfl (by decide) rfl (by decide)
    ((decodeRows_clash clash_rowsCrossLane (k := 17) rfl (Layout.unpack_pack hf)).trans (by simp))

theorem lanexFlip d a b : Statement (.lanexFlip d a b) := by
  intro _ bs rest henc
  obtain rfl := Option.some.inj henc
  have hf : Layout.lanexFlip.fits [d.toNat, a.toNat, b.toNat] = true := by simp [Layout.lanexFlip, Layout.fits_operand, Layout.fits_fixed, Layout.fits_nil]
  exact round_32 (m := 11) hf rfl (by decide) rfl (by decide)
    ((decodeRows_clash clash_rowsCrossLane (k := 18) rfl (Layout.unpack_pack hf)).trans (by simp))

theorem lanexRot d a b : Statement (.lanexRot d a b) := by
  intro _ bs rest henc
  obtain rfl := Option.some.inj henc
  have hf : Layout.lanexRot.fits [d.toNat, a.toNat, b.toNat] = true := by simp [Layout.lanexRot, Layout.fits_operand, Layout.fits_fixed, Layout.fits_nil]
  exact round_32 (m := 11) hf rfl (by decide) rfl (by decide)
    ((decodeRows_clash clash_rowsCrossLane (k := 19) rfl (Layout.unpack_pack hf)).trans (by simp))

theorem pconsAll d a : Statement (.pconsAll d a) := by
  intro _ bs rest henc
  obtain rfl := Option.some.inj henc
  have hf : Layout.pconsAll.fits [d.toNat, a.toNat] = true := by simp [Layout.pconsAll, Layout.fits_operand, Layout.fits_fixed, Layout.fits_nil]
  exact round_32 (m := 11) hf rfl (by decide) rfl (by decide)
    ((decodeRows_clash clash_rowsCrossLane (k := 0) rfl (Layout.unpack_pack hf)).trans (by simp))

theorem pconsSome d a : Statement (.pconsSome d a) := by
  intro _ bs rest henc
  obtain rfl := Option.some.inj henc
  have hf : Layout.pconsSome.fits [d.toNat, a.toNat] = true := by simp [Layout.pconsSome, Layout.fits_operand, Layout.fits_fixed, Layout.fits_nil]
  exact round_32 (m := 11) hf rfl (by decide) rfl (by decide)
    ((decodeRows_clash clash_rowsCrossLane (k := 1) rfl (Layout.unpack_pack hf)).trans (by simp))

theorem pconsSame d a : Statement (.pconsSame d a) := by
  intro _ bs rest henc
  obtain rfl := Option.some.inj henc
  have hf : Layout.pconsSame.fits [d.toNat, a.toNat] = true := by simp [Layout.pconsSame, Layout.fits_operand, Layout.fits_fixed, Layout.fits_nil]
  exact round_32 (m := 11) hf rfl (by decide) rfl (by decide)
    ((decodeRows_clash clash_rowsCrossLane (k := 2) rfl (Layout.unpack_pack hf)).trans (by simp))

theorem pmask d a : Statement (.pmask d a) := by
  intro _ bs rest henc
  obtain rfl := Option.some.inj henc
  have hf : Layout.pmask.fits [d.toNat, a.toNat] = true := by simp [Layout.pmask, Layout.fits_operand, Layout.fits_fixed, Layout.fits_nil]
  exact round_32 (m := 11) hf rfl (by decide) rfl (by decide)
    ((decodeRows_clash clash_rowsCrossLane (k := 3) rfl (Layout.unpack_pack hf)).trans (by simp))

theorem wfoldAddI32 d a : Statement (.wfoldAddI32 d a) := by
  intro _ bs rest henc
  obtain rfl := Option.some.inj henc
  have hf : Layout.wfoldAddI32.fits [d.toNat, a.toNat] = true := by simp [Layout.wfoldAddI32, Layout.fits_operand, Layout.fits_fixed, Layout.fits_nil]
  exact round_32 (m := 11) hf rfl (by decide) rfl (by decide)
    ((decodeRows_clash clash_rowsCrossLane (k := 4) rfl (Layout.unpack_pack hf)).trans (by simp))

theorem bra o : Statement (.bra o) := by
  intro _ bs rest henc
  obtain rfl := Option.some.inj henc
  have hf : Layout.bra.fits [o.toNat] = true := by simp [Layout.bra, Layout.fits_operand, Layout.fits_fixed, Layout.fits_nil]
  exact round_32 (m := 12) hf rfl (by decide) rfl (by decide)
    ((decodeRows_clash clash_rowsBranch (k := 0) rfl (Layout.unpack_pack hf)).trans (by simp))

theorem br p n j o : Statement (.br p n j o) := by
  intro _ bs rest henc
  obtain rfl := Option.some.inj henc
  have hf : Layout.br.fits [p.toNat, n.toNat, j.toNat, o.toNat] = true := by simp [Layout.br, Layout.fits_operand, Layout.fits_fixed, Layout.fits_nil]
  exact round_32 (m := 12) hf rfl (by decide) rfl (by decide)
    ((decodeRows_clash clash_rowsBranch (k := 1) rfl (Layout.unpack_pack hf)).trans (by simp))

theorem brk p n j o : Statement (.brk p n j o) := by
  intro _ bs rest henc
  obtain rfl := Option.some.inj henc
  have hf : Layout.brk.fits [p.toNat, n.toNat, j.toNat, o.toNat] = true := by simp [Layout.brk, Layout.fits_operand, Layout.fits_fixed, Layout.fits_nil]
  exact round_32 (m := 12) hf rfl (by decide) rfl (by decide)
    ((decodeRows_clash clash_rowsBranch (k := 2) rfl (Layout.unpack_pack hf)).trans (by simp))

theorem jmpt a j o : Statement (.jmpt a j o) := by
  intro _ bs rest henc
  obtain rfl := Option.some.inj henc
  have hf : Layout.jmpt.fits [a.toNat, j.toNat, o.toNat] = true := by simp [Layout.jmpt, Layout.fits_operand, Layout.fits_fixed, Layout.fits_nil]
  exact round_32 (m := 13) hf rfl (by decide) rfl (by decide)
    ((decodeRows_clash clash_rowsJump (k := 1) rfl (Layout.unpack_pack hf)).trans (by simp))

theorem call o : Statement (.call o) := by
  intro _ bs rest henc
  obtain rfl := Option.some.inj henc
  have hf : Layout.call.fits [o.toNat] = true := by simp [Layout.call, Layout.fits_operand, Layout.fits_fixed, Layout.fits_nil]
  exact round_32 (m := 13) hf rfl (by decide) rfl (by decide)
    ((decodeRows_clash clash_rowsJump (k := 2) rfl (Layout.unpack_pack hf)).trans (by simp))

theorem callt a j o : Statement (.callt a j o) := by
  intro _ bs rest henc
  obtain rfl := Option.some.inj henc
  have hf : Layout.callt.fits [a.toNat, j.toNat, o.toNat] = true := by simp [Layout.callt, Layout.fits_operand, Layout.fits_fixed, Layout.fits_nil]
  exact round_32 (m := 13) hf rfl (by decide) rfl (by decide)
    ((decodeRows_clash clash_rowsJump (k := 3) rfl (Layout.unpack_pack hf)).trans (by simp))

theorem joinI j : Statement (.joinI j) := by
  intro _ bs rest henc
  obtain rfl := Option.some.inj henc
  have hf : Layout.joinI.fits [j.toNat] = true := by simp [Layout.joinI, Layout.fits_operand, Layout.fits_fixed, Layout.fits_nil]
  exact round_32 (m := 14) hf rfl (by decide) rfl (by decide)
    ((decodeRows_clash clash_rowsExit (k := 4) rfl (Layout.unpack_pack hf)).trans (by simp))

theorem trap c : Statement (.trap c) := by
  intro _ bs rest henc
  obtain rfl := Option.some.inj henc
  have hf : Layout.trap.fits [c.toNat] = true := by simp [Layout.trap, Layout.fits_operand, Layout.fits_fixed, Layout.fits_nil]
  exact round_32 (m := 14) hf rfl (by decide) rfl (by decide)
    ((decodeRows_clash clash_rowsExit (k := 5) rfl (Layout.unpack_pack hf)).trans (by simp))

theorem breakI c : Statement (.breakI c) := by
  intro _ bs rest henc
  obtain rfl := Option.some.inj henc
  have hf : Layout.breakI.fits [c.toNat] = true := by simp [Layout.breakI, Layout.fits_operand, Layout.fits_fixed, Layout.fits_nil]
  exact round_32 (m := 14) hf rfl (by decide) rfl (by decide)
    ((decodeRows_clash clash_rowsExit (k := 6) rfl (Layout.unpack_pack hf)).trans (by simp))

theorem ld f d b t s o : Statement (.ld f d b t s o) := by
  intro hwf bs rest henc
  obtain rfl := Option.some.inj henc
  have hf : Layout.ld.fits [f.toNat, d.toNat, b.toNat, t.toNat, s.toNat, o.toNat] = true := by simp [Layout.ld, Layout.fits_operand, Layout.fits_fixed, Layout.fits_nil]
  have ht : t.toNat ≠ 7 := by
    intro ht
    have h7 : t = 7#3 := by apply BitVec.eq_of_toNat_eq; simpa using ht
    subst h7
    simp [Instr.wellFormed, Machine.reservedField] at hwf
  have hs : s.toNat ≠ 11 := by
    intro hs
    simp [Instr.wellFormed, Machine.reservedField, hs] at hwf
  refine round_32 (m := 15) hf rfl (by decide) rfl (by decide)
    ((decodeRows_at (k := 2) rfl (Layout.unpack_pack hf) fun j r hj hr => ?_).trans (by simp))
  have hj' : j = 0 ∨ j = 1 := by omega
  rcases hj' with rfl | rfl
  · obtain rfl := Option.some.inj hr
    simp only [Layout.ld, Layout.pref, Layout.unpack, Layout.pack]
    have hf := f.isLt
    have hd := d.isLt
    have hb := b.isLt
    have ht := t.isLt
    have hs := s.isLt
    have ho := o.isLt
    rw [ite_eq_right_iff]
    intro
    simp only [Option.map_eq_none_iff, ite_eq_right_iff, reduceCtorEq, imp_false]
    omega
  · obtain rfl := Option.some.inj hr
    simp only [Layout.ld, Layout.ldLast, Layout.unpack, Layout.pack]
    have hf := f.isLt
    have hd := d.isLt
    have hb := b.isLt
    have ht := t.isLt
    have hs := s.isLt
    have ho := o.isLt
    rw [ite_eq_right_iff]
    intro
    simp only [Option.map_eq_none_iff, ite_eq_right_iff, reduceCtorEq, imp_false]
    omega

theorem ldLast f d b t o : Statement (.ldLast f d b t o) := by
  intro hwf bs rest henc
  obtain rfl := Option.some.inj henc
  have hf : Layout.ldLast.fits [f.toNat, d.toNat, b.toNat, t.toNat, o.toNat] = true := by simp [Layout.ldLast, Layout.fits_operand, Layout.fits_fixed, Layout.fits_nil]
  refine round_32 (m := 15) hf rfl (by decide) rfl (by decide)
    ((decodeRows_at (k := 1) rfl (Layout.unpack_pack hf) fun j r hj hr => ?_).trans (by simp))
  have hj' : j = 0 := by omega
  rcases hj' with rfl
  · obtain rfl := Option.some.inj hr
    exact Layout.unpack_clash (Layout.unpack_pack hf) (by decide +kernel)

theorem pref d b o : Statement (.pref d b o) := by
  intro hwf bs rest henc
  obtain rfl := Option.some.inj henc
  have hf : Layout.pref.fits [d.toNat, b.toNat, o.toNat] = true := by simp [Layout.pref, Layout.fits_operand, Layout.fits_fixed, Layout.fits_nil]
  refine round_32 (m := 15) hf rfl (by decide) rfl (by decide)
    ((decodeRows_at (k := 0) rfl (Layout.unpack_pack hf) fun j r hj hr => ?_).trans (by simp))
  omega

theorem st d b t s o : Statement (.st d b t s o) := by
  intro _ bs rest henc
  obtain rfl := Option.some.inj henc
  have hf : Layout.st.fits [d.toNat, b.toNat, t.toNat, s.toNat, o.toNat] = true := by simp [Layout.st, Layout.fits_operand, Layout.fits_fixed, Layout.fits_nil]
  exact round_32 (m := 16) hf rfl (by decide) rfl (by decide)
    ((decodeRows_clash clash_rowsStore (k := 0) rfl (Layout.unpack_pack hf)).trans (by simp))

theorem ldk f d b t s o : Statement (.ldk f d b t s o) := by
  intro hwf bs rest henc
  obtain rfl := Option.some.inj henc
  have hf : Layout.ldk.fits [f.toNat, d.toNat, b.toNat, t.toNat, s.toNat, o.toNat] = true := by simp [Layout.ldk, Layout.fits_operand, Layout.fits_fixed, Layout.fits_nil]
  have ht : t.toNat ≠ 7 := by
    intro ht
    have h7 : t = 7#3 := by apply BitVec.eq_of_toNat_eq; simpa using ht
    subst h7
    simp [Instr.wellFormed, Machine.reservedField] at hwf
  refine round_32 (m := 17) hf rfl (by decide) rfl (by decide)
    ((decodeRows_at (k := 3) rfl (Layout.unpack_pack hf) fun j r hj hr => ?_).trans (by simp))
  have hj' : j = 0 ∨ j = 1 ∨ j = 2 := by omega
  rcases hj' with rfl | rfl | rfl
  · obtain rfl := Option.some.inj hr
    simp only [Layout.ldk, Layout.spop, Layout.unpack, Layout.pack]
    have hf := f.isLt
    have hd := d.isLt
    have hb := b.isLt
    have ht := t.isLt
    have hs := s.isLt
    have ho := o.isLt
    rw [ite_eq_right_iff]
    intro
    simp only [Option.map_eq_none_iff, ite_eq_right_iff, reduceCtorEq, imp_false]
    omega
  · obtain rfl := Option.some.inj hr
    simp only [Layout.ldk, Layout.spush, Layout.unpack, Layout.pack]
    have hf := f.isLt
    have hd := d.isLt
    have hb := b.isLt
    have ht := t.isLt
    have hs := s.isLt
    have ho := o.isLt
    rw [ite_eq_right_iff]
    intro
    simp only [Option.map_eq_none_iff, ite_eq_right_iff, reduceCtorEq, imp_false]
    omega
  · obtain rfl := Option.some.inj hr
    exact Layout.unpack_clash (Layout.unpack_pack hf) (by decide +kernel)

theorem stk d b t s o : Statement (.stk d b t s o) := by
  intro hwf bs rest henc
  obtain rfl := Option.some.inj henc
  have hf : Layout.stk.fits [d.toNat, b.toNat, t.toNat, s.toNat, o.toNat] = true := by simp [Layout.stk, Layout.fits_operand, Layout.fits_fixed, Layout.fits_nil]
  have ht : t.toNat ≠ 7 := by
    intro ht
    have h7 : t = 7#3 := by apply BitVec.eq_of_toNat_eq; simpa using ht
    subst h7
    simp [Instr.wellFormed, Machine.reservedField] at hwf
  refine round_32 (m := 17) hf rfl (by decide) rfl (by decide)
    ((decodeRows_at (k := 2) rfl (Layout.unpack_pack hf) fun j r hj hr => ?_).trans (by simp))
  have hj' : j = 0 ∨ j = 1 := by omega
  rcases hj' with rfl | rfl
  · obtain rfl := Option.some.inj hr
    simp only [Layout.stk, Layout.spop, Layout.unpack, Layout.pack]
    have hd := d.isLt
    have hb := b.isLt
    have ht := t.isLt
    have hs := s.isLt
    have ho := o.isLt
    rw [ite_eq_right_iff]
    intro
    simp only [Option.map_eq_none_iff, ite_eq_right_iff, reduceCtorEq, imp_false]
    omega
  · obtain rfl := Option.some.inj hr
    simp only [Layout.stk, Layout.spush, Layout.unpack, Layout.pack]
    have hd := d.isLt
    have hb := b.isLt
    have ht := t.isLt
    have hs := s.isLt
    have ho := o.isLt
    rw [ite_eq_right_iff]
    intro
    simp only [Option.map_eq_none_iff, ite_eq_right_iff, reduceCtorEq, imp_false]
    omega

theorem spop d : Statement (.spop d) := by
  intro hwf bs rest henc
  obtain rfl := Option.some.inj henc
  have hf : Layout.spop.fits [d.toNat] = true := by simp [Layout.spop, Layout.fits_operand, Layout.fits_fixed, Layout.fits_nil]
  refine round_32 (m := 17) hf rfl (by decide) rfl (by decide)
    ((decodeRows_at (k := 0) rfl (Layout.unpack_pack hf) fun j r hj hr => ?_).trans (by simp))
  omega

theorem spush d : Statement (.spush d) := by
  intro hwf bs rest henc
  obtain rfl := Option.some.inj henc
  have hf : Layout.spush.fits [d.toNat] = true := by simp [Layout.spush, Layout.fits_operand, Layout.fits_fixed, Layout.fits_nil]
  refine round_32 (m := 17) hf rfl (by decide) rfl (by decide)
    ((decodeRows_at (k := 1) rfl (Layout.unpack_pack hf) fun j r hj hr => ?_).trans (by simp))
  have hj' : j = 0 := by omega
  rcases hj' with rfl
  · obtain rfl := Option.some.inj hr
    exact Layout.unpack_clash (Layout.unpack_pack hf) (by decide +kernel)

theorem ldl f d b t s o : Statement (.ldl f d b t s o) := by
  intro _ bs rest henc
  obtain rfl := Option.some.inj henc
  have hf : Layout.ldl.fits [f.toNat, d.toNat, b.toNat, t.toNat, s.toNat, o.toNat] = true := by simp [Layout.ldl, Layout.fits_operand, Layout.fits_fixed, Layout.fits_nil]
  exact round_32 (m := 18) hf rfl (by decide) rfl (by decide)
    ((decodeRows_clash clash_rowsLagoon (k := 1) rfl (Layout.unpack_pack hf)).trans (by simp))

theorem stl d b t s o : Statement (.stl d b t s o) := by
  intro _ bs rest henc
  obtain rfl := Option.some.inj henc
  have hf : Layout.stl.fits [d.toNat, b.toNat, t.toNat, s.toNat, o.toNat] = true := by simp [Layout.stl, Layout.fits_operand, Layout.fits_fixed, Layout.fits_nil]
  exact round_32 (m := 18) hf rfl (by decide) rfl (by decide)
    ((decodeRows_clash clash_rowsLagoon (k := 0) rfl (Layout.unpack_pack hf)).trans (by simp))

theorem atom f d b o s : Statement (.atom f d b o s) := by
  intro _ bs rest henc
  obtain rfl := Option.some.inj henc
  have hf : Layout.atom.fits [f.toNat, d.toNat, b.toNat, o.toNat, s.toNat] = true := by simp [Layout.atom, Layout.fits_operand, Layout.fits_fixed, Layout.fits_nil]
  exact round_32 (m := 19) hf rfl (by decide) rfl (by decide)
    ((decodeRows_clash clash_rowsAtomic (k := 2) rfl (Layout.unpack_pack hf)).trans (by simp))

theorem red d b o s : Statement (.red d b o s) := by
  intro _ bs rest henc
  obtain rfl := Option.some.inj henc
  have hf : Layout.red.fits [d.toNat, b.toNat, o.toNat, s.toNat] = true := by simp [Layout.red, Layout.fits_operand, Layout.fits_fixed, Layout.fits_nil]
  exact round_32 (m := 19) hf rfl (by decide) rfl (by decide)
    ((decodeRows_clash clash_rowsAtomic (k := 0) rfl (Layout.unpack_pack hf)).trans (by simp))

theorem atoml f d b o s : Statement (.atoml f d b o s) := by
  intro _ bs rest henc
  obtain rfl := Option.some.inj henc
  have hf : Layout.atoml.fits [f.toNat, d.toNat, b.toNat, o.toNat, s.toNat] = true := by simp [Layout.atoml, Layout.fits_operand, Layout.fits_fixed, Layout.fits_nil]
  exact round_32 (m := 19) hf rfl (by decide) rfl (by decide)
    ((decodeRows_clash clash_rowsAtomic (k := 3) rfl (Layout.unpack_pack hf)).trans (by simp))

theorem redl d b o s : Statement (.redl d b o s) := by
  intro _ bs rest henc
  obtain rfl := Option.some.inj henc
  have hf : Layout.redl.fits [d.toNat, b.toNat, o.toNat, s.toNat] = true := by simp [Layout.redl, Layout.fits_operand, Layout.fits_fixed, Layout.fits_nil]
  exact round_32 (m := 19) hf rfl (by decide) rfl (by decide)
    ((decodeRows_clash clash_rowsAtomic (k := 1) rfl (Layout.unpack_pack hf)).trans (by simp))

theorem fence s : Statement (.fence s) := by
  intro _ bs rest henc
  obtain rfl := Option.some.inj henc
  have hf : Layout.fence.fits [s.toNat] = true := by simp [Layout.fence, Layout.fits_operand, Layout.fits_fixed, Layout.fits_nil]
  exact round_32 (m := 20) hf rfl (by decide) rfl (by decide)
    ((decodeRows_clash clash_rowsFence (k := 0) rfl (Layout.unpack_pack hf)).trans (by simp))

theorem bar b : Statement (.bar b) := by
  intro _ bs rest henc
  obtain rfl := Option.some.inj henc
  have hf : Layout.bar.fits [b.toNat] = true := by simp [Layout.bar, Layout.fits_operand, Layout.fits_fixed, Layout.fits_nil]
  exact round_32 (m := 21) hf rfl (by decide) rfl (by decide)
    ((decodeRows_clash clash_rowsBarrier (k := 0) rfl (Layout.unpack_pack hf)).trans (by simp))

theorem barx d k s : Statement (.barx d k s) := by
  intro _ bs rest henc
  obtain rfl := Option.some.inj henc
  have hf : Layout.barx.fits [d.toNat, k.toNat, s.toNat] = true := by simp [Layout.barx, Layout.fits_operand, Layout.fits_fixed, Layout.fits_nil]
  exact round_32 (m := 21) hf rfl (by decide) rfl (by decide)
    ((decodeRows_clash clash_rowsBarrier (k := 1) rfl (Layout.unpack_pack hf)).trans (by simp))

theorem semwait d k s : Statement (.semwait d k s) := by
  intro _ bs rest henc
  obtain rfl := Option.some.inj henc
  have hf : Layout.semwait.fits [d.toNat, k.toNat, s.toNat] = true := by simp [Layout.semwait, Layout.fits_operand, Layout.fits_fixed, Layout.fits_nil]
  exact round_32 (m := 21) hf rfl (by decide) rfl (by decide)
    ((decodeRows_clash clash_rowsBarrier (k := 2) rfl (Layout.unpack_pack hf)).trans (by simp))

theorem semsig d k s : Statement (.semsig d k s) := by
  intro _ bs rest henc
  obtain rfl := Option.some.inj henc
  have hf : Layout.semsig.fits [d.toNat, k.toNat, s.toNat] = true := by simp [Layout.semsig, Layout.fits_operand, Layout.fits_fixed, Layout.fits_nil]
  exact round_32 (m := 21) hf rfl (by decide) rfl (by decide)
    ((decodeRows_clash clash_rowsBarrier (k := 3) rfl (Layout.unpack_pack hf)).trans (by simp))

theorem semtk f d k s : Statement (.semtk f d k s) := by
  intro _ bs rest henc
  obtain rfl := Option.some.inj henc
  have hf : Layout.semtk.fits [f.toNat, d.toNat, k.toNat, s.toNat] = true := by simp [Layout.semtk, Layout.fits_operand, Layout.fits_fixed, Layout.fits_nil]
  exact round_32 (m := 21) hf rfl (by decide) rfl (by decide)
    ((decodeRows_clash clash_rowsBarrier (k := 4) rfl (Layout.unpack_pack hf)).trans (by simp))

theorem semrd f d k s : Statement (.semrd f d k s) := by
  intro _ bs rest henc
  obtain rfl := Option.some.inj henc
  have hf : Layout.semrd.fits [f.toNat, d.toNat, k.toNat, s.toNat] = true := by simp [Layout.semrd, Layout.fits_operand, Layout.fits_fixed, Layout.fits_nil]
  exact round_32 (m := 21) hf rfl (by decide) rfl (by decide)
    ((decodeRows_clash clash_rowsBarrier (k := 5) rfl (Layout.unpack_pack hf)).trans (by simp))

theorem bcopy f g i : Statement (.bcopy f g i) := by
  intro _ bs rest henc
  obtain rfl := Option.some.inj henc
  have hf : Layout.bcopy.fits [f.toNat, g.toNat, i.toNat] = true := by simp [Layout.bcopy, Layout.fits_operand, Layout.fits_fixed, Layout.fits_nil]
  exact round_32 (m := 22) hf rfl (by decide) rfl (by decide)
    ((decodeRows_clash clash_rowsCopy (k := 0) rfl (Layout.unpack_pack hf)).trans (by simp))

theorem bcopyt f g i m : Statement (.bcopyt f g i m) := by
  intro _ bs rest henc
  obtain rfl := Option.some.inj henc
  have hf : Layout.bcopyt.fits [f.toNat, g.toNat, i.toNat, m.toNat] = true := by simp [Layout.bcopyt, Layout.fits_operand, Layout.fits_fixed, Layout.fits_nil]
  exact round_32 (m := 22) hf rfl (by decide) rfl (by decide)
    ((decodeRows_clash clash_rowsCopy (k := 2) rfl (Layout.unpack_pack hf)).trans (by simp))

theorem bcopyo f g i m : Statement (.bcopyo f g i m) := by
  intro _ bs rest henc
  obtain rfl := Option.some.inj henc
  have hf : Layout.bcopyo.fits [f.toNat, g.toNat, i.toNat, m.toNat] = true := by simp [Layout.bcopyo, Layout.fits_operand, Layout.fits_fixed, Layout.fits_nil]
  exact round_32 (m := 22) hf rfl (by decide) rfl (by decide)
    ((decodeRows_clash clash_rowsCopy (k := 3) rfl (Layout.unpack_pack hf)).trans (by simp))

theorem tdef g m n : Statement (.tdef g m n) := by
  intro _ bs rest henc
  obtain rfl := Option.some.inj henc
  have hf : Layout.tdef.fits [g.toNat, m.toNat, n.toNat] = true := by simp [Layout.tdef, Layout.fits_operand, Layout.fits_fixed, Layout.fits_nil]
  exact round_32 (m := 22) hf rfl (by decide) rfl (by decide)
    ((decodeRows_clash clash_rowsCopy (k := 4) rfl (Layout.unpack_pack hf)).trans (by simp))

theorem trel g m : Statement (.trel g m) := by
  intro _ bs rest henc
  obtain rfl := Option.some.inj henc
  have hf : Layout.trel.fits [g.toNat, m.toNat] = true := by simp [Layout.trel, Layout.fits_operand, Layout.fits_fixed, Layout.fits_nil]
  exact round_32 (m := 22) hf rfl (by decide) rfl (by decide)
    ((decodeRows_clash clash_rowsCopy (k := 1) rfl (Layout.unpack_pack hf)).trans (by simp))

theorem tstate g m n : Statement (.tstate g m n) := by
  intro _ bs rest henc
  obtain rfl := Option.some.inj henc
  have hf : Layout.tstate.fits [g.toNat, m.toNat, n.toNat] = true := by simp [Layout.tstate, Layout.fits_operand, Layout.fits_fixed, Layout.fits_nil]
  exact round_32 (m := 22) hf rfl (by decide) rfl (by decide)
    ((decodeRows_clash clash_rowsCopy (k := 5) rfl (Layout.unpack_pack hf)).trans (by simp))

theorem gang g h a c : Statement (.gang g h a c) := by
  intro _ bs rest henc
  obtain rfl := Option.some.inj henc
  have hf : Layout.gang.fits [g.toNat, h.toNat, a.toNat, c.toNat] = true := by simp [Layout.gang, Layout.fits_operand, Layout.fits_fixed, Layout.fits_nil]
  exact round_32 (m := 22) hf rfl (by decide) rfl (by decide)
    ((decodeRows_clash clash_rowsCopy (k := 6) rfl (Layout.unpack_pack hf)).trans (by simp))

theorem mma f g h e a m q t u : Statement (.mma f g h e a m q t u) := by
  intro _ bs rest henc
  obtain rfl := Option.some.inj henc
  have hf : Layout.mma.fits [f.toNat, g.toNat, h.toNat, e.toNat, a.toNat, m.toNat, q.toNat, t.toNat, u.toNat] = true := by simp [Layout.mma, Layout.fits_operand, Layout.fits_fixed, Layout.fits_nil]
  exact round_32 (m := 23) hf rfl (by decide) rfl (by decide)
    ((decodeRows_clash clash_rowsMatrix (k := 7) rfl (Layout.unpack_pack hf)).trans (by simp))

theorem mmaX f g h e a m q t u : Statement (.mmaX f g h e a m q t u) := by
  intro _ bs rest henc
  obtain rfl := Option.some.inj henc
  have hf : Layout.mmaX.fits [f.toNat, g.toNat, h.toNat, e.toNat, a.toNat, m.toNat, q.toNat, t.toNat, u.toNat] = true := by simp [Layout.mmaX, Layout.fits_operand, Layout.fits_fixed, Layout.fits_nil]
  exact round_32 (m := 23) hf rfl (by decide) rfl (by decide)
    ((decodeRows_clash clash_rowsMatrix (k := 8) rfl (Layout.unpack_pack hf)).trans (by simp))

theorem mmaq f g h e a m q t u : Statement (.mmaq f g h e a m q t u) := by
  intro _ bs rest henc
  obtain rfl := Option.some.inj henc
  have hf : Layout.mmaq.fits [f.toNat, g.toNat, h.toNat, e.toNat, a.toNat, m.toNat, q.toNat, t.toNat, u.toNat] = true := by simp [Layout.mmaq, Layout.fits_operand, Layout.fits_fixed, Layout.fits_nil]
  exact round_32 (m := 23) hf rfl (by decide) rfl (by decide)
    ((decodeRows_clash clash_rowsMatrix (k := 9) rfl (Layout.unpack_pack hf)).trans (by simp))

theorem zclr g z n : Statement (.zclr g z n) := by
  intro _ bs rest henc
  obtain rfl := Option.some.inj henc
  have hf : Layout.zclr.fits [g.toNat, z.toNat, n.toNat] = true := by simp [Layout.zclr, Layout.fits_operand, Layout.fits_fixed, Layout.fits_nil]
  exact round_32 (m := 23) hf rfl (by decide) rfl (by decide)
    ((decodeRows_clash clash_rowsMatrix (k := 0) rfl (Layout.unpack_pack hf)).trans (by simp))

theorem zld f g z n : Statement (.zld f g z n) := by
  intro _ bs rest henc
  obtain rfl := Option.some.inj henc
  have hf : Layout.zld.fits [f.toNat, g.toNat, z.toNat, n.toNat] = true := by simp [Layout.zld, Layout.fits_operand, Layout.fits_fixed, Layout.fits_nil]
  exact round_32 (m := 23) hf rfl (by decide) rfl (by decide)
    ((decodeRows_clash clash_rowsMatrix (k := 1) rfl (Layout.unpack_pack hf)).trans (by simp))

theorem zst f g z n : Statement (.zst f g z n) := by
  intro _ bs rest henc
  obtain rfl := Option.some.inj henc
  have hf : Layout.zst.fits [f.toNat, g.toNat, z.toNat, n.toNat] = true := by simp [Layout.zst, Layout.fits_operand, Layout.fits_fixed, Layout.fits_nil]
  exact round_32 (m := 23) hf rfl (by decide) rfl (by decide)
    ((decodeRows_clash clash_rowsMatrix (k := 2) rfl (Layout.unpack_pack hf)).trans (by simp))

theorem zepi f g z n o r : Statement (.zepi f g z n o r) := by
  intro _ bs rest henc
  obtain rfl := Option.some.inj henc
  have hf : Layout.zepi.fits [f.toNat, g.toNat, z.toNat, n.toNat, o.toNat, r.toNat] = true := by simp [Layout.zepi, Layout.fits_operand, Layout.fits_fixed, Layout.fits_nil]
  exact round_32 (m := 23) hf rfl (by decide) rfl (by decide)
    ((decodeRows_clash clash_rowsMatrix (k := 5) rfl (Layout.unpack_pack hf)).trans (by simp))

theorem zepiRoute f g z e n o r : Statement (.zepiRoute f g z e n o r) := by
  intro _ bs rest henc
  obtain rfl := Option.some.inj henc
  have hf : Layout.zepiRoute.fits [f.toNat, g.toNat, z.toNat, e.toNat, n.toNat, o.toNat, r.toNat] = true := by simp [Layout.zepiRoute, Layout.fits_operand, Layout.fits_fixed, Layout.fits_nil]
  exact round_32 (m := 23) hf rfl (by decide) rfl (by decide)
    ((decodeRows_clash clash_rowsMatrix (k := 6) rfl (Layout.unpack_pack hf)).trans (by simp))

theorem zmovToV f g z q b : Statement (.zmovToV f g z q b) := by
  intro _ bs rest henc
  obtain rfl := Option.some.inj henc
  have hf : Layout.zmovToV.fits [f.toNat, g.toNat, z.toNat, q.toNat, b.toNat] = true := by simp [Layout.zmovToV, Layout.fits_operand, Layout.fits_fixed, Layout.fits_nil]
  exact round_32 (m := 23) hf rfl (by decide) rfl (by decide)
    ((decodeRows_clash clash_rowsMatrix (k := 3) rfl (Layout.unpack_pack hf)).trans (by simp))

theorem zmovToZ f g z q b : Statement (.zmovToZ f g z q b) := by
  intro _ bs rest henc
  obtain rfl := Option.some.inj henc
  have hf : Layout.zmovToZ.fits [f.toNat, g.toNat, z.toNat, q.toNat, b.toNat] = true := by simp [Layout.zmovToZ, Layout.fits_operand, Layout.fits_fixed, Layout.fits_nil]
  exact round_32 (m := 23) hf rfl (by decide) rfl (by decide)
    ((decodeRows_clash clash_rowsMatrix (k := 4) rfl (Layout.unpack_pack hf)).trans (by simp))

theorem rowact f g w n p y : Statement (.rowact f g w n p y) := by
  intro _ bs rest henc
  obtain rfl := Option.some.inj henc
  have hf : Layout.rowact.fits [f.toNat, g.toNat, w.toNat, n.toNat, p.toNat, y.toNat] = true := by simp [Layout.rowact, Layout.fits_operand, Layout.fits_fixed, Layout.fits_nil]
  exact round_32 (m := 24) hf rfl (by decide) rfl (by decide)
    ((decodeRows_clash clash_rowsRow (k := 2) rfl (Layout.unpack_pack hf)).trans (by simp))

theorem rowcon f g w m p y : Statement (.rowcon f g w m p y) := by
  intro _ bs rest henc
  obtain rfl := Option.some.inj henc
  have hf : Layout.rowcon.fits [f.toNat, g.toNat, w.toNat, m.toNat, p.toNat, y.toNat] = true := by simp [Layout.rowcon, Layout.fits_operand, Layout.fits_fixed, Layout.fits_nil]
  exact round_32 (m := 24) hf rfl (by decide) rfl (by decide)
    ((decodeRows_clash clash_rowsRow (k := 3) rfl (Layout.unpack_pack hf)).trans (by simp))

theorem rowput f g w m p y : Statement (.rowput f g w m p y) := by
  intro _ bs rest henc
  obtain rfl := Option.some.inj henc
  have hf : Layout.rowput.fits [f.toNat, g.toNat, w.toNat, m.toNat, p.toNat, y.toNat] = true := by simp [Layout.rowput, Layout.fits_operand, Layout.fits_fixed, Layout.fits_nil]
  exact round_32 (m := 24) hf rfl (by decide) rfl (by decide)
    ((decodeRows_clash clash_rowsRow (k := 4) rfl (Layout.unpack_pack hf)).trans (by simp))

theorem rowpre g w p y : Statement (.rowpre g w p y) := by
  intro _ bs rest henc
  obtain rfl := Option.some.inj henc
  have hf : Layout.rowpre.fits [g.toNat, w.toNat, p.toNat, y.toNat] = true := by simp [Layout.rowpre, Layout.fits_operand, Layout.fits_fixed, Layout.fits_nil]
  exact round_32 (m := 24) hf rfl (by decide) rfl (by decide)
    ((decodeRows_clash clash_rowsRow (k := 0) rfl (Layout.unpack_pack hf)).trans (by simp))

theorem rowq g w a : Statement (.rowq g w a) := by
  intro _ bs rest henc
  obtain rfl := Option.some.inj henc
  have hf : Layout.rowq.fits [g.toNat, w.toNat, a.toNat] = true := by simp [Layout.rowq, Layout.fits_operand, Layout.fits_fixed, Layout.fits_nil]
  exact round_32 (m := 24) hf rfl (by decide) rfl (by decide)
    ((decodeRows_clash clash_rowsRow (k := 1) rfl (Layout.unpack_pack hf)).trans (by simp))

theorem cpost g i q p : Statement (.cpost g i q p) := by
  intro _ bs rest henc
  obtain rfl := Option.some.inj henc
  have hf : Layout.cpost.fits [g.toNat, i.toNat, q.toNat, p.toNat] = true := by simp [Layout.cpost, Layout.fits_operand, Layout.fits_fixed, Layout.fits_nil]
  exact round_32 (m := 25) hf rfl (by decide) rfl (by decide)
    ((decodeRows_clash clash_rowsCollective (k := 1) rfl (Layout.unpack_pack hf)).trans (by simp))

theorem cctr g n a p : Statement (.cctr g n a p) := by
  intro _ bs rest henc
  obtain rfl := Option.some.inj henc
  have hf : Layout.cctr.fits [g.toNat, n.toNat, a.toNat, p.toNat] = true := by simp [Layout.cctr, Layout.fits_operand, Layout.fits_fixed, Layout.fits_nil]
  exact round_32 (m := 25) hf rfl (by decide) rfl (by decide)
    ((decodeRows_clash clash_rowsCollective (k := 4) rfl (Layout.unpack_pack hf)).trans (by simp))

theorem cctrSet g n a : Statement (.cctrSet g n a) := by
  intro _ bs rest henc
  obtain rfl := Option.some.inj henc
  have hf : Layout.cctrSet.fits [g.toNat, n.toNat, a.toNat] = true := by simp [Layout.cctrSet, Layout.fits_operand, Layout.fits_fixed, Layout.fits_nil]
  exact round_32 (m := 25) hf rfl (by decide) rfl (by decide)
    ((decodeRows_clash clash_rowsCollective (k := 2) rfl (Layout.unpack_pack hf)).trans (by simp))

theorem cwait g n a : Statement (.cwait g n a) := by
  intro _ bs rest henc
  obtain rfl := Option.some.inj henc
  have hf : Layout.cwait.fits [g.toNat, n.toNat, a.toNat] = true := by simp [Layout.cwait, Layout.fits_operand, Layout.fits_fixed, Layout.fits_nil]
  exact round_32 (m := 25) hf rfl (by decide) rfl (by decide)
    ((decodeRows_clash clash_rowsCollective (k := 3) rfl (Layout.unpack_pack hf)).trans (by simp))

theorem eroute g e i : Statement (.eroute g e i) := by
  intro _ bs rest henc
  obtain rfl := Option.some.inj henc
  have hf : Layout.eroute.fits [g.toNat, e.toNat, i.toNat] = true := by simp [Layout.eroute, Layout.fits_operand, Layout.fits_fixed, Layout.fits_nil]
  exact round_32 (m := 25) hf rfl (by decide) rfl (by decide)
    ((decodeRows_clash clash_rowsCollective (k := 0) rfl (Layout.unpack_pack hf)).trans (by simp))

theorem launch f g i d : Statement (.launch f g i d) := by
  intro _ bs rest henc
  obtain rfl := Option.some.inj henc
  have hf : Layout.launch.fits [f.toNat, g.toNat, i.toNat, d.toNat] = true := by simp [Layout.launch, Layout.fits_operand, Layout.fits_fixed, Layout.fits_nil]
  exact round_32 (m := 26) hf rfl (by decide) rfl (by decide)
    ((decodeRows_clash clash_rowsLaunch (k := 3) rfl (Layout.unpack_pack hf)).trans (by simp))

theorem gwait g d a : Statement (.gwait g d a) := by
  intro _ bs rest henc
  obtain rfl := Option.some.inj henc
  have hf : Layout.gwait.fits [g.toNat, d.toNat, a.toNat] = true := by simp [Layout.gwait, Layout.fits_operand, Layout.fits_fixed, Layout.fits_nil]
  exact round_32 (m := 26) hf rfl (by decide) rfl (by decide)
    ((decodeRows_clash clash_rowsLaunch (k := 4) rfl (Layout.unpack_pack hf)).trans (by simp))

theorem qlaunch g q i : Statement (.qlaunch g q i) := by
  intro _ bs rest henc
  obtain rfl := Option.some.inj henc
  have hf : Layout.qlaunch.fits [g.toNat, q.toNat, i.toNat] = true := by simp [Layout.qlaunch, Layout.fits_operand, Layout.fits_fixed, Layout.fits_nil]
  exact round_32 (m := 26) hf rfl (by decide) rfl (by decide)
    ((decodeRows_clash clash_rowsLaunch (k := 1) rfl (Layout.unpack_pack hf)).trans (by simp))

theorem qcopy g q i : Statement (.qcopy g q i) := by
  intro _ bs rest henc
  obtain rfl := Option.some.inj henc
  have hf : Layout.qcopy.fits [g.toNat, q.toNat, i.toNat] = true := by simp [Layout.qcopy, Layout.fits_operand, Layout.fits_fixed, Layout.fits_nil]
  exact round_32 (m := 26) hf rfl (by decide) rfl (by decide)
    ((decodeRows_clash clash_rowsLaunch (k := 2) rfl (Layout.unpack_pack hf)).trans (by simp))

theorem qsemw g q n a : Statement (.qsemw g q n a) := by
  intro _ bs rest henc
  obtain rfl := Option.some.inj henc
  have hf : Layout.qsemw.fits [g.toNat, q.toNat, n.toNat, a.toNat] = true := by simp [Layout.qsemw, Layout.fits_operand, Layout.fits_fixed, Layout.fits_nil]
  exact round_32 (m := 26) hf rfl (by decide) rfl (by decide)
    ((decodeRows_clash clash_rowsLaunch (k := 6) rfl (Layout.unpack_pack hf)).trans (by simp))

theorem qsems g q n a : Statement (.qsems g q n a) := by
  intro _ bs rest henc
  obtain rfl := Option.some.inj henc
  have hf : Layout.qsems.fits [g.toNat, q.toNat, n.toNat, a.toNat] = true := by simp [Layout.qsems, Layout.fits_operand, Layout.fits_fixed, Layout.fits_nil]
  exact round_32 (m := 26) hf rfl (by decide) rfl (by decide)
    ((decodeRows_clash clash_rowsLaunch (k := 7) rfl (Layout.unpack_pack hf)).trans (by simp))

theorem qirq g q v : Statement (.qirq g q v) := by
  intro _ bs rest henc
  obtain rfl := Option.some.inj henc
  have hf : Layout.qirq.fits [g.toNat, q.toNat, v.toNat] = true := by simp [Layout.qirq, Layout.fits_operand, Layout.fits_fixed, Layout.fits_nil]
  exact round_32 (m := 26) hf rfl (by decide) rfl (by decide)
    ((decodeRows_clash clash_rowsLaunch (k := 5) rfl (Layout.unpack_pack hf)).trans (by simp))

theorem qswap g c : Statement (.qswap g c) := by
  intro _ bs rest henc
  obtain rfl := Option.some.inj henc
  have hf : Layout.qswap.fits [g.toNat, c.toNat] = true := by simp [Layout.qswap, Layout.fits_operand, Layout.fits_fixed, Layout.fits_nil]
  exact round_32 (m := 26) hf rfl (by decide) rfl (by decide)
    ((decodeRows_clash clash_rowsLaunch (k := 0) rfl (Layout.unpack_pack hf)).trans (by simp))

theorem phase a : Statement (.phase a) := by
  intro _ bs rest henc
  obtain rfl := Option.some.inj henc
  have hf : Layout.phase.fits [a.toNat] = true := by simp [Layout.phase, Layout.fits_operand, Layout.fits_fixed, Layout.fits_nil]
  exact round_32 (m := 27) hf rfl (by decide) rfl (by decide)
    ((decodeRows_clash clash_rowsPower (k := 0) rfl (Layout.unpack_pack hf)).trans (by simp))

theorem perf a : Statement (.perf a) := by
  intro _ bs rest henc
  obtain rfl := Option.some.inj henc
  have hf : Layout.perf.fits [a.toNat] = true := by simp [Layout.perf, Layout.fits_operand, Layout.fits_fixed, Layout.fits_nil]
  exact round_32 (m := 27) hf rfl (by decide) rfl (by decide)
    ((decodeRows_clash clash_rowsPower (k := 1) rfl (Layout.unpack_pack hf)).trans (by simp))

theorem tokq u d a : Statement (.tokq u d a) := by
  intro _ bs rest henc
  obtain rfl := Option.some.inj henc
  have hf : Layout.tokq.fits [u.toNat, d.toNat, a.toNat] = true := by simp [Layout.tokq, Layout.fits_operand, Layout.fits_fixed, Layout.fits_nil]
  exact round_32 (m := 27) hf rfl (by decide) rfl (by decide)
    ((decodeRows_clash clash_rowsPower (k := 5) rfl (Layout.unpack_pack hf)).trans (by simp))

theorem capq u d : Statement (.capq u d) := by
  intro _ bs rest henc
  obtain rfl := Option.some.inj henc
  have hf : Layout.capq.fits [u.toNat, d.toNat] = true := by simp [Layout.capq, Layout.fits_operand, Layout.fits_fixed, Layout.fits_nil]
  exact round_32 (m := 27) hf rfl (by decide) rfl (by decide)
    ((decodeRows_clash clash_rowsPower (k := 2) rfl (Layout.unpack_pack hf)).trans (by simp))

theorem timeRef u d : Statement (.timeRef u d) := by
  intro _ bs rest henc
  obtain rfl := Option.some.inj henc
  have hf : Layout.timeRef.fits [u.toNat, d.toNat] = true := by simp [Layout.timeRef, Layout.fits_operand, Layout.fits_fixed, Layout.fits_nil]
  exact round_32 (m := 27) hf rfl (by decide) rfl (by decide)
    ((decodeRows_clash clash_rowsPower (k := 3) rfl (Layout.unpack_pack hf)).trans (by simp))

theorem timeCyc u d : Statement (.timeCyc u d) := by
  intro _ bs rest henc
  obtain rfl := Option.some.inj henc
  have hf : Layout.timeCyc.fits [u.toNat, d.toNat] = true := by simp [Layout.timeCyc, Layout.fits_operand, Layout.fits_fixed, Layout.fits_nil]
  exact round_32 (m := 27) hf rfl (by decide) rfl (by decide)
    ((decodeRows_clash clash_rowsPower (k := 4) rfl (Layout.unpack_pack hf)).trans (by simp))

theorem rng u d a b : Statement (.rng u d a b) := by
  intro _ bs rest henc
  obtain rfl := Option.some.inj henc
  have hf : Layout.rng.fits [u.toNat, d.toNat, a.toNat, b.toNat] = true := by simp [Layout.rng, Layout.fits_operand, Layout.fits_fixed, Layout.fits_nil]
  exact round_32 (m := 27) hf rfl (by decide) rfl (by decide)
    ((decodeRows_clash clash_rowsPower (k := 6) rfl (Layout.unpack_pack hf)).trans (by simp))

theorem mfsr d r : Statement (.mfsr d r) := by
  intro _ bs rest henc
  obtain rfl := Option.some.inj henc
  have hf : Layout.mfsr.fits [d.toNat, r.toNat] = true := by simp [Layout.mfsr, Layout.fits_operand, Layout.fits_fixed, Layout.fits_nil]
  exact round_32 (m := 28) hf rfl (by decide) rfl (by decide)
    ((decodeRows_clash clash_rowsSystem (k := 6) rfl (Layout.unpack_pack hf)).trans (by simp))

theorem mtsr d r : Statement (.mtsr d r) := by
  intro _ bs rest henc
  obtain rfl := Option.some.inj henc
  have hf : Layout.mtsr.fits [d.toNat, r.toNat] = true := by simp [Layout.mtsr, Layout.fits_operand, Layout.fits_fixed, Layout.fits_nil]
  exact round_32 (m := 28) hf rfl (by decide) rfl (by decide)
    ((decodeRows_clash clash_rowsSystem (k := 7) rfl (Layout.unpack_pack hf)).trans (by simp))

theorem ctxfl d l i : Statement (.ctxfl d l i) := by
  intro _ bs rest henc
  obtain rfl := Option.some.inj henc
  have hf : Layout.ctxfl.fits [d.toNat, l.toNat, i.toNat] = true := by simp [Layout.ctxfl, Layout.fits_operand, Layout.fits_fixed, Layout.fits_nil]
  exact round_32 (m := 28) hf rfl (by decide) rfl (by decide)
    ((decodeRows_clash clash_rowsSystem (k := 4) rfl (Layout.unpack_pack hf)).trans (by simp))

theorem tlbiCtx d : Statement (.tlbiCtx d) := by
  intro _ bs rest henc
  obtain rfl := Option.some.inj henc
  have hf : Layout.tlbiCtx.fits [d.toNat] = true := by simp [Layout.tlbiCtx, Layout.fits_operand, Layout.fits_fixed, Layout.fits_nil]
  exact round_32 (m := 28) hf rfl (by decide) rfl (by decide)
    ((decodeRows_clash clash_rowsSystem (k := 1) rfl (Layout.unpack_pack hf)).trans (by simp))

theorem tlbiPage d : Statement (.tlbiPage d) := by
  intro _ bs rest henc
  obtain rfl := Option.some.inj henc
  have hf : Layout.tlbiPage.fits [d.toNat] = true := by simp [Layout.tlbiPage, Layout.fits_operand, Layout.fits_fixed, Layout.fits_nil]
  exact round_32 (m := 28) hf rfl (by decide) rfl (by decide)
    ((decodeRows_clash clash_rowsSystem (k := 2) rfl (Layout.unpack_pack hf)).trans (by simp))

theorem park d l : Statement (.park d l) := by
  intro _ bs rest henc
  obtain rfl := Option.some.inj henc
  have hf : Layout.park.fits [d.toNat, l.toNat] = true := by simp [Layout.park, Layout.fits_operand, Layout.fits_fixed, Layout.fits_nil]
  exact round_32 (m := 28) hf rfl (by decide) rfl (by decide)
    ((decodeRows_clash clash_rowsSystem (k := 3) rfl (Layout.unpack_pack hf)).trans (by simp))

theorem unpark d l x : Statement (.unpark d l x) := by
  intro _ bs rest henc
  obtain rfl := Option.some.inj henc
  have hf : Layout.unpark.fits [d.toNat, l.toNat, x.toNat] = true := by simp [Layout.unpark, Layout.fits_operand, Layout.fits_fixed, Layout.fits_nil]
  exact round_32 (m := 28) hf rfl (by decide) rfl (by decide)
    ((decodeRows_clash clash_rowsSystem (k := 5) rfl (Layout.unpack_pack hf)).trans (by simp))

theorem haltc c : Statement (.haltc c) := by
  intro _ bs rest henc
  obtain rfl := Option.some.inj henc
  have hf : Layout.haltc.fits [c.toNat] = true := by simp [Layout.haltc, Layout.fits_operand, Layout.fits_fixed, Layout.fits_nil]
  exact round_32 (m := 28) hf rfl (by decide) rfl (by decide)
    ((decodeRows_clash clash_rowsSystem (k := 0) rfl (Layout.unpack_pack hf)).trans (by simp))

theorem icmpNeI32 d a b : Statement (.icmpNeI32 d a b) := by
  intro _ bs rest henc
  obtain rfl := Option.some.inj henc
  have hf : Layout.icmpNeI32.fits [d.toNat, a.toNat, b.toNat] = true := by simp [Layout.icmpNeI32, Layout.fits_operand, Layout.fits_fixed, Layout.fits_nil]
  exact round_32 (m := 5) hf rfl (by decide) rfl (by decide)
    ((decodeRows_clash clash_rowsCompare (k := 7) rfl (Layout.unpack_pack hf)).trans (by simp))

theorem icmpLtI32 d a b : Statement (.icmpLtI32 d a b) := by
  intro _ bs rest henc
  obtain rfl := Option.some.inj henc
  have hf : Layout.icmpLtI32.fits [d.toNat, a.toNat, b.toNat] = true := by simp [Layout.icmpLtI32, Layout.fits_operand, Layout.fits_fixed, Layout.fits_nil]
  exact round_32 (m := 5) hf rfl (by decide) rfl (by decide)
    ((decodeRows_clash clash_rowsCompare (k := 8) rfl (Layout.unpack_pack hf)).trans (by simp))

theorem icmpLeI32 d a b : Statement (.icmpLeI32 d a b) := by
  intro _ bs rest henc
  obtain rfl := Option.some.inj henc
  have hf : Layout.icmpLeI32.fits [d.toNat, a.toNat, b.toNat] = true := by simp [Layout.icmpLeI32, Layout.fits_operand, Layout.fits_fixed, Layout.fits_nil]
  exact round_32 (m := 5) hf rfl (by decide) rfl (by decide)
    ((decodeRows_clash clash_rowsCompare (k := 9) rfl (Layout.unpack_pack hf)).trans (by simp))

theorem icmpGtI32 d a b : Statement (.icmpGtI32 d a b) := by
  intro _ bs rest henc
  obtain rfl := Option.some.inj henc
  have hf : Layout.icmpGtI32.fits [d.toNat, a.toNat, b.toNat] = true := by simp [Layout.icmpGtI32, Layout.fits_operand, Layout.fits_fixed, Layout.fits_nil]
  exact round_32 (m := 5) hf rfl (by decide) rfl (by decide)
    ((decodeRows_clash clash_rowsCompare (k := 10) rfl (Layout.unpack_pack hf)).trans (by simp))

theorem icmpGeI32 d a b : Statement (.icmpGeI32 d a b) := by
  intro _ bs rest henc
  obtain rfl := Option.some.inj henc
  have hf : Layout.icmpGeI32.fits [d.toNat, a.toNat, b.toNat] = true := by simp [Layout.icmpGeI32, Layout.fits_operand, Layout.fits_fixed, Layout.fits_nil]
  exact round_32 (m := 5) hf rfl (by decide) rfl (by decide)
    ((decodeRows_clash clash_rowsCompare (k := 11) rfl (Layout.unpack_pack hf)).trans (by simp))

theorem icmpEqN32 d a b : Statement (.icmpEqN32 d a b) := by
  intro _ bs rest henc
  obtain rfl := Option.some.inj henc
  have hf : Layout.icmpEqN32.fits [d.toNat, a.toNat, b.toNat] = true := by simp [Layout.icmpEqN32, Layout.fits_operand, Layout.fits_fixed, Layout.fits_nil]
  exact round_32 (m := 5) hf rfl (by decide) rfl (by decide)
    ((decodeRows_clash clash_rowsCompare (k := 12) rfl (Layout.unpack_pack hf)).trans (by simp))

theorem icmpNeN32 d a b : Statement (.icmpNeN32 d a b) := by
  intro _ bs rest henc
  obtain rfl := Option.some.inj henc
  have hf : Layout.icmpNeN32.fits [d.toNat, a.toNat, b.toNat] = true := by simp [Layout.icmpNeN32, Layout.fits_operand, Layout.fits_fixed, Layout.fits_nil]
  exact round_32 (m := 5) hf rfl (by decide) rfl (by decide)
    ((decodeRows_clash clash_rowsCompare (k := 13) rfl (Layout.unpack_pack hf)).trans (by simp))

theorem icmpLtN32 d a b : Statement (.icmpLtN32 d a b) := by
  intro _ bs rest henc
  obtain rfl := Option.some.inj henc
  have hf : Layout.icmpLtN32.fits [d.toNat, a.toNat, b.toNat] = true := by simp [Layout.icmpLtN32, Layout.fits_operand, Layout.fits_fixed, Layout.fits_nil]
  exact round_32 (m := 5) hf rfl (by decide) rfl (by decide)
    ((decodeRows_clash clash_rowsCompare (k := 14) rfl (Layout.unpack_pack hf)).trans (by simp))

theorem icmpLeN32 d a b : Statement (.icmpLeN32 d a b) := by
  intro _ bs rest henc
  obtain rfl := Option.some.inj henc
  have hf : Layout.icmpLeN32.fits [d.toNat, a.toNat, b.toNat] = true := by simp [Layout.icmpLeN32, Layout.fits_operand, Layout.fits_fixed, Layout.fits_nil]
  exact round_32 (m := 5) hf rfl (by decide) rfl (by decide)
    ((decodeRows_clash clash_rowsCompare (k := 15) rfl (Layout.unpack_pack hf)).trans (by simp))

theorem icmpGtN32 d a b : Statement (.icmpGtN32 d a b) := by
  intro _ bs rest henc
  obtain rfl := Option.some.inj henc
  have hf : Layout.icmpGtN32.fits [d.toNat, a.toNat, b.toNat] = true := by simp [Layout.icmpGtN32, Layout.fits_operand, Layout.fits_fixed, Layout.fits_nil]
  exact round_32 (m := 5) hf rfl (by decide) rfl (by decide)
    ((decodeRows_clash clash_rowsCompare (k := 16) rfl (Layout.unpack_pack hf)).trans (by simp))

theorem icmpGeN32 d a b : Statement (.icmpGeN32 d a b) := by
  intro _ bs rest henc
  obtain rfl := Option.some.inj henc
  have hf : Layout.icmpGeN32.fits [d.toNat, a.toNat, b.toNat] = true := by simp [Layout.icmpGeN32, Layout.fits_operand, Layout.fits_fixed, Layout.fits_nil]
  exact round_32 (m := 5) hf rfl (by decide) rfl (by decide)
    ((decodeRows_clash clash_rowsCompare (k := 17) rfl (Layout.unpack_pack hf)).trans (by simp))

theorem fcmpNe d a b : Statement (.fcmpNe d a b) := by
  intro _ bs rest henc
  obtain rfl := Option.some.inj henc
  have hf : Layout.fcmpNe.fits [d.toNat, a.toNat, b.toNat] = true := by simp [Layout.fcmpNe, Layout.fits_operand, Layout.fits_fixed, Layout.fits_nil]
  exact round_32 (m := 5) hf rfl (by decide) rfl (by decide)
    ((decodeRows_clash clash_rowsCompare (k := 19) rfl (Layout.unpack_pack hf)).trans (by simp))

theorem fcmpLt d a b : Statement (.fcmpLt d a b) := by
  intro _ bs rest henc
  obtain rfl := Option.some.inj henc
  have hf : Layout.fcmpLt.fits [d.toNat, a.toNat, b.toNat] = true := by simp [Layout.fcmpLt, Layout.fits_operand, Layout.fits_fixed, Layout.fits_nil]
  exact round_32 (m := 5) hf rfl (by decide) rfl (by decide)
    ((decodeRows_clash clash_rowsCompare (k := 20) rfl (Layout.unpack_pack hf)).trans (by simp))

theorem fcmpLe d a b : Statement (.fcmpLe d a b) := by
  intro _ bs rest henc
  obtain rfl := Option.some.inj henc
  have hf : Layout.fcmpLe.fits [d.toNat, a.toNat, b.toNat] = true := by simp [Layout.fcmpLe, Layout.fits_operand, Layout.fits_fixed, Layout.fits_nil]
  exact round_32 (m := 5) hf rfl (by decide) rfl (by decide)
    ((decodeRows_clash clash_rowsCompare (k := 21) rfl (Layout.unpack_pack hf)).trans (by simp))

theorem fcmpGt d a b : Statement (.fcmpGt d a b) := by
  intro _ bs rest henc
  obtain rfl := Option.some.inj henc
  have hf : Layout.fcmpGt.fits [d.toNat, a.toNat, b.toNat] = true := by simp [Layout.fcmpGt, Layout.fits_operand, Layout.fits_fixed, Layout.fits_nil]
  exact round_32 (m := 5) hf rfl (by decide) rfl (by decide)
    ((decodeRows_clash clash_rowsCompare (k := 22) rfl (Layout.unpack_pack hf)).trans (by simp))

theorem fcmpGe d a b : Statement (.fcmpGe d a b) := by
  intro _ bs rest henc
  obtain rfl := Option.some.inj henc
  have hf : Layout.fcmpGe.fits [d.toNat, a.toNat, b.toNat] = true := by simp [Layout.fcmpGe, Layout.fits_operand, Layout.fits_fixed, Layout.fits_nil]
  exact round_32 (m := 5) hf rfl (by decide) rfl (by decide)
    ((decodeRows_clash clash_rowsCompare (k := 23) rfl (Layout.unpack_pack hf)).trans (by simp))

theorem fcmpOrd d a b : Statement (.fcmpOrd d a b) := by
  intro _ bs rest henc
  obtain rfl := Option.some.inj henc
  have hf : Layout.fcmpOrd.fits [d.toNat, a.toNat, b.toNat] = true := by simp [Layout.fcmpOrd, Layout.fits_operand, Layout.fits_fixed, Layout.fits_nil]
  exact round_32 (m := 5) hf rfl (by decide) rfl (by decide)
    ((decodeRows_clash clash_rowsCompare (k := 24) rfl (Layout.unpack_pack hf)).trans (by simp))

theorem fcmpUno d a b : Statement (.fcmpUno d a b) := by
  intro _ bs rest henc
  obtain rfl := Option.some.inj henc
  have hf : Layout.fcmpUno.fits [d.toNat, a.toNat, b.toNat] = true := by simp [Layout.fcmpUno, Layout.fits_operand, Layout.fits_fixed, Layout.fits_nil]
  exact round_32 (m := 5) hf rfl (by decide) rfl (by decide)
    ((decodeRows_clash clash_rowsCompare (k := 25) rfl (Layout.unpack_pack hf)).trans (by simp))

theorem f2iI16 d a r : Statement (.f2iI16 d a r) := by
  intro _ bs rest henc
  obtain rfl := Option.some.inj henc
  have hf : Layout.f2iI16.fits [d.toNat, a.toNat, r.toNat] = true := by simp [Layout.f2iI16, Layout.fits_operand, Layout.fits_fixed, Layout.fits_nil]
  exact round_32 (m := 8) hf rfl (by decide) rfl (by decide)
    ((decodeRows_clash clash_rowsConvert (k := 5) rfl (Layout.unpack_pack hf)).trans (by simp))

theorem f2iI32 d a r : Statement (.f2iI32 d a r) := by
  intro _ bs rest henc
  obtain rfl := Option.some.inj henc
  have hf : Layout.f2iI32.fits [d.toNat, a.toNat, r.toNat] = true := by simp [Layout.f2iI32, Layout.fits_operand, Layout.fits_fixed, Layout.fits_nil]
  exact round_32 (m := 8) hf rfl (by decide) rfl (by decide)
    ((decodeRows_clash clash_rowsConvert (k := 6) rfl (Layout.unpack_pack hf)).trans (by simp))

theorem f2iN8 d a r : Statement (.f2iN8 d a r) := by
  intro _ bs rest henc
  obtain rfl := Option.some.inj henc
  have hf : Layout.f2iN8.fits [d.toNat, a.toNat, r.toNat] = true := by simp [Layout.f2iN8, Layout.fits_operand, Layout.fits_fixed, Layout.fits_nil]
  exact round_32 (m := 8) hf rfl (by decide) rfl (by decide)
    ((decodeRows_clash clash_rowsConvert (k := 7) rfl (Layout.unpack_pack hf)).trans (by simp))

theorem f2iN16 d a r : Statement (.f2iN16 d a r) := by
  intro _ bs rest henc
  obtain rfl := Option.some.inj henc
  have hf : Layout.f2iN16.fits [d.toNat, a.toNat, r.toNat] = true := by simp [Layout.f2iN16, Layout.fits_operand, Layout.fits_fixed, Layout.fits_nil]
  exact round_32 (m := 8) hf rfl (by decide) rfl (by decide)
    ((decodeRows_clash clash_rowsConvert (k := 8) rfl (Layout.unpack_pack hf)).trans (by simp))

theorem f2iN32 d a r : Statement (.f2iN32 d a r) := by
  intro _ bs rest henc
  obtain rfl := Option.some.inj henc
  have hf : Layout.f2iN32.fits [d.toNat, a.toNat, r.toNat] = true := by simp [Layout.f2iN32, Layout.fits_operand, Layout.fits_fixed, Layout.fits_nil]
  exact round_32 (m := 8) hf rfl (by decide) rfl (by decide)
    ((decodeRows_clash clash_rowsConvert (k := 9) rfl (Layout.unpack_pack hf)).trans (by simp))

theorem i2fI16 d a r : Statement (.i2fI16 d a r) := by
  intro _ bs rest henc
  obtain rfl := Option.some.inj henc
  have hf : Layout.i2fI16.fits [d.toNat, a.toNat, r.toNat] = true := by simp [Layout.i2fI16, Layout.fits_operand, Layout.fits_fixed, Layout.fits_nil]
  exact round_32 (m := 8) hf rfl (by decide) rfl (by decide)
    ((decodeRows_clash clash_rowsConvert (k := 11) rfl (Layout.unpack_pack hf)).trans (by simp))

theorem i2fI32 d a r : Statement (.i2fI32 d a r) := by
  intro _ bs rest henc
  obtain rfl := Option.some.inj henc
  have hf : Layout.i2fI32.fits [d.toNat, a.toNat, r.toNat] = true := by simp [Layout.i2fI32, Layout.fits_operand, Layout.fits_fixed, Layout.fits_nil]
  exact round_32 (m := 8) hf rfl (by decide) rfl (by decide)
    ((decodeRows_clash clash_rowsConvert (k := 12) rfl (Layout.unpack_pack hf)).trans (by simp))

theorem i2fN8 d a r : Statement (.i2fN8 d a r) := by
  intro _ bs rest henc
  obtain rfl := Option.some.inj henc
  have hf : Layout.i2fN8.fits [d.toNat, a.toNat, r.toNat] = true := by simp [Layout.i2fN8, Layout.fits_operand, Layout.fits_fixed, Layout.fits_nil]
  exact round_32 (m := 8) hf rfl (by decide) rfl (by decide)
    ((decodeRows_clash clash_rowsConvert (k := 13) rfl (Layout.unpack_pack hf)).trans (by simp))

theorem i2fN16 d a r : Statement (.i2fN16 d a r) := by
  intro _ bs rest henc
  obtain rfl := Option.some.inj henc
  have hf : Layout.i2fN16.fits [d.toNat, a.toNat, r.toNat] = true := by simp [Layout.i2fN16, Layout.fits_operand, Layout.fits_fixed, Layout.fits_nil]
  exact round_32 (m := 8) hf rfl (by decide) rfl (by decide)
    ((decodeRows_clash clash_rowsConvert (k := 14) rfl (Layout.unpack_pack hf)).trans (by simp))

theorem i2fN32 d a r : Statement (.i2fN32 d a r) := by
  intro _ bs rest henc
  obtain rfl := Option.some.inj henc
  have hf : Layout.i2fN32.fits [d.toNat, a.toNat, r.toNat] = true := by simp [Layout.i2fN32, Layout.fits_operand, Layout.fits_fixed, Layout.fits_nil]
  exact round_32 (m := 8) hf rfl (by decide) rfl (by decide)
    ((decodeRows_clash clash_rowsConvert (k := 15) rfl (Layout.unpack_pack hf)).trans (by simp))

theorem wfoldMinI32 d a : Statement (.wfoldMinI32 d a) := by
  intro _ bs rest henc
  obtain rfl := Option.some.inj henc
  have hf : Layout.wfoldMinI32.fits [d.toNat, a.toNat] = true := by simp [Layout.wfoldMinI32, Layout.fits_operand, Layout.fits_fixed, Layout.fits_nil]
  exact round_32 (m := 11) hf rfl (by decide) rfl (by decide)
    ((decodeRows_clash clash_rowsCrossLane (k := 5) rfl (Layout.unpack_pack hf)).trans (by simp))

theorem wfoldMaxI32 d a : Statement (.wfoldMaxI32 d a) := by
  intro _ bs rest henc
  obtain rfl := Option.some.inj henc
  have hf : Layout.wfoldMaxI32.fits [d.toNat, a.toNat] = true := by simp [Layout.wfoldMaxI32, Layout.fits_operand, Layout.fits_fixed, Layout.fits_nil]
  exact round_32 (m := 11) hf rfl (by decide) rfl (by decide)
    ((decodeRows_clash clash_rowsCrossLane (k := 6) rfl (Layout.unpack_pack hf)).trans (by simp))

theorem wfoldMinN32 d a : Statement (.wfoldMinN32 d a) := by
  intro _ bs rest henc
  obtain rfl := Option.some.inj henc
  have hf : Layout.wfoldMinN32.fits [d.toNat, a.toNat] = true := by simp [Layout.wfoldMinN32, Layout.fits_operand, Layout.fits_fixed, Layout.fits_nil]
  exact round_32 (m := 11) hf rfl (by decide) rfl (by decide)
    ((decodeRows_clash clash_rowsCrossLane (k := 7) rfl (Layout.unpack_pack hf)).trans (by simp))

theorem wfoldMaxN32 d a : Statement (.wfoldMaxN32 d a) := by
  intro _ bs rest henc
  obtain rfl := Option.some.inj henc
  have hf : Layout.wfoldMaxN32.fits [d.toNat, a.toNat] = true := by simp [Layout.wfoldMaxN32, Layout.fits_operand, Layout.fits_fixed, Layout.fits_nil]
  exact round_32 (m := 11) hf rfl (by decide) rfl (by decide)
    ((decodeRows_clash clash_rowsCrossLane (k := 8) rfl (Layout.unpack_pack hf)).trans (by simp))

theorem wfoldAnd d a : Statement (.wfoldAnd d a) := by
  intro _ bs rest henc
  obtain rfl := Option.some.inj henc
  have hf : Layout.wfoldAnd.fits [d.toNat, a.toNat] = true := by simp [Layout.wfoldAnd, Layout.fits_operand, Layout.fits_fixed, Layout.fits_nil]
  exact round_32 (m := 11) hf rfl (by decide) rfl (by decide)
    ((decodeRows_clash clash_rowsCrossLane (k := 9) rfl (Layout.unpack_pack hf)).trans (by simp))

theorem wfoldOr d a : Statement (.wfoldOr d a) := by
  intro _ bs rest henc
  obtain rfl := Option.some.inj henc
  have hf : Layout.wfoldOr.fits [d.toNat, a.toNat] = true := by simp [Layout.wfoldOr, Layout.fits_operand, Layout.fits_fixed, Layout.fits_nil]
  exact round_32 (m := 11) hf rfl (by decide) rfl (by decide)
    ((decodeRows_clash clash_rowsCrossLane (k := 10) rfl (Layout.unpack_pack hf)).trans (by simp))

theorem wfoldXor d a : Statement (.wfoldXor d a) := by
  intro _ bs rest henc
  obtain rfl := Option.some.inj henc
  have hf : Layout.wfoldXor.fits [d.toNat, a.toNat] = true := by simp [Layout.wfoldXor, Layout.fits_operand, Layout.fits_fixed, Layout.fits_nil]
  exact round_32 (m := 11) hf rfl (by decide) rfl (by decide)
    ((decodeRows_clash clash_rowsCrossLane (k := 11) rfl (Layout.unpack_pack hf)).trans (by simp))

theorem wfoldAddF32 d a : Statement (.wfoldAddF32 d a) := by
  intro _ bs rest henc
  obtain rfl := Option.some.inj henc
  have hf : Layout.wfoldAddF32.fits [d.toNat, a.toNat] = true := by simp [Layout.wfoldAddF32, Layout.fits_operand, Layout.fits_fixed, Layout.fits_nil]
  exact round_32 (m := 11) hf rfl (by decide) rfl (by decide)
    ((decodeRows_clash clash_rowsCrossLane (k := 12) rfl (Layout.unpack_pack hf)).trans (by simp))

theorem wfoldMinF32 d a : Statement (.wfoldMinF32 d a) := by
  intro _ bs rest henc
  obtain rfl := Option.some.inj henc
  have hf : Layout.wfoldMinF32.fits [d.toNat, a.toNat] = true := by simp [Layout.wfoldMinF32, Layout.fits_operand, Layout.fits_fixed, Layout.fits_nil]
  exact round_32 (m := 11) hf rfl (by decide) rfl (by decide)
    ((decodeRows_clash clash_rowsCrossLane (k := 13) rfl (Layout.unpack_pack hf)).trans (by simp))

theorem wfoldMaxF32 d a : Statement (.wfoldMaxF32 d a) := by
  intro _ bs rest henc
  obtain rfl := Option.some.inj henc
  have hf : Layout.wfoldMaxF32.fits [d.toNat, a.toNat] = true := by simp [Layout.wfoldMaxF32, Layout.fits_operand, Layout.fits_fixed, Layout.fits_nil]
  exact round_32 (m := 11) hf rfl (by decide) rfl (by decide)
    ((decodeRows_clash clash_rowsCrossLane (k := 14) rfl (Layout.unpack_pack hf)).trans (by simp))

theorem barrierAddition x0 x1 : Statement (.barrierAddition x0 x1) := fun _ _ _ h => nomatch h
theorem launchCompletion x0 : Statement (.launchCompletion x0) := fun _ _ _ h => nomatch h
theorem registerMiss x0 : Statement (.registerMiss x0) := fun _ _ _ h => nomatch h
theorem registerLineFill x0 x1 : Statement (.registerLineFill x0 x1) := fun _ _ _ h => nomatch h
theorem waveActivation x0 : Statement (.waveActivation x0) := fun _ _ _ h => nomatch h
theorem wavePendingEntry x0 : Statement (.wavePendingEntry x0) := fun _ _ _ h => nomatch h
theorem flagWaitDemotion x0 : Statement (.flagWaitDemotion x0) := fun _ _ _ h => nomatch h
theorem waveHang x0 : Statement (.waveHang x0) := fun _ _ _ h => nomatch h
theorem loadCompletion x0 : Statement (.loadCompletion x0) := fun _ _ _ h => nomatch h
theorem releasePromotion x0 : Statement (.releasePromotion x0) := fun _ _ _ h => nomatch h
theorem engineTransferCompletion x0 : Statement (.engineTransferCompletion x0) := fun _ _ _ h => nomatch h
theorem tileFillCompletion x0 : Statement (.tileFillCompletion x0) := fun _ _ _ h => nomatch h
theorem tileDrainCompletion x0 : Statement (.tileDrainCompletion x0) := fun _ _ _ h => nomatch h
theorem mmaCompletion x0 : Statement (.mmaCompletion x0) := fun _ _ _ h => nomatch h
theorem enginePageFault x0 : Statement (.enginePageFault x0) := fun _ _ _ h => nomatch h
theorem engineTransferStop x0 : Statement (.engineTransferStop x0) := fun _ _ _ h => nomatch h
theorem rowSensed x0 : Statement (.rowSensed x0) := fun _ _ _ h => nomatch h
theorem leaseExpiry x0 x1 : Statement (.leaseExpiry x0 x1) := fun _ _ _ h => nomatch h
theorem rowputCompletion x0 : Statement (.rowputCompletion x0) := fun _ _ _ h => nomatch h
theorem entrySourceRead x0 x1 x2 : Statement (.entrySourceRead x0 x1 x2) := fun _ _ _ h => nomatch h
theorem collectiveDelivery x0 : Statement (.collectiveDelivery x0) := fun _ _ _ h => nomatch h
theorem orderedContribution x0 : Statement (.orderedContribution x0) := fun _ _ _ h => nomatch h
theorem queueLaunchStart x0 x1 : Statement (.queueLaunchStart x0 x1) := fun _ _ _ h => nomatch h
theorem queueCopyStart x0 x1 : Statement (.queueCopyStart x0 x1) := fun _ _ _ h => nomatch h
theorem queueSemwaitStart x0 x1 : Statement (.queueSemwaitStart x0 x1) := fun _ _ _ h => nomatch h
theorem queueSemsigStart x0 x1 : Statement (.queueSemsigStart x0 x1) := fun _ _ _ h => nomatch h
theorem queueIrqStart x0 x1 : Statement (.queueIrqStart x0 x1) := fun _ _ _ h => nomatch h
theorem batchDispatch x0 : Statement (.batchDispatch x0) := fun _ _ _ h => nomatch h
theorem teamPlacement x0 : Statement (.teamPlacement x0) := fun _ _ _ h => nomatch h
theorem batchReturn x0 : Statement (.batchReturn x0) := fun _ _ _ h => nomatch h
theorem haltComplete x0 : Statement (.haltComplete x0) := fun _ _ _ h => nomatch h
theorem swapExchange x0 : Statement (.swapExchange x0) := fun _ _ _ h => nomatch h
theorem swapRestore x0 : Statement (.swapRestore x0) := fun _ _ _ h => nomatch h
theorem vacateCluster x0 x1 x2 : Statement (.vacateCluster x0 x1 x2) := fun _ _ _ h => nomatch h
theorem teamMove x0 : Statement (.teamMove x0) := fun _ _ _ h => nomatch h
theorem preemptTimeout x0 : Statement (.preemptTimeout x0) := fun _ _ _ h => nomatch h
theorem coreGate x0 : Statement (.coreGate x0) := fun _ _ _ h => nomatch h
theorem coreWake x0 : Statement (.coreWake x0) := fun _ _ _ h => nomatch h
theorem ratioVote x0 : Statement (.ratioVote x0) := fun _ _ _ h => nomatch h
theorem droopTrip x0 x1 : Statement (.droopTrip x0 x1) := fun _ _ _ h => nomatch h
theorem droopIssueEnd x0 : Statement (.droopIssueEnd x0) := fun _ _ _ h => nomatch h
theorem coreRefill x0 : Statement (.coreRefill x0) := fun _ _ _ h => nomatch h
theorem dieRefill x0 : Statement (.dieRefill x0) := fun _ _ _ h => nomatch h
theorem packageRefill x0 : Statement (.packageRefill x0) := fun _ _ _ h => nomatch h
theorem governorStep x0 x1 x2 : Statement (.governorStep x0 x1 x2) := fun _ _ _ h => nomatch h
theorem heatUpdate x0 x1 : Statement (.heatUpdate x0 x1) := fun _ _ _ h => nomatch h
theorem powerIntentSend x0 : Statement (.powerIntentSend x0) := fun _ _ _ h => nomatch h
theorem powerIntentReceive x0 x1 : Statement (.powerIntentReceive x0 x1) := fun _ _ _ h => nomatch h
theorem probeToken x0 x1 : Statement (.probeToken x0 x1) := fun _ _ _ h => nomatch h
theorem probePass x0 x1 : Statement (.probePass x0 x1) := fun _ _ _ h => nomatch h
theorem flitForward x0 : Statement (.flitForward x0) := fun _ _ _ h => nomatch h
theorem inboundRequest x0 : Statement (.inboundRequest x0) := fun _ _ _ h => nomatch h
theorem remoteNack x0 x1 : Statement (.remoteNack x0 x1) := fun _ _ _ h => nomatch h
theorem remoteTimeout x0 x1 x2 : Statement (.remoteTimeout x0 x1 x2) := fun _ _ _ h => nomatch h
theorem hostMemAccess x0 : Statement (.hostMemAccess x0) := fun _ _ _ h => nomatch h
theorem eventRecord x0 : Statement (.eventRecord x0) := fun _ _ _ h => nomatch h
theorem eventRingGet x0 x1 : Statement (.eventRingGet x0 x1) := fun _ _ _ h => nomatch h
theorem faultRingGet x0 x1 : Statement (.faultRingGet x0 x1) := fun _ _ _ h => nomatch h
theorem pfackRetry x0 : Statement (.pfackRetry x0) := fun _ _ _ h => nomatch h
theorem cpStart x0 : Statement (.cpStart x0) := fun _ _ _ h => nomatch h
theorem swapreq x0 x1 : Statement (.swapreq x0 x1) := fun _ _ _ h => nomatch h
theorem llcWayGate x0 : Statement (.llcWayGate x0) := fun _ _ _ h => nomatch h
theorem attestationComplete x0 x1 : Statement (.attestationComplete x0 x1) := fun _ _ _ h => nomatch h
theorem storageError x0 x1 : Statement (.storageError x0 x1) := fun _ _ _ h => nomatch h
theorem readClear x0 x1 : Statement (.readClear x0 x1) := fun _ _ _ h => nomatch h
theorem registerWrite x0 x1 x2 x3 : Statement (.registerWrite x0 x1 x2 x3) := fun _ _ _ h => nomatch h
theorem powerGood x0 : Statement (.powerGood x0) := fun _ _ _ h => nomatch h
theorem straitPortDown x0 : Statement (.straitPortDown x0) := fun _ _ _ h => nomatch h
theorem privilegedCompletion x0 : Statement (.privilegedCompletion x0) := fun _ _ _ h => nomatch h
theorem llcWayDark x0 x1 : Statement (.llcWayDark x0 x1) := fun _ _ _ h => nomatch h
theorem msiXUnmask x0 x1 : Statement (.msiXUnmask x0 x1) := fun _ _ _ h => nomatch h
theorem ret : Statement (.ret) := by
  intro _ bs rest henc
  obtain rfl := Option.some.inj henc
  have hf : Layout.ret.fits [] = true := rfl
  exact round_32 (m := 13) hf rfl (by decide) rfl (by decide)
    ((decodeRows_clash clash_rowsJump (k := 0) rfl (Layout.unpack_pack hf)).trans (by simp))

theorem exitI : Statement (.exitI) := by
  intro _ bs rest henc
  obtain rfl := Option.some.inj henc
  have hf : Layout.exitI.fits [] = true := rfl
  exact round_32 (m := 14) hf rfl (by decide) rfl (by decide)
    ((decodeRows_clash clash_rowsExit (k := 0) rfl (Layout.unpack_pack hf)).trans (by simp))

theorem nop : Statement (.nop) := by
  intro _ bs rest henc
  obtain rfl := Option.some.inj henc
  have hf : Layout.nop.fits [] = true := rfl
  exact round_32 (m := 14) hf rfl (by decide) rfl (by decide)
    ((decodeRows_clash clash_rowsExit (k := 1) rfl (Layout.unpack_pack hf)).trans (by simp))

theorem yieldI : Statement (.yieldI) := by
  intro _ bs rest henc
  obtain rfl := Option.some.inj henc
  have hf : Layout.yieldI.fits [] = true := rfl
  exact round_32 (m := 14) hf rfl (by decide) rfl (by decide)
    ((decodeRows_clash clash_rowsExit (k := 2) rfl (Layout.unpack_pack hf)).trans (by simp))

theorem eret : Statement (.eret) := by
  intro _ bs rest henc
  obtain rfl := Option.some.inj henc
  have hf : Layout.eret.fits [] = true := rfl
  exact round_32 (m := 14) hf rfl (by decide) rfl (by decide)
    ((decodeRows_clash clash_rowsExit (k := 3) rfl (Layout.unpack_pack hf)).trans (by simp))

theorem clauseStart : Statement (.clauseStart) := fun _ _ _ h => nomatch h
theorem asyncCauseDelivery : Statement (.asyncCauseDelivery) := fun _ _ _ h => nomatch h
theorem cgateClear : Statement (.cgateClear) := fun _ _ _ h => nomatch h
theorem attestationStart : Statement (.attestationStart) := fun _ _ _ h => nomatch h
theorem reservedEncoding : Statement (.reservedEncoding) := fun _ _ _ h => nomatch h
theorem capacitorReserveExhausted : Statement (.capacitorReserveExhausted) := fun _ _ _ h => nomatch h
theorem powerLoss : Statement (.powerLoss) := fun _ _ _ h => nomatch h
end Laws.Enc

end Sys2Proof
end

