-- ==== Sys2Proof/Laws/Register.lean ====
section
/-! SUPPORT. What completes by writing registers: the operand forms once, for every instruction that uses them. -/

set_option Elab.async false

namespace Sys2Proof.Machine

open Sys2Proof

/-! Sticky bits of nothing. -/

@[simp] theorem orLanes_zero (e : LaneMask) : (orLanes e fun _ => 0#32) = 0#32 := by
  unfold orLanes
  induction lanesOf e with
  | nil => rfl
  | cons l ls ih => simp

theorem KDesc.trapOf_zero (d : KDesc) : d.trapOf 0#32 = none := by simp [KDesc.trapOf]

theorem KDesc.trapOf_off {d : KDesc} (h1 : d.trapIV = false) (h2 : d.trapOF = false) (fl : Word) : d.trapOf fl = none := by
  simp [KDesc.trapOf, h1, h2]

theorem State.descOf_of_grids {s t : State} (h : t.grids = s.grids) (a : Agent) : t.descOf a = s.descOf a := by
  cases a <;> simp [State.descOf, State.grid?, h]

theorem OnlyCharge.grids {s t : State} {a : Agent} {w : Wave} (h : OnlyCharge s t a w) : t.grids = s.grids := by
  rw [h.rest]; simp

/-! Completion. -/

/-- A completed instruction that changes only its wave, where no raised sticky bit traps. -/
theorem conclude_finish {s : State} {x : Issuer} {v : Wave} (h : s.agent? x.a = some v) (i : Instr) (w : Wave) (fl : Word)
    (ht : (s.descOf x.a).trapOf fl = none) :
    ∃ k, OnlyWave s (conclude i x (x.finish s w fl)) x.a
      { x.w.countIssue (((w.stepPast x.e i.size).addSticky fl).rewritten x.e (writtenLines i)) with tokens := k } := by
  have h1 : (s.putAgent x.a w).agent? x.a = some w := State.agent?_putAgent h w
  obtain ⟨k, hk⟩ := State.account_spec (State.agent?_putAgent h (((w.stepPast x.e i.size).addSticky fl).rewritten x.e (writtenLines i))) i 1 none
  refine ⟨k, ?_⟩
  have hg := State.descOf_of_grids (s := s) (hk.grids.trans (by simp)) x.a
  have hk' := hk.of_put.onlyWave
  simp only [Issuer.finish, conclude, State.modAgent_some h1, State.putAgent_putAgent]
  rw [hg, ht]
  exact hk'

/-- A wave of which only registers and threads changed, with what the register cache notes of lines written. -/
def SameButRegs (v w : Wave) : Prop := { w with v := v.v, k := v.k, threads := v.threads, synced := v.synced, dirtied := v.dirtied } = v

theorem SameButRegs.refl (w : Wave) : SameButRegs w w := rfl

/-- An instruction that changes only registers of its wave, ready and not trapped, completes. It may issue as another one of its size. -/
theorem completes_as {i j : Instr} {s : State} {x : Issuer} {eff : Issuer → State → Effect} {w : Wave} {fl : Word} {P : Wave → Prop}
    (hr : Ready j s x) (he : exec i s = issue j s eff) (hf : eff x s = x.finish s w fl) (hw : SameButRegs x.w w)
    (ht : (s.descOf x.a).trapOf fl = none)
    (hp : ∀ w' : Wave, w'.v = w.v → w'.k = w.k → w'.cpu = w.cpu → w'.sticky = w.sticky ||| fl →
      w'.threads = (w.stepPast x.e j.size).threads → P w') : Completes i s x P := by
  obtain ⟨k, hk⟩ := conclude_finish hr.agent j w fl ht
  refine ⟨_, _, (he.trans (issue_ready hr eff)).trans (by rw [hf]), hk, ?_, hp _ rfl rfl rfl rfl rfl⟩
  have := hw
  unfold SameButRegs at this
  unfold OnlyRegs
  rw [← this]
  rfl

/-- An instruction that changes only registers of its wave, ready and not trapped, completes. -/
theorem completes_finish {i : Instr} {s : State} {x : Issuer} {eff : Issuer → State → Effect} {w : Wave} {fl : Word} {P : Wave → Prop}
    (hr : Ready i s x) (he : exec i s = issue i s eff) (hf : eff x s = x.finish s w fl) (hw : SameButRegs x.w w)
    (ht : (s.descOf x.a).trapOf fl = none)
    (hp : ∀ w' : Wave, w'.v = w.v → w'.k = w.k → w'.cpu = w.cpu → w'.sticky = w.sticky ||| fl →
      w'.threads = (w.stepPast x.e i.size).threads → P w') : Completes i s x P := completes_as hr he hf hw ht hp

theorem SameButRegs.sticky {v w : Wave} (h : SameButRegs v w) : w.sticky = v.sticky := by
  have := congrArg Wave.sticky h; exact this

theorem SameButRegs.cpu {v w : Wave} (h : SameButRegs v w) : w.cpu = v.cpu := by
  have := congrArg Wave.cpu h; exact this

theorem Wave.setK_same (w : Wave) (n : Nat) (x : Word) : SameButRegs w (w.setK n x) := rfl
theorem SameButRegs.trans {u v w : Wave} (h1 : SameButRegs u v) (h2 : SameButRegs v w) : SameButRegs u w := by
  unfold SameButRegs at *; rw [← h1]; rw [← h2]

theorem Wave.setV_same (w : Wave) (n l : Nat) (x : Word) : SameButRegs w (w.setV n l x) := by unfold setV; split <;> rfl

theorem Wave.forLanes_same (w : Wave) (m : LaneMask) (f : Nat → Wave → Wave) (h : ∀ l v, SameButRegs v (f l v)) :
    SameButRegs w (w.forLanes m f) := by
  unfold forLanes
  induction lanesOf m generalizing w with
  | nil => rfl
  | cons l ls ih => simp only [List.foldl_cons]; exact (h l w).trans (ih _)

theorem Wave.writeLanes_same (w : Wave) (e : LaneMask) (d : Nat) (f : Nat → Word) : SameButRegs w (w.writeLanes e d f) :=
  w.forLanes_same e _ fun l v => v.setV_same d l (f l)

theorem Wave.writeLanes_threads (w : Wave) (e : LaneMask) (d : Nat) (f : Nat → Word) : (w.writeLanes e d f).threads = w.threads :=
  Wave.forLanes_keeps Wave.threads _ (fun l v => v.setV_threads d l (f l)) w e

/-- The registers of a wave are read from its tables. -/
theorem Wave.vreg_congr {v w : Wave} (h1 : w.v = v.v) (h2 : w.k = v.k) (h3 : w.cpu = v.cpu) (n l : Nat) : w.vreg n l = v.vreg n l := by
  simp [vreg, kreg, h1, h2, h3]

theorem Wave.kreg_congr {v w : Wave} (h : w.k = v.k) (n : Nat) : w.kreg n = v.kreg n := by simp [kreg, h]

theorem Wave.th_congr {v w : Wave} (h : w.threads = v.threads) (l : Nat) : w.th l = v.th l := by simp [th, h]

/-- The threads after an instruction that leaves them to step past it. -/
theorem passed_of {x : Issuer} {n : Nat} {v w : Wave} (hv : v.threads = x.w.threads) (hw : w.threads = (v.stepPast x.e n).threads) :
    Passed x n w := by
  intro l hl
  rw [Wave.th_congr hw, Wave.stepPast_th _ _ _ _ hl, Wave.th_congr hv]

/-- Writing one register of every lane of the group leaves what `LaneRegs` says. -/
theorem writeLanes_laneRegs {x : Issuer} (hlead : x.e ≠ 0#32) (d : Nat) (f : Nat → Word) (hcpu : x.w.cpu = true → ∀ l m, f l = f m)
    {w : Wave} (h1 : w.v = (x.w.writeLanes x.e d f).v) (h2 : w.k = (x.w.writeLanes x.e d f).k)
    (h3 : w.cpu = (x.w.writeLanes x.e d f).cpu) : LaneRegs x d f w := by
  obtain ⟨a, b, c⟩ := x.w.writeLanes_spec x.e d f
  refine ⟨fun l hl hx => ?_, fun n l hl hn => ?_, fun hc => ⟨fun l hl hx => ?_, fun n => ?_⟩⟩
  · rw [Wave.vreg_congr h1 h2 h3]
    cases hc : x.w.cpu with
    | false => exact ((b hc).1 l hl).trans (if_pos hx)
    | true => exact c hc _ (fun j => hcpu hc j l) hlead l
  · rw [Wave.vreg_congr h1 h2 h3, a n l hl hn]
  · rw [Wave.vreg_congr h1 h2 h3]; exact ((b hc).1 l hl).trans (if_neg hx)
  · rw [Wave.kreg_congr h2, (b hc).2]

/-- On a command processor every lane reads the `k` registers. -/
theorem Wave.reader_cpu {w : Wave} (hc : w.cpu = true) (l m : Nat) : w.reader l = w.reader m := by
  funext n; simp [Wave.reader, Wave.vreg, hc]

/-- A lane instruction that writes one register completes (R181, R184). -/
theorem completes_lane {i j : Instr} {s : State} {x : Issuer} {d : Nat} {f : Reader → Word × Word} (hr : Ready j s x)
    (he : exec i s = issue j s (laneOp d f)) (hz : i.size = j.size) (ht : (s.descOf x.a).trapOf (orLanes x.e fun l => (f (x.w.reader l)).2) = none) :
    Completes i s x fun w =>
      Passed x i.size w ∧ LaneRegs x d (fun l => (f (x.w.reader l)).1) w ∧
        w.sticky = x.w.sticky ||| orLanes x.e fun l => (f (x.w.reader l)).2 := by
  have hs := x.w.writeLanes_same x.e d fun l => (f (x.w.reader l)).1
  refine completes_as hr he rfl hs ht fun w' h1 h2 h3 h4 h5 => ⟨?_, ?_, by rw [h4, hs.sticky]⟩
  · rw [hz]; exact passed_of (Wave.writeLanes_threads ..) h5
  · exact writeLanes_laneRegs hr.lead d _ (fun hc l m => by rw [Wave.reader_cpu hc l m]) h1 h2 h3

/-- A uniform instruction that writes one register completes (R183, R184). -/
theorem completes_uniform {i : Instr} {s : State} {x : Issuer} {d : Nat} {v fl : Word} {eff : Issuer → State → Effect} (hr : Ready i s x)
    (he : exec i s = issue i s eff) (hf : eff x s = x.finish s (x.w.setK d v) fl) (ht : (s.descOf x.a).trapOf fl = none) :
    Completes i s x fun w => Passed x i.size w ∧ UniRegs x d v w ∧ w.sticky = x.w.sticky ||| fl := by
  refine completes_finish hr he hf (x.w.setK_same d v) ht fun w' h1 h2 h3 h4 h5 => ⟨passed_of rfl h5, ⟨fun n => ?_, fun hc n l _ => ?_⟩, by rw [h4]; rfl⟩
  · rw [Wave.kreg_congr h2, Wave.setK_kreg]
  · rw [Wave.vreg_congr h1 h2 h3]; simp [Wave.vreg, hc]

/-! The forms in which results are stated. -/

theorem LaneFlags.of {i : Instr} {d : Nat} {f : Reader → Word × Word} (h : ∀ s, exec i s = issue i s (laneOp d f)) :
    LaneFlags i d (fun r => (f r).1) fun r => (f r).2 := fun s _ hr hu =>
  completes_lane hr (h s) rfl (KDesc.trapOf_off hu.1 hu.2 _)

theorem LaneResult.of {i : Instr} {d : Nat} {f : Reader → Word} (h : ∀ s, exec i s = issue i s (laneOp d fun r => (f r, 0))) :
    LaneResult i d f := fun s x hr => by
  have := completes_lane hr (h s) rfl (by simp [KDesc.trapOf_zero])
  simpa using this

theorem UniFlags.of {i : Instr} {d : Nat} {f : Reader → Word × Word} (h : ∀ s, exec i s = issue i s (arith 1 d f)) :
    UniFlags i d (fun r => (f r).1) fun r => (f r).2 := fun s _ hr hu =>
  completes_uniform hr (h s) (by simp [arith]) (KDesc.trapOf_off hu.1 hu.2 _)

theorem UniResult.of {i : Instr} {d : Nat} {f : Reader → Word} (h : ∀ s, exec i s = issue i s (plain 1 d f)) :
    UniResult i d f := fun s x hr => by
  have := completes_uniform (d := d) (v := f x.w.kreg) (fl := 0) hr (h s) (by simp [plain, arith]) (by simp [KDesc.trapOf_zero])
  simpa using this

theorem BothFlags.of {i : BitVec 1 → Instr} {d : Nat} {f : Reader → Word × Word} (h : ∀ u s, exec (i u) s = issue (i u) s (arith u d f)) :
    BothFlags i d (fun r => (f r).1) fun r => (f r).2 :=
  ⟨LaneFlags.of fun s => h 0 s, UniFlags.of fun s => h 1 s⟩

theorem BothResult.of {i : BitVec 1 → Instr} {d : Nat} {f : Reader → Word} (h : ∀ u s, exec (i u) s = issue (i u) s (plain u d f)) :
    BothResult i d f :=
  ⟨LaneResult.of fun s => h 0 s, UniResult.of fun s => h 1 s⟩

/-! Pairs. -/

theorem Wave.setVpair_vreg (w : Wave) (n l m j : Nat) (x : DWord) (hl : l < 32) (hj : j < 32) :
    (w.setVpair n l x).vreg m j =
      if m = n + 1 ∧ (w.cpu = true ∨ j = l) then hiWord x
      else if m = n ∧ (w.cpu = true ∨ j = l) then loWord x else w.vreg m j := by
  unfold setVpair
  rw [setV_vreg _ _ _ _ _ _ hl hj, setV_vreg _ _ _ _ _ _ hl hj, setV_cpu]

theorem Wave.setVpair_same (w : Wave) (n l : Nat) (x : DWord) : SameButRegs w (w.setVpair n l x) :=
  (w.setV_same n l _).trans (Wave.setV_same _ _ l _)

theorem Wave.setVpair_threads (w : Wave) (n l : Nat) (x : DWord) : (w.setVpair n l x).threads = w.threads := by simp [setVpair]

theorem Wave.foldl_setVpair (d : Nat) (f : Nat → DWord) (ls : List Nat) (hls : ∀ l ∈ ls, l < 32) (w : Wave) :
    let w' := ls.foldl (fun v l => v.setVpair d l (f l)) w
    w'.cpu = w.cpu ∧
      (∀ n j, j < 32 → n ≠ d → n ≠ d + 1 → w'.vreg n j = w.vreg n j) ∧
      (w.cpu = false →
        (∀ j, j < 32 → j ∈ ls → w'.vreg d j = loWord (f j) ∧ w'.vreg (d + 1) j = hiWord (f j)) ∧
          (∀ n j, j < 32 → j ∉ ls → w'.vreg n j = w.vreg n j) ∧ ∀ n, w'.kreg n = w.kreg n) ∧
      (w.cpu = true → ∀ c, (∀ l ∈ ls, f l = c) → ls ≠ [] → ∀ j, j < 32 → w'.vreg d j = loWord c ∧ w'.vreg (d + 1) j = hiWord c) := by
  induction ls using List.reverseRecOn with
  | nil => simp
  | append_singleton ls l ih =>
    have hl : l < 32 := hls l (by simp)
    obtain ⟨h1, h2, h3, h4⟩ := ih fun m hm => hls m (by simp [hm])
    simp only [List.foldl_append, List.foldl_cons, List.foldl_nil] at *
    generalize List.foldl (fun v l => v.setVpair d l (f l)) w ls = w' at *
    refine ⟨by simp [setVpair, h1], fun n j hj hn hn' => by rw [setVpair_vreg _ _ _ _ _ _ hl hj]; simp [hn, hn', h2 n j hj hn hn'],
      fun hc => ⟨fun j hj hm => ?_, fun n j hj hm => ?_, fun n => ?_⟩, fun hc c hf _ j hj => ?_⟩
    · rw [setVpair_vreg _ _ _ _ _ _ hl hj, setVpair_vreg _ _ _ _ _ _ hl hj]
      by_cases hjl : j = l
      · simp [hjl]
      · have : j ∈ ls := by simpa [hjl] using hm
        simp [hjl, h1, hc, (h3 hc).1 j hj this]
    · have hjl : j ≠ l := fun h => hm (by simp [h])
      rw [setVpair_vreg _ _ _ _ _ _ hl hj]
      simp [hjl, h1, hc, (h3 hc).2.1 n j hj fun h => hm (by simp [h])]
    · simp only [setVpair, setV_kreg]; simp [h1, hc, (h3 hc).2.2 n]
    · rw [setVpair_vreg _ _ _ _ _ _ hl hj, setVpair_vreg _ _ _ _ _ _ hl hj]
      simp [h1, hc, hf l (by simp)]

theorem not_nil_of_mask {e : LaneMask} (he : e ≠ 0#32) : lanesOf e ≠ [] := by
  intro h0
  apply he
  apply BitVec.eq_of_getLsbD_eq
  intro i hi
  have : i ∉ lanesOf e := by rw [h0]; simp
  rw [mem_lanesOf] at this
  simp at this
  simpa using this hi

theorem writePairs_lanePairs {x : Issuer} (he : x.e ≠ 0#32) (d : Nat) (f : Reader → DWord) {w : Wave}
    (h1 : w.v = (x.w.writePairs x.e d fun l => f (x.w.reader l)).v) (h2 : w.k = (x.w.writePairs x.e d fun l => f (x.w.reader l)).k)
    (h3 : w.cpu = (x.w.writePairs x.e d fun l => f (x.w.reader l)).cpu) : LanePairs x d (fun l => f (x.w.reader l)) w := by
  obtain ⟨-, a, b, c⟩ := Wave.foldl_setVpair d (fun l => f (x.w.reader l)) (lanesOf x.e) (fun l hl => lanesOf_lt hl) x.w
  refine ⟨fun l hl hx => ?_, fun n l hl hn hn' => ?_, fun hc => ⟨fun n l hl hx => ?_, fun n => ?_⟩⟩
  · rw [Wave.vreg_congr h1 h2 h3, Wave.vreg_congr h1 h2 h3]
    cases hc : x.w.cpu with
    | false => exact (b hc).1 l hl ((mem_lanesOf _ _).2 ⟨hl, hx⟩)
    | true =>
      have hcon : ∀ j, f (x.w.reader j) = f (x.w.reader l) := fun j => by
        have : x.w.reader j = x.w.reader l := by funext n; simp [Wave.reader, Wave.vreg, hc]
        rw [this]
      exact c hc _ (fun j _ => hcon j) (not_nil_of_mask he) l hl
  · rw [Wave.vreg_congr h1 h2 h3]; exact a n l hl hn hn'
  · rw [Wave.vreg_congr h1 h2 h3]; exact (b hc).2.1 n l hl fun h => hx ((mem_lanesOf _ _).1 h).2
  · rw [Wave.kreg_congr h2]; exact (b hc).2.2 n

theorem Wave.writePairs_same (w : Wave) (e : LaneMask) (d : Nat) (f : Nat → DWord) : SameButRegs w (w.writePairs e d f) :=
  w.forLanes_same e _ fun l v => v.setVpair_same d l (f l)

theorem Wave.writePairs_threads (w : Wave) (e : LaneMask) (d : Nat) (f : Nat → DWord) : (w.writePairs e d f).threads = w.threads :=
  Wave.forLanes_keeps Wave.threads _ (fun l v => v.setVpair_threads d l (f l)) w e

theorem BothPair.of {i : BitVec 1 → Instr} {d : Nat} {f : Reader → DWord} (h : ∀ u s, exec (i u) s = issue (i u) s (arithPair u d f)) :
    BothPair i d f := by
  refine ⟨fun s x hr => ?_, fun s x hr => ?_⟩
  · refine completes_finish hr (h 0 s) rfl (x.w.writePairs_same x.e d _) (KDesc.trapOf_zero _)
      fun w' h1 h2 h3 h4 h5 => ⟨passed_of (Wave.writePairs_threads ..) h5, writePairs_lanePairs hr.lead d f h1 h2 h3, ?_⟩
    rw [h4, (x.w.writePairs_same x.e d _).sticky]; simp
  · refine completes_finish hr (h 1 s) (w := x.w.setKpair d (f x.w.kreg)) (fl := 0) (by simp [arithPair]) rfl (KDesc.trapOf_zero _)
      fun w' h1 h2 h3 h4 h5 => ⟨passed_of rfl h5, ⟨fun n => ?_, fun hc n l _ => ?_⟩, by rw [h4]; exact BitVec.or_zero⟩
    · rw [Wave.kreg_congr h2]
      simp only [Wave.setKpair, Wave.setK_kreg]
      by_cases hn : n = d
      · simp [hn]
      · simp [hn]
    · rw [Wave.vreg_congr h1 h2 h3]; simp [Wave.vreg, hc, Wave.setKpair]

end Sys2Proof.Machine
end

