-- ==== Sys2Proof/Laws/Predicate.lean ====
section
/-! SUPPORT. What completes by writing a predicate of every thread of the group. -/

set_option Elab.async false

namespace Sys2Proof.Machine

open Sys2Proof

/-- A thread with predicate j set to a value; `p7` has no storage (R62). -/
def Thread.withPred (t : Thread) (j : Nat) (x : Bool) : Thread :=
  if j < 7 then
    { t with pred := if x then t.pred ||| BitVec.ofNat 7 (2 ^ j) else t.pred &&& ~~~BitVec.ofNat 7 (2 ^ j) }
  else t

theorem bit7_getLsbD (j i : Nat) (hj : j < 7) : (BitVec.ofNat 7 (2 ^ j)).getLsbD i = decide (i = j) := by
  have : BitVec.ofNat 7 (2 ^ j) = BitVec.twoPow 7 j := by apply BitVec.eq_of_toNat_eq; simp [BitVec.toNat_twoPow]
  rw [this, BitVec.getLsbD_twoPow]
  by_cases h : i = j
  · subst h; simp [hj]
  · simp [h, Ne.symm h]

theorem Thread.withPred_pred (t : Thread) (j : Nat) (x : Bool) (i : Nat) :
    (t.withPred j x).pred.getLsbD i = if i = j ∧ j < 7 then x else t.pred.getLsbD i := by
  unfold withPred
  by_cases hj : j < 7
  · simp only [hj, if_true, and_true]
    have hb := bit7_getLsbD j i hj
    generalize BitVec.ofNat 7 (2 ^ j) = b at hb
    cases x with
    | true =>
      simp only [if_true, BitVec.getLsbD_or, hb]
      by_cases hi : i = j <;> simp [hi]
    | false =>
      simp only [Bool.false_eq_true, if_false, BitVec.getLsbD_and, BitVec.getLsbD_not, hb]
      by_cases hi : i = j
      · simp [hi]
      · by_cases h7 : i < 7
        · simp [hi, h7]
        · simp [hi, h7, BitVec.getLsbD_of_ge t.pred i (by omega)]
  · simp [hj]

theorem Thread.withPred_rest (t : Thread) (j : Nat) (x : Bool) : { t.withPred j x with pred := t.pred } = t := by
  unfold withPred; split <;> rfl

theorem Wave.setP_eq (w : Wave) (j l : Nat) (x : Bool) : w.setP j l x = w.modLanes (laneBit l) fun t => t.withPred j x := rfl

theorem Wave.setP_threads (w : Wave) (j l : Nat) (x : Bool) (hl : l < 32) (m : Nat) (hm : m < 32) :
    (w.setP j l x).threads[m]? = if m = l then w.threads[m]?.map fun t => t.withPred j x else w.threads[m]? := by
  rw [setP_eq]
  simp only [modLanes, List.getElem?_mapIdx, laneBit_getLsbD l m hl hm, decide_eq_true_eq]
  cases w.threads[m]? with
  | none => simp
  | some t => split <;> simp [*]

theorem Wave.foldl_setP (d : Nat) (f : Nat → Bool) (ls : List Nat) (hls : ∀ l ∈ ls, l < 32) (hn : ls.Nodup) (w : Wave) (m : Nat)
    (hm : m < 32) :
    (ls.foldl (fun v l => v.setP d l (f l)) w).threads[m]? =
      if m ∈ ls then w.threads[m]?.map fun t => t.withPred d (f m) else w.threads[m]? := by
  induction ls using List.reverseRecOn with
  | nil => simp
  | append_singleton ls l ih =>
    rw [List.nodup_append] at hn
    have ih := ih (fun k hk => hls k (by simp [hk])) hn.1
    simp only [List.foldl_append, List.foldl_cons, List.foldl_nil]
    rw [setP_threads _ _ _ _ (hls l (by simp)) m hm, ih]
    by_cases hml : m = l
    · have hmem : m ∉ ls := fun h => hn.2.2 m h l (by simp) hml
      subst hml
      simp [hmem]
    · simp [hml]

theorem lanesOf_nodup (e : LaneMask) : (lanesOf e).Nodup := List.Nodup.filter _ List.nodup_range

/-- Writing a predicate of every lane of a mask. -/
theorem Wave.writePreds_threads (w : Wave) (e : LaneMask) (d : Nat) (f : Nat → Bool) (m : Nat) (hm : m < 32) :
    (w.writePreds e d f).threads[m]? = if e.getLsbD m then w.threads[m]?.map fun t => t.withPred d (f m) else w.threads[m]? := by
  have := Wave.foldl_setP d f (lanesOf e) (fun l hl => lanesOf_lt hl) (lanesOf_nodup e) w m hm
  simpa [writePreds, forLanes, mem_lanesOf, hm] using this

theorem Wave.writePreds_same (w : Wave) (e : LaneMask) (d : Nat) (f : Nat → Bool) : SameButRegs w (w.writePreds e d f) :=
  w.forLanes_same e _ fun _ _ => rfl

theorem Wave.writePreds_regs (w : Wave) (e : LaneMask) (d : Nat) (f : Nat → Bool) :
    (w.writePreds e d f).v = w.v ∧ (w.writePreds e d f).k = w.k ∧ (w.writePreds e d f).cpu = w.cpu :=
  ⟨Wave.forLanes_keeps Wave.v (fun l v => v.setP d l (f l)) (fun _ _ => rfl) w e,
    Wave.forLanes_keeps Wave.k (fun l v => v.setP d l (f l)) (fun _ _ => rfl) w e,
    Wave.forLanes_keeps Wave.cpu (fun l v => v.setP d l (f l)) (fun _ _ => rfl) w e⟩

theorem Thread.withPred_advance (t : Thread) (j n : Nat) (x : Bool) :
    (t.withPred j x).advance n = { t.advance n with pred := (t.withPred j x).pred } := by unfold withPred; split <;> rfl

theorem Thread.withPred_stat (t : Thread) (j : Nat) (x : Bool) : (t.withPred j x).stat = t.stat := by unfold withPred; split <;> rfl

theorem passedPred_of {x : Issuer} {d n : Nat} {f : Nat → Bool} {w : Wave}
    (hw : w.threads = ((x.w.writePreds x.e d f).stepPast x.e n).threads) : PassedPred x d n f w := by
  have ht : ∀ m, m < 32 → w.th m = ((x.w.writePreds x.e d f).stepPast x.e n).th m := fun m _ => Wave.th_congr hw m
  have hp : ∀ m, m < 32 → (x.w.writePreds x.e d f).th m =
      if x.e.getLsbD m then ((x.w.threads[m]?.map fun t => t.withPred d (f m)).getD {}) else x.w.th m := fun m hm => by
    unfold Wave.th; rw [Wave.writePreds_threads _ _ _ _ _ hm]; split <;> rfl
  refine ⟨fun l hl hx hs => ?_, fun l hl hx => ?_, fun j l hl hx hlt => ?_⟩
  · rw [ht l hl, Wave.stepPast_th _ _ _ _ hl, hp l hl]
    simp only [Issuer.has] at hx
    unfold Wave.th at *
    cases h : x.w.threads[l]? with
    | none => rw [h] at hs; simp at hs
    | some t =>
      rw [h] at hs
      simp only [Option.getD_some] at hs
      simp only [hx, if_true, Option.map_some, Option.getD_some, Thread.withPred_stat, hs, decide_true, Bool.and_self]
      rw [Thread.withPred_advance]
  · simp only [Issuer.has, Bool.not_eq_true] at hx
    rw [ht l hl, Wave.stepPast_th _ _ _ _ hl, hp l hl]
    simp [hx]
  · simp only [Issuer.has] at hx
    have hpred : (w.th l).pred = ((x.w.writePreds x.e d f).th l).pred := by
      rw [ht l hl, Wave.stepPast_th _ _ _ _ hl]; split <;> rfl
    obtain ⟨t, h⟩ : ∃ t, x.w.threads[l]? = some t := ⟨_, List.getElem?_eq_getElem hlt⟩
    unfold Wave.preg
    rw [hpred, hp l hl]
    simp only [hx, if_true, h, Option.map_some, Option.getD_some, Thread.withPred_pred, Wave.th]
    by_cases h7 : j = 7
    · subst h7
      simp only [if_true]
      by_cases hd : 7 = d
      · simp [← hd]
      · simp [hd]
    · simp [h7]

/-- An instruction that writes a predicate of every thread of its group completes. -/
theorem completes_preds {i j : Instr} {s : State} {x : Issuer} {d : Nat} {f : Nat → Bool} {eff : Issuer → State → Effect} (hr : Ready j s x)
    (he : exec i s = issue j s eff) (hz : i.size = j.size) (hf : eff x s = x.finish s (x.w.writePreds x.e d f)) :
    Completes i s x fun w => PassedPred x d i.size f w ∧ SameRegs x.w w ∧ w.sticky = x.w.sticky := by
  obtain ⟨r1, r2, r3⟩ := x.w.writePreds_regs x.e d f
  refine completes_as hr he hf (x.w.writePreds_same x.e d f) (KDesc.trapOf_zero _) fun w' h1 h2 h3 h4 h5 => ⟨?_, ⟨fun n l _ => ?_, fun n => ?_⟩, ?_⟩
  · rw [hz]; exact passedPred_of h5
  · exact Wave.vreg_congr (h1.trans r1) (h2.trans r2) (h3.trans r3) n l
  · exact Wave.kreg_congr (h2.trans r2) n
  · rw [h4, (x.w.writePreds_same x.e d f).sticky]; simp

theorem PredResult.of {i j : Instr} {d : Nat} {f : Reader → (Nat → Bool) → Bool} (hr : ∀ s x, Ready i s x → Ready j s x)
    (h : ∀ s, exec i s = issue j s (predOp d f)) (hz : i.size = j.size) : PredResult i d f := fun s x hi =>
  completes_preds (hr s x hi) (h s) hz rfl

end Sys2Proof.Machine
end

