-- ==== Sys2Proof/Laws/Storage.lean ====
section
/-! SUPPORT. The other writers of memory keep its canonical form: the write of a row, the loss of DRAM with power, and the load of a
program. -/

set_option Elab.async false

namespace Sys2Proof.Machine

open Sys2Proof

theorem State.wf_reachRow (s : State) (core pa : Nat) (h : Memory.wf s = true) : Memory.wf (s.reachRow core pa) = true :=
  Memory.wf_foldl _ (fun s _ hs => wf_promoteFor s _ _ hs) _ s h

theorem State.wf_putRow (s : State) (o : Op) (w base : Nat) (h : Memory.wf s = true) : Memory.wf (s.putRow o w base) = true := by
  unfold putRow
  split
  · exact h
  · next k _ =>
    have hr : Memory.wf (match s.team? k with | some t => s.reachRow o.core (rowOf t.core (t.slotAt w)) | none => s) = true := by
      split
      · exact wf_reachRow _ _ _ h
      · exact h
    simp only
    split
    · exact hr
    · unfold Memory.wf at *
      simp only [putTeam_home, modL1_home]
      have key : ∀ (l : List Host.Cell) (p : Nat) (x : Tab Byte), Tab.wf 0 x = true →
          Tab.wf 0 (l.foldl (fun (h : Tab Byte) c => h.put 0 (p + c.1) c.2) x) = true := by
        intro l p
        induction l with
        | nil => intro x hx; exact hx
        | cons c l ih => intro x hx; exact ih _ (Tab.wf_put 0 x _ _ hx)
      exact key _ _ _ (Tab.wf_putList 0 _ _ _ hr)

/-- Power-up keeps the bytes outside DRAM only. -/
theorem Memory.wf_keep (s : State) (p : Nat × Byte → Bool) (h : Memory.wf s = true) : Memory.wf { s with home := s.home.filter p } = true :=
  Tab.wf_filter 0 s.home p h

theorem State.wf_loadMem (s : State) (nbits w : Nat) (h : Memory.wf s = true) : Memory.wf (s.loadMem nbits w) = true := by
  unfold loadMem Memory.wf at *
  refine Tab.wf_putList 0 _ _ _ ?_
  simp only [loadTables, List.foldl_cons, List.foldl_nil]
  exact Tab.wf_putList 0 _ _ _ (Tab.wf_putList 0 _ _ _ (Tab.wf_putList 0 _ _ _ h))

end Sys2Proof.Machine
end

