-- ==== Sys2Proof/Tests/Slice0.lean ====
section
/-! SUPPORT. Tests: a smoke test of WellFormed, words written out from the spec's encodings, results that the spec works out, and for
each statement for the provers a state and operands that meet its hypotheses. -/

open Sys2Proof Sys2Proof.Machine

namespace Sys2Proof.Tests

set_option Elab.async false

/-! One ill-formed term for each check of WellFormed (R158 to R170), which the check refuses; the value beside it that is permitted. -/

theorem test_wellFormed_pairs :
    ([.iadd64 0 1 2 4, .iadd64 0 2 1 4, .iadd64 0 2 4 1, .imadwI32 0 1 2 3 4, .imadwN32 0 2 2 3 5, .timeRef 0 3, .timeCyc 1 3, .rng 0 1 2 3,
      .ctxfl 3 0 0, .park 3 0, .unpark 3 0 0, .tlbiCtx 3, .tlbiPage 3, .mmaq 0 7 0 0 1 0 0 0 0, .fpkBf16 1 3, .fpkF16 1 3, .fpkSrBf16 1 3 0,
      .fpkSrF16 1 3 0, .fpkE4m3 1 6, .fpkE5m2 1 6, .fpkSrE4m3 1 6 0, .fpkSrE5m2 1 6 0, .movs 3 14 0] : List Instr).all
        (fun i => !i.wellFormed) = true ∧
    ([.iadd64 0 2 2 4, .imadwI32 0 2 1 3 4, .timeRef 0 2, .rng 0 1 2 4, .tlbiPage 2, .mmaq 0 7 0 0 2 0 0 0 0, .fpkBf16 1 2, .fpkE4m3 1 4,
      .movs 3 13 0, .movs 2 15 0] : List Instr).all Instr.wellFormed = true := by decide +kernel

theorem test_wellFormed_modes :
    ([.fadd 0 1 2 3 4, .fsub 0 1 2 3 4, .fmul 0 1 2 3 4, .fscale 0 1 2 3 4, .frnd 0 1 2 4, .f2iI8 1 2 4, .f2iN32 1 2 4, .i2fI8 1 2 4,
      .i2fN32 1 2 4, .fcvtBf16 1 2 4, .fcvtE2m1 1 2 4, .i2iI8 1 2 6 0, .i2iN32 1 2 6 0, .funpkBf16 1 2 2, .funpkF16 1 2 2, .funpkE4m3 1 2 4,
      .funpkE5m2 1 2 4, .funpkE2m1 1 2 8, .movkKS 1 32, .movkSK 32 1, .movs 2 16 0, .phase 3, .tokq 0 1 3, .zepi 0 7 0 0 6 0,
      .zepi 0 7 0 0 0 1, .zepiRoute 0 7 0 0 0 5 1] : List Instr).all (fun i => !i.wellFormed) = true ∧
    ([.fadd 0 1 2 3 3, .frnd 0 1 2 3, .f2iI8 1 2 3, .i2iI8 1 2 5 0, .funpkBf16 1 2 1, .funpkE4m3 1 2 3, .funpkE2m1 1 2 7, .movkKS 1 31,
      .phase 2, .tokq 0 1 2, .zepi 0 7 0 0 5 0] : List Instr).all Instr.wellFormed = true := by decide +kernel

theorem test_wellFormed_memory :
    ([.ld 0 1 2 7 0 0, .ld 0 1 2 2 11 0, .ldLast 0 1 2 7 0, .pref 2 0 0, .st 1 2 5 0 0, .st 1 2 2 6 0, .st 1 2 2 10 0, .ldk 0 1 2 7 0 0,
      .ldk 0 32 2 3 0 0, .ldk 0 16 2 4 0 0, .stk 32 2 3 0 0, .stk 16 2 4 0 0, .stk 1 2 5 0 0, .ldl 0 1 2 7 0 0, .stl 1 2 5 0 0,
      .atom 0 1 2 0x17 0, .atom 0 1 2 0 21, .atoml 0 1 2 0x17 0, .red 1 2 0x11 0, .red 1 2 0 6, .redl 1 2 0 16, .fence 5, .fence 21,
      .barx 0 0 5, .barx 0 0 21, .semwait 0 0 5, .semwait 0 0 11, .semsig 0 0 10, .semsig 0 0 16, .semtk 0 0 0 6, .semrd 0 0 0 6]
        : List Instr).all (fun i => !i.wellFormed) = true ∧
    ([.ld 0 1 2 6 10 0, .pref 1 0 0, .st 1 2 4 5 0, .st 1 2 2 11 0, .ldk 0 31 2 3 0 0, .stk 15 2 4 0 0, .atom 0 1 2 0x16 20, .red 1 2 0x15 15,
      .fence 6, .fence 20, .barx 0 0 20, .semwait 0 0 10, .semsig 0 0 15, .semtk 0 0 0 5] : List Instr).all Instr.wellFormed = true := by
  decide +kernel

theorem test_wellFormed_engines :
    ([.gang 7 0 0 1, .gang 7 0 0 7, .mma 0 7 1 0 0 0 0 0 0, .mmaX 0 7 1 0 0 0 0 0 0, .mmaq 0 7 1 0 0 0 0 0 0, .qlaunch 7 8 0, .qcopy 7 7 0,
      .qcopy 7 12 0, .qsemw 7 12 0 0, .qsems 7 12 0 0, .qirq 7 12 0, .mfsr 1 0xA000, .mtsr 1 0x0008] : List Instr).all
        (fun i => !i.wellFormed) = true ∧
    ([.gang 7 0 0 2, .gang 7 0 0 6, .mma 0 7 1 1 0 0 0 0 0, .qlaunch 7 7 0, .qcopy 7 8 0, .qcopy 7 11 0, .qsemw 7 11 0 0, .mfsr 1 0x0007,
      .mtsr 1 0x8050] : List Instr).all Instr.wellFormed = true := by decide +kernel

/-! Words that the spec's encoding examples write out (R155 to R166, R216, R246, R277), by family. -/

theorem test_decode_short :
    decodeTableWord 16 0x2924 = some (.iadd16 9 10) ∧ decodeTableWord 16 0x1422 = some (.movi16 1 5) ∧
    decodeTableWord 16 0x0824 = some (.iadd16 1 2) ∧ decodeTableWord 16 0x0C30 = some (.shli16 1 3) := by decide +kernel

theorem test_decode_integer :
    decodeTableWord 32 0x0680C703 = some (.iaddSatI32 0 7 3 40) ∧ decodeTableWord 32 0x00910483 = some (.iadd 1 4 4 9) ∧
    decodeTableWord 32 0xCE008605 = some (.iaddImm 0 6 2 0x19C) ∧ decodeTableWord 32 0xF2206303 = some (.trilog 0 3 1 1 0 2 1 12) ∧
    decodeTableWord 32 0x6ADCD307 = some (.imad 0 13 14 11 13) ∧ decodeTableWord 32 0x00041309 = some (.popc 0 1 2) := by decide +kernel

theorem test_decode_float :
    decodeTableWord 32 0x1882540D = some (.ffmaRz 0 5 1 2 3) ∧ decodeTableWord 32 0x4A50830D = some (.ffmaRn 0 8 8 9 9) ∧
    decodeTableWord 32 0x0000810F = some (.frcp 0 1 2) ∧ decodeTableWord 32 0x7C708611 = some (.fcvtSrE4m3 6 2 7) ∧
    decodeTableWord 32 0x00C41913 = some (.hadd2F16 1 2 3) := by decide +kernel

theorem test_decode_move :
    decodeTableWord 32 0xFFFEA095 = some (.movi 40 0xFFFE) ∧ decodeTableWord 32 0x03C80015 = some (.mov 0xC8 3) ∧
    decodeTableWord 32 0x01070E15 = some (.movs 3 7 1) ∧ decodeTableWord 32 0x0C504417 = some (.lanexFlip 4 1 5) ∧
    decodeTableWord 32 0x00020595 = some (.movkVK 1 2) := by decide +kernel

theorem test_decode_control :
    decodeTableWord 32 0x00008019 = some (.bra 32) ∧ decodeTableWord 32 0xFFE04899 = some (.br 2 0 1 0x7FF0) ∧
    decodeTableWord 32 0x0000041D = some (.joinI 1) ∧ decodeTableWord 32 0x0000161D = some (.trap 5) ∧
    decodeTableWord 32 0x0000809B = some (.call 32) ∧ decodeTableWord 32 0x0000009D = some .exitI := by decide +kernel

theorem test_decode_memory :
    decodeTableWord 32 0x84A8481F = some (.ld 0 8 33 2 9 16) ∧ decodeTableWord 32 0x1730C521 = some (.st 5 3 3 14 2) ∧
    decodeTableWord 32 0x60400623 = some (.ldk 0 6 0 4 0 12) ∧ decodeTableWord 32 0x1021C325 = some (.ldl 0 3 7 2 0 2) ∧
    decodeTableWord 32 0x00288CA7 = some (.atom 1 12 34 2 0) ∧ decodeTableWord 32 0x4A404427 = some (.red 4 1 4 5) ∧
    decodeTableWord 32 0x26000029 = some (.fence 19) := by decide +kernel

theorem test_decode_sync :
    decodeTableWord 32 0x1228C42B = some (.semwait 4 3 9) ∧ decodeTableWord 32 0x1218462B = some (.barx 6 1 9) := by decide +kernel

theorem test_decode_engine :
    decodeTableWord 32 0x0000462D = some (.bcopy 0 6 1) ∧ decodeTableWord 32 0x0138322D = some (.gang 2 0 28 2) ∧
    decodeTableWord 32 0x08C6872F = some (.mma 0 7 2 1 1 6 1 0 0) ∧ decodeTableWord 32 0x016247B1 = some (.rowact 1 7 1 2 3 1) ∧
    decodeTableWord 32 0x01C54F31 = some (.rowcon 0 7 1 5 7 0) ∧ decodeTableWord 32 0x040A4733 = some (.cpost 7 1 5 2) := by decide +kernel

theorem test_decode_launch :
    decodeTableWord 32 0x00048735 = some (.launch 0 7 2 2) ∧ decodeTableWord 32 0x00061F35 = some (.qcopy 7 8 1) := by decide +kernel

theorem test_decode_system :
    decodeTableWord 32 0x14001E37 = some (.timeCyc 0 30) ∧ decodeTableWord 32 0x00061139 = some (.ctxfl 4 2 1) ∧
    decodeTableWord 32 0x000212B9 = some (.unpark 4 2 0) ∧ decodeTableWord 32 0x30001439 = some (.mfsr 5 0x3000) ∧
    decodeTableWord 32 0x40081CB9 = some (.mtsr 7 0x4008) ∧ decodeTableWord 32 0x00010339 = some (.haltc 1) := by decide +kernel

/-- The clause header of R171's example, in an instruction's place, is no instruction (R167). -/
theorem test_decode_header : decodeTableWord 32 0x0F880001 = none ∧ decodeTableWord 32 0x0000003B = none ∧ decodeTableWord 32 0x0000007F = none := by
  decide +kernel

/-! States of one wave, or of one command processor, that issue next. -/

/-- The wave of the loader's state issues next. -/
def demo : State := { (State.reset.load 32 0x0000000D9) with issuer := some (.wave loadKey) }

/-- The command processor of context 0 issues next. -/
def demoCp : State := { (State.reset.load 32 0x00061F35) with issuer := some (.cp 0) }

/-- `demo` with `v` registers set in every lane, and `k` registers set. -/
def demoWith (vs ks : List (Nat × Word)) : State :=
  demo.modAgent (.wave loadKey) fun w =>
    ks.foldl (fun w p => w.setK p.1 p.2) (vs.foldl (fun w p => w.writeLanes (BitVec.allOnes 32) p.1 fun _ => p.2) w)

/-- Whether an instruction is `Ready` at a state. -/
def ready (i : Instr) (s : State) : Bool :=
  match s.issuer? with
  | some x => !x.w.missed i x.e (s.descOf x.a).nregs && x.w.poisoned i x.e (s.descOf x.a).nregs == none && encodingCause i s x.a x.th == none && !flagFull i x
  | none => false

theorem ready_sound {i : Instr} {s : State} (h : ready i s = true) : ∃ x, Ready i s x := by
  unfold ready at h
  split at h
  · rename_i x hx
    simp at h
    exact ⟨x, hx, h.1.1.1, h.1.1.2, h.1.2, h.2⟩
  · simp at h

/-- Every instruction of a list is `Ready` at a state. -/
def AllReady (s : State) (l : List Instr) : Prop := ∀ i ∈ l, ∃ x, Ready i s x

theorem allReady {s : State} {l : List Instr} (h : (l.all fun i => ready i s) = true) : AllReady s l :=
  fun i hi => ready_sound (List.all_eq_true.1 h i hi)

/-- Register d of lane 0 and the sticky bits after an instruction of the wave. -/
noncomputable def laneAfter (i : Instr) (s : State) (d : Nat) : Option (Word × Word) :=
  match exec i s with
  | .next t => (t.wave? loadKey).map fun w => (w.vreg d 0, w.sticky)
  | _ => none

/-- Predicate p of lane 0 after an instruction of the wave. -/
noncomputable def predAfter (i : Instr) (s : State) (p : Nat) : Option Bool :=
  match exec i s with
  | .next t => (t.wave? loadKey).map fun w => w.preg p 0
  | _ => none

/-- A test of the state after an instruction. -/
noncomputable def holdsAfter (i : Instr) (s : State) (p : State → Bool) : Bool :=
  match exec i s with
  | .next t => p t
  | _ => false

/-! Results of one instruction, with values that the rules or their examples give. -/

/-- R186: modulo 2^32, and the carry. -/
theorem test_iadd_wraps : laneAfter (.iadd 0 1 2 3) (demoWith [(2, 0xFFFFFFFF), (3, 2)] []) 1 = some (1, 0) := by decide +kernel
theorem test_iaddc : laneAfter (.iaddc 0 1 2 3) (demoWith [(2, 0xFFFFFFFF), (3, 1)] []) 1 = some (1, 0) := by decide +kernel
/-- R186: a saturating sum at the top of the signed range sets IS. -/
theorem test_iadd_sat : laneAfter (.iaddSatI32 0 1 2 3) (demoWith [(2, 0x7FFFFFFF), (3, 1)] []) 1 = some (0x7FFFFFFF, fIS) := by decide +kernel
/-- R187: an arithmetic shift by 32 or more gives copies of the sign. -/
theorem test_sar_all : laneAfter (.sar 0 1 2 3) (demoWith [(2, 0x80000000), (3, 32)] []) 1 = some (0xFFFFFFFF, 0) := by decide +kernel
theorem test_shl_32 : laneAfter (.shl 0 1 2 3) (demoWith [(2, 1), (3, 32)] []) 1 = some (0, 0) := by decide +kernel
/-- R189: the high word of (−1) · (−1). -/
theorem test_imulh : laneAfter (.imulhI32 0 1 2 3) (demoWith [(2, 0xFFFFFFFF), (3, 0xFFFFFFFF)] []) 1 = some (0, 0) := by decide +kernel
/-- R191: `CLZ` of 0 is 32. -/
theorem test_clz_zero : laneAfter (.clz 0 1 2) demo 1 = some (32, 0) := by decide +kernel
/-- R192: a signed comparison across 0; a write to `p7` is discarded (R62). -/
theorem test_icmp_signed : predAfter (.icmpLtI32 2 2 3) (demoWith [(2, 0xFFFFFFFF), (3, 0)] []) 2 = some true := by decide +kernel
theorem test_icmp_p7 : predAfter (.icmpNeI32 7 2 3) demo 7 = some true := by decide +kernel
/-- R194, R199: exact results rounded once: 2.0 has the root 0x3FB504F3, with NX; 2^3 is 8.0, with none. -/
theorem test_fsqrt : laneAfter (.fsqrt 0 1 2) (demoWith [(2, 0x40000000)] []) 1 = some (0x3FB504F3, fNX) := by decide +kernel
theorem test_fex2 : laneAfter (.fex2 0 1 2) (demoWith [(2, 0x40400000)] []) 1 = some (0x41000000, 0) := by decide +kernel
/-- R205's example: 13.5 to E4M3 stochastically, below and at its threshold. -/
theorem test_fcvt_sr_down : laneAfter (.fcvtSrE4m3 1 2 3) (demoWith [(2, 0x41580000), (3, 0x7FFFF)] []) 1 = some (0x55, fNX) := by decide +kernel
theorem test_fcvt_sr_up : laneAfter (.fcvtSrE4m3 1 2 3) (demoWith [(2, 0x41580000), (3, 0x80000)] []) 1 = some (0x56, fNX) := by decide +kernel
/-- R207: each element of a packed sum is rounded once. -/
theorem test_hadd2 : laneAfter (.hadd2F16 1 2 3) (demoWith [(2, 0x3C007BFF), (3, 0x3C003C00)] []) 1 = some (0x40007BFF, fNX) := by
  decide +kernel
/-- R209: the immediate is extended by its sign. -/
theorem test_movi : laneAfter (.movi 40 0xFFFE) demo 40 = some (0xFFFFFFFE, 0) := by decide +kernel
/-- R212: lane 0 takes the value of lane 0 + 1. -/
theorem test_lanex_rot :
    laneAfter (.lanexRot 1 2 3) ((demoWith [(3, 1)] []).modAgent (.wave loadKey) fun w => w.setV 2 1 77) 1 = some (77, 0) := by decide +kernel
/-- R221, R383: `TRAP` enters the handler with its cause and code. -/
theorem test_trap :
    holdsAfter (.trap 5) demo (fun t => match t.wave? loadKey with
      | some w => w.tm && w.code == 0x17 && w.tcode == 5 && (w.th 0).pc == 0x30000 && w.kreg 60 == 0x517 && w.epc == 0x20008
      | none => false) = true := by decide +kernel
/-- R217: a branch by −4 bytes, to the clause's header. -/
theorem test_bra :
    holdsAfter (.bra 0x3FFFFE) demo (fun t => match t.wave? loadKey with
      | some w => (w.th 31).pc == 0x20000 && (w.th 31).chdr == 0
      | none => false) = true := by decide +kernel
/-- R166: a flag rises with a counted load, one a lane group. -/
theorem test_ld_counts :
    holdsAfter (.ld 0 5 2 2 0 0) (demoWith [(4, 0x40000)] []) (fun t => match t.wave? loadKey with
      | some w => w.flag 0 == 1 && t.ops.length == 1
      | none => false) = true := by decide +kernel
/-- R225: a misaligned lane raises `ALIGN`, which the handler takes. -/
theorem test_ld_align :
    holdsAfter (.ld 0 5 2 2 0 0) (demoWith [(4, 0x40002)] []) (fun t => match t.wave? loadKey with
      | some w => w.code == BitVec.ofNat 8 Cause.align && t.ops.isEmpty
      | none => false) = true := by decide +kernel
/-- R226: the highest lane's byte stands. -/
theorem test_st_last :
    holdsAfter (.st 6 2 2 0 0) ((demoWith [(4, 0x40000)] []).modAgent (.wave loadKey) fun w => w.setV 6 31 0x1234)
      (fun t => t.coreByte 0 0x40000 == 0x34 && t.coreByte 0 0x40001 == 0x12) = true := by decide +kernel
/-- R345: a system-register instruction at level 0 raises `PRIV`, which halts the context. -/
theorem test_mfsr_priv :
    holdsAfter (.mfsr 5 0x2000) (demo.setCtReg 0 0 0x25) (fun t => match (t.ctx 0).halt with
      | some h => h.code == Cause.priv
      | none => false) = true := by decide +kernel

/-! The host's two questions (log entry 27). -/

theorem test_step_runs :
    (match step (State.reset.withFetchWord 32 0xFFFEA095) with
     | .next t => (t.wave? loadKey).map fun w => w.vreg 40 7
     | _ => none) = some 0xFFFFFFFE := by decide +kernel
theorem test_step_short :
    (match step (State.reset.withFetchWord 16 0x1422) with
     | .next t => (t.wave? loadKey).map fun w => w.vreg 1 0
     | _ => none) = some 5 := by decide +kernel
theorem test_step_cp :
    (match step (State.reset.withFetchWord 32 0x00061F35) with
     | .next t => (t.ctx 0).queues.map fun q => q.entries.length
     | _ => []) = [0, 0, 0, 0, 0, 0, 0, 0, 1, 0, 0, 0] := by decide +kernel

/-! Witnesses: for each statement for the provers with hypotheses, a state and operands that meet them together. -/

/-- The instruction is `Ready` for an agent whose kernel enables no trap, and a further test of the issuer holds. -/
def readyAnd (a : Agent) (i : Instr) (s : State) (p : Issuer → Bool) : Bool :=
  ready i s && match s.issuer? with
    | some x => decide (x.a = a) && !(s.descOf x.a).trapIV && !(s.descOf x.a).trapOF && p x
    | none => false

theorem readyAnd_sound {a : Agent} {i : Instr} {s : State} {p : Issuer → Bool} (h : readyAnd a i s p = true) :
    ∃ x, Ready i s x ∧ Untrapped s x ∧ x.a = a ∧ p x = true := by
  simp only [readyAnd, Bool.and_eq_true] at h
  obtain ⟨x, hx⟩ := ready_sound h.1
  have h2 := h.2
  rw [hx.issuer] at h2
  simp at h2
  exact ⟨x, hx, ⟨h2.1.1.2, h2.1.2⟩, h2.1.1.1, h2.2⟩

/-- Every instruction of a list meets `Ready` and `Untrapped` on a wave. -/
def AllReady' (a : Agent) (s : State) (l : List Instr) : Prop := ∀ i ∈ l, ∃ x, Ready i s x ∧ Untrapped s x ∧ x.a = a

theorem allReady' {a : Agent} {s : State} {l : List Instr} (h : (l.all fun i => readyAnd a i s fun _ => true) = true) : AllReady' a s l := by
  intro i hi
  obtain ⟨x, h1, h2, h3, -⟩ := readyAnd_sound (List.all_eq_true.1 h i hi)
  exact ⟨x, h1, h2, h3⟩

/-- An engine instruction is `EngineReady`, and a further test holds of its issuer and its team. -/
def engineAnd (i : Instr) (g : BitVec 3) (s : State) (p : Issuer → Team → Bool) : Bool :=
  ready i s && match s.issuer?, s.team? loadKey.team with
    | some x, some t => decide (x.a = .wave loadKey) && decide (x.guarded g ≠ 0) && p x t
    | _, _ => false

theorem engineAnd_sound {i : Instr} {g : BitVec 3} {s : State} {p : Issuer → Team → Bool} (h : engineAnd i g s p = true) :
    ∃ x t, EngineReady i g s x loadKey t ∧ p x t = true := by
  simp only [engineAnd, Bool.and_eq_true] at h
  obtain ⟨x, hx⟩ := ready_sound h.1
  have h2 := h.2
  rw [hx.issuer] at h2
  split at h2
  · rename_i y t hy ht
    cases hy
    simp at h2
    exact ⟨_, t, ⟨hx, h2.1.1, ht, h2.1.2⟩, h2.2⟩
  · simp at h2

/-- A result is present. -/
def isOk {ε α : Type} : Except ε α → Bool
  | .ok _ => true
  | .error _ => false

/-- Something passes the checks of a group. -/
def granted (s : State) (a : Agent) (size : Nat) (reqs : List (Nat × DWord × AccMode)) : Bool :=
  let c := (s.checkLanes a size reqs).1
  c.cause.isNone && c.paged.isEmpty && !c.drop && !c.oks.isEmpty

theorem granted_sound {s : State} {a : Agent} {size : Nat} {reqs : List (Nat × DWord × AccMode)} (h : granted s a size reqs = true) :
    ∃ u ps, s.Grants u a size reqs ps := by
  simp only [granted, Bool.and_eq_true] at h
  obtain ⟨⟨⟨h1, h2⟩, h3⟩, h4⟩ := h
  rcases hc : s.checkLanes a size reqs with ⟨⟨c, pg, ok, dr⟩, u⟩
  simp [hc] at h1 h2 h3 h4
  exact ⟨u, ok, by rw [hc]; simp_all, h4⟩

/-! Decoding, stepping and reset. -/

theorem witness_EncodingRoundTrip :
    (Instr.ld 0 8 33 2 9 16).wellFormed = true ∧ (encode (.ld 0 8 33 2 9 16)).isSome = true ∧
    (Instr.movi16 31 63).wellFormed = true ∧ (encode (.movi16 31 63)).isSome = true := by decide +kernel

theorem witness_ReservedWords_majors : (0x3B < 2 ^ 32 ∧ 0x3B % 2 = 1 ∧ 0x1D ≤ 0x3B / 2 % 64) ∧ (0x7F % 2 = 1 ∧ 0x1D ≤ 0x7F / 2 % 64) ∧
    (1 < 2 ^ 32 ∧ 1 % 2 = 1 ∧ 1 / 2 % 64 = 0) := by decide

theorem witness_ReservedWords_fetch :
    (match State.issuer? { (State.reset.load 32 0x7F) with issuer := some (.wave loadKey) } with
      | some x => (match (State.reset.load 32 0x7F).codeInstr x.a x.pc with
        | (.ok bs, u) => bs.length == 4 && (u.agent? x.a).isSome && decide (loadKey.team.grid.ctx < u.ctxs.length)
        | _ => false)
      | none => false) = true := by decide +kernel

/-- The hypotheses of `StepRunsDecoded`, for the loader's state. -/
theorem witness_StepRunsDecoded :
    (let s := State.reset.load 32 0xFFFEA095
     match s.agenda with
     | act :: rest =>
       let v := State.elapse { s with agenda := rest } act
       match act.what with
       | .issue a => v.canIssue a && (match ((v.atEdge a).select a).issuer? with
         | some x => x.w.pend == 0 && x.th.chdr != 0 && (match ((v.atEdge a).select a).fetch x with
           | (.instr i, u) => i == .movi 40 0xFFFE && (u.wave? loadKey).isSome && (u.unitWave a i).any (u.canTake (u.coreOf a) · i) &&
              decide ((v.atEdge a).timeRef ≤ ((v.atEdge a).cluster 0).edgeAt / 8)
           | _ => false)
         | none => false)
       | _ => false
     | [] => false) = true := by decide +kernel

/-- The test of `GroupsOk` on one wave. -/
def groupsOkB (w : Wave) : Bool :=
  (w.groups.all fun g => g != 0#32 && (List.range 32).all fun l =>
    !g.getLsbD l || (decide ((w.th l).stat = .running) && decide ((w.th l).pc = (w.th (lowLane g)).pc))) &&
  ((List.range 32).all fun l => decide ((w.th l).stat ≠ .running) || w.groups.any fun g => g.getLsbD l) &&
  decide (w.groups.Pairwise fun g h => (w.th (lowLane g)).pc ≠ (w.th (lowLane h)).pc)

theorem groupsOkB_sound {w : Wave} (h : groupsOkB w = true) : GroupsOk w := by
  simp only [groupsOkB, Bool.and_eq_true, List.all_eq_true, List.any_eq_true, bne_iff_ne, ne_eq, Bool.or_eq_true, Bool.not_eq_true',
    decide_eq_true_eq, List.mem_range] at h
  obtain ⟨⟨h1, h2⟩, h3⟩ := h
  refine ⟨fun g hg => ⟨(h1 g hg).1, fun l hl => ?_⟩, fun l hl hr => ?_, h3⟩
  · have := (h1 g hg).2 l (BitVec.lt_of_getLsbD hl)
    simpa [hl] using this
  · simpa [hr] using h2 l hl

theorem witness_StepKeepsGroups : ∃ s t : State, s.GroupsOk ∧ step s = .next t := by
  have h : (State.reset.load 32 0xFFFEA095).teams.all (fun p => p.2.waves.all groupsOkB) = true ∧
      (State.reset.load 32 0xFFFEA095).ctxs.all (fun c => groupsOkB c.cp) = true ∧
      (match step (State.reset.load 32 0xFFFEA095) with | .next _ => true | _ => false) = true := by decide +kernel
  obtain ⟨h1, h2, h3⟩ := h
  split at h3
  · rename_i t ht
    refine ⟨_, t, ⟨fun p hp w hw => groupsOkB_sound ?_, fun c hc => groupsOkB_sound ?_⟩, ht⟩
    · exact List.all_eq_true.1 (List.all_eq_true.1 h1 p hp) w hw
    · exact List.all_eq_true.1 h2 c hc
  · simp at h3

/-! Integer and logic instructions: both forms, with operands at the ends of their ranges. -/

theorem witness_ShortIntegerResults : AllReady' (.wave loadKey) demo
    [.mov16 31 63, .movi16 31 0x20, .iadd16 0 63, .iaddi16 31 0x3F, .isub16 1 2, .and16 1 2, .or16 1 2, .xor16 1 2, .shli16 31 31, .shri16 1 31,
      .sari16 1 0] := allReady' (by decide +kernel)

theorem witness_SumResults : AllReady' (.wave loadKey) demo
    [.iadd 0 63 0 63, .iadd 1 63 0 63, .iaddc 0 1 2 3, .iaddc 1 1 2 3, .isub 0 1 2 3, .isub 1 1 2 3, .isubb 0 1 2 3, .isubb 1 1 2 3, .ineg 0 1 2,
      .ineg 1 1 2, .iabs 0 1 2, .iabs 1 1 2, .iadd64 0 62 0 2, .iadd64 1 62 0 2, .iaddImm 0 1 2 0x100, .iaddImm 1 1 2 0x1FF] :=
  allReady' (by decide +kernel)

theorem witness_SaturatingResults : AllReady' (.wave loadKey) demo
    [.iaddSatI32 0 1 2 3, .iaddSatI32 1 1 2 3, .iaddSatN32 0 1 2 3, .iaddSatN32 1 1 2 3, .isubSatI32 0 1 2 3, .isubSatI32 1 1 2 3,
      .isubSatN32 0 1 2 3, .isubSatN32 1 1 2 3, .inegSat 0 1 2, .inegSat 1 1 2, .iabsSat 0 1 2, .iabsSat 1 1 2] := allReady' (by decide +kernel)

theorem witness_LogicResults : AllReady' (.wave loadKey) demo
    [.iminI32 0 1 2 3, .iminI32 1 1 2 3, .imaxI32 0 1 2 3, .iminN32 0 1 2 3, .imaxN32 1 1 2 3, .andI 0 1 2 3, .orI 1 1 2 3, .xorI 0 1 2 3,
      .notI 0 1 2, .andn 0 1 2 3, .shl 0 1 2 3, .shr 1 1 2 3, .sar 0 1 2 3, .rotl 0 1 2 3, .andImm 0 1 2 0x1FF, .orImm 0 1 2 0, .xorImm 1 1 2 5,
      .shlImm 0 1 2 31, .shrImm 0 1 2 0, .sarImm 1 1 2 31, .rotlImm 0 1 2 31, .trilog 1 31 1 31 1 31 1 15] := allReady' (by decide +kernel)

theorem witness_MultiplyResults : AllReady' (.wave loadKey) demo
    [.imul 0 1 2 3, .imul 1 1 2 3, .imulhI32 0 1 2 3, .imulhN32 1 1 2 3, .imad 0 31 30 29 28, .imad 1 1 2 3 4, .imadwI32 0 2 1 3 4,
      .imadwN32 1 30 1 3 30, .isad 0 1 2 3 4, .isad 1 1 2 3 4] := allReady' (by decide +kernel)

theorem witness_BitFieldResults : AllReady' (.wave loadKey) demo
    [.bfxN32 0 1 2 3, .bfxN32 1 1 2 3, .bfxI32 0 1 2 3, .bfi 0 1 2 3 4, .popc 0 31 31, .clz 0 1 2, .ctz 1 1 2, .brev 0 1 2, .shfL 0 1 2 3 4,
      .shfR 1 1 2 3 4] := allReady' (by decide +kernel)

theorem witness_IntegerCompareResults : AllReady' (.wave loadKey) demo
    [.icmpEqI32 7 2 3, .icmpNeI32 0 2 3, .icmpLtI32 6 2 3, .icmpLeI32 1 2 3, .icmpGtI32 1 2 3, .icmpGeI32 1 2 3, .icmpEqN32 1 2 3,
      .icmpNeN32 1 2 3, .icmpLtN32 1 2 3, .icmpLeN32 1 2 3, .icmpGtN32 1 2 3, .icmpGeN32 7 63 0] := allReady' (by decide +kernel)

theorem witness_FloatCompareResults : AllReady' (.wave loadKey) demo
    [.fcmpEq 7 2 3, .fcmpNe 0 2 3, .fcmpLt 1 2 3, .fcmpLe 1 2 3, .fcmpGt 1 2 3, .fcmpGe 1 2 3, .fcmpOrd 1 2 3, .fcmpUno 1 63 0] :=
  allReady' (by decide +kernel)

/-- The clauses of `FloatCompareResults` on values: two numbers, and a NaN. -/
theorem witness_FloatCompareResults_values : fp32.read (0x80000000 : Word).toNat ≠ .nan ∧ fp32.read (0x7F800000 : Word).toNat ≠ .nan ∧
    fp32.read (0x7FC00000 : Word).toNat = .nan := by decide +kernel

theorem witness_PredicateResults : AllReady' (.wave loadKey) demo
    [.plogAnd 7 7 0, .plogOr 0 1 2, .plogXor 0 1 2, .plogAndn 0 1 2, .plogOrn 0 1 2, .plogXnor 6 7 7, .sel 1 2 3 7, .sel 63 0 63 0] :=
  allReady' (by decide +kernel)

/-! Floating point. -/

theorem witness_FloatArithmeticResults : AllReady' (.wave loadKey) demo
    [.fadd 0 1 2 3 0, .fadd 1 1 2 3 3, .fsub 0 1 2 3 0, .fmul 0 1 2 3 1, .ffmaRn 0 1 2 3 4, .ffmaRz 1 1 2 3 4, .ffmaRu 0 1 2 3 4,
      .ffmaRd 0 31 31 31 31, .fadd16 31 63, .fsub16 1 2, .fmul16 1 2, .fmax16 1 2, .fmin16 1 2] := allReady' (by decide +kernel)

theorem witness_FloatOtherResults : AllReady' (.wave loadKey) demo
    [.fmin 0 1 2 3, .fmax 1 1 2 3, .frnd 0 1 2 3, .fclass 1 2, .fscale 0 1 2 3 3] := allReady' (by decide +kernel)

theorem witness_SpecialFunctionResults : AllReady' (.wave loadKey) demo
    [.frcp 0 1 2, .frcp 1 63 63, .frsq 0 1 2, .fsqrt 0 1 2, .fex2 0 1 2, .flg2 0 1 2, .fsin 0 1 2, .fcos 0 1 2, .ftanh 1 1 2] :=
  allReady' (by decide +kernel)

/-- The clauses of `SpecialFunctionResults` on values: a NaN; negative numbers at the ends of the range, with `.ftz` and without. -/
theorem witness_SpecialFunctionResults_values : fp32.read (0x7FC00000 : Word).toNat = .nan ∧
    (0x80000000 < (0x80000001 : Word).toNat ∧ (0x80000001 : Word).toNat < 0xFF800000) ∧
    (0x80800000 ≤ (0x80800000 : Word).toNat ∧ (0xFF7FFFFF : Word).toNat < 0xFF800000) := by decide +kernel

theorem witness_IntegerConversionResults : AllReady' (.wave loadKey) demo
    [.f2iI8 1 2 0, .f2iI16 1 2 1, .f2iI32 1 2 2, .f2iN8 1 2 3, .f2iN16 1 2 0, .f2iN32 63 63 3, .i2fI8 1 2 0, .i2fI16 1 2 0, .i2fI32 1 2 0, .i2fN8 1 2 3,
      .i2fN16 1 2 0, .i2fN32 1 2 0, .i2iI8 1 2 5 1, .i2iI16 1 2 0 0, .i2iI32 1 2 0 0, .i2iN8 1 2 5 1, .i2iN16 1 2 0 0, .i2iN32 1 2 5 0] :=
  allReady' (by decide +kernel)

/-- An integer that its target type holds, at the end of the range. -/
theorem witness_IntegerConversionResults_range : ITy.i8.lo ≤ ITy.i32.val (0xFFFFFF80 : Word) ∧ ITy.i32.val (0xFFFFFF80 : Word) ≤ ITy.i8.hi := by
  decide +kernel

theorem witness_NarrowConversionResults : AllReady' (.wave loadKey) demo
    [.fcvtBf16 1 2 3, .fcvtF16 1 2 0, .fcvtE4m3 1 2 0, .fcvtE5m2 1 2 0, .fcvtE2m1 1 2 0, .fcvtSrBf16 1 2 3, .fcvtSrF16 1 2 3, .fcvtSrE4m3 1 2 3,
      .fcvtSrE5m2 1 2 3, .fcvtSrE2m1 63 63 63, .fpkBf16 1 62, .fpkF16 1 2, .fpkE4m3 1 60, .fpkE5m2 1 4, .fpkSrBf16 1 2 3, .fpkSrF16 1 2 3,
      .fpkSrE4m3 1 4 3, .fpkSrE5m2 1 4 3, .funpkBf16 1 2 1, .funpkF16 1 2 0, .funpkE4m3 1 2 3, .funpkE5m2 1 2 0, .funpkE2m1 1 2 7] :=
  allReady' (by decide +kernel)

theorem witness_PackedResults : AllReady' (.wave loadKey) demo
    [.dot4i8 1 2 3 4, .dot8i4 1 2 3 4, .dot4i8Sat 1 2 3 4, .dot8i4Sat 31 31 31 31, .dot4f8E4m3 1 2 3 4, .dot4f8E5m2 1 2 3 4, .hfma2Bf16 1 2 3 4,
      .hfma2F16 1 2 3 4, .hadd2Bf16 1 2 3, .hadd2F16 1 2 3, .hmul2Bf16 1 2 3, .hmul2F16 1 2 3, .hmax2Bf16 1 2 3, .hmax2F16 31 31 31] :=
  allReady' (by decide +kernel)

/-! Moves and cross-lane instructions. -/

theorem witness_MoveResults : AllReady' (.wave loadKey) demo
    [.mov 255 0, .mov 0 255, .movi 63 0xFFFF, .movih 1 0xFFFF, .moviK 63 0x8000, .movihK 1 2, .movkVK 1 63, .movkKV 63 1, .movkKS 1 31, .movkSK 31 1,
      .movs 1 0 0, .movs 1 13 1, .movs 2 14 0, .movs 2 15 1] := allReady' (by decide +kernel)

theorem witness_CrossLaneResults : AllReady' (.wave loadKey) demo
    [.lanexPick 1 2 3, .lanexLo 1 2 3, .lanexHi 1 2 3, .lanexFlip 1 2 3, .lanexRot 63 63 63, .pconsAll 7 0, .pconsSome 0 7, .pconsSame 1 2,
      .pmask 1 7] := allReady' (by decide +kernel)

theorem witness_FoldResults : AllReady' (.wave loadKey) demo
    [.wfoldAddI32 1 2, .wfoldMinI32 1 2, .wfoldMaxI32 1 2, .wfoldMinN32 1 2, .wfoldMaxN32 1 2, .wfoldAnd 1 2, .wfoldOr 1 2, .wfoldXor 1 2,
      .wfoldAddF32 1 2, .wfoldMinF32 1 2, .wfoldMaxF32 63 63] := allReady' (by decide +kernel)

/-! Control transfer. -/

/-- `demo` with a target table of two entries at 0x20010, both naming the header at 0x20000. -/
def demoTable : State :=
  { demo with home := Tab.putList 0 demo.home 0x20010 (leBytes 4 2 ++ leBytes 4 0xFFFFFFF8 ++ leBytes 4 0xFFFFFFF8) }

theorem witness_BranchResults_bra :
    (∃ x, Ready (.bra 0x3FFFFE) demo x ∧ Untrapped demo x ∧ x.a = .wave loadKey ∧
      decide ((demo.lookTargets x [x.pc + BitVec.ofInt 64 (2 * (0x3FFFFE : BitVec 22).toInt)]).1 = none) = true) ∧
    AllReady' (.wave loadKey) demo [.nop, .yieldI] := ⟨readyAnd_sound (by decide +kernel), allReady' (by decide +kernel)⟩

/-- A branch that some lane takes, on a true and on an inverted predicate, and one that no lane takes. -/
theorem witness_BranchResults_br :
    (∃ x, Ready (.br 7 0 0 0x7FFE) demo x ∧ Untrapped demo x ∧ x.a = .wave loadKey ∧
      (x.w.preg 7 0 && decide ((demo.lookTargets x [x.pc + BitVec.ofInt 64 (2 * (0x7FFE : BitVec 15).toInt)]).1 = none)) = true) ∧
    AllReady' (.wave loadKey) demo [.brk 7 1 7 0x7FFE] := ⟨readyAnd_sound (by decide +kernel), allReady' (by decide +kernel)⟩

/-- A table jump: an index at the end of the table, where `CALLT` pushes nothing. -/
theorem witness_BranchResults_jmpt : ∃ x, Ready (.jmpt 2 1 6) demoTable x ∧ Untrapped demoTable x ∧ x.a = .wave loadKey ∧
    (match demoTable.codeWord x.a 0x20010 with
      | (.ok n, u) => n == 2 && (match u.tableTargets x 0x20010 (x.lanes.map fun l => (x.w.vreg 2 l).toNat) with
        | (r, v) => r.page.isNone && !r.access && r.targets.all (·.isSome) && decide ((v.lookTargets x (r.targets.filterMap id)).1 = none))
      | _ => false) = true := readyAnd_sound (by decide +kernel)

/-- A wave whose upper lanes lead, and whose lower lanes have branched. -/
def splitWave : Wave :=
  { loadWave with
    threads := List.replicate 16 { loadThread with pc := 0x20100 } ++ List.replicate 16 { loadThread with pc := 0x20004 }
    groups := [0xFFFF0000#32, 0x0000FFFF#32] }

theorem splitWave_groups : GroupsOk splitWave := groupsOkB_sound (by decide +kernel)

/-- The clause of `BranchResults` on the order of the groups: a second division, of the group that leads. -/
theorem witness_BranchResults_groups :
    splitWave.groups = 0xFFFF0000#32 :: [0x0000FFFF#32] ∧ 0x10000#32 ≠ 0 ∧ 0x10000#32 ≠ 0xFFFF0000#32 ∧
      0x10000#32 &&& ~~~0xFFFF0000#32 = 0 ∧ pcOf 0x20040 ≠ pcOf (0x20004#64 + 4) ∧
      (splitWave.th (lowLane 0x0000FFFF#32)).pc ≠ pcOf 0x20040 ∧ (splitWave.th (lowLane 0x0000FFFF#32)).pc ≠ pcOf (0x20004#64 + 4) := by
  decide +kernel

theorem witness_CallResults_call :
    (∃ x, Ready (.call 0x3FFFFE) demo x ∧ Untrapped demo x ∧ x.a = .wave loadKey ∧
      (decide ((demo.lookTargets x [x.pc + BitVec.ofInt 64 (2 * (0x3FFFFE : BitVec 22).toInt)]).1 = none) &&
        x.lanes.all fun l => decide ((x.w.th l).spill ≤ 126)) = true) ∧
    (let s := demo.modAgent (.wave loadKey) fun w => w.modLanes (BitVec.allOnes 32) fun t => { t with spill := 126 }
     ∃ x, Ready (.call 0x3FFFFE) s x ∧ Untrapped s x ∧ x.a = .wave loadKey ∧
      (x.lanes.all fun l => decide ((x.w.th l).spill = 126)) = true) :=
  ⟨readyAnd_sound (by decide +kernel), readyAnd_sound (by decide +kernel)⟩

theorem witness_CallResults_callt :
    (∃ x, Ready (.callt 2 1 6) demoTable x ∧ Untrapped demoTable x ∧ x.a = .wave loadKey ∧
      (x.lanes.all fun l => decide ((x.w.vreg 2 l).toNat ≠ 2 - 1) && decide ((x.w.th l).spill ≤ 126)) = true) ∧
    (let s := demoTable.modAgent (.wave loadKey) fun w => w.writeLanes (BitVec.allOnes 32) 2 fun _ => 1
     ∃ x, Ready (.callt 2 1 6) s x ∧ Untrapped s x ∧ x.a = .wave loadKey ∧
      (x.lanes.all fun l => decide ((x.w.vreg 2 l).toNat = 2 - 1)) = true) :=
  ⟨readyAnd_sound (by decide +kernel), readyAnd_sound (by decide +kernel)⟩

theorem witness_CallResults_ret :
    let s := demo.modAgent (.wave loadKey) fun w => w.pushReturns (demo.descOf (.wave loadKey)).nregs (BitVec.allOnes 32) 0x20000
    ∃ x, Ready .ret s x ∧ Untrapped s x ∧ x.a = .wave loadKey ∧
      ((x.lanes.all fun l => decide ((x.w.th l).spill = 2)) && decide ((s.lookTargets x (x.lanes.map x.w.returnAddr)).1 = none)) = true :=
  readyAnd_sound (by decide +kernel)

/-- `JOIN` at an empty mask and at one that holds the group; `EXIT` on a wave and on a command processor. -/
theorem witness_JoinExitResults :
    (∃ x, Ready (.joinI 7) demo x ∧ Untrapped demo x ∧ x.a = .wave loadKey ∧ decide (x.w.mask 7 = 0) = true) ∧
    (let s := demo.modAgent (.wave loadKey) fun w => w.setMask 0 (BitVec.allOnes 32)
     ∃ x, Ready (.joinI 0) s x ∧ Untrapped s x ∧ x.a = .wave loadKey ∧ decide (x.w.mask 0 ≠ 0) = true) ∧
    AllReady' (.wave loadKey) demo [.exitI] ∧
    (∃ x, Ready .exitI demoCp x ∧ Untrapped demoCp x ∧ x.a = .cp 0 ∧ decide (demoCp.ctxs.length = 16) = true) :=
  ⟨readyAnd_sound (by decide +kernel), readyAnd_sound (by decide +kernel), allReady' (by decide +kernel), readyAnd_sound (by decide +kernel)⟩

/-! Causes. -/

theorem witness_HandlerEntry :
    (∃ x, Ready (.trap 255) demo x ∧ Untrapped demo x ∧ x.a = .wave loadKey ∧
      (!x.w.tm && !x.w.cpu && decide ((demo.descOf x.a).handler ≠ 0)) = true) ∧
    (∃ x, Ready (.breakI 0) demo x ∧ Untrapped demo x ∧ x.a = .wave loadKey ∧
      (!x.w.tm && !x.w.cpu && decide ((demo.descOf x.a).handler ≠ 0)) = true) :=
  ⟨readyAnd_sound (by decide +kernel), readyAnd_sound (by decide +kernel)⟩

theorem witness_HandlerReturn :
    let s := demo.modAgent (.wave loadKey) fun w => { w with tm := true, emask := BitVec.allOnes 32, epc := 0x20000 }
    ∃ x, Ready .eret s x ∧ Untrapped s x ∧ x.a = .wave loadKey ∧
      (x.w.tm && decide (x.e &&& ~~~x.w.emask = 0) && decide (x.w.emask &&& x.w.live &&& ~~~(x.e ||| x.w.waitingFor [9]) = 0) &&
        decide ((s.returnCause x).1 = none) && !(x.w.epc.setWidth 64).getLsbD 0 && (match (s.codeHead x.a (x.w.epc.setWidth 64)).1 with | .ok _ => true | _ => false)) = true := readyAnd_sound (by decide +kernel)

/-- A wave's cause that no handler takes, and one of a command processor. -/
theorem witness_CauseHalts :
    (demo.agent? (.wave loadKey) = some loadWave ∧ loadKey.team.grid.ctx < demo.ctxs.length ∧ Cause.handlerClass Cause.illegal = false ∧ Cause.illegal ≠ Cause.page ∧ Cause.illegal ≠ Cause.context ∧
      demo.halted 0 = false) ∧ (0 < demoCp.ctxs.length ∧ partOf 0 < demoCp.parts.length ∧ Cause.clause < 256) := by decide +kernel

/-! Memory. -/

/-- Lane loads at the end of a page's words, with and without release; the wave's own words are not pending. -/
theorem witness_LoadIssues_ld :
    let s := demoWith [(4, 0x40FFC)] []
    (∃ x, Ready (.ld 0 5 2 2 10 0) s x ∧ Untrapped s x ∧ x.a = .wave loadKey ∧
      (let r := x.lanes.map fun l => (l, x.base 2 l, AccMode.load)
       !s.ctxHazard x false 4 (r.map fun y => (y.1, y.2.1)) && granted s x.a 4 r) = true) ∧
    AllReady' (.wave loadKey) s [.ldLast 1 5 2 2 0] := ⟨readyAnd_sound (by decide +kernel), allReady' (by decide +kernel)⟩

theorem witness_LoadIssues_ldk :
    let s := demoWith [] [(4, 0x40000)]
    ∃ x, Ready (.ldk 0 15 2 4 0 31) s x ∧ Untrapped s x ∧ x.a = .wave loadKey ∧
      (let r := [(x.low, x.w.kpair 4 + 31 * 16, AccMode.load)]
       !s.ctxHazard x true 16 (r.map fun y => (y.1, y.2.1)) && granted s x.a 16 r) = true := readyAnd_sound (by decide +kernel)

/-- A lagoon load of the last word of the grant. -/
theorem witness_LoadIssues_ldl :
    let s := demoWith [(4, 4092)] []
    ∃ x, Ready (.ldl 0 5 4 2 0 0) s x ∧ Untrapped s x ∧ x.a = .wave loadKey ∧
      (isOk (s.lagoonPlaces x 4 (x.lanes.map fun l => (l, x.w.vreg 4 l, 0))) && s.ops.isEmpty) = true :=
  readyAnd_sound (by decide +kernel)

/-- The clauses of `LoadIssues` on the operation: a flag, and no operation in flight before. -/
theorem witness_LoadIssues_flag :
    ∃ x, Ready (.ld 1 5 2 2 0 0) demo x ∧ Untrapped demo x ∧ x.a = .wave loadKey ∧
      (decide (demo.agent? x.a = some x.w) && decide (flagOf (.ld 1 5 2 2 0 0) x.th.chdr = some 1) && demo.ops.isEmpty) = true :=
  readyAnd_sound (by decide +kernel)

theorem witness_StoreResults_st :
    let s := demoWith [(4, 0x40FFC), (6, 0x12345678)] []
    (∃ x, Ready (.st 6 2 2 14 0) s x ∧ Untrapped s x ∧ x.a = .wave loadKey ∧
      (let r := x.lanes.map fun l => (l, x.base 2 l, AccMode.store (blockBytes (x.w.reader l) 6 4))
       !s.ctxHazard x false 4 (r.map fun y => (y.1, y.2.1)) && granted s x.a 4 r) = true) ∧
    AllReady' (.wave loadKey) s [.st 6 2 2 0 0, .st 6 2 4 5 0] := ⟨readyAnd_sound (by decide +kernel), allReady' (by decide +kernel)⟩

theorem witness_StoreResults_stk :
    let s := demoWith [] [(4, 0x40000)]
    ∃ x, Ready (.stk 15 2 4 0 31) s x ∧ Untrapped s x ∧ x.a = .wave loadKey ∧
      (let r := [(x.low, x.w.kpair 4 + 31 * 16, AccMode.store (blockBytes x.w.kreg 60 16))]
       !s.ctxHazard x true 16 (r.map fun y => (y.1, y.2.1)) && granted s x.a 16 r) = true := readyAnd_sound (by decide +kernel)

theorem witness_StoreResults_stl :
    let s := demoWith [(4, 4092)] []
    ∃ x, Ready (.stl 5 4 2 0 0) s x ∧ Untrapped s x ∧ x.a = .wave loadKey ∧
      (isOk (s.lagoonPlaces x 4 (x.lanes.map fun l => (l, x.w.vreg 4 l, 0))) && s.ops.isEmpty) = true := readyAnd_sound (by decide +kernel)

/-- The clauses of `StoreResults` on places: an ordinary word at the end of a sector, of a wave that does not release, and the last word of
the lagoon. -/
theorem witness_StoreResults_places :
    (let q : Place := .mem 0x4003C false false
     (match demo.issuer? with | some x => decide (x.coreReleases (semOf 0 0) = 0) | none => false) = true ∧ (semOf 0 0).rel = false ∧
       (∀ e ∈ (demo.core (demo.coreOf (.wave loadKey))).l1.wtq, e.addr % 64 + e.bytes.length ≤ 64) ∧
       q.remoteStore (demo.coreOf (.wave loadKey)) = false ∧ 0x4003C % 64 + 4 ≤ 64 ∧ demo.waited q 4 = false ∧ demo.coreOf (.wave loadKey) < 320) ∧
    ((demo.team? loadKey.team).isSome = true ∧ demo.lagoonCore loadKey.team = demo.coreOf (.wave loadKey) ∧
      demo.waited (.lagoon loadKey.team 4092) 4 = false) := by decide +kernel

/-- `SPUSH` below the top and at it, `SPOP` above the bottom and at it. -/
theorem witness_SpillResults :
    let s (n : Nat) : State := demo.modAgent (.wave loadKey) fun w => w.modLanes (BitVec.allOnes 32) fun t => { t with spill := n }
    let at_ (n : Nat) (x : Issuer) : Bool := x.lanes.all fun l => decide ((x.w.th l).spill = n)
    (∃ x, Ready (.spush 1) (s 127) x ∧ Untrapped (s 127) x ∧ x.a = .wave loadKey ∧ at_ 127 x = true) ∧
    (∃ x, Ready (.spush 1) (s 128) x ∧ Untrapped (s 128) x ∧ x.a = .wave loadKey ∧ at_ 128 x = true) ∧
    (∃ x, Ready (.spop 1) (s 1) x ∧ Untrapped (s 1) x ∧ x.a = .wave loadKey ∧ at_ 1 x = true) ∧
    (∃ x, Ready (.spop 1) (s 0) x ∧ Untrapped (s 0) x ∧ x.a = .wave loadKey ∧ at_ 0 x = true) :=
  ⟨readyAnd_sound (by decide +kernel), readyAnd_sound (by decide +kernel), readyAnd_sound (by decide +kernel), readyAnd_sound (by decide +kernel)⟩

/-- The clauses of `AccessChecks`: bit 57, a misaligned address below it, a missing page; a store that meets a cause, and one whose lanes all
find `PAGE`. -/
theorem witness_AccessChecks :
    (2 ^ 57 ≤ (0x200000000000000 : DWord).toNat) ∧ ((0x1FFFFFFFFFFFFFF : DWord).toNat < 2 ^ 57 ∧ (0x1FFFFFFFFFFFFFF : DWord).toNat % 4 ≠ 0) ∧
    (match demo.translate 0 0 1 .read 0x80000000 with | (.page, _) => true | _ => false) = true ∧
    (demo.checkLanes (.wave loadKey) 4 [(0, 0x200000000000000, .load)]).1.cause = some Cause.access ∧
    (demo.checkLanes (.wave loadKey) 4 [(0, 0x200000000000000, .load), (1, 2, .load)]).1.cause = some Cause.align := by decide +kernel

theorem witness_AccessChecks_st :
    (let s := demoWith [(5, 0x02000000)] []
     ∃ x, Ready (.st 6 2 2 0 0) s x ∧ Untrapped s x ∧ x.a = .wave loadKey ∧
      decide ((s.checkLanes x.a 4 (x.lanes.map fun l => (l, x.base 2 l, .store (blockBytes (x.w.reader l) 6 4)))).1.cause = some Cause.access) =
        true) ∧
    (let s := demoWith [(4, 0x80000000)] []
     ∃ x, Ready (.st 6 2 2 0 0) s x ∧ Untrapped s x ∧ x.a = .wave loadKey ∧
      (let c := (s.checkLanes x.a 4 (x.lanes.map fun l => (l, x.base 2 l, .store (blockBytes (x.w.reader l) 6 4)))).1
       c.cause.isNone && !c.drop && !c.paged.isEmpty && c.oks.isEmpty) = true) ∧
    (let s := (demoWith [(4, 0x40000)] []).modAgent (.wave loadKey) fun w => w.writeLanes 1 4 fun _ => 0x80000000
     ∃ x, Ready (.st 6 2 2 0 0) s x ∧ Untrapped s x ∧ x.a = .wave loadKey ∧
      (let c := (s.checkLanes x.a 4 (x.lanes.map fun l => (l, x.base 2 l, .store (blockBytes (x.w.reader l) 6 4)))).1
       c.cause.isNone && !c.drop && !c.paged.isEmpty && !c.oks.isEmpty) = true) :=
  ⟨readyAnd_sound (by decide +kernel), readyAnd_sound (by decide +kernel), readyAnd_sound (by decide +kernel)⟩

/-- The same of a load. -/
theorem witness_AccessChecks_ld :
    (let s := demoWith [(5, 0x02000000)] []
     ∃ x, Ready (.ld 0 6 2 2 0 0) s x ∧ Untrapped s x ∧ x.a = .wave loadKey ∧
      (let q := x.lanes.map fun l => (l, x.base 2 l, AccMode.load)
       !s.ctxHazard x false 4 (q.map fun y => (y.1, y.2.1)) && decide ((s.checkLanes x.a 4 q).1.cause = some Cause.access)) = true) ∧
    (let s := demoWith [(4, 0x80000000)] []
     ∃ x, Ready (.ld 0 6 2 2 0 0) s x ∧ Untrapped s x ∧ x.a = .wave loadKey ∧
      (let q := x.lanes.map fun l => (l, x.base 2 l, AccMode.load)
       let c := (s.checkLanes x.a 4 q).1
       !s.ctxHazard x false 4 (q.map fun y => (y.1, y.2.1)) && c.cause.isNone && !c.drop && !c.paged.isEmpty && c.oks.isEmpty) = true) ∧
    (let s := (demoWith [(4, 0x40000)] []).modAgent (.wave loadKey) fun w => w.writeLanes 1 4 fun _ => 0x80000000
     ∃ x, Ready (.ld 0 6 2 2 0 0) s x ∧ Untrapped s x ∧ x.a = .wave loadKey ∧
      (let q := x.lanes.map fun l => (l, x.base 2 l, AccMode.load)
       let c := (s.checkLanes x.a 4 q).1
       !s.ctxHazard x false 4 (q.map fun y => (y.1, y.2.1)) && c.cause.isNone && !c.drop && !c.paged.isEmpty && !c.oks.isEmpty) = true) :=
  ⟨readyAnd_sound (by decide +kernel), readyAnd_sound (by decide +kernel), readyAnd_sound (by decide +kernel)⟩

/-- A state in which core 0 holds one dirty byte and one release record, and no other core anything. -/
def demoDirty : State :=
  { demo with cores := [(0, { l1 := { dirty := [(0x40000, 5)], recs := [{ addr := 0x40000, bytes := [0x40000] }] } })] }

theorem demoDirty_quiet : demoDirty.Quiet 0 where
  waiters := by decide +kernel
  records := by decide +kernel
  dirty := by decide +kernel
  queued := by decide +kernel
  sorted := by decide +kernel

/-- Core 0 of that state reads a word of the next line at its home point. -/
theorem demoDirty_atHome : demoDirty.AtHome 0 0x4013C where
  queued := by decide +kernel
  dirty := by decide +kernel
  records c' h r hr := by
    have : ¬ (0 = c') := fun e => h e.symm
    simp [demoDirty, State.core, Tab.get, this] at hr

/-- Fences and prefetches; a releasing fence before a strong write; a quiet core that holds a dirty byte and a record. -/
theorem witness_FenceResults :
    AllReady' (.wave loadKey) demo [.fence 6, .fence 11, .fence 16, .fence 20, .pref 0 2 0, .pref 1 2 31] ∧
    (let s := demo.modAgent (.wave loadKey) fun w => { w with relFence := 1 }
     (match s.issuer? with
      | some x => (semOf 1 0).strong && !(semOf 1 0).rel && x.e.getLsbD 0 && x.w.relFence.getLsbD 0
      | none => false) = true) ∧
    (0 < 320 ∧ demoDirty.Quiet 0 ∧ (demoDirty.core 0).l1.dirty.find 0x40000 = some 5) ∧ (∃ c n : Nat, c < 320 ∧ 2 ≤ n) :=
  ⟨allReady' (by decide +kernel), by decide +kernel, ⟨by decide, demoDirty_quiet, by decide +kernel⟩, 319, 2, by decide⟩

/-- The state after a load has issued. -/
noncomputable def afterLoad : State :=
  match exec (.ld 0 5 2 2 0 0) (demoWith [(4, 0x40000)] []) with
  | .next t => t
  | _ => demo

theorem witness_AccessCompletions :
    (match afterLoad.ops with
      | o :: _ => match (afterLoad.performOp o.id).op? o.id with
        | some p => o.early.isEmpty && p.kind.returns && p.settled && p.accs.all fun a => a.result.isSome
        | none => false
      | [] => false) = true := by decide +kernel

/-- Results of the three sizes, with a sign bit; a recorded release of a quiet core. -/
theorem witness_AccessCompletions_results :
    (([0x80] : List Byte).length = 1 ∧ loadWave.cpu = false ∧ 2 ^ (8 * 1 - 1) ≤ ofLeBytes [0x80]) ∧
    (0 < 320 ∧ (demoDirty.core 0).l1.recs ≠ [] ∧ demoDirty.Quiet 0) :=
  ⟨by decide +kernel, by decide, by decide +kernel, demoDirty_quiet⟩

theorem witness_AtomicResults :
    let s := demoWith [(4, 0x40000)] []
    let l := demoWith [(4, 4092)] []
    (∃ x, Ready (.atom 0 6 2 0 20) s x ∧ Untrapped s x ∧ x.a = .wave loadKey ∧
      (let r := x.lanes.map fun l => (l, x.base 2 l, AccMode.atom 0)
       granted s x.a 4 r) = true) ∧
    AllReady' (.wave loadKey) s [.red 6 2 0 15, .atom 0 6 2 0x16 0] ∧
    (∃ x, Ready (.atoml 0 6 4 0 0) l x ∧ Untrapped l x ∧ x.a = .wave loadKey ∧
      (isOk (l.lagoonPlaces x 4 (x.lanes.map fun n => (n, x.w.vreg 4 n, 0))) && l.ops.isEmpty) = true) ∧
    AllReady' (.wave loadKey) l [.redl 6 4 0 0] :=
  ⟨readyAnd_sound (by decide +kernel), allReady' (by decide +kernel), readyAnd_sound (by decide +kernel), allReady' (by decide +kernel)⟩

/-- The clauses of `AtomicResults` on memory, a word at the end of a sector: the core's L1 has nothing of its line, no waiter, no poison. -/
theorem witness_AtomicResults_memory :
    demoDirty.AtHome 0 0x4013C ∧ demoDirty.waited (.mem 0x4013C false false) 4 = false ∧ demoDirty.poisonAt 0 0x4013C = 0 ∧
      0x4013C % 64 + atomSize 0 ≤ 64 ∧ (∀ c, c ≠ 0 → ∀ r ∈ (demoDirty.core c).l1.recs, r.addr / 256 ≠ 0x4013C / 256) :=
  ⟨demoDirty_atHome, by decide +kernel, by decide +kernel, by decide +kernel, demoDirty_atHome.records⟩

/-- A result of the length of an atomic's type. -/
theorem witness_AtomicResults_result : ([1, 2, 3, 4] : List Byte).length = atomSize (0 : BitVec 5).toNat ∧
    ([1, 2, 3, 4, 5, 6, 7, 8] : List Byte).length = atomSize (1 : BitVec 5).toNat ∧ loadWave.cpu = false := by decide +kernel

/-! Barriers and semaphores. -/

/-- The object that an address names, if it passes its checks, in memory or in a lagoon. -/
def found (s : State) (x : Issuer) (va : DWord) (wr : Bool) : Option (State × ObjAddr × Place) :=
  if va.extractLsb' 32 32 = 0xF0000000 then
    match s.lagoonPlaces x 16 [(x.low, loWord va, 0)] with
    | .ok [(l, .lagoon t off)] => if l = x.low then some (s, .lagoon t off, .lagoon t off) else none
    | _ => none
  else
    match s.checkLanes x.a 16 [(x.low, va, .object wr)] with
    | (⟨none, [], [(l, .mem a nc row)], false⟩, u) => if l = x.low then some (u, .mem a, .mem a nc row) else none
    | _ => none

theorem found_sound {s u : State} {x : Issuer} {va : DWord} {wr : Bool} {o : ObjAddr} {p : Place} (h : found s x va wr = some (u, o, p)) :
    s.Finds u x va wr o p := by
  unfold found at h
  split at h
  · rename_i hv
    split at h
    · rename_i l t off hl
      split at h
      · rename_i e; subst e; cases h
        exact .inr ⟨hv, t, off, hl, rfl, rfl, rfl⟩
      · cases h
    · cases h
  · rename_i hv
    split at h
    · rename_i l a nc row v hc
      split at h
      · rename_i e; subst e; cases h
        exact .inl ⟨hv, a, nc, row, ⟨hc, by simp⟩, rfl, rfl⟩
      · cases h
    · cases h

/-- The object is found, and how its module is reached. -/
def reaches (s : State) (x : Issuer) (va : DWord) (wr : Bool) (rel : Option Nat) (r : Reach) : Bool :=
  match found s x va wr with
  | some (u, o, p) => decide ((u.beforeObj x (rel.map (objScope x.a o)) p).reachPlace p = r)
  | none => false

/-- The object is found and reached, it is not poisoned, and a test holds of the state that reaches it. -/
def onObj (s : State) (x : Issuer) (va : DWord) (wr : Bool) (rel : Option Nat) (q : State → ObjAddr → Bool) : Bool :=
  match found s x va wr with
  | some (u, o, p) =>
    let t := u.reachedBy x rel o p
    decide ((u.beforeObj x (rel.map (objScope x.a o)) p).reachPlace p = .ok) && decide (t.objPoison (t.coreOf x.a) o = 0) && q t o
  | none => false

theorem onObj_sound {s : State} {x : Issuer} {va : DWord} {wr : Bool} {rel : Option Nat} {q : State → ObjAddr → Bool}
    (h : onObj s x va wr rel q = true) :
    ∃ u o p, s.Finds u x va wr o p ∧ (u.beforeObj x (rel.map (objScope x.a o)) p).reachPlace p = .ok ∧
      (u.reachedBy x rel o p).objPoison ((u.reachedBy x rel o p).coreOf x.a) o = 0 ∧ q (u.reachedBy x rel o p) o = true := by
  unfold onObj at h
  split at h
  · rename_i u o p hf
    simp at h
    exact ⟨u, o, p, found_sound hf, h.1.1, h.1.2, h.2⟩
  · simp at h

/-- `demo` with `k4:k5` naming an object in memory, and `k6:k7` one in the lagoon. -/
def demoObject : State := demoWith [(10, 1)] [(4, 0x40000), (6, 4080), (7, 0xF0000000)]

theorem witness_BarrierResults_bar : AllReady' (.wave loadKey) demo [.bar 15] := allReady' (by decide +kernel)

/-- A team of one wave that waits at barrier 3; with a second wave that does not. -/
theorem witness_BarrierResults_step :
    let w := { loadWave with groups := [] }.modLanes (BitVec.allOnes 32) fun t => { t with stat := .waiting, kind := 2, arg := 3 }
    w.atBar 3 = true ∧ loadWave.atBar 3 = false ∧ loadWave.exited = false ∧ (({ waves := [w, loadWave] } : Team).bars.get 0 3).getLsbD 1 = false := by
  decide +kernel

/-- `BARX` on an object in memory and in a lagoon, in its three forms. -/
theorem witness_BarrierResults_barx :
    ∀ p ∈ ([(0, 2), (0, 3), (11, 2), (6, 2)] : List (BitVec 5 × BitVec 5)), ∃ x, Ready (.barx 1 p.2 p.1) demoObject x ∧
      Untrapped demoObject x ∧ x.a = .wave loadKey ∧ onObj demoObject x (x.w.kpair (2 * p.2.toNat)) (decide (p.1 = 0) || (semOf p.1.toNat 3).rel)
        (if p.1 = 0 || (semOf p.1.toNat 3).rel then some (semOf p.1.toNat 3).scope else none) (fun _ _ => true) = true := by
  have h : ([(0, 2), (0, 3), (11, 2), (6, 2)] : List (BitVec 5 × BitVec 5)).all (fun p =>
      readyAnd (.wave loadKey) (.barx 1 p.2 p.1) demoObject fun x => onObj demoObject x (x.w.kpair (2 * p.2.toNat))
        (decide (p.1 = 0) || (semOf p.1.toNat 3).rel)
        (if p.1 = 0 || (semOf p.1.toNat 3).rel then some (semOf p.1.toNat 3).scope else none) fun _ _ => true) = true := by
    decide +kernel
  exact fun p hp => readyAnd_sound (List.all_eq_true.1 h p hp)

/-- An addition that reaches the target, and one that does not. -/
theorem witness_BarrierResults_add :
    (let s := demo.homeWrites 0x40000 (leBytes 4 8) false
     (s.objWord (.mem 0x40000) 0).toNat ≤ (s.objWord (.mem 0x40000) 1 + 8).toNat ∧
      ¬(s.objWord (.mem 0x40000) 0).toNat ≤ (s.objWord (.mem 0x40000) 1 + 7).toNat) := by decide +kernel

/-- `SEMWAIT` that passes at equality and one that waits; the others of the family. -/
theorem witness_SemaphoreResults :
    (∃ x, Ready (.semwait 11 2 10) demoObject x ∧ Untrapped demoObject x ∧ x.a = .wave loadKey ∧
      onObj demoObject x (x.w.kpair 4) false none (fun t o => decide (0 ≤ (t.objWord o 0 - x.w.vreg 11 x.low).toInt)) = true) ∧
    (∃ x, Ready (.semwait 10 3 0) demoObject x ∧ Untrapped demoObject x ∧ x.a = .wave loadKey ∧
      onObj demoObject x (x.w.kpair 6) false none (fun t o => decide ((t.objWord o 0 - x.w.vreg 10 x.low).toInt < 0)) = true) ∧
    (∃ x, Ready (.semsig 10 2 15) demoObject x ∧ Untrapped demoObject x ∧ x.a = .wave loadKey ∧
      onObj demoObject x (x.w.kpair 4) true (some (semOf 15 3).scope) (fun _ _ => true) = true) ∧
    (∃ x, Ready (.semtk 0 10 2 5) demoObject x ∧ Untrapped demoObject x ∧ x.a = .wave loadKey ∧
      onObj demoObject x (x.w.kpair 4) true none (fun _ _ => true) = true) ∧
    (∃ x, Ready (.semrd 1 10 3 0) demoObject x ∧ Untrapped demoObject x ∧ x.a = .wave loadKey ∧
      onObj demoObject x (x.w.kpair 6) false none (fun _ _ => true) = true) :=
  ⟨readyAnd_sound (by decide +kernel), readyAnd_sound (by decide +kernel), readyAnd_sound (by decide +kernel), readyAnd_sound (by decide +kernel),
    readyAnd_sound (by decide +kernel)⟩

/-- `demoObject` with `k4:k5` naming an object at a peer, to which no route leads, or a route over a port that is down. -/
def demoFar (route : Bool) : State :=
  let s := demoObject.modAgent (.wave loadKey) fun w => (w.setK 4 0x500000).setK 5 0
  let s := s.putCluster 0 { s.cluster 0 with tlb := [{ ctx := 0, vpage := 0x500, bits := 12, pte := 0x0002400000000207, addr := 0 }] ++ (s.cluster 0).tlb }
  if route then (s.setDvReg 0x040 0x80000000).setDvReg 0x041 0 else s

/-- An object whose module is not reached. -/
theorem witness_SemaphoreResults_far :
    (∃ x, Ready (.semsig 10 2 15) (demoFar false) x ∧ Untrapped (demoFar false) x ∧ x.a = .wave loadKey ∧
      reaches (demoFar false) x (x.w.kpair 4) true (some (semOf 15 3).scope) .noRoute = true) ∧
    (∃ x, Ready (.semwait 11 2 10) (demoFar true) x ∧ Untrapped (demoFar true) x ∧ x.a = .wave loadKey ∧
      reaches (demoFar true) x (x.w.kpair 4) false none .down = true) :=
  ⟨readyAnd_sound (by decide +kernel), readyAnd_sound (by decide +kernel)⟩

/-- The clause of `SemaphoreResults` on a ticket: an operation, and a word at its home point, which is not poisoned. -/
theorem witness_SemaphoreResults_ticket :
    let o : Op := { id := 0, agent := .wave loadKey, core := 0, kind := .semTake 10 }
    let c : LaneAcc := { lane := 0, place := .mem 0x4013C false false }
    o.kind = .semTake 10 ∧ c.place = .mem 0x4013C false false ∧ demoDirty.AtHome o.core 0x4013C ∧ demoDirty.poisonAt o.core 0x4013C = 0 :=
  ⟨rfl, rfl, demoDirty_atHome, by decide +kernel⟩

/-! Engines. -/

theorem witness_GuardFalseResults :
    ∀ p ∈ ([(.trel 6 0, 6), (.bcopy 0 0 0, 0), (.zclr 0 0 0, 0), (.rowq 0 0 1, 0), (.cctrSet 0 0 1, 0), (.gwait 0 1 2, 0)] : List (Instr × BitVec 3)),
      guardOf p.1 = some p.2 ∧ ∃ x, Ready p.1 demo x ∧ Untrapped demo x ∧ x.a = .wave loadKey ∧ decide (x.guarded p.2 = 0) = true := by
  have h : ([(.trel 6 0, 6), (.bcopy 0 0 0, 0), (.zclr 0 0 0, 0), (.rowq 0 0 1, 0), (.cctrSet 0 0 1, 0), (.gwait 0 1 2, 0)] :
      List (Instr × BitVec 3)).all (fun p => decide (guardOf p.1 = some p.2) &&
        readyAnd (.wave loadKey) p.1 demo fun x => decide (x.guarded p.2 = 0)) = true := by decide +kernel
  intro p hp
  have := List.all_eq_true.1 h p hp
  simp only [Bool.and_eq_true, decide_eq_true_eq] at this
  exact ⟨this.1, readyAnd_sound this.2⟩

/-- `demo` with the block of `k8` to `k15` naming a copy of 64 bytes, and tile entries 0 (READY) and 1 (EMPTY) of 4 KiB. -/
def demoTiles : State :=
  (demoWith [] [(8, 0x40000), (10, 0x50000), (12, 64), (20, 0x37E00000), (28, 0)]).modTeam loadKey.team fun t =>
    ({ t with tiles := (t.tiles.put 0 0 0x37E00000).put 0 1 0x37E00000 } : Team).setTstate 0 tReady

/-- A copy of 64 bytes, a copy of none, one whose block meets a cause; a LEN one above the greatest. -/
theorem witness_CopyGroupResults_bcopy :
    (∃ x t, EngineReady (.bcopy 0 7 1) 7 demoTiles x loadKey t ∧
      (decide (demoTiles.copyCause loadKey (x.block 1) (some 64) [(pairAt (x.block 1) 0, 64), (pairAt (x.block 1) 2, 64)] = none) &&
        !(demoTiles.forceAll x.a).copiesFull t.core) = true) ∧
    (∃ x t, EngineReady (.bcopy 0 7 0) 7 demoTiles x loadKey t ∧
      decide (demoTiles.copyCause loadKey (x.block 0) (some 0) [(pairAt (x.block 0) 0, 0), (pairAt (x.block 0) 2, 0)] = none) = true) ∧
    (∃ x t, EngineReady (.bcopy 0 7 2) 7 demoTiles x loadKey t ∧
      decide (demoTiles.copyCause loadKey (x.block 2) (some 0x1000001) [] = some Cause.illegal) = true) :=
  ⟨engineAnd_sound (by decide +kernel), engineAnd_sound (by decide +kernel), engineAnd_sound (by decide +kernel)⟩

theorem witness_CopyGroupResults_tiles :
    (∃ x t, EngineReady (.bcopyt 0 7 1 1) 7 demoTiles x loadKey t ∧
      (!demoTiles.copiesFull t.core && t.admitsFill 1 && decide (demoTiles.copyCause loadKey (x.block 1) none
        [(pairAt (x.block 1) 0, (tileRows (t.entry 1) - 1) * 64 + tileRow (t.entry 1))] = none)) = true) ∧
    (∃ x t, EngineReady (.bcopyo 0 7 1 0) 7 demoTiles x loadKey t ∧
      (!demoTiles.copiesFull t.core && decide (t.tstate 0 = tReady) && decide (demoTiles.copyCause loadKey (x.block 1) none
        [(pairAt (x.block 1) 2, (tileRows (t.entry 0) - 1) * 64 + tileRow (t.entry 0))] = none)) = true) ∧
    (∃ x t, EngineReady (.tdef 7 63 10) 7 demoTiles x loadKey t ∧
      (let v := x.w.kpair 20
       decide (v.toNat < 2 ^ 51) && decide (tileBase v + tileExtent v ≤ (demoTiles.descOf x.a).tiles * 8192) && decide (t.tstate 63 = tEmpty)) =
        true) ∧
    (∃ x t, EngineReady (.trel 7 0) 7 demoTiles x loadKey t ∧ (decide (t.tstate 0 = tReady) && decide (t.readers.get 0 0 = 0)) = true) ∧
    (∃ x t, EngineReady (.tstate 7 0 3) 7 demoTiles x loadKey t ∧ true = true) :=
  ⟨engineAnd_sound (by decide +kernel), engineAnd_sound (by decide +kernel), engineAnd_sound (by decide +kernel), engineAnd_sound (by decide +kernel),
    engineAnd_sound (by decide +kernel)⟩

/-- A gang of two waves of a team of two. -/
theorem witness_CopyGroupResults_gang :
    let s := (demoWith [] [(28, 32)]).modTeam loadKey.team fun t => { t with waves := t.waves ++ [loadWave] }
    ∃ x t, EngineReady (.gang 7 7 28 2) 7 s x loadKey t ∧
      (let l := (List.range 2).map fun j => bits (x.w.kreg 28) (5 * j) 5
       decide ((x.w.kreg 28).toNat < 2 ^ 10) && decide l.Nodup && (l.all fun i => decide (i < t.waves.length)) &&
        decide ((t.gangs.get {} 7).latch = none)) = true := engineAnd_sound (by decide +kernel)

/-- `demo` with `k4:k5` at an address of memory and `k6:k7` at the lagoon's start. -/
def demoEngine : State := demoWith [] [(4, 0x40000), (6, 0), (7, 0xF0000000)]

theorem witness_MatrixResults_z :
    (∃ x t, EngineReady (.zclr 7 31 0) 7 demoEngine x loadKey t ∧ true = true) ∧
    (∃ x t, EngineReady (.zld 0 7 31 2) 7 demoEngine x loadKey t ∧ (decide ((x.w.kpair 4).toNat % 64 = 0)) = true) ∧
    (∃ x t, EngineReady (.zst 1 7 0 2) 7 demoEngine x loadKey t ∧ (decide ((x.w.kpair 4).toNat % 64 = 0)) = true) ∧
    (∃ x t, EngineReady (.zepi 0 7 0 3 4 0) 7 demoEngine x loadKey t ∧
      (isOk (demoEngine.lagoonExtent loadKey (x.w.kpair 6) (2048 * epiSize 4) |>.map fun _ => ())) = true) ∧
    (∃ x t, EngineReady (.zmovToV 0 7 0 3 15) 7 demoEngine x loadKey t ∧ true = true) ∧
    (∃ x t, EngineReady (.zmovToZ 0 7 31 0 0) 7 demoEngine x loadKey t ∧ true = true) :=
  ⟨engineAnd_sound (by decide +kernel), engineAnd_sound (by decide +kernel), engineAnd_sound (by decide +kernel), engineAnd_sound (by decide +kernel),
    engineAnd_sound (by decide +kernel), engineAnd_sound (by decide +kernel)⟩

theorem witness_MatrixResults_route :
    let s := demoWith [] [(4, 0x40000)]
    ∃ x t, EngineReady (.zepiRoute 0 7 0 3 2 1 0) 7 s x loadKey t ∧
      (let rt := t.routes.get [] 3
       routeModeOk (bits (wordAt rt 4) 11 2) 1 && decide ((pairAt rt 0 + x.w.kpair 4).toNat % epiSize 1 = 0) &&
        decide ((wordAt rt 2).toNat % epiSize 1 = 0)) = true := engineAnd_sound (by decide +kernel)

/-- `demo` with READY tile entries of 4 KiB, in a format of INT8 (0, 1), FP8 (2, 3) and the quantised one (4, 5). -/
def demoMma : State := demo.modTeam loadKey.team fun t =>
  let e : List DWord := [0x37E00000, 0x37E00000, 0x1FE00000, 0x1FE00000, 0x3FE00000, 0x3FE00000]
  (List.range 6).foldl (fun (t : Team) n => t.setTstate n tReady)
    { t with tiles := (List.range 6).foldl (fun tt n => tt.put 0 n (e[n]?.getD 0)) t.tiles }

/-- A matrix instruction finds its wave whole, its tiles READY, and an operation. -/
def mmaAt (s : State) (fn : Nat) (list : List Nat) (a m q : Nat) (x : Issuer) (t : Team) : Bool :=
  let t' : Team := { t with waves := t.waves.modify 0 fun w => { w with latch := some x.pc } }
  decide (x.w.latch = none) && decide (x.w.live &&& ~~~(x.e ||| x.w.standing x.pc) = 0) && !x.w.done && decide (t.tstate m = tReady) &&
    decide (t.tstate (if fn = 2 then m + 1 else m) = tReady) && isOk (t'.matOp fn list a m q false (s.descOf x.a).ztiles)

/-- `MMA`, `MMA.x` and `MMAQ` of one wave, with a guard that is true and with one that is false in every thread. -/
theorem witness_MatrixResults_mma :
    (∃ x t, EngineReady (.mma 0 7 0 0 6 1 7 0 0) 7 demoMma x loadKey t ∧ mmaAt demoMma 0 [0] 6 1 7 x t = true) ∧
    (∃ x t, EngineReady (.mmaX 0 7 0 0 0 2 0 0 0) 7 demoMma x loadKey t ∧ mmaAt demoMma 1 [0] 0 2 0 x t = true) ∧
    (∃ x t, EngineReady (.mmaq 0 7 0 0 4 4 0 0 0) 7 demoMma x loadKey t ∧ mmaAt demoMma 2 [0] 4 4 0 x t = true) ∧
    (∃ x, Ready (.mma 0 0 0 0 6 1 7 0 0) demoMma x ∧ Untrapped demoMma x ∧ x.a = .wave loadKey ∧
      ((lanesOf x.w.live).all fun l => !x.w.preg 0 l) = true) :=
  ⟨engineAnd_sound (by decide +kernel), engineAnd_sound (by decide +kernel), engineAnd_sound (by decide +kernel), readyAnd_sound (by decide +kernel)⟩

/-- A gang of waves 0 and 1: wave 1 has not arrived; it has exited, or it stands at the rendezvous, and the instruction issues. -/
theorem witness_GangResults :
    (let s := demoMma.modTeam loadKey.team fun t => { t with waves := t.waves ++ [loadWave], gangs := t.gangs.put {} 2 { list := [0, 1] } }
     ∃ x t, EngineReady (.mma 0 7 2 1 6 1 7 0 0) 7 s x loadKey t ∧
      (decide ((t.gangs.get {} 2).latch = none) && decide (x.w.live &&& ~~~(x.e ||| x.w.standing x.pc) = 0) &&
        !(((t.gangs.get {} 2).arrived ||| laneBit 0).getLsbD 1) && decide (loadWave.live ≠ 0)) = true) ∧
    (let gone := { loadWave with done := true, groups := [] }.modLanes (BitVec.allOnes 32) fun t => { t with stat := .exited }
     let s := demoMma.modTeam loadKey.team fun t => { t with waves := t.waves ++ [gone], gangs := t.gangs.put {} 2 { list := [0, 1] } }
     ∃ x t, EngineReady (.mmaq 0 7 2 1 4 4 0 0 0) 7 s x loadKey t ∧
      (decide (gone.live = 0) && decide (flagOf (.mmaq 0 7 2 1 4 4 0 0 0) x.th.chdr = some 0) && mmaAt s 2 [0, 1] 4 4 0 x t) = true) ∧
    (let there := { loadWave with groups := [] }.modLanes (BitVec.allOnes 32) fun t => { t with stat := .waiting, kind := 7 }
     let s := demoMma.modTeam loadKey.team fun t =>
       { t with waves := t.waves ++ [there], gangs := t.gangs.put {} 2 { list := [0, 1], latch := some (loadWave.th 0).pc, arrived := 2 } }
     ∃ x t, EngineReady (.mma 0 7 2 1 6 1 7 0 0) 7 s x loadKey t ∧
      (decide ((t.gangs.get {} 2).latch = some x.pc) && decide (there.live &&& ~~~there.atRendezvous x.pc = 0) &&
        ((t.gangs.get {} 2).arrived ||| laneBit 0).getLsbD 1 && decide (there.flag 0 < 63) && there.preg 7 0 &&
        decide (flagOf (.mma 0 7 2 1 6 1 7 0 0) x.th.chdr = some 0) && mmaAt s 0 [0, 1] 6 1 7 x t) = true) :=
  ⟨engineAnd_sound (by decide +kernel), engineAnd_sound (by decide +kernel), engineAnd_sound (by decide +kernel)⟩

/-- The state after an instruction, or `demo`. -/
noncomputable def after (i : Instr) (s : State) : State :=
  match exec i s with
  | .next t => t
  | _ => demo

/-- The first operation in flight. -/
def firstOp (s : State) : Op := s.ops.headD { id := 0, agent := .cp 0, kind := .semTake 0 }

/-- A copy in flight and a fill in flight: both finish. -/
theorem witness_EngineEvents_ends :
    (let s := after (.bcopy 0 7 1) demoTiles
     let o := firstOp s
     (s.op? o.id).isSome = true ∧ o.kind.transfer = true ∧ o.kind.fills = false ∧
      (match s.transferRest o.id with | (.finished, u) => (u.op? o.id).isSome | _ => false) = true) ∧
    (let s := after (.bcopyt 0 7 1 1) demoTiles
     let o := firstOp s
     (s.op? o.id).isSome = true ∧ o.kind.transfer = true ∧ o.kind.fills = true ∧
      (match s.transferRest o.id with | (.finished, u) => (u.op? o.id).isSome | _ => false) = true) := by decide +kernel

/-- A drain of which every byte has moved. -/
theorem witness_EngineEvents_drain :
    (let s := after (.bcopyo 0 7 1 0) demoTiles
     let o := firstOp s
     (match (s.transferMove o.id o.kind.fuel).op? o.id with
       | some p => (match p.kind with
         | .copy c => c.tile == some 0 && !c.fill && decide (c.len ≤ c.done) && decide (p.teamKey = some loadKey.team)
         | _ => false)
       | none => false) = true) := by decide +kernel

/-- A copy from a missing page, one that an address above the map stops, and one with a barrier object of which 16 bytes may be added. -/
theorem witness_EngineEvents_stops :
    (let s := after (.bcopy 0 7 1) (demoTiles.modAgent (.wave loadKey) fun w => w.setK 8 0x80000000)
     (match s.transferRest (firstOp s).id with | (.page _ _ _, _) => true | _ => false) = true) ∧
    (let s := after (.bcopy 0 7 1) (demoTiles.modAgent (.wave loadKey) fun w => w.setK 9 0x02000000)
     (match s.transferRest (firstOp s).id with | (.stop _ u, _) => (u.op? (firstOp s).id).isSome | _ => false) = true) ∧
    (let s := after (.bcopy 0 7 1) (demoTiles.modAgent (.wave loadKey) fun w => (w.setK 13 1).setK 14 0x60000)
     let t := s.transferMove (firstOp s).id 1
     (match (firstOp t).kind with
       | .copy c => (firstOp t).held.isNone && decide (16 ≤ c.done - c.refused - c.added) && (match c.bar with
         | some b => isOk (t.copyBar (firstOp t) b |>.map fun _ => ())
         | none => false)
       | _ => false) = true) := by decide +kernel

/-- A matrix operation at its turn, and one of INT8 elements. -/
theorem witness_EngineEvents_mma :
    (let s := after (.mma 0 7 0 0 6 1 7 0 0) demoMma
     let o := firstOp s
     (s.op? o.id).isSome = true ∧ o.teamKey = some loadKey.team ∧ (s.team? loadKey.team).isSome = true ∧ s.matrixTurn o = true ∧
      (match o.kind with | .mma m => !m.quant && m.fmtB == 6 | _ => false) = true) := by decide +kernel

/-! Rows. -/

/-- `demo` with a row of core 0's shoal, in bank 4, mapped at 0x40000000, the address in `k4:k5`, and an open slot 1 on a row-sized tile. -/
def demoRow : State :=
  let h := [(0x12008, 0x13001), (0x13000, 0x14001), (0x14000, shoalBase + 0x4000 + 0x13)].foldl
    (fun m c => Tab.putList 0 m c.1 (leBytes 8 c.2)) demoTiles.home
  let s := (({ demoTiles with home := h }.setCtReg 0 1 0x10).modAgent (.wave loadKey) fun w => w.setK 4 0x40000000)
  s.modTeam loadKey.team fun t => t.putSlot 1 { st := 2, bank := 5, lease := 1, wr := true }

theorem witness_RowResults_rowact : ∃ x t, EngineReady (.rowact 0 7 0 2 7 0) 7 demoRow x loadKey t ∧
    (decide ((t.slotAt 0).st ≠ 1) && decide ((t.slotAt 0).st ≠ 2) && (match demoRow.translate x.ctx t.core 1 .read (x.w.kpair 4) with
      | (.ok _ ga pte, u) => (match u.rowPlace x.ctx t.core (x.w.kpair 4) ga pte with
        | some off => u.bankAllowed x.ctx (off / 0x1000 % 64) && !u.bankHeld t.core loadKey.team 0 (off / 0x1000 % 64) &&
          decide ((u.recentActs t.core).length < 8)
        | none => false)
      | _ => false)) = true := engineAnd_sound (by decide +kernel)

/-- Slot 1 is open with a lease of 1; `ROWPRE` of it, and with `.try` of a slot that is SENSING. -/
theorem witness_RowResults_open :
    (∃ x t, EngineReady (.rowcon 0 7 1 1 7 0) 7 demoRow x loadKey t ∧
      (rowSized (t.entry 1) && decide ((t.slotAt 1).st = 2) && decide ((t.slotAt 1).lease ≠ 0) && t.admitsFill 1) = true) ∧
    (∃ x t, EngineReady (.rowput 0 7 1 0 0 1) 7 demoRow x loadKey t ∧
      (rowSized (t.entry 0) && decide (t.tstate 0 = tReady) && (t.slotAt 1).wr) = true) ∧
    (∃ x t, EngineReady (.rowpre 7 1 0 0) 7 demoRow x loadKey t ∧ (decide ((t.slotAt 1).st = 2) && !demoRow.slotBusy loadKey.team 1) = true) ∧
    (let s := demoRow.modTeam loadKey.team fun t => t.putSlot 3 { st := 1 }
     ∃ x t, EngineReady (.rowpre 7 3 0 1) 7 s x loadKey t ∧ decide ((t.slotAt 3).st = 1) = true) ∧
    (∃ x t, EngineReady (.rowq 7 3 5) 7 demoRow x loadKey t ∧ true = true) :=
  ⟨engineAnd_sound (by decide +kernel), engineAnd_sound (by decide +kernel), engineAnd_sound (by decide +kernel), engineAnd_sound (by decide +kernel),
    engineAnd_sound (by decide +kernel)⟩

/-- A row being sensed, a `ROWPUT` at its turn, and an open slot whose lease has ended. -/
theorem witness_RowResults_events :
    (let s := after (.rowact 0 7 0 2 7 0) demoRow
     (match (firstOp s).kind with | .rowact w _ => w == 0 | _ => false) = true ∧ (firstOp s).teamKey = some loadKey.team ∧
      s.halted 0 = false) ∧
    (let s := after (.rowput 0 7 1 0 0 1) demoRow
     (match (firstOp s).kind with | .rowput w _ _ => w == 1 | _ => false) = true ∧ s.rowTurn (firstOp s) = true ∧ s.halted 0 = false ∧
      (s.cores.all fun p => p.2.l1.recs.isEmpty) = true ∧
      (match s.team? loadKey.team with | some t => (t.slotAt 1).held.isEmpty | none => false) = true) ∧
    (let s := demoRow.modTeam loadKey.team fun t => t.putSlot 2 { st := 2, bank := 6, lease := 0 }
     (match s.team? loadKey.team with | some t => decide ((t.slotAt 2).st = 2) && decide ((t.slotAt 2).lease = 0) | none => false) = true ∧
      s.slotBusy loadKey.team 2 = false ∧ s.halted 0 = false) := by decide +kernel

/-! The collective engine. -/

/-- `demo` with an entry of 64 bytes for this module in `k8` to `k15`. -/
def demoEntry : State := demoWith [] [(8, 0x40000), (10, 0x50000), (12, 64), (13, 0), (14, 0), (15, 0x40000000), (0, 8), (3, 0x80000000)]

/-- A permitted entry on a free pair and on a full one, and an entry that is not permitted. -/
theorem witness_CollectiveResults_cpost :
    (∃ x t, EngineReady (.cpost 7 1 255 7) 7 demoEntry x loadKey t ∧
      (({ words := x.block 1, wave := loadKey } : WorkEntry).permitted && decide ((((demoEntry.ctx 0).qps.get {} 255)).entries.length < demoEntry.pairLimit 0)) = true) ∧
    (let full : QueuePair := { entries := List.replicate 64 { words := [], wave := loadKey } }
     let s := demoEntry.putCtx 0 { demoEntry.ctx 0 with qps := (demoEntry.ctx 0).qps.put {} 0 full }
     ∃ x t, EngineReady (.cpost 7 1 0 0) 7 s x loadKey t ∧
      (({ words := x.block 1, wave := loadKey } : WorkEntry).permitted && decide (s.pairLimit 0 ≤ ((s.ctx 0).qps.get {} 0).entries.length)) = true) ∧
    (∃ x t, EngineReady (.cpost 7 0 0 0) 7 demoEntry x loadKey t ∧ (!({ words := x.block 0, wave := loadKey } : WorkEntry).permitted) = true) :=
  ⟨engineAnd_sound (by decide +kernel), engineAnd_sound (by decide +kernel), engineAnd_sound (by decide +kernel)⟩

/-- `CWAIT` that passes at equality and one that waits. -/
theorem witness_CollectiveResults_counters :
    (∃ x t, EngineReady (.cctr 7 1023 12 1) 7 demoEntry x loadKey t ∧ true = true) ∧
    (∃ x t, EngineReady (.cctrSet 7 0 12) 7 demoEntry x loadKey t ∧ true = true) ∧
    (∃ x t, EngineReady (.cwait 7 0 1) 7 demoEntry x loadKey t ∧ decide (0 ≤ (demoEntry.counter 0 0 - x.w.kreg 1).toInt) = true) ∧
    (∃ x t, EngineReady (.cwait 7 0 12) 7 demoEntry x loadKey t ∧ decide ((demoEntry.counter 0 0 - x.w.kreg 12).toInt < 0) = true) ∧
    (∃ x t, EngineReady (.eroute 7 3 4) 7 demoEntry x loadKey t ∧ (!routeReserved (x.block 4)) = true) ∧
    (∃ x t, EngineReady (.eroute 7 0 0) 7 demoEntry x loadKey t ∧ routeReserved (x.block 0) = true) ∧ 0 < demoEntry.ctxs.length :=
  ⟨engineAnd_sound (by decide +kernel), engineAnd_sound (by decide +kernel), engineAnd_sound (by decide +kernel), engineAnd_sound (by decide +kernel),
    engineAnd_sound (by decide +kernel), engineAnd_sound (by decide +kernel), by decide +kernel⟩

/-- The fired entry of `demoEntry`, at the head of pair 5. -/
def demoFired : WorkEntry := { words := [0x40000, 0, 0x50000, 0, 64, 0, 0, 0x40000000], wave := loadKey, armed := true }

/-- `demo` with an entry fired on pair 5, to its own module. -/
def demoFiring (e : WorkEntry) : State := demo.putCtx 0 { demo.ctx 0 with qps := (demo.ctx 0).qps.put {} 5 { firing := [e] } }

/-- A fired entry whose source is read and which is sent, one whose source page is missing, and one whose source meets another cause. -/
theorem witness_CollectiveEvents_source :
    (let s := demoFiring demoFired
     demoFired.ctl 20 1 = 0 ∧
     (match s.readSource 0 demoFired.src demoFired.len (demoFired.len / 16 + 2) with
       | .ok (bs, cs, _) => bs.length == 64 && decide (cs.length ≤ 64)
       | .error _ => false) = true ∧ s.halted 0 = false) ∧
    (let e : WorkEntry := { demoFired with words := [0x80000000, 0, 0x50000, 0, 64, 0, 0, 0] }
     (match (demoFiring e).readSource 0 e.src e.len (e.len / 16 + 2) with | .error (c, _, _) => c == Cause.page | .ok _ => false) = true) ∧
    (let e : WorkEntry := { demoFired with words := [0, 0x02000000, 0x50000, 0, 64, 0, 0, 0] }
     (match (demoFiring e).readSource 0 e.src e.len (e.len / 16 + 2) with | .error (c, _, _) => c == Cause.access | .ok _ => false) = true) := by
  decide +kernel

/-- A delivery for no job, for a job whose context is not there, one that is applied and one that is refused. -/
theorem witness_CollectiveEvents_delivery :
    let d : Delivery := { chip := 1, job := 3, addr := 0x50000, data := [1, 2, 3, 4], op := .write, fmt := 0, ord := false, axis := 0, rank := 0, counter := none }
    let s := demo.setPtReg 0 0x016 0x80000003
    demo.bound 3 = none ∧ s.bound 3 = some (0, some 0) ∧ (s.setPtReg 0 0x016 0x80010003).bound 3 = some (0, none) ∧
    (match s.arrive 0 0 d with | .applied _ => true | _ => false) = true ∧
    (match s.arrive 0 0 { d with addr := 0x80000000 } with | .refused _ _ => true | _ => false) = true ∧
    d.mc = false ∧ (s.part 0).inFull = false ∧ (s.part 0).inq = [] ∧ (s.part 0).inHeld = none ∧
    (match (s.settleRange 0 d.addr d.op d.data.length (deliveryFuel d)).deliver 0 d.addr d.op d.fmt d.data d.codes 0 (deliveryFuel d) with | (none, false, _) => true | _ => false) = true := by decide +kernel

/-- Bytes at a line in which no core has recorded a release, where no object has waiters. -/
theorem witness_CollectiveEvents_memory :
    (∀ n, ∀ r ∈ (demoDirty.core n).l1.recs, r.addr / 256 ≠ 0x40100 / 256) ∧ demoDirty.waited (.mem 0x40100 true false) 4 = false := by
  refine ⟨fun n r hr => ?_, by decide +kernel⟩
  by_cases h : n = 0
  · subst h
    simp [demoDirty, State.core, Tab.get] at hr
    subst hr; decide
  · exact demoDirty_atHome.records n h r hr

/-- An entry that raises SCNT, and the answer of the last target of its copies. -/
theorem witness_CollectiveEvents_rise :
    (let e : WorkEntry := { words := [0x40000, 0, 0x50000, 0, 64, 0, 0, 0x40000000], wave := loadKey }
     e.ctl 20 1 = 0 ∧ e.cnt 30 1 = 1 ∧ 0 < demo.ctxs.length) ∧
    (let p : Parcel := { id := 3, agent := .wave loadKey, who := 0, core := 0, quarter := 0, left := 1, rise := some (0, 5) }
     let s : State := { demo with awaiting := [p] }
     (s.awaiting.find? fun p => p.id = 3) = some p ∧ p.left ≤ 1 ∧ p.cause = none ∧ p.rise = some (0, 5)) := by decide +kernel

/-! Launches and command queues. -/

/-- The bytes of a kernel descriptor of 8 registers and 32 threads. -/
def descBytes : List Byte :=
  leBytes 8 0x20000 ++ leBytes 8 0 ++ leBytes 2 8 ++ leBytes 2 32 ++ leBytes 2 1 ++ leBytes 2 1 ++ List.replicate 40 0

/-- The words of a launch block: the descriptor at 0x50000, one team, its segment at 0x200000. -/
def launchWords : List (Nat × Word) := [(0, 0x50000), (2, 1), (3, 0x10001), (4, 0x200000)]

/-- `demo` with a launch block in `k0` to `k7`, and one that is not valid in `k8` to `k15`. -/
def demoLaunch : State :=
  let s := demoWith [] (launchWords ++ [(8, 0x50000), (16, 1)])
  { s with home := Tab.putList 0 s.home 0x50000 descBytes }

/-- `LAUNCH` by the leader: a valid block, an invalid one, one that is not aligned; at depth 10, and with no grid entry free. -/
theorem witness_LaunchResults_launch :
    (∃ x t, EngineReady (.launch 0 7 0 2) 7 demoLaunch x loadKey t ∧
      (decide (t.leader = some (0, 0)) && x.e.getLsbD 0 && decide ((pairAt (x.block 0) 0).toNat % 64 = 0) &&
        (match demoLaunch.readDesc x (pairAt (x.block 0) 0) with | (.ok bs, u) => u.blockOk 0 (x.block 0) bs | _ => false) &&
        (match demoLaunch.readDesc x (pairAt (x.block 1) 0) with | (.ok bs, u) => !u.blockOk 0 (x.block 1) bs | _ => false) &&
        decide ((pairAt (x.block 2) 0).toNat % 64 ≠ 0) && decide (demoLaunch.liveGrids 0 < 65536)) = true) ∧
    (let s := demoLaunch.modGrid loadKey.team.grid fun g => { g with depth := 10 }
     ∃ x t, EngineReady (.launch 1 7 0 31) 7 s x loadKey t ∧ (decide (((s.grid? loadKey.team.grid).map (·.depth)).getD 0 = 10)) = true) ∧
    (let s := demoLaunch.setCtReg 0 0x006 65536
     ∃ x t, EngineReady (.launch 0 7 0 2) 7 s x loadKey t ∧ (decide (65536 ≤ s.liveGrids 0)) = true) :=
  ⟨engineAnd_sound (by decide +kernel), engineAnd_sound (by decide +kernel), engineAnd_sound (by decide +kernel)⟩

/-- A group without the leader, which is lane 0. -/
theorem witness_LaunchResults_other :
    let s := demoLaunch.modAgent (.wave loadKey) fun w => (w.modLanes 1 fun t => { t with pc := 0x20000, chdr := 0 }).regroup.yieldLead
    ∃ x t, EngineReady (.launch 0 7 0 2) 7 s x loadKey t ∧ (decide (t.leader = some (0, 0)) && !(x.guarded 7).getLsbD 0) = true :=
  engineAnd_sound (by decide +kernel)

/-- A launch in flight whose child is accepted; one without a child; one whose completion record has no page. -/
theorem witness_LaunchResults_completion :
    (let o := firstOp (after (.launch 0 7 0 2) demoLaunch)
     (match o.kind with
       | .launch _ _ (some (k, g)) => o.held.isNone && isOk ((after (.launch 0 7 0 2) demoLaunch).acceptGrid k g |>.mapError fun _ => ())
       | _ => false) = true) ∧
    (let s := after (.launch 0 7 0 2) (demoLaunch.modGrid loadKey.team.grid fun g => { g with depth := 10 })
     (match (firstOp s).kind with | .launch _ _ none => true | _ => false) = true) ∧
    (let s := after (.launch 0 7 0 2) (demoLaunch.modAgent (.wave loadKey) fun w => w.setK 4 0x80000000)
     (match (firstOp s).kind with
       | .launch _ _ (some (k, g)) => (firstOp s).held.isNone && (match s.acceptGrid k g with | .error (c, _, _) => c == Cause.page | .ok _ => false)
       | _ => false) = true) ∧
    (let s := after (.launch 0 7 0 2) (demoLaunch.modAgent (.wave loadKey) fun w => w.setK 5 0x02000000)
     (match (firstOp s).kind with
       | .launch _ _ (some (k, g)) => (firstOp s).held.isNone && (match s.acceptGrid k g with | .error (c, _, _) => c == Cause.access | .ok _ => false)
       | _ => false) = true) ∧
    (let s := demoLaunch.putCtx 0 { demoLaunch.ctx 0 with nextGid := 0xFFFFFFFF }
     s.liveGrids 0 < 65536 ∧ s.gidTaken 0 (s.ctx 0).nextGid = false ∧ 0 < s.ctxs.length) := by decide +kernel

/-- `GWAIT` on a child that has not retired, on one that has, and on a name of no child. -/
theorem witness_LaunchResults_gwait :
    let s := (demoWith [(2, 9)] []).modGrid loadKey.team.grid fun g => { g with children := [{ gid := 9 }] }
    let u := (demoWith [(2, 9)] []).modGrid loadKey.team.grid fun g => { g with children := [{ gid := 9, summary := some 1 }] }
    (∃ x t, EngineReady (.gwait 7 1 2) 7 s x loadKey t ∧ decide ((x.w.vreg 2 0).toNat = 9) = true) ∧
    (∃ x t, EngineReady (.gwait 7 1 2) 7 u x loadKey t ∧ decide ((x.w.vreg 2 0).toNat = 9) = true) ∧
    (∃ x t, EngineReady (.gwait 7 1 3) 7 s x loadKey t ∧ decide ((x.w.vreg 3 0).toNat = 0) = true) :=
  ⟨engineAnd_sound (by decide +kernel), engineAnd_sound (by decide +kernel), engineAnd_sound (by decide +kernel)⟩

/-- `demoCp` with a launch block in `k0` to `k7` and a copy block in `k8` to `k15`. -/
def demoQueue : State :=
  let s := demoCp.modAgent (.cp 0) fun w => (launchWords ++ [(8, 0x40000), (10, 0x60000), (12, 0x1000000)]).foldl (fun (w : Wave) (p : Nat × Word) => w.setK p.1 p.2) w
  { s with home := Tab.putList 0 s.home 0x50000 descBytes }

/-- Each queue instruction finds its entry and a place. -/
theorem witness_QueueResults :
    (∃ x, Ready (.qlaunch 7 7 0) demoQueue x ∧ Untrapped demoQueue x ∧ x.a = .cp 0 ∧
      (decide (x.guarded 7 ≠ 0) && decide ((pairAt (x.block 0) 0).toNat % 64 = 0) &&
        (match demoQueue.readDesc x (pairAt (x.block 0) 0) with | (.ok bs, u) => u.blockOk 0 (x.block 0) bs | _ => false)) = true) ∧
    (∃ x, Ready (.qcopy 7 11 1) demoQueue x ∧ Untrapped demoQueue x ∧ x.a = .cp 0 ∧
      (decide (x.guarded 7 ≠ 0) && decide (wordAt (x.block 1) 5 = 0) && decide (wordAt (x.block 1) 6 = 0) && decide (wordAt (x.block 1) 7 = 0) &&
        decide ((wordAt (x.block 1) 4).toNat = 0x1000000)) = true) ∧
    (∃ x, Ready (.qsemw 7 11 4 12) demoQueue x ∧ Untrapped demoQueue x ∧ x.a = .cp 0 ∧ decide (x.guarded 7 ≠ 0) = true) ∧
    (∃ x, Ready (.qsems 7 0 4 12) demoQueue x ∧ Untrapped demoQueue x ∧ x.a = .cp 0 ∧ decide (x.guarded 7 ≠ 0) = true) ∧
    (∃ x, Ready (.qirq 7 0 255) demoQueue x ∧ Untrapped demoQueue x ∧ x.a = .cp 0 ∧ (decide (x.guarded 7 ≠ 0)) = true) ∧
    (∃ x, Ready (.qswap 7 1) demoQueue x ∧ Untrapped demoQueue x ∧ x.a = .cp 0 ∧ decide (x.guarded 7 ≠ 0) = true) :=
  ⟨readyAnd_sound (by decide +kernel), readyAnd_sound (by decide +kernel), readyAnd_sound (by decide +kernel), readyAnd_sound (by decide +kernel),
    readyAnd_sound (by decide +kernel), readyAnd_sound (by decide +kernel)⟩

/-- A full queue, before and after its `QUEUE_QUOTA`; a swap request for the context that runs. -/
theorem witness_QueueResults_full :
    (∀ b : Bool, ∃ x, Ready (.qirq 7 0 1) (demoQueue.modQueue 0 0 fun y => { y with entries := List.replicate 64 (.irq 0), quota := b }) x ∧
      Untrapped (demoQueue.modQueue 0 0 fun y => { y with entries := List.replicate 64 (.irq 0), quota := b }) x ∧ x.a = .cp 0 ∧
      (let s := demoQueue.modQueue 0 0 fun y => { y with entries := List.replicate 64 (.irq 0), quota := b }
       (match (s.ctx 0).queues[0]? with
        | some y => decide (s.queueLimit 0 ≤ y.entries.length) && decide (y.quota = b)
        | none => false)) = true) ∧
    (demoQueue.part 0).swap = none ∧ demoQueue.runningCtx 0 = some 0 := by
  refine ⟨fun b => readyAnd_sound ?_, by decide +kernel, by decide +kernel⟩
  cases b <;> decide +kernel

/-- `demoQueue` with an entry at the head of a queue. -/
def demoHead (q : Nat) (e : QEntry) : State := demoQueue.modQueue 0 q fun y => { y with entries := [e] }

/-- The entries of `QueueStarts`, by clause. -/
theorem witness_QueueStarts_launch :
    (let d := KDesc.ofBytes descBytes
     let b : List Word := [0x50000, 0, 1, 0x10001, 0x200000, 0, 0, 0]
     let s := demoHead 0 (.launch b d)
     s.nextEntry 0 0 = some (.launch b d) ∧ s.liveGrids 0 < 65536 ∧
      isOk ((s.takeGid 0).2.acceptGrid ⟨0, (s.takeGid 0).1⟩ (gridOf b d 0 none (some 0)) |>.mapError fun _ => ()) = true ∧
      (let b : List Word := [0x50000, 0, 1, 0x10001, 0x80000000, 0, 0, 0]
       let s := demoHead 0 (.launch b d)
       isOk ((s.takeGid 0).2.acceptGrid ⟨0, (s.takeGid 0).1⟩ (gridOf b d 0 none (some 0)) |>.mapError fun _ => ()) = false)) := by
  decide +kernel

theorem witness_QueueStarts_copy :
    (let b : List Word := [0x40000, 0, 0x60000, 0, 16, 0, 0, 0]
     (demoHead 8 (.copy b)).nextEntry 8 8 = none ∧ (demoHead 8 (.copy b)).nextEntry 0 8 = some (.copy b) ∧ (pairAt b 0).toNat % 16 = 0 ∧
      (wordAt b 4).toNat ≠ 0) ∧
    (let b : List Word := [0x40000, 0, 0x60000, 0, 0, 0, 0, 0]
     (demoHead 8 (.copy b)).nextEntry 0 8 = some (.copy b) ∧ (wordAt b 4).toNat = 0) ∧
    (let b : List Word := [0x40008, 0, 0x60000, 0, 16, 0, 0, 0]
     (demoHead 8 (.copy b)).nextEntry 0 8 = some (.copy b) ∧ (pairAt b 0).toNat % 16 ≠ 0) := by decide +kernel

/-- A semaphore whose test passes, one whose test waits, one at a missing page; an interrupt. -/
theorem witness_QueueStarts_semaphore :
    ((demoHead 0 (.semw 0x60000 0)).nextEntry 0 0 = some (.semw 0x60000 0) ∧
      (match (demoHead 0 (.semw 0x60000 0)).entryObject 0 0x60000 false with
        | .ok (_, o, u) => decide (0 ≤ (u.objWord o 0 - 0).toInt) && !decide (0 ≤ (u.objWord o 0 - 1).toInt)
        | .error _ => false) = true) ∧
    ((demoHead 0 (.sems 0x60000 1)).nextEntry 0 0 = some (.sems 0x60000 1) ∧
      isOk ((demoHead 0 (.sems 0x60000 1)).entryObject 0 0x60000 true |>.map fun _ => ()) = true) ∧
    isOk ((demoHead 0 (.semw 0x80000000 0)).entryObject 0 0x80000000 false |>.map fun _ => ()) = false ∧
    (demoHead 11 (.irq 255)).nextEntry 0 11 = some (.irq 255) ∧ (1, 255) ∉ demoQueue.msixMask ++ [(0, 0)] ∧ 0 < demoQueue.ctxs.length := by
  decide +kernel

/-! Power, time and random numbers; system registers; privileged instructions. -/

/-- The instructions of `TimeResults`, on a wave and on a command processor. -/
theorem witness_TimeResults :
    AllReady' (.wave loadKey) demo
      [.phase 0, .phase 2, .perf 1, .tokq 0 1 0, .tokq 0 1 1, .tokq 1 1 2, .capq 0 1, .capq 1 1, .timeRef 0 2, .timeRef 1 2, .timeCyc 0 2,
        .timeCyc 1 2, .rng 0 1 2 4, .rng 1 1 2 4] ∧
    AllReady' (.cp 0) demoCp [.tokq 0 1 0, .tokq 1 1 1, .timeCyc 0 2, .timeCyc 1 2] := ⟨allReady' (by decide +kernel), allReady' (by decide +kernel)⟩

/-- A core whose shares add to 65,536. -/
theorem witness_TimeResults_tokens : 0 ≤ ({ shares := [65536, 0, 0, 0] } : Core).shares.foldl (· + ·) 0 ∧
    ({ shares := [65536, 0, 0, 0] } : Core).shares.foldl (· + ·) 0 ≤ 65536 := by decide +kernel

/-- `MFSR` and `MTSR` at level 1; at level 0; a write of a level-2 register. -/
theorem witness_SystemRegisters :
    AllReady' (.wave loadKey) demo [.mfsr 5 0x2000, .mtsr 5 0x2007] ∧
    (let s := demo.setCtReg 0 0 0x25
     s.sys 0 = false ∧ (s.issuer?).isSome = true) ∧ regWriteLevel 0x6000 = 2 ∧ reservedField (.mtsr 1 0x6000) = false ∧
      (let w := loadWave
       w.missed (.mtsr 1 0x6000) (BitVec.allOnes 32) 256 = false ∧ w.poisoned (.mtsr 1 0x6000) (BitVec.allOnes 32) 256 = none) :=
  ⟨allReady' (by decide +kernel), by decide +kernel⟩

/-- The clauses of `SystemRegisters` on the agents of an outside write: permitted, not ready, not defined, below its level, not the partition's. -/
theorem witness_SystemRegisters_write :
    demo.ready = true ∧ regDefined 0x4000 = true ∧ regWriteLevel 0x4000 ≤ 2 ∧ State.reset.ready = false ∧ regDefined 0x0008 = false ∧
    1 < regWriteLevel 0x6000 ∧ 0x6000 ≤ (0x6000 : BitVec 16).toNat ∧ (regBits 0x400D).rc ≠ 0 ∧ 0 < demo.ctxs.length ∧ demo.parts.length = 8 := by
  decide +kernel

/-- `demo` with targets in pairs of `k`: the own grid (4), a reserved bit (6), a grid that is not there (8). -/
def demoTarget : State := demoWith [] [(4, 0x100000), (7, 0x02000000), (8, 0x900000)]

theorem witness_SystemResults :
    AllReady' (.wave loadKey) demoTarget
      [.ctxfl 4 2 0, .ctxfl 4 2 1, .park 4 2, .unpark 4 2 0, .unpark 4 0 1, .tlbiCtx 10, .tlbiPage 10, .haltc 0, .haltc 1] ∧
    (demoTarget.issuer?.map fun x => (targetBad (x.w.kpair 6) 2, targetBad (x.w.kpair 4) 2, targetBad (x.w.kpair 10) 0)) =
      some (true, false, false) ∧
    (demoTarget.issuer?.map fun x => demoTarget.targetWaves 0 2 (targetVa (x.w.kpair 4))) = some [loadKey] ∧
    (demoTarget.issuer?.map fun x => demoTarget.targetWaves 0 2 (targetVa (x.w.kpair 8))) = some [] :=
  ⟨allReady' (by decide +kernel), by decide +kernel⟩

/-- A command processor whose `PARK` waits for waves that have stopped. -/
theorem witness_SystemResults_park :
    let s := demoCp.modAgent (.cp 0) fun w => { w.setWaiting 1 12 with parkWait := [(1, [])] }
    (s.agent? (.cp 0)).isSome = true ∧ ((s.agent? (.cp 0)).bind fun w => w.parkWait.find? fun p => s.parked p.2) = some (1, []) ∧
      loadWave.tm = false := by decide +kernel

/-! Waves. -/

/-- A group before its header: a good header, a flag it waits for, and a word that is none. -/
theorem witness_WaveEvents_clause :
    (let s := demo.modAgent (.wave loadKey) fun w => w.modLanes (BitVec.allOnes 32) fun t => { t with pc := 0x20000, chdr := 0 }
     (match s.issuer? with
       | some x => decide (x.th.chdr = 0) && !x.pc.getLsbD 0 && (match s.codeHead x.a x.pc with
         | (.ok w, _) => isClauseHeader w && !(ClauseHeader.ofWord w).bad && !(ClauseHeader.ofWord w).y
         | _ => false)
       | none => false) = true) ∧
    (let s := { demo with home := Tab.putList 0 demo.home 0x20000 (leBytes 4 0x00800081) }
     (match s.codeHead (.wave loadKey) 0x20000 with
       | (.ok w, _) => isClauseHeader w && (List.range 12).any fun n => (ClauseHeader.ofWord w).wait.getLsbD n
       | _ => false) = true) ∧
    isClauseHeader 0x0000007F = false := by decide +kernel

/-- A pending cause, the lowest of two. -/
theorem witness_WaveEvents_pending :
    let s := demo.modAgent (.wave loadKey) fun w => { w with pend := 0x00020100 }
    (match s.issuer? with
      | some x => x.w.pend.getLsbD 8 && (List.range 8).all fun d => !x.w.pend.getLsbD d
      | none => false) = true := by decide +kernel

/-- `demo` with its wave in another class. -/
def demoClass (c : WaveClass) : State := demo.modAgent (.wave loadKey) fun w => { w with cls := c }

theorem witness_WaveEvents_classes :
    (let s := demoClass .pending
     s.onCore loadKey = true ∧ (match s.wave? loadKey, s.team? loadKey.team with
       | some v, some t =>
          let pen := (s.quarterWaves t.core v.quarter .pending).filter fun (_, _, x) => x.couldRun
          let slot := s.fclk t.core / 128 % 24
          v.couldRun && (if (pen.any fun (_, _, x) => x.slot = slot) = true then decide (v.slot = slot) else s.firstByRank loadKey t pen) &&
          decide ((s.quarterWaves t.core v.quarter .active).length < 8) &&
          decide (s.regBytes [] + 128 * 256 ≤ s.regBudget t.core) &&
          (s.fillLines loadKey (List.range (16 + (s.waveSpan loadKey).2))).1
       | _, _ => false) = true) ∧
    (let s := demoClass .memory
     (match s.wave? loadKey, s.team? loadKey.team with
       | some v, some t =>
          let mem := (s.quarterWaves t.core v.quarter .memory).filter fun (_, _, x) => x.couldRun || x.unread
          v.couldRun && s.firstByRank loadKey t mem && decide ((s.quarterWaves t.core v.quarter .pending).length < 24) &&
          (match s.fillS loadKey.team t.core 1 with | (.ok (), _) => true | _ => false)
       | _, _ => false) = true) ∧
    (let s := demo.modAgent (.wave loadKey) fun w => { w with absent := [16], needs := [16] }
     s.onCore loadKey = true ∧ (match s.wave? loadKey with | some v => decide (v.cls = .active) && (v.needs.any v.absent.contains) && v.couldRun | none => false) =
      true) := by decide +kernel

/-- A line to fill; a wave that has waited more than 64 fclk for a flag; a wave that hangs. -/
theorem witness_WaveEvents_others :
    (let s := (demoClass .pending).modAgent (.wave loadKey) fun w => { w with absent := [17] }
     (match s.wave? loadKey with
       | some v => s.onCore loadKey && decide (v.cls = .pending) && decide (17 ∈ v.absent) && !v.cpk
       | none => false) = true) ∧
    (let s := (demo.putCluster 0 { demo.cluster 0 with cyc := 65 }).modAgent (.wave loadKey) fun w =>
       { (w.modLanes (BitVec.allOnes 32) fun t => { t with stat := .waiting, kind := 8 }) with groups := [], flagSince := 1 }
     (match s.wave? loadKey with
       | some v => s.onCore loadKey && decide (v.cls = .active) && decide (v.waitingFor [8, 11] ≠ 0) && decide (v.flagSince ≠ 0) &&
          decide (64 < s.fclk 0 + 1 - v.flagSince)
       | none => false) = true) ∧
    2 ^ 20 ≤ ({ loadWave with hang := 2 ^ 20 } : Wave).hang := by decide +kernel

/-! Dispatch, placement, swaps and halts. -/

/-- `demo` with a second team of its grid to send. -/
def demoBatch : State :=
  let s := demo.modGrid loadKey.team.grid fun g => { g with gx := 2, slots := 4, desc := { loadDesc with tiles := 0, ztiles := 0, rows := 0, gangs := 0, routes := 0 } }
  { s with dies := List.replicate 4 {} }

theorem witness_PlacementEvents_batch :
    demoBatch.runningCtx 0 = some 0 ∧ demoBatch.halted 0 = false ∧ (demoBatch.part 0).swap = none ∧
    (match demoBatch.grids.find? fun q => decide (q.1.ctx = 0) && (decide (q.2.next < q.2.total) || !q.2.returned.isEmpty) && !(demoBatch.gridBatch 0 q.2).2.isEmpty with
      | some (k, _) => k == loadKey.team.grid
      | none => false) = true ∧
    demoBatch.turnOf 0 = true ∧ demoBatch.served < 8 ∧ (demoBatch.nextBatch 0).isSome = true := by decide +kernel

/-- The state with that team in a die's queue. -/
noncomputable def demoSent : State :=
  match exec (.batchDispatch 0) demoBatch with
  | .next t => t
  | _ => demo

theorem witness_PlacementEvents_place :
    (match demoSent.dieHead 0 with
      | some (k :: ms, g, p, ring) => (p == 0) && ring.any (demoSent.headFits ring g (k :: ms)) && (demoSent.team? k).isSome &&
        decide ((demoSent.team? k).bind (·.move) = none) && decide (k.grid.ctx = 0) &&
        (let u := demoSent.tickDeficit ring ((demoSent.die 0).ptr.get 0 p)
         (u.chooseCore ring (u.headFits ring g (k :: ms)) ((u.die 0).ptr.get 0 p)).isSome)
      | _ => false) = true ∧ demoSent.running 0 = true ∧ demoSent.halted 0 = false ∧ (demoSent.part 0).swap = none := by decide +kernel

/-- A head that no core fits, after 65,536 memory clocks. -/
theorem witness_PlacementEvents_return :
    (let s := demoSent.setPtReg 0 1 0
     let s := s.putDie 0 { s.die 0 with wait := 65536 * 16 / 25 + 1 }
     (match s.dieHead 0 with
       | some (ms, g, _, ring) => !ring.any (s.headFits ring g ms) && decide (65536 * 16 ≤ (s.die 0).wait * 25) &&
          !(s.die 0).queue.isEmpty
       | none => false) = true) := by decide +kernel

/-- A stopped team of a vacated cluster, which is saved. -/
theorem witness_PlacementEvents_move :
    (let s := (((demo.setCtReg 0 0x016 1).setCtReg 0 0x014 0x800000).modTeam loadKey.team fun t => { t with vacate := true })
     let s : State := { s with dies := List.replicate 4 {} }
     (match s.grid? loadKey.team.grid with
       | some g => decide (s.liveMembers loadKey.team g = [loadKey.team]) && s.canMove loadKey.team &&
          (s.saveMembers (s.liveMembers loadKey.team g)).isSome
       | none => false) = true ∧ s.running 0 = true ∧ s.halted 0 = false ∧ (s.part 0).swap = none) := by decide +kernel

/-- A halt in progress; swaps before and after their exchange, of a context that has stopped and of one that has halted, and one that turns back with
and without an outgoing context. -/
theorem witness_SwapEvents :
    (let s := demo.raiseHalt 0 { code := 1 }
     (s.ctx 0).halt.isSome = true ∧ s.ctxs.length = 16 ∧ s.running 0 = true ∧ s.parts.length = 8 ∧ (s.part 0).swap = none) ∧
    (let s := { demo with teams := [] }
     let t := s.putPart 0 { s.part 0 with swap := some { incoming := 1, outgoing := some 0 } }
     (t.part 0).swap = some { incoming := 1, outgoing := some 0 } ∧ t.stopped 0 = true ∧ (t.ctx 0).halt = none ∧ t.inMask 0 1 0 = true) ∧
    (let s := demo.setCtReg 0 0 9
     let t := s.putPart 0 { s.part 0 with swap := some { incoming := 1, outgoing := some 0 } }
     (t.part 0).swap = some { incoming := 1, outgoing := some 0 } ∧ (t.ctReg 0 0).getLsbD 3 = true) ∧
    (let s := demo.setCtReg 1 0 1
     ∀ o ∈ [none, some 1], (State.part (s.putPart 0 { s.part 0 with swap := some { incoming := 0, outgoing := o, exchanged := true, back := true } }) 0).swap =
       some { incoming := 0, outgoing := o, exchanged := true, back := true } ∧ s.valid 1 = true ∧ (s.ctReg 1 0).getLsbD 3 = false) ∧
    (∀ b : Bool, (State.part (demo.putPart 0 { demo.part 0 with swap := some { incoming := 1, outgoing := some 0, exchanged := true, back := b } }) 0).swap =
      some { incoming := 1, outgoing := some 0, exchanged := true, back := b }) := by decide +kernel

/-- Requests for a valid context, for one that is not valid, and for one that has halted; a program to start and one that runs. -/
theorem witness_SwapEvents_requests :
    (demo.part 0).swap = none ∧ demo.runningCtx 0 ≠ some 1 ∧ demo.valid 1 = false ∧
    (demo.setCtReg 1 0 1).valid 1 = true ∧ ((demo.setCtReg 1 0 1).ctReg 1 0).getLsbD 3 = false ∧ ((demo.setCtReg 1 0 9).ctReg 1 0).getLsbD 3 = true ∧
    (demo.ctReg 0 0x009).getLsbD 1 = false ∧ 0 < (demo.ctx 0).cp.threads.length ∧ (demoCp.ctReg 0 0x009).getLsbD 1 = true ∧
    (demo.ptReg 0 0).getLsbD 0 = true ∧ (demo.ptReg 1 0).getLsbD 0 = false := by decide +kernel

/-- A masked handler that has not stopped after 16,384 fclk. -/
theorem witness_SwapEvents_timeout :
    let s := demo.modAgent (.wave loadKey) fun w => { w with tm := true, stopReq := some 16384 }
    (match s.wave? loadKey with | some v => decide (v.stopReq = some 16384) && v.tm && !v.done | none => false) = true ∧
      loadKey.team.grid.ctx < s.ctxs.length := by decide +kernel

/-! Power. -/

/-- `demo` at a later reference time. -/
def demoLate : State := { demo with timeRef := 100000 }

/-- An idle core to gate and one that is gated; gated clocks to restore; a vote that is due. -/
theorem witness_PowerEvents_gates :
    ((demoLate.core 5).gated = false ∧ (demoLate.pwReg 0).getLsbD 0 = true ∧ demoLate.coreIdle 5 = true ∧
      (demoLate.core 5).busyAt + 4000 ≤ demoLate.timeRef) ∧
    (let s := demoLate.putCore 0 { demoLate.core 0 with gated := true }
     (s.core 0).gated = true ∧ s.coreIdle 0 = false) ∧
    (demoLate.cluster 0).voteAt + 4000 ≤ demoLate.timeRef ∧
    (0 < 3 ∧ 2 ≤ 3 ∧ 1 ≤ 3) ∧ ratioChoice 2 3 1 1 = 2 ∧ ratioChoice 5 3 1 2 = 1 ∧ ratioChoice 1 3 5 2 = 3 ∧ ratioChoice 5 3 5 1 = 2 := by
  decide +kernel

/-- A droop above the threshold of 30 mV, above one that was lower until a write less than 1 µs ago, and the last of the 64 fclk; a trip of a cluster
whose clock runs and of one that is stretched; edges of a stretched clock, and one that comes too early. -/
theorem witness_PowerEvents_droop :
    bits (demo.pwReg 5) 0 7 < 31 ∧ ¬ bits (demo.pwReg 5) 0 7 < 30 ∧
    (let s : State := { demoLate with droopOld := [(20, demoLate.timeRef + 1)] }
     ∃ q ∈ s.droopOld, s.timeRef < q.2 ∧ q.1 < 21) ∧
    (let s := demo.putCluster 0 { demo.cluster 0 with halved := 1 }
     (s.cluster 0).stretch = 0 ∧ (s.cluster 0).halved = 1) ∧
    ({} : Cluster).stretched = false ∧ ({ stretch := 6 } : Cluster).stretched = true ∧
    ({ stretch := 1, halved := 65 } : Cluster).edge 0 11 = some { stretch := 0, halved := 65, cyc := 1, lclk := 1, edgeAt := 10 } ∧
    ({ stretch := 1, halved := 65 } : Cluster).edge 0 10 = none := by decide +kernel

/-- A core that draws in this tick, a die that draws, and a package that is served; a bucket that holds less than is wanted. -/
theorem witness_PowerEvents_refills :
    (let s := demo.putCluster 0 { demo.cluster 0 with cyc := 64 }
     s.ready = true ∧ 0 ∈ s.dueCores (dieOf 0)) ∧
    (let s : State := { demoLate with pkgAt := 16 }
     s.ready = true ∧ s.pkgAt < s.timeRef ∧ (s.die 3).drawAt + 16 ≤ s.pkgAt) ∧
    demoLate.refillable 16 = true ∧ demoLate.refillable 17 = false ∧
    (let s : State := { demoLate with pkg := 10, pkgDue := [(0, 3), (9, 4)] }
     s.payDue.pkg = 7 ∧ s.payDue.pkgDue = [(9, 4)]) ∧
    (Machine.grants 10 [4, 6]).sum = 10 ∧ [4, 6].sum ≤ 10 ∧ Machine.grants 5 [4, 6] ≠ [4, 6] := by decide +kernel

/-- A governor step with no rows, and one whose target lies a slew step below RATE with rows gated; a reserve that is drawn on above 2,400 W; a heat
update. -/
theorem witness_PowerEvents_governor :
    (let s : State := { demoLate with pkgAt := 1000 }
     s.ready = true ∧ s.govAt + 1000 ≤ s.timeRef ∧ s.govAt + 1000 ≤ s.pkgAt ∧ s.reserve ≠ 0) ∧
    (let s : State := { demoLate with rate := 2400000000, pkgAt := 1000 }
     s.govTarget 0 false + s.slewStep < s.rate ∧ (s.pwReg 0).getLsbD 1 = true ∧ s.govTarget 0 false ≤ s.rate) ∧
    demo.rate ≤ demo.govTarget 100 false ∧ (demo.setPwReg 0x00B 0).reserve = 0 ∧
    (let s : State := { demoLate with rate := 2400000001, pkgAt := demoLate.timeRef }
     s.ready = true ∧ s.reserve ≠ 0 ∧ 2400000000 < s.rate ∧ s.pkgAt = s.timeRef) ∧ (demoLate.cluster 79).heatAt + 1000 ≤ demoLate.timeRef := by
  decide +kernel

/-- Intents to send and to receive: from a chip of a higher number, of a lower one whose rise is due in the own slot, and with none used. -/
theorem witness_PowerEvents_intents :
    (let i : Intent := { chip := 9, rank := 0, seq := 1, plan := [1, 1, 1, 1, 1] }
     let s : State := { (demo.setPwReg 0x010 1).setDvReg 0x013 1 with timeRef := 20000 }
     (s.pwReg 0x010).getLsbD 0 = true ∧ s.intentAt + 20000 ≤ s.timeRef ∧ (s.dvReg 0x013).getLsbD 0 = true ∧ s.intents = [] ∧
       s.clashes 0 (s.hear 0 i) = false ∧ risesAt s.rate i.plan 0 = true) ∧
    (let i : Intent := { chip := 0, rank := 0, seq := 1, plan := [1, 1, 1, 1, 1] }
     let s : State := ((demo.setPwReg 0x010 1).setDvReg 0x013 1).setDvReg 1 5
     (s.pwReg 0x010).getLsbD 0 = true ∧ s.clashes (s.riseStart { since := 0 }) (s.hear 0 i) = true ∧
       (let r : State := { s with rises := [{ since := 0 }], intents := [s.hear 0 i] }
        r.delayRises.rises = [{ since := 0, delay := 1 }])) ∧
    (demo.setDvReg 0x013 1).pwReg 0x010 = 0 := by decide +kernel

/-! The fabric, the host, the device. -/

/-- A partition 0 whose job 5 is bound to a valid context 0; with no context valid; with none bound. -/
def demoBound : State := { demo.setPtReg 0 0x016 0x80000005 with parts := demo.parts.set 0 { demo.part 0 with reg := Tab.put 0 (Tab.put 0 (demo.part 0).reg 0 1) 0x016 0x80000005 } }

/-- An inbound read of the 4 bytes at the wave's code. -/
def demoRead : InRequest := { chip := 9, job := 5, physical := false, addr := 0x20000, kind := .read 4 }

theorem witness_FabricEvents_inbound :
    demo.bound 5 = none ∧ demoBound.bound 5 = some (0, some 0) ∧
    (demoBound.setCtReg 0 0 0).bound 5 = some (0, none) ∧ ((demoBound.part 0).inFull = false ∧ (demoBound.part 0).inq = [] ∧ (demoBound.part 0).inHeld = none) ∧
    (∃ ps u, demoBound.inboundPlaces 0 0 demoRead demoRead.addr (inLen demoRead) (inFuel demoRead) = (.ok ps, u)) ∧
    (∃ n u, demoBound.inboundPlaces 0 0 { demoRead with addr := 0x7F00000000000 } 0x7F00000000000 (inLen demoRead) (inFuel demoRead) = (.error n, u)) ∧
    0 < demo.parts.length ∧ (bits (demo.ptReg 0 0x019) 0 8 + 256 - bits (demo.ptReg 0 0x019) 8 8) % 256 ≠ 64 := by
  refine ⟨by decide +kernel, by decide +kernel, by decide +kernel, by decide +kernel, ?_, ?_, by decide +kernel, by decide +kernel⟩
  · have h : (match demoBound.inboundPlaces 0 0 demoRead demoRead.addr (inLen demoRead) (inFuel demoRead) with
      | (.ok _, _) => true | _ => false) = true := by decide +kernel
    split at h <;> simp_all
  · have h : (match demoBound.inboundPlaces 0 0 { demoRead with addr := 0x7F00000000000 } 0x7F00000000000 (inLen demoRead) (inFuel demoRead) with
      | (.error _, _) => true | _ => false) = true := by decide +kernel
    split at h <;> simp_all

/-- Inbound reads, writes and atomics all reach a place. -/
theorem witness_FabricEvents_kinds :
    ([.read 4, .write [1, 2, 3, 4], .atomic 0 1 0] : List InKind).all (fun k =>
      match demoBound.inboundPlaces 0 0 { demoRead with kind := k, addr := 0x100000 } 0x100000 (inLen { demoRead with kind := k }) (inFuel { demoRead with kind := k }) with
      | (.ok _, _) => true
      | _ => false) = true := by decide +kernel

/-- Probes: none of an origin whose queue has stood full for 256 clocks, one at a queue that is full and one at a queue that is not; a flit for
another chip, with a route whose port is up and at its last hop. -/
theorem witness_FabricEvents_probes :
    (let s : State := { demo.queueLevel ⟨0, 0, .hub⟩ 2 with hubCyc := 300 }
     (s.loadOf ⟨0, 0, .hub⟩).since = some 0 ∧ 0 + 256 ≤ s.queueClock ⟨0, 0, .hub⟩ ∧ ∀ p ∈ s.probes, p.origin ≠ ⟨0, 0, .hub⟩) ∧
    (let s : State := { demo.queueLevel ⟨0, 1, .memory⟩ 2 with probes := [{ origin := ⟨0, 0, .hub⟩, at_ := ⟨0, 1, .memory⟩ }] }
     s.probes = { origin := ⟨0, 0, .hub⟩, at_ := ⟨0, 1, .memory⟩ } :: [] ∧ (s.loadOf ⟨0, 1, .memory⟩).since ≠ none ∧
       (s.loadOf ⟨0, 0, .hub⟩).since = none ∧ (s.loadOf ⟨0, 0, .hub⟩).spent = false) ∧
    (let s := ((demo.setDvReg 0x040 0x80000009).setDvReg 0x041 0x000BFFFF).setDvReg 0x013 4
     (9 : BitVec 18).toNat ≠ s.chip ∧ s.routeTo 9 = some 2 ∧ s.portUp 2 = true ∧ 61 + 1 < 63 ∧ ¬ 62 + 1 < 63 ∧ s.routeTo 8 = none) := by
  decide +kernel

/-- An access of lane 3 at a peer that is to be answered; a copy whose next bytes lie at a peer; a collective delivery that had left. -/
theorem witness_FabricEvents_remote :
    (let o : Op := { id := 7, agent := .wave loadKey, kind := .store 4 false, accs := [{ lane := 3, place := .mem (peerBase + 64) false false }] }
     let s : State := { demo with ops := [o] }
     s.awaiting.find? (fun p => p.id = 7) = none ∧ s.op? 7 = some o ∧ o.kind.transfer = false ∧ o.lanesAtPeer false 8 = true) ∧
    (let o : Op := { id := 7, agent := .wave loadKey, core := 0, kind := .copy { src := 0x500000, dst := 0x100000, len := 64 } }
     let s : State := demo.putCluster 0 { demo.cluster 0 with tlb := [{ ctx := 0, vpage := 0x500, bits := 12, pte := 0x0002400000000207, addr := 0 }] }
     let s : State := { ((s.setDvReg 0x040 0x80000000).setDvReg 0x041 0).setDvReg 0x013 1 with ops := [o] }
     s.awaiting.find? (fun p => p.id = 7) = none ∧ s.op? 7 = some o ∧ o.kind.transfer = true ∧ (s.transferAtPeer false o).isSome = true) ∧
    (let a : Parcel := { id := 7, agent := .wave loadKey }
     let s : State := { demo with awaiting := [a] }
     s.awaiting.find? (fun p => p.id = 7) = some a ∧ a.own = none ∧ a.lost = false ∧ a.left ≤ 1 ∧ a.cause = none ∧ a.rise = none ∧ a.op = none ∧
       (s.answered 7 (some Cause.remote)).isSome = true) := by decide +kernel

/-- The host: reads and writes in usable memory, in the host's own memory; a vector to mask, one to unmask that is pending and one that is not;
a port that goes down. -/
theorem witness_FabricEvents_host :
    demo.ready = true ∧ 0x1000 + 8 ≤ usableTop ∧ (∀ c, ∀ r ∈ (demoDirty.core c).l1.recs, r.addr / 256 ≠ 0x40100 / 256) ∧ hostBase + 0 + 8 ≤ 2 ^ 46 ∧ 5 < msixVectors 1 ∧ (1, 5) ∉ demo.msixMask ∧
    (let s : State := { demo with msixMask := [(1, 5)], msixPend := [(1, 5)] }
     (1, 5) ∈ s.msixMask ∧ (1, 5) ∈ s.msixPend) ∧
    (let s : State := { demo with msixMask := [(1, 5)] }
     (1, 5) ∈ s.msixMask ∧ (1, 5) ∉ s.msixPend) ∧
    (demo.setDvReg 0x013 1).portUp 0 = true :=
  ⟨by decide +kernel, by decide +kernel, witness_CollectiveEvents_memory.1, by decide +kernel, by decide +kernel, by decide +kernel, by decide +kernel, by decide +kernel, by decide +kernel⟩

/-- An event to record in a ring with room. -/
theorem witness_DeviceEvents_event :
    (let s := demo.raiseEvent 0 3 0 []
     (s.part 0).evq ≠ [] ∧ s.evRingFull 0 = false ∧ s.parts.length = 8 ∧ (1, 256) ∉ s.msixMask ∧ (0, 0) ∉ s.msixMask ∧
       physKind (bits (s.ptReg 0 0x013) 13 19 * 2 ^ 13 + bits (s.ptReg 0 0x014) 0 14 * 2 ^ 32 + 32 * (bits (s.ptReg 0 0x015) 0 16 % 256)) = .dram 0) ∧
    demo.ctxs.length = 16 ∧ demo.parts.length = 8 := by decide +kernel

/-- A way that is to be dark, the last one; errors of each kind; a module before its bring-up. -/
theorem witness_DeviceEvents_device :
    (let q := (demo.setDvReg 4 0x8000).dvReg (0x004 + 0)
     (q &&& ~~~(q >>> 16) &&& 0xFFFF).getLsbD 15 = true ∧ (demo.dvReg (0x008 + 0)).getLsbD 15 = false) ∧
    (isDram 0x1000 = true ∧ demo.siteClean (.llc 0x1000) = true) ∧ (demo.siteClean (.dram 0) = false ∧ ErrSite.link (.strait 0) = true) ∧
    (demo.dvReg 0x023).getLsbD 0 = false ∧
    ({ State.reset with dv := [] } : State).dvReg 0x00D = 0 := by decide +kernel

/-- A report that holds what it must, with versions and the index in 4 bytes each and one byte of signature. -/
theorem witness_DeviceEvents_report :
    let s := demo.setDvReg 0x023 1
    s.reportOk 0 (s.reportBody 0 4 4 ++ [1]) = true := by
  intro s
  have h : s.sec.measures = [] := by decide +kernel
  have hl : (s.reportBody 0 4 4).length ≤ 1000 := by decide +kernel
  simp only [State.reportOk, Bool.and_eq_true, List.any_eq_true, decide_eq_true_eq]
  refine ⟨by simp; omega, 0, by simp, 0, by simp, ?_⟩
  simp [h]

/-- A report in progress with a buffer, one with a bad buffer, and one with no signature left. -/
theorem witness_DeviceEvents_attestation :
    demo.ready = true ∧ (demo.dvReg 0x023).getLsbD 0 = false ∧
    (let s := demo.setDvReg 0x023 1
     (s.dvReg 0x023).getLsbD 0 = true ∧ s.sec.index < 2 ^ 30 ∧ s.reportBuffer = some 0 ∧ 2 ^ 30 ≤ ({ s.sec with index := 2 ^ 30 } : Security).index) ∧
    ((demo.setDvReg 0x023 1).setDvReg 0x022 0x3FFF).reportBuffer = none := by decide +kernel

/-- The digest of "abc" that FIPS 180-4 gives as its example (R425). -/
theorem test_sha256 : sha256 [97, 98, 99] = [0xBA, 0x78, 0x16, 0xBF, 0x8F, 0x01, 0xCF, 0xEA, 0x41, 0x41, 0x40, 0xDE, 0x5D, 0xAE, 0x22, 0x23,
    0xB0, 0x03, 0x61, 0xA3, 0x96, 0x17, 0x7A, 0x9C, 0xB4, 0x10, 0xFF, 0x61, 0xF2, 0x00, 0x15, 0xAD] := by decide +kernel

/-- An image that the root key signs. -/
noncomputable def demoImage : Image := { bytes := [97, 98, 99], version := 4, key := Config.rootKey, signed := true }

theorem demoImage_accepted : imageAccepted demoImage 4 = true := by simp [imageAccepted, demoImage]

/-- A bring-up that ends in READY, one whose step 5 fails, one of firmware older than flash records, and one whose block has a ceiling below the range. -/
theorem witness_DeviceEvents_bringUp :
    let c : ConfigBlock := { image := demoImage, enabledMask := 1, ceiling := 2400 }
    let b : BringUp := { firmware := demoImage, block := some c, straitUp := 63, fails := none }
    State.reset.dvReg 0x00D = 0 ∧ bringUpFail b {} = none ∧ ({} : Security).blockFor b = some c ∧
      bringUpFail { b with fails := some 5 } {} = some 5 ∧ bringUpFail b { firmware := 5 } = some 2 ∧
      bringUpFail { b with block := some { c with ceiling := 599 } } {} = some 3 := by
  refine ⟨by decide +kernel, ?_⟩
  simp [bringUpFail, Security.blockFor, blockVerifies, imageAccepted, demoImage, Option.filter]

end Sys2Proof.Tests
end

section
/-! Multiplication (R189): each product by exact integer arithmetic. -/

namespace Sys2Proof.Machine

open Sys2Proof

/-- Both forms give f where the model computes it as g. -/
theorem BothResult.of_eq {i : BitVec 1 → Instr} {d : Nat} {f g : Reader → Word}
    (h : ∀ u s, exec (i u) s = issue (i u) s (plain u d g)) (hgf : ∀ r, g r = f r) : BothResult i d f :=
  funext hgf ▸ BothResult.of h

/-- Both forms give the pair f where the model computes it as g. -/
theorem BothPair.of_eq {i : BitVec 1 → Instr} {d : Nat} {f g : Reader → DWord}
    (h : ∀ u s, exec (i u) s = issue (i u) s (arithPair u d g)) (hgf : ∀ r, g r = f r) : BothPair i d f :=
  funext hgf ▸ BothPair.of h

theorem absDiff_eq_ofInt_abs (a b : Word) : absDiff a b = BitVec.ofInt 32 |(a.toNat : Int) - b.toNat| := by
  apply BitVec.eq_of_toNat_eq
  unfold absDiff
  split
  · rw [abs_of_nonpos (by omega), BitVec.toNat_sub_of_le (by assumption), BitVec.toNat_ofInt]; omega
  · rw [abs_of_nonneg (by omega), BitVec.toNat_sub_of_le (BitVec.le_def.2 (by omega)), BitVec.toNat_ofInt]; omega

theorem signExtend_mul_add_eq_ofInt (a b : Word) (c : DWord) :
    a.signExtend 64 * b.signExtend 64 + c = BitVec.ofInt 64 (a.toInt * b.toInt + c.toInt) := by
  simp [BitVec.ofInt_add, BitVec.ofInt_mul, BitVec.signExtend]

theorem setWidth_mul_add_eq_ofNat (a b : Word) (c : DWord) :
    a.setWidth 64 * b.setWidth 64 + c = BitVec.ofNat 64 (a.toNat * b.toNat + c.toNat) := by
  simp [BitVec.ofNat_add, BitVec.ofNat_mul]

/-- Settles O12: each form computes its product by an operation on words that is the exact one modulo 2^32 or 2^64. -/
theorem multiplyResults : Obligations.MultiplyResults := by
  unfold Obligations.MultiplyResults
  intro d a b c
  refine ⟨.of_eq (fun _ _ => rfl) fun r => ?imul, .of fun _ _ => rfl, .of fun _ _ => rfl, .of_eq (fun _ _ => rfl) fun r => ?imad,
    .of_eq (fun _ _ => rfl) fun _ => signExtend_mul_add_eq_ofInt .., .of_eq (fun _ _ => rfl) fun _ => setWidth_mul_add_eq_ofNat ..,
    .of_eq (fun _ _ => rfl) fun r => ?isad⟩
  case imul => simp [BitVec.ofNat_mul]
  case imad => simp [BitVec.ofNat_mul, BitVec.ofNat_add]
  case isad => simp [BitVec.ofInt_add, absDiff_eq_ofInt_abs]

end Sys2Proof.Machine
end

section
/-! Bit fields, counts, reversal and funnel shifts (R190, R191): the model's words bit by bit. -/

namespace Sys2Proof.Machine

open Sys2Proof

/-! Bit fields. -/

theorem bfxW_unsigned (a b : Word) :
    bfxW false a b = BitVec.ofNat 32 (a.toNat / 2 ^ (b.toNat % 256) % 2 ^ min (b.toNat / 256 % 256) 32) := by
  simp only [bfxW, Bool.false_and, Bool.false_eq_true, if_false]
  exact_mod_cast BitVec.ofInt_natCast ..

theorem toNat_setWidth_sshiftRight (a : Word) (pos : Nat) {len : Nat} (h : len ≤ 32) :
    (((a.sshiftRight pos).setWidth len).toNat : Int) = a.toInt / 2 ^ pos % 2 ^ len := by
  have hd : (2 : Int) ^ len ∣ 4294967296 := pow_dvd_pow 2 h
  rw [BitVec.toNat_setWidth, BitVec.sshiftRight, BitVec.toNat_ofInt, Int.shiftRight_eq_div_pow]
  push_cast
  rw [Int.toNat_of_nonneg (Int.emod_nonneg _ (by decide)), Int.emod_emod_of_dvd _ hd]

/-- The signed field is a shift by its position, a cut to its length and an extension by its sign. -/
theorem bfxW_signed (a b : Word) :
    bfxW true a b = ((a.sshiftRight (b.toNat % 256)).setWidth (min (b.toNat / 256 % 256) 32)).signExtend 32 := by
  have h := toNat_setWidth_sshiftRight a (b.toNat % 256) (Nat.min_le_right (b.toNat / 256 % 256) 32)
  simp only [bfxW, if_true, Bool.true_and, ← h]
  generalize min (b.toNat / 256 % 256) 32 = len
  rw [BitVec.signExtend, BitVec.toInt_eq_toNat_cond]
  generalize (a.sshiftRight (b.toNat % 256)).setWidth len = f
  congr 1
  cases len with
  | zero => simp [BitVec.of_length_zero]
  | succ n =>
    have hsign : (2 : Int) ^ n ≤ f.toNat ↔ ¬2 * f.toNat < 2 ^ (n + 1) := by
      rw [pow_succ]; zify; omega
    simp only [Nat.zero_lt_succ, decide_true, Bool.true_and, Nat.add_sub_cancel, decide_eq_true_eq, hsign, ite_not]
    push_cast
    rfl

theorem getLsbD_sshiftRight_min (a : Word) (pos : Nat) {i : Nat} (hi : i < 32) :
    (a.sshiftRight pos).getLsbD i = a.getLsbD (min (pos + i) 31) := by
  simp only [BitVec.getLsbD_sshiftRight, BitVec.msb_eq_getLsbD_last, Nat.not_le.2 hi, decide_false, Bool.not_false, Bool.true_and]
  by_cases h : pos + i < 32
  · rw [if_pos h, Nat.min_eq_left (by omega)]
  · rw [if_neg h, Nat.min_eq_right (by omega)]

theorem bfxW_signed_getLsbD (a b : Word) {i : Nat} (hi : i < 32) :
    let pos := b.toNat % 256
    let len := min (b.toNat / 256 % 256) 32
    (bfxW true a b).getLsbD i = if len = 0 then false else a.getLsbD (min (pos + min i (len - 1)) 31) := by
  intro pos len
  have hlen : len ≤ 32 := Nat.min_le_right ..
  have hbit : ∀ j, j < len → ((a.sshiftRight pos).setWidth len).getLsbD j = a.getLsbD (min (pos + j) 31) := fun j hj => by
    rw [BitVec.getLsbD_setWidth, getLsbD_sshiftRight_min a pos (by omega)]; simp [hj]
  rw [show bfxW true a b = ((a.sshiftRight pos).setWidth len).signExtend 32 from bfxW_signed a b, BitVec.getLsbD_signExtend,
    BitVec.msb_eq_getLsbD_last]
  by_cases h0 : len = 0
  · simp [h0, BitVec.getLsbD_of_ge]
  by_cases hil : i < len
  · rw [if_pos hil, hbit i hil, if_neg h0, Nat.min_eq_left (show i ≤ len - 1 by omega)]; simp [hi]
  · rw [if_neg hil, hbit (len - 1) (by omega), if_neg h0, Nat.min_eq_right (show len - 1 ≤ i by omega)]; simp [hi]

theorem bfiW_getLsbD (a b c : Word) {i : Nat} (hi : i < 32) :
    let pos := b.toNat % 256
    let len := min (b.toNat / 256 % 256) 32
    (bfiW a b c).getLsbD i = if pos ≤ i ∧ i < pos + len then a.getLsbD (i - pos) else c.getLsbD i := by
  intro pos len
  have hmask : (BitVec.ofNat 32 ((2 ^ len - 1) * 2 ^ pos)).getLsbD i = decide (pos ≤ i ∧ i < pos + len) := by
    rw [BitVec.getLsbD_ofNat, Nat.testBit_mul_two_pow, Nat.testBit_two_pow_sub_one, ← Bool.decide_and]
    simp only [hi, decide_true, Bool.true_and, decide_eq_decide]
    omega
  have hval : (BitVec.ofNat 32 (a.toNat * 2 ^ pos)).getLsbD i = (decide (pos ≤ i) && a.getLsbD (i - pos)) := by
    rw [BitVec.getLsbD_ofNat, Nat.testBit_mul_two_pow, BitVec.testBit_toNat]; simp [hi]
  change ((c &&& ~~~(BitVec.ofNat 32 ((2 ^ len - 1) * 2 ^ pos))) ||| _ &&& _).getLsbD i = _
  rw [BitVec.getLsbD_or, BitVec.getLsbD_and, BitVec.getLsbD_and, BitVec.getLsbD_not, hmask, hval]
  by_cases h : pos ≤ i ∧ i < pos + len
  · simp [hi, h]
  · simp [hi, h]

/-! Counts and reversal. -/

theorem length_filter_eq_sum (p : Nat → Bool) (l : List Nat) : (l.filter p).length = (l.map fun i => (p i).toNat).sum := by
  induction l with
  | nil => rfl
  | cons i l ih => cases h : p i <;> simp [h, ih, Nat.add_comm]

theorem popcW_eq_sum (a : Word) : popcW a = BitVec.ofNat 32 ((List.range 32).map fun i => (a.getLsbD i).toNat).sum := by
  rw [popcW, lanesOf, length_filter_eq_sum]

theorem clzW_spec (a : Word) : (clzW a).toNat ≤ 32 ∧ (∀ i, i < 32 → 32 ≤ i + (clzW a).toNat → a.getLsbD i = false) ∧
    ((clzW a).toNat < 32 → a.getLsbD (31 - (clzW a).toNat) = true) := by
  by_cases h : a = 0
  · simp [h, clzW]
  have hne : a.toNat ≠ 0 := by simpa [BitVec.toNat_eq] using h
  have hlog : Nat.log2 a.toNat < 32 := (Nat.log2_lt hne).2 a.isLt
  have hclz : (clzW a).toNat = 31 - Nat.log2 a.toNat := by rw [clzW, if_neg h, BitVec.toNat_ofNat, Nat.mod_eq_of_lt (by omega)]
  rw [hclz]
  refine ⟨by omega, fun i _ hge => ?_, fun _ => ?_⟩
  · have hlt : a.toNat < 2 ^ i := (Nat.log2_lt hne).1 (by omega)
    rw [← BitVec.testBit_toNat, Nat.testBit_lt_two_pow hlt]
  · rw [← BitVec.testBit_toNat, show 31 - (31 - Nat.log2 a.toNat) = Nat.log2 a.toNat by omega, Nat.testBit_log2 hne]

/-- The lowest lane of a mask that is not empty is in it, and no lane below is. -/
theorem lowLane_spec {m : LaneMask} (h : m ≠ 0#32) :
    lowLane m < 32 ∧ m.getLsbD (lowLane m) = true ∧ ∀ i, i < lowLane m → m.getLsbD i = false := by
  obtain ⟨l, hl⟩ : ∃ l, (lanesOf m).head? = some l := ⟨_, List.head?_eq_some_head (not_nil_of_mask h)⟩
  have hlow : lowLane m = l := by rw [lowLane, List.headD_eq_head?_getD, hl, Option.getD_some]
  rw [lanesOf, List.head?_filter, List.find?_range_eq_some] at hl
  obtain ⟨hset, hlt, hbelow⟩ := hl
  exact hlow ▸ ⟨List.mem_range.1 hlt, hset, fun i hi => by simpa using hbelow i hi⟩

theorem ctzW_spec (a : Word) : (ctzW a).toNat ≤ 32 ∧ (∀ i, i < (ctzW a).toNat → a.getLsbD i = false) ∧
    ((ctzW a).toNat < 32 → a.getLsbD (ctzW a).toNat = true) := by
  by_cases h : a = 0
  · simp [h, ctzW]
  obtain ⟨hlt, hset, hbelow⟩ := lowLane_spec h
  have hctz : (ctzW a).toNat = lowLane a := by rw [ctzW, if_neg h, BitVec.toNat_ofNat, Nat.mod_eq_of_lt (by omega)]
  rw [hctz]
  exact ⟨by omega, hbelow, fun _ => hset⟩

theorem brevW_getLsbD (a : Word) {i : Nat} (hi : i < 32) : (brevW a).getLsbD i = a.getLsbD (31 - i) := maskOf_getLsbD _ hi

/-! Funnel shifts. -/

theorem toNat_append_word (a b : Word) : (a ++ b : DWord).toNat = a.toNat * 2 ^ 32 + b.toNat := by
  rw [BitVec.toNat_append, ← Nat.shiftLeft_add_eq_or_of_lt b.isLt, Nat.shiftLeft_eq]

theorem shfLW_eq_ofNat (a b c : Word) :
    shfLW a b c = BitVec.ofNat 32 ((a.toNat * 2 ^ 32 + b.toNat) * 2 ^ min c.toNat 32 / 2 ^ 32) := by
  apply BitVec.eq_of_toNat_eq
  rw [shfLW, BitVec.extractLsb'_toNat, BitVec.toNat_shiftLeft, toNat_append_word, Nat.shiftLeft_eq, Nat.shiftRight_eq_div_pow,
    BitVec.toNat_ofNat]
  generalize (a.toNat * 2 ^ 32 + b.toNat) * 2 ^ min c.toNat 32 = n
  omega

theorem shfRW_eq_ofNat (a b c : Word) :
    shfRW a b c = BitVec.ofNat 32 ((a.toNat * 2 ^ 32 + b.toNat) / 2 ^ min c.toNat 32) := by
  apply BitVec.eq_of_toNat_eq
  rw [shfRW, BitVec.extractLsb'_toNat, BitVec.toNat_ushiftRight, toNat_append_word, Nat.shiftRight_zero, Nat.shiftRight_eq_div_pow,
    BitVec.toNat_ofNat]

/-- Settles O13: the completion of both forms, with the value of each word function from the lemmas above. -/
theorem bitFieldResults : Obligations.BitFieldResults := by
  unfold Obligations.BitFieldResults
  intro d a b c
  exact ⟨.of_eq (fun _ _ => rfl) fun _ => bfxW_unsigned ..,
    ⟨_, .of fun _ _ => rfl, fun r _ => bfxW_signed_getLsbD (r a.toNat) (r b.toNat)⟩,
    ⟨_, .of fun _ _ => rfl, fun r _ => bfiW_getLsbD (r a.toNat) (r b.toNat) (r c.toNat)⟩,
    .of_eq (fun _ _ => rfl) fun _ => popcW_eq_sum _,
    ⟨_, .of fun _ _ => rfl, fun r => clzW_spec (r a.toNat)⟩,
    ⟨_, .of fun _ _ => rfl, fun r => ctzW_spec (r a.toNat)⟩,
    ⟨_, .of fun _ _ => rfl, fun r _ => brevW_getLsbD (r a.toNat)⟩,
    .of_eq (fun _ _ => rfl) fun _ => shfLW_eq_ofNat ..,
    .of_eq (fun _ _ => rfl) fun _ => shfRW_eq_ofNat ..⟩

end Sys2Proof.Machine
end

section
/-! The floating-point comparisons (R193), with and without a NaN. -/

namespace Sys2Proof.Machine

open Sys2Proof

theorem fcmp_num {a b : Word} (ha : fp32.read a.toNat ≠ .nan) (hb : fp32.read b.toNat ≠ .nan) :
    let less (v w : Word) : Bool := (fp32.read v.toNat).lt false (fp32.read w.toNat)
    fcmp .eq a b = (!less a b && !less b a) ∧ fcmp .ne a b = (less a b || less b a) ∧ fcmp .lt a b = less a b ∧
      fcmp .le a b = !less b a ∧ fcmp .gt a b = less b a ∧ fcmp .ge a b = !less a b ∧ fcmp .ord a b = true ∧ fcmp .uno a b = false := by
  simp [fcmp, ha, hb]

/-- A comparison with a NaN is false but `ne` and `uno`. -/
theorem fcmp_nan {a b : Word} (h : ¬fp32.read a.toNat ≠ .nan ∨ ¬fp32.read b.toNat ≠ .nan) (c : FCond) :
    fcmp c a b = decide (c = .ne ∨ c = .uno) := by
  have hun : (decide (fp32.read a.toNat = .nan) || decide (fp32.read b.toNat = .nan)) = true := by simpa using h
  cases c <;> simp [fcmp, hun]

/-- Settles O15: every comparison issues as `FCMP.eq` and writes its condition of `fcmp`. -/
theorem floatCompareResults : Obligations.FloatCompareResults := by
  unfold Obligations.FloatCompareResults
  intro num less d a b
  exact ⟨fcmp .eq, fcmp .ne, fcmp .lt, fcmp .le, fcmp .gt, fcmp .ge, fcmp .ord, fcmp .uno,
    .of (fun _ _ h => h) (fun _ => rfl) rfl, .of (fun _ _ => ready_fcmpNe) (fun _ => rfl) rfl,
    .of (fun _ _ => ready_fcmpLt) (fun _ => rfl) rfl, .of (fun _ _ => ready_fcmpLe) (fun _ => rfl) rfl,
    .of (fun _ _ => ready_fcmpGt) (fun _ => rfl) rfl, .of (fun _ _ => ready_fcmpGe) (fun _ => rfl) rfl,
    .of (fun _ _ => ready_fcmpOrd) (fun _ => rfl) rfl, .of (fun _ _ => ready_fcmpUno) (fun _ => rfl) rfl,
    fun _ _ => fcmp_num, fun _ _ h => by simp [fcmp_nan h], by decide +kernel, by decide +kernel⟩

end Sys2Proof.Machine
end

section
/-! Exchanges, predicates over the group, and folds (R212 to R215). -/

namespace Sys2Proof.Machine

open Sys2Proof

/-! Writing a word, not only of a lane's own registers, to every lane of the group. -/

/-- An instruction that writes f to one register of the group's lanes completes. On a command processor, which has one such register, f must
not differ among the lanes. -/
theorem completes_writeLanes {i j : Instr} {s : State} {x : Issuer} {d : Nat} {f : Nat → Word} {fl : Word}
    {eff : Issuer → State → Effect} (hr : Ready j s x) (he : exec i s = issue j s eff)
    (hf : eff x s = x.finish s (x.w.writeLanes x.e d f) fl) (hcpu : x.w.cpu = true → ∀ l m, f l = f m)
    (ht : (s.descOf x.a).trapOf fl = none) :
    Completes i s x fun w => Passed x j.size w ∧ LaneRegs x d f w ∧ w.sticky = x.w.sticky ||| fl := by
  have hs := x.w.writeLanes_same x.e d f
  refine completes_as hr he hf hs ht fun w' hv hk hc hst hth => ⟨?_, ?_, by rw [hst, hs.sticky]⟩
  · exact passed_of (Wave.writeLanes_threads ..) hth
  · exact writeLanes_laneRegs hr.lead d f hcpu hv hk hc

theorem completes_writeLanes_quiet {i j : Instr} {s : State} {x : Issuer} {d : Nat} {f : Nat → Word}
    {eff : Issuer → State → Effect} (hr : Ready j s x) (he : exec i s = issue j s eff)
    (hf : eff x s = x.finish s (x.w.writeLanes x.e d f)) (hcpu : x.w.cpu = true → ∀ l m, f l = f m) :
    Completes i s x fun w => Passed x j.size w ∧ LaneRegs x d f w ∧ w.sticky = x.w.sticky := by
  simpa using completes_writeLanes hr he hf hcpu (KDesc.trapOf_zero _)

/-! Exchanges (R213). -/

/-- The value that an exchange gives lane l: register a of the source lane where that is a member, and its own where not (R213). -/
def Issuer.exchanged (x : Issuer) (a l : Nat) (q : Option Nat) : Word :=
  match q with
  | some m => if x.e.getLsbD m = true then x.w.vreg a m else x.w.vreg a l
  | none => x.w.vreg a l

theorem Issuer.exchanged_cpu {x : Issuer} (h : x.w.cpu = true) (a l : Nat) (q : Option Nat) : x.exchanged a l q = x.w.kreg a := by
  cases q <;> simp [exchanged, Wave.vreg, h]

theorem completes_lanex {i : Instr} {s : State} {x : Issuer} {d a b : Nat} {q : Nat → Nat → Option Nat} (hr : Ready i s x)
    (he : exec i s = issue i s (lanex d a b q)) :
    Completes i s x fun w =>
      Passed x i.size w ∧ LaneRegs x d (fun l => x.exchanged a l (q l ((x.w.vreg b l).toNat % 32))) w ∧ w.sticky = x.w.sticky :=
  completes_writeLanes_quiet hr he rfl fun hc l m => by simp only [Issuer.exchanged_cpu hc]

/-! Predicates over the group (R214). -/

theorem Issuer.lanes_all (x : Issuer) (p : Nat → Bool) : x.lanes.all p = (List.range 32).all fun l => !x.e.getLsbD l || p l :=
  List.all_filter

theorem Issuer.lanes_any (x : Issuer) (p : Nat → Bool) : x.lanes.any p = (List.range 32).any fun l => x.e.getLsbD l && p l :=
  List.any_filter

theorem completes_pcons {i : Instr} {s : State} {x : Issuer} {d : Nat} {f : Issuer → Bool} {v : Bool} (hr : Ready i s x)
    (he : exec i s = issue i s (pcons d f)) (hv : f x = v) :
    Completes i s x fun w => PassedPred x d i.size (fun _ => v) w ∧ SameRegs x.w w ∧ w.sticky = x.w.sticky :=
  hv ▸ completes_preds hr he rfl rfl

/-- Settles O24: the exchanges by the one lemma for `LANEX`, the predicates by that for `PCONS`, and the mask by its bits. -/
theorem crossLaneResults : Obligations.CrossLaneResults := by
  unfold Obligations.CrossLaneResults
  exact ⟨fun d a b s x =>
      ⟨fun hr => completes_lanex hr rfl, fun hr => completes_lanex hr rfl, fun hr => completes_lanex hr rfl,
        fun hr => completes_lanex hr rfl, fun hr => completes_lanex hr rfl⟩,
    fun d a s x =>
      ⟨fun hr => completes_pcons hr rfl (x.lanes_all _), fun hr => completes_pcons hr rfl (x.lanes_any _),
        fun hr => completes_pcons hr rfl (x.lanes_all _)⟩,
    fun d a s x hr =>
      ⟨maskOf fun l => x.e.getLsbD l && x.w.preg a.toNat l,
        completes_writeLanes_quiet (j := .pmask d a) hr rfl rfl fun _ _ _ => rfl, fun _ => maskOf_getLsbD _⟩⟩

/-! Folds (R215). -/

/-- The fold of register a over the lanes of the group: the value of the lowest lane, then the others in ascending order, with the sticky
bits that the steps raise (R215). -/
def Issuer.folded (x : Issuer) (a : Nat) (f : Word → Word → Word × Word) : Word × Word :=
  (x.lanes.tail.map (x.w.vreg a)).foldl (fun p y => ((f p.1 y).1, p.2 ||| (f p.1 y).2)) (x.w.vreg a x.low, 0)

theorem wfold_eq (d a : Nat) (f : Word → Word → Word × Word) (x : Issuer) (s : State) :
    wfold d a f x s = x.finish s (x.w.writeLanes x.e d fun _ => (x.folded a f).1) (x.folded a f).2 := by
  simp only [wfold, Issuer.folded, List.foldl_map, List.drop_one]

theorem foldl_quiet (f : Word → Word → Word) (ls : List Word) (v fl : Word) :
    ls.foldl (fun (p : Word × Word) y => (f p.1 y, p.2 ||| 0)) (v, fl) = (ls.foldl f v, fl) := by
  induction ls generalizing v with
  | nil => rfl
  | cons y ls ih => simpa using ih (f v y)

theorem Issuer.folded_quiet (x : Issuer) (a : Nat) (f : Word → Word → Word) :
    x.folded a (fun p q => (f p q, 0)) = ((x.lanes.tail.map (x.w.vreg a)).foldl f (x.w.vreg a x.low), 0) := foldl_quiet ..

theorem completes_wfold_flags {i : Instr} {s : State} {x : Issuer} {d a : BitVec 6} {f : Word → Word → Word × Word}
    (hr : Ready (.wfoldAddI32 d a) s x) (hu : Untrapped s x) (he : exec i s = issue (.wfoldAddI32 d a) s (wfold d.toNat a.toNat f)) :
    Completes i s x fun w =>
      Passed x 4 w ∧ LaneRegs x d.toNat (fun _ => (x.folded a.toNat f).1) w ∧ w.sticky = x.w.sticky ||| (x.folded a.toNat f).2 :=
  completes_writeLanes (j := .wfoldAddI32 d a) hr he (wfold_eq ..) (fun _ _ _ => rfl) (KDesc.trapOf_off hu.1 hu.2 _)

theorem completes_wfold {i : Instr} {s : State} {x : Issuer} {d a : BitVec 6} {f g : Word → Word → Word}
    (hr : Ready (.wfoldAddI32 d a) s x)
    (he : exec i s = issue (.wfoldAddI32 d a) s (wfold d.toNat a.toNat fun p q => (g p q, 0))) (hgf : ∀ p q, g p q = f p q) :
    Completes i s x fun w =>
      Passed x 4 w ∧ LaneRegs x d.toNat (fun _ => (x.lanes.tail.map (x.w.vreg a.toNat)).foldl f (x.w.vreg a.toNat x.low)) w ∧
        w.sticky = x.w.sticky := by
  obtain rfl : g = f := funext fun p => funext (hgf p)
  refine completes_writeLanes_quiet (j := .wfoldAddI32 d a) hr he ?_ fun _ _ _ => rfl
  rw [wfold_eq, Issuer.folded_quiet]

theorem minS_eq_ofInt (a b : Word) : minS a b = BitVec.ofInt 32 (min a.toInt b.toInt) := by
  unfold minS
  split
  · rw [min_eq_left ‹_›, BitVec.ofInt_toInt]
  · rw [min_eq_right (by omega), BitVec.ofInt_toInt]

theorem maxS_eq_ofInt (a b : Word) : maxS a b = BitVec.ofInt 32 (max a.toInt b.toInt) := by
  unfold maxS
  split
  · rw [max_eq_right ‹_›, BitVec.ofInt_toInt]
  · rw [max_eq_left (by omega), BitVec.ofInt_toInt]

theorem minU_eq_ofNat (a b : Word) : minU a b = BitVec.ofNat 32 (min a.toNat b.toNat) := by
  unfold minU
  split
  · rw [min_eq_left ‹_›, BitVec.ofNat_toNat, BitVec.setWidth_eq]
  · rw [min_eq_right (by omega), BitVec.ofNat_toNat, BitVec.setWidth_eq]

theorem maxU_eq_ofNat (a b : Word) : maxU a b = BitVec.ofNat 32 (max a.toNat b.toNat) := by
  unfold maxU
  split
  · rw [max_eq_right ‹_›, BitVec.ofNat_toNat, BitVec.setWidth_eq]
  · rw [max_eq_left (by omega), BitVec.ofNat_toNat, BitVec.setWidth_eq]

/-- Settles O25: every fold issues as `WFOLD.add.i32`; the integer ones raise no sticky bit, and the floating-point ones those of their
steps. -/
theorem foldResults : Obligations.FoldResults := by
  unfold Obligations.FoldResults
  intro d a s x
  exact ⟨fun hr => completes_wfold hr rfl fun _ _ => rfl,
    fun hr => completes_wfold (ready_wfoldMinI32 hr) rfl minS_eq_ofInt,
    fun hr => completes_wfold (ready_wfoldMaxI32 hr) rfl maxS_eq_ofInt,
    fun hr => completes_wfold (ready_wfoldMinN32 hr) rfl minU_eq_ofNat,
    fun hr => completes_wfold (ready_wfoldMaxN32 hr) rfl maxU_eq_ofNat,
    fun hr => completes_wfold (ready_wfoldAnd hr) rfl fun _ _ => rfl,
    fun hr => completes_wfold (ready_wfoldOr hr) rfl fun _ _ => rfl,
    fun hr => completes_wfold (ready_wfoldXor hr) rfl fun _ _ => rfl,
    fun hr hu => completes_wfold_flags (ready_wfoldAddF32 hr) hu rfl,
    fun hr hu => completes_wfold_flags (ready_wfoldMinF32 hr) hu rfl,
    fun hr hu => completes_wfold_flags (ready_wfoldMaxF32 hr) hu rfl⟩

end Sys2Proof.Machine
end

section
namespace Sys2Proof.Machine
open Sys2Proof

/-- Every constructor has its lemma. -/
theorem enc_statement (i : Instr) : Laws.Enc.Statement i :=
  match i with
    | .mov16 .. => Laws.Enc.mov16 _ _ | .movi16 .. => Laws.Enc.movi16 _ _ | .iadd16 .. => Laws.Enc.iadd16 _ _
    | .iaddi16 .. => Laws.Enc.iaddi16 _ _ | .isub16 .. => Laws.Enc.isub16 _ _ | .and16 .. => Laws.Enc.and16 _ _
    | .or16 .. => Laws.Enc.or16 _ _ | .xor16 .. => Laws.Enc.xor16 _ _ | .shli16 .. => Laws.Enc.shli16 _ _
    | .shri16 .. => Laws.Enc.shri16 _ _ | .sari16 .. => Laws.Enc.sari16 _ _ | .fadd16 .. => Laws.Enc.fadd16 _ _
    | .fsub16 .. => Laws.Enc.fsub16 _ _ | .fmul16 .. => Laws.Enc.fmul16 _ _ | .fmax16 .. => Laws.Enc.fmax16 _ _
    | .fmin16 .. => Laws.Enc.fmin16 _ _ | .iadd .. => Laws.Enc.iadd _ _ _ _ | .iaddSatI32 .. => Laws.Enc.iaddSatI32 _ _ _ _
    | .iaddSatN32 .. => Laws.Enc.iaddSatN32 _ _ _ _ | .iaddc .. => Laws.Enc.iaddc _ _ _ _ | .isub .. => Laws.Enc.isub _ _ _ _
    | .isubSatI32 .. => Laws.Enc.isubSatI32 _ _ _ _ | .isubSatN32 .. => Laws.Enc.isubSatN32 _ _ _ _ | .isubb .. => Laws.Enc.isubb _ _ _ _
    | .ineg .. => Laws.Enc.ineg _ _ _ | .inegSat .. => Laws.Enc.inegSat _ _ _ | .iabs .. => Laws.Enc.iabs _ _ _
    | .iabsSat .. => Laws.Enc.iabsSat _ _ _ | .iminI32 .. => Laws.Enc.iminI32 _ _ _ _ | .iminN32 .. => Laws.Enc.iminN32 _ _ _ _
    | .imaxI32 .. => Laws.Enc.imaxI32 _ _ _ _ | .imaxN32 .. => Laws.Enc.imaxN32 _ _ _ _ | .andI .. => Laws.Enc.andI _ _ _ _
    | .orI .. => Laws.Enc.orI _ _ _ _ | .xorI .. => Laws.Enc.xorI _ _ _ _ | .notI .. => Laws.Enc.notI _ _ _
    | .andn .. => Laws.Enc.andn _ _ _ _ | .shl .. => Laws.Enc.shl _ _ _ _ | .shr .. => Laws.Enc.shr _ _ _ _
    | .sar .. => Laws.Enc.sar _ _ _ _ | .rotl .. => Laws.Enc.rotl _ _ _ _ | .iadd64 .. => Laws.Enc.iadd64 _ _ _ _
    | .trilog .. => Laws.Enc.trilog _ _ _ _ _ _ _ _ | .iaddImm .. => Laws.Enc.iaddImm _ _ _ _ | .andImm .. => Laws.Enc.andImm _ _ _ _
    | .orImm .. => Laws.Enc.orImm _ _ _ _ | .xorImm .. => Laws.Enc.xorImm _ _ _ _ | .shlImm .. => Laws.Enc.shlImm _ _ _ _
    | .shrImm .. => Laws.Enc.shrImm _ _ _ _ | .sarImm .. => Laws.Enc.sarImm _ _ _ _ | .rotlImm .. => Laws.Enc.rotlImm _ _ _ _
    | .imul .. => Laws.Enc.imul _ _ _ _ | .imulhI32 .. => Laws.Enc.imulhI32 _ _ _ _ | .imulhN32 .. => Laws.Enc.imulhN32 _ _ _ _
    | .imad .. => Laws.Enc.imad _ _ _ _ _ | .imadwI32 .. => Laws.Enc.imadwI32 _ _ _ _ _ | .imadwN32 .. => Laws.Enc.imadwN32 _ _ _ _ _
    | .isad .. => Laws.Enc.isad _ _ _ _ _ | .bfxN32 .. => Laws.Enc.bfxN32 _ _ _ _ | .bfxI32 .. => Laws.Enc.bfxI32 _ _ _ _
    | .bfi .. => Laws.Enc.bfi _ _ _ _ _ | .popc .. => Laws.Enc.popc _ _ _ | .clz .. => Laws.Enc.clz _ _ _ | .ctz .. => Laws.Enc.ctz _ _ _
    | .brev .. => Laws.Enc.brev _ _ _ | .shfL .. => Laws.Enc.shfL _ _ _ _ _ | .shfR .. => Laws.Enc.shfR _ _ _ _ _
    | .icmpEqI32 .. => Laws.Enc.icmpEqI32 _ _ _ | .fcmpEq .. => Laws.Enc.fcmpEq _ _ _ | .plogAnd .. => Laws.Enc.plogAnd _ _ _
    | .plogOr .. => Laws.Enc.plogOr _ _ _ | .plogXor .. => Laws.Enc.plogXor _ _ _ | .plogAndn .. => Laws.Enc.plogAndn _ _ _
    | .plogOrn .. => Laws.Enc.plogOrn _ _ _ | .plogXnor .. => Laws.Enc.plogXnor _ _ _ | .sel .. => Laws.Enc.sel _ _ _ _
    | .fadd .. => Laws.Enc.fadd _ _ _ _ _ | .fsub .. => Laws.Enc.fsub _ _ _ _ _ | .fmul .. => Laws.Enc.fmul _ _ _ _ _
    | .ffmaRn .. => Laws.Enc.ffmaRn _ _ _ _ _ | .ffmaRz .. => Laws.Enc.ffmaRz _ _ _ _ _ | .ffmaRu .. => Laws.Enc.ffmaRu _ _ _ _ _
    | .ffmaRd .. => Laws.Enc.ffmaRd _ _ _ _ _ | .fmin .. => Laws.Enc.fmin _ _ _ _ | .fmax .. => Laws.Enc.fmax _ _ _ _
    | .frnd .. => Laws.Enc.frnd _ _ _ _ | .fclass .. => Laws.Enc.fclass _ _ | .fscale .. => Laws.Enc.fscale _ _ _ _ _
    | .frcp .. => Laws.Enc.frcp _ _ _ | .frsq .. => Laws.Enc.frsq _ _ _ | .fsqrt .. => Laws.Enc.fsqrt _ _ _
    | .fex2 .. => Laws.Enc.fex2 _ _ _ | .flg2 .. => Laws.Enc.flg2 _ _ _ | .fsin .. => Laws.Enc.fsin _ _ _ | .fcos .. => Laws.Enc.fcos _ _ _
    | .ftanh .. => Laws.Enc.ftanh _ _ _ | .f2iI8 .. => Laws.Enc.f2iI8 _ _ _ | .i2fI8 .. => Laws.Enc.i2fI8 _ _ _
    | .i2iI8 .. => Laws.Enc.i2iI8 _ _ _ _ | .i2iI16 .. => Laws.Enc.i2iI16 _ _ _ _ | .i2iI32 .. => Laws.Enc.i2iI32 _ _ _ _
    | .i2iN8 .. => Laws.Enc.i2iN8 _ _ _ _ | .i2iN16 .. => Laws.Enc.i2iN16 _ _ _ _ | .i2iN32 .. => Laws.Enc.i2iN32 _ _ _ _
    | .fcvtBf16 .. => Laws.Enc.fcvtBf16 _ _ _ | .fcvtF16 .. => Laws.Enc.fcvtF16 _ _ _ | .fcvtE4m3 .. => Laws.Enc.fcvtE4m3 _ _ _
    | .fcvtE5m2 .. => Laws.Enc.fcvtE5m2 _ _ _ | .fcvtE2m1 .. => Laws.Enc.fcvtE2m1 _ _ _ | .fcvtSrBf16 .. => Laws.Enc.fcvtSrBf16 _ _ _
    | .fcvtSrF16 .. => Laws.Enc.fcvtSrF16 _ _ _ | .fcvtSrE4m3 .. => Laws.Enc.fcvtSrE4m3 _ _ _ | .fcvtSrE5m2 .. => Laws.Enc.fcvtSrE5m2 _ _ _
    | .fcvtSrE2m1 .. => Laws.Enc.fcvtSrE2m1 _ _ _ | .fpkBf16 .. => Laws.Enc.fpkBf16 _ _ | .fpkF16 .. => Laws.Enc.fpkF16 _ _
    | .fpkE4m3 .. => Laws.Enc.fpkE4m3 _ _ | .fpkE5m2 .. => Laws.Enc.fpkE5m2 _ _ | .fpkSrBf16 .. => Laws.Enc.fpkSrBf16 _ _ _
    | .fpkSrF16 .. => Laws.Enc.fpkSrF16 _ _ _ | .fpkSrE4m3 .. => Laws.Enc.fpkSrE4m3 _ _ _ | .fpkSrE5m2 .. => Laws.Enc.fpkSrE5m2 _ _ _
    | .funpkBf16 .. => Laws.Enc.funpkBf16 _ _ _ | .funpkF16 .. => Laws.Enc.funpkF16 _ _ _ | .funpkE4m3 .. => Laws.Enc.funpkE4m3 _ _ _
    | .funpkE5m2 .. => Laws.Enc.funpkE5m2 _ _ _ | .funpkE2m1 .. => Laws.Enc.funpkE2m1 _ _ _ | .dot4i8 .. => Laws.Enc.dot4i8 _ _ _ _
    | .dot4i8Sat .. => Laws.Enc.dot4i8Sat _ _ _ _ | .dot8i4 .. => Laws.Enc.dot8i4 _ _ _ _ | .dot8i4Sat .. => Laws.Enc.dot8i4Sat _ _ _ _
    | .dot4f8E4m3 .. => Laws.Enc.dot4f8E4m3 _ _ _ _ | .dot4f8E5m2 .. => Laws.Enc.dot4f8E5m2 _ _ _ _
    | .hfma2Bf16 .. => Laws.Enc.hfma2Bf16 _ _ _ _ | .hfma2F16 .. => Laws.Enc.hfma2F16 _ _ _ _ | .hadd2Bf16 .. => Laws.Enc.hadd2Bf16 _ _ _
    | .hadd2F16 .. => Laws.Enc.hadd2F16 _ _ _ | .hmul2Bf16 .. => Laws.Enc.hmul2Bf16 _ _ _ | .hmul2F16 .. => Laws.Enc.hmul2F16 _ _ _
    | .hmax2Bf16 .. => Laws.Enc.hmax2Bf16 _ _ _ | .hmax2F16 .. => Laws.Enc.hmax2F16 _ _ _ | .mov .. => Laws.Enc.mov _ _
    | .movi .. => Laws.Enc.movi _ _ | .movih .. => Laws.Enc.movih _ _ | .movkVK .. => Laws.Enc.movkVK _ _
    | .movkKV .. => Laws.Enc.movkKV _ _ | .movkKS .. => Laws.Enc.movkKS _ _ | .movkSK .. => Laws.Enc.movkSK _ _
    | .movs .. => Laws.Enc.movs _ _ _ | .moviK .. => Laws.Enc.moviK _ _ | .movihK .. => Laws.Enc.movihK _ _
    | .lanexPick .. => Laws.Enc.lanexPick _ _ _ | .lanexLo .. => Laws.Enc.lanexLo _ _ _ | .lanexHi .. => Laws.Enc.lanexHi _ _ _
    | .lanexFlip .. => Laws.Enc.lanexFlip _ _ _ | .lanexRot .. => Laws.Enc.lanexRot _ _ _ | .pconsAll .. => Laws.Enc.pconsAll _ _
    | .pconsSome .. => Laws.Enc.pconsSome _ _ | .pconsSame .. => Laws.Enc.pconsSame _ _ | .pmask .. => Laws.Enc.pmask _ _
    | .wfoldAddI32 .. => Laws.Enc.wfoldAddI32 _ _ | .bra .. => Laws.Enc.bra _ | .br .. => Laws.Enc.br _ _ _ _
    | .brk .. => Laws.Enc.brk _ _ _ _ | .jmpt .. => Laws.Enc.jmpt _ _ _ | .call .. => Laws.Enc.call _ | .callt .. => Laws.Enc.callt _ _ _
    | .joinI .. => Laws.Enc.joinI _ | .trap .. => Laws.Enc.trap _ | .breakI .. => Laws.Enc.breakI _ | .ld .. => Laws.Enc.ld _ _ _ _ _ _
    | .ldLast .. => Laws.Enc.ldLast _ _ _ _ _ | .pref .. => Laws.Enc.pref _ _ _ | .st .. => Laws.Enc.st _ _ _ _ _
    | .ldk .. => Laws.Enc.ldk _ _ _ _ _ _ | .stk .. => Laws.Enc.stk _ _ _ _ _ | .spop .. => Laws.Enc.spop _ | .spush .. => Laws.Enc.spush _
    | .ldl .. => Laws.Enc.ldl _ _ _ _ _ _ | .stl .. => Laws.Enc.stl _ _ _ _ _ | .atom .. => Laws.Enc.atom _ _ _ _ _
    | .red .. => Laws.Enc.red _ _ _ _ | .atoml .. => Laws.Enc.atoml _ _ _ _ _ | .redl .. => Laws.Enc.redl _ _ _ _
    | .fence .. => Laws.Enc.fence _ | .bar .. => Laws.Enc.bar _ | .barx .. => Laws.Enc.barx _ _ _ | .semwait .. => Laws.Enc.semwait _ _ _
    | .semsig .. => Laws.Enc.semsig _ _ _ | .semtk .. => Laws.Enc.semtk _ _ _ _ | .semrd .. => Laws.Enc.semrd _ _ _ _
    | .bcopy .. => Laws.Enc.bcopy _ _ _ | .bcopyt .. => Laws.Enc.bcopyt _ _ _ _ | .bcopyo .. => Laws.Enc.bcopyo _ _ _ _
    | .tdef .. => Laws.Enc.tdef _ _ _ | .trel .. => Laws.Enc.trel _ _ | .tstate .. => Laws.Enc.tstate _ _ _
    | .gang .. => Laws.Enc.gang _ _ _ _ | .mma .. => Laws.Enc.mma _ _ _ _ _ _ _ _ _ | .mmaX .. => Laws.Enc.mmaX _ _ _ _ _ _ _ _ _
    | .mmaq .. => Laws.Enc.mmaq _ _ _ _ _ _ _ _ _ | .zclr .. => Laws.Enc.zclr _ _ _ | .zld .. => Laws.Enc.zld _ _ _ _
    | .zst .. => Laws.Enc.zst _ _ _ _ | .zepi .. => Laws.Enc.zepi _ _ _ _ _ _ | .zepiRoute .. => Laws.Enc.zepiRoute _ _ _ _ _ _ _
    | .zmovToV .. => Laws.Enc.zmovToV _ _ _ _ _ | .zmovToZ .. => Laws.Enc.zmovToZ _ _ _ _ _ | .rowact .. => Laws.Enc.rowact _ _ _ _ _ _
    | .rowcon .. => Laws.Enc.rowcon _ _ _ _ _ _ | .rowput .. => Laws.Enc.rowput _ _ _ _ _ _ | .rowpre .. => Laws.Enc.rowpre _ _ _ _
    | .rowq .. => Laws.Enc.rowq _ _ _ | .cpost .. => Laws.Enc.cpost _ _ _ _ | .cctr .. => Laws.Enc.cctr _ _ _ _
    | .cctrSet .. => Laws.Enc.cctrSet _ _ _ | .cwait .. => Laws.Enc.cwait _ _ _ | .eroute .. => Laws.Enc.eroute _ _ _
    | .launch .. => Laws.Enc.launch _ _ _ _ | .gwait .. => Laws.Enc.gwait _ _ _ | .qlaunch .. => Laws.Enc.qlaunch _ _ _
    | .qcopy .. => Laws.Enc.qcopy _ _ _ | .qsemw .. => Laws.Enc.qsemw _ _ _ _ | .qsems .. => Laws.Enc.qsems _ _ _ _
    | .qirq .. => Laws.Enc.qirq _ _ _ | .qswap .. => Laws.Enc.qswap _ _ | .phase .. => Laws.Enc.phase _ | .perf .. => Laws.Enc.perf _
    | .tokq .. => Laws.Enc.tokq _ _ _ | .capq .. => Laws.Enc.capq _ _ | .timeRef .. => Laws.Enc.timeRef _ _
    | .timeCyc .. => Laws.Enc.timeCyc _ _ | .rng .. => Laws.Enc.rng _ _ _ _ | .mfsr .. => Laws.Enc.mfsr _ _ | .mtsr .. => Laws.Enc.mtsr _ _
    | .ctxfl .. => Laws.Enc.ctxfl _ _ _ | .tlbiCtx .. => Laws.Enc.tlbiCtx _ | .tlbiPage .. => Laws.Enc.tlbiPage _
    | .park .. => Laws.Enc.park _ _ | .unpark .. => Laws.Enc.unpark _ _ _ | .haltc .. => Laws.Enc.haltc _
    | .icmpNeI32 .. => Laws.Enc.icmpNeI32 _ _ _ | .icmpLtI32 .. => Laws.Enc.icmpLtI32 _ _ _ | .icmpLeI32 .. => Laws.Enc.icmpLeI32 _ _ _
    | .icmpGtI32 .. => Laws.Enc.icmpGtI32 _ _ _ | .icmpGeI32 .. => Laws.Enc.icmpGeI32 _ _ _ | .icmpEqN32 .. => Laws.Enc.icmpEqN32 _ _ _
    | .icmpNeN32 .. => Laws.Enc.icmpNeN32 _ _ _ | .icmpLtN32 .. => Laws.Enc.icmpLtN32 _ _ _ | .icmpLeN32 .. => Laws.Enc.icmpLeN32 _ _ _
    | .icmpGtN32 .. => Laws.Enc.icmpGtN32 _ _ _ | .icmpGeN32 .. => Laws.Enc.icmpGeN32 _ _ _ | .fcmpNe .. => Laws.Enc.fcmpNe _ _ _
    | .fcmpLt .. => Laws.Enc.fcmpLt _ _ _ | .fcmpLe .. => Laws.Enc.fcmpLe _ _ _ | .fcmpGt .. => Laws.Enc.fcmpGt _ _ _
    | .fcmpGe .. => Laws.Enc.fcmpGe _ _ _ | .fcmpOrd .. => Laws.Enc.fcmpOrd _ _ _ | .fcmpUno .. => Laws.Enc.fcmpUno _ _ _
    | .f2iI16 .. => Laws.Enc.f2iI16 _ _ _ | .f2iI32 .. => Laws.Enc.f2iI32 _ _ _ | .f2iN8 .. => Laws.Enc.f2iN8 _ _ _
    | .f2iN16 .. => Laws.Enc.f2iN16 _ _ _ | .f2iN32 .. => Laws.Enc.f2iN32 _ _ _ | .i2fI16 .. => Laws.Enc.i2fI16 _ _ _
    | .i2fI32 .. => Laws.Enc.i2fI32 _ _ _ | .i2fN8 .. => Laws.Enc.i2fN8 _ _ _ | .i2fN16 .. => Laws.Enc.i2fN16 _ _ _
    | .i2fN32 .. => Laws.Enc.i2fN32 _ _ _ | .wfoldMinI32 .. => Laws.Enc.wfoldMinI32 _ _ | .wfoldMaxI32 .. => Laws.Enc.wfoldMaxI32 _ _
    | .wfoldMinN32 .. => Laws.Enc.wfoldMinN32 _ _ | .wfoldMaxN32 .. => Laws.Enc.wfoldMaxN32 _ _ | .wfoldAnd .. => Laws.Enc.wfoldAnd _ _
    | .wfoldOr .. => Laws.Enc.wfoldOr _ _ | .wfoldXor .. => Laws.Enc.wfoldXor _ _ | .wfoldAddF32 .. => Laws.Enc.wfoldAddF32 _ _
    | .wfoldMinF32 .. => Laws.Enc.wfoldMinF32 _ _ | .wfoldMaxF32 .. => Laws.Enc.wfoldMaxF32 _ _
    | .barrierAddition .. => Laws.Enc.barrierAddition _ _ | .launchCompletion .. => Laws.Enc.launchCompletion _
    | .registerMiss .. => Laws.Enc.registerMiss _ | .registerLineFill .. => Laws.Enc.registerLineFill _ _
    | .waveActivation .. => Laws.Enc.waveActivation _ | .wavePendingEntry .. => Laws.Enc.wavePendingEntry _
    | .flagWaitDemotion .. => Laws.Enc.flagWaitDemotion _ | .waveHang .. => Laws.Enc.waveHang _
    | .loadCompletion .. => Laws.Enc.loadCompletion _ | .releasePromotion .. => Laws.Enc.releasePromotion _
    | .engineTransferCompletion .. => Laws.Enc.engineTransferCompletion _ | .tileFillCompletion .. => Laws.Enc.tileFillCompletion _
    | .tileDrainCompletion .. => Laws.Enc.tileDrainCompletion _ | .mmaCompletion .. => Laws.Enc.mmaCompletion _
    | .enginePageFault .. => Laws.Enc.enginePageFault _ | .engineTransferStop .. => Laws.Enc.engineTransferStop _
    | .rowSensed .. => Laws.Enc.rowSensed _ | .leaseExpiry .. => Laws.Enc.leaseExpiry _ _
    | .rowputCompletion .. => Laws.Enc.rowputCompletion _ | .entrySourceRead .. => Laws.Enc.entrySourceRead _ _ _
    | .collectiveDelivery .. => Laws.Enc.collectiveDelivery _ | .orderedContribution .. => Laws.Enc.orderedContribution _
    | .queueLaunchStart .. => Laws.Enc.queueLaunchStart _ _ | .queueCopyStart .. => Laws.Enc.queueCopyStart _ _
    | .queueSemwaitStart .. => Laws.Enc.queueSemwaitStart _ _ | .queueSemsigStart .. => Laws.Enc.queueSemsigStart _ _
    | .queueIrqStart .. => Laws.Enc.queueIrqStart _ _ | .batchDispatch .. => Laws.Enc.batchDispatch _
    | .teamPlacement .. => Laws.Enc.teamPlacement _ | .batchReturn .. => Laws.Enc.batchReturn _
    | .haltComplete .. => Laws.Enc.haltComplete _ | .swapExchange .. => Laws.Enc.swapExchange _ | .swapRestore .. => Laws.Enc.swapRestore _
    | .vacateCluster .. => Laws.Enc.vacateCluster _ _ _ | .teamMove .. => Laws.Enc.teamMove _
    | .preemptTimeout .. => Laws.Enc.preemptTimeout _ | .coreGate .. => Laws.Enc.coreGate _ | .coreWake .. => Laws.Enc.coreWake _
    | .ratioVote .. => Laws.Enc.ratioVote _ | .droopTrip .. => Laws.Enc.droopTrip _ _ | .droopIssueEnd .. => Laws.Enc.droopIssueEnd _
    | .coreRefill .. => Laws.Enc.coreRefill _ | .dieRefill .. => Laws.Enc.dieRefill _ | .packageRefill .. => Laws.Enc.packageRefill _
    | .governorStep .. => Laws.Enc.governorStep _ _ _ | .heatUpdate .. => Laws.Enc.heatUpdate _ _
    | .powerIntentSend .. => Laws.Enc.powerIntentSend _ | .powerIntentReceive .. => Laws.Enc.powerIntentReceive _ _
    | .probeToken .. => Laws.Enc.probeToken _ _ | .probePass .. => Laws.Enc.probePass _ _ | .flitForward .. => Laws.Enc.flitForward _
    | .inboundRequest .. => Laws.Enc.inboundRequest _ | .remoteNack .. => Laws.Enc.remoteNack _ _
    | .remoteTimeout .. => Laws.Enc.remoteTimeout _ _ _ | .hostMemAccess .. => Laws.Enc.hostMemAccess _
    | .eventRecord .. => Laws.Enc.eventRecord _ | .eventRingGet .. => Laws.Enc.eventRingGet _ _
    | .faultRingGet .. => Laws.Enc.faultRingGet _ _ | .pfackRetry .. => Laws.Enc.pfackRetry _ | .cpStart .. => Laws.Enc.cpStart _
    | .swapreq .. => Laws.Enc.swapreq _ _ | .llcWayGate .. => Laws.Enc.llcWayGate _
    | .attestationComplete .. => Laws.Enc.attestationComplete _ _ | .storageError .. => Laws.Enc.storageError _ _
    | .readClear .. => Laws.Enc.readClear _ _ | .registerWrite .. => Laws.Enc.registerWrite _ _ _ _ | .powerGood .. => Laws.Enc.powerGood _
    | .straitPortDown .. => Laws.Enc.straitPortDown _ | .privilegedCompletion .. => Laws.Enc.privilegedCompletion _
    | .llcWayDark .. => Laws.Enc.llcWayDark _ _ | .msiXUnmask .. => Laws.Enc.msiXUnmask _ _ | .ret => Laws.Enc.ret
    | .exitI => Laws.Enc.exitI | .nop => Laws.Enc.nop | .yieldI => Laws.Enc.yieldI | .eret => Laws.Enc.eret
    | .clauseStart => Laws.Enc.clauseStart | .asyncCauseDelivery => Laws.Enc.asyncCauseDelivery | .cgateClear => Laws.Enc.cgateClear
    | .attestationStart => Laws.Enc.attestationStart | .reservedEncoding => Laws.Enc.reservedEncoding
    | .capacitorReserveExhausted => Laws.Enc.capacitorReserveExhausted | .powerLoss => Laws.Enc.powerLoss

/-- Settles O2: one case for each constructor, by its lemma of the family `Enc`. -/
theorem encodingRoundTrip : Obligations.EncodingRoundTrip := by
  unfold Obligations.EncodingRoundTrip
  exact fun i bs rest hw => enc_statement i hw bs rest

/-- Settles O6: a machine right after reset has no team, and its command processors have no group and no running thread. -/
theorem resetGroups : Obligations.ResetGroups := by
  unfold Obligations.ResetGroups
  refine ⟨fun p hp => (nomatch hp), fun c hc => ?_⟩
  obtain rfl := List.eq_of_mem_replicate hc
  exact ⟨fun g hg => (nomatch hg), by decide, List.Pairwise.nil⟩

end Sys2Proof.Machine
end

section
/-! Integer, logic and compare instructions (R186 to R188, R192): the model's words by integer arithmetic. -/
namespace Sys2Proof.Machine
open Sys2Proof

theorem LaneResult.of_eq {i : Instr} {d : Nat} {f g : Reader → Word} (h : ∀ s, exec i s = issue i s (laneOp d fun r => (g r, 0)))
    (hgf : ∀ r, g r = f r) : LaneResult i d f :=
  funext hgf ▸ LaneResult.of h

theorem BothFlags.of_eq {i : BitVec 1 → Instr} {d : Nat} {f g : Reader → Word} {c : Reader → Word × Word}
    (h : ∀ u s, exec (i u) s = issue (i u) s (arith u d c)) (hf : ∀ r, c r = (f r, g r)) : BothFlags i d f g := by
  obtain rfl : c = fun r => (f r, g r) := funext hf
  exact BothFlags.of h

theorem add_signExtend_eq_ofInt {n : Nat} (a : Word) (b : BitVec n) : a + b.signExtend 32 = BitVec.ofInt 32 (a.toInt + b.toInt) := by
  rw [BitVec.ofInt_add, BitVec.ofInt_toInt, BitVec.signExtend]

theorem shlW_eq_ofNat (a b : Word) : shlW a b = BitVec.ofNat 32 (a.toNat * 2 ^ b.toNat) := by
  unfold shlW
  apply BitVec.eq_of_toNat_eq
  split
  · next h =>
    have hd : 2 ^ 32 ∣ a.toNat * 2 ^ b.toNat := (pow_dvd_pow 2 h).mul_left _
    rw [BitVec.toNat_ofNat, Nat.mod_eq_zero_of_dvd hd]; rfl
  · rw [BitVec.toNat_shiftLeft, Nat.shiftLeft_eq, BitVec.toNat_ofNat]

theorem shrW_eq_ofNat (a b : Word) : shrW a b = BitVec.ofNat 32 (a.toNat / 2 ^ b.toNat) := by
  unfold shrW
  apply BitVec.eq_of_toNat_eq
  rw [BitVec.toNat_ofNat, Nat.mod_eq_of_lt ((Nat.div_le_self ..).trans_lt a.isLt)]
  split
  · next h => rw [Nat.div_eq_of_lt (a.isLt.trans_le (Nat.pow_le_pow_right (by decide) h))]; rfl
  · rw [BitVec.toNat_ushiftRight, Nat.shiftRight_eq_div_pow]

theorem sarW_eq_ofInt (a b : Word) : sarW a b = BitVec.ofInt 32 (a.toInt / 2 ^ min b.toNat 31) := by
  rw [sarW, BitVec.sshiftRight, Int.shiftRight_eq_div_pow]; norm_cast

theorem toNat_shift {n : BitVec 5} : (n.setWidth 32).toNat = n.toNat := by
  rw [BitVec.toNat_setWidth, Nat.mod_eq_of_lt (by omega)]

theorem sarW_short (a : Word) (n : BitVec 5) : sarW a (n.setWidth 32) = BitVec.ofInt 32 (a.toInt / 2 ^ n.toNat) := by
  rw [sarW_eq_ofInt, toNat_shift, Nat.min_eq_left (by omega)]

/-- Settles O8: each form is the lane form with d as its first source. -/
theorem shortIntegerResults : Obligations.ShortIntegerResults := by
  unfold Obligations.ShortIntegerResults
  refine ⟨fun d b => ⟨.of fun _ => rfl, .of_eq (fun _ => rfl) fun _ => rfl, .of fun _ => rfl, .of_eq (fun _ => rfl) fun _ =>
      add_signExtend_eq_ofInt .., .of fun _ => rfl, .of fun _ => rfl, .of fun _ => rfl, .of fun _ => rfl⟩,
    fun d n => ⟨.of_eq (fun _ => rfl) fun r => ?shl, .of_eq (fun _ => rfl) fun r => ?shr, .of_eq (fun _ => rfl) fun _ => sarW_short ..⟩⟩
  case shl => rw [shlW_eq_ofNat, toNat_shift]
  case shr => rw [shrW_eq_ofNat, toNat_shift]

/-! Sums. -/

theorem neg_eq_ofInt (a : Word) : -a = BitVec.ofInt 32 (-a.toInt) := by simp [BitVec.ofInt_neg]

theorem sub_eq_ofInt (a b : Word) : a - b = BitVec.ofInt 32 ((a.toNat : Int) - b.toNat) := by
  simp [Int.sub_eq_add_neg, BitVec.ofInt_add, BitVec.ofInt_neg, BitVec.sub_eq_add_neg]

theorem abs_eq_ofInt (a : Word) : (if a.toInt < 0 then -a else a) = BitVec.ofInt 32 |a.toInt| := by
  split
  · rw [abs_of_neg ‹_›, neg_eq_ofInt]
  · rw [abs_of_nonneg (by omega), BitVec.ofInt_toInt]

/-- Settles O9: each sum is the exact one modulo its width. -/
theorem sumResults : Obligations.SumResults := by
  unfold Obligations.SumResults
  refine ⟨fun d a b => ⟨.of_eq (fun _ _ => rfl) fun r => ?iadd, .of fun _ _ => rfl, .of_eq (fun _ _ => rfl) fun _ => sub_eq_ofInt ..,
      .of fun _ _ => rfl, .of_eq (fun _ _ => rfl) fun _ => neg_eq_ofInt _, .of_eq (fun _ _ => rfl) fun _ => abs_eq_ofInt _,
      .of_eq (fun _ _ => rfl) fun r => ?iadd64⟩,
    fun d a n => .of_eq (fun _ _ => rfl) fun _ => add_signExtend_eq_ofInt ..⟩
  case iadd => simp [BitVec.ofNat_add]
  case iadd64 => simp [BitVec.ofNat_add]

/-! Saturation (R80). -/

theorem clampInt_eq (x : Int) {lo hi : Int} (h : lo ≤ hi) :
    clampInt x lo hi = (max lo (min hi x), if lo ≤ x ∧ x < hi + 1 then 0 else fIS) := by
  unfold clampInt
  split
  · rw [max_eq_left (by omega), if_neg (by omega)]
  split
  · rw [min_eq_left (by omega), max_eq_right h, if_neg (by omega)]
  · rw [min_eq_right (by omega), max_eq_right (by omega), if_pos (by omega)]

theorem satI32_eq (x : Int) :
    satI32 x = (BitVec.ofInt 32 (max (-2 ^ 31) (min (2 ^ 31 - 1) x)), if -2 ^ 31 ≤ x ∧ x < 2 ^ 31 then 0 else fIS) := by
  rw [satI32, clampInt_eq x (by decide)]; rfl

theorem satN32_eq (x : Int) :
    satN32 x = (BitVec.ofInt 32 (max 0 (min (2 ^ 32 - 1) x)), if 0 ≤ x ∧ x < 2 ^ 32 then 0 else fIS) := by
  rw [satN32, clampInt_eq x (by decide)]; rfl

/-- Settles O10: the saturating forms clamp the exact result, signed or unsigned. -/
theorem saturatingResults : Obligations.SaturatingResults := by
  unfold Obligations.SaturatingResults
  intro clampS clampU setS setU d a b
  refine ⟨.of_eq (fun _ _ => rfl) fun _ => satI32_eq _, .of_eq (fun _ _ => rfl) fun _ => satN32_eq _,
    .of_eq (fun _ _ => rfl) fun _ => satI32_eq _, .of_eq (fun _ _ => rfl) fun _ => satN32_eq _,
    .of_eq (fun _ _ => rfl) fun _ => satI32_eq _, .of_eq (fun _ _ => rfl) fun r => ?iabs⟩
  rw [Int.natCast_natAbs]; exact satI32_eq _

/-! Logic. -/

theorem trilogW_getLsbD (t : BitVec 8) (a b d : Word) {i : Nat} (hi : i < 32) :
    (trilogW t a b d).getLsbD i = t.getLsbD ((a.getLsbD i).toNat + 2 * (b.getLsbD i).toNat + 4 * (d.getLsbD i).toNat) := by
  rw [trilogW, maskOf_getLsbD _ hi]
  cases a.getLsbD i <;> cases b.getLsbD i <;> cases d.getLsbD i <;> rfl

/-- Settles O11: the words of minima, shifts and `TRILOG` from the lemmas above, the bitwise forms as they stand. -/
theorem logicResults : Obligations.LogicResults := by
  unfold Obligations.LogicResults
  refine ⟨fun d a b => ⟨.of_eq (fun _ _ => rfl) fun _ => minS_eq_ofInt .., .of_eq (fun _ _ => rfl) fun _ => maxS_eq_ofInt ..,
      .of_eq (fun _ _ => rfl) fun _ => minU_eq_ofNat .., .of_eq (fun _ _ => rfl) fun _ => maxU_eq_ofNat .., .of fun _ _ => rfl,
      .of fun _ _ => rfl, .of fun _ _ => rfl, .of fun _ _ => rfl, .of fun _ _ => rfl, .of_eq (fun _ _ => rfl) fun _ => shlW_eq_ofNat ..,
      .of_eq (fun _ _ => rfl) fun _ => shrW_eq_ofNat .., .of_eq (fun _ _ => rfl) fun _ => sarW_eq_ofInt .., .of fun _ _ => rfl⟩,
    fun d a n => ⟨.of fun _ _ => rfl, .of fun _ _ => rfl, .of fun _ _ => rfl⟩,
    fun d a n => ⟨.of_eq (fun _ _ => rfl) fun r => ?shl, .of_eq (fun _ _ => rfl) fun r => ?shr,
      .of_eq (fun _ _ => rfl) fun _ => sarW_short .., .of_eq (fun _ _ => rfl) fun r => ?rotl⟩,
    fun z y x w d a b t => ⟨_, .of fun _ => rfl, fun r _ => trilogW_getLsbD (w ++ x ++ y ++ z ++ t) (r a.toNat) (r b.toNat) (r d.toNat)⟩⟩
  case shl => rw [shlW_eq_ofNat, toNat_shift]
  case shr => rw [shrW_eq_ofNat, toNat_shift]
  case rotl => rw [rotlW, toNat_shift, Nat.mod_eq_of_lt (by omega)]

/-! Comparisons and predicates. -/

theorem PredResult.of_eq {i j : Instr} {d : Nat} {f g : Reader → (Nat → Bool) → Bool} (hr : ∀ s x, Ready i s x → Ready j s x)
    (h : ∀ s, exec i s = issue j s (predOp d g)) (hz : i.size = j.size) (hgf : ∀ r p, g r p = f r p) : PredResult i d f :=
  (funext fun r => funext (hgf r)) ▸ PredResult.of hr h hz

/-- Settles O14: every comparison issues as `ICMP.eq.i32` and writes its condition. -/
theorem integerCompareResults : Obligations.IntegerCompareResults := by
  unfold Obligations.IntegerCompareResults
  intro d a b
  exact ⟨.of_eq (fun _ _ h => h) (fun _ => rfl) rfl fun r _ => by simp [BitVec.toInt_inj],
    .of_eq (fun _ _ => ready_icmpNeI32) (fun _ => rfl) rfl fun r _ => by simp [BitVec.toInt_inj],
    .of (fun _ _ => ready_icmpLtI32) (fun _ => rfl) rfl, .of (fun _ _ => ready_icmpLeI32) (fun _ => rfl) rfl,
    .of (fun _ _ => ready_icmpGtI32) (fun _ => rfl) rfl, .of (fun _ _ => ready_icmpGeI32) (fun _ => rfl) rfl,
    .of_eq (fun _ _ => ready_icmpEqN32) (fun _ => rfl) rfl fun r _ => by simp [BitVec.toNat_inj],
    .of_eq (fun _ _ => ready_icmpNeN32) (fun _ => rfl) rfl fun r _ => by simp [BitVec.toNat_inj],
    .of (fun _ _ => ready_icmpLtN32) (fun _ => rfl) rfl, .of (fun _ _ => ready_icmpLeN32) (fun _ => rfl) rfl,
    .of (fun _ _ => ready_icmpGtN32) (fun _ => rfl) rfl, .of (fun _ _ => ready_icmpGeN32) (fun _ => rfl) rfl⟩

/-- A command processor whose group holds two lanes of which only the first has `p0`, with `k1` = 1 and `k2` = 0. -/
def twoLaneCp : State :=
  { State.reset with
    ctxs := [{ cp := { cpu := true, threads := [{ stat := .running, pred := 1 }, { stat := .running }], groups := [3], k := [(1, 1)] } }]
    issuer := some (.cp 0) }

/-- Its issuer. -/
def twoLaneIssuer : Issuer := ⟨.cp 0, (twoLaneCp.ctx 0).cp, 3, { stat := .running, pred := 1 }⟩

theorem ready_sel_twoLaneCp : Ready (.sel 3 1 2 0) twoLaneCp twoLaneIssuer :=
  ⟨by decide +kernel, by decide +kernel, by decide +kernel, by decide +kernel, by decide +kernel⟩

theorem OnlyWave.agent {s t : State} {a : Agent} {v w : Wave} (h : OnlyWave s t a w) (hv : s.agent? a = some v) : t.agent? a = some w := by
  have hput := State.agent?_putAgent hv w
  rw [h.rest]
  cases a <;> exact hput

/-- Register n of lane 0 of an agent in the next state. -/
def regAfter (a : Agent) (n : Nat) : Host.Outcome State Fault Refusal → Option Word
  | .next t => (t.agent? a).map fun w => w.vreg n 0
  | _ => none

/-- Refutes O16: the lanes of a command processor share the `k` registers, so that in a group of two lanes of which one selects `k1` and
the other `k2` the lanes cannot both hold what they select; the statement does not ask that the group has one lane. -/
theorem not_predicateResults : ¬ Obligations.PredicateResults := by
  unfold Obligations.PredicateResults
  rintro ⟨-, -, hsel⟩
  obtain ⟨t, w, ht, hw, -, -, ⟨hd, -⟩, -⟩ := hsel 3 1 2 0 _ _ ready_sel_twoLaneCp
  have hrun : regAfter (.cp 0) 3 (exec (.sel 3 1 2 0) twoLaneCp) = some 0 := by decide +kernel
  have hw : t.agent? (.cp 0) = some w := hw.agent ready_sel_twoLaneCp.agent
  rw [ht, regAfter, hw] at hrun
  have h0 : w.vreg 3 0 = 0 := Option.some.inj hrun
  have hl : twoLaneIssuer.has 0 := by unfold Issuer.has; decide +kernel
  have h1 := hd 0 (by decide) hl
  have h2 : twoLaneIssuer.w.preg 0 0 = true ∧ twoLaneIssuer.w.vreg 1 0 = 1 := by decide +kernel
  have h3 : w.vreg 3 0 = 1 := by simpa [h2] using h1
  exact absurd (h0.symm.trans h3) (by decide)

end Sys2Proof.Machine
end

section
/-! Words that the layouts write out, and the registers at reset. -/
namespace Sys2Proof.Machine
open Sys2Proof

/-- Settles O1: the decoder evaluated on each word. -/
theorem wordsDecode : Obligations.WordsDecode := by
  unfold Obligations.WordsDecode
  refine ⟨?_, ?_, ?_, ?_, ?_, ?_, ?_⟩ <;> decide +kernel

theorem ctReg_reset {c : Nat} (hc : c < 16) (i : Nat) : State.reset.ctReg c i = if i = 0 then 0x20 else 0 := by
  have hctx : State.reset.ctx c = Ctx.reset := by
    rw [State.ctx, State.reset, List.getElem?_replicate_of_lt hc, Option.getD_some]
  simp [State.ctReg, hctx, Ctx.reset, Tab.get, eq_comm]

theorem ptReg_reset {p : Nat} (hp : p < 8) (i : Nat) : State.reset.ptReg p i = if i = 0 then 0x20 else 0 := by
  have hpart : State.reset.part p = Part.reset := by
    rw [State.part, State.reset, List.getElem?_replicate_of_lt hp, Option.getD_some]
  simp [State.ptReg, hpart, Part.reset, Tab.get, eq_comm]

/-- Settles O7: the tables of registers at reset, read at each index. -/
theorem resetRegisters : Obligations.ResetRegisters := by
  unfold Obligations.ResetRegisters
  refine ⟨fun c i hc => ctReg_reset hc i, fun p i hp => ptReg_reset hp i, by decide +kernel, by decide +kernel, fun i hi => ?_, rfl,
    fun c hc => ?_, rfl, rfl⟩
  · simp [State.dvReg, State.reset, Tab.get, hi, Ne.symm hi]
  · rw [State.valid, ctReg_reset hc]; rfl

end Sys2Proof.Machine
end

section
/-! FP32 arithmetic, special functions, conversions and packed elements (R194 to R208). -/
namespace Sys2Proof.Machine
open Sys2Proof

theorem LaneOf.of {i : Instr} {d : Nat} {f : Reader → Word × Word} (h : ∀ s, exec i s = issue i s (laneOp d f)) : LaneOf i d f :=
  LaneFlags.of h

theorem LaneOf.of_eq {i : Instr} {d : Nat} {f g : Reader → Word × Word} (h : ∀ s, exec i s = issue i s (laneOp d g))
    (hgf : ∀ r, g r = f r) : LaneOf i d f := funext hgf ▸ LaneFlags.of h

/-- A lane instruction that issues as the first row of its family. -/
theorem LaneOf.of_alike {i j : Instr} {d : Nat} {f : Reader → Word × Word} (hr : ∀ s x, Ready i s x → Ready j s x)
    (h : ∀ s, exec i s = issue j s (laneOp d f)) (hz : i.size = j.size) : LaneOf i d f := fun s x hi hu =>
  completes_lane (hr s x hi) (h s) hz (KDesc.trapOf_off hu.1 hu.2 _)

/-- Settles O17: each form rounds the formula of its row. -/
theorem floatArithmeticResults : Obligations.FloatArithmeticResults := by
  unfold Obligations.FloatArithmeticResults
  exact ⟨fun z d a b m => ⟨.of fun _ => rfl, .of fun _ => rfl, .of fun _ => rfl⟩,
    fun z d a b c => ⟨.of fun _ => rfl, .of fun _ => rfl, .of fun _ => rfl, .of fun _ => rfl⟩,
    fun d b => ⟨.of fun _ => rfl, .of fun _ => rfl, .of fun _ => rfl, .of fun _ => rfl, .of fun _ => rfl⟩⟩

/-! Special functions (R200). -/

theorem special_nan (fn : SFn) (z : Bool) {w : Word} (h : fp32.read w.toNat = .nan) : special fn z w = (0x7FC00000, fIV) := by
  simp only [special, rd32, h, FVal.ftzIn]; rfl

/-- Reading an FP32 word (R77). -/
theorem fp32_read (n : Nat) : fp32.read n =
    if n / 8388608 % 256 = 0 then .fin (decide (n / 2147483648 % 2 = 1)) (n % 8388608) (-149)
    else if n / 8388608 % 256 = 255 then (if n % 8388608 = 0 then .inf (decide (n / 2147483648 % 2 = 1)) else .nan)
    else .fin (decide (n / 2147483648 % 2 = 1)) (8388608 + n % 8388608) ((n / 8388608 % 256 : Nat) - 150) := by
  have he (k : Nat) : (k : Int) - (2 ^ (8 - 1) - 1 : Nat) - (23 : Nat) = k - 150 := by omega
  simp only [Fmt.read, fp32, Fmt.bias, he]
  rfl

/-- A negative finite FP32 word that is no zero, and with `.ftz` no subnormal, reads as a negative value other than zero. -/
theorem rd32_neg {z : Bool} {w : Word} (hlo : 0x80000000 < w.toNat) (hhi : w.toNat < 0xFF800000) (hz : z = true → 0x80800000 ≤ w.toNat) :
    ∃ m e, rd32 z w = .fin true m e ∧ m ≠ 0 := by
  have hneg : decide (w.toNat / 2147483648 % 2 = 1) = true := decide_eq_true (by omega)
  rw [rd32, fp32_read, hneg, if_neg (show ¬w.toNat / 8388608 % 256 = 255 by omega)]
  split
  · obtain rfl : z = false := by
      by_contra hne
      have := hz (by simpa using hne)
      omega
    exact ⟨w.toNat % 8388608, -149, by simp [FVal.ftzIn], by omega⟩
  · refine ⟨8388608 + w.toNat % 8388608, (w.toNat / 8388608 % 256 : Nat) - 150, ?_, by omega⟩
    have hbig : decide (8388608 + w.toNat % 8388608 < 2 ^ fp32.mb) = false := decide_eq_false (by simp [fp32])
    simp [FVal.ftzIn, hbig]

theorem special_neg {z : Bool} {w : Word} (hlo : 0x80000000 < w.toNat) (hhi : w.toNat < 0xFF800000)
    (hz : z = true → 0x80800000 ≤ w.toNat) :
    special .rsq z w = (0x7FC00000, fIV) ∧ special .sqrt z w = (0x7FC00000, fIV) ∧ special .lg2 z w = (0x7FC00000, fIV) := by
  obtain ⟨m, e, h, hm⟩ := rd32_neg hlo hhi hz
  simp only [special, h, hm, if_false, if_true, nanIV, and_self]

/-- Settles O19: the table of special operands evaluated with and without `.ftz`, and NaN and negative operands by the lemmas above. -/
theorem specialFunctionResults : Obligations.SpecialFunctionResults := by
  unfold Obligations.SpecialFunctionResults
  refine ⟨fun z d a => ⟨.of fun _ => rfl, .of fun _ => rfl, .of fun _ => rfl, .of fun _ => rfl, .of fun _ => rfl, .of fun _ => rfl,
    .of fun _ => rfl, .of fun _ => rfl⟩, fun z => ⟨fun fn w => special_nan fn z, ?_⟩⟩
  simp only [← and_assoc]
  refine ⟨?_, fun w hlo hhi hz => and_assoc.2 (special_neg hlo hhi hz)⟩
  cases z <;> decide +kernel

/-! Conversions (R201 to R205). -/

/-- The bits of an integer of a type's range give it back. -/
theorem ITy.val_word (t : ITy) {x : Int} (hlo : t.lo ≤ x) (hhi : x ≤ t.hi) : t.val (t.word x) = x := by
  cases t <;> simp [lo, hi, val, word, width, sgn, BitVec.toNat_ofInt] at * <;> omega

theorem ITy.lo_le_hi (t : ITy) : t.lo ≤ t.hi := by cases t <;> decide

theorem ITy.zero_mem (t : ITy) : t.lo ≤ 0 ∧ 0 ≤ t.hi := by cases t <;> decide

/-- A conversion to an integer type gives the bits of an integer of its range. -/
theorem f2i_word (t : ITy) (m : Rnd) (w : Word) : ∃ y, t.lo ≤ y ∧ y ≤ t.hi ∧ (f2i t m w).1 = t.word y := by
  have hlh := t.lo_le_hi
  unfold f2i
  split
  · exact ⟨0, t.zero_mem.1, t.zero_mem.2, by cases t <;> rfl⟩
  · next neg _ =>
    cases neg with
    | false => exact ⟨t.hi, hlh, le_refl _, rfl⟩
    | true => exact ⟨t.lo, le_refl _, hlh, rfl⟩
  · next neg k e _ =>
    dsimp only
    generalize (if neg = true then -((roundInt m neg k e).1 : Int) else (roundInt m neg k e).1) = x
    split
    · exact ⟨t.lo, le_refl _, hlh, rfl⟩
    split
    · exact ⟨t.hi, hlh, le_refl _, rfl⟩
    · exact ⟨_, by omega, by omega, rfl⟩

theorem f2i_range (t : ITy) (m : Rnd) (w : Word) : t.lo ≤ t.val (f2i t m w).1 ∧ t.val (f2i t m w).1 ≤ t.hi := by
  obtain ⟨y, hlo, hhi, hy⟩ := f2i_word t m w
  rw [hy, t.val_word hlo hhi]
  exact ⟨hlo, hhi⟩

theorem i2i_exact {t u : ITy} {w : Word} (hlo : t.lo ≤ u.val w) (hhi : u.val w ≤ t.hi) :
    (i2i t u true w).2 = 0 ∧ t.val (i2i t u true w).1 = u.val w := by
  have hc : clampInt (u.val w) t.lo t.hi = (u.val w, 0) := by
    rw [clampInt, if_neg (by omega), if_neg (by omega)]
  simp only [i2i, if_true, hc, t.val_word hlo hhi, and_self]

/-- Settles O20: each conversion issues as the first row of its family; an integer of the target's range passes unchanged. -/
theorem integerConversionResults : Obligations.IntegerConversionResults := by
  unfold Obligations.IntegerConversionResults
  exact ⟨fun d a m => ⟨.of fun _ => rfl, .of_alike (fun _ _ => ready_f2iI16) (fun _ => rfl) rfl,
      .of_alike (fun _ _ => ready_f2iI32) (fun _ => rfl) rfl, .of_alike (fun _ _ => ready_f2iN8) (fun _ => rfl) rfl,
      .of_alike (fun _ _ => ready_f2iN16) (fun _ => rfl) rfl, .of_alike (fun _ _ => ready_f2iN32) (fun _ => rfl) rfl,
      .of fun _ => rfl, .of_alike (fun _ _ => ready_i2fI16) (fun _ => rfl) rfl, .of_alike (fun _ _ => ready_i2fI32) (fun _ => rfl) rfl,
      .of_alike (fun _ _ => ready_i2fN8) (fun _ => rfl) rfl, .of_alike (fun _ _ => ready_i2fN16) (fun _ => rfl) rfl,
      .of_alike (fun _ _ => ready_i2fN32) (fun _ => rfl) rfl⟩,
    fun d a y x => ⟨.of fun _ => rfl, .of fun _ => rfl, .of fun _ => rfl, .of fun _ => rfl, .of fun _ => rfl, .of fun _ => rfl⟩,
    f2i_range, fun _ _ _ => i2i_exact⟩

/-- Settles O21: every element of the three narrow formats widened and narrowed again, and the roundings of single words, evaluated. -/
theorem narrowConversionResults : Obligations.NarrowConversionResults := by
  unfold Obligations.NarrowConversionResults
  refine ⟨fun f hf => ?_, by decide +kernel, by decide +kernel, by decide +kernel, by decide +kernel, by decide +kernel, by decide +kernel,
    by decide +kernel, by decide +kernel, by decide +kernel, by decide +kernel, fun d a b => ⟨.of fun _ => rfl, .of fun _ => rfl,
    .of fun _ => rfl, .of fun _ => rfl, .of fun _ => rfl, .of fun _ => rfl, .of fun _ => rfl, .of fun _ => rfl, .of fun _ => rfl,
    .of fun _ => rfl, .of fun _ => rfl, .of fun _ => rfl, .of fun _ => rfl, .of fun _ => rfl, .of fun _ => rfl, .of fun _ => rfl,
    .of fun _ => rfl, .of fun _ => rfl, .of fun _ => rfl, .of fun _ => rfl, .of fun _ => rfl, .of fun _ => rfl, .of fun _ => rfl⟩⟩
  obtain rfl | rfl | rfl : f = e4m3 ∨ f = e5m2 ∨ f = e2m1 := by simpa using hf
  · decide +kernel
  · decide +kernel
  · decide +kernel

/-! Packed elements (R206 to R208). -/

theorem elem_eq_extractLsb' (n : Nat) (x : Word) (j : Nat) : elem n x j = (x.extractLsb' (n * j) n).toNat := by
  rw [elem, BitVec.extractLsb'_toNat, Nat.shiftRight_eq_div_pow]

theorem selem_eq_toInt {n : Nat} (hn : n ≠ 0) (x : Word) (j : Nat) : selem n x j = (x.extractLsb' (n * j) n).toInt := by
  obtain ⟨k, rfl⟩ := Nat.exists_eq_succ_of_ne_zero hn
  rw [selem, elem_eq_extractLsb', BitVec.toInt_eq_toNat_cond, Nat.succ_eq_add_one, Nat.add_sub_cancel]
  generalize (x.extractLsb' ((k + 1) * j) (k + 1)).toNat = e
  have hsign : 2 * e < 2 ^ (k + 1) ↔ ¬2 ^ k ≤ e := by rw [pow_succ]; omega
  simp only [hsign, ite_not]
  push_cast
  rfl

theorem foldl_add_eq_sum (f : Nat → Int) (l : List Nat) (c : Int) : l.foldl (fun acc j => acc + f j) c = c + (l.map f).sum := by
  induction l generalizing c with
  | nil => simp
  | cons j l ih => simp [ih, add_assoc]

theorem dotInt_eq_sum {n : Nat} (hn : n ≠ 0) (k : Nat) (a b c : Word) :
    dotInt n k a b c =
      c.toInt + ((List.range k).map fun j => (a.extractLsb' (n * j) n).toInt * (b.extractLsb' (n * j) n).toInt).sum := by
  simp only [dotInt, foldl_add_eq_sum, selem_eq_toInt hn]

/-- Settles O22: the integer dot products are exact sums, and each packed element is read from its bits. -/
theorem packedResults : Obligations.PackedResults := by
  unfold Obligations.PackedResults
  intro s8 s4 dot8 dot4 el d a b c
  have h8 (v w c : Word) : dotInt 8 4 v w c = dot8 v w c := dotInt_eq_sum (by decide) 4 v w c
  have h4 (v w c : Word) : dotInt 4 8 v w c = dot4 v w c := dotInt_eq_sum (by decide) 8 v w c
  refine ⟨.of_eq (fun _ => rfl) fun r => ?_, .of_eq (fun _ => rfl) fun r => ?_, .of_eq (fun _ => rfl) fun r => ?_,
    .of_eq (fun _ => rfl) fun r => ?_, .of fun _ => rfl, .of fun _ => rfl, .of_eq (fun _ => rfl) fun r => ?_,
    .of_eq (fun _ => rfl) fun r => ?_, .of_eq (fun _ => rfl) fun r => ?_, .of_eq (fun _ => rfl) fun r => ?_,
    .of_eq (fun _ => rfl) fun r => ?_, .of_eq (fun _ => rfl) fun r => ?_, .of_eq (fun _ => rfl) fun r => ?_,
    .of_eq (fun _ => rfl) fun r => ?_⟩
  all_goals simp only [h8, h4, elem_eq_extractLsb', el]

end Sys2Proof.Machine
end

section
/-! The issue groups formed again from the threads (R37 to R39), which ends every step. -/
namespace Sys2Proof.Machine
open Sys2Proof

/-- A set of running threads at one address (R37). -/
def Wave.Stands (w : Wave) (g : LaneMask) : Prop :=
  g ≠ 0#32 ∧ ∀ l, g.getLsbD l = true → (w.th l).stat = .running ∧ (w.th l).pc = (w.th (lowLane g)).pc

/-- A list of groups whose groups each stand at one address, and no two at the same. -/
structure Wave.Apart (w : Wave) (gs : List LaneMask) : Prop where
  stands   : ∀ g ∈ gs, w.Stands g
  distinct : (gs.map fun g => (w.th (lowLane g)).pc).Nodup

theorem Wave.Apart.nil (w : Wave) : w.Apart [] := ⟨fun _ h => (nomatch h), List.nodup_nil⟩

/-- Some group of the list holds the lane. -/
def inSome (gs : List LaneMask) (l : Nat) : Prop := ∃ g ∈ gs, g.getLsbD l = true

theorem lowLane_laneBit {l : Nat} (hl : l < 32) : lowLane (laneBit l) = l := by
  have hset : (laneBit l).getLsbD l = true := by simp [laneBit_getLsbD l l hl hl]
  have hne : laneBit l ≠ 0#32 := fun h => by simp [h] at hset
  obtain ⟨hlt, hlow, -⟩ := lowLane_spec hne
  simpa [laneBit_getLsbD l _ hl hlt] using hlow

theorem Wave.stands_laneBit {w : Wave} {l : Nat} (hl : l < 32) (hr : (w.th l).stat = .running) : w.Stands (laneBit l) := by
  refine ⟨fun h => ?_, fun i hi => ?_⟩
  · simpa [h] using laneBit_getLsbD l l hl hl
  · rw [laneBit_getLsbD l i hl (BitVec.lt_of_getLsbD hi), decide_eq_true_eq] at hi
    rw [lowLane_laneBit hl, hi]
    exact ⟨hr, rfl⟩

/-- Two groups at one address make one. -/
theorem Wave.Stands.or {w : Wave} {g h : LaneMask} (hg : w.Stands g) (hh : w.Stands h)
    (heq : (w.th (lowLane g)).pc = (w.th (lowLane h)).pc) :
    w.Stands (g ||| h) ∧ (w.th (lowLane (g ||| h))).pc = (w.th (lowLane g)).pc := by
  have hall : ∀ l, (g ||| h).getLsbD l = true → (w.th l).stat = .running ∧ (w.th l).pc = (w.th (lowLane g)).pc := by
    intro l hl
    rw [BitVec.getLsbD_or, Bool.or_eq_true] at hl
    rcases hl with hl | hl
    · exact hg.2 l hl
    · exact ⟨(hh.2 l hl).1, (hh.2 l hl).2.trans heq.symm⟩
  have hne : g ||| h ≠ 0#32 := by simp [BitVec.or_eq_zero_iff, hg.1]
  obtain ⟨-, hlow, -⟩ := lowLane_spec hne
  exact ⟨⟨hne, fun l hl => ⟨(hall l hl).1, (hall l hl).2.trans (hall _ hlow).2.symm⟩⟩, (hall _ hlow).2⟩

theorem Wave.mergeGroup_apart {w : Wave} {gs : List LaneMask} (hgs : w.Apart gs) {g : LaneMask} (hg : w.Stands g) :
    w.Apart (w.mergeGroup gs g) ∧ ∀ l, inSome (w.mergeGroup gs g) l ↔ inSome gs l ∨ g.getLsbD l = true := by
  unfold mergeGroup
  split
  · next i hi =>
    obtain ⟨hlt, hat, -⟩ := List.findIdx?_eq_some_iff_getElem.1 hi
    obtain ⟨hst, hpc⟩ := (hgs.stands _ (List.getElem_mem hlt)).or hg (of_decide_eq_true hat)
    refine ⟨⟨?_, ?_⟩, ?_⟩
    · intro h hh
      obtain ⟨j, hj, rfl⟩ := List.mem_iff_getElem.1 hh
      rw [List.getElem_modify]
      split
      · next heq => subst heq; exact hst
      · exact hgs.stands _ (List.getElem_mem _)
    · have hmap : (gs.modify i (· ||| g)).map (fun h => (w.th (lowLane h)).pc) = gs.map fun h => (w.th (lowLane h)).pc := by
        refine List.ext_getElem (by simp) fun j hj hj' => ?_
        rw [List.getElem_map, List.getElem_map, List.getElem_modify]
        split
        · next heq => subst heq; exact hpc
        · rfl
      rw [hmap]
      exact hgs.distinct
    · intro l
      constructor
      · rintro ⟨h, hh, hl⟩
        obtain ⟨j, hj, rfl⟩ := List.mem_iff_getElem.1 hh
        rw [List.getElem_modify] at hl
        split at hl
        · rw [BitVec.getLsbD_or, Bool.or_eq_true] at hl
          exact hl.imp (fun hl => ⟨_, List.getElem_mem _, hl⟩) id
        · exact .inl ⟨_, List.getElem_mem _, hl⟩
      · have hput (j : Nat) (hj : j < gs.length) : (if i = j then gs[j] ||| g else gs[j]) ∈ gs.modify i (· ||| g) := by
          rw [← List.getElem_modify (f := (· ||| g)) (l := gs) (h := by simpa using hj)]
          exact List.getElem_mem _
        rintro (⟨h, hh, hl⟩ | hl)
        · obtain ⟨j, hj, rfl⟩ := List.mem_iff_getElem.1 hh
          refine ⟨_, hput j hj, ?_⟩
          split <;> simp [hl]
        · exact ⟨_, hput i hlt, by simp [hl]⟩
  · next hnone =>
    rw [List.findIdx?_eq_none_iff] at hnone
    refine ⟨⟨?_, ?_⟩, ?_⟩
    · intro h hh
      rcases List.mem_append.1 hh with hh | hh
      · exact hgs.stands h hh
      · exact List.mem_singleton.1 hh ▸ hg
    · rw [List.map_append, List.map_singleton, List.nodup_append]
      refine ⟨hgs.distinct, List.nodup_singleton _, ?_⟩
      rintro a ha b hb rfl
      obtain ⟨h, hh, rfl⟩ := List.mem_map.1 ha
      simpa [List.mem_singleton.1 hb] using hnone h hh
    · intro l
      simp only [inSome, List.mem_append, List.mem_singleton, or_and_right, exists_or, exists_eq_left]

theorem Wave.foldl_mergeGroup_apart {w : Wave} {gs : List LaneMask} (hgs : w.Apart gs) {hs : List LaneMask} (hhs : ∀ h ∈ hs, w.Stands h) :
    w.Apart (hs.foldl w.mergeGroup gs) ∧ ∀ l, inSome (hs.foldl w.mergeGroup gs) l ↔ inSome gs l ∨ inSome hs l := by
  induction hs generalizing gs with
  | nil => exact ⟨hgs, fun l => by simp [inSome]⟩
  | cons h hs ih =>
    obtain ⟨hap, hin⟩ := Wave.mergeGroup_apart hgs (hhs h (List.mem_cons_self ..))
    obtain ⟨hap', hin'⟩ := ih hap fun h' hh' => hhs h' (List.mem_cons_of_mem _ hh')
    refine ⟨hap', fun l => ?_⟩
    rw [List.foldl_cons, hin' l, hin l, or_assoc]
    simp [inSome]

/-- Dividing a mask by address merges the single lanes that run. -/
theorem Wave.splitByPc_eq (w : Wave) (m : LaneMask) :
    w.splitByPc m = (((lanesOf m).filter fun l => decide ((w.th l).stat = .running)).map laneBit).foldl w.mergeGroup [] := by
  rw [splitByPc, List.foldl_map, List.foldl_filter]
  refine List.foldl_ext _ _ _ fun gs l hl => ?_
  rw [mergeGroup, lowLane_laneBit (lanesOf_lt hl)]
  by_cases hr : (w.th l).stat = .running <;> simp [hr]

theorem Wave.splitByPc_apart (w : Wave) (m : LaneMask) :
    w.Apart (w.splitByPc m) ∧ ∀ l, inSome (w.splitByPc m) l ↔ m.getLsbD l = true ∧ (w.th l).stat = .running := by
  rw [splitByPc_eq]
  have hsingle : ∀ h ∈ ((lanesOf m).filter fun l => decide ((w.th l).stat = .running)).map laneBit, w.Stands h := by
    intro h hh
    obtain ⟨l, hl, rfl⟩ := List.mem_map.1 hh
    obtain ⟨hl, hr⟩ := List.mem_filter.1 hl
    exact Wave.stands_laneBit (lanesOf_lt hl) (of_decide_eq_true hr)
  obtain ⟨hap, hin⟩ := Wave.foldl_mergeGroup_apart (Apart.nil w) hsingle
  refine ⟨hap, fun l => (hin l).trans ⟨?_, fun ⟨hm, hr⟩ => .inr ⟨laneBit l, ?_, ?_⟩⟩⟩
  · rintro (⟨h, hh, -⟩ | ⟨h, hh, hl⟩)
    · nomatch hh
    · obtain ⟨i, hi, rfl⟩ := List.mem_map.1 hh
      obtain ⟨hi, hr⟩ := List.mem_filter.1 hi
      rw [laneBit_getLsbD i l (lanesOf_lt hi) (BitVec.lt_of_getLsbD hl), decide_eq_true_eq] at hl
      exact hl ▸ ⟨((mem_lanesOf m i).1 hi).2, of_decide_eq_true hr⟩
  · exact List.mem_map_of_mem (List.mem_filter.2 ⟨(mem_lanesOf m l).2 ⟨BitVec.lt_of_getLsbD hm, hm⟩, decide_eq_true hr⟩)
  · have hl := BitVec.lt_of_getLsbD hm
    simp [laneBit_getLsbD l l hl hl]

theorem foldl_or_inSome (gs : List LaneMask) (m : LaneMask) (l : Nat) :
    (gs.foldl (· ||| ·) m).getLsbD l = true ↔ m.getLsbD l = true ∨ inSome gs l := by
  induction gs generalizing m with
  | nil => simp [inSome]
  | cons g gs ih => rw [List.foldl_cons, ih, BitVec.getLsbD_or, Bool.or_eq_true, or_assoc]; simp [inSome]

/-- Forming the groups again needs nothing of what the groups were. -/
theorem Wave.regroup_groupsOk (w : Wave) : GroupsOk w.regroup := by
  let kept := w.groups.flatMap fun g => (w.splitByPc g).take 1
  let rest := w.splitByPc (w.lanesIn .running &&& ~~~(kept.foldl (· ||| ·) 0))
  have hall : ∀ g ∈ kept ++ rest, w.Stands g := by
    intro g hg
    rcases List.mem_append.1 hg with hg | hg
    · obtain ⟨h, -, hg⟩ := List.mem_flatMap.1 hg
      exact (w.splitByPc_apart h).1.stands g (List.mem_of_mem_take hg)
    · exact (w.splitByPc_apart _).1.stands g hg
  have hcover : ∀ l, l < 32 → (w.th l).stat = .running → inSome (kept ++ rest) l := by
    intro l hl hr
    by_cases hk : inSome kept l
    · obtain ⟨g, hg, hgl⟩ := hk
      exact ⟨g, List.mem_append_left _ hg, hgl⟩
    · have hrest : (w.lanesIn .running &&& ~~~(kept.foldl (· ||| ·) 0)).getLsbD l = true := by
        have : BitVec.getLsbD (kept.foldl (· ||| ·) 0) l = false := by
          rw [Bool.eq_false_iff, ne_eq, foldl_or_inSome]
          simpa using hk
        rw [BitVec.getLsbD_and, BitVec.getLsbD_not, this, lanesIn, maskOf_getLsbD _ hl]
        simp [hl, hr]
      obtain ⟨g, hg, hgl⟩ := ((w.splitByPc_apart _).2 l).2 ⟨hrest, hr⟩
      exact ⟨g, List.mem_append_right _ hg, hgl⟩
  obtain ⟨hap, hin⟩ := Wave.foldl_mergeGroup_apart (Apart.nil w) hall
  exact ⟨hap.stands, fun l hl hr => (hin l).2 (.inr (hcover l hl hr)), List.pairwise_map.1 hap.distinct⟩

theorem State.regroupAll_groupsOk (s : State) : s.regroupAll.GroupsOk := by
  constructor
  · intro p hp w hw
    obtain ⟨q, -, rfl⟩ := List.mem_map.1 hp
    obtain ⟨v, -, rfl⟩ := List.mem_map.1 hw
    exact v.regroup_groupsOk
  · intro c hc
    obtain ⟨d, -, rfl⟩ := List.mem_map.1 hc
    exact d.cp.regroup_groupsOk

theorem finishStep_next {o : Host.Outcome State Fault Refusal} {t : State} (h : finishStep o = .next t) :
    ∃ u : State, t = u.regroupAll := by
  cases o with
  | next s => exact ⟨_, (Host.Outcome.next.inj h).symm⟩
  | fault f => nomatch h
  | refused r => nomatch h

/-- Settles O5: the last thing a step does is to form the issue groups again, and that makes them well formed whatever they were. -/
theorem stepKeepsGroups : Obligations.StepKeepsGroups := by
  intro s t _ hstep
  have hend : ∃ u : State, t = u.regroupAll := by
    unfold step at hstep
    split at hstep <;> exact finishStep_next hstep
  obtain ⟨u, rfl⟩ := hend
  exact u.regroupAll_groupsOk

end Sys2Proof.Machine
end

section
/-! What the end of an issue leaves, for effects that change more of the state than registers; and parts of the state written and read. -/
namespace Sys2Proof.Machine
open Sys2Proof

/-! Parts of the state. -/

namespace State

theorem core_putCore (s : State) (c n : Nat) (y : Core) : (s.putCore c y).core n = if n = c then y else s.core n := Tab.get_put ..

theorem ctx_putCtx {s : State} {c : Nat} (h : c < s.ctxs.length) (y : Ctx) : (s.putCtx c y).ctx c = y := by simp [ctx, putCtx, h]

theorem ctx_putCtx_other (s : State) {c d : Nat} (h : d ≠ c) (y : Ctx) : (s.putCtx c y).ctx d = s.ctx d := by
  simp [ctx, putCtx, List.getElem?_set_ne h.symm]

theorem ctx_of_ctxs {s t : State} (h : t.ctxs = s.ctxs) (c : Nat) : t.ctx c = s.ctx c := by simp [ctx, h]

theorem putCtx_ctxs_length (s : State) (c : Nat) (y : Ctx) : (s.putCtx c y).ctxs.length = s.ctxs.length := by simp [putCtx]

theorem agent?_wave_of_teams {s t : State} (h : t.teams = s.teams) (k : WaveKey) : t.agent? (.wave k) = s.agent? (.wave k) := by
  simp [agent?, wave?, team?, h]

theorem agent?_cp {s : State} {c : Nat} (h : c < s.ctxs.length) : s.agent? (.cp c) = some (s.ctx c).cp := by simp [agent?, ctx?, ctx, h]

theorem agent?_cp_some {s : State} {c : Nat} {w : Wave} (h : s.agent? (.cp c) = some w) : c < s.ctxs.length ∧ w = (s.ctx c).cp := by
  simp only [agent?, ctx?, Option.map_eq_some_iff] at h
  obtain ⟨y, hy, rfl⟩ := h
  exact ⟨(List.getElem?_eq_some_iff.1 hy).1, by simp [ctx, hy]⟩

theorem putAgent_wave_ctxs (s : State) (k : WaveKey) (w : Wave) : (s.putAgent (.wave k) w).ctxs = s.ctxs := putWave_ctxs s k w

theorem modAgent_none {s : State} {a : Agent} (h : s.agent? a = none) (f : Wave → Wave) : s.modAgent a f = s := by simp [modAgent, h]

theorem agent?_modAgent {s : State} {a : Agent} {v : Wave} (h : s.agent? a = some v) (f : Wave → Wave) :
    (s.modAgent a f).agent? a = some (f v) := by rw [modAgent_some h, agent?_putAgent h]

end State

/-! Ends of an issue. -/

/-- An instruction that completes with no sticky bit steps past its effect's state. -/
theorem conclude_done_advances (i : Instr) (x : Issuer) (v : State) (units : Nat) (price : Option Nat) :
    Advances v (conclude i x (.done v 0 units none price)) x i := by
  intro w₀ hw₀
  let w := ((w₀.stepPast x.e i.size).addSticky 0).rewritten x.e (writtenLines i)
  obtain ⟨k, hk⟩ := State.account_spec (State.agent?_putAgent hw₀ w) i units price
  have hg := State.descOf_of_grids (s := v) (hk.grids.trans (by simp)) x.a
  refine ⟨{ x.w.countIssue w with tokens := k }, ?_, rfl, ⟨fun _ _ _ => rfl, fun _ => rfl⟩, BitVec.or_zero,
    fun l hl => Wave.stepPast_th w₀ x.e i.size l hl⟩
  simp only [conclude, State.modAgent_some hw₀]
  rw [hg, show (v.descOf x.a).trapOf 0 = none from KDesc.trapOf_zero _]
  exact hk.of_put.onlyWave

/-- One that has placed its threads itself is counted and charged. -/
theorem conclude_moved_moves (i : Instr) (x : Issuer) (v : State) : Moves v (conclude i x (.moved v)) x := by
  intro w₀ hw₀
  obtain ⟨k, hk⟩ := State.account_spec hw₀ i 1 none
  exact ⟨_, hk.onlyWave, rfl, ⟨fun _ _ _ => rfl, fun _ => rfl⟩, rfl, rfl⟩

section
variable {i : Instr} {s v : State} {x : Issuer} {eff : Issuer → State → Effect}

theorem exec_ready (hr : Ready i s x) (he : exec i s = issue i s eff) : exec i s = .next (conclude i x (eff x s)) := he.trans (issue_ready hr eff)

theorem occurs_done {units : Nat} {price : Option Nat} (hr : Ready i s x) (he : exec i s = issue i s eff)
    (hf : eff x s = .done v 0 units none price) : Occurs i s fun t => Advances v t x i :=
  ⟨_, (exec_ready hr he).trans (by rw [hf]), conclude_done_advances i x v units price⟩

theorem occurs_moved (hr : Ready i s x) (he : exec i s = issue i s eff) (hf : eff x s = .moved v) : Occurs i s fun t => Moves v t x :=
  ⟨_, (exec_ready hr he).trans (by rw [hf]), conclude_moved_moves i x v⟩

theorem exec_settled (hr : Ready i s x) (he : exec i s = issue i s eff) (hf : eff x s = .settled v) : exec i s = .next v :=
  (exec_ready hr he).trans (by rw [hf]; rfl)

end

/-! Causes. -/

/-- The halt line of a context that had not halted rises with the header. -/
theorem State.raiseHalt_halt {s : State} {c : Nat} (hc : c < s.ctxs.length) (hh : s.halted c = false) (h : HaltHdr) :
    ∃ h', ((s.raiseHalt c h).ctx c).halt = some h' ∧ h'.code = h.code := by
  simp only [halted, ctReg, Bool.or_eq_false_iff, Option.isSome_eq_false_iff, Option.isNone_iff_eq_none] at hh
  obtain ⟨hreg, hnone⟩ := hh
  simp only [raiseHalt, hreg, hnone, Bool.false_eq_true, if_false, ctx_putCtx hc]
  exact ⟨_, rfl, rfl⟩

theorem State.raiseHalt_teams (s : State) (c : Nat) (h : HaltHdr) : (s.raiseHalt c h).teams = s.teams := by
  unfold raiseHalt
  dsimp only
  split
  · rfl
  · split
    · split <;> rfl
    · rfl

/-- A cause that no handler takes is recorded and raises the halt line. -/
theorem State.takeCause_halts {s : State} {k : WaveKey} {w : Wave} (hw : s.agent? (.wave k) = some w) {code : Cause}
    (hno : Cause.handlerClass code = false ∨ w.tm = true ∨ (s.descOf (.wave k)).handler = 0) (e : LaneMask) (tc : Byte) (pc : DWord)
    (ret : Thread) (src : Nat) :
    s.takeCause (.wave k) e code tc pc ret src =
      (s.putAgent (.wave k) (w.setCause code tc)).raiseHalt k.team.grid.ctx (s.haltHeader (.wave k) code tc src pc e) := by
  have hcond : (Cause.handlerClass code && !w.tm && (s.descOf (.wave k)).handler != 0) = false := by
    rcases hno with h | h | h <;> simp [h]
  simp only [takeCause, hw, hcond]
  rfl

theorem State.takeCause_haltsWith {s : State} {k : WaveKey} {w : Wave} (hw : s.agent? (.wave k) = some w) (hc : k.team.grid.ctx < s.ctxs.length)
    {code : Cause} (hno : Cause.handlerClass code = false ∨ w.tm = true ∨ (s.descOf (.wave k)).handler = 0) (e : LaneMask) (tc : Byte) (pc : DWord)
    (ret : Thread) (src : Nat) : State.HaltsWith s (s.takeCause (.wave k) e code tc pc ret src) k.team.grid.ctx code := by
  intro hh
  rw [takeCause_halts hw hno]
  refine raiseHalt_halt (by rwa [putAgent_wave_ctxs]) ?_ _
  rw [← hh]
  simp [halted, ctReg, ctx_of_ctxs (putAgent_wave_ctxs s k _)]

end Sys2Proof.Machine
end

section
/-! Reserved words (R167, R172) and the step of the decoded instruction (R153, R154). -/
namespace Sys2Proof.Machine
open Sys2Proof

/-- The major opcodes from 0x1D on have no rows. -/
theorem rowsOfMajor_reserved {m : Nat} (h : 0x1D ≤ m) : rowsOfMajor m = [] := by
  unfold rowsOfMajor
  split
  all_goals first | omega | rfl

theorem decode_reservedMajor {w : Nat} (hlt : w < 2 ^ 32) (hodd : w % 2 = 1) (hmajor : 0x1D ≤ w / 2 % 64) (rest : List Byte) :
    decode (leBytes 4 w ++ rest) = .error .reserved := by
  have h := decode_le32 hlt hodd rest
  rw [show 32 / 8 = 4 from rfl] at h
  rw [h, decode32, if_neg (by omega), rowsOfMajor_reserved hmajor]
  rfl

theorem decode_headerMajor {w : Nat} (hlt : w < 2 ^ 32) (hodd : w % 2 = 1) (hmajor : w / 2 % 64 = 0) (rest : List Byte) :
    decode (leBytes 4 w ++ rest) = .error .clauseHeader := by
  have h := decode_le32 hlt hodd rest
  rw [show 32 / 8 = 4 from rfl] at h
  rw [h, decode32, if_pos hmajor]
  rfl

/-- What a fetch finds that is no instruction takes its cause. -/
theorem exec_reservedEncoding {s u : State} {x : Issuer} {bs : List Byte} (hx : s.issuer? = some x)
    (hcode : s.codeInstr x.a x.pc = (.ok bs, u)) :
    exec .reservedEncoding s = .next (u.fetchCause x
      (if bs.length = 4 && isClauseHeader (BitVec.ofNat 32 (ofLeBytes bs)) then Cause.clause else Cause.illegal)) := by
  change execReservedEncoding s = _
  simp only [execReservedEncoding, event, hx, hcode]

/-- Settles O3: the table has no row for these majors, and neither cause is of the handler's class. -/
theorem reservedWords : Obligations.ReservedWords := by
  refine ⟨fun w h1 h2 h3 rest => decode_reservedMajor h1 h2 h3 rest, fun w h1 h2 h3 rest => decode_headerMajor h1 h2 h3 rest, ?_⟩
  intro s u x k bs hx ha hcode hctx hw
  obtain ⟨w, hw⟩ := Option.isSome_iff_exists.1 hw
  rw [ha] at hw
  refine ⟨_, exec_reservedEncoding hx hcode, ?_⟩
  rw [State.fetchCause, ha]
  by_cases hb : bs.length = 4 ∧ isClauseHeader (BitVec.ofNat 32 (ofLeBytes bs)) = true
  · rw [if_pos (by simpa using hb), if_pos hb]
    exact State.takeCause_haltsWith hw hctx (.inl (show Cause.handlerClass Cause.clause = false by decide)) _ _ _ _ _
  · rw [if_neg (by simpa using hb), if_neg hb]
    exact State.takeCause_haltsWith hw hctx (.inl (show Cause.handlerClass Cause.illegal = false by decide)) _ _ _ _ _

/-! The step of the decoded instruction. -/

theorem State.issueLead_instr {e u : State} {x : Issuer} {i : Instr} (hin : x.th.chdr ≠ 0) (hfetch : e.fetch x = (.instr i, u)) :
    e.issueLead x = exec i (u.occupy x.a i) := by
  unfold issueLead
  rw [if_neg hin, hfetch]

theorem State.issueBy_lead {v : State} {a : Agent} {x : Issuer} (hcan : v.canIssue a = true)
    (hx : ((v.atEdge a).select a).issuer? = some x) (hpend : x.w.pend = 0) : v.issueBy a = ((v.atEdge a).select a).issueLead x := by
  unfold issueBy
  rw [hcan]
  simp only [hx]
  exact if_neg (not_not.2 hpend)

theorem State.awaitUnit_of_canTake {u : State} {c : Nat} {w : Wave} {i : Instr} (h : u.canTake c w i = true) (n : Nat) :
    u.awaitUnit c w i n = u := by
  cases n with
  | zero => rfl
  | succ n => rw [awaitUnit, if_pos h]

theorem State.occupy_cp (u : State) (c : Nat) (i : Instr) : u.occupy (.cp c) i = u := by
  unfold occupy
  split
  · contradiction
  · rfl

theorem State.occupy_none {u : State} {k : WaveKey} {i : Instr} (h : u.unitWave (.wave k) i = none) : u.occupy (.wave k) i = u := by
  unfold occupy
  split
  · next hw => exact absurd (h.symm.trans hw) nofun
  · rfl

/-- In a quarter that can take an instruction, the core notes its unit. -/
theorem State.occupy_of_canTake {u : State} {k : WaveKey} {w : Wave} {i : Instr} (hw : u.unitWave (.wave k) i = some w)
    (h : u.canTake (u.coreOf (.wave k)) w i = true) :
    ∃ y, u.occupy (.wave k) i = u.putCore (u.coreOf (.wave k)) y ∧
      { y with
        units := (u.core (u.coreOf (.wave k))).units, lastPos := (u.core (u.coreOf (.wave k))).lastPos,
        sfFree := (u.core (u.coreOf (.wave k))).sfFree } = u.core (u.coreOf (.wave k)) := by
  have hunit : (u.freeUnit (u.coreOf (.wave k)) w.quarter i).isSome = true := by
    rw [canTake, Bool.and_eq_true] at h
    exact h.1
  obtain ⟨n, hn⟩ := Option.isSome_iff_exists.1 hunit
  unfold occupy
  split
  · next hw' =>
    obtain rfl := Option.some.inj (hw.symm.trans hw')
    dsimp only
    rw [awaitUnit_of_canTake h, hn]
    exact ⟨_, rfl, rfl⟩
  · next hno => exact absurd hw (hno _ _ rfl)

/-- Settles O4: the step's definition, read from the agenda to the fetched instruction. -/
theorem stepRunsDecoded : Obligations.StepRunsDecoded := by
  refine ⟨?_, fun u c i => ⟨rfl, ?_⟩, fun u k i h => ?_, fun u k i h => ?_, fun u k w i h => ⟨fun hedge => ?_, fun hcan => ?_⟩⟩
  · intro s act rest a x i u hag hwhat v e hcan hx hpend hin hfetch
    simp only [step, hag, hwhat, State.run]
    rw [State.issueBy_lead hcan hx hpend, State.issueLead_instr hin hfetch]
  · exact u.occupy_cp c i
  · exact State.occupy_none h
  · simp only [State.unitWave, h, State.agent?]
  · exact if_neg (by omega)
  · obtain ⟨y, hy, hcore⟩ := State.occupy_of_canTake h hcan
    dsimp only
    rw [hy]
    refine ⟨rfl, fun n => ?_⟩
    rw [State.core_putCore]
    split
    · next hn => rw [hn, hcore]
    · rfl

end Sys2Proof.Machine
end

section
/-! Causes: the entry of the handler (R221, R382, R383), its return (R222, R384), halts (R385 to R387), and the end of a program (R350). -/
namespace Sys2Proof.Machine
open Sys2Proof

/-! Threads of a mask. -/

theorem Wave.modLanes_th (w : Wave) (m : LaneMask) (f : Thread → Thread) (l : Nat) :
    (w.modLanes m f).th l = if m.getLsbD l = true ∧ l < w.threads.length then f (w.th l) else w.th l := by
  simp only [modLanes, th, List.getElem?_mapIdx]
  by_cases hl : l < w.threads.length
  · simp only [List.getElem?_eq_getElem hl, Option.map_some, Option.getD_some, hl, and_true]
  · simp [hl]

theorem Wave.lt_length_of_stat {w : Wave} {l : Nat} (h : (w.th l).stat ≠ .exited) : l < w.threads.length := by
  by_contra hl
  exact h (by simp [th, List.getElem?_eq_none (not_lt.1 hl)])

theorem Wave.live_getLsbD (w : Wave) {l : Nat} (hl : l < 32) : w.live.getLsbD l = decide ((w.th l).stat ≠ .exited) := maskOf_getLsbD _ hl

/-! Handler entry. -/

theorem pc57_pcOf (d : DWord) : pc57 (pcOf d) = pc57 d := by
  apply BitVec.eq_of_getLsbD_eq
  intro i hi
  simp [pcOf, pc57, hi]
  omega

theorem Wave.causeWord_eq (n : BitVec 8) {code : Nat} (h : code < 256) :
    (n.setWidth 32 <<< 8 ||| (BitVec.ofNat 8 code).setWidth 32 : Word) = BitVec.ofNat 32 (n.toNat * 256 + code) := by
  have hn := n.isLt
  apply BitVec.eq_of_toNat_eq
  have h1 : (n.setWidth 32 <<< 8 : Word).toNat = n.toNat <<< 8 := by
    rw [BitVec.toNat_shiftLeft, BitVec.toNat_setWidth_of_le (by omega), Nat.mod_eq_of_lt]
    rw [Nat.shiftLeft_eq]; omega
  rw [BitVec.toNat_or, h1, BitVec.toNat_setWidth_of_le (by omega), BitVec.toNat_ofNat, BitVec.toNat_ofNat, Nat.mod_eq_of_lt h,
    ← Nat.shiftLeft_add_eq_or_of_lt h, Nat.shiftLeft_eq]
  omega

theorem pair_loWord_hiWord (d : DWord) : pair (loWord d) (hiWord d) = d := by
  apply BitVec.eq_of_getLsbD_eq
  intro i hi
  simp only [pair, loWord, hiWord, BitVec.getLsbD_append, BitVec.getLsbD_extractLsb']
  by_cases h : i < 32
  · simp [h]
  · simp [h, show i - 32 < 32 by omega, show 32 + (i - 32) = i by omega]

/-- A cause of the handler's class, with traps not masked, enters the handler (R383). -/
theorem State.takeCause_enters {s : State} {a : Agent} {k : WaveKey} {w : Wave} (ha : a = .wave k) (hw : s.agent? a = some w) {code : Cause}
    (hclass : Cause.handlerClass code = true) (htm : w.tm = false) (hh : (s.descOf a).handler ≠ 0) (e : LaneMask) (tc : Byte) (pc : DWord)
    (ret : Thread) (src : Nat) :
    s.takeCause a e code tc pc ret src = s.putAgent a (w.enterHandler e code tc (s.descOf a).handler ret) := by
  subst ha
  simp only [takeCause, hw, hclass, htm, Bool.not_false, Bool.and_self, Bool.true_and]
  exact if_pos (by simpa using hh)

theorem State.putAgent_with_charge (s : State) (cs : Tab Core) (ds : List (Nat × Nat)) (a : Agent) (w : Wave) :
    ({ s with cores := cs, pkgDue := ds } : State).putAgent a w = { s.putAgent a w with cores := cs, pkgDue := ds } := by
  cases a with
  | wave k =>
    simp only [putAgent, putWave, team?]
    split <;> rfl
  | cp c => rfl

theorem OnlyCharge.agent {s t : State} {a : Agent} {v w : Wave} (h : OnlyCharge s t a w) (hs : s.agent? a = some v) :
    t.agent? a = some w := by
  have ht : t.agent? a = (s.putAgent a w).agent? a := by rw [h.rest]; cases a <;> rfl
  rw [ht, State.agent?_putAgent hs]

/-- The wave changes again after its charge. -/
theorem OnlyCharge.put {s t : State} {a : Agent} {v : Wave} (h : OnlyCharge s t a v) (w : Wave) : OnlyCharge s (t.putAgent a w) a w := by
  refine ⟨?_, fun c => ?_⟩
  · have h1 := (s.putAgent a v).putAgent_with_charge t.cores t.pkgDue a w
    rw [← h.rest, State.putAgent_putAgent] at h1
    rw [h1]
  · rw [State.core, State.putAgent_cores]
    exact h.cores c

/-- An instruction that traps after its completion is counted, and enters the handler. -/
theorem conclude_trap_enters {i : Instr} {s : State} {x : Issuer} {k : WaveKey} (ha : x.a = .wave k) (hr : Ready i s x)
    {code : Cause} (hclass : Cause.handlerClass code = true) (htm : x.w.tm = false) (hh : (s.descOf x.a).handler ≠ 0) (tc : Byte) :
    ∃ w : Wave, w.v = x.w.v ∧ w.k = x.w.k ∧ w.cpu = x.w.cpu ∧ w.threads = x.w.threads ∧
      OnlyWave s (conclude i x (.trap code tc s)) x.a (w.enterHandler x.e code tc (s.descOf x.a).handler (x.th.advance i.size)) := by
  obtain ⟨n, hn⟩ := State.account_spec hr.agent i 1 none
  have hdesc := State.descOf_of_grids hn.grids x.a
  refine ⟨{ x.w.countIssue x.w with tokens := n }, rfl, rfl, rfl, rfl, ?_⟩
  rw [conclude, State.takeCause_enters ha (hn.agent hr.agent) hclass htm (by rwa [hdesc]), hdesc]
  exact (hn.put _).onlyWave

theorem Wave.setK_eq (w : Wave) (n : Nat) (v : Word) : w.setK n v =
    { w with
      k := w.k.put 0 n v, synced := unsyncTab w.synced (64 * (n / 8) + 32 + 4 * (n % 8)) 4
      dirtied := w.dirtiedBy (64 * (n / 8) + 32 + 4 * (n % 8)) } := rfl

section
variable (w : Wave) (e : LaneMask) (code : Cause) (tc : Byte) (handler : DWord) (ret : Thread)

theorem Wave.enterHandler_threads : (w.enterHandler e code tc handler ret).threads =
    (w.modLanes e fun t => { t with pc := pcOf handler, cpos := 0, chdr := 0, stat := .running, kind := 0 }).threads := by
  simp only [enterHandler, setKpair, setK_eq, setCause, modLanes]

theorem Wave.enterHandler_k : (w.enterHandler e code tc handler ret).k =
    (((w.setK 60 (tc.setWidth 32 <<< 8 ||| (BitVec.ofNat 8 code).setWidth 32)).setK 61 e).setKpair 62 ((pc57 ret.pc).setWidth 64)).k := by
  simp only [enterHandler, setKpair, setK_eq, setCause, causeWord, modLanes]

theorem Wave.enterHandler_file : (w.enterHandler e code tc handler ret).v = w.v ∧ (w.enterHandler e code tc handler ret).cpu = w.cpu := by
  simp only [enterHandler, setKpair, setK_eq, setCause, modLanes, and_self]

theorem Wave.enterHandler_saved :
    (w.enterHandler e code tc handler ret).tm = true ∧ (w.enterHandler e code tc handler ret).code = BitVec.ofNat 8 code ∧
      (w.enterHandler e code tc handler ret).tcode = tc ∧ (w.enterHandler e code tc handler ret).epc = pc57 ret.pc ∧
      (w.enterHandler e code tc handler ret).ecpos = ret.cpos ∧ (w.enterHandler e code tc handler ret).echdr = ret.chdr ∧
      (w.enterHandler e code tc handler ret).emask = e := by
  simp only [enterHandler, setKpair, setK_eq, setCause, modLanes, and_self]

end

theorem Wave.enterHandler_kreg (w : Wave) (e : LaneMask) (code : Cause) (tc : Byte) (handler : DWord) (ret : Thread) (m : Nat) :
    (w.enterHandler e code tc handler ret).kreg m =
      if m = 63 then hiWord ((pc57 ret.pc).setWidth 64) else if m = 62 then loWord ((pc57 ret.pc).setWidth 64) else if m = 61 then e
      else if m = 60 then tc.setWidth 32 <<< 8 ||| (BitVec.ofNat 8 code).setWidth 32 else w.kreg m := by
  rw [kreg_congr (w.enterHandler_k e code tc handler ret)]
  simp only [setKpair, setK_kreg]

theorem Wave.enterHandler_vreg {w : Wave} (hc : w.cpu = false) (e : LaneMask) (code : Cause) (tc : Byte) (handler : DWord) (ret : Thread)
    (m l : Nat) : (w.enterHandler e code tc handler ret).vreg m l = w.vreg m l := by
  obtain ⟨hv, hcpu⟩ := w.enterHandler_file e code tc handler ret
  simp only [vreg, hc, hcpu, hv, Bool.false_eq_true, if_false]

/-- Settles O29: the count of the issue, then the entry of the handler. -/
theorem handlerEntry : Obligations.HandlerEntry := by
  intro n i code hi s x k ha hr htm hcpu hh
  have hexec : exec i s = .next (conclude i x (.trap code n s)) ∧ Cause.handlerClass code = true ∧ code < 256 ∧ i.size = 4 := by
    rcases hi with ⟨rfl, rfl⟩ | ⟨rfl, rfl⟩
    · exact ⟨exec_ready hr rfl, by decide, by decide, rfl⟩
    · exact ⟨exec_ready hr rfl, by decide, by decide, rfl⟩
  obtain ⟨hnext, hclass, hcode, hsize⟩ := hexec
  obtain ⟨w, hv, hk, hc, hth, honly⟩ := conclude_trap_enters ha hr hclass htm hh n
  rw [hsize] at honly
  have hret : pc57 (x.th.advance 4).pc = pc57 (x.pc + 4) := pc57_pcOf _
  obtain ⟨htm', hcode', htcode, hepc, hecpos, hechdr, hemask⟩ := w.enterHandler_saved x.e code n
    (s.descOf x.a).handler (x.th.advance 4)
  refine ⟨_, _, hnext, honly, htm', hcode', htcode, hepc.trans hret, hecpos, hechdr, hemask, ?_, ?_, ?_, ?_, ?_, ?_⟩
  · rw [Wave.enterHandler_kreg]; exact Wave.causeWord_eq n hcode
  · rw [Wave.enterHandler_kreg]; simp
  · rw [Wave.kpair, Wave.enterHandler_kreg, Wave.enterHandler_kreg, hret]; exact pair_loWord_hiWord _
  · intro j hj
    rw [Wave.enterHandler_kreg, if_neg (by omega), if_neg (by omega), if_neg (by omega), if_neg (by omega)]
    exact Wave.kreg_congr hk j
  · intro j l _
    exact (Wave.enterHandler_vreg (hc.trans hcpu) ..).trans (Wave.vreg_congr hv hk hc j l)
  · intro l _
    rw [Wave.th_congr (Wave.enterHandler_threads ..), Wave.modLanes_th, Wave.th_congr hth, hth]

/-! The return from the handler. -/

theorem assocPut_self {κ α : Type} [DecidableEq κ] {t : List (κ × α)} {n : κ} {v : α} (h : assocGet t n = some v) : assocPut t n v = t := by
  induction t with
  | nil => cases h
  | cons p t ih =>
    rw [assocPut]
    rw [assocGet] at h
    split
    · next hp => rw [if_pos hp] at h; cases h; exact congrArg (fun k => (k, p.2) :: t) hp.symm
    · next hp => rw [if_neg hp] at h; rw [ih h]

/-- Nothing changes: an issue that was counted before. -/
theorem Moves.refl (v : State) (x : Issuer) : Moves v v x := by
  intro w hw
  have hput : v.putAgent x.a w = v := by
    cases ha : x.a with
    | wave k =>
      rw [ha] at hw
      obtain ⟨t, ht, hk⟩ := Option.bind_eq_some_iff.1 hw
      obtain ⟨hlt, hk⟩ := List.getElem?_eq_some_iff.1 hk
      rw [← hk]
      simp only [State.putAgent, State.putWave, ht, List.set_getElem_self, State.putTeam, assocPut_self ht]
    | cp c =>
      rw [ha] at hw
      obtain ⟨hlt, rfl⟩ := State.agent?_cp_some hw
      have hset : v.ctxs.set c (v.ctx c) = v.ctxs := by rw [State.ctx, List.getElem?_eq_getElem hlt]; exact List.set_getElem_self hlt
      exact congrArg (fun cs => ({ v with ctxs := cs } : State)) hset
  have h := (OnlyCharge.refl v x.a w).onlyWave
  rw [hput] at h
  exact ⟨w, h, rfl, ⟨fun _ _ _ => rfl, fun _ => rfl⟩, rfl, rfl⟩

/-- What completes with its threads placed does so whether or not it was counted before. -/
theorem occurs_placed {i : Instr} {s v : State} {x : Issuer} {eff : Issuer → State → Effect} (hr : Ready i s x)
    (he : exec i s = issue i s eff) {p : Prop} [Decidable p] (hf : eff x s = if p then .settled v else .moved v) :
    ∃ t, exec i s = .next t ∧ Moves v t x := by
  split at hf
  · exact ⟨v, exec_settled hr he hf, Moves.refl v x⟩
  · exact occurs_moved hr he hf

theorem Wave.returnFromHandler_th (w : Wave) {l : Nat} (hl : l < 32) (hlen : l < w.threads.length) :
    w.returnFromHandler.th l =
      if w.emask.getLsbD l = true ∧ (w.th l).stat ≠ .exited then
        { w.th l with
          pc := w.epc.setWidth 64, cpos := w.ecpos, chdr := if w.ecpos = 0 then 0 else w.echdr, stat := .running, kind := 0, arg := 0 }
      else w.th l := by
  have hth : w.returnFromHandler.threads = (w.modLanes (w.emask &&& w.live) fun t =>
    { t with pc := w.epc.setWidth 64, cpos := w.ecpos, chdr := if w.ecpos = 0 then 0 else w.echdr, stat := .running, kind := 0, arg := 0 }).threads :=
    rfl
  rw [Wave.th_congr hth, Wave.modLanes_th, BitVec.getLsbD_and, Wave.live_getLsbD _ hl]
  simp [hlen]

theorem execEret_returns {s u : State} {x : Issuer} (htm : x.w.tm = true) (he : x.e &&& ~~~x.w.emask = 0)
    (hall : x.w.emask &&& x.w.live &&& ~~~(x.e ||| x.w.waitingFor [9]) = 0) (hret : s.returnCause x = (none, u)) (hr : Ready .eret s x) :
    ∃ t, exec .eret s = .next t ∧ Moves (u.modAgent x.a Wave.returnFromHandler) t x := by
  refine occurs_placed hr rfl (p := (x.lanes.all fun l => (x.w.th l).arg = 256) = true) ?_
  have h1 : ¬(!x.w.tm || decide (x.e &&& ~~~x.w.emask ≠ 0#32)) = true := by simp [htm, he]
  have h2 : ¬x.w.emask &&& x.w.live &&& ~~~(x.e ||| x.w.waitingFor [9]) ≠ 0#32 := not_not.2 hall
  rw [if_neg h1, if_neg h2, hret]

/-- Settles O30: the branches of `ERET` and of its return point. -/
theorem handlerReturn : Obligations.HandlerReturn := by
  refine ⟨fun s x u hr htm he hall hret => ?_, fun s x word u hodd hcode => ?_⟩
  · obtain ⟨t, ht, hmoves⟩ := execEret_returns htm he hall hret hr
    exact ⟨t, ht, hmoves, fun w => ⟨rfl, ⟨fun _ _ _ => rfl, fun _ => rfl⟩, fun l hl hlen => w.returnFromHandler_th hl hlen⟩⟩
  · simp only [State.returnCause, hodd, hcode, Bool.false_eq_true, if_false]
    by_cases hpos : x.w.ecpos = 0 <;> cases hhead : isClauseHeader word <;> simp [hpos]

/-! Halts. -/

theorem raiseEvent_record (s : State) {p : Nat} (hp : p < s.parts.length) (event c : Nat) (payload : List Byte) :
    ∃ r ∈ ((s.raiseEvent p event c payload).part p).evq, r.event = event := by
  have hput (y : Part) : (s.putPart p y).part p = y := by simp [State.part, State.putPart, hp]
  unfold State.raiseEvent
  dsimp only
  split
  · next i hi =>
    obtain ⟨hlt, hat, -⟩ := List.findIdx?_eq_some_iff_getElem.1 hi
    split
    · rw [hput]
      have hlt' : i < (s.part p).evq.length := by simp at hlt; omega
      refine ⟨_, List.getElem_mem (l := (s.part p).evq.modify i _) (by simpa using hlt'), ?_⟩
      rw [List.getElem_modify, if_pos rfl]
      simp only [Bool.and_eq_true, decide_eq_true_eq, List.getElem_take] at hat
      exact hat.1.1
    · rw [hput]; exact ⟨_, List.mem_append_right _ (List.mem_singleton_self _), rfl⟩
  · rw [hput]; exact ⟨_, List.mem_append_right _ (List.mem_singleton_self _), rfl⟩

/-! Fields of a register. -/

theorem getLsbD_setBits {lo n i : Nat} (w : Word) (v : Nat) (hi : i < 32) :
    (setBits w lo n v).getLsbD i = if lo ≤ i ∧ i < lo + n then v.testBit (i - lo) else w.getLsbD i := by
  have hm : (BitVec.ofNat 32 ((2 ^ n - 1) * 2 ^ lo)).getLsbD i = decide (lo ≤ i ∧ i < lo + n) := by
    rw [BitVec.getLsbD_ofNat, Nat.mul_comm, Nat.testBit_two_pow_mul, Nat.testBit_two_pow_sub_one]
    simp only [hi, decide_true, Bool.true_and, ge_iff_le, ← Bool.decide_and]
    exact decide_eq_decide.2 (by omega)
  have hv : (BitVec.ofNat 32 (v % 2 ^ n * 2 ^ lo)).getLsbD i = (decide (lo ≤ i ∧ i < lo + n) && v.testBit (i - lo)) := by
    rw [BitVec.getLsbD_ofNat, Nat.mul_comm, Nat.testBit_two_pow_mul, Nat.testBit_mod_two_pow]
    simp only [hi, decide_true, Bool.true_and, ge_iff_le, ← Bool.and_assoc, ← Bool.decide_and]
    exact congrArg (· && _) (decide_eq_decide.2 (by omega))
  unfold setBits
  rw [BitVec.getLsbD_or, BitVec.getLsbD_and, BitVec.getLsbD_not, hm, hv]
  by_cases hin : lo ≤ i ∧ i < lo + n <;> simp [hin, hi]

theorem bits_eq_of_getLsbD {w : Word} {lo n v : Nat} (hv : v < 2 ^ n) (h : ∀ i, i < n → w.getLsbD (lo + i) = v.testBit i) : bits w lo n = v := by
  apply Nat.eq_of_testBit_eq
  intro i
  rw [bits, Nat.testBit_mod_two_pow, Nat.testBit_div_two_pow]
  by_cases hi : i < n
  · simp only [hi, decide_true, Bool.true_and, ← h i hi, Nat.add_comm i lo]
    rfl
  · simp only [hi, decide_false, Bool.false_and]
    exact (Nat.testBit_lt_two_pow (hv.trans_le (Nat.pow_le_pow_right (by omega) (not_lt.1 hi)))).symm

namespace State

theorem ctReg_setCtReg {s : State} {c : Nat} (hc : c < s.ctxs.length) (i n : Nat) (v : Word) :
    (s.setCtReg c i v).ctReg c n = if n = i then v else s.ctReg c n := by
  simp only [ctReg, setCtReg, ctx_putCtx hc, Tab.get_put]

theorem ctReg_of_reg {s t : State} {c : Nat} (h : (t.ctx c).reg = (s.ctx c).reg) (n : Nat) : t.ctReg c n = s.ctReg c n := by simp [ctReg, h]

theorem setCtReg_ctxs_length (s : State) (c i : Nat) (v : Word) : (s.setCtReg c i v).ctxs.length = s.ctxs.length := by simp [setCtReg, putCtx]

theorem ctx_setCtReg_cp {s : State} {c : Nat} (hc : c < s.ctxs.length) (i : Nat) (v : Word) : ((s.setCtReg c i v).ctx c).cp = (s.ctx c).cp := by
  simp [setCtReg, ctx_putCtx hc]

/-- A command processor's own thread changes. -/
theorem modAgent_cp {s : State} {c : Nat} (hc : c < s.ctxs.length) (f : Wave → Wave) :
    s.modAgent (.cp c) f = s.putCtx c { s.ctx c with cp := f (s.ctx c).cp } := modAgent_some (agent?_cp hc) f

end State

/-- Every thread of a command processor's program has exited. -/
def Wave.stopAll (w : Wave) : Wave := w.modLanes (BitVec.allOnes 32) fun t => { t with stat := .exited, kind := 0 }

theorem Wave.stopAll_stat (w : Wave) {l : Nat} (hl : l < 32) : (w.stopAll.th l).stat = .exited := by
  rw [stopAll, Wave.modLanes_th]
  by_cases hlen : l < w.threads.length
  · rw [if_pos ⟨by rw [BitVec.getLsbD_allOnes]; exact decide_eq_true hl, hlen⟩]
  · rw [if_neg (fun h => hlen h.2)]
    by_contra hne
    exact hlen (Wave.lt_length_of_stat hne)

/-- Settles O31: on a wave the halt line, on a command processor the end of its program and the event. -/
theorem causeHalts : Obligations.CauseHalts := by
  refine ⟨fun s k w e code tc pc ret src hw hc _ _ hno => ⟨State.takeCause_haltsWith hw hc hno _ _ _ _ _, w.setCause code tc, ?_, ?_⟩, ?_⟩
  · rw [State.takeCause_halts hw hno, State.agent?_wave_of_teams (State.raiseHalt_teams ..)]
    exact State.agent?_putAgent hw _
  · exact ⟨⟨fun _ _ _ => rfl, fun _ => rfl⟩, rfl, rfl, rfl⟩
  · intro s c e code tc pc ret src hc hcode t
    -- the register CP_CTL, the program's thread, its wait and the event
    let r := setBits (setBits (setBits (s.ctReg c 9) 1 1 0) 3 1 1) 4 8 code
    let s₁ := s.setCtReg c 9 r
    have h1 : c < s₁.ctxs.length := by rwa [State.setCtReg_ctxs_length]
    let s₂ := s₁.putCtx c { s₁.ctx c with cp := (s₁.ctx c).cp.stopAll }
    have h2 : c < s₂.ctxs.length := by rwa [State.putCtx_ctxs_length]
    let s₃ := s₂.putCtx c (s₂.ctx c).endWait
    have ht : t = s₃.raiseEvent (partOf c) 0x04 (c % 2) (leBytes 8 pc.toNat ++ [BitVec.ofNat 8 code]) := by
      show s.takeCause (.cp c) e code tc pc ret src = _
      simp only [State.takeCause]
      rw [State.modAgent_cp h1]
      rfl
    have hctxs : t.ctxs = s₃.ctxs := by
      rw [ht]
      unfold State.raiseEvent
      dsimp only
      split
      · split <;> rfl
      · rfl
    have hctx : t.ctx c = (s₂.ctx c).endWait := (State.ctx_of_ctxs hctxs c).trans (State.ctx_putCtx h2 _)
    have hs₂ : s₂.ctx c = { s₁.ctx c with cp := (s₁.ctx c).cp.stopAll } := State.ctx_putCtx h1 _
    have hreg : t.ctReg c 9 = r := by
      rw [State.ctReg_of_reg (s := s₁) (by rw [hctx, Ctx.endWait, hs₂]), State.ctReg_setCtReg hc, if_pos rfl]
    rw [hreg]
    refine ⟨?_, ?_, bits_eq_of_getLsbD hcode fun i hi => ?_, fun l hl => ?_, fun hp => ?_⟩
    · simp only [r, getLsbD_setBits _ _ (show 1 < 32 by omega)]; simp
    · simp only [r, getLsbD_setBits _ _ (show 3 < 32 by omega)]; simp
    · rw [getLsbD_setBits _ _ (by omega), if_pos (by omega), Nat.add_sub_cancel_left]
    · rw [hctx, Ctx.endWait, hs₂]
      exact Wave.stopAll_stat _ hl
    · rw [ht]
      exact raiseEvent_record s₃ hp 4 (c % 2) _

end Sys2Proof.Machine
end

section
/-! `JOIN` and `EXIT` (R25, R43, R221, R350). -/
namespace Sys2Proof.Machine
open Sys2Proof

theorem joinI_results (j : BitVec 3) {s : State} {x : Issuer} (hr : Ready (.joinI j) s x) : ∃ t, exec (.joinI j) s = .next t ∧
    (x.w.mask j.toNat = 0 → Advances s t x (.joinI j)) ∧
    (x.w.mask j.toNat ≠ 0 → Moves (s.modAgent x.a fun w => (w.waitAt x.e 1 j.toNat).joinRelease j.toNat) t x) := by
  by_cases h : x.w.mask j.toNat = 0
  · obtain ⟨t, ht, hadv⟩ := occurs_done (v := s) (units := 1) (price := none) hr rfl (if_pos h)
    exact ⟨t, ht, fun _ => hadv, fun hn => absurd h hn⟩
  · obtain ⟨t, ht, hmoves⟩ := occurs_moved (v := s.modAgent x.a fun w => (w.waitAt x.e 1 j.toNat).joinRelease j.toNat) hr rfl (if_neg h)
    exact ⟨t, ht, fun hz => absurd hz h, fun _ => hmoves⟩

/-- A change of the wave alone, before what changes only its count and its charge. -/
theorem Moves.of_modAgent {s t : State} {x : Issuer} {f : Wave → Wave} (h : Moves (s.modAgent x.a f) t x) (hw : s.agent? x.a = some x.w) :
    ∃ w, OnlyWave s t x.a w ∧ SameRegs (f x.w) w ∧ w.threads = (f x.w).threads := by
  rw [State.modAgent_some hw] at h
  obtain ⟨w, honly, -, hregs, -, hth⟩ := h (f x.w) (State.agent?_putAgent hw _)
  refine ⟨w, ⟨?_, fun c => ?_, fun c b => ?_⟩, hregs, hth⟩
  · have hrest := honly.rest
    rwa [State.putAgent_putAgent] at hrest
  · have hcores := honly.cores c
    simpa [State.core] using hcores
  · rw [honly.memory c b]
    simp [State.coreByte, State.homeByte, State.core]

theorem exitI_wave {s : State} {x : Issuer} {k : WaveKey} (ha : x.a = .wave k) (hr : Ready .exitI s x) :
    ∃ t w, exec .exitI s = .next t ∧ OnlyWave s t x.a w ∧ SameRegs x.w w ∧
      ∀ l, l < 32 → w.th l = if x.e.getLsbD l = true ∧ l < x.w.threads.length then { x.w.th l with stat := .exited, kind := 0 } else x.w.th l := by
  obtain ⟨t, ht, hmoves⟩ :=
    occurs_moved (v := s.modAgent x.a fun w => w.modLanes x.e fun t => { t with stat := .exited, kind := 0 }) hr rfl (by rw [ha])
  obtain ⟨w, honly, ⟨hv, hk⟩, hth⟩ := hmoves.of_modAgent hr.agent
  refine ⟨t, w, ht, honly, ⟨fun n l hl => (hv n l hl).trans rfl, fun n => (hk n).trans rfl⟩, fun l _ => ?_⟩
  rw [Wave.th_congr hth, Wave.modLanes_th]

theorem exitI_cp {s : State} {x : Issuer} {c : Nat} (ha : x.a = .cp c) (hc : c < s.ctxs.length) (hr : Ready .exitI s x) :
    ∃ t, exec .exitI s = .next t ∧ (t.ctReg c 0x009).getLsbD 1 = false ∧ (t.ctReg c 0x009).getLsbD 2 = true ∧
      (∀ n, n ≠ 0x009 → t.ctReg c n = s.ctReg c n) ∧ ∀ n b, t.coreByte n b = s.coreByte n b := by
  let u := s.modAgent x.a fun w => w.modLanes x.e fun t => { t with stat := .exited, kind := 0 }
  let r := setBits (setBits (u.ctReg c 9) 1 1 0) 2 1 1
  have hu : u = s.putCtx c { s.ctx c with cp := (s.ctx c).cp.modLanes x.e fun t => { t with stat := .exited, kind := 0 } } := by
    simp only [u, ha, State.modAgent_cp hc]
  have hcu : c < u.ctxs.length := by rw [hu, State.putCtx_ctxs_length]; exact hc
  have hcv : c < (u.setCtReg c 9 r).ctxs.length := by rwa [State.setCtReg_ctxs_length]
  obtain ⟨t, ht, hmoves⟩ := occurs_moved (v := u.setCtReg c 9 r) hr rfl (by simp only [u, r, ha])
  obtain ⟨w, honly, -⟩ := hmoves _ (by rw [ha]; exact State.agent?_cp hcv)
  have hctx : t.ctx c = { (u.setCtReg c 9 r).ctx c with cp := w } := by
    rw [State.ctx_of_ctxs (s := (u.setCtReg c 9 r).putAgent x.a w) (by rw [honly.rest]), ha]
    exact State.ctx_putCtx hcv _
  have hreg (n : Nat) : t.ctReg c n = if n = 9 then r else s.ctReg c n := by
    rw [State.ctReg_of_reg (s := u.setCtReg c 9 r) (by rw [hctx]), State.ctReg_setCtReg hcu, hu]
    split
    · rfl
    · exact State.ctReg_of_reg (by rw [State.ctx_putCtx hc]) n
  refine ⟨t, ht, ?_, ?_, fun n hn => (hreg n).trans (if_neg hn), fun n b => ?_⟩
  · rw [hreg, if_pos rfl]; simp only [r, getLsbD_setBits _ _ (show 1 < 32 by omega)]; simp
  · rw [hreg, if_pos rfl]; simp only [r, getLsbD_setBits _ _ (show 2 < 32 by omega)]; simp
  · rw [honly.memory n b, hu]; rfl

/-- Settles O28: `JOIN` and `EXIT` place the group's threads, and `EXIT` ends a command processor's program. -/
theorem joinExitResults : Obligations.JoinExitResults :=
  ⟨fun j _ _ hr => joinI_results j hr, fun _ _ _ ha hr => exitI_wave ha hr, fun _ _ _ ha hc hlen hr => exitI_cp ha (hlen ▸ hc) hr⟩

end Sys2Proof.Machine
end

section
/-! Branches, table jumps, calls and returns (R43, R153, R154, R166, R217 to R221). -/
namespace Sys2Proof.Machine
open Sys2Proof

/-! Transfers. -/

theorem transfer_moved {s u : State} {x : Issuer} {ts : List DWord} (h : s.lookTargets x ts = (none, u)) (f : Wave → Wave) :
    transfer x s ts f = .moved (u.modAgent x.a f) := by
  unfold transfer
  rw [h]

theorem maskOf_eq_of {m : LaneMask} {p : Nat → Bool} (h : ∀ l, l < 32 → m.getLsbD l = p l) : maskOf p = m :=
  BitVec.eq_of_getLsbD_eq fun l hl => (maskOf_getLsbD p hl).trans (h l hl).symm

theorem Wave.jump_th (w : Wave) (m : LaneMask) (f : Nat → DWord) (l : Nat) :
    (w.jump m f).th l = if m.getLsbD l = true ∧ l < w.threads.length then { w.th l with pc := pcOf (f l), cpos := 0, chdr := 0 } else w.th l := by
  simp only [jump, th, List.getElem?_mapIdx]
  by_cases hl : l < w.threads.length
  · simp only [List.getElem?_eq_getElem hl, Option.map_some, Option.getD_some, hl, and_true]
  · simp [hl]

theorem Wave.split_threads (w : Wave) (e m : LaneMask) : (w.split e m).threads = w.threads := by unfold split; split <;> rfl

theorem Wave.branch_th (w : Wave) (x : Issuer) (m : LaneMask) (d : DWord) (l : Nat) :
    (w.branch x m d).th l = if x.e.getLsbD l = true ∧ l < w.threads.length then
      { w.th l with pc := pcOf (if m.getLsbD l then d else x.next), cpos := 0, chdr := 0 } else w.th l := by
  rw [branch, Wave.th_congr (Wave.split_threads ..), Wave.jump_th]

theorem Wave.branch_groups {w : Wave} {x : Issuer} (m : LaneMask) (d : DWord) :
    (w.branch x m d).groups = if m = 0 ∨ m = x.e then w.groups else (x.e &&& ~~~m) :: w.groups.tail := by
  simp only [branch, split, Bool.or_eq_true, decide_eq_true_eq]
  split <;> rfl

/-! The groups after a branch. -/

/-- Two groups of a list of groups well formed share no lane. -/
theorem Wave.Apart.disjoint {w : Wave} {g : LaneMask} {gs : List LaneMask} (h : w.Apart (g :: gs)) {l : Nat} (hg : g.getLsbD l = true)
    (hgs : inSome gs l) : False := by
  obtain ⟨h', hh', hl⟩ := hgs
  have hne := (List.nodup_cons.1 h.distinct).1
  refine hne (List.mem_map.2 ⟨h', hh', ?_⟩)
  show _ = (w.th (lowLane g)).pc
  rw [← ((h.stands h' (List.mem_cons_of_mem _ hh')).2 l hl).2, ← ((h.stands g (List.mem_cons_self ..)).2 l hg).2]

/-- Groups at different addresses do not merge. -/
theorem Wave.foldl_mergeGroup_nodup {w : Wave} {gs hs : List LaneMask}
    (h : ((gs ++ hs).map fun g => (w.th (lowLane g)).pc).Nodup) : hs.foldl w.mergeGroup gs = gs ++ hs := by
  induction hs generalizing gs with
  | nil => simp
  | cons g hs ih =>
    have hnew : w.mergeGroup gs g = gs ++ [g] := by
      have hnone : gs.findIdx? (fun h => decide ((w.th (lowLane h)).pc = (w.th (lowLane g)).pc)) = none := by
        rw [List.findIdx?_eq_none_iff]
        intro k hk
        rw [List.map_append, List.nodup_append] at h
        exact decide_eq_false (h.2.2 _ (List.mem_map_of_mem hk) _ (by simp))
      rw [mergeGroup, hnone]
    rw [List.foldl_cons, hnew, ih (by simpa using h), List.append_assoc, List.singleton_append]

/-- A mask whose running lanes stand at one address is divided into itself. -/
theorem Wave.splitByPc_stands {w : Wave} {m : LaneMask} (h : w.Stands m) : w.splitByPc m = [m] := by
  obtain ⟨hap, hin⟩ := w.splitByPc_apart m
  -- every part stands at the address of the mask, so there is one at most
  have hpc : ∀ g ∈ w.splitByPc m, (w.th (lowLane g)).pc = (w.th (lowLane m)).pc := by
    intro g hg
    obtain ⟨-, hlow, -⟩ := lowLane_spec (hap.stands g hg).1
    exact (h.2 _ ((hin _).1 ⟨g, hg, hlow⟩).1).2
  obtain ⟨-, hlow, -⟩ := lowLane_spec h.1
  obtain ⟨g, hg, -⟩ := (hin _).2 ⟨hlow, (h.2 _ hlow).1⟩
  have hone : w.splitByPc m = [g] := by
    have hnodup := hap.distinct
    generalize w.splitByPc m = gs at *
    cases gs with
    | nil => nomatch hg
    | cons a as =>
      cases as with
      | nil => rw [List.mem_singleton.1 hg]
      | cons b bs =>
        rw [List.map_cons, List.nodup_cons] at hnodup
        exact absurd (List.mem_map.2 ⟨b, by simp, (hpc b (by simp)).trans (hpc a (by simp)).symm⟩) hnodup.1
  rw [hone] at hin ⊢
  congr 1
  refine BitVec.eq_of_getLsbD_eq fun l _ => Bool.eq_iff_iff.2 ?_
  have := hin l
  simp only [inSome, List.mem_singleton, exists_eq_left] at this
  exact this.trans ⟨fun h => h.1, fun hl => ⟨hl, (h.2 l hl).1⟩⟩

/-- Groups that stand apart, with one more that holds every other running lane, are formed again as they are, the new one last. -/
theorem Wave.regroup_groups {w : Wave} {g : LaneMask} (hap : w.Apart (w.groups ++ [g]))
    (hall : ∀ l, (w.th l).stat = .running → l < 32 → ¬inSome w.groups l → g.getLsbD l = true) (hnew : ∀ l, g.getLsbD l = true → ¬inSome w.groups l) :
    w.regroup.groups = w.groups ++ [g] := by
  have hkept : (w.groups.flatMap fun g => (w.splitByPc g).take 1) = w.groups := by
    have (h : LaneMask) (hh : h ∈ w.groups) : (w.splitByPc h).take 1 = [h] := by
      rw [Wave.splitByPc_stands (hap.stands h (List.mem_append_left _ hh))]; rfl
    rw [List.flatMap_congr this]
    simp
  have hrest : w.lanesIn .running &&& ~~~(w.groups.foldl (· ||| ·) 0) = g := by
    refine BitVec.eq_of_getLsbD_eq fun l hl => Bool.eq_iff_iff.2 ?_
    rw [BitVec.getLsbD_and, BitVec.getLsbD_not, lanesIn, maskOf_getLsbD _ hl, Bool.and_eq_true, decide_eq_true_eq]
    have hor : (!BitVec.getLsbD (w.groups.foldl (· ||| ·) 0) l) = true ↔ ¬inSome w.groups l := by
      rw [Bool.not_eq_true', Bool.eq_false_iff, ne_eq, foldl_or_inSome]
      simp
    simp only [hl, decide_true, Bool.true_and, hor]
    exact ⟨fun ⟨hr, hno⟩ => hall l hr hl hno, fun hg => ⟨((hap.stands g (by simp)).2 l hg).1, hnew l hg⟩⟩
  have hmerge := Wave.foldl_mergeGroup_nodup (gs := []) (hs := w.groups ++ [g]) (by simpa using hap.distinct)
  simp only [regroup, hkept, hrest, Wave.splitByPc_stands (hap.stands g (by simp)), hmerge, List.nil_append]

theorem Wave.branch_regroup {w : Wave} {x : Issuer} {m : LaneMask} {d : DWord} {gs : List LaneMask} (hok : GroupsOk w) (hgs : w.groups = x.e :: gs)
    (h0 : m ≠ 0) (hne : m ≠ x.e) (hsub : m &&& ~~~x.e = 0) (hd : pcOf d ≠ pcOf x.next)
    (hother : ∀ h ∈ gs, (w.th (lowLane h)).pc ≠ pcOf d ∧ (w.th (lowLane h)).pc ≠ pcOf x.next) :
    ((w.branch x m d).regroup).groups = (x.e &&& ~~~m) :: gs ++ [m] := by
  have hold : w.Apart (x.e :: gs) := ⟨by rw [← hgs]; exact hok.running, by rw [← hgs]; exact List.pairwise_map.2 hok.distinct⟩
  have hrun (l : Nat) (hl : x.e.getLsbD l = true) : (w.th l).stat = .running := ((hold.stands x.e (by simp)).2 l hl).1
  have hlen (l : Nat) (hl : x.e.getLsbD l = true) : l < w.threads.length := Wave.lt_length_of_stat (by rw [hrun l hl]; decide)
  have hme (l : Nat) (hl : m.getLsbD l = true) : x.e.getLsbD l = true := by
    have := congrArg (·.getLsbD l) hsub
    simpa [BitVec.lt_of_getLsbD hl, hl] using this
  -- the threads after the branch
  have hth (l : Nat) (hl : x.e.getLsbD l = true) :
      ((w.branch x m d).th l).stat = .running ∧ ((w.branch x m d).th l).pc = pcOf (if m.getLsbD l then d else x.next) := by
    rw [Wave.branch_th, if_pos ⟨hl, hlen l hl⟩]
    exact ⟨hrun l hl, rfl⟩
  have hsame (l : Nat) (hl : inSome gs l) : (w.branch x m d).th l = w.th l := by
    rw [Wave.branch_th, if_neg fun h => hold.disjoint h.1 hl]
  have hstat (l : Nat) : ((w.branch x m d).th l).stat = (w.th l).stat := by
    rw [Wave.branch_th]; split <;> rfl
  -- each group of the new list and its address
  have hstands (g : LaneMask) (p : DWord) (hg : g ≠ 0#32)
      (h : ∀ l, g.getLsbD l = true → ((w.branch x m d).th l).stat = .running ∧ ((w.branch x m d).th l).pc = p) :
      (w.branch x m d).Stands g ∧ ((w.branch x m d).th (lowLane g)).pc = p := by
    obtain ⟨-, hlow, -⟩ := lowLane_spec hg
    exact ⟨⟨hg, fun l hl => ⟨(h l hl).1, (h l hl).2.trans (h _ hlow).2.symm⟩⟩, (h _ hlow).2⟩
  have hstay : x.e &&& ~~~m ≠ 0#32 := by
    intro hz
    refine hne (BitVec.eq_of_getLsbD_eq fun l hl => Bool.eq_iff_iff.2 ⟨hme l, fun he => ?_⟩)
    have := congrArg (·.getLsbD l) hz
    simpa [hl, he] using this
  obtain ⟨hs1, hp1⟩ := hstands (x.e &&& ~~~m) (pcOf x.next) hstay fun l hl => by
    have hl32 := BitVec.lt_of_getLsbD hl
    rw [BitVec.getLsbD_and, BitVec.getLsbD_not, Bool.and_eq_true, Bool.and_eq_true, Bool.not_eq_true'] at hl
    have := hth l hl.1
    rwa [hl.2.2] at this
  obtain ⟨hs2, hp2⟩ := hstands m (pcOf d) h0 fun l hl => by
    have := hth l (hme l hl)
    rwa [if_pos hl] at this
  have hs3 (h : LaneMask) (hh : h ∈ gs) : (w.branch x m d).Stands h ∧ ((w.branch x m d).th (lowLane h)).pc = (w.th (lowLane h)).pc := by
    have hst := hold.stands h (List.mem_cons_of_mem _ hh)
    exact hstands h _ hst.1 fun l hl => by rw [hsame l ⟨h, hh, hl⟩]; exact hst.2 l hl
  have hgroups : (w.branch x m d).groups = (x.e &&& ~~~m) :: gs := by
    rw [Wave.branch_groups, if_neg (by tauto), hgs]; rfl
  rw [Wave.regroup_groups (g := m), hgroups]
  · refine ⟨fun g hg => ?_, ?_⟩
    · rw [hgroups] at hg
      simp only [List.cons_append, List.mem_cons, List.mem_append, List.not_mem_nil, or_false] at hg
      rcases hg with rfl | hg | rfl
      · exact hs1
      · exact (hs3 g hg).1
      · exact hs2
    · have hmap : gs.map (fun g => ((w.branch x m d).th (lowLane g)).pc) = gs.map fun g => (w.th (lowLane g)).pc :=
        List.map_congr_left fun g hg => (hs3 g hg).2
      rw [hgroups, List.map_append, List.map_cons, hmap, hp1, List.map_singleton, hp2, List.cons_append, List.nodup_cons, List.nodup_append]
      refine ⟨?_, (List.nodup_cons.1 hold.distinct).2, List.nodup_singleton _, ?_⟩
      · rw [List.mem_append, List.mem_singleton]
        rintro (h | h)
        · obtain ⟨g, hg, hpc⟩ := List.mem_map.1 h
          exact (hother g hg).2 hpc
        · exact hd h.symm
      · rintro a ha b hb rfl
        obtain ⟨g, hg, hpc⟩ := List.mem_map.1 ha
        exact (hother g hg).1 (hpc.trans (List.mem_singleton.1 hb))
  · intro l hr hl hno
    rw [hgroups] at hno
    rw [hstat] at hr
    obtain ⟨g, hg, hgl⟩ := hok.covered l hl hr
    by_contra hml
    refine hno ?_
    rw [hgs, List.mem_cons] at hg
    rcases hg with rfl | hg
    · exact ⟨_, List.mem_cons_self .., by rw [BitVec.getLsbD_and, BitVec.getLsbD_not, hgl, Bool.eq_false_iff.2 hml]; simp [hl]⟩
    · exact ⟨g, List.mem_cons_of_mem _ hg, hgl⟩
  · rintro l hl ⟨g, hg, hgl⟩
    rw [hgroups, List.mem_cons] at hg
    rcases hg with rfl | hg
    · simp [hl] at hgl
    · exact hold.disjoint (hme l hl) ⟨g, hg, hgl⟩

/-! Tables. -/

/-- The lanes that a table jump pushes a return address for (R219, R220). -/
def tablePush (isCall : Bool) (a : BitVec 6) (n : Nat) (x : Issuer) : LaneMask :=
  if isCall then maskOf fun l => x.e.getLsbD l && decide ((x.w.vreg a.toNat l).toNat ≠ n - 1) else 0

theorem noRoom_eq_false {w : Wave} {m : LaneMask} (h : ∀ l ∈ lanesOf m, (w.th l).spill ≤ 126) : w.noRoom m = false := by
  rw [Wave.noRoom, List.any_eq_false]
  intro l hl
  have := h l hl
  simp; omega

theorem pushReturns_zero (w : Wave) (nr : Nat) (d : DWord) : w.pushReturns nr 0 d = w := rfl

theorem tablePush_jump (a : BitVec 6) (n : Nat) (x : Issuer) : tablePush false a n x = 0 := by simp [tablePush]

/-- A jump through a table whose entries and targets pass (R219). -/
theorem tableJump_moved {isCall : Bool} {a : BitVec 6} {j : BitVec 3} {o : BitVec 13} {s u u' u'' : State} {x : Issuer} {nw : Word}
    {ts : List DWord} (hal : (x.target o).toNat % 4 = 0) (hword : s.codeWord x.a (x.target o) = (.ok nw, u)) (h1 : 1 ≤ nw.toNat)
    (h2 : nw.toNat ≤ 1024) (hidx : ∀ l ∈ x.lanes, (x.w.vreg a.toNat l).toNat < nw.toNat)
    (htab : u.tableTargets x (x.target o) (x.lanes.map fun l => (x.w.vreg a.toNat l).toNat) = ({ targets := ts.map some }, u'))
    (hlook : u'.lookTargets x ts = (none, u'')) (hroom : x.w.noRoom (tablePush isCall a nw.toNat x) = false) :
    tableJump isCall a j o x s = .moved (u''.modAgent x.a fun w =>
      ((w.setMask j.toNat x.e).pushReturns (u''.descOf x.a).nregs (tablePush isCall a nw.toNat x) x.next).jump x.e
        fun l => ts[x.lanes.idxOf l]?.getD 0) := by
  have hbad : ¬(decide (nw.toNat = 0) || decide (1024 < nw.toNat) || x.lanes.any fun l => decide (nw.toNat ≤ (x.w.vreg a.toNat l).toNat)) = true := by
    have hany : (x.lanes.any fun l => decide (nw.toNat ≤ (x.w.vreg a.toNat l).toNat)) = false :=
      List.any_eq_false.2 fun l hl => by have := hidx l hl; simp; omega
    rw [hany]; simp; omega
  have htargets : (ts.map some).reduceOption = ts := by simp [List.reduceOption]
  have hdest (l : Nat) : (((ts.map some)[x.lanes.idxOf l]?).join).getD 0 = ts[x.lanes.idxOf l]?.getD 0 := by
    rw [List.getElem?_map]
    cases ts[x.lanes.idxOf l]? <;> rfl
  simp only [tableJump, hal, hword, ne_eq, not_true_eq_false, if_false, if_neg hbad, htab, htargets, hlook, Bool.false_or, hdest]
  unfold tablePush at hroom ⊢
  rw [hroom]
  rfl

theorem Moves.masks {v t : State} {x : Issuer} {w₀ : Wave} (h : Moves v t x) (hw : v.agent? x.a = some w₀) :
    ∃ w, t.agent? x.a = some w ∧ w.masks = w₀.masks ∧ SameRegs w₀ w ∧ w.threads = w₀.threads := by
  obtain ⟨w, honly, hregs, hsame, -, hth⟩ := h w₀ hw
  have hmasks := congrArg Wave.masks hregs
  exact ⟨w, honly.agent hw, hmasks, hsame, hth⟩

/-- Settles O26: each branch is a look-up and one change of the wave. -/
theorem branchResults : Obligations.BranchResults := by
  refine ⟨fun o s x u hr hlook => occurs_moved hr rfl (transfer_moved hlook _), ?_, ?_, ?_, fun w x m d _ => w.branch_groups m d, ?_, ?_, ?_⟩
  · intro p n j o s x u m hm hlook
    have hcond : x.cond p n = m := maskOf_eq_of hm
    refine ⟨fun hr => occurs_moved hr rfl ?_, fun hr => occurs_moved hr rfl ?_⟩
    · dsimp only
      rw [hcond]
      exact transfer_moved hlook _
    · dsimp only
      rw [hcond]
      exact transfer_moved hlook _
  · intro a j o s x nw ts u u' u'' hr hal hword h1 h2 hidx htab hlook
    obtain ⟨t, ht, hmoves⟩ := occurs_moved hr rfl (tableJump_moved (isCall := false) hal hword h1 h2 hidx htab hlook (by rw [tablePush_jump]; rfl))
    simp only [tablePush_jump, pushReturns_zero] at hmoves
    refine ⟨t, ht, fun w₀ hw₀ => ?_⟩
    obtain ⟨w, hw, hmasks, hsame, hth⟩ := hmoves.masks (State.agent?_modAgent hw₀ _)
    refine ⟨w, hw, ?_, ⟨fun n l hl => hsame.1 n l hl, fun n => hsame.2 n⟩, fun l _ => ?_⟩
    · rw [Wave.mask, hmasks]
      exact Tab.get_put_same ..
    · rw [Wave.th_congr hth, Wave.jump_th]
      rfl
  · intro w x m d l _ hlen he
    rw [Wave.branch_th, if_pos ⟨he, hlen⟩]
    rfl
  · intro w x m d gs hok hgs h0 hne hsub hd hother
    exact Wave.branch_regroup hok hgs h0 hne hsub hd hother
  · exact fun s x hr => occurs_done hr rfl rfl
  · exact fun s x hr => occurs_moved hr rfl rfl

end Sys2Proof.Machine
end

section
/-! Calls and returns through the spill stack (R61, R220). -/
namespace Sys2Proof.Machine
open Sys2Proof

/-- A lane's thread and its spill entries are as they were. -/
def SameLane (l : Nat) (v w : Wave) : Prop := w.th l = v.th l ∧ ∀ n, w.spill.get 0 (32 * n + l) = v.spill.get 0 (32 * n + l)

theorem Wave.setSpill_get (w : Wave) (nr n l : Nat) (v : Word) {m j : Nat} (hl : l < 32) (hj : j < 32) :
    (w.setSpill nr n l v).spill.get 0 (32 * m + j) = if m = n ∧ j = l then v else w.spill.get 0 (32 * m + j) := by
  rw [show (w.setSpill nr n l v).spill = w.spill.put 0 (32 * n + l) v from rfl, Tab.get_put]
  exact if_congr (by omega) rfl rfl

theorem Wave.pushReturn_spill (w : Wave) (nr l : Nat) (d : DWord) {m j : Nat} (hl : l < 32) (hj : j < 32) :
    (w.pushReturn nr l d).spill.get 0 (32 * m + j) =
      if m = (w.th l).spill + 1 ∧ j = l then hiWord d else if m = (w.th l).spill ∧ j = l then loWord d else w.spill.get 0 (32 * m + j) := by
  rw [show (w.pushReturn nr l d).spill =
    ((w.setSpill nr (w.th l).spill l (loWord d)).setSpill nr ((w.th l).spill + 1) l (hiWord d)).spill from rfl,
    Wave.setSpill_get _ _ _ _ _ hl hj, Wave.setSpill_get _ _ _ _ _ hl hj]

theorem Wave.pushReturn_threads (w : Wave) (nr l : Nat) (d : DWord) :
    (w.pushReturn nr l d).threads = (w.modLanes (laneBit l) fun t => { t with spill := (w.th l).spill + 2 }).threads := rfl

theorem Wave.pushReturn_other (w : Wave) (nr : Nat) (d : DWord) {l j : Nat} (hl : l < 32) (hj : j < 32) (hne : j ≠ l) :
    SameLane j w (w.pushReturn nr l d) := by
  refine ⟨?_, fun n => ?_⟩
  · rw [Wave.th_congr (w.pushReturn_threads nr l d), Wave.modLanes_th, laneBit_getLsbD l j hl hj, if_neg (by simp [hne])]
  · rw [Wave.pushReturn_spill _ _ _ _ hl hj, if_neg (by tauto), if_neg (by tauto)]

theorem Wave.foldl_pushReturn_other (nr : Nat) (d : DWord) {j : Nat} (hj : j < 32) (ls : List Nat) (hls : ∀ l ∈ ls, l < 32) (hno : j ∉ ls) (w : Wave) :
    SameLane j w (ls.foldl (fun w l => w.pushReturn nr l d) w) := by
  induction ls generalizing w with
  | nil => exact ⟨rfl, fun _ => rfl⟩
  | cons l ls ih =>
    rw [List.mem_cons, not_or] at hno
    obtain ⟨h1, h2⟩ := w.pushReturn_other nr d (hls l (by simp)) hj hno.1
    obtain ⟨h3, h4⟩ := ih (fun k hk => hls k (by simp [hk])) hno.2 (w.pushReturn nr l d)
    exact ⟨h3.trans h1, fun n => (h4 n).trans (h2 n)⟩

theorem Wave.foldl_pushReturn_length (nr : Nat) (d : DWord) (ls : List Nat) (w : Wave) :
    (ls.foldl (fun w l => w.pushReturn nr l d) w).threads.length = w.threads.length := by
  induction ls generalizing w with
  | nil => rfl
  | cons l ls ih => rw [List.foldl_cons, ih, Wave.pushReturn_threads]; simp [Wave.modLanes]

theorem Wave.pushReturn_same (w : Wave) (nr : Nat) (d : DWord) {l : Nat} (hl : l < 32) (hlen : l < w.threads.length) :
    ((w.pushReturn nr l d).th l).spill = (w.th l).spill + 2 ∧ (w.pushReturn nr l d).returnAddr l = d := by
  have hth : ((w.pushReturn nr l d).th l).spill = (w.th l).spill + 2 := by
    rw [Wave.th_congr (w.pushReturn_threads nr l d), Wave.modLanes_th, if_pos ⟨by simp [laneBit_getLsbD l l hl hl], hlen⟩]
  refine ⟨hth, ?_⟩
  rw [returnAddr, hth, Wave.pushReturn_spill _ _ _ _ hl hl, Wave.pushReturn_spill _ _ _ _ hl hl, if_neg (by omega), if_pos (by omega),
    if_pos (by omega)]
  exact pair_loWord_hiWord d

/-- Each lane of the mask holds the address on top of its stack. -/
theorem Wave.pushReturns_lane (w : Wave) (nr : Nat) {m : LaneMask} (d : DWord) {l : Nat} (hl : l < 32) (hlen : l < w.threads.length)
    (hm : m.getLsbD l = true) : ((w.pushReturns nr m d).th l).spill = (w.th l).spill + 2 ∧ (w.pushReturns nr m d).returnAddr l = d := by
  obtain ⟨as, bs, hsplit⟩ := List.append_of_mem ((mem_lanesOf m l).2 ⟨hl, hm⟩)
  have hnodup : (as ++ l :: bs).Nodup := hsplit ▸ List.Nodup.filter _ List.nodup_range
  have hno : l ∉ as ∧ l ∉ bs := by simpa using (List.nodup_cons.1 (List.nodup_middle.1 hnodup)).1
  have hlt (k : Nat) (hk : k ∈ as ++ l :: bs) : k < 32 := lanesOf_lt (hsplit ▸ hk)
  have hall : w.pushReturns nr m d =
      bs.foldl (fun w l => w.pushReturn nr l d) ((as.foldl (fun w l => w.pushReturn nr l d) w).pushReturn nr l d) := by
    rw [pushReturns, forLanes, hsplit, List.foldl_append, List.foldl_cons]
  obtain ⟨hbefore, -⟩ := Wave.foldl_pushReturn_other nr d hl as (fun k hk => hlt k (by simp [hk])) hno.1 w
  have hlen' := (Wave.foldl_pushReturn_length nr d as w).symm ▸ hlen
  generalize as.foldl (fun w l => w.pushReturn nr l d) w = u at *
  obtain ⟨hth, hsp⟩ := Wave.foldl_pushReturn_other nr d hl bs (fun k hk => hlt k (by simp [hk])) hno.2 (u.pushReturn nr l d)
  obtain ⟨hspill, haddr⟩ := u.pushReturn_same nr d hl hlen'
  rw [hall]
  refine ⟨by rw [hth, hspill, hbefore], ?_⟩
  rw [returnAddr, hth, hsp, hsp]
  exact haddr

/-- Settles O27: the look-ups pass, no stack is full or empty, and one change of the wave pushes or pops and moves the threads. -/
theorem callResults : Obligations.CallResults := by
  refine ⟨fun o s x u hr hlook hroom => occurs_moved hr rfl ?_, ?_, ?_, fun w nr m d l hl hlen hm => w.pushReturns_lane nr d hl hlen hm⟩
  · have hlook' : s.lookTargets x [x.target o] = (none, u) := hlook
    simp only [hlook', noRoom_eq_false hroom, Bool.false_eq_true, if_false]
    rfl
  · intro a j o s x nw ts u u' u'' push hr hal hword h1 h2 hidx htab hlook hpush hroom
    have hmask : tablePush true a nw.toNat x = push := maskOf_eq_of hpush
    refine occurs_moved hr rfl ?_
    rw [tableJump_moved (isCall := true) hal hword h1 h2 hidx htab hlook (hmask ▸ noRoom_eq_false hroom), hmask]
    rfl
  · intro s x u hr hdeep hlook
    refine occurs_moved hr rfl ?_
    have hany : (x.lanes.any fun l => decide ((x.w.th l).spill < 2)) = false :=
      List.any_eq_false.2 fun l hl => by have := hdeep l hl; simp; omega
    rw [hany]
    exact transfer_moved hlook _

end Sys2Proof.Machine
end

section
/-! Moves (R209 to R211). -/
namespace Sys2Proof.Machine
open Sys2Proof

/-- A wave of two lanes that is marked as a command processor's thread, so that its `v` names are `k` registers; no step makes one. -/
def markedWave : State :=
  { State.reset with
    grids := [(⟨0, 1⟩, { desc := { nregs := 8 } })]
    teams := [(⟨⟨0, 1⟩, 0⟩, { waves := [{ cpu := true, threads := [{ stat := .running }, { stat := .running }], groups := [3] }] })]
    issuer := some (.wave ⟨⟨⟨0, 1⟩, 0⟩, 0⟩) }

/-- Its issuer. -/
def markedIssuer : Issuer :=
  ⟨.wave ⟨⟨⟨0, 1⟩, 0⟩, 0⟩, { cpu := true, threads := [{ stat := .running }, { stat := .running }], groups := [3] }, 3, { stat := .running }⟩

theorem ready_movs_markedWave : Ready (.movs 3 0 0) markedWave markedIssuer :=
  ⟨by decide +kernel, by decide +kernel, by decide +kernel, by decide +kernel, by decide +kernel⟩

/-- Refutes O23: where a wave carries the mark of a command processor its lanes share the `k` registers, so that the lanes of `MOVS` with K = 0 cannot
each hold their own lane number; the statement excludes a command processor as the agent, but not that mark. -/
theorem not_moveResults : ¬ Obligations.MoveResults := by
  unfold Obligations.MoveResults
  rintro ⟨-, -, -, hmovs⟩
  obtain ⟨t, w, ht, hw, -, -, -, hd⟩ := (hmovs 3 0 _ _ _ rfl).1 ready_movs_markedWave
  have hrun : regAfter markedIssuer.a 3 (exec (.movs 3 0 0) markedWave) = some 1 := by decide +kernel
  have hw : t.agent? markedIssuer.a = some w := hw.agent ready_movs_markedWave.agent
  rw [ht, regAfter, hw] at hrun
  have h1 : w.vreg 3 0 = 1 := Option.some.inj hrun
  rw [if_pos (by decide)] at hd
  have h0 := hd.1 0 (by decide) (by unfold Issuer.has; decide +kernel)
  have hlane : loWord (markedWave.special ⟨⟨⟨0, 1⟩, 0⟩, 0⟩ 0 (0 : BitVec 8).toNat) = 0 := by decide +kernel
  exact absurd (h1.symm.trans (h0.trans hlane)) (by decide)

end Sys2Proof.Machine
end

section
/-! The spill stack (R61, R230), and engine instructions without a true guard (R165, R248, R303). -/
namespace Sys2Proof.Machine
open Sys2Proof

/-- The wave of `markedWave` with one spill entry in each lane, 1 in lane 0 and 0 in lane 1. -/
def markedSpill : State :=
  { markedWave with
    teams := [(⟨⟨0, 1⟩, 0⟩, { waves := [{
      cpu := true, threads := [{ stat := .running, spill := 1 }, { stat := .running, spill := 1 }], groups := [3], spill := [(0, 1)] }] })] }

/-- Its issuer. -/
def markedSpillIssuer : Issuer :=
  ⟨.wave ⟨⟨⟨0, 1⟩, 0⟩, 0⟩,
    { cpu := true, threads := [{ stat := .running, spill := 1 }, { stat := .running, spill := 1 }], groups := [3], spill := [(0, 1)] }, 3,
    { stat := .running, spill := 1 }⟩

theorem ready_spop_markedSpill : Ready (.spop 3) markedSpill markedSpillIssuer :=
  ⟨by decide +kernel, by decide +kernel, by decide +kernel, by decide +kernel, by decide +kernel⟩

/-- Refutes O34: the lanes of a wave that carries the mark of a command processor share the `k` registers, so that after `SPOP` of two different
entries into one register the lanes cannot each hold their own; the statement does not exclude that mark. -/
theorem not_spillResults : ¬ Obligations.SpillResults := by
  unfold Obligations.SpillResults
  intro h
  obtain ⟨-, hpop, -⟩ := h 3 markedSpill markedSpillIssuer
  obtain ⟨t, w, ht, hw, ⟨hd, -⟩, -⟩ := hpop ready_spop_markedSpill (by decide +kernel)
  have hrun : regAfter markedSpillIssuer.a 3 (exec (.spop 3) markedSpill) = some 0 := by decide +kernel
  have hw : t.agent? markedSpillIssuer.a = some w := hw.agent ready_spop_markedSpill.agent
  rw [ht, regAfter, hw] at hrun
  have h0 : w.vreg 3 0 = 0 := Option.some.inj hrun
  have h1 := hd 0 (by decide) (by unfold Issuer.has; decide +kernel)
  have hentry : markedSpillIssuer.w.spill.get 0 (32 * ((markedSpillIssuer.w.th 0).spill - 1) + 0) = 1 := by decide +kernel
  exact absurd (h0.symm.trans (h1.trans hentry)) (by decide)

/-! Guards. -/

/-- Every engine instruction tests its guard before anything else. -/
theorem exec_engine {i : Instr} {g : BitVec 3} (h : guardOf i = some g) (s : State) :
    ∃ f : Issuer → State → LaneMask → Effect, exec i s = issue i s fun x s => engine g x s (f x s) := by
  unfold guardOf at h
  split at h
  all_goals first | (cases h; exact ⟨_, rfl⟩) | nomatch h

theorem engine_unguarded {g : BitVec 3} {x : Issuer} (h : x.guarded g = 0) (s : State) (f : LaneMask → Effect) : engine g x s f = .done s 0 0 :=
  if_pos h

theorem State.modAgent_charged (s : State) (a : Agent) (f : Wave → Wave) :
    (s.modAgent a f).cores = s.cores ∧ (s.modAgent a f).pkg = s.pkg ∧ (s.modAgent a f).pkgDue = s.pkgDue := by
  unfold modAgent
  split
  · exact ⟨putAgent_cores .., putAgent_pkg .., putAgent_pkgDue ..⟩
  · exact ⟨rfl, rfl, rfl⟩

/-- An instruction of no units is counted only. -/
theorem conclude_free (i : Instr) (x : Issuer) (s : State) : conclude i x (.done s 0 0) =
    (s.modAgent x.a fun w => ((w.stepPast x.e i.size).addSticky 0).rewritten x.e (writtenLines i)).modAgent x.a x.w.countIssue := by
  simp only [conclude, State.account, if_true]
  rw [show KDesc.trapOf _ 0 = none from KDesc.trapOf_zero _]

/-- Settles O41: without a true guard the instruction completes with no units to charge. -/
theorem guardFalseResults : Obligations.GuardFalseResults := by
  intro i g s x hg hr hno
  obtain ⟨f, hf⟩ := exec_engine hg s
  refine ⟨_, (exec_ready hr hf).trans (by rw [engine_unguarded hno]), conclude_done_advances i x s 0 none, ?_⟩
  rw [conclude_free]
  obtain ⟨hc, hp, hd⟩ := s.modAgent_charged x.a fun w => ((w.stepPast x.e i.size).addSticky 0).rewritten x.e (writtenLines i)
  obtain ⟨hc', hp', hd'⟩ :=
    (s.modAgent x.a fun w => ((w.stepPast x.e i.size).addSticky 0).rewritten x.e (writtenLines i)).modAgent_charged x.a x.w.countIssue
  exact ⟨hc'.trans hc, hp'.trans hp, hd'.trans hd⟩

end Sys2Proof.Machine
end

section
/-! Power, time and random numbers (R284 to R287, R304, R307, R310). -/
namespace Sys2Proof.Machine
open Sys2Proof

/-! Register results that are written after the state has changed outside the wave. -/

section
variable {i : Instr} {s s' : State} {x : Issuer} {eff : Issuer → State → Effect} {d : Nat}

/-- The instruction writes registers of its wave in a state with the same wave. -/
theorem finish_at {w : Wave} {P : Wave → Prop} (hr : Ready i s x) (he : exec i s = issue i s eff) (hf : eff x s = x.finish s' w)
    (hs : s'.agent? x.a = some x.w) (hw : SameButRegs x.w w)
    (hp : ∀ w' : Wave, w'.v = w.v → w'.k = w.k → w'.cpu = w.cpu → w'.sticky = w.sticky → w'.threads = (w.stepPast x.e i.size).threads → P w') :
    ∃ t w', exec i s = .next t ∧ OnlyWave s' t x.a w' ∧ OnlyRegs x.w w' ∧ P w' := by
  obtain ⟨k, hk⟩ := conclude_finish hs i w 0 (KDesc.trapOf_zero _)
  refine ⟨_, _, (exec_ready hr he).trans (by rw [hf]), hk, ?_, hp _ rfl rfl rfl BitVec.or_zero rfl⟩
  have h := hw
  unfold SameButRegs at h
  unfold OnlyRegs
  rw [← h]
  rfl

theorem plainLane_at {f : Reader → Word} (hr : Ready i s x) (he : exec i s = issue i s eff) (hf : eff x s = plain 0 d f x s')
    (hs : s'.agent? x.a = some x.w) : ∃ t w, exec i s = .next t ∧ OnlyWave s' t x.a w ∧ OnlyRegs x.w w ∧
      Passed x i.size w ∧ LaneRegs x d (fun l => f (x.w.reader l)) w ∧ w.sticky = x.w.sticky := by
  have hsame := x.w.writeLanes_same x.e d fun l => f (x.w.reader l)
  refine finish_at hr he (by rw [hf]; exact congrArg (fun fl => x.finish s' _ fl) (orLanes_zero x.e)) hs hsame fun w' h1 h2 h3 h4 h5 => ⟨?_, ?_, h4.trans hsame.sticky⟩
  · exact passed_of (Wave.writeLanes_threads ..) h5
  · exact writeLanes_laneRegs hr.lead d _ (fun hc l m => by rw [Wave.reader_cpu hc l m]) h1 h2 h3

theorem plainUni_at {f : Reader → Word} (hr : Ready i s x) (he : exec i s = issue i s eff) (hf : eff x s = plain 1 d f x s')
    (hs : s'.agent? x.a = some x.w) : ∃ t w, exec i s = .next t ∧ OnlyWave s' t x.a w ∧ OnlyRegs x.w w ∧
      Passed x i.size w ∧ UniRegs x d (f x.w.kreg) w ∧ w.sticky = x.w.sticky := by
  refine finish_at hr he (w := x.w.setK d (f x.w.kreg)) (by rw [hf]; rfl) hs (x.w.setK_same d _)
    fun w' h1 h2 h3 h4 h5 => ⟨passed_of rfl h5, ⟨fun n => ?_, fun hc n l _ => ?_⟩, h4⟩
  · rw [Wave.kreg_congr h2, Wave.setK_kreg]
  · rw [Wave.vreg_congr h1 h2 h3]; simp [Wave.vreg, hc]

theorem pairLane_at {f : Reader → DWord} (hr : Ready i s x) (he : exec i s = issue i s eff) (hf : eff x s = arithPair 0 d f x s')
    (hs : s'.agent? x.a = some x.w) : ∃ t w, exec i s = .next t ∧ OnlyWave s' t x.a w ∧ OnlyRegs x.w w ∧
      Passed x i.size w ∧ LanePairs x d (fun l => f (x.w.reader l)) w ∧ w.sticky = x.w.sticky := by
  have hsame := x.w.writePairs_same x.e d fun l => f (x.w.reader l)
  exact finish_at hr he (by rw [hf]; rfl) hs hsame
    fun w' h1 h2 h3 h4 h5 => ⟨passed_of (Wave.writePairs_threads ..) h5, writePairs_lanePairs hr.lead d f h1 h2 h3, h4.trans hsame.sticky⟩

theorem pairUni_at {f : Reader → DWord} (hr : Ready i s x) (he : exec i s = issue i s eff) (hf : eff x s = arithPair 1 d f x s')
    (hs : s'.agent? x.a = some x.w) : ∃ t w, exec i s = .next t ∧ OnlyWave s' t x.a w ∧ OnlyRegs x.w w ∧
      Passed x i.size w ∧ UniPair x d (f x.w.kreg) w ∧ w.sticky = x.w.sticky := by
  refine finish_at hr he (w := x.w.setKpair d (f x.w.kreg)) (by rw [hf]; rfl) hs rfl
    fun w' h1 h2 h3 h4 h5 => ⟨passed_of rfl h5, ⟨fun n => ?_, fun hc n l _ => ?_⟩, h4⟩
  · rw [Wave.kreg_congr h2]
    simp only [Wave.setKpair, Wave.setK_kreg]
    by_cases hn : n = d
    · simp [hn]
    · simp [hn]
  · rw [Wave.vreg_congr h1 h2 h3]; simp [Wave.vreg, hc, Wave.setKpair]

end

/-! Samples. -/

theorem ofNat_bits_eq_and (w : Word) : BitVec.ofNat 32 (bits w 0 14) = w &&& 0x3FFF := by
  apply BitVec.eq_of_toNat_eq
  have h : w.toNat % 16384 < 2 ^ 32 := by omega
  rw [BitVec.toNat_and, show (0x3FFF : Word).toNat = 2 ^ 14 - 1 from rfl, Nat.and_two_pow_sub_one_eq_mod, BitVec.toNat_ofNat, bits]
  simpa using Nat.mod_eq_of_lt h

theorem Core.tokens_eq {c : Core} (h0 : 0 ≤ c.shares.foldl (· + ·) 0) (h1 : c.shares.foldl (· + ·) 0 ≤ 65536) :
    (c.tokens : Int) = c.shares.foldl (· + ·) 0 := by
  rw [Core.tokens]; omega

theorem ofNat_mul_word (x : Word) (n : Nat) : BitVec.ofNat 32 (x.toNat * n) = x * BitVec.ofNat 32 n := by
  apply BitVec.eq_of_toNat_eq
  simp [BitVec.toNat_mul]

/-- What `TOKQ` samples, and the state that the sample leaves. -/
def tokqSample (a : BitVec 6) (x : Issuer) (s : State) : Word × State :=
  if a = 2 then (s.pwReg 0x003, s)
  else
    match x.a with
    | .cp _ => s.free
    | .wave _ => (if a = 0 then BitVec.ofNat 32 (s.core (s.coreOf x.a)).tokens else x.w.tokens, s)

theorem exec_tokq (u : BitVec 1) (d a : BitVec 6) (s : State) : exec (.tokq u d a) s =
    issue (.tokq u d a) s fun x s => sampled u d.toNat (tokqSample a x s).1 x (tokqSample a x s).2 := by
  refine congrArg (issue (.tokq u d a) s) (funext fun x => funext fun s => ?_)
  unfold tokqSample
  split
  · rfl
  · rcases x with ⟨_ | _, w, e, th⟩ <;> rfl

/-- What `TIME.cyc` counts. -/
def cycOf (x : Issuer) (s : State) : Nat :=
  match x.a with
  | .cp _ => s.hubCyc
  | .wave _ => (s.cluster (clusterOf (s.coreOf x.a))).cyc

theorem exec_timeCyc (u : BitVec 1) (d : BitVec 6) (s : State) : exec (.timeCyc u d) s =
    issue (.timeCyc u d) s fun x s => sampledPair u d.toNat (BitVec.ofNat 64 (cycOf x s)) x s := by
  refine congrArg (issue (.timeCyc u d) s) (funext fun x => funext fun s => ?_)
  rcases x with ⟨_ | _, w, e, th⟩ <;> rfl

theorem tokqSample_wave {a : BitVec 6} {x : Issuer} {k : WaveKey} (ha : x.a = .wave k) (h2 : a ≠ 2) (s : State) :
    tokqSample a x s = (if a = 0 then BitVec.ofNat 32 (s.core (s.coreOf x.a)).tokens else x.w.tokens, s) := by
  unfold tokqSample
  rw [if_neg h2, ha]

theorem tokqSample_cp {a : BitVec 6} {x : Issuer} {c : Nat} (ha : x.a = .cp c) (h2 : a ≠ 2) (s : State) : tokqSample a x s = s.free := by
  unfold tokqSample
  rw [if_neg h2, ha]

section
variable {i : BitVec 1 → Instr} {s s' : State} {x : Issuer} {d : Nat} {eff : BitVec 1 → Issuer → State → Effect}

/-- Both forms of an instruction that writes one sampled word. -/
theorem sampled_word (v : Word) (he : ∀ u, exec (i u) s = issue (i u) s (eff u)) (hf : ∀ u, eff u x s = sampled u d v x s)
    (hz : ∀ u, (i u).size = 4) :
    (Ready (i 0) s x → Completes (i 0) s x fun w => Passed x 4 w ∧ LaneRegs x d (fun _ => v) w ∧ w.sticky = x.w.sticky) ∧
      (Ready (i 1) s x → Completes (i 1) s x fun w => Passed x 4 w ∧ UniRegs x d v w ∧ w.sticky = x.w.sticky) := by
  constructor
  · rw [← hz 0]; exact fun hr => plainLane_at (f := fun _ => v) hr (he 0) (hf 0) hr.agent
  · rw [← hz 1]; exact fun hr => plainUni_at (f := fun _ => v) hr (he 1) (hf 1) hr.agent

/-- Both forms of an instruction that writes one sampled pair. -/
theorem sampled_double (v : DWord) (he : ∀ u, exec (i u) s = issue (i u) s (eff u)) (hf : ∀ u, eff u x s = sampledPair u d v x s)
    (hz : ∀ u, (i u).size = 4) :
    (Ready (i 0) s x → Completes (i 0) s x fun w => Passed x 4 w ∧ LanePairs x d (fun _ => v) w ∧ w.sticky = x.w.sticky) ∧
      (Ready (i 1) s x → Completes (i 1) s x fun w => Passed x 4 w ∧ UniPair x d v w ∧ w.sticky = x.w.sticky) := by
  constructor
  · rw [← hz 0]; exact fun hr => pairLane_at (f := fun _ => v) hr (he 0) (hf 0) hr.agent
  · rw [← hz 1]; exact fun hr => pairUni_at (f := fun _ => v) hr (he 1) (hf 1) hr.agent

end

/-- Settles O52: each instruction writes one sample, of the state as it issues. -/
theorem timeResults : Obligations.TimeResults := by
  refine ⟨fun a s x hr => ?_, fun a s x hr => occurs_done hr rfl rfl, fun d s x => ⟨?_, fun k ha => ⟨?_, ?_⟩, fun c a ha h2 => ?_⟩,
    fun c h0 h1 => Core.tokens_eq h0 h1, fun d s x => ⟨?_, ?_, fun k ha => ?_, fun c ha => ?_⟩, fun d a b s x => ?_, fun x y ka kb => ?_⟩
  · obtain ⟨t, ht, hadv⟩ := occurs_done (v := s) (units := 1) (price := none) hr rfl rfl
    obtain ⟨w, honly, hregs, hsame, hst, hth⟩ := hadv x.w hr.agent
    exact ⟨t, w, ht, honly, hregs, hth, hsame, hst⟩
  · exact sampled_word _ (fun u => exec_tokq u d 2 s) (fun _ => rfl) fun _ => rfl
  · exact sampled_word _ (fun u => exec_tokq u d 0 s) (fun u => by rw [tokqSample_wave ha (by decide)]; rfl) fun _ => rfl
  · exact sampled_word _ (fun u => exec_tokq u d 1 s) (fun u => by rw [tokqSample_wave ha (by decide)]; rfl) fun _ => rfl
  · have hne : a ≠ 2 := fun h => by rw [h] at h2; exact absurd h2 (by decide)
    have hagent (i : Instr) (hr : Ready i s x) : s.free.2.agent? x.a = some x.w := by rw [← hr.agent, ha]; rfl
    refine ⟨fun hr => ?_, fun hr => ?_⟩
    · obtain ⟨t, w, ht, honly, hregs, hpass, hlane, -⟩ :=
        plainLane_at (f := fun _ => s.free.1) hr (exec_tokq 0 d a s) (by rw [tokqSample_cp ha hne]; rfl) (hagent _ hr)
      exact ⟨t, w, ht, honly, hregs, hpass, _, hlane⟩
    · obtain ⟨t, w, ht, honly, hregs, hpass, huni, -⟩ :=
        plainUni_at (f := fun _ => s.free.1) hr (exec_tokq 1 d a s) (by rw [tokqSample_cp ha hne]; rfl) (hagent _ hr)
      exact ⟨t, w, ht, honly, hregs, hpass, _, huni⟩
  · rw [← ofNat_bits_eq_and]
    exact sampled_word (i := fun u => .capq u d) _ (fun _ => rfl) (fun _ => rfl) fun _ => rfl
  · exact sampled_double (i := fun u => .timeRef u d) _ (fun _ => rfl) (fun _ => rfl) fun _ => rfl
  · exact sampled_double _ (fun u => exec_timeCyc u d s) (fun u => by unfold cycOf; rw [ha]) fun _ => rfl
  · exact sampled_double _ (fun u => exec_timeCyc u d s) (fun u => by unfold cycOf; rw [ha]) fun _ => rfl
  · exact ⟨fun hr => plainLane_at hr rfl rfl hr.agent, fun hr => plainUni_at hr rfl rfl hr.agent⟩
  · rw [mixRound, ofNat_mul_word]; rfl

end Sys2Proof.Machine
end

section
/-! System registers (R7, R327 to R330, R345, R346, R430). -/
namespace Sys2Proof.Machine
open Sys2Proof

theorem RegBits.write_getLsbD (b : RegBits) (old v : Word) {j : Nat} (hj : j < 32) : (b.write old v).getLsbD j =
    if b.rw.getLsbD j = true then v.getLsbD j else if b.w1c.getLsbD j = true ∧ v.getLsbD j = true then false else old.getLsbD j := by
  simp only [RegBits.write, BitVec.getLsbD_or, BitVec.getLsbD_and, BitVec.getLsbD_not, hj, decide_true, Bool.true_and]
  cases b.rw.getLsbD j <;> cases b.w1c.getLsbD j <;> cases v.getLsbD j <;> simp

/-! Privileged instructions. -/

theorem fenced_done {f : Issuer → State → Effect} {x : Issuer} {s v : State} (h : f x (s.privFence x.a) = .done v) :
    fenced f x s = .done (v.privFence x.a) := by
  unfold fenced
  rw [h]

theorem majorOf_mfsr (d : BitVec 6) (n : BitVec 16) : majorOf (.mfsr d n) = 0x1C :=
  majorOf_pack (i := .mfsr d n) (L := Layout.mfsr) (fs := [d.toNat, n.toNat]) rfl rfl (by decide)

theorem majorOf_mtsr (d : BitVec 6) (n : BitVec 16) : majorOf (.mtsr d n) = 0x1C :=
  majorOf_pack (i := .mtsr d n) (L := Layout.mtsr) (fs := [d.toNat, n.toNat]) rfl rfl (by decide)

theorem majorOf_haltc (c : BitVec 1) : majorOf (.haltc c) = 0x1C :=
  majorOf_pack (i := .haltc c) (L := Layout.haltc) (fs := [c.toNat]) rfl rfl (by decide)

/-- An instruction of a wave that lacks its privilege, whose effect raises nothing. -/
theorem exec_lacksPrivilege {i : Instr} {s : State} {x : Issuer} {k : WaveKey} {eff : Issuer → State → Effect} (hx : s.issuer? = some x)
    (ha : x.a = .wave k) (hm : x.w.missed i x.e (s.descOf x.a).nregs = false) (hp : x.w.poisoned i x.e (s.descOf x.a).nregs = none)
    (hf : reservedField i = false) (hmajor : majorOf i = 0x1C) (hlack : lacksPrivilege i (s.level x.a) = true)
    (he : exec i s = issue i s eff) (hdone : ∃ v, eff x s = .done v) (hsize : i.size = 4) :
    exec i s = .next (s.takeCause x.a x.e Cause.priv 0 x.pc (x.th.advance 4) 0) := by
  obtain ⟨v, hv⟩ := hdone
  have hplace : wrongPlace i x.a = false := by simp [wrongPlace, ha, hmajor]
  have hcause : encodingCause i s x.a x.th = some Cause.priv := by
    rw [encodingCause, hf, hplace, hlack]; rfl
  rw [he, issue, hx]
  dsimp only
  rw [State.issueAs, hm, hp, hcause, hv]
  simp only [conclude, hsize]
  rfl

/-! Registers of the state. -/

theorem State.ptReg_setPtReg {s : State} {p : Nat} (hp : p < s.parts.length) (i j : Nat) (v : Word) :
    (s.setPtReg p i v).ptReg p j = if j = i then v else s.ptReg p j := by
  simp [ptReg, setPtReg, part, putPart, hp, Tab.get_put]

theorem State.dvReg_setDvReg (s : State) {i : Nat} (hi : i ≠ 0) (v : Word) : (s.setDvReg i v).dvReg i = v := by
  simp [dvReg, setDvReg, hi]

theorem State.ctReg_setCtReg_other (s : State) {c i e j : Nat} (h : (c, i) ≠ (e, j)) (v : Word) : (s.setCtReg c i v).ctReg e j = s.ctReg e j := by
  by_cases hce : e = c
  · subst hce
    by_cases hlt : e < s.ctxs.length
    · rw [ctReg_setCtReg hlt, if_neg fun hji => h (by rw [hji])]
    · refine ctReg_of_reg ?_ j
      rw [setCtReg, ctx, ctx, putCtx, List.getElem?_eq_none (by simpa using hlt), List.getElem?_eq_none (by simpa using hlt)]
  · exact ctReg_of_reg (by rw [setCtReg, ctx_putCtx_other _ hce]) j

/-- A read clears the read-to-clear bits of its register. -/
theorem State.regNow_clearRead {s : State} {p : Nat} (hp : p < s.parts.length) (n : BitVec 16) (hrc : (regBits n).rc ≠ 0) (g : RegAgent)
    (hg : g.part = p) : (s.clearRead p n (BitVec.allOnes 32)).regNow g n = s.regNow g n &&& ~~~(regBits n).rc := by
  subst hg
  have hall : (regBits n).rc &&& BitVec.allOnes 32 = (regBits n).rc := BitVec.and_allOnes
  unfold clearRead
  simp only [hall, if_neg hrc]
  unfold regNow
  unfold regBits at hrc ⊢
  dsimp only at hrc ⊢
  -- by the group of the register
  rcases hgroup : n.toNat / 0x2000 with _ | _ | _ | _ | _ | m
  · simp only [hgroup] at hrc ⊢; exact absurd (by unfold wvBits; split <;> rfl) hrc
  · simp only [hgroup] at hrc ⊢; exact absurd (by unfold ctBits; split <;> rfl) hrc
  · exact (ptReg_setPtReg hp _ _ _).trans (if_pos rfl)
  · simp only [hgroup] at hrc ⊢
    refine dvReg_setDvReg s ?_ _
    intro h0
    rw [h0] at hrc
    exact hrc rfl
  · exact Tab.get_put_same ..
  · simp only [hgroup] at hrc; exact absurd rfl hrc

theorem windowReg_at (s : State) {level p : Nat} (n : BitVec 16) (hp : p < 8) :
    s.windowReg { level := level, part := p } (0x40000 * p + 4 * n.toNat) =
      if s.ready = true ∧ regDefined n = true ∧ 0 < level ∧ (n.toNat < 0x6000 ∨ p = 0) then some (p, n) else none := by
  have hn := n.isLt
  have h1 : (0x40000 * p + 4 * n.toNat) / 0x40000 = p := by omega
  have h2 : (0x40000 * p + 4 * n.toNat) % 0x40000 / 4 = n.toNat := by omega
  unfold State.windowReg
  simp only [h1, h2, BitVec.ofNat_toNat, BitVec.setWidth_eq]
  by_cases hgood : s.ready = true ∧ regDefined n = true ∧ 0 < level
  · obtain ⟨hready, hdef, hlevel⟩ := hgood
    rw [if_neg (by simp [hready, hdef]; omega)]
    by_cases hgroup : 3 ≤ n.toNat / 0x2000
    · rw [if_pos hgroup]
      by_cases hp0 : p = 0
      · rw [if_pos hp0, if_pos ⟨hready, hdef, hlevel, .inr hp0⟩]
      · rw [if_neg hp0, if_neg fun h => by rcases h.2.2.2 with h | h <;> omega]
    · rw [if_neg hgroup, if_neg (by simp), if_pos ⟨hready, hdef, hlevel, .inl (by omega)⟩]
  · rw [if_pos, if_neg fun h => hgood ⟨h.1, h.2.1, h.2.2.1⟩]
    by_contra hno
    simp only [Bool.or_eq_true, Bool.not_eq_true', decide_eq_true_eq, not_or, Bool.not_eq_false] at hno
    exact hgood ⟨hno.1.1.1, hno.1.2, Nat.pos_of_ne_zero hno.2⟩

theorem windowWrite_at (s : State) {level p : Nat} (n : BitVec 16) (v : Word) (hp : p < 8) :
    s.windowWrite { level := level, part := p } (0x40000 * p + 4 * n.toNat) v =
      if (s.ready = true ∧ regDefined n = true ∧ 0 < level ∧ (n.toNat < 0x6000 ∨ p = 0)) ∧ regWriteLevel n ≤ level then
        s.writeReg { level := level, part := p } n v
      else s := by
  unfold State.windowWrite
  rw [windowReg_at s n hp]
  have hmask : (v &&& BitVec.allOnes 32) ||| (s.regNow { level := level, part := p } n &&& (regBits n).rw &&& ~~~BitVec.allOnes 32) = v := by
    rw [BitVec.and_allOnes, BitVec.not_allOnes, BitVec.and_zero, BitVec.or_zero]
  by_cases h : s.ready = true ∧ regDefined n = true ∧ 0 < level ∧ (n.toNat < 0x6000 ∨ p = 0)
  · rw [if_pos h]
    dsimp only
    rw [hmask]
    by_cases hl : level < regWriteLevel n
    · rw [if_pos hl, if_neg fun h => by omega]
    · rw [if_neg hl, if_pos ⟨h, by omega⟩]
  · rw [if_neg h, if_neg fun h' => h h'.1]

/-- Settles O53: the access codes, the fences around `MFSR` and `MTSR`, their privilege, the registers themselves and the window. -/
theorem systemRegisters : Obligations.SystemRegisters := by
  refine ⟨fun b old v j hj => b.write_getLsbD old v hj, fun d n s x => ⟨fun hr => occurs_done hr rfl (fenced_done rfl),
    fun hr => occurs_done hr rfl (fenced_done rfl)⟩, ?_, ?_, ?_, ?_⟩
  · intro i s x k hx ha hm hp hf hcase
    have hlevel : s.level x.a = if s.sys k.team.grid.ctx then 1 else 0 := by rw [ha]; rfl
    rcases hcase with ⟨hsys, ⟨d, n, rfl⟩ | ⟨d, n, rfl⟩ | ⟨c, rfl⟩⟩ | ⟨d, n, rfl, hw⟩
    · exact exec_lacksPrivilege hx ha hm hp hf (majorOf_mfsr d n) (by simp [lacksPrivilege, majorOf_mfsr, hlevel, hsys]) rfl ⟨_, fenced_done rfl⟩ rfl
    · exact exec_lacksPrivilege hx ha hm hp hf (majorOf_mtsr d n) (by simp [lacksPrivilege, majorOf_mtsr, hlevel, hsys]) rfl ⟨_, fenced_done rfl⟩ rfl
    · exact exec_lacksPrivilege hx ha hm hp hf (majorOf_haltc c) (by simp [lacksPrivilege, majorOf_haltc, hlevel, hsys]) rfl ⟨_, fenced_done rfl⟩ rfl
    · refine exec_lacksPrivilege hx ha hm hp hf (majorOf_mtsr d n) ?_ rfl ⟨_, fenced_done rfl⟩ rfl
      simp only [lacksPrivilege, majorOf_mtsr, hlevel, hw]
      split <;> rfl
  · intro s c p i v hc hp
    refine ⟨?_, ?_, fun hi => s.dvReg_setDvReg hi v, Tab.get_put_same .., fun e j h => s.ctReg_setCtReg_other h v⟩
    · rw [State.ctReg_setCtReg hc, if_pos rfl]
    · rw [State.ptReg_setPtReg hp, if_pos rfl]
  · intro s p n hp hlen hrc hready g t
    have hgroup : n.toNat / 0x2000 ≠ 0 := by
      intro h0
      refine hrc ?_
      unfold regBits wvBits
      simp only [h0]
      split <;> rfl
    have ht : t = s.clearRead p n (BitVec.allOnes 32) := by
      show (s.readReg g n).2 = _
      rw [State.readReg, if_neg hgroup]
    refine ⟨?_, rfl, ?_⟩
    · show execReadClear p n s = _
      have hno : ¬(decide ((regBits n).rc = 0#32) || !s.ready) = true := by
        rw [hready, decide_eq_false (show ¬(regBits n).rc = 0#32 from hrc)]; decide
      simp only [execReadClear, if_neg (show ¬8 ≤ p by omega), event, if_neg hno, ht]
    · rw [ht]
      exact State.regNow_clearRead (hlen ▸ hp) n hrc g rfl
  · intro s level p n v hp hlevel g
    refine ⟨s.windowWrite g (0x40000 * p + 4 * n.toNat) v, ?_, fun h1 h2 h3 h4 h5 => ?_, fun h => ?_⟩
    · show execRegisterWrite level p n v s = _
      rw [execRegisterWrite, if_neg (by simp; omega)]
      rfl
    · rw [windowWrite_at s n v hp, if_pos ⟨⟨h1, h2, h5, h4⟩, h3⟩]
    · rw [windowWrite_at s n v hp, if_neg]
      rintro ⟨⟨h1, h2, h5, h4⟩, h3⟩
      rcases h with h | h | h | ⟨h, h'⟩
      · rw [h] at h1; nomatch h1
      · rw [h] at h2; nomatch h2
      · omega
      · rcases h4 with h4 | h4
        · omega
        · exact h' h4

end Sys2Proof.Machine
end

section
/-! PROOF. What leaves every byte of memory as it was: the store of the home points and of every L1. Loads go in flight (O32), and the checks of
an access (O35). -/

namespace Sys2Proof.Machine

open Sys2Proof

/-- The home points, the LLC and every core's L1 are as they were. -/
structure State.SameStore (s t : State) : Prop where
  home : t.home = s.home
  llc  : t.llc = s.llc
  l1   : ∀ c, (t.core c).l1 = (s.core c).l1

namespace State.SameStore

theorem refl (s : State) : s.SameStore s := ⟨rfl, rfl, fun _ => rfl⟩

theorem trans {s t u : State} (h : s.SameStore t) (g : t.SameStore u) : s.SameStore u :=
  ⟨g.home.trans h.home, g.llc.trans h.llc, fun c => (g.l1 c).trans (h.l1 c)⟩

theorem of_cores {s t : State} (hh : t.home = s.home) (hl : t.llc = s.llc) (hc : t.cores = s.cores) : s.SameStore t :=
  ⟨hh, hl, fun c => by unfold State.core; rw [hc]⟩

theorem homeByte {s t : State} (h : s.SameStore t) (a : Nat) : t.homeByte a = s.homeByte a := by
  unfold State.homeByte; rw [h.home, h.llc]

theorem memory {s t : State} (h : s.SameStore t) : s.SameMemory t := by
  intro c a
  unfold State.coreByte
  rw [h.l1 c, h.homeByte a]

theorem foldl {α : Type} (f : State → α → State) (h : ∀ s a, State.SameStore s (f s a)) (l : List α) (s : State) :
    s.SameStore (l.foldl f s) := by
  induction l generalizing s with
  | nil => exact refl s
  | cons a l ih => exact (h s a).trans (ih _)

theorem putAgent (s : State) (a : Agent) (w : Wave) : s.SameStore (s.putAgent a w) := of_cores (by simp) (by simp) (by simp)

theorem modAgent (s : State) (a : Agent) (f : Wave → Wave) : s.SameStore (s.modAgent a f) := by
  unfold State.modAgent
  split
  · exact putAgent ..
  · exact refl s

theorem modTeam (s : State) (k : TeamKey) (f : Team → Team) : s.SameStore (s.modTeam k f) := by
  unfold State.modTeam
  split
  · exact of_cores rfl rfl rfl
  · exact refl s

theorem putCtx (s : State) (c : Nat) (x : Ctx) : s.SameStore (s.putCtx c x) := of_cores rfl rfl rfl
theorem setCtReg (s : State) (c i : Nat) (v : Word) : s.SameStore (s.setCtReg c i v) := of_cores rfl rfl rfl
theorem setPtReg (s : State) (c i : Nat) (v : Word) : s.SameStore (s.setPtReg c i v) := of_cores rfl rfl rfl

theorem raiseEvent (s : State) (p event ctx : Nat) (payload : List Byte) : s.SameStore (s.raiseEvent p event ctx payload) := by
  unfold State.raiseEvent
  simp only
  split
  · split <;> exact of_cores rfl rfl rfl
  · exact of_cores rfl rfl rfl

theorem raiseHalt (s : State) (c : Nat) (h : HaltHdr) : s.SameStore (s.raiseHalt c h) := by
  unfold State.raiseHalt
  simp only
  split
  · exact refl s
  · split
    · split
      · exact putCtx ..
      · exact refl s
    · exact putCtx ..

theorem takeCause (s : State) (a : Agent) (e : LaneMask) (code : Cause) (tcode : Byte) (pc : DWord) (ret : Thread) (src : Nat) :
    s.SameStore (s.takeCause a e code tcode pc ret src) := by
  unfold State.takeCause
  split
  · exact (((setCtReg ..).trans (modAgent ..)).trans (putCtx ..)).trans (raiseEvent ..)
  · split
    · exact refl s
    · split
      · exact putAgent ..
      · exact (putAgent ..).trans (raiseHalt ..)

theorem pendCause (s : State) (a : Agent) (code : Cause) (src : Nat) (who : DWord) (core quarter : Nat) :
    s.SameStore (s.pendCause a code src who core quarter) := by
  unfold State.pendCause
  split
  · simp only
    split
    · split
      · exact takeCause ..
      · exact refl s
    · exact raiseHalt ..
  · split
    · exact raiseHalt ..
    · split
      · exact raiseHalt ..
      · exact putAgent ..

theorem pendOp (s : State) (o : Op) : s.SameStore (s.pendOp o) := by
  unfold State.pendOp
  split
  · exact pendCause ..
  · exact refl s

theorem dropStores (s : State) : s.SameStore s.dropStores := by
  unfold State.dropStores
  simp only
  refine State.SameStore.trans ?_ (foldl _ pendOp _ _)
  exact of_cores rfl rfl rfl

theorem raiseFlags (s : State) (fs : List (Agent × Nat)) : s.SameStore (s.raiseFlags fs) := foldl _ (fun s (p : Agent × Nat) => modAgent s p.1 _) _ _
theorem dropFlags (s : State) (fs : List (Agent × Nat)) : s.SameStore (s.dropFlags fs) := foldl _ (fun s (p : Agent × Nat) => modAgent s p.1 _) _ _

theorem addOp (s : State) (f : Nat → Op) : s.SameStore (s.addOp f) :=
  (raiseFlags s _).trans (of_cores rfl rfl rfl)

theorem launchOp (s : State) (x : Issuer) (i : Instr) (e : LaneMask) (kind : OpKind) (accs : List LaneAcc) :
    s.SameStore (s.launchOp x i e kind accs) := addOp ..

end State.SameStore

namespace State

theorem raiseFlags_keeps {α : Type} (p : State → α) (h : ∀ s a w, p (putAgent s a w) = p s) (s : State) (fs : List (Agent × Nat)) :
    p (s.raiseFlags fs) = p s := by
  induction fs generalizing s with
  | nil => rfl
  | cons q fs ih =>
    refine (ih _).trans ?_
    show p (s.modAgent q.1 _) = p s
    unfold modAgent
    split
    · exact h ..
    · rfl

theorem launchOp_ops (s : State) (x : Issuer) (i : Instr) (e : LaneMask) (kind : OpKind) (accs : List LaneAcc) :
    (s.launchOp x i e kind accs).ops = s.ops ++
      [{ id := s.opCtr, agent := x.a, pc := x.pc, core := s.coreOf x.a, lanes := e, flags := x.flags i, kind := kind, accs := accs,
         who := s.whoBase x.a, quarter := x.w.quarter }] := by
  unfold launchOp addOp
  simp only
  rw [raiseFlags_keeps (·.ops) putAgent_ops]

/-- The flag of an operation that goes in flight rises by one, and no register of its wave changes. -/
theorem launchOp_flag {s : State} {x : Issuer} {i : Instr} {w : Wave} {n : Nat} (hw : s.agent? x.a = some w) (hn : flagOf i x.th.chdr = some n)
    (e : LaneMask) (kind : OpKind) (accs : List LaneAcc) :
    ∃ w', (s.launchOp x i e kind accs).agent? x.a = some w' ∧ w'.flag n = w.flag n + 1 ∧ SameRegs w w' := by
  refine ⟨w.modFlag n (· + 1), ?_, ?_, fun _ _ _ => rfl, fun _ => rfl⟩
  · have hf : x.flags i = [(x.a, n)] := by simp [Issuer.flags, hn]
    unfold launchOp addOp
    simp only [hf]
    exact agent?_modAgent hw _
  · simp [Wave.modFlag, Wave.flag]

/-- Where an agent has no access in flight, program order puts nothing before a new one. -/
theorem forceWhere_none {s : State} {a : Agent} (h : ∀ o ∈ s.ops, o.agent ≠ a) (p : Op → LaneAcc → Bool) :
    s.forceWhere a p = s.dropStores := by
  have hl : ∀ l : List Op, (∀ o ∈ l, o.agent ≠ a) → l.foldl
      (fun s o => if o.agent = a then o.accs.foldl (fun s c => if p o c then s.performLane o.id c.lane else s) s else s) s = s := by
    intro l hl
    induction l with
    | nil => rfl
    | cons o l ih =>
      obtain ⟨ho, hl⟩ := List.forall_mem_cons.1 hl
      simp only [List.foldl_cons, if_neg ho]
      exact ih hl
  unfold forceWhere
  rw [hl _ h]

end State

end Sys2Proof.Machine
end

section
/-! PROOF. The issue of checked accesses: loads go in flight (O32), and the checks of an access (O35). -/

namespace Sys2Proof.Machine

open Sys2Proof

section
variable {s u : State} {x : Issuer} {size : Nat}

/-- An access of which every lane passes its checks goes on at the places found. -/
theorem memAccess_granted {reqs : List (Nat × DWord × AccMode)} {ps : List (Nat × Place)} (h : s.Grants u x.a size reqs ps) (uni wr atom : Bool)
    (go : State → List (Nat × Place) → Effect) : memAccess x s uni wr atom size reqs go = go u ps := by
  obtain ⟨hc, hps⟩ := h
  unfold memAccess
  rw [hc]
  simp [hps]

/-- One of which a lane meets a cause has no effect. -/
theorem memAccess_cause {reqs : List (Nat × DWord × AccMode)} {c : Cause} {p : Checked × State} (hp : s.checkLanes x.a size reqs = p)
    (hc : p.1.cause = some c) (uni wr atom : Bool) (go : State → List (Nat × Place) → Effect) :
    memAccess x s uni wr atom size reqs go = .raise c p.2 := by
  unfold memAccess
  rw [hp]
  simp [hc]

/-- One of which lanes find `PAGE` alone parks them, and goes on for the others. -/
theorem memAccess_paged {reqs : List (Nat × DWord × AccMode)} {c : Checked} (hp : s.checkLanes x.a size reqs = (c, u)) (hc : c.cause = none)
    (hd : c.drop = false) (hq : c.paged ≠ []) (uni wr atom : Bool) (go : State → List (Nat × Place) → Effect) :
    memAccess x s uni wr atom size reqs go =
      if c.oks = [] then .moved (u.parkPaged x uni c.paged wr atom) else go (u.parkPaged x uni c.paged wr atom) c.oks := by
  unfold memAccess
  rw [hp]
  simp [hc, hd, hq]

theorem issueLoad_eq {reqs : List (Nat × DWord × AccMode)} (uni : Bool) (h : s.ctxHazard x uni size (reqs.map fun r => (r.1, r.2.1)) = false)
    (i : Instr) (last sext : Bool) (dst : Nat) (m : Sem) :
    issueLoad i uni last sext dst size m reqs x s = memAccess x s uni false false size reqs fun s ps =>
      .done ((s.forceBefore x.a (if uni then x.e else lanesOfPlaces ps) uni size ps).launchOp x i (if uni then x.e else lanesOfPlaces ps)
        (.load size sext dst uni last (2 ≤ m.scope) m.acq) (ps.map fun p => { lane := p.1, place := p.2 })) := by
  unfold issueLoad
  rw [if_neg (by simp [h])]

theorem issueStore_eq {reqs : List (Nat × DWord × List Byte)} (uni : Bool) (h : s.ctxHazard x uni size (reqs.map fun r => (r.1, r.2.1)) = false)
    (i : Instr) (m : Sem) :
    issueStore i uni size m reqs x s = memAccess x s uni true false size (reqs.map fun q => (q.1, q.2.1, .store q.2.2)) fun s ps =>
      .done (((s.forceBefore x.a (if uni then x.e else lanesOfPlaces ps) uni size ps).releaseBefore x m).storeLanes x i uni m
        (reqs.filterMap fun q => (ps.find? fun p => p.1 = q.1).map fun p => (q.1, q.2.1, p.2, q.2.2))) := by
  unfold issueStore
  rw [if_neg (by simp [h])]

theorem issueLoad_granted {reqs : List (Nat × DWord × AccMode)} {ps : List (Nat × Place)} (uni : Bool)
    (h : s.ctxHazard x uni size (reqs.map fun r => (r.1, r.2.1)) = false) (hg : s.Grants u x.a size reqs ps)
    (i : Instr) (last sext : Bool) (dst : Nat) (m : Sem) :
    issueLoad i uni last sext dst size m reqs x s =
      .done ((u.forceBefore x.a (if uni then x.e else lanesOfPlaces ps) uni size ps).launchOp x i (if uni then x.e else lanesOfPlaces ps)
        (.load size sext dst uni last (2 ≤ m.scope) m.acq) (ps.map fun p => { lane := p.1, place := p.2 })) :=
  (issueLoad_eq uni h i last sext dst m).trans (memAccess_granted hg ..)

end

/-- Settles O32: a granted access puts its operation in flight, which changes only what is in flight and the flag. -/
theorem loadIssues : Obligations.LoadIssues := by
  unfold Obligations.LoadIssues
  refine ⟨?_, ?_, ?_, ?_, ?_, ?_⟩
  · intro f d b t sv o s u x ps reqs hz hg
    have hm : ((x.addrs b o (typeSize t)).map fun p => (p.1, p.2, AccMode.load)) = reqs := by simp [Issuer.addrs, reqs]
    refine ⟨fun hr => occurs_done (units := 1) (price := none) hr rfl ?_, fun hr => occurs_done (units := 1) (price := none) hr rfl ?_⟩
    · exact (congrArg (fun r => issueLoad _ false false (signExtends t) (blockOf t d).1 (typeSize t) _ r x s) hm).trans
        (issueLoad_granted false hz hg ..)
    · exact (congrArg (fun r => issueLoad _ false true (signExtends t) (blockOf t d).1 (typeSize t) _ r x s) hm).trans
        (issueLoad_granted false hz hg ..)
  · intro f d b t sv o s u x ps reqs hr hz hg
    exact occurs_done (units := 1) (price := none) hr rfl (issueLoad_granted true hz hg ..)
  · intro f d b t sv o s x ps hr hp m v
    refine occurs_done (units := 1) (price := none) hr rfl ?_
    simp only [hp]
    rfl
  · exact fun s x i e kind accs => ⟨State.launchOp_ops s x i e kind accs, (State.SameStore.launchOp s x i e kind accs).memory⟩
  · exact fun s x i e kind accs k w n _ hw hn => State.launchOp_flag hw hn e kind accs
  · intro s a e uni size ps h
    exact (show s.forceBefore a e uni size ps = s.dropStores from State.forceWhere_none h _) ▸ (State.SameStore.dropStores s).memory

/-! The checks. -/

theorem checkLane_high (s : State) (a : Agent) (l : Nat) (m : AccMode) (n : Nat) {va : DWord} (h : 2 ^ 57 ≤ va.toNat) :
    s.checkLane a l m n va = (.cause Cause.access, s) := by
  unfold State.checkLane
  rw [if_pos (Nat.div_pos h (Nat.two_pow_pos 57)).ne']

theorem checkLane_misaligned (s : State) (a : Agent) (l : Nat) (m : AccMode) {n : Nat} {va : DWord} (h : va.toNat < 2 ^ 57)
    (hn : va.toNat % n ≠ 0) : s.checkLane a l m n va = (.cause Cause.align, s) := by
  unfold State.checkLane
  rw [if_neg (not_not.2 (Nat.div_eq_of_lt h)), if_pos hn]

theorem checkLane_page {s u : State} {a : Agent} {m : AccMode} {n : Nat} {va : DWord} (l : Nat) (h : va.toNat < 2 ^ 57) (hn : va.toNat % n = 0)
    (ht : s.translate (ctxOf a) (s.coreOf a) (s.level a) m.kind va = (.page, u)) : s.checkLane a l m n va = (.page, u) := by
  unfold State.checkLane
  rw [if_neg (not_not.2 (Nat.div_eq_of_lt h)), if_neg (not_not.2 hn), ht]

/-- A request for an address out of range. -/
def farAddr (r : Nat × DWord × AccMode) : Bool := decide (2 ^ 57 ≤ r.2.1.toNat)

/-- The cause that addresses out of range or misaligned give, from that of the lanes before. -/
def badCause (reqs : List (Nat × DWord × AccMode)) (c : Option Cause) : Option Cause :=
  reqs.foldl (fun c r => lowerCause (if farAddr r then Cause.access else Cause.align) c) c

theorem checkLane_bad (s : State) (a : Agent) (n : Nat) (r : Nat × DWord × AccMode) (h : 2 ^ 57 ≤ r.2.1.toNat ∨ r.2.1.toNat % n ≠ 0) :
    s.checkLane a r.1 r.2.2 n r.2.1 = (.cause (if farAddr r then Cause.access else Cause.align), s) := by
  cases hf : farAddr r with
  | true => exact checkLane_high _ _ _ _ _ (of_decide_eq_true hf)
  | false =>
    have hv : ¬2 ^ 57 ≤ r.2.1.toNat := of_decide_eq_false hf
    exact checkLane_misaligned _ _ _ _ (Nat.lt_of_not_le hv) (h.resolve_left hv)

theorem foldl_badCause (step : Checked × State → Nat × DWord × AccMode → Checked × State) (reqs : List (Nat × DWord × AccMode))
    (h : ∀ r ∈ reqs, ∀ p, (step p r).1.cause = lowerCause (if farAddr r then Cause.access else Cause.align) p.1.cause) (p : Checked × State) :
    (reqs.foldl step p).1.cause = badCause reqs p.1.cause := by
  induction reqs generalizing p with
  | nil => rfl
  | cons r reqs ih =>
    obtain ⟨hr, hrs⟩ := List.forall_mem_cons.1 h
    rw [List.foldl_cons, ih hrs, hr]
    rfl

theorem checkLanes_bad (a : Agent) (n : Nat) (reqs : List (Nat × DWord × AccMode))
    (h : ∀ r ∈ reqs, 2 ^ 57 ≤ r.2.1.toNat ∨ r.2.1.toNat % n ≠ 0) (s : State) :
    (s.checkLanes a n reqs).1.cause = badCause reqs none := by
  unfold State.checkLanes
  refine foldl_badCause _ reqs (fun r hr p => ?_) ({}, s)
  obtain ⟨l, va, m⟩ := r
  have hl := checkLane_bad p.2 a n (l, va, m) (h _ hr)
  simp only at hl ⊢
  rw [hl]

theorem lowerCause_badCause (b : Bool) {c : Option Cause} (hc : c = none ∨ c = some Cause.access ∨ c = some Cause.align) :
    lowerCause (if b then Cause.access else Cause.align) c = some (if b = true ∧ c ≠ some Cause.align then Cause.access else Cause.align) := by
  rcases hc with rfl | rfl | rfl <;> cases b <;> decide

/-- Of these causes `ALIGN` is the lower. -/
theorem badCause_eq (reqs : List (Nat × DWord × AccMode)) (c : Option Cause) (hc : c = none ∨ c = some Cause.access ∨ c = some Cause.align)
    {d : Cause} (h : badCause reqs c = some d) :
    d = if (∀ r ∈ reqs, farAddr r = true) ∧ c ≠ some Cause.align then Cause.access else Cause.align := by
  induction reqs generalizing c with
  | nil =>
    have h' : c = some d := h
    subst h'
    rcases hc with h | h | h
    · nomatch h
    · rw [Option.some.inj h]; decide
    · rw [Option.some.inj h]; decide
  | cons r reqs ih =>
    have hl := lowerCause_badCause (farAddr r) hc
    have hb : badCause reqs (some (if farAddr r = true ∧ c ≠ some Cause.align then Cause.access else Cause.align)) = some d := by
      rw [← hl]; exact h
    rw [ih _ (by split <;> simp) hb]
    refine if_congr ?_ rfl rfl
    rw [List.forall_mem_cons]
    by_cases hv : farAddr r = true ∧ c ≠ some Cause.align
    · rw [if_pos hv]; simp only [hv.1, true_and]; exact and_congr_right fun _ => iff_of_true (by decide) hv.2
    · rw [if_neg hv]; exact iff_of_false (fun g => g.2 rfl) fun g => hv ⟨g.1.1, g.2⟩

/-- Settles O35: the checks in their order, and the ends of a checked access. -/
theorem accessChecks : Obligations.AccessChecks := by
  unfold Obligations.AccessChecks
  refine ⟨?_, ?_, ?_, ?_, ?_, ?_, ?_⟩
  · exact fun s a l m n va h => congrArg Prod.fst (checkLane_high s a l m n h)
  · exact fun s a l m n va h hn => congrArg Prod.fst (checkLane_misaligned s a l m h hn)
  · exact fun s a l m n va u h hn ht => checkLane_page l h hn ht
  · intro s a n reqs c h hc
    rw [checkLanes_bad a n reqs h] at hc
    have hd := badCause_eq reqs none (.inl rfl) hc
    split
    · rename_i ha
      exact hd.trans (if_pos ⟨fun r hr => decide_eq_true (ha r hr), by decide⟩)
    · rename_i ha
      exact hd.trans (if_neg fun g => ha fun r hr => of_decide_eq_true (g.1 r hr))
  · intro d b t sv o s x p hr hz hp c hc
    let reqs := x.lanes.map fun l =>
      (l, x.base b l + BitVec.ofNat 64 (o.toNat * typeSize t), blockBytes (x.w.reader l) (blockOf t d).1 (typeSize t))
    have hm : ((x.addrs b o (typeSize t)).map fun p => (p.1, p.2, blockBytes (x.w.reader p.1) (blockOf t d).1 (typeSize t))) = reqs := by
      simp [Issuer.addrs, reqs]
    have hq : s.checkLanes x.a (typeSize t) (reqs.map fun q => (q.1, q.2.1, AccMode.store q.2.2)) = p := by
      rw [List.map_map]; exact hp
    have hh : s.ctxHazard x false (typeSize t) (reqs.map fun r => (r.1, r.2.1)) = false := by rw [List.map_map]; exact hz
    refine (exec_ready hr rfl).trans ?_
    rw [hm, issueStore_eq false hh, memAccess_cause hq hc]
    rfl
  · intro d b t sv o s x c u hr reqs hz hp hc hd hq v m
    have hm : ((x.addrs b o (typeSize t)).map fun p => (p.1, p.2, blockBytes (x.w.reader p.1) (blockOf t d).1 (typeSize t))) = reqs := by
      simp [Issuer.addrs, reqs]
    have he := (congrArg (fun r => issueStore (.st d b t sv o) false (typeSize t) m r x s) hm).trans
      ((issueStore_eq false hz ..).trans (memAccess_paged hp hc hd hq ..))
    exact ⟨fun ho => occurs_moved hr rfl (he.trans (if_pos ho)),
      fun ho => occurs_done (units := 1) (price := none) hr rfl (he.trans (if_neg ho))⟩
  · intro f d b t sv o s x c u hr reqs hz hp v m
    have hm : ((x.addrs b o (typeSize t)).map fun p => (p.1, p.2, AccMode.load)) = reqs := by simp [Issuer.addrs, reqs]
    have he := (congrArg (fun r => issueLoad (.ld f d b t sv o) false false (signExtends t) (blockOf t d).1 (typeSize t) m r x s) hm).trans
      (issueLoad_eq false hz ..)
    refine ⟨fun k hk => ?_, fun hc hd hq ho => occurs_moved hr rfl ?_, fun hc hd hq ho => occurs_done (units := 1) (price := none) hr rfl ?_⟩
    · exact (exec_ready hr rfl).trans (congrArg (fun e => Host.Outcome.next (conclude _ x e)) (he.trans (memAccess_cause hp hk ..)))
    · exact he.trans ((memAccess_paged hp hc hd hq ..).trans (if_pos ho))
    · exact he.trans ((memAccess_paged hp hc hd hq ..).trans (if_neg ho))

end Sys2Proof.Machine
end

section
/-! PROOF. The engine instructions that issue with a true guard; the copy group (O42) and the accumulator and matrix instructions. -/

namespace Sys2Proof.Machine

open Sys2Proof

namespace EngineReady
variable {i : Instr} {g : BitVec 3} {s : State} {x : Issuer} {k : WaveKey} {t : Team}

theorem engine_eq (h : EngineReady i g s x k t) (f : LaneMask → Effect) : engine g x s f = f (x.guarded g) := if_neg h.guard

theorem issuerTeam (h : EngineReady i g s x k t) : x.team s = some (k, t) := by
  unfold Issuer.team
  rw [h.wave]
  simp [h.team]

/-- An engine instruction of a team that completes with no sticky bit. -/
theorem occurs {f : LaneMask → Effect} {eff : Issuer → State → Effect} {v : State} {units : Nat} {price : Option Nat} (h : EngineReady i g s x k t)
    (he : exec i s = issue i s eff) (hf : eff x s = engine g x s f) (hv : f (x.guarded g) = .done v 0 units none price) :
    Occurs i s fun r => Advances v r x i :=
  occurs_done h.ready he (hf.trans ((h.engine_eq f).trans hv))

/-- One whose effect raises a cause. -/
theorem raises {f : LaneMask → Effect} {eff : Issuer → State → Effect} {v : State} {c : Cause} (h : EngineReady i g s x k t)
    (he : exec i s = issue i s eff) (hf : eff x s = engine g x s f) (hv : f (x.guarded g) = .raise c v) :
    exec i s = .next (v.takeCause x.a x.e c 0 x.pc (x.th.advance i.size) 0) := by
  rw [exec_ready h.ready he, hf, h.engine_eq, hv]
  rfl

/-- One whose condition does not hold waits. -/
theorem waits {f : LaneMask → Effect} {eff : Issuer → State → Effect} {v : State} {n : Nat} (h : EngineReady i g s x k t)
    (he : exec i s = issue i s eff) (hf : eff x s = engine g x s f) (hv : f (x.guarded g) = .wait n v) :
    exec i s = .next (v.modAgent x.a fun w => w.setWaiting (x.e &&& w.lanesIn .running) n) := by
  rw [exec_ready h.ready he, hf, h.engine_eq, hv]
  rfl

end EngineReady

theorem eraseDups_of_nodup {l : List Nat} (h : l.Nodup) : l.eraseDups = l := by
  induction l with
  | nil => rfl
  | cons a l ih =>
    obtain ⟨ha, hl⟩ := List.nodup_cons.1 h
    rw [List.eraseDups_cons, List.filter_eq_self.2 (fun b hb => by simpa using fun hab : b = a => ha (hab ▸ hb)), ih hl]

/-- The state of a tile entry and the rest of it lie in different bits. -/
theorem Team.setTstate_entry (t : Team) (m : Nat) {st : Nat} (h : st < 4) :
    ((t.setTstate m st).entry m).toNat = (t.entry m).toNat % 2 ^ 51 + st * 2 ^ 51 := by
  unfold setTstate entry
  rw [Tab.get_put_same, BitVec.toNat_ofNat]
  omega

theorem Team.setTstate_other (t : Team) {m n : Nat} (st : Nat) (h : n ≠ m) : (t.setTstate m st).entry n = t.entry n :=
  Tab.get_put_other 0 t.tiles _ h

/-- Settles O42: where the block meets no cause, each instruction has its one effect. -/
theorem copyGroupResults : Obligations.CopyGroupResults := by
  unfold Obligations.CopyGroupResults
  refine ⟨?_, ?_, ?_, ?_, ?_, ?_⟩
  · intro f g ix s x k t h b len v
    refine ⟨fun c hc => h.raises rfl rfl ?_, fun hc hl => ?_⟩
    · simp only [h.issuerTeam]
      rw [hc]
    · by_cases h0 : len = 0
      · rw [if_pos h0]
        refine h.occurs (units := 0) (price := none) rfl rfl ?_
        simp only [h.issuerTeam]
        rw [hc]
        exact if_pos h0
      · rw [if_neg h0]
        refine h.occurs (units := copyUnits len) (price := none) rfl rfl ?_
        simp only [h.issuerTeam]
        rw [hc]
        exact (if_neg h0).trans (if_neg (by simpa using hl.resolve_left h0))
  · intro s k b n as h
    unfold State.copyCause
    rw [if_pos (by simpa using h)]
  · intro f g ix m s x k t b e span copy v hf
    refine ⟨fun h hc hm => ?_, fun h hc hm => ?_⟩
    · refine h.occurs (units := copyUnits (tileExtent e)) (price := none) rfl rfl ?_
      simp only [h.issuerTeam, if_true]
      rw [hc]
      exact (if_neg (by simp [hm])).trans (if_neg (by simp [hf]))
    · refine h.occurs (units := copyUnits (tileExtent e)) (price := none) rfl rfl ?_
      simp only [h.issuerTeam, Bool.false_eq_true, if_false]
      rw [hc]
      exact (if_neg (by simp [hm])).trans (if_neg (by simp [hf]))
  · intro g m n s x k t v
    refine ⟨fun h hv hb ht => ?_, fun h ht hr => ?_, fun h => ?_⟩
    · refine h.occurs (units := 1) (price := none) rfl rfl ?_
      simp only [h.issuerTeam]
      exact (if_neg (not_not.2 (Nat.div_eq_of_lt hv))).trans ((if_neg (Nat.not_lt.2 hb)).trans (if_neg (not_not.2 ht)))
    · refine h.occurs (units := 1) (price := none) rfl rfl ?_
      simp only [h.issuerTeam]
      exact (if_neg (not_not.2 ht)).trans (if_neg (not_not.2 hr))
    · refine pairUni_at (f := fun _ => t.entry m.toNat) h.ready rfl ?_ (State.issuer?_agent h.ready.issuer).1
      refine (h.engine_eq _).trans ?_
      simp only [h.issuerTeam]
      rfl
  · intro g h' a c s x k t l h hw hl hi hn
    refine h.occurs (units := 1) (price := none) rfl rfl ?_
    simp only [h.issuerTeam]
    refine (if_neg ?_).trans (if_neg ?_)
    · have hd : (gangList (x.w.kreg a.toNat) c.toNat).eraseDups = gangList (x.w.kreg a.toNat) c.toNat := eraseDups_of_nodup hl
      simp [hd, Nat.div_eq_of_lt hw]
    · have ha : (gangList (x.w.kreg a.toNat) c.toNat).any (fun i => decide (t.waves.length ≤ i)) = false :=
        List.any_eq_false.2 fun i hi' => by simpa using hi i hi'
      rw [ha, hn]
      decide
  · intro t m st h
    refine ⟨?_, ?_, fun n hn => t.setTstate_other st hn⟩
    · unfold Team.tstate efield
      rw [t.setTstate_entry m h]
      omega
    · rw [t.setTstate_entry m h]
      omega

end Sys2Proof.Machine
end

section
/-! PROOF. The accumulator and matrix instructions (O43). -/

namespace Sys2Proof.Machine

open Sys2Proof

/-- A transfer of an accumulator tile whose address passes its checks. -/
theorem zTransfer_eq {x : Issuer} {s : State} {k : WaveKey} {t : Team} {addr : DWord} {bytes : Nat} (ht : x.team s = some (k, t))
    (ha : addr.toNat % 64 = 0) (hl : isLagoonAddr addr = true → ∃ p, s.lagoonExtent k addr bytes = .ok p) (i : Instr) (kind : OpKind) :
    zTransfer i addr bytes kind x s = .done ((s.forceAll x.a).launchOp x i x.e kind []) 0 (copyUnits bytes) := by
  unfold zTransfer
  by_cases hb : isLagoonAddr addr = true
  · obtain ⟨p, hp⟩ := hl hb
    simp only [ht, hb, if_true, hp]
    exact (if_neg (by decide)).trans (if_neg (not_not.2 ha))
  · simp only [ht, hb, Bool.false_eq_true, if_false]
    exact (if_neg (by decide)).trans (if_neg (not_not.2 ha))

/-- What a matrix instruction of one wave does once every live thread of the wave stands at it. -/
def Team.aloneAt (t : Team) (k : WaveKey) (pc : DWord) : Team :=
  { t with waves := t.waves.modify k.idx fun w => { w with latch := some pc } }

theorem matrixOp_alone {x : Issuer} {s : State} {k : WaveKey} {t : Team} (ht : x.team s = some (k, t))
    (hl : x.w.latch = none ∨ x.w.latch = some x.pc) (hs : x.w.live &&& ~~~(x.e ||| x.w.standing x.pc) = 0#32)
    (i : Instr) (fn : Nat) (g h a : BitVec 3) (m : BitVec 6) (q : BitVec 3) (tr : BitVec 1) :
    matrixOp i fn g h 0 a m q tr x s =
      let t := t.aloneAt k x.pc
      let last := if fn = 2 then m.toNat + 1 else m.toNat
      let flags := gangFlags k t i x.th.chdr [k.idx]
      let truth := [k.idx].any fun j =>
        match t.waves[j]? with
        | some w => (lanesOf w.live).any fun l => w.preg g.toNat l
        | none => false
      let passed := t.passRendezvous [k.idx] k.idx x.pc
      if !truth then .done (s.putTeam k.team passed) 0 0
      else if t.tstate m.toNat ≠ tReady || t.tstate last ≠ tReady then .wait 10 (s.putTeam k.team t)
      else if flags.any (fun p => decide (63 ≤ ((s.agent? p.1).map fun w => w.flag p.2).getD 0)) then .wait 11 (s.putTeam k.team t)
      else
        match t.matOp fn [k.idx] a.toNat m.toNat q.toNat (decide (tr = 1)) (s.descOf x.a).ztiles with
        | .error (c, code) => .raise c s (BitVec.ofNat 8 code)
        | .ok o =>
          let passed := passed.modReaders m.toNat (· + 1)
          let passed := if fn = 2 then passed.modReaders last (· + 1) else passed
          .done ((s.putTeam k.team passed).addOp fun id =>
            { id := id, agent := x.a, pc := x.pc, core := t.core, lanes := x.e, flags := flags, kind := .mma o })
            0 (if fn = 2 then 4 * [k.idx].length else [k.idx].length) (some (.wave k)) (some (mmaPrice fn (tileFmt (t.entry m.toNat)))) := by
  have h0 : (0 : BitVec 1) ≠ 1 := by decide
  have hg : (!([k.idx].contains k.idx) || (x.w.latch.isSome && decide (x.w.latch ≠ some x.pc))) = false := by
    rcases hl with hl | hl <;> simp [hl]
  unfold matrixOp
  simp only [ht, if_neg h0]
  rw [if_neg (by rw [hg]; decide), if_neg (not_not.2 hs), if_neg (by simp)]
  rfl

section
variable {x : Issuer} {s : State} {k : WaveKey} {t : Team}

theorem Ready.team_wave {i : Instr} (hr : Ready i s x) (ha : x.a = .wave k) (ht : s.team? k.team = some t) : t.waves[k.idx]? = some x.w := by
  have h := (State.issuer?_agent hr.issuer).1
  rw [ha] at h
  simpa [State.agent?, State.wave?, ht] using h

theorem Team.aloneAt_wave {w : Wave} (h : t.waves[k.idx]? = some w) (pc : DWord) :
    (t.aloneAt k pc).waves[k.idx]? = some { w with latch := some pc } := by
  simp [aloneAt, h]

/-- The flag of a wave that has not exited is the one the issuer counts on. -/
theorem gangFlags_alone {w : Wave} (ha : x.a = .wave k) (hw : t.waves[k.idx]? = some w) (hd : w.done = false) (i : Instr) :
    gangFlags k t i x.th.chdr [k.idx] = x.flags i := by
  unfold gangFlags Issuer.flags
  cases flagOf i x.th.chdr with
  | none => rfl
  | some n => simp [hw, hd, ha]

theorem Issuer.flags_room {i : Instr} (h : s.agent? x.a = some x.w) (hf : flagFull i x = false) :
    (x.flags i).any (fun p => decide (63 ≤ ((s.agent? p.1).map fun w => w.flag p.2).getD 0)) = false := by
  unfold flagFull at hf
  unfold Issuer.flags
  cases hn : flagOf i x.th.chdr with
  | none => rfl
  | some n => simpa [hn, h] using hf

/-- Whether some live thread of the wave has a true guard. -/
theorem aloneAt_truth (hw : t.waves[k.idx]? = some x.w) (pc : DWord) (g : Nat) :
    ([k.idx].any fun j =>
      match (t.aloneAt k pc).waves[j]? with
      | some w => (lanesOf w.live).any fun l => w.preg g l
      | none => false) = (lanesOf x.w.live).any fun l => x.w.preg g l := by
  simp only [List.any_cons, List.any_nil, Bool.or_false, Team.aloneAt_wave hw]
  rfl

end

theorem conclude_free_cores (i : Instr) (x : Issuer) (v : State) : (conclude i x (.done v 0 0)).cores = v.cores := by
  rw [conclude_free]
  exact ((State.modAgent_charged ..).1).trans (State.modAgent_charged ..).1

/-- A matrix instruction of one wave with a false guard in every thread, and one that goes in flight. -/
theorem matrix_alone {x : Issuer} {s : State} {k : WaveKey} {t : Team} {i : Instr} {fn : Nat} {g h a : BitVec 3} {m : BitVec 6} {q : BitVec 3}
    {tr : BitVec 1} (he : exec i s = issue i s (matrixOp i fn g h 0 a m q tr)) (hr : Ready i s x) (ha : x.a = .wave k)
    (ht : s.team? k.team = some t) (hl : x.w.latch = none ∨ x.w.latch = some x.pc)
    (hs : x.w.live &&& ~~~(x.e ||| x.w.standing x.pc) = 0#32) :
    let t' := t.aloneAt k x.pc
    let passed := t'.passRendezvous [k.idx] k.idx x.pc
    let last := if fn = 2 then m.toNat + 1 else m.toNat
    ((∀ l ∈ lanesOf x.w.live, x.w.preg g.toNat l = false) →
      Occurs i s fun r => Advances (s.putTeam k.team passed) r x i ∧ r.cores = s.cores) ∧
    ∀ o, (∃ l ∈ lanesOf x.w.live, x.w.preg g.toNat l = true) → x.w.done = false → t.tstate m.toNat = tReady → t.tstate last = tReady →
      t'.matOp fn [k.idx] a.toNat m.toNat q.toNat (decide (tr = 1)) (s.descOf x.a).ztiles = .ok o →
      Occurs i s fun r => Advances ((s.putTeam k.team (if fn = 2 then (passed.modReaders m.toNat (· + 1)).modReaders last (· + 1)
        else passed.modReaders m.toNat (· + 1))).addOp fun id =>
          { id := id, agent := x.a, pc := x.pc, core := t.core, lanes := x.e, flags := x.flags i, kind := .mma o }) r x i := by
  intro t' passed last
  have hx : x.team s = some (k, t) := by unfold Issuer.team; rw [ha]; simp [ht]
  have hw := hr.team_wave ha ht
  have hm := (exec_ready hr he).trans (congrArg (fun e => Host.Outcome.next (conclude i x e)) (matrixOp_alone hx hl hs i fn g h a m q tr))
  simp only [aloneAt_truth hw] at hm
  refine ⟨fun hf => ⟨_, hm.trans (congrArg (fun e => Host.Outcome.next (conclude i x e)) (if_pos ?_)), conclude_done_advances i x _ 0 none, ?_⟩, ?_⟩
  · rw [List.any_eq_false.2 fun l hl => by simp [hf l hl]]
    rfl
  · exact conclude_free_cores i x _
  · intro o ⟨l, hl, hg⟩ hd h1 h2 ho
    have htrue : ((lanesOf x.w.live).any fun l => x.w.preg g.toNat l) = true := List.any_eq_true.2 ⟨l, hl, hg⟩
    have hready : (t.aloneAt k x.pc).tstate m.toNat = tReady ∧
        (t.aloneAt k x.pc).tstate (if fn = 2 then m.toNat + 1 else m.toNat) = tReady := ⟨h1, h2⟩
    have hfl := gangFlags_alone ha (Team.aloneAt_wave hw x.pc) hd i
    have hroom := Issuer.flags_room (State.issuer?_agent hr.issuer).1 hr.room
    rw [hfl, if_neg (by rw [htrue]; decide), if_neg (by rw [hready.1, hready.2]; decide), if_neg (by rw [hroom]; decide), ho] at hm
    refine ⟨_, hm, ?_⟩
    rw [← ha]
    exact conclude_done_advances i x _ _ _

/-- Settles O43. -/
theorem matrixResults : Obligations.MatrixResults := by
  unfold Obligations.MatrixResults
  refine ⟨?_, ?_, ?_, ?_, ?_⟩
  · intro g z n s x k t h
    by_cases hm : (s.ops.any fun o => o.kind.matrix && o.core = t.core) = true
    · rw [if_pos hm]
      refine h.occurs (units := 1) (price := none) rfl rfl ?_
      simp only [h.issuerTeam]
      exact if_pos hm
    · rw [if_neg hm]
      refine h.occurs (units := 1) (price := none) rfl rfl ?_
      simp only [h.issuerTeam]
      exact if_neg hm
  · intro f g z n o r s x k t a ok v goes
    exact ⟨fun h ⟨ha, hl⟩ => h.occurs (units := copyUnits 8192) (price := none) rfl rfl (zTransfer_eq h.issuerTeam ha hl _ _),
      fun h ⟨ha, hl⟩ => h.occurs (units := copyUnits 8192) (price := none) rfl rfl (zTransfer_eq h.issuerTeam ha hl _ _),
      fun h ⟨ha, hl⟩ => h.occurs (units := copyUnits (2048 * epiSize o.toNat)) (price := none) rfl rfl (zTransfer_eq h.issuerTeam ha hl _ _)⟩
  · intro f g z e n o r s x k t h rt a hm h1 h2
    refine h.occurs (units := copyUnits (2048 * epiSize o.toNat)) (price := none) rfl rfl ?_
    simp only [h.issuerTeam]
    rw [if_neg (by rw [hm]; decide)]
    have hal : (decide (a.toNat % epiSize o.toNat ≠ 0) || decide ((wordAt rt 2).toNat % epiSize o.toNat ≠ 0)) = false := by simp [h1, h2]
    exact if_neg (fun hc => Bool.false_ne_true (hal.symm.trans hc))
  · intro f g z q b s x hg
    exact ⟨fun hr => occurs_done (units := 1) (price := none) hr rfl (if_neg hg),
      fun hr => occurs_done (units := 1) (price := none) hr rfl (if_neg hg)⟩
  · intro f g h a m q tr u i fn s x k t hi hr ha ht hl hs
    refine matrix_alone (h := h) ?_ hr ha ht hl hs
    rcases hi with ⟨rfl, rfl⟩ | ⟨rfl, rfl⟩ | ⟨rfl, rfl⟩ <;> rfl

end Sys2Proof.Machine
end

section
/-! PROOF. What write-backs and promotions keep: a property of states that their single steps keep. -/

namespace Sys2Proof.Machine

open Sys2Proof

theorem Wave.setK_absent (w : Wave) (n : Nat) (x : Word) : (w.setK n x).absent = w.absent := rfl

/-- No entry of a handler drops or fills a register line. -/
theorem Wave.enterHandler_absent (w : Wave) (e : LaneMask) (code : Cause) (tcode : Byte) (handler : DWord) (ret : Thread) :
    (w.enterHandler e code tcode handler ret).absent = w.absent := by
  simp only [Wave.enterHandler, Wave.setKpair, Wave.modLanes, Wave.setK_absent, Wave.setCause]

/-- A property of states that no single update of a write-back, with its refusals and their causes, takes away: none changes a wave's absent lines or
gates a core. -/
structure State.Kept (P : State → Prop) : Prop where
  team   : ∀ s k f, (∀ t : Team, (f t).waves = t.waves) → P s → P (State.modTeam s k f)
  agent  : ∀ s a w, (∀ v, s.agent? a = some v → w.absent = v.absent) → P s → P (State.putAgent s a w)
  ctx    : ∀ s c x, P s → P (State.putCtx s c x)
  part   : ∀ s p x, P s → P (State.putPart s p x)
  core   : ∀ s c x, (x.gated = true → (s.core c).gated = true) → P s → P (State.putCore s c x)
  memory : ∀ (s : State) home llc poison, P s → P { s with home := home, llc := llc, poison := poison }
  out    : ∀ (s : State) out, P s → P { s with out := out }

namespace State.Kept
variable {P : State → Prop}

theorem foldl {α : Type} (f : State → α → State) (h : ∀ s a, P s → P (f s a)) (l : List α) (s : State) (hs : P s) : P (l.foldl f s) := by
  induction l generalizing s with
  | nil => exact hs
  | cons a l ih => exact ih _ (h s a hs)

variable (hP : State.Kept P)
include hP

theorem modL1 (s : State) (c : Nat) (f : L1 → L1) (h : P s) : P (s.modL1 c f) := hP.core _ _ _ id h

theorem modAgent (s : State) (a : Agent) (f : Wave → Wave) (hf : ∀ w, (f w).absent = w.absent) (h : P s) : P (s.modAgent a f) := by
  unfold State.modAgent
  split
  · rename_i w hw
    exact hP.agent _ _ _ (fun v hv => Option.some.inj (hw.symm.trans hv) ▸ hf w) h
  · exact h

theorem home (s : State) (t : Tab Byte) (h : P s) : P { s with home := t } := hP.memory s t s.llc s.poison h
theorem llc (s : State) (t : Tab Byte) (h : P s) : P { s with llc := t } := hP.memory s s.home t s.poison h
theorem poison (s : State) (t : Tab Nat) (h : P s) : P { s with poison := t } := hP.memory s s.home s.llc t h

theorem homeWrite (s : State) (a : Nat) (b : Byte) (wt : Bool) (h : P s) : P (s.homeWrite a b wt) := by
  have key : ∀ u : State, P u →
      P (if wt then { u with llc := u.llc.del a, home := u.home.put 0 a b } else { u with llc := u.llc.ins a b }) := by
    intro u hu
    split
    · exact hP.memory u _ _ u.poison hu
    · exact hP.llc u _ hu
  unfold State.homeWrite
  split
  · apply key
    split
    · exact hP.team _ _ _ (fun _ => rfl) h
    · exact h
  · exact hP.memory s _ _ s.poison h

theorem countHeld (s : State) (a : Nat) (h : P s) : P (s.countHeld a) := by
  unfold State.countHeld
  split
  · split
    · exact hP.team _ _ _ (fun _ => rfl) h
    · exact h
  · exact h

theorem homeCells (s : State) (cells : List Host.Cell) (wt : Bool) (h : P s) : P (s.homeCells cells wt) := by
  unfold State.homeCells
  split
  · exact h
  · exact foldl _ (fun s (y : Host.Cell) => hP.homeWrite s y.1 y.2 wt) _ _ (hP.countHeld _ _ h)

theorem homeWrites (s : State) (a : Nat) (bs : List Byte) (wt : Bool) (h : P s) : P (s.homeWrites a bs wt) :=
  hP.poison _ _ (hP.homeCells s _ wt h)

theorem recordWrites (s : State) (a : Nat) (bs : List Byte) (wt : Bool) (h : P s) : P (s.recordWrites a bs wt) := by
  unfold State.recordWrites
  simp only
  split
  · exact hP.homeCells _ _ _ h
  · exact hP.homeWrites _ _ _ _ h

theorem setCtReg (s : State) (c i : Nat) (v : Word) (h : P s) : P (s.setCtReg c i v) := hP.ctx _ _ _ h
theorem setPtReg (s : State) (c i : Nat) (v : Word) (h : P s) : P (s.setPtReg c i v) := hP.part _ _ _ h

theorem raiseEvent (s : State) (p event ctx : Nat) (payload : List Byte) (h : P s) : P (s.raiseEvent p event ctx payload) := by
  unfold State.raiseEvent
  simp only
  split
  · split
    · exact hP.part _ _ _ h
    · exact hP.part _ _ _ h
  · exact hP.part _ _ _ h

theorem raiseHalt (s : State) (c : Nat) (x : HaltHdr) (h : P s) : P (s.raiseHalt c x) := by
  unfold State.raiseHalt
  simp only
  split
  · exact h
  · split
    · split
      · exact hP.ctx _ _ _ h
      · exact h
    · exact hP.ctx _ _ _ h

theorem takeCause (s : State) (a : Agent) (e : LaneMask) (code : Cause) (tcode : Byte) (pc : DWord) (ret : Thread) (src : Nat) (h : P s) :
    P (s.takeCause a e code tcode pc ret src) := by
  unfold State.takeCause
  split
  · exact hP.raiseEvent _ _ _ _ _ (hP.ctx _ _ _ (hP.modAgent _ _ _ (fun _ => rfl) (hP.setCtReg _ _ _ _ h)))
  · split
    · exact h
    · rename_i w hw
      split
      · exact hP.agent _ _ _ (fun v hv => Option.some.inj (hw.symm.trans hv) ▸ Wave.enterHandler_absent ..) h
      · exact hP.raiseHalt _ _ _ (hP.agent _ _ _ (fun v hv => Option.some.inj (hw.symm.trans hv) ▸ rfl) h)

theorem pendCause (s : State) (a : Agent) (code : Cause) (src : Nat) (who : DWord) (core quarter : Nat) (h : P s) :
    P (s.pendCause a code src who core quarter) := by
  unfold State.pendCause
  split
  · simp only
    split
    · split
      · exact hP.takeCause _ _ _ _ _ _ _ _ h
      · exact h
    · exact hP.raiseHalt _ _ _ h
  · split
    · exact hP.raiseHalt _ _ _ h
    · rename_i w hw
      split
      · exact hP.raiseHalt _ _ _ h
      · exact hP.agent _ _ _ (fun v hv => Option.some.inj (hw.symm.trans hv) ▸ rfl) h

theorem inboundFault (s : State) (p ctx : Nat) (addr : DWord) (chip job reason kind len : Nat) (h : P s) :
    P (s.inboundFault p ctx addr chip job reason kind len) := by
  have key : ∀ (u : State) (v : Word) (pl : List Byte), P u → P ((u.setPtReg p 0x019 v).raiseEvent p 0x07 ctx pl) :=
    fun u v pl hu => hP.raiseEvent _ _ _ _ _ (hP.setPtReg _ _ _ _ hu)
  unfold State.inboundFault
  simp only
  split
  · exact key _ _ _ h
  · apply key
    split
    · exact hP.recordWrites _ _ _ _ h
    · exact h

theorem noRoute (s : State) (p : Nat) (addr : DWord) (kind len : Nat) (h : P s) : P (s.noRoute p addr kind len) :=
  hP.inboundFault _ _ _ _ _ _ _ _ _ h

theorem request (s : State) (p a kind len : Nat) (h : P s) : P (s.request p a kind len) := by
  unfold State.request
  split
  · exact hP.out _ _ h
  · exact h

theorem wakeCore (s : State) (c : Nat) (h : P s) : P (s.wakeCore c) := by
  unfold State.wakeCore
  split
  · exact hP.core _ _ _ (fun h => nomatch h) h
  · exact h

theorem carryPoison (s : State) (c g : Nat) (h : P s) : P (s.carryPoison c g) := by
  unfold State.carryPoison
  simp only
  split
  · exact h
  · split
    · exact hP.poison _ _ h
    · exact hP.modL1 _ _ _ (hP.poison _ _ h)

theorem dropPoison (s : State) (c g : Nat) (h : P s) : P (s.dropPoison c g) := by
  unfold State.dropPoison
  split
  · exact h
  · exact hP.modL1 _ _ _ h

theorem refuseStore (s : State) (c : Nat) (b : StoreId) (cause : Cause) (h : P s) : P (s.refuseStore c b cause) := by
  unfold State.refuseStore
  extract_lets now old low told t
  have ht : P t := hP.modL1 _ _ _ h
  split
  · exact h
  · split
    · exact h
    · split
      · exact hP.pendCause _ _ _ _ _ _ _ ht
      · exact ht

theorem arriveHome (s : State) (c : Nat) (cells : List Host.Cell) (who : Option StoreId) (wt : Bool) (h : P s) :
    P (s.arriveHome c cells who wt) := by
  unfold State.arriveHome
  simp only
  split
  · split
    · exact hP.refuseStore _ _ _ _ (hP.noRoute _ _ _ _ _ (hP.dropPoison _ _ _ h))
    · exact hP.dropPoison _ _ _ h
  · split
    · exact hP.refuseStore _ _ _ _ (hP.request _ _ _ _ _ (hP.dropPoison _ _ _ h))
    · exact hP.dropPoison _ _ _ h
  · have hu : P (if (cells.filter fun x => !s.objWaited x.1).length = 64 then
          (s.modL1 c fun l => (cells.filter fun x => !s.objWaited x.1).foldl (fun l x => l.takeClean x.1 x.2) l).homeWrites (cells.headD (0, 0)).1
            ((cells.filter fun x => !s.objWaited x.1).map (·.2)) wt
        else (s.modL1 c fun l => (cells.filter fun x => !s.objWaited x.1).foldl (fun l x => l.takeClean x.1 x.2) l).homeCells
          (cells.filter fun x => !s.objWaited x.1) wt) := by
      split
      · exact hP.homeWrites _ _ _ _ (hP.modL1 _ _ _ h)
      · exact hP.homeCells _ _ _ (hP.modL1 _ _ _ h)
    have hv := hP.carryPoison _ c ((cells.headD (0, 0)).1 / 64) hu
    split
    · split
      · exact hP.request _ _ _ _ _ hv
      · exact hP.refuseStore _ _ _ _ (hP.request _ _ _ _ _ hv)
    · exact hv

theorem writeBackNow (s : State) (c a : Nat) (h : P s) : P (s.writeBackNow c a) := by
  unfold State.writeBackNow
  simp only
  split
  · exact h
  · exact hP.arriveHome _ _ _ _ _ (hP.modL1 _ _ _ h)

theorem drainNow (s : State) (c : Nat) (h : P s) : P (s.drainNow c) := by
  unfold State.drainNow
  split
  · exact h
  · exact hP.arriveHome _ _ _ _ _ (hP.modL1 _ _ _ h)

theorem promoteTo (f : Nat) (s : State) (c n : Nat) (h : P s) : P (promoteTo f s c n) := by
  induction f generalizing s c n with
  | zero => exact h
  | succ f ih =>
    have out : ∀ (s : State) (a : Nat), P s → P (s.cores.foldl
        (fun (s : State) (x : Nat × Core) =>
          if x.1 = c then s
          else
            match ((s.core x.1).l1.recs.reverse.findIdx? fun r => decide (r.addr / 256 = a / 256)) with
            | some j => State.promoteTo f s x.1 ((s.core x.1).l1.recs.length - 1 - j)
            | none => s) s) := by
      intro s a hs
      refine foldl _ (fun s p hs => ?_) s.cores s hs
      split
      · exact hs
      · split
        · exact ih _ _ _ hs
        · exact hs
    unfold State.promoteTo
    refine foldl _ (fun s a hs => hP.writeBackNow _ _ _ (out s a hs)) _ _ ?_
    exact foldl _ (fun s (t : Through) hs => hP.drainNow _ _ (out s t.addr hs)) _ _ (hP.wakeCore _ _ (hP.modL1 _ _ _ h))

theorem promoteFor (s : State) (c a : Nat) (h : P s) : P (s.promoteFor c a) := by
  refine foldl _ (fun s p hs => ?_) s.cores s h
  obtain ⟨k, -⟩ := p
  simp only
  split
  · exact hs
  · split
    · exact hP.promoteTo _ _ _ _ hs
    · exact hs

theorem reachRow (s : State) (c pa : Nat) (h : P s) : P (s.reachRow c pa) := foldl _ (fun s j hs => hP.promoteFor s c (pa + 256 * j) hs) _ _ h

end State.Kept

/-- No write-back takes a team away. -/
theorem State.kept_team (k : TeamKey) : State.Kept fun s => (s.team? k).isSome = true where
  team s k' f _ h := by
    unfold State.modTeam
    split
    · rename_i x hx
      unfold State.putTeam State.team? at *
      rw [assocGet_put]
      split
      · rfl
      · exact h
    · exact h
  agent s a w _ h := by
    cases a with
    | wave k' =>
      unfold State.putAgent State.putWave
      simp only
      split
      · unfold State.putTeam State.team? at *
        rw [assocGet_put]
        split
        · rfl
        · exact h
      · exact h
    | cp c => exact h
  ctx _ _ _ h := h
  part _ _ _ h := h
  core _ _ _ _ h := h
  memory _ _ _ _ h := h
  out _ _ h := h

end Sys2Proof.Machine
end

section
/-! PROOF. Row instructions, row slots and leases (O46). -/

namespace Sys2Proof.Machine

open Sys2Proof

/-! Tables. -/

section
variable {α : Type}

theorem Tab.length_getList (d : α) (t : Tab α) (k n : Nat) : (t.getList d k n).length = n := by
  induction n generalizing k with
  | zero => rfl
  | succ n ih => simp [getList, ih]

theorem Tab.getElem?_getList (d : α) (t : Tab α) (k n j : Nat) : (t.getList d k n)[j]? = if j < n then some (t.get d (k + j)) else none := by
  induction n generalizing k j with
  | zero => simp [getList]
  | succ n ih =>
    cases j with
    | zero => simp [getList]
    | succ j => simp [getList, ih, Nat.add_assoc, Nat.add_comm 1 j]

theorem Tab.get_putList [DecidableEq α] (d : α) (vs : List α) (t : Tab α) (n m : Nat) :
    (t.putList d n vs).get d m = if n ≤ m ∧ m < n + vs.length then vs[m - n]?.getD d else t.get d m := by
  induction vs generalizing t n with
  | nil => simp [putList]
  | cons v vs ih =>
    simp only [putList, ih, Tab.get_put, List.length_cons]
    rcases lt_trichotomy m n with h | rfl | h
    · rw [if_neg (by omega), if_neg (by omega), if_neg (by omega)]
    · simp
    · have hm : m - n = m - (n + 1) + 1 := by omega
      by_cases hl : m < n + 1 + vs.length
      · rw [if_pos (by omega), if_pos (by omega), hm, List.getElem?_cons_succ]
      · rw [if_neg (by omega), if_neg (by omega), if_neg (by omega)]

/-- Consecutive values written from key 0 upwards read back. -/
theorem Tab.get_foldl_put [DecidableEq α] (d : α) (f : Nat → α) (n : Nat) (t : Tab α) (j : Nat) :
    ((List.range n).foldl (fun t j => t.put d j (f j)) t).get d j = if j < n then f j else t.get d j := by
  induction n with
  | zero => simp
  | succ n ih =>
    rw [List.range_succ, List.foldl_append]
    simp only [List.foldl_cons, List.foldl_nil, Tab.get_put, ih]
    rcases lt_trichotomy j n with h | rfl | h
    · rw [if_neg (by omega), if_pos h, if_pos (by omega)]
    · simp
    · rw [if_neg (by omega), if_neg (by omega), if_neg (by omega)]

theorem Tab.find_filter (p : Nat → Bool) (t : Tab α) (n : Nat) :
    Tab.find (List.filter (fun c : Nat × α => p c.1) t) n = if p n = true then Tab.find t n else none := by
  induction t with
  | nil => simp [Tab.find]
  | cons c t ih =>
    obtain ⟨k, v⟩ := c
    rw [List.filter_cons]
    by_cases hk : k = n
    · subst hk
      by_cases hp : p k = true
      · simp [Tab.find, hp]
      · simp [hp, ih]
    · by_cases hp : p k = true
      · simp [Tab.find, hk, hp, ih]
      · simp [Tab.find, hk, hp, ih]

end

/-! Promotion. -/

/-- Where no other core has recorded a release in a location's line, nothing is promoted. -/
theorem State.promoteFor_none {s : State} {c a : Nat} (h : ∀ d, d ≠ c → ∀ r ∈ (s.core d).l1.recs, r.addr / 256 ≠ a / 256) :
    s.promoteFor c a = s := by
  have hl : ∀ l : List (Nat × Core), l.foldl
      (fun s (c', _) =>
        if c' = c then s
        else
          match ((s.core c').l1.recs.reverse.findIdx? fun r => r.addr / 256 = a / 256) with
          | some j => s.promote c' ((s.core c').l1.recs.length - 1 - j)
          | none => s) s = s := by
    intro l
    induction l with
    | nil => rfl
    | cons p l ih =>
      rw [List.foldl_cons]
      refine (congrArg (fun v => List.foldl _ v l) ?_).trans ih
      simp only
      split
      · rfl
      · rename_i hp
        rw [List.findIdx?_eq_none_iff.2 fun r hr => by simpa using h p.1 hp r (by simpa using hr)]
  exact hl s.cores

theorem State.reachRow_none {s : State} {c pa : Nat}
    (h : ∀ d, d ≠ c → ∀ r ∈ (s.core d).l1.recs, r.addr / 256 < pa / 256 ∨ pa / 256 + 16 ≤ r.addr / 256) : s.reachRow c pa = s := by
  have hl : ∀ l : List Nat, (∀ j ∈ l, j < 16) → l.foldl (fun s j => s.promoteFor c (pa + 256 * j)) s = s := by
    intro l hl
    induction l with
    | nil => rfl
    | cons j l ih =>
      obtain ⟨hj, hl⟩ := List.forall_mem_cons.1 hl
      rw [List.foldl_cons, State.promoteFor_none fun d hd r hr => by have := h d hd r hr; omega, ih hl]
  exact hl _ fun j hj => List.mem_range.1 hj

/-! The team of a slot. -/

theorem State.team?_putTeam (s : State) (k k' : TeamKey) (t : Team) : (s.putTeam k t).team? k' = if k' = k then some t else s.team? k' := assocGet_put ..

theorem State.modTeam_some {s : State} {k : TeamKey} {t : Team} (h : s.team? k = some t) (f : Team → Team) : s.modTeam k f = s.putTeam k (f t) := by
  unfold State.modTeam
  rw [h]

/-- A write of an agent's wave leaves of every team all but its waves. -/
theorem State.putAgent_team {s : State} {k : TeamKey} {t : Team} (h : s.team? k = some t) (a : Agent) (w : Wave) :
    ∃ ws, (s.putAgent a w).team? k = some { t with waves := ws } := by
  cases a with
  | cp c => exact ⟨t.waves, h⟩
  | wave j =>
    unfold State.putAgent State.putWave
    simp only
    split
    · rename_i x hx
      by_cases hk : k = j.team
      · subst hk
        obtain rfl := Option.some.inj (hx.symm.trans h)
        exact ⟨_, (State.team?_putTeam ..).trans (if_pos rfl)⟩
      · exact ⟨t.waves, (State.team?_putTeam ..).trans ((if_neg hk).trans h)⟩
    · exact ⟨t.waves, h⟩

theorem State.dropFlags_team {s : State} {k : TeamKey} {t : Team} (h : s.team? k = some t) (fs : List (Agent × Nat)) :
    ∃ ws, (s.dropFlags fs).team? k = some { t with waves := ws } := by
  induction fs generalizing s t with
  | nil => exact ⟨t.waves, h⟩
  | cons p fs ih =>
    have hm : ∃ ws, (s.modAgent p.1 fun w => (w.modFlag p.2 (· - 1)).testWaits).team? k = some { t with waves := ws } := by
      unfold State.modAgent
      split
      · exact State.putAgent_team h ..
      · exact ⟨t.waves, h⟩
    obtain ⟨ws, hws⟩ := hm
    obtain ⟨vs, hvs⟩ := ih hws
    exact ⟨vs, hvs⟩

theorem State.SameStore.dropOp (s : State) (op : Nat) : s.SameStore (s.dropOp op) := .of_cores rfl rfl rfl
theorem State.SameStore.putTeam (s : State) (k : TeamKey) (t : Team) : s.SameStore (s.putTeam k t) := .of_cores rfl rfl rfl

/-! Row slots. -/

theorem rowFail_try {x : Issuer} {s : State} {y : BitVec 1} (h : y = 1) (e : LaneMask) (p : BitVec 3) (c : Cause) :
    rowFail x s e p y c = .done (s.modAgent x.a fun w => w.writePreds e p.toNat fun _ => false) 0 0 := if_pos h

theorem RowSlot.transferCause_none {r : RowSlot} (h : r.st = 2) (hl : r.lease ≠ 0) : r.transferCause = none := by
  unfold RowSlot.transferCause
  simp [h, hl]

theorem Team.slotAt_putSlot (t : Team) (w : Nat) (r : RowSlot) : (t.putSlot w r).slotAt w = r := Tab.get_put_same ..

theorem Tab.get_snapshot (f : Nat → Byte) {j : Nat} (hj : j < 4096) :
    ((List.range 4096).foldl (fun (t : Tab Byte) j => t.put 0 j (f j)) []).get 0 j = f j := by
  rw [Tab.get_foldl_put, if_pos hj]

/-- The row's slot after its sensing: open, with its bytes and codes. -/
theorem senseRow_spec {s : State} {o : Op} {k : TeamKey} {t : Team} (w pa : Nat) (ho : o.teamKey = some k) (ht : s.team? k = some t) :
    (s.reachRow o.core pa).SameMemory (s.senseRow o w pa) ∧
      ∃ t', (s.senseRow o w pa).team? k = some t' ∧ (t'.slotAt w).st = 2 ∧ (t'.slotAt w).lease = 2048 ∧ (t'.slotAt w).held = [] ∧
        (∀ j, j < 4096 → (t'.slotAt w).snap.get 0 j = (s.reachRow o.core pa).homeByte (pa + j)) ∧
        ∀ j, j < 64 → (t'.slotAt w).codes.get 0 j = (s.reachRow o.core pa).poison.get 0 (pa / 64 + j) := by
  obtain ⟨r, hr⟩ := Option.isSome_iff_exists.1 ((State.kept_team k).reachRow s o.core pa (by rw [ht]; rfl))
  generalize hu : s.reachRow o.core pa = u at hr
  have hs : s.senseRow o w pa = ((u.modTeam k fun t => t.putSlot w { t.slotAt w with
      st := 2, lease := 2048, held := [], writes := 0
      snap := (List.range 4096).foldl (fun (t : Tab Byte) j => t.put 0 j (u.homeByte (pa + j))) []
      codes := (List.range 64).foldl (fun (p : Tab Nat) j => p.put 0 j (u.poison.get 0 (pa / 64 + j))) [] }).dropOp o.id).dropFlags o.flags := by
    unfold State.senseRow
    simp only [ho, hu]
  rw [hs]
  refine ⟨(((State.SameStore.modTeam ..).trans (.dropOp ..)).trans (.dropFlags ..)).memory, ?_⟩
  rw [State.modTeam_some hr]
  obtain ⟨ws, hws⟩ := State.dropFlags_team (s := (u.putTeam k _).dropOp o.id) ((State.team?_putTeam u k k _).trans (if_pos rfl)) o.flags
  refine ⟨_, hws, ?_⟩
  have hsl := r.slotAt_putSlot w { r.slotAt w with
      st := 2, lease := 2048, held := [], writes := 0
      snap := (List.range 4096).foldl (fun (t : Tab Byte) j => t.put 0 j (u.homeByte (pa + j))) []
      codes := (List.range 64).foldl (fun (p : Tab Nat) j => p.put 0 j (u.poison.get 0 (pa / 64 + j))) [] }
  have hq : ∀ (v : Team), ({ v with waves := ws } : Team).slotAt w = v.slotAt w := fun _ => rfl
  rw [hq, hsl]
  refine ⟨rfl, rfl, rfl, fun j hj => ?_, fun j hj => ?_⟩
  · rw [Tab.get_foldl_put, if_pos hj]
  · rw [Tab.get_foldl_put, if_pos hj]

/-- Bytes written from one location upwards over a table whose listed bytes in that range are dropped. -/
theorem homeByte_overwritten {s v : State} {pa n : Nat} {bs : List Byte} (hn : bs.length = n)
    (hl : v.llc = s.llc.filter (fun (c : Nat × Byte) => c.1 < pa || pa + n ≤ c.1)) (hm : v.home = s.home.putList 0 pa bs) (b : Nat) :
    v.homeByte b = if pa ≤ b ∧ b < pa + n then bs[b - pa]?.getD 0 else s.homeByte b := by
  unfold State.homeByte
  rw [hl, hm, Tab.find_filter (fun m => m < pa || pa + n ≤ m), Tab.get_putList, hn]
  by_cases hb : pa ≤ b ∧ b < pa + n
  · rw [if_neg (by simpa using hb), if_pos hb, if_pos hb]
  · rw [if_pos (by simp; omega), if_neg hb, if_neg hb]

theorem putRow_llc {s : State} {o : Op} {w base pa : Nat} {k : TeamKey} {t : Team} (ho : o.teamKey = some k) (ht : s.team? k = some t)
    (hpa : rowOf t.core (t.slotAt w) = pa) (hr : s.reachRow o.core pa = s) :
    (s.putRow o w base).llc = s.llc.filter (fun (c : Nat × Byte) => c.1 < pa || pa + 4096 ≤ c.1) := by
  unfold State.putRow
  simp only [ho, ht, hpa, hr, State.putTeam_llc, State.modL1_llc]

/-- The bytes that a `ROWPUT` writes. -/
def putBytes (s : State) (t : Team) (base pa : Nat) : List Byte :=
  (t.tileMem.getList 0 base 4096).mapIdx fun j b => if s.objWaited (pa + j) then s.homeByte (pa + j) else b

theorem putRow_home {s : State} {o : Op} {w base pa : Nat} {k : TeamKey} {t : Team} (ho : o.teamKey = some k) (ht : s.team? k = some t)
    (hpa : rowOf t.core (t.slotAt w) = pa) (hr : s.reachRow o.core pa = s) :
    (s.putRow o w base).home =
      (t.slotAt w).held.foldl (fun (h : Tab Byte) c => h.put 0 (pa + c.1) c.2) (s.home.putList 0 pa (putBytes s t base pa)) := by
  unfold State.putRow putBytes
  simp only [ho, ht, hpa, hr, State.putTeam_home, State.modL1_home]

theorem length_putBytes (s : State) (t : Team) (base pa : Nat) : (putBytes s t base pa).length = 4096 := by
  rw [putBytes, List.length_mapIdx, Tab.length_getList]

theorem putBytes_get (s : State) (t : Team) (base pa : Nat) {j : Nat} (hj : j < 4096) :
    (putBytes s t base pa)[j]?.getD 0 = if s.objWaited (pa + j) then s.homeByte (pa + j) else t.tileMem.get 0 (base + j) := by
  rw [putBytes, List.getElem?_mapIdx, Tab.getElem?_getList, if_pos hj]
  rfl

/-- The bytes of the row after a `ROWPUT` whose slot holds no write. -/
theorem putRow_homeByte {s : State} {o : Op} {w base pa : Nat} {k : TeamKey} {t : Team} (ho : o.teamKey = some k) (ht : s.team? k = some t)
    (hh : (t.slotAt w).held = []) (hpa : rowOf t.core (t.slotAt w) = pa) (hr : s.reachRow o.core pa = s) (b : Nat) :
    (s.putRow o w base).homeByte b =
      if pa ≤ b ∧ b < pa + 4096 then (if s.objWaited b then s.homeByte b else t.tileMem.get 0 (base + (b - pa))) else s.homeByte b := by
  rw [homeByte_overwritten (length_putBytes s t base pa) (putRow_llc ho ht hpa hr) ((putRow_home ho ht hpa hr).trans (by rw [hh, List.foldl_nil]))]
  by_cases hb : pa ≤ b ∧ b < pa + 4096
  · rw [if_pos hb, if_pos hb, putBytes_get s t base pa (by omega), Nat.add_sub_cancel' hb.1]
  · rw [if_neg hb, if_neg hb]

/-- Settles O46. -/
theorem rowResults : Obligations.RowResults := by
  unfold Obligations.RowResults
  refine ⟨?_, ?_, ?_, ?_, ?_, ?_, ?_, ?_, ?_⟩
  · intro f g w n p yt s u x k t q ga pte off h h1 h2 htr hpl hal hbk hac y v pa v' slot
    refine h.occurs (units := 1) (price := none) rfl rfl ?_
    simp only [h.issuerTeam]
    rw [if_neg (show (t.slotAt w.toNat).st ≠ 1#2 from h1), if_neg (by
      rw [Bool.and_eq_true, decide_eq_true_iff]
      exact fun hc => Bool.false_ne_true ((h2 hc.1).symm.trans hc.2)), show x.kpairN n = x.w.kpair (2 * n.toNat) from rfl, htr]
    simp only [hpl]
    rw [if_neg (by rw [hal]; decide), if_neg (by rw [hbk]; decide), if_neg (Nat.not_le.2 hac)]
    rfl
  · intro f g w m p y s x k t hz h2 hl v
    have hc := RowSlot.transferCause_none h2 hl
    refine ⟨fun h hm => h.occurs (units := 1) (price := none) rfl rfl ?_, fun h hm hw => h.occurs (units := 1) (price := none) rfl rfl ?_⟩
    · simp only [h.issuerTeam]
      rw [if_neg (by rw [hm]; decide), if_neg (by rw [hz]; decide), hc]
      rfl
    · simp only [h.issuerTeam]
      rw [if_neg (not_not.2 hm), if_neg (by rw [hz]; decide), hc]
      exact if_neg (by rw [hw]; decide)
  · intro g w p y s x k t h
    refine ⟨fun h1 h2 => h.occurs (units := 1) (price := none) rfl rfl ?_, fun h1 hy => h.occurs (units := 0) (price := none) rfl rfl ?_⟩
    · simp only [h.issuerTeam]
      rw [if_neg (show (t.slotAt w.toNat).st ≠ 1#2 from h1), if_neg (by
        rw [Bool.and_eq_true, decide_eq_true_iff]
        exact fun hc => Bool.false_ne_true ((h2 hc.1).symm.trans hc.2)), State.modTeam_some h.team, State.modTeam_some h.team]
      rfl
    · simp only [h.issuerTeam]
      rw [if_pos (show (t.slotAt w.toNat).st = 1#2 from h1), rowFail_try hy]
  · intro g w a s x k t h
    obtain ⟨t', w', he, hw, hg, hp, hu, hst⟩ := plainUni_at (d := a.toNat) (f := fun _ => (t.slotAt w.toNat).word) h.ready rfl (by
      refine (h.engine_eq _).trans ?_
      simp only [h.issuerTeam]
      rfl) (State.issuer?_agent h.ready.issuer).1
    exact ⟨t', w', he, hw, hg, hp, hst, hu⟩
  · intro s op o w pa k t ho hk hok ht hh
    obtain ⟨hm, ht'⟩ := senseRow_spec w pa hok ht
    refine ⟨_, ?_, hm, ht'⟩
    rw [show exec (.rowSensed op) s = execRowSensed op s from rfl]
    unfold execRowSensed event
    simp only [ho, hh, hk]
    rfl
  · exact fun s c pa h => State.reachRow_none h
  · intro s op o w m base ho hk ht hh
    rw [show exec (.rowputCompletion op) s = execRowputCompletion op s from rfl]
    unfold execRowputCompletion event
    simp only [ho, hk, ht, hh]
    rfl
  · intro s o w base k t ho ht hh hr
    refine ⟨fun j hj => ?_, fun b hb => ?_⟩
    · rw [putRow_homeByte ho ht hh rfl hr, if_pos (by omega), Nat.add_sub_cancel_left]
    · rw [putRow_homeByte ho ht hh rfl hr, if_neg (by omega)]
  · intro s k slot t ht h2 hl hb hh
    refine ⟨s.putTeam k (t.putSlot slot (t.slotAt slot).expire).wakeLimits, ?_, (State.SameStore.putTeam ..).memory, _,
      (State.team?_putTeam ..).trans (if_pos rfl), ?_⟩
    · rw [show exec (.leaseExpiry k slot) s = execLeaseExpiry k slot s from rfl]
      unfold execLeaseExpiry event
      simp only [ht, h2, hl, hb, hh]
      rfl
    · have hs : ((t.putSlot slot (t.slotAt slot).expire).wakeLimits).slotAt slot = (t.slotAt slot).expire :=
        t.slotAt_putSlot slot (t.slotAt slot).expire
      rw [hs]
      exact ⟨rfl, rfl, rfl, rfl⟩

end Sys2Proof.Machine
end

section
/-! PROOF. Launches and `GWAIT` (O49). -/

namespace Sys2Proof.Machine

open Sys2Proof

/-! Masks. -/

theorem laneBit_high {l : Nat} (h : 32 ≤ l) : laneBit l = 0 := by
  unfold laneBit
  apply BitVec.eq_of_toNat_eq
  rw [BitVec.toNat_ofNat]
  exact Nat.mod_eq_zero_of_dvd (pow_dvd_pow 2 h)

theorem and_laneBit_eq {e : LaneMask} {l : Nat} (h : e.getLsbD l = true) : e &&& laneBit l = laneBit l := by
  apply BitVec.eq_of_getLsbD_eq
  intro i hi
  have hl : l < 32 := BitVec.lt_of_getLsbD h
  rw [BitVec.getLsbD_and, laneBit_getLsbD l i hl hi]
  by_cases hil : i = l
  · simp [hil, h]
  · simp [hil]

theorem and_laneBit_zero {e : LaneMask} {l : Nat} (h : e.getLsbD l = false) : e &&& laneBit l = 0 := by
  apply BitVec.eq_of_getLsbD_eq
  intro i hi
  rw [BitVec.getLsbD_and]
  rcases Nat.lt_or_ge l 32 with hl | hl
  · rw [laneBit_getLsbD l i hl hi]
    by_cases hil : i = l
    · simp [hil, h]
    · simp [hil]
  · simp [laneBit_high hl]

theorem laneBit_ne_zero {l : Nat} (h : l < 32) : laneBit l ≠ 0 := by
  intro hz
  have := laneBit_getLsbD l l h h
  rw [hz] at this
  simp at this

theorem lanesOf_laneBit {l : Nat} (h : l < 32) : lanesOf (laneBit l) = [l] := by
  interval_cases l <;> decide

/-! An effect whose state differs in what the register cache notes of its wave. -/

theorem State.putAgent_acquire (s : State) (a : Agent) (w : Wave) (c n : Nat) : (s.putAgent a w).acquire c n = (s.acquire c n).putAgent a w := by
  unfold State.acquire
  split
  · rfl
  · unfold State.modL1 State.putCore State.core
    rw [State.putAgent_cores]
    cases a with
    | cp k => rfl
    | wave k =>
      unfold State.putAgent State.putWave State.team?
      simp only
      split <;> rfl

theorem State.agent?_acquire (s : State) (a : Agent) (c n : Nat) : (s.acquire c n).agent? a = s.agent? a := by
  unfold State.acquire
  split <;> rfl

theorem State.coreOf_putAgent (s : State) (a : Agent) (w : Wave) : (s.putAgent a w).coreOf a = s.coreOf a := by
  cases a with
  | cp k => rfl
  | wave k =>
    unfold State.coreOf State.putAgent State.putWave State.team?
    simp only
    cases hk : assocGet s.teams k.team with
    | none => simp [hk]
    | some t =>
      show ((assocGet (assocPut _ _ _) _).map (fun t : Team => t.core)).getD 511 = _
      rw [assocGet_put_same]
      rfl

theorem State.agent?_modGrid (s : State) (k : GridKey) (f : Grid → Grid) (a : Agent) : (s.modGrid k f).agent? a = s.agent? a := by
  unfold State.modGrid
  split <;> cases a <;> rfl

/-- An acquire after a write of registers, with and without what the register cache notes of the lines written. -/
theorem State.acquire_rewritten {s : State} {a : Agent} {w : Wave} (h : s.agent? a = some w) (f : Wave → Wave) (m : LaneMask) (lines : List Nat)
    (n : Nat) :
    let u := s.modAgent a fun w => (f w).rewritten m lines
    let v := s.modAgent a f
    u.acquire (u.coreOf a) n = (v.acquire (v.coreOf a) n).putAgent a ((f w).rewritten m lines) ∧ (v.acquire (v.coreOf a) n).agent? a = some (f w) := by
  simp only [State.modAgent_some h, State.coreOf_putAgent, State.putAgent_acquire, State.putAgent_putAgent, true_and]
  exact State.agent?_putAgent ((State.agent?_acquire ..).trans h) _

/-- Advancing past a state whose wave has other poison notes is advancing past the state itself. -/
theorem Advances.of_rewritten {u v r : State} {x : Issuer} {i : Instr} {w : Wave} (hv : v.agent? x.a = some w) (m : LaneMask) (lines : List Nat)
    (hu : u = v.putAgent x.a (w.rewritten m lines)) (h : Advances u r x i) : Advances v r x i := by
  intro w₀ hw₀
  obtain rfl := Option.some.inj (hv.symm.trans hw₀)
  subst hu
  obtain ⟨w', how, hor, hsr, hst, hth⟩ := h _ (State.agent?_putAgent hv _)
  refine ⟨w', ⟨?_, fun c => ?_, fun c b => ?_⟩, ?_, ⟨hsr.1, hsr.2⟩, hst, hth⟩
  · have := how.rest
    rwa [State.putAgent_putAgent] at this
  · have := how.cores c
    unfold State.core at this ⊢
    rwa [State.putAgent_cores] at this
  · exact (how.memory c b).trans ((State.SameStore.putAgent ..).memory c b)
  · unfold OnlyRegs at hor ⊢
    have hp : w = { w.rewritten m lines with poison := w.poison } := rfl
    rw [hp, ← hor]

/-! Identifiers and acceptance. -/

theorem bits_setBits {lo n v : Nat} (w : Word) (h : lo + n ≤ 32) (hv : v < 2 ^ n) : bits (setBits w lo n v) lo n = v :=
  bits_eq_of_getLsbD hv fun i hi => by
    rw [getLsbD_setBits w v (by omega), if_pos (by omega), Nat.add_sub_cancel_left]

theorem bits_setBits_of_disjoint {lo n lo' n' v : Nat} (w : Word) (h : lo' + n' ≤ 32) (hd : lo' + n' ≤ lo ∨ lo + n ≤ lo') :
    bits (setBits w lo n v) lo' n' = bits w lo' n' := by
  refine bits_eq_of_getLsbD (Nat.mod_lt _ (Nat.two_pow_pos n')) fun i hi => ?_
  rw [getLsbD_setBits w v (by omega), if_neg (by omega), bits, Nat.testBit_mod_two_pow, Nat.testBit_div_two_pow, Nat.add_comm i lo']
  simp [hi, BitVec.getLsbD]

theorem State.takeGid_spec {s : State} {c : Nat} (hc : c < s.ctxs.length) (hl : s.liveGrids c < 65536) :
    (s.gidTaken c (s.ctx c).nextGid = false → (s.takeGid c).1 = (s.ctx c).nextGid) ∧
      ((s.takeGid c).2.ctx c).nextGid = ((s.takeGid c).1 + 1) % 2 ^ 32 ∧ (s.takeGid c).2.liveGrids c = s.liveGrids c + 1 ∧
      s.SameMemory (s.takeGid c).2 := by
  refine ⟨fun hg => ?_, ?_, ?_, State.SameStore.memory (.of_cores rfl rfl rfl)⟩
  · have hf : ∀ n l, s.freeGid c (s.ctx c).nextGid (n + 1 + l) = (s.ctx c).nextGid := by
      intro n l
      rw [show n + 1 + l = (n + l) + 1 by omega, State.freeGid, hg]
      rfl
    have hk : ∀ (l : List (GridKey × Grid)) (n : Nat), 1 ≤ n → 1 ≤ l.foldl (fun n p => n + 1 + p.2.children.length) n := by
      intro l
      induction l with
      | nil => exact fun _ h => h
      | cons p l ih => exact fun n h => ih (n + 1 + p.2.children.length) (by omega)
    obtain ⟨m, hm⟩ := Nat.exists_eq_add_of_le (hk s.grids 1 le_rfl)
    show s.freeGid c (s.ctx c).nextGid _ = _
    rw [hm]
    exact (congrArg (s.freeGid c (s.ctx c).nextGid) (by omega)).trans (hf m 0)
  · unfold State.takeGid
    simp only [State.setCtReg]
    rw [State.ctx_putCtx (by rwa [State.putCtx_ctxs_length]), State.ctx_putCtx hc]
  · unfold State.takeGid State.liveGrids at *
    simp only
    have hr : ∀ n : Nat, (s.putCtx c { s.ctx c with nextGid := n }).ctReg c 6 = s.ctReg c 6 :=
      fun n => State.ctReg_of_reg (by rw [State.ctx_putCtx hc]) 6
    rw [State.ctReg_setCtReg (by rwa [State.putCtx_ctxs_length]), if_pos rfl, hr]
    exact bits_setBits _ (by decide) (by omega)

theorem acceptGrid_spec {s u : State} {k : GridKey} {g : Grid} (h : s.acceptGrid k g = .ok u) :
    ∃ bs o, u.grid? k = some { g with args := bs, order := o } := by
  unfold State.acceptGrid at h
  simp only at h
  split at h
  · nomatch h
  · split at h
    · nomatch h
    · obtain rfl := Except.ok.inj h
      exact ⟨_, _, assocGet_put_same ..⟩

/-! The leader's launch. -/

/-- Settles O49. -/
theorem launchResults : Obligations.LaunchResults := by
  unfold Obligations.LaunchResults
  refine ⟨?_, ?_, ?_, ?_, ?_⟩
  · intro f g ix d s x k t h i e v ends
    have hx := h.issuerTeam
    refine ⟨fun hl => ?_, fun l hl h32 hel => ?_⟩
    · refine h.occurs (units := 1) (price := none) rfl rfl ?_
      simp only [hx]
      have hz : x.guarded g &&& ~~~(0 : LaneMask) = x.guarded g := BitVec.and_allOnes
      rcases hld : t.leader with _ | ⟨w, l⟩
      · simp only
        rw [hz]
        rfl
      · have hlead : (if w = k.idx then x.guarded g &&& laneBit l else 0) = 0 := by
          split
          · rename_i hw
            exact and_laneBit_zero (hl l (hw ▸ hld))
          · rfl
        simp only
        rw [hlead, hz]
        rfl
    · have hlead : x.guarded g &&& laneBit l = laneBit l := and_laneBit_eq hel
      have hne : ¬laneBit l = 0 := laneBit_ne_zero h32
      intro others depth b
      refine ⟨fun hd => h.occurs (units := 1) (price := none) rfl rfl ?_, fun hd hn => h.occurs (units := 1) (price := none) rfl rfl ?_,
        fun hd hn ha => h.raises rfl rfl ?_, fun bs u hd hn ha hb => ⟨fun hk => h.raises rfl rfl ?_, fun hk => ?_⟩⟩
      · simp only [hx, hl, if_true, hlead, lanesOf_laneBit h32]
        exact (if_neg hne).trans (if_pos hd)
      · simp only [hx, hl, if_true, hlead, lanesOf_laneBit h32]
        exact (if_neg hne).trans ((if_neg hd).trans (if_pos hn))
      · simp only [hx, hl, if_true, hlead]
        exact (if_neg hne).trans ((if_neg hd).trans ((if_neg (Nat.not_le.2 hn)).trans (if_pos ha)))
      · simp only [hx, hl, if_true, hlead]
        refine (if_neg hne).trans ((if_neg hd).trans ((if_neg (Nat.not_le.2 hn)).trans ((if_neg (not_not.2 ha)).trans ?_)))
        rw [hb]
        exact if_pos (by rw [hk]; decide)
      · intro gid
        refine h.occurs (units := 1) (price := none) rfl rfl ?_
        simp only [hx, hl, if_true, hlead, lanesOf_laneBit h32]
        refine (if_neg hne).trans ((if_neg hd).trans ((if_neg (Nat.not_le.2 hn)).trans ((if_neg (not_not.2 ha)).trans ?_)))
        rw [hb]
        exact if_neg (by rw [hk]; decide)
  · exact fun s c hc hl => State.takeGid_spec hc hl
  · intro s op o dst st child ho hk finish
    have he : exec (.launchCompletion op) s = event "LAUNCH_COMPLETION" s fun s => s.completeLaunch op := rfl
    rw [he]
    unfold event State.completeLaunch
    simp only [ho, hk]
    refine ⟨fun hc => ?_, fun k g u hc hh hu => ?_, fun k g va wr u hc hh hu => ?_, fun k g c va wr u hc hh hp hu => ?_⟩
    · simp only [hc]
      rfl
    · simp only [hc, hh, hu]
      rfl
    · simp only [hc, hh, hu]
      rfl
    · simp only [hc, hh, hu]
      simp [hp]
  · exact fun s u k g h => acceptGrid_spec h
  · intro g d a s x k t h e cs name child
    refine ⟨fun hw => ?_, fun hw => ?_⟩
    · refine h.waits rfl rfl ?_
      simp only [h.issuerTeam]
      refine if_pos (List.any_eq_true.2 ?_)
      obtain ⟨l, hl, c, hc, hn⟩ := hw
      refine ⟨l, hl, ?_⟩
      have hc' : List.find? _ _ = some c := hc
      simp only [cs, name] at hc'
      simp [hc', hn]
    · let u := s.modGrid k.team.grid fun p => { p with
        children := p.children.map fun (c : Child) => if ((lanesOf e).map name).contains c.gid then { c with used := true } else c }
      have hw₀ : u.agent? x.a = some x.w := (State.agent?_modGrid ..).trans h.ready.agent
      let f (w : Wave) : Wave := w.writeLanes e d.toNat fun l => match child l with | some c => c.summary.getD 0 | none => 0xFFFFFFFF
      obtain ⟨hu, hv⟩ := State.acquire_rewritten hw₀ f e [16 + d.toNat] 4
      obtain ⟨r, hr, ha⟩ := h.occurs (units := 1) (price := none) rfl rfl (v := (u.modAgent x.a fun w => (f w).rewritten e [16 + d.toNat]).acquire
        ((u.modAgent x.a fun w => (f w).rewritten e [16 + d.toNat]).coreOf x.a) 4) (by
          simp only [h.issuerTeam]
          refine if_neg fun hc => ?_
          obtain ⟨l, hl, hc⟩ := List.any_eq_true.1 hc
          have hw := hw l hl
          simp only [child, cs, name] at hw
          split at hc
          · rename_i c hf
            exact hw c hf (Option.isNone_iff_eq_none.1 hc)
          · nomatch hc)
      exact ⟨r, hr, ha.of_rewritten hv e [16 + d.toNat] hu⟩

end Sys2Proof.Machine
end

section
/-! PROOF. Command queues: what their instructions append (O50), and how their entries start (O51). -/

namespace Sys2Proof.Machine

open Sys2Proof

/-! Appending. -/

/-- The queue of an issuer's context. -/
def Issuer.queue (x : Issuer) (s : State) (q : Nat) : CmdQueue := (s.ctx x.ctx).queues[q]?.getD {}

section
variable {s u : State} {x : Issuer} {q : Nat} {en : QEntry} {go : State → Except (Cause × Byte × State) (QEntry × State)}

theorem appendEntry_place (h : (x.queue s q).entries.length < s.queueLimit x.ctx) (hgo : go s = .ok (en, u)) :
    appendEntry x s q go = .done (u.putCtx x.ctx { u.ctx x.ctx with
      queues := (u.ctx x.ctx).queues.modify q fun y => { y with entries := y.entries ++ [en], quota := false } }) := by
  unfold appendEntry
  refine (if_neg (Nat.not_le.2 h)).trans ?_
  rw [hgo]

theorem appendEntry_full (h : s.queueLimit x.ctx ≤ (x.queue s q).entries.length) (hq : (x.queue s q).quota = true) :
    appendEntry x s q go = .wait 5 s := by
  unfold appendEntry
  exact (if_pos h).trans (if_pos hq)

theorem appendEntry_report (h : s.queueLimit x.ctx ≤ (x.queue s q).entries.length) (hq : (x.queue s q).quota = false) :
    let v := s.putCtx x.ctx { s.ctx x.ctx with queues := (s.ctx x.ctx).queues.set q { x.queue s q with quota := true } }
    let v := v.setCtReg x.ctx 0x00D (v.ctReg x.ctx 0x00D ||| BitVec.ofNat 32 (2 ^ q))
    appendEntry x s q go = .wait 5 (v.raiseEvent (partOf x.ctx) 0x02 (x.ctx % 2) ([0, 0] ++ leBytes 2 q)) := by
  unfold appendEntry
  exact (if_pos h).trans (if_neg (by show ¬(x.queue s q).quota = true; rw [hq]; decide))

end

/-- An instruction whose condition does not hold waits. -/
theorem exec_waits {i : Instr} {s v : State} {x : Issuer} {eff : Issuer → State → Effect} {n : Nat} (hr : Ready i s x) (he : exec i s = issue i s eff)
    (hf : eff x s = .wait n v) : exec i s = .next (v.modAgent x.a fun w => w.setWaiting (x.e &&& w.lanesIn .running) n) := by
  rw [exec_ready hr he, hf]
  rfl

/-- Settles O50: each instruction asks for its entry with a function of its own, which appending then treats alike. -/
theorem queueResults : Obligations.QueueResults := by
  unfold Obligations.QueueResults
  refine ⟨?_, ?_, ?_⟩
  · intro i g q s b u x en hr hg hi y append
    obtain ⟨eff, go, he, hf, hgo⟩ : ∃ (eff : Issuer → State → Effect) (go : State → Except (Cause × Byte × State) (QEntry × State)),
        exec i s = issue i s eff ∧ eff x s = appendEntry x b q.toNat go ∧ go b = .ok (en, u) := by
      rcases hi with ⟨ix, bs, rfl, rfl, ha, hd, hok, rfl⟩ | ⟨ix, rfl, h5, h6, h7, hl, rfl, rfl, rfl⟩ | ⟨n, a, rfl, rfl, rfl, rfl⟩ |
        ⟨n, a, rfl, rfl, rfl, rfl⟩ | ⟨v, rfl, rfl, rfl, rfl⟩
      · refine ⟨_, _, rfl, if_neg hg, ?_⟩
        simp only
        rw [if_neg (not_not.2 ha), hd]
        exact if_pos hok
      · refine ⟨_, _, rfl, if_neg hg, if_neg ?_⟩
        simp only [h5, h6, h7, Nat.not_lt.2 hl, Bool.or_eq_true, decide_eq_true_eq, ne_eq, not_true, or_self,
          not_false_iff]
      · exact ⟨_, _, rfl, if_neg hg, rfl⟩
      · exact ⟨_, _, rfl, if_neg hg, rfl⟩
      · exact ⟨_, fun s => .ok (.irq v.toNat, s), rfl, if_neg hg, rfl⟩
    exact ⟨fun h => occurs_done hr he (hf.trans (appendEntry_place h hgo)), fun h hq => exec_waits hr he (hf.trans (appendEntry_full h hq)),
      fun h hq => exec_waits hr he (hf.trans (appendEntry_report h hq))⟩
  · exact fun g c s x hr hg => occurs_done (units := 1) (price := none) hr rfl (if_neg hg)
  · intro s p c hs hrun
    unfold State.swapRequest
    simp only [hs]
    exact if_pos hrun

/-! Starting. -/

theorem State.ctx_modQueue {s : State} {c : Nat} (hc : c < s.ctxs.length) (q : Nat) (f : CmdQueue → CmdQueue) :
    (s.modQueue c q f).ctx c = { s.ctx c with queues := (s.ctx c).queues.modify q f } := State.ctx_putCtx hc _

theorem State.nextEntry_some {s : State} {c q : Nat} {en : QEntry} (h : s.nextEntry c q = some en) :
    s.running c = true ∧ s.halted c = false ∧ ∃ y, (s.ctx c).queues[q]? = some y ∧ y.started = false ∧ y.held = none ∧ y.stuck = none ∧
      y.entries.head? = some en := by
  unfold State.nextEntry at h
  split at h
  · nomatch h
  · rename_i y hy
    split at h
    · nomatch h
    · rename_i hc
      simp only [Bool.or_eq_true, Bool.not_eq_true', not_or, Bool.not_eq_true, Bool.not_eq_false, Option.isSome_eq_false_iff,
        Option.isNone_iff_eq_none] at hc
      obtain ⟨⟨⟨⟨⟨hst, hh⟩, hk⟩, hrun⟩, hhalt⟩, -⟩ := hc
      exact ⟨hrun, hhalt, y, hy, hst, hh, hk, h⟩

/-- An event of a context that comes about. -/
theorem ctxEvent_next {name : String} {s t : State} {c : Nat} {f : State → Option State} (hc : c < 16) (h : f s = some t) :
    (if 16 ≤ c then Host.Outcome.fault (.noSuchUnit name) else event name s f : Host.Outcome State Fault Refusal) = .next t := by
  rw [if_neg (Nat.not_le.2 hc)]
  unfold event
  rw [h]

/-- Settles O51: each start is the unfolding of its event at the next entry. -/
theorem queueStarts : Obligations.QueueStarts := by
  unfold Obligations.QueueStarts
  refine ⟨fun s c q en h => State.nextEntry_some h, ?_, ?_, ?_, ?_, ?_, ?_, ?_, ?_⟩
  · intro s v c q b d hc hn hl ha
    refine ctxEvent_next hc ?_
    unfold State.startLaunch
    simp only [hn, if_neg (Nat.not_le.2 hl), ha]
  · intro s u c q b d k va wr hc hn hl ha
    refine ctxEvent_next hc ?_
    unfold State.startLaunch
    simp only [hn, if_neg (Nat.not_le.2 hl), ha]
  · intro s c q b hc hn len aligned
    have hb : ((pairAt b 0).toNat % 16 ≠ 0 || (pairAt b 2).toNat % 16 ≠ 0 || (wordAt b 4).toNat % 16 ≠ 0) = true ↔ ¬aligned := by
      simp [aligned, len, Classical.or_iff_not_imp_left]
    refine ⟨fun ha => ctxEvent_next hc ?_, fun ha h0 => ctxEvent_next hc ?_, fun ha h0 => ctxEvent_next hc ?_⟩ <;>
      unfold State.startCopy <;> simp only [hn]
    · exact if_pos (hb.2 ha)
    · exact (if_neg fun h => hb.1 h ha).trans (if_pos h0)
    · exact (if_neg fun h => hb.1 h ha).trans (if_neg h0)
  · intro s u c q va v p o hc
    refine ⟨fun hn ho => ctxEvent_next hc ?_, fun hn ho => ctxEvent_next hc ?_,
      fun k => ⟨fun hn ho => ctxEvent_next hc ?_, fun hn ho => ctxEvent_next hc ?_⟩⟩
    · unfold State.startSemwait semPasses
      simp only [hn, ho, decide_eq_true_eq]
      split <;> rfl
    · unfold State.startSemsig
      simp only [hn, ho]
    · unfold State.startSemwait
      simp only [hn, ho]
    · unfold State.startSemsig
      simp only [hn, ho]
  · intro s c q v hc hn
    refine ctxEvent_next hc ?_
    unfold State.startIrq
    simp only [hn]
  · intro s f v hm
    unfold State.raiseMsix
    exact if_neg (by simpa using hm)
  · intro s c q y hc hy
    unfold State.queueDone
    simp only [State.ctx_putCtx hc, List.getElem?_modify_eq, hy]
    exact ⟨_, rfl, rfl, rfl, rfl⟩
  · intro s c q k va wr hc hk hh
    unfold State.entryCause
    rw [if_neg hk]
    exact State.raiseHalt_halt hc hh _

end Sys2Proof.Machine
end

section
/-! PROOF. Collective entries, counters and routes (O47). -/

namespace Sys2Proof.Machine

open Sys2Proof

/-- The entries of a queue pair that fire now: those at the head that are armed and that the engine holds. -/
def QueuePair.ready (q : QueuePair) : List WorkEntry := if q.stuck.isSome then [] else q.entries.takeWhile fun e => e.armed && e.slot.isNone

theorem QueuePair.fire_eq (q : QueuePair) : q.fire =
    { q with entries := q.entries.drop q.ready.length, firing := q.firing ++ q.ready, fired := q.fired + BitVec.ofNat 32 q.ready.length } := rfl

theorem QueuePair.ready_prefix (q : QueuePair) : q.entries = q.ready ++ q.entries.drop q.ready.length := by
  have hp : q.ready <+: q.entries := by
    unfold QueuePair.ready
    split
    · exact List.nil_prefix
    · exact List.takeWhile_prefix _
  exact (List.prefix_iff_eq_append.1 hp).symm

/-- What stands at the head after the firing does not fire. -/
theorem QueuePair.head_fire (q : QueuePair) {e : WorkEntry} (h : (q.entries.drop q.ready.length).head? = some e) :
    e.armed = false ∨ e.slot ≠ none ∨ q.stuck ≠ none := by
  unfold QueuePair.ready at h
  split at h
  · rename_i hs
    exact .inr (.inr (Option.isSome_iff_ne_none.1 hs))
  · have hd : q.entries.drop (q.entries.takeWhile fun e => e.armed && e.slot.isNone).length =
        q.entries.dropWhile fun e => e.armed && e.slot.isNone := by
      have := List.drop_left (l₁ := q.entries.takeWhile fun e => e.armed && e.slot.isNone)
        (l₂ := q.entries.dropWhile fun e => e.armed && e.slot.isNone)
      rwa [List.takeWhile_append_dropWhile] at this
    rw [hd] at h
    have hn := List.head?_dropWhile_not (fun e : WorkEntry => e.armed && e.slot.isNone) q.entries
    rw [h] at hn
    cases ha : e.armed with
    | false => exact .inl rfl
    | true =>
      simp [ha] at hn
      exact .inr (.inl (Option.isSome_iff_ne_none.1 hn))

theorem QueuePair.of_mem_ready {q : QueuePair} {e : WorkEntry} (h : e ∈ q.ready) : e.armed = true ∧ e.slot = none := by
  unfold QueuePair.ready at h
  split at h
  · nomatch h
  · simpa using List.mem_takeWhile_imp h

theorem State.counter_setCounter {s : State} {c : Nat} (hc : c < s.ctxs.length) (n m : Nat) (v : Word) :
    (s.setCounter c n v).counter c m = if m = n then v else s.counter c m := by
  unfold State.counter State.setCounter
  refine (congrArg (fun y : Ctx => y.counters.get 0 m) (State.ctx_of_ctxs (s := s.putCtx c _) rfl c)).trans ?_
  rw [State.ctx_putCtx hc]
  exact Tab.get_put ..

theorem State.counter_setCounter_other (s : State) {c d : Nat} (h : d ≠ c) (n m : Nat) (v : Word) :
    (s.setCounter c n v).counter d m = s.counter d m := by
  unfold State.counter State.setCounter
  refine (congrArg (fun y : Ctx => y.counters.get 0 m) (State.ctx_of_ctxs (s := s.putCtx c _) rfl d)).trans ?_
  rw [State.ctx_putCtx_other s h]

/-- Settles O47. -/
theorem collectiveResults : Obligations.CollectiveResults := by
  unfold Obligations.CollectiveResults
  refine ⟨?_, ?_, ?_, ?_, ?_⟩
  · intro g ix q p s x k t h en c qp
    refine ⟨fun hp => h.raises rfl rfl ?_, fun hp hl => h.occurs (units := copyUnits en.len) (price := none) rfl rfl ?_,
      fun hp hl => h.occurs (units := copyUnits en.len) (price := none) rfl rfl ?_⟩
    · simp only [h.issuerTeam]
      exact if_pos (by rw [show WorkEntry.permitted _ = false from hp]; rfl)
    · simp only [h.issuerTeam]
      exact (if_neg (by rw [show WorkEntry.permitted _ = true from hp]; decide)).trans (if_neg (Nat.not_le.2 hl))
    · simp only [h.issuerTeam]
      exact (if_neg (by rw [show WorkEntry.permitted _ = true from hp]; decide)).trans (if_pos hl)
  · intro q
    rw [q.fire_eq]
    simp only [List.drop_left, List.take_left]
    exact ⟨⟨_, q.ready_prefix, rfl, fun e he => q.head_fire he⟩, trivial, fun e he => QueuePair.of_mem_ready he⟩
  · intro g n a f s x k t
    refine ⟨fun h => h.occurs (units := 1) (price := none) rfl rfl rfl, fun h => h.occurs (units := 1) (price := none) rfl rfl rfl,
      fun h => ⟨fun hv => h.occurs (units := 1) (price := none) rfl rfl ?_, fun hv => h.waits rfl rfl ?_⟩⟩
    · exact if_pos (decide_eq_true hv)
    · exact if_neg (by simpa using hv)
  · intro s c n v hc
    refine ⟨(State.counter_setCounter hc n n v).trans (if_pos rfl), fun m hm => (State.counter_setCounter hc n m v).trans (if_neg hm),
      fun d m hd => s.counter_setCounter_other hd n m v, State.SameStore.memory (.of_cores rfl rfl rfl)⟩
  · intro g e ix s x k t h
    refine ⟨fun hr => h.occurs (units := 1) (price := none) rfl rfl ?_, fun hr => h.raises rfl rfl ?_⟩
    · simp only [h.issuerTeam]
      exact if_neg (by rw [hr]; decide)
    · simp only [h.issuerTeam]
      exact if_pos hr

end Sys2Proof.Machine
end

section
/-! PROOF. Transfers and matrix operations end (O45). -/

namespace Sys2Proof.Machine

open Sys2Proof

/-! Operations in flight, and what the end of one leaves. -/

theorem Wave.testWaits_absent (w : Wave) : w.testWaits.absent = w.absent := rfl

namespace State

theorem op?_modOp {s : State} {id : Nat} {o : Op} (h : s.op? id = some o) {f : Op → Op} (hf : ∀ o, (f o).id = o.id) :
    (s.modOp id f).op? id = some (f o) := by
  have hid : o.id = id := by simpa using List.find?_some h
  have hp : ((fun o : Op => decide (o.id = id)) ∘ fun o => if o.id = id then f o else o) = fun o => decide (o.id = id) := by
    funext o
    simp only [Function.comp]
    split <;> simp_all
  unfold op? modOp at *
  rw [List.find?_map, hp, h]
  simp [hid]

theorem modAgent_ops (s : State) (a : Agent) (f : Wave → Wave) : (s.modAgent a f).ops = s.ops := by
  unfold State.modAgent
  split
  · exact putAgent_ops ..
  · rfl

theorem modTeam_ops (s : State) (k : TeamKey) (f : Team → Team) : (s.modTeam k f).ops = s.ops := by
  unfold State.modTeam
  split <;> rfl

theorem kept_ops (l : List Op) : State.Kept fun s => s.ops = l where
  team s k f _ h := (modTeam_ops s k f).trans h
  agent s a w _ h := (putAgent_ops s a w).trans h
  ctx _ _ _ h := h
  part _ _ _ h := h
  core _ _ _ _ h := h
  memory _ _ _ _ h := h
  out _ _ h := h

namespace Kept
variable {P : State → Prop} (hP : State.Kept P)
include hP

theorem dropFlags (s : State) (fs : List (Agent × Nat)) (h : P s) : P (s.dropFlags fs) :=
  foldl _ (fun s (p : Agent × Nat) => hP.modAgent s p.1 (fun w => (w.modFlag p.2 (· - 1)).testWaits) fun _ => Wave.testWaits_absent _) _ _ h

theorem queueDone (s : State) (c q : Nat) (h : P s) : P (s.queueDone c q) := hP.ctx _ _ _ h

theorem addStickyAsync (s : State) (a : Agent) (fl : Word) (h : P s) : P (s.addStickyAsync a fl) := by
  unfold State.addStickyAsync
  have hm : P (s.modAgent a fun w => w.addSticky fl) := hP.modAgent _ _ _ (fun _ => rfl) h
  simp only
  split
  · exact h
  · split
    · exact hP.pendCause _ _ _ _ _ _ _ hm
    · split
      · exact hP.pendCause _ _ _ _ _ _ _ hm
      · exact hm

theorem consume (s : State) (o : Op) (code : Nat) (h : P s) : P (s.consume o code) := by
  unfold State.consume
  simp only
  split
  · exact h
  · split
    · split
      · exact hP.takeCause _ _ _ _ _ _ _ _ h
      · exact h
    · exact hP.raiseHalt _ _ _ (hP.modAgent _ _ _ (fun _ => rfl) h)
    · exact hP.raiseHalt _ _ _ h

end Kept

namespace SameStore

theorem queueDone (s : State) (c q : Nat) : s.SameStore (s.queueDone c q) := of_cores rfl rfl rfl

theorem addStickyAsync (s : State) (a : Agent) (fl : Word) : s.SameStore (s.addStickyAsync a fl) := by
  unfold State.addStickyAsync
  have hm := modAgent s a fun w => w.addSticky fl
  simp only
  split
  · exact refl s
  · split
    · exact hm.trans (pendCause ..)
    · split
      · exact hm.trans (pendCause ..)
      · exact hm

theorem consume (s : State) (o : Op) (code : Nat) : s.SameStore (s.consume o code) := by
  unfold State.consume
  simp only
  split
  · exact refl s
  · split
    · split
      · exact takeCause ..
      · exact refl s
    · exact (modAgent ..).trans (raiseHalt ..)
    · exact raiseHalt ..

end SameStore

/-- The tile of a transfer that ends becomes READY. -/
def endTile (s : State) (o : Op) : State :=
  match o.kind, o.teamKey with
  | .copy c, some k => (match c.tile with | some m => s.tileReady k m (!c.fill) | none => s)
  | .rowcon _ m _, some k => s.tileReady k m false
  | .rowput _ m _, some k => s.tileReady k m true
  | _, _ => s

/-- The groups of its core that wait for a limit are tested again. -/
def wakeCoreLimits (s : State) (c : Nat) : State :=
  { s with teams := s.teams.map (fun (p : TeamKey × Team) => if p.2.core = c then (p.1, p.2.wakeLimits) else p) }

/-- The sticky bits of a `ZEPI` that ends. -/
def endSticky (s : State) (o : Op) (c : Option Cause) : State :=
  match o.kind with
  | .zepi e => if c.isSome then s.modAgent o.agent fun w => w.addSticky e.sticky else s.addStickyAsync o.agent e.sticky
  | _ => s

/-- The cause of a transfer that ends is delivered, and one that a cause stops is kept for the stop record. -/
def endCause (s : State) (o : Op) (cause c : Option Cause) : State :=
  match c with
  | some d =>
    let x := s.ctx (ctxOf o.agent)
    let s := if cause.isSome then s.putCtx (ctxOf o.agent) { x with stopped := x.stopped ++ [{ o with cause := c }] } else s
    s.pendCause o.agent d 1 o.who o.core o.quarter
  | none => s

/-- The cause that a transfer ends with: the lower of the one that stops it and the one noted before. -/
def endCauseOf (o : Op) (cause : Option Cause) : Option Cause :=
  match cause, o.cause with | some a, some b => some (min a b) | some a, none => some a | none, b => b

/-- The steps of the end of a transfer before its queue entry completes. -/
def endSteps (s : State) (o : Op) (cause c : Option Cause) : State :=
  (((((s.dropOp o.id).endTile o).dropFlags o.flags).wakeCoreLimits o.core).endSticky o c).endCause o cause c

theorem endTransfer_eq (s : State) (o : Op) (cause : Option Cause) : s.endTransfer o cause =
    match o.queue with
    | some q =>
      if (endCauseOf o cause).isNone then (s.endSteps o cause (endCauseOf o cause)).queueDone (ctxOf o.agent) q else s.endSteps o cause (endCauseOf o cause)
    | none => s.endSteps o cause (endCauseOf o cause) := rfl

/-- What the parts of the end of a transfer keep, its end keeps. -/
theorem endTransfer_keeps {P : State → Prop} (htile : ∀ s o, P s → P (endTile s o)) (hflags : ∀ s fs, P s → P (dropFlags s fs))
    (hwake : ∀ s c, P s → P (wakeCoreLimits s c)) (hsticky : ∀ s o c, P s → P (endSticky s o c)) (hcause : ∀ s o d c, P s → P (endCause s o d c))
    (hqueue : ∀ s c q, P s → P (queueDone s c q)) (s : State) (o : Op) (cause : Option Cause) (h : P (s.dropOp o.id)) :
    P (s.endTransfer o cause) := by
  rw [endTransfer_eq]
  have ht : ∀ c, P (s.endSteps o cause c) := fun c => hcause _ _ _ _ (hsticky _ _ _ (hwake _ _ (hflags _ _ (htile _ _ h))))
  generalize endCauseOf o cause = c
  cases o.queue with
  | none => exact ht c
  | some q =>
    simp only
    split
    · exact hqueue _ _ _ (ht c)
    · exact ht c

theorem endTransfer_ops (s : State) (o : Op) (cause : Option Cause) : (s.endTransfer o cause).ops = s.ops.filter fun p => p.id ≠ o.id := by
  have hK := kept_ops (s.ops.filter fun p => p.id ≠ o.id)
  refine endTransfer_keeps (P := fun u => u.ops = s.ops.filter fun p => p.id ≠ o.id) (fun u o h => ?_) (fun u fs h => hK.dropFlags u fs h)
    (fun u c h => h) (fun u o c h => ?_) (fun u o d c h => ?_) (fun u c q h => h) s o cause rfl
  · unfold endTile
    split
    · split
      · exact (modTeam_ops ..).trans h
      · exact h
    · exact (modTeam_ops ..).trans h
    · exact (modTeam_ops ..).trans h
    · exact h
  · unfold endSticky
    split
    · split
      · exact (modAgent_ops ..).trans h
      · exact hK.addStickyAsync _ _ _ h
    · exact h
  · unfold endCause
    split
    · refine hK.pendCause _ _ _ _ _ _ _ ?_
      split <;> exact h
    · exact h

theorem SameStore.endTransfer (s : State) (o : Op) (cause : Option Cause) : s.SameStore (s.endTransfer o cause) := by
  refine endTransfer_keeps (P := s.SameStore) (fun u o h => h.trans ?_) (fun u fs h => h.trans (dropFlags u fs))
    (fun u c h => h.trans (of_cores rfl rfl rfl)) (fun u o c h => h.trans ?_) (fun u o d c h => h.trans ?_)
    (fun u c q h => h.trans (queueDone u c q)) s o cause (dropOp s o.id)
  · unfold endTile
    split
    · split
      · exact modTeam ..
      · exact refl u
    · exact modTeam ..
    · exact modTeam ..
    · exact refl u
  · unfold endSticky
    split
    · split
      · exact modAgent ..
      · exact addStickyAsync ..
    · exact refl u
  · unfold endCause
    split
    · refine SameStore.trans ?_ (pendCause ..)
      split
      · exact putCtx ..
      · exact refl u
    · exact refl u

end State

/-! Matrix operations. -/

theorem State.performMatrix_spec {s : State} {o : Op} {k : TeamKey} {t : Team} (hk : o.teamKey = some k) (ht : s.team? k = some t)
    (hturn : s.matrixTurn o = true) (hm : (o.kind matches .mma _ | .zclr _ _ | .zmovV _ _ _ | .zmovZ _ _ _) = true) :
    ∃ r, s.performMatrix o = some r ∧ s.SameStore r ∧ r.ops = s.ops.filter fun p => p.id ≠ o.id := by
  have hK := State.kept_ops (s.ops.filter fun p => p.id ≠ o.id)
  have hcond : (!s.matrixTurn o) = false := by rw [hturn]; rfl
  have drop : ∀ u : State, s.SameStore u → u.ops = s.ops → s.SameStore ((u.dropOp o.id).dropFlags o.flags) ∧
      ((u.dropOp o.id).dropFlags o.flags).ops = s.ops.filter fun p => p.id ≠ o.id := fun u hu ho =>
    ⟨hu.trans ((State.SameStore.dropOp ..).trans (State.SameStore.dropFlags ..)), hK.dropFlags _ _ (by rw [← ho]; rfl)⟩
  unfold State.performMatrix
  simp only [hk, ht, hcond]
  cases hkind : o.kind <;> rw [hkind] at hm
  case mma m =>
    refine ⟨_, rfl, ?_, ?_⟩
    · exact ((State.SameStore.putTeam ..).trans ((State.SameStore.consume ..).trans (State.SameStore.dropOp ..))).trans
        ((State.SameStore.foldl _ (fun s j => State.SameStore.addStickyAsync ..) _ _).trans (State.SameStore.dropFlags ..))
    · refine hK.dropFlags _ _ (State.Kept.foldl _ (fun s j => hK.addStickyAsync s _ _) _ _ ?_)
      exact congrArg (List.filter fun p : Op => decide (p.id ≠ o.id)) ((State.kept_ops s.ops).consume _ _ _ rfl)
  case zclr z n => exact ⟨_, rfl, drop _ (State.SameStore.putTeam ..) rfl⟩
  case zmovV z q b =>
    exact ⟨_, rfl, drop _ ((State.SameStore.consume ..).trans (State.SameStore.modAgent ..))
      ((State.modAgent_ops ..).trans ((State.kept_ops s.ops).consume _ _ _ rfl))⟩
  case zmovZ z q vals => exact ⟨_, rfl, drop _ (State.SameStore.putTeam ..) rfl⟩
  all_goals cases hm

/-! Transfers. -/

theorem event_next {name : String} {s t : State} {f : State → Option State} (h : f s = some t) : event name s f = .next t := by
  unfold event
  rw [h]

theorem State.transfer?_some {s : State} {id : Nat} {o : Op} (h : s.op? id = some o) (ht : o.kind.transfer = true) : s.transfer? id = some o := by
  unfold State.transfer?
  rw [h]
  exact if_pos ht

theorem State.completeTransfer_finished {s u : State} {id : Nat} {o : Op} (h : s.transferRest id = (.finished, u)) (ho : u.op? id = some o) :
    s.completeTransfer id = some (u.endTransfer o none) := by
  unfold State.completeTransfer
  rw [h]
  simp only [ho]

/-- Settles O45: each event follows the next movement of its transfer; the end of a transfer is taken apart into its steps. -/
theorem engineEvents : Obligations.EngineEvents := by
  unfold Obligations.EngineEvents
  refine ⟨?_, ?_, ?_, ?_, ?_, ?_, ?_, ?_, ?_, ?_⟩
  · intro s u op o o' ho ht hr ho'
    refine ⟨fun hf =>
        (show exec (.engineTransferCompletion op) s = execEngineTransferCompletion op s from rfl).trans (event_next ?_),
      fun hf => (show exec (.tileFillCompletion op) s = execTileFillCompletion op s from rfl).trans (event_next ?_)⟩
    · simp only [State.transfer?_some ho ht, hf]
      exact State.completeTransfer_finished hr ho'
    · have hc : ∃ c, o.kind = .copy c := by
        unfold OpKind.fills at hf
        split at hf
        · exact ⟨_, ‹_›⟩
        · nomatch hf
      obtain ⟨c, hc⟩ := hc
      rw [hc] at hf
      simp only [ho, hc, hf]
      exact State.completeTransfer_finished hr ho'
  · intro s op off j l o ho
    exact ⟨_, State.op?_modOp ho fun o => rfl, rfl, rfl⟩
  · intro s op o w m base ho hk ht hh
    refine (show exec (.tileFillCompletion op) s = execTileFillCompletion op s from rfl).trans (event_next ?_)
    simp only [ho, hk, ht, hh]
    rfl
  · intro s op o o' c m k ho ht ho' hc hk hm hf hl
    refine (show exec (.tileDrainCompletion op) s = execTileDrainCompletion op s from rfl).trans (event_next ?_)
    simp only [State.transfer?_some ho ht, ho', hc, hk, hm, hf, Bool.false_or, decide_eq_true_eq, Nat.not_lt.2 hl, if_false]
  · intro s u op n o c bar p b ho hc hn hh hl hb hbar y
    refine (show exec (.barrierAddition op n) s = execBarrierAddition op n s from rfl).trans (event_next ?_)
    have hcond : (decide (n = 0) || o.held.isSome || decide (c.done - c.refused - c.added < n)) = false := by
      simp [hh, Nat.pos_iff_ne_zero.1 hn, Nat.not_lt.2 hl]
    simp only [ho, hc, hcond]
    unfold State.copyAdd
    simp only [hb, if_neg (Nat.pos_iff_ne_zero.1 hn), hbar]
    rfl
  · intro s u v op o va wr ho ht hr
    refine (show exec (.enginePageFault op) s = execEnginePageFault op s from rfl).trans (event_next ?_)
    simp only [State.transfer?_some ho ht, hr]
    rfl
  · intro s u v op o o' c ho ht hr ho'
    refine (show exec (.engineTransferStop op) s = execEngineTransferStop op s from rfl).trans (event_next ?_)
    simp only [State.transfer?_some ho ht, hr]
    simp only [transferEnd, ho']
    rfl
  · intro s o c
    refine ⟨fun p hp => ?_, (State.SameStore.endTransfer s o c).memory⟩
    rw [State.endTransfer_ops] at hp
    simpa using (List.mem_filter.1 hp).2
  · intro s op o k t ho hk ht hturn hm
    obtain ⟨r, hr, hs, hops⟩ := State.performMatrix_spec hk ht hturn hm
    refine ⟨r, (show exec (.mmaCompletion op) s = execMmaCompletion op s from rfl).trans (event_next ?_), hs.memory, fun p hp => ?_⟩
    · rw [ho]; exact hr
    · rw [hops] at hp
      simpa using (List.mem_filter.1 hp).2
  · intro m row b b2 j acc hq hf
    unfold MatOp.cell bIndex
    simp only [hq, hf, if_true]
    exact congrArg (fun z => (BitVec.ofInt 32 z, (0 : Word)))
      (foldl_add_eq_sum (fun k => signedOf 8 (wordsElem 8 row k) * signedOf 8 (bytesElem 8 b (if m.trans = true then j * m.kk + k else k * 64 + j))) _ _)

end Sys2Proof.Machine
end

section
/-! PROOF. Matrix instructions of gangs (O44). -/

namespace Sys2Proof.Machine

open Sys2Proof

/-! What becomes of the other waves of a team. -/

/-- A wave of which no register and no thread changed. -/
def LikeWave (v w : Wave) : Prop := SameRegs v w ∧ w.threads = v.threads

theorem LikeWave.refl (w : Wave) : LikeWave w w := ⟨⟨fun _ _ _ => rfl, fun _ => rfl⟩, rfl⟩

theorem LikeWave.trans {u v w : Wave} (h : LikeWave u v) (g : LikeWave v w) : LikeWave u w :=
  ⟨⟨fun n l hl => (g.1.1 n l hl).trans (h.1.1 n l hl), fun n => (g.1.2 n).trans (h.1.2 n)⟩, g.2.trans h.2⟩

/-- The waves of a team but one have their registers and threads as before. -/
def State.OthersAlike (k : WaveKey) (s r : State) : Prop :=
  ∀ t, s.team? k.team = some t → ∃ t', r.team? k.team = some t' ∧
    ∀ j, j ≠ k.idx → ∀ w, t.waves[j]? = some w → ∃ w', t'.waves[j]? = some w' ∧ LikeWave w w'

theorem State.agent?_wave_some {s : State} {k : WaveKey} {w : Wave} (h : s.agent? (.wave k) = some w) :
    ∃ t, s.team? k.team = some t ∧ t.waves[k.idx]? = some w := by
  simpa only [State.agent?, State.wave?, Option.bind_eq_some_iff] using h

namespace State.OthersAlike
variable {k : WaveKey}

theorem refl (s : State) : State.OthersAlike k s s := fun t ht => ⟨t, ht, fun _ _ w hw => ⟨w, hw, .refl w⟩⟩

theorem trans {s u r : State} (h : State.OthersAlike k s u) (g : State.OthersAlike k u r) : State.OthersAlike k s r := by
  intro t ht
  obtain ⟨t₁, h₁, hw₁⟩ := h t ht
  obtain ⟨t₂, h₂, hw₂⟩ := g t₁ h₁
  refine ⟨t₂, h₂, fun j hj w hw => ?_⟩
  obtain ⟨w₁, e₁, l₁⟩ := hw₁ j hj w hw
  obtain ⟨w₂, e₂, l₂⟩ := hw₂ j hj w₁ e₁
  exact ⟨w₂, e₂, l₁.trans l₂⟩

theorem of_teams {s r : State} (h : r.teams = s.teams) : State.OthersAlike k s r := by
  intro t ht
  exact ⟨t, by unfold State.team? at *; rw [h]; exact ht, fun _ _ w hw => ⟨w, hw, .refl w⟩⟩

/-- The wave left out may change in any way, and any other only in what is no register and no thread. -/
theorem putAgent {s : State} {a : Agent} {v w : Wave} (hv : s.agent? a = some v) (h : a = .wave k ∨ LikeWave v w) :
    State.OthersAlike k s (s.putAgent a w) := by
  cases a with
  | cp c => exact of_teams rfl
  | wave i =>
    intro t ht
    obtain ⟨y, hy, hvy⟩ := State.agent?_wave_some hv
    unfold State.putAgent State.putWave
    simp only [hy]
    by_cases hk : i.team = k.team
    · obtain rfl := Option.some.inj (ht.symm.trans (hk ▸ hy))
      refine ⟨_, (State.team?_putTeam ..).trans (if_pos hk.symm), fun j hj w' hw' => ?_⟩
      by_cases hij : i.idx = j
      · subst hij
        rcases h with h | h
        · exact absurd (congrArg WaveKey.idx (Agent.wave.inj h)) hj
        · obtain rfl := Option.some.inj (hvy.symm.trans hw')
          exact ⟨w, by simp [(List.getElem?_eq_some_iff.1 hvy).1], h⟩
      · exact ⟨w', by simp [hij, hw'], .refl w'⟩
    · exact ⟨t, (State.team?_putTeam ..).trans ((if_neg (Ne.symm hk)).trans ht), fun _ _ w hw => ⟨w, hw, .refl w⟩⟩

theorem modAgent {s : State} {a : Agent} {f : Wave → Wave} (h : a = .wave k ∨ ∀ w, LikeWave w (f w)) :
    State.OthersAlike k s (s.modAgent a f) := by
  unfold State.modAgent
  split
  · exact putAgent ‹_› (h.imp_right fun h => h _)
  · exact refl s

theorem raiseFlags (s : State) (fs : List (Agent × Nat)) : State.OthersAlike k s (s.raiseFlags fs) := by
  induction fs generalizing s with
  | nil => exact refl s
  | cons p fs ih =>
    exact (modAgent (f := fun w => w.modFlag p.2 (· + 1)) (.inr fun w => ⟨⟨fun _ _ _ => rfl, fun _ => rfl⟩, rfl⟩)).trans (ih _)

theorem addOp (s : State) (f : Nat → Op) : State.OthersAlike k s (s.addOp f) := (raiseFlags s _).trans (of_teams rfl)

theorem charge (s : State) (payer : Agent) (n : Nat) : State.OthersAlike k s (s.charge payer n) := by
  cases payer with
  | cp c => exact of_teams rfl
  | wave i =>
    unfold State.charge
    simp only
    split
    · rename_i t w ht hw
      have hv : (s.putCore t.core { s.core t.core with shares := (s.core t.core).shares.modify w.quarter (· - (n : Int)) }).agent? (.wave i) = some w :=
        (State.agent?_wave_of_teams rfl i).trans hw
      exact (of_teams rfl).trans (putAgent hv (.inr ⟨⟨fun _ _ _ => rfl, fun _ => rfl⟩, rfl⟩))
    · exact refl s

end State.OthersAlike

/-! An issue that another wave of the team pays for. -/

theorem State.SameStore.charge (s : State) (payer : Agent) (n : Nat) : s.SameStore (s.charge payer n) := by
  cases payer with
  | cp c => exact .of_cores rfl rfl rfl
  | wave i =>
    unfold State.charge
    simp only
    split
    · rename_i t w ht hw
      have hc : s.SameStore (s.putCore t.core { s.core t.core with shares := (s.core t.core).shares.modify w.quarter (· - (n : Int)) }) := by
        refine ⟨rfl, rfl, fun c => ?_⟩
        rw [State.core_putCore]
        split
        · rename_i h
          rw [h]
        · rfl
      exact hc.trans (State.SameStore.putAgent _ (.wave i) _)
    · exact .refl s

theorem State.charge_ops (s : State) (payer : Agent) (n : Nat) : (s.charge payer n).ops = s.ops := by
  cases payer with
  | cp c => rfl
  | wave i =>
    unfold State.charge
    simp only
    split
    · exact State.putAgent_ops _ (.wave i) _
    · rfl

/-- An issue that completes leaves the operations in flight, every byte of memory, and of the other waves of its team every register and thread. -/
theorem conclude_done_others {x : Issuer} {k : WaveKey} (ha : x.a = .wave k) (i : Instr) (v : State) (units : Nat) (payer : Option Agent)
    (price : Option Nat) :
    (conclude i x (.done v 0 units payer price)).ops = v.ops ∧ v.SameStore (conclude i x (.done v 0 units payer price)) ∧
      State.OthersAlike k v (conclude i x (.done v 0 units payer price)) := by
  simp only [conclude]
  rw [show KDesc.trapOf _ 0 = none from KDesc.trapOf_zero _]
  generalize hu : (v.modAgent x.a fun w => ((w.stepPast x.e i.size).addSticky 0).rewritten x.e (writtenLines i)) = u
  have hvu : u.ops = v.ops ∧ v.SameStore u ∧ State.OthersAlike k v u :=
    hu ▸ ⟨State.modAgent_ops .., State.SameStore.modAgent .., State.OthersAlike.modAgent (.inl ha)⟩
  have hus : (u.modAgent x.a x.w.countIssue).ops = u.ops ∧ u.SameStore (u.modAgent x.a x.w.countIssue) ∧
      State.OthersAlike k u (u.modAgent x.a x.w.countIssue) :=
    ⟨State.modAgent_ops .., State.SameStore.modAgent .., State.OthersAlike.modAgent (.inl ha)⟩
  unfold State.account
  simp only
  split
  · exact ⟨hus.1.trans hvu.1, hvu.2.1.trans hus.2.1, hvu.2.2.trans hus.2.2⟩
  · exact ⟨(State.charge_ops ..).trans (hus.1.trans hvu.1), (hvu.2.1.trans hus.2.1).trans (State.SameStore.charge ..),
      (hvu.2.2.trans hus.2.2).trans (State.OthersAlike.charge _ _ _)⟩

/-! The rendezvous. -/

/-- A team whose gang has latched an address, with the waves that arrived. -/
def Team.gangAt (t : Team) (h : BitVec 3) (gang : Gang) (pc : DWord) (arrived : LaneMask) : Team :=
  { t with gangs := (t.gangs.put {} h.toNat { gang with latch := some pc }).put {} h.toNat { gang with latch := some pc, arrived := arrived } }

/-- A listed wave is at the rendezvous, or has exited. -/
def Team.isHere (t : Team) (k : WaveKey) (arrived : LaneMask) (pc : DWord) (j : Nat) : Bool :=
  j = k.idx || (match t.waves[j]? with | some w => w.arrivedAt (arrived.getLsbD j) pc | none => true)

theorem Team.isHere_iff (t : Team) (k : WaveKey) (arrived : LaneMask) (pc : DWord) (j : Nat) : t.isHere k arrived pc j = true ↔
    j = k.idx ∨ ∀ w, t.waves[j]? = some w → w.live = 0 ∨ (arrived.getLsbD j = true ∧ w.live &&& ~~~w.atRendezvous pc = 0) := by
  unfold isHere Wave.arrivedAt
  cases t.waves[j]? with
  | none => simp
  | some w => simp

/-- Some listed wave has a live thread with a true guard. -/
def Team.guardTrue (t : Team) (ws : List Nat) (g : BitVec 3) : Bool :=
  ws.any fun j => match t.waves[j]? with | some w => (lanesOf w.live).any fun l => w.preg g.toNat l | none => false

section
variable {x : Issuer} {s : State} {k : WaveKey} {t : Team} {h : BitVec 3}

/-- A matrix instruction of a gang of which the own wave stands whole at it. -/
theorem matrixOp_gang (ht : x.team s = some (k, t)) (hk : k.idx ∈ (t.gangs.get {} h.toNat).list)
    (hl : (t.gangs.get {} h.toNat).latch = none ∨ (t.gangs.get {} h.toNat).latch = some x.pc)
    (hs : x.w.live &&& ~~~(x.e ||| x.w.standing x.pc) = 0#32) (i : Instr) (fn : Nat) (g a : BitVec 3) (m : BitVec 6) (q : BitVec 3) (tr : BitVec 1) :
    matrixOp i fn g h 1 a m q tr x s =
      let gang := t.gangs.get {} h.toNat
      let arrived := gang.arrived ||| laneBit k.idx
      let t := t.gangAt h gang x.pc arrived
      if !gang.list.all (t.isHere k arrived x.pc) then .wait 7 (s.putTeam k.team t)
      else
        let last := if fn = 2 then m.toNat + 1 else m.toNat
        let flags := gangFlags k t i x.th.chdr gang.list
        let passed := ({ t with gangs := t.gangs.put {} h.toNat { list := gang.list } }).passRendezvous gang.list k.idx x.pc
        if !t.guardTrue gang.list g then .done (s.putTeam k.team passed) 0 0
        else if t.tstate m.toNat ≠ tReady || t.tstate last ≠ tReady then .wait 10 (s.putTeam k.team t)
        else if flags.any (fun p => decide (63 ≤ ((s.agent? p.1).map fun w => w.flag p.2).getD 0)) then .wait 11 (s.putTeam k.team t)
        else
          match t.matOp fn gang.list a.toNat m.toNat q.toNat (decide (tr = 1)) (s.descOf x.a).ztiles with
          | .error (c, code) => .raise c s (BitVec.ofNat 8 code)
          | .ok o =>
            let passed := passed.modReaders m.toNat (· + 1)
            let passed := if fn = 2 then passed.modReaders last (· + 1) else passed
            .done ((s.putTeam k.team passed).addOp fun id =>
              { id := id, agent := x.a, pc := x.pc, core := t.core, lanes := x.e, flags := flags, kind := .mma o })
              0 (if fn = 2 then 4 * gang.list.length else gang.list.length) (some (.wave ⟨k.team, gang.list.headD k.idx⟩))
              (some (mmaPrice fn (tileFmt (t.entry m.toNat)))) := by
  have hg : (!((t.gangs.get {} h.toNat).list.contains k.idx) ||
      ((t.gangs.get {} h.toNat).latch.isSome && decide ((t.gangs.get {} h.toNat).latch ≠ some x.pc))) = false := by
    rw [List.contains_iff_mem.2 hk]
    rcases hl with hl | hl <;> rw [hl] <;> simp
  unfold matrixOp
  simp only [ht, if_true]
  rw [if_neg (by rw [hg]; decide), if_neg (not_not.2 hs)]
  rfl

end

/-- The waves that run on after a rendezvous. -/
theorem Team.passRendezvous_wave {t : Team} {ws : List Nat} {me j : Nat} {pc : DWord} {w : Wave} (hj : j ∈ ws) (hme : j ≠ me)
    (hw : t.waves[j]? = some w) :
    (t.passRendezvous ws me pc).waves[j]? = some { w.modLanes (w.atRendezvous pc) Thread.resumeAfter with latch := none } := by
  simp [passRendezvous, hw, hj, hme]

/-- A team's readers of a tile leave its waves. -/
theorem Team.modReaders_waves (t : Team) (m : Nat) (f : Nat → Nat) : (t.modReaders m f).waves = t.waves := rfl

/-- No flag that a gang counts on is full. -/
theorem gangFlags_room {s : State} {k : WaveKey} {t : Team} (ht : s.team? k.team = some t) {i : Instr} {chdr : Word} {ws : List Nat}
    (h : ∀ j n, j ∈ ws → flagOf i chdr = some n → ∀ w, t.waves[j]? = some w → w.flag n < 63) :
    (gangFlags k t i chdr ws).any (fun p => decide (63 ≤ ((s.agent? p.1).map fun w => w.flag p.2).getD 0)) = false := by
  unfold gangFlags
  split
  · rename_i n hn
    refine List.any_eq_false.2 fun p hp => ?_
    obtain ⟨j, hj, rfl⟩ := List.mem_map.1 hp
    have hroom := h j n (List.mem_filter.1 hj).1 hn
    have ha : s.agent? (.wave ⟨k.team, j⟩) = t.waves[j]? := by simp [State.agent?, State.wave?, ht]
    simp only [ha]
    cases hw : t.waves[j]? with
    | none => simp
    | some w => simpa using hroom w hw
  · rfl

/-- What an issue for a gang leaves: one operation more, and the waves that ran on. -/
theorem gang_goes {x : Issuer} {k : WaveKey} (ha : x.a = .wave k) (i : Instr) (s : State) {t p : Team} {ws : List Nat} {pc : DWord}
    (hp : p.waves = (t.passRendezvous ws k.idx pc).waves) (op : Nat → Op) {kind : OpKind} (hk : ∀ id, (op id).kind = kind) (units : Nat)
    (payer : Option Agent) (price : Option Nat) :
    let r := conclude i x (.done ((s.putTeam k.team p).addOp op) 0 units payer price)
    (r.ops.map fun p => p.kind) = (s.ops.map fun p => p.kind) ++ [kind] ∧ s.SameMemory r ∧ ∃ t', r.team? k.team = some t' ∧
      ∀ j ∈ ws, j ≠ k.idx → ∀ w, t.waves[j]? = some w → ∃ w', t'.waves[j]? = some w' ∧ SameRegs w w' ∧
        ∀ l, l < 32 → l < w.threads.length → w'.th l = if (w.atRendezvous pc).getLsbD l = true then (w.th l).resumeAfter else w.th l := by
  obtain ⟨hops, hmem, hteam⟩ := conclude_done_others ha i ((s.putTeam k.team p).addOp op) units payer price
  refine ⟨?_, ((State.SameStore.putTeam ..).trans ((State.SameStore.addOp ..).trans hmem)).memory, ?_⟩
  · rw [hops]
    unfold State.addOp
    simp only [State.raiseFlags_keeps (·.ops) State.putAgent_ops, List.map_append, List.map_cons, List.map_nil, hk]
    rfl
  · obtain ⟨t', ht', hw'⟩ := ((State.OthersAlike.addOp _ op).trans hteam) p ((State.team?_putTeam ..).trans (if_pos rfl))
    refine ⟨t', ht', fun j hj hne w hw => ?_⟩
    obtain ⟨w', hw', hregs, hth⟩ := hw' j hne _ (hp ▸ Team.passRendezvous_wave hj hne hw)
    refine ⟨w', hw', hregs, fun l _ hl => ?_⟩
    have hth' : w'.th l = (w.modLanes (w.atRendezvous pc) Thread.resumeAfter).th l := by
      unfold Wave.th
      rw [hth]
    rw [hth', Wave.modLanes_th]
    simp [hl]

/-- Settles O44: while a listed wave is missing the group waits, and with the last one the instruction issues once. -/
theorem gangResults : Obligations.GangResults := by
  unfold Obligations.GangResults
  intro f g h a m q tr u i fn s x k t hi hr ha ht gang hk hl hs here
  have he : exec i s = issue i s (matrixOp i fn g h 1 a m q tr) := by rcases hi with ⟨rfl, rfl⟩ | ⟨rfl, rfl⟩ | ⟨rfl, rfl⟩ <;> rfl
  have hx : x.team s = some (k, t) := by unfold Issuer.team; rw [ha]; simp [ht]
  have hm := (exec_ready hr he).trans (congrArg (fun e => Host.Outcome.next (conclude i x e)) (matrixOp_gang hx hk hl hs i fn g a m q tr))
  let t₁ := t.gangAt h gang x.pc (gang.arrived ||| laneBit k.idx)
  have hhere : ∀ j, t₁.isHere k (gang.arrived ||| laneBit k.idx) x.pc j = true ↔ here j := fun j => Team.isHere_iff ..
  refine ⟨fun ⟨j, hj, hn⟩ => ⟨_, hm.trans (congrArg (fun e => Host.Outcome.next (conclude i x e)) (if_pos ?_)), ?_, ?_, ?_⟩, ?_⟩
  · rw [Bool.not_eq_true', List.all_eq_false]
    exact ⟨j, hj, fun hc => hn ((hhere j).1 hc)⟩
  · exact State.modAgent_ops ..
  · exact ((State.SameStore.putTeam ..).trans (State.SameStore.modAgent ..)).memory
  · have hv : (s.putTeam k.team t₁).agent? x.a = some x.w := by
      have hw := hr.team_wave ha ht
      rw [ha]
      simp only [State.agent?, State.wave?, State.team?_putTeam, if_true, Option.bind_some]
      exact hw
    obtain ⟨ws, hws⟩ := State.putAgent_team ((State.team?_putTeam s k.team k.team t₁).trans (if_pos rfl)) x.a
      (x.w.setWaiting (x.e &&& x.w.lanesIn .running) 7)
    have hu := State.modAgent_some hv fun w => w.setWaiting (x.e &&& w.lanesIn .running) 7
    refine ⟨_, x.w.setWaiting (x.e &&& x.w.lanesIn .running) 7, (congrArg (fun u : State => u.team? k.team) hu).trans hws, ?_, ?_,
      (congrArg (fun u : State => u.agent? x.a) hu).trans (State.agent?_putAgent hv _), ⟨fun _ _ _ => rfl, fun _ => rfl⟩, fun l h32 hl hlt hst => ?_⟩
    · exact congrArg Gang.latch (Tab.get_put_same ..)
    · exact congrArg Gang.arrived (Tab.get_put_same ..)
    · have hmask : (x.e &&& x.w.lanesIn .running).getLsbD l = true := by
        rw [BitVec.getLsbD_and, show x.e.getLsbD l = true from hl]
        exact (maskOf_getLsbD _ h32).trans (decide_eq_true hst)
      unfold Wave.setWaiting
      rw [Wave.modLanes_th, if_pos ⟨hmask, hlt⟩]
      exact ⟨rfl, rfl⟩
  · intro o hall ⟨j, hj, w, l, hw, hlive, hpred⟩ h1 h2 hroom ho
    have hall' : (!gang.list.all (t₁.isHere k (gang.arrived ||| laneBit k.idx) x.pc)) = false := by
      rw [Bool.not_eq_false', List.all_eq_true]
      exact fun j hj => (hhere j).2 (hall j hj)
    have htrue : (!t₁.guardTrue gang.list g) = false := by
      rw [Bool.not_eq_false']
      refine List.any_eq_true.2 ⟨j, hj, ?_⟩
      rw [show t₁.waves[j]? = some w from hw]
      exact List.any_eq_true.2 ⟨l, hlive, hpred⟩
    have hready : (decide (t₁.tstate m.toNat ≠ tReady) || decide (t₁.tstate (if fn = 2 then m.toNat + 1 else m.toNat) ≠ tReady)) = false := by
      rw [show t₁.tstate m.toNat = tReady from h1, show t₁.tstate (if fn = 2 then m.toNat + 1 else m.toNat) = tReady from h2]
      decide
    have hfl : (gangFlags k t₁ i x.th.chdr gang.list).any (fun p => decide (63 ≤ ((s.agent? p.1).map fun w => w.flag p.2).getD 0)) = false :=
      gangFlags_room ht hroom
    have ho' : t₁.matOp fn gang.list a.toNat m.toNat q.toNat (decide (tr = 1)) (s.descOf x.a).ztiles = .ok o := ho
    simp only at hm
    rw [if_neg (fun hc => Bool.false_ne_true (hall'.symm.trans hc)), if_neg (fun hc => Bool.false_ne_true (htrue.symm.trans hc)),
      if_neg (fun hc => Bool.false_ne_true (hready.symm.trans hc)), if_neg (fun hc => Bool.false_ne_true (hfl.symm.trans hc)), ho'] at hm
    exact ⟨_, hm, gang_goes ha i s (t := t) (by split <;> rfl) _ (fun _ => rfl) _ _ _⟩

end Sys2Proof.Machine
end

section
/-! PROOF. Privileged instructions (O54). -/

namespace Sys2Proof.Machine

open Sys2Proof

theorem fenced_raise {f : Issuer → State → Effect} {x : Issuer} {s v : State} {c : Cause} (h : f x (s.privFence x.a) = .raise c v) :
    fenced f x s = .raise c v := by
  unfold fenced
  rw [h]

theorem fenced_moved {f : Issuer → State → Effect} {x : Issuer} {s v : State} (h : f x (s.privFence x.a) = .moved v) :
    fenced f x s = .moved v := by
  unfold fenced
  rw [h]

section
variable {d : BitVec 6} {lvl : Nat} {f : Issuer → State → List WaveKey → Effect} {x : Issuer} {s : State}

theorem withTarget_bad (h : targetBad (x.w.kpair d.toNat) lvl = true) : withTarget d lvl f x s = .raise Cause.illegal s := if_pos h

theorem withTarget_none (h : targetBad (x.w.kpair d.toNat) lvl = false)
    (hw : s.targetWaves (targetCtx x (x.w.kpair d.toNat)) lvl (targetVa (x.w.kpair d.toNat)) = []) :
    withTarget d lvl f x s = .done (s.noTarget (partOf x.ctx)) := by
  unfold withTarget
  simp only [h, hw]
  rfl

theorem withTarget_some {ws : List WaveKey} (h : targetBad (x.w.kpair d.toNat) lvl = false)
    (hw : s.targetWaves (targetCtx x (x.w.kpair d.toNat)) lvl (targetVa (x.w.kpair d.toNat)) = ws) (hne : ws ≠ []) :
    withTarget d lvl f x s = f x (ws.foldl (fun s k => s.wakeCore (s.coreOf (.wave k))) s) ws := by
  unfold withTarget
  simp only [h, hw]
  cases ws with
  | nil => exact absurd rfl hne
  | cons w ws => rfl

end

theorem Tab.get_map {α β : Type} (g : α → β) (d : α) (t : Tab α) (n : Nat) :
    Tab.get (g d) (List.map (fun q : Nat × α => (q.1, g q.2)) t) n = g (Tab.get d t n) := by
  induction t with
  | nil => rfl
  | cons p t ih =>
    obtain ⟨k, v⟩ := p
    simp only [List.map_cons, Tab.get]
    split
    · rfl
    · exact ih

/-- A cluster without some of its translations. -/
def Cluster.dropTlb (f : TlbEntry → Bool) (q : Cluster) : Cluster := { q with tlb := q.tlb.filter fun e => !f e }

theorem State.cluster_dropTlb (s : State) (f : TlbEntry → Bool) (c : Nat) : (s.dropTlb f).cluster c = (s.cluster c).dropTlb f :=
  Tab.get_map (Cluster.dropTlb f) {} s.clusters c

/-- Settles O54. -/
theorem systemResults : Obligations.SystemResults := by
  unfold Obligations.SystemResults
  refine ⟨?_, ?_, ?_, ?_, ?_, ?_, ?_⟩
  · intro i d lvl s x hr hi v kp ws awake
    obtain ⟨f, he, hsz⟩ : ∃ f : Issuer → State → List WaveKey → Effect, exec i s = issue i s (fenced (withTarget d lvl f)) ∧ i.size = 4 := by
      obtain ⟨l, f, rfl | rfl | rfl, rfl⟩ := hi <;> exact ⟨_, rfl, rfl⟩
    have hbad : targetBad kp lvl = true → exec i s = .next (v.takeCause x.a x.e Cause.illegal 0 x.pc (x.th.advance 4) 0) := by
      intro hb
      rw [exec_ready hr he, fenced_raise (withTarget_bad hb)]
      simp only [conclude, hsz]
      rfl
    refine ⟨hbad, fun hb hn => occurs_done hr he (fenced_done (withTarget_none hb hn)), fun hb hn => ⟨?_, ?_, ?_⟩⟩
    · rintro l f rfl
      obtain rfl : lvl = l.toNat := by
        obtain ⟨l', f', h | h | h, rfl⟩ := hi <;> cases h
        rfl
      exact occurs_done hr rfl (fenced_done (withTarget_some hb rfl hn))
    · rintro l f rfl
      obtain rfl : lvl = l.toNat := by
        obtain ⟨l', f', h | h | h, rfl⟩ := hi <;> cases h
        rfl
      exact occurs_done hr rfl (fenced_done (withTarget_some hb rfl hn))
    · rintro l rfl u
      obtain rfl : lvl = l.toNat := by
        obtain ⟨l', f', h | h | h, rfl⟩ := hi <;> cases h
        rfl
      exact ⟨fun hp => occurs_done hr rfl (fenced_done ((withTarget_some hb rfl hn).trans (if_pos hp))),
        fun hp => occurs_moved hr rfl (fenced_moved ((withTarget_some hb rfl hn).trans (if_neg fun hc => Bool.false_ne_true (hp.symm.trans hc))))⟩
  · intro w htm
    unfold Wave.park
    by_cases hs : w.spk = true
    · rw [if_pos hs]
      exact ⟨hs, rfl⟩
    · rw [if_neg hs, if_neg (by rw [htm]; decide)]
      exact ⟨rfl, rfl⟩
  · intro s a w p ha hf
    refine (show exec (.privilegedCompletion a) s = execPrivilegedCompletion a s from rfl).trans (event_next ?_)
    simp only [ha, hf]
  · intro d s x b v kp flushed hb
    refine ⟨fun hr => occurs_done hr rfl (fenced_done (if_neg ?_)), fun hr => occurs_done hr rfl (fenced_done (if_neg ?_))⟩ <;>
      exact fun hc => Bool.false_ne_true (hb.symm.trans hc)
  · intro s f c e he
    rw [State.cluster_dropTlb] at he
    simpa [Cluster.dropTlb, and_comm] using he
  · intro c s x hr v
    obtain ⟨r, hr, ha⟩ := occurs_done (i := .haltc c) hr rfl (fenced_done rfl)
    exact ⟨r, hr, _, _, ha⟩
  · exact fun s c h hc hh => State.raiseHalt_halt hc hh h

end Sys2Proof.Machine
end

section
/-! PROOF. Clauses, pending causes and the moves of waves (O55). -/

namespace Sys2Proof.Machine

open Sys2Proof

/-! A line that is filled. -/

theorem Wave.modLanes_absent (w : Wave) (m : LaneMask) (f : Thread → Thread) : (w.modLanes m f).absent = w.absent := rfl

theorem Wave.setHeaderByte_absent (w : Wave) (off : Nat) (x : Byte) : (w.setHeaderByte off x).absent = w.absent := by
  have hmask : ∀ (j : Nat) (m : LaneMask), (w.setMask j m).absent = w.absent := fun _ _ => rfl
  unfold Wave.setHeaderByte
  simp only [apply_ite Wave.absent, Wave.modLanes_absent, Wave.setK_absent, hmask, ite_self]

theorem Wave.beginEdit_absent (w : Wave) : w.beginEdit.absent = w.absent := by
  unfold Wave.beginEdit
  split <;> rfl

theorem Wave.setBlockByte_absent (w : Wave) (nr off : Nat) (x : Byte) : (w.setBlockByte nr off x).absent = w.absent := by
  unfold Wave.setBlockByte
  split
  · split
    · exact Wave.setHeaderByte_absent ..
    · exact (Wave.setHeaderByte_absent ..).trans w.beginEdit_absent
  · simp only
    split <;> rfl

/-- No write-back drops or fills a line of a wave. -/
theorem State.kept_absent (k : WaveKey) (ls : List Nat) : State.Kept fun s => ∃ w, s.wave? k = some w ∧ w.absent = ls where
  team s k' f hf h := by
    obtain ⟨w, hw, ha⟩ := h
    unfold State.modTeam
    split
    · rename_i t ht
      refine ⟨w, ?_, ha⟩
      unfold State.wave? at *
      rw [State.team?_putTeam]
      split
      · rename_i hk
        rw [hk, ht] at hw
        simpa [hf] using hw
      · exact hw
    · exact ⟨w, hw, ha⟩
  agent s a v hv h := by
    obtain ⟨w, hw, ha⟩ := h
    by_cases hk : a = .wave k
    · subst hk
      exact ⟨v, State.agent?_putAgent (a := .wave k) hw v, (hv w hw).trans ha⟩
    · cases a with
      | cp c => exact ⟨w, hw, ha⟩
      | wave i =>
        refine ⟨w, ?_, ha⟩
        obtain ⟨t, ht, hwt⟩ := State.agent?_wave_some hw
        unfold State.putAgent State.putWave
        simp only
        split
        · rename_i y hy
          unfold State.wave?
          rw [State.team?_putTeam]
          split
          · rename_i hik
            have hne : i.idx ≠ k.idx := fun h => hk (congrArg Agent.wave (by cases i; cases k; simp_all))
            obtain rfl := Option.some.inj (hy.symm.trans (hik ▸ ht))
            simpa [hne] using hwt
          · exact hw
        · exact hw
  ctx _ _ _ h := h
  part _ _ _ h := h
  core _ _ _ _ h := h
  memory _ _ _ _ h := h
  out _ _ h := h

/-- A line read again is absent no more, and no other line changes. -/
theorem State.readLine_absent {s : State} {k : WaveKey} {v : Wave} (hv : s.wave? k = some v) (line pa : Nat) :
    ∃ w, (s.readLine k line pa).wave? k = some w ∧ w.absent = v.absent.filter fun l => l ≠ line := by
  obtain ⟨u, hu, ha⟩ := (State.kept_absent k v.absent).promoteFor s 512 (frameAddr pa) ⟨v, hv, rfl⟩
  have hfold : ∀ (g : Wave → Nat → Wave) (hg : ∀ w j, (g w j).absent = w.absent) (l : List Nat) (w : Wave), (l.foldl g w).absent = w.absent := by
    intro g hg l
    induction l with
    | nil => exact fun _ => rfl
    | cons j l ih => exact fun w => (ih _).trans (hg w j)
  refine ⟨_, State.agent?_modAgent (a := .wave k) hu _, ?_⟩
  simp only
  rw [hfold _ (fun w j => ?_), ha]
  split
  · rfl
  · exact Wave.setBlockByte_absent ..

/-! Pending causes. -/

theorem find?_range_lowest {n c : Nat} {p : Nat → Bool} (hc : c < n) (hp : p c = true) (h : ∀ d, d < c → p d = false) :
    (List.range n).find? p = some c := by
  rw [List.find?_range_eq_some]
  exact ⟨hp, by simpa using hc, fun d hd => by simpa using h d hd⟩

theorem Wave.nextPending_lowest {w : Wave} {c : Cause} (h0 : 0 < c) (hc : c < 32) (hp : w.pend.getLsbD c = true)
    (h : ∀ d, 0 < d → d < c → w.pend.getLsbD d = false) : w.nextPending = some c := by
  refine find?_range_lowest hc ?_ fun d hd => ?_
  · rw [hp, decide_eq_true (Nat.ne_of_gt h0)]
    rfl
  · rcases Nat.eq_zero_or_pos d with rfl | hd0
    · rfl
    · rw [h d hd0 hd, Bool.and_false]

/-- Settles O55. -/
theorem waveEvents : Obligations.WaveEvents := by
  unfold Obligations.WaveEvents
  refine ⟨?_, ?_, ?_, ?_, ?_, ?_, ?_, ?_⟩
  · intro s u x word hx hc hpc hcode h
    have ev : ∀ v, (if !isClauseHeader word || h.bad then some (u.fetchCause x Cause.clause)
          else if x.w.clauseHeld h then some (u.modAgent x.a fun w => w.setWaiting x.e 8)
          else some (u.beginClause x word)) = some v → exec .clauseStart s = .next v := by
      intro v hv
      refine (show exec .clauseStart s = execClauseStart s from rfl).trans (event_next ?_)
      simp only [hx, hc, hpc, hcode]
      exact hv
    refine ⟨fun hb => ev _ (if_pos (by rcases hb with hb | hb <;> simp [hb])), fun hh hb => ?_⟩
    have hok : ¬(!isClauseHeader word || h.bad) = true := by simp [hh, hb]
    refine ⟨fun ⟨n, hn, hw, hf⟩ => ev _ ((if_neg hok).trans (if_pos ?_)), fun hall => ev _ ((if_neg hok).trans (if_neg ?_))⟩
    · exact List.any_eq_true.2 ⟨n, List.mem_range.2 hn, by simp [hw, hf]⟩
    · intro hany
      obtain ⟨n, hn, hw⟩ := List.any_eq_true.1 hany
      simp only [Bool.and_eq_true, decide_eq_true_eq] at hw
      exact hw.2 (hall n (List.mem_range.1 hn) hw.1)
  · intro s x word w hw hy
    have he : s.beginClause x word = s.putAgent x.a (w.modLanes x.e fun t => { t with
        pc := pcOf (t.pc + 4), cpos := 0, chdr := word,
        seen := (match x.a with | .wave k => (s.team? k.team).map Team.s | .cp _ => none).getD t.seen }) := by
      unfold State.beginClause
      simp only [State.modAgent_some hw, hy]
      rfl
    rw [he]
    refine ⟨_, State.agent?_putAgent hw _, rfl, ⟨fun _ _ _ => rfl, fun _ => rfl⟩, fun l hl => ?_⟩
    rw [Wave.modLanes_th]
    by_cases hel : x.e.getLsbD l = true
    · rw [if_pos ⟨hel, hl⟩, if_pos hel]
      congr 1
      cases ha : x.a with
      | cp c => rfl
      | wave k =>
        obtain ⟨t, ht, -⟩ := State.agent?_wave_some (ha ▸ hw)
        simp [ht]
    · rw [if_neg fun h => hel h.1, if_neg hel]
  · intro s x c hx h0 hc hp hlow b
    refine (show exec .asyncCauseDelivery s = execAsyncCauseDelivery s from rfl).trans (event_next ?_)
    simp only [hx, Wave.nextPending_lowest h0 hc hp hlow]
    rfl
  · intro s u k t v ok ht hv hon hcan act all pen mem slot
    refine ⟨fun hcls hfirst hact hreg hfill => ?_, fun hcls hfirst hall f hs hfill => ?_, fun hcls ⟨n, hn, ha⟩ => ?_⟩
    · refine (show exec (.waveActivation k) s = execWaveActivation k s from rfl).trans (event_next ?_)
      have hfirst' : (if (pen.any fun (_, _, x) => x.slot = slot) = true then decide (v.slot = slot) else s.firstByRank k t pen) = true := by
        split at hfirst
        · rw [if_pos ‹_›]
          exact decide_eq_true hfirst
        · rw [if_neg ‹_›]
          exact hfirst
      simp only [ht, hv]
      refine (if_neg ?_).trans ?_
      · simp only [Bool.or_eq_true, decide_eq_true_eq, Bool.not_eq_true']
        rintro (((((h | h) | h) | h) | h) | h)
        · exact Bool.false_ne_true (h.symm.trans hon)
        · exact h hcls
        · exact Bool.false_ne_true (h.symm.trans hcan)
        · exact Bool.false_ne_true (h.symm.trans hfirst')
        · exact Nat.not_le.2 hact h
        · exact Nat.not_lt.2 hreg h
      · rw [hfill]
        cases ok <;> rfl
    · refine (show exec (.wavePendingEntry k) s = execWavePendingEntry k s from rfl).trans (event_next ?_)
      simp only [ht, hv]
      refine (if_neg ?_).trans ?_
      · simp only [Bool.or_eq_true, decide_eq_true_eq, Bool.not_eq_true']
        rintro ((((h | h) | h) | h) | h)
        · exact Bool.false_ne_true (h.symm.trans hon)
        · exact h hcls
        · rw [hcan] at h
          exact Bool.false_ne_true h.symm
        · exact Bool.false_ne_true (h.symm.trans hfirst)
        · exact Nat.not_le.2 hall h
      · rw [hs]
        simp only
        rw [hfill]
        cases ok <;> rfl
    · refine (show exec (.registerMiss k) s = execRegisterMiss k s from rfl).trans (event_next ?_)
      simp only [hv]
      refine if_pos ?_
      simp only [hon, hcls, hcan, decide_true, Bool.true_and]
      exact List.any_eq_true.2 ⟨n, hn, by simpa using ha⟩
  · intro s k v line hv hon hcls hcpk hl
    refine (show exec (.registerLineFill k line) s = execRegisterLineFill k line s from rfl).trans (event_next ?_)
    simp only [hv]
    exact if_pos (by simp [hon, hcls, hcpk, hl])
  · intro s k t v ht hv hon hcls hw hf h64
    refine (show exec (.flagWaitDemotion k) s = execFlagWaitDemotion k s from rfl).trans (event_next ?_)
    simp only [hv, ht]
    exact if_pos (by simp [hon, hcls, show ¬v.waitingFor [8, 11] = 0#32 from hw, hf, h64])
  · intro s k v hv hh c
    refine (show exec (.waveHang k) s = execWaveHang k s from rfl).trans (event_next ?_)
    simp only [hv]
    exact if_neg (Nat.not_lt.2 hh)
  · intro s k v line pa hv hl
    obtain ⟨w, hw, ha⟩ := State.readLine_absent hv line pa
    refine ⟨w, hw, by simp [ha], fun l hne => by simp [ha, hne]⟩

end Sys2Proof.Machine
end

section
/-! PROOF. Teams are dispatched, placed, returned and moved (O56). -/

namespace Sys2Proof.Machine

open Sys2Proof

/-! The die with the most free slots. -/

/-- Of a rising list the first place of the greatest value. -/
theorem foldl_best (f : Nat → Nat) (ds : List Nat) (b : Nat) (h : (b :: ds).Pairwise (· < ·)) :
    let r := ds.foldl (fun best d => if f best < f d then d else best) b
    r ∈ b :: ds ∧ ∀ d ∈ b :: ds, f d ≤ f r ∧ (d < r → f d < f r) := by
  induction ds generalizing b with
  | nil => simp
  | cons x xs ih =>
    obtain ⟨hb, hx⟩ := List.pairwise_cons.1 h
    obtain ⟨hbx, hbxs⟩ := List.forall_mem_cons.1 hb
    simp only [List.foldl_cons]
    by_cases hlt : f b < f x
    · rw [if_pos hlt]
      obtain ⟨hm, hall⟩ := ih x hx
      refine ⟨List.mem_cons_of_mem _ hm, fun d hd => ?_⟩
      rcases List.mem_cons.1 hd with rfl | hd
      · have := (hall x List.mem_cons_self).1
        exact ⟨by omega, fun _ => by omega⟩
      · exact hall d hd
    · rw [if_neg hlt]
      obtain ⟨hm, hall⟩ := ih b (List.pairwise_cons.2 ⟨hbxs, (List.pairwise_cons.1 hx).2⟩)
      have hbest := hall b List.mem_cons_self
      refine ⟨?_, fun d hd => ?_⟩
      · rcases List.mem_cons.1 hm with hm | hm
        · rw [hm]
          exact List.mem_cons_self
        · exact List.mem_cons_of_mem _ (List.mem_cons_of_mem _ hm)
      · rcases List.mem_cons.1 hd with rfl | hd
        · exact hbest
        · rcases List.mem_cons.1 hd with rfl | hd
          · exact ⟨by omega, fun hr => by have := hbest.2 (by omega); omega⟩
          · exact hall d (List.mem_cons_of_mem _ hd)

/-- A die whose ring is empty has no room. -/
theorem State.dieFree_empty {s : State} {p d : Nat} (h : s.ring p d = []) (g : Grid) : s.dieFree p d g = 0 := by
  unfold State.dieFree State.dieRoom
  simp [h]

theorem State.bestDie_spec (s : State) (p : Nat) (g : Grid) : ∀ d, d < 4 → s.dieFree p d g ≤ s.dieFree p (s.bestDie p g) g ∧
    (d < s.bestDie p g → s.ring p d ≠ [] → s.dieFree p d g < s.dieFree p (s.bestDie p g) g) := by
  intro d hd
  have hmem : s.ring p d ≠ [] → d ∈ (List.range 4).filter fun d => !(s.ring p d).isEmpty := fun h =>
    List.mem_filter.2 ⟨List.mem_range.2 hd, by simpa using h⟩
  have hsorted : ((List.range 4).filter fun d => !(s.ring p d).isEmpty).Pairwise (· < ·) := List.pairwise_lt_range.filter _
  unfold State.bestDie
  split
  · rename_i hnil
    rw [hnil] at hmem
    have hr : s.ring p d = [] := by
      by_contra hr
      exact List.not_mem_nil (hmem hr)
    exact ⟨by rw [State.dieFree_empty hr]; exact Nat.zero_le _, fun _ h => absurd hr h⟩
  · rename_i b ds hcons
    rw [hcons] at hmem hsorted
    obtain ⟨-, hall⟩ := foldl_best (fun d => s.dieFree p d g) ds b hsorted
    by_cases hr : s.ring p d = []
    · exact ⟨by rw [State.dieFree_empty hr]; exact Nat.zero_le _, fun _ h => absurd hr h⟩
    · exact ⟨(hall d (hmem hr)).1, fun hlt _ => (hall d (hmem hr)).2 hlt⟩

/-! Batches. -/

theorem Grid.batch_length (g : Grid) (limit slots : Nat) : (g.batch limit slots).length ≤ limit := by
  unfold Grid.batch
  have h : ∀ (l : List (List Nat)) (acc : List Nat × Nat × Bool), acc.1.length ≤ limit →
      (l.foldl (fun (acc : List Nat × Nat × Bool) u =>
        let fresh := (u.filter fun n => !g.returned.contains n).length
        if acc.2.2 then acc
        else if limit < acc.1.length + u.length || acc.2.1 < fresh then (acc.1, acc.2.1, true)
        else (acc.1 ++ u, acc.2.1 - fresh, false)) acc).1.length ≤ limit := by
    intro l
    induction l with
    | nil => exact fun _ h => h
    | cons u l ih =>
      intro acc hacc
      refine ih _ ?_
      simp only
      split
      · exact hacc
      · split
        · exact hacc
        · rename_i hlim
          simp only [Bool.or_eq_true, decide_eq_true_eq, not_or, Nat.not_lt] at hlim
          rw [List.length_append]
          exact hlim.1
  exact h _ _ (Nat.zero_le _)

theorem State.nextBatch_some {s : State} {p c : Nat} {k : GridKey} {g : Grid} (hc : s.runningCtx p = some c) (hh : s.halted c = false)
    (hs : (s.part p).swap = none)
    (hf : (let gs := s.grids.filter fun (k, g) => k.ctx = c && (decide (g.next < g.total) || !g.returned.isEmpty) && !(s.gridBatch p g).2.isEmpty
      gs.find? fun (_, g) => gs.all fun (_, h) => !gridBefore h g) = some (k, g)) : s.nextBatch p = some (k, s.gridBatch p g) := by
  unfold State.nextBatch
  simp only [hc]
  refine (if_neg (by simp [hh, hs])).trans ?_
  simp only at hf
  rw [hf]
  rfl

/-! The core of a placement. -/

theorem mem_ringFrom {ring : List Nat} {p c : Nat} : c ∈ ringFrom ring p ↔ c ∈ ring := by
  unfold ringFrom
  simp only [List.mem_append, List.mem_filter, decide_eq_true_eq]
  constructor
  · rintro (h | h) <;> exact h.1
  · exact fun h => (Nat.lt_or_ge c p).symm.imp (⟨h, ·⟩) (⟨h, ·⟩)

/-- A choice among a list's elements is one of them. -/
theorem foldl_choice_mem {α : Type} (p : α → α → Bool) (l : List α) (b : α) : l.foldl (fun b x => if p x b then x else b) b ∈ b :: l := by
  induction l generalizing b with
  | nil => exact List.mem_cons_self
  | cons x l ih =>
    rw [List.foldl_cons]
    split
    · exact List.mem_cons_of_mem _ (ih x)
    · rcases List.mem_cons.1 (ih b) with h | h
      · rw [h]
        exact List.mem_cons_self
      · exact List.mem_cons_of_mem _ (List.mem_cons_of_mem _ h)

/-- The candidates that a placement step chooses from. -/
def State.placeChoices (s : State) (ring : List Nat) (fit : Nat → Bool) (p : Nat) : List Nat :=
  let cs := (ringFrom ring p).filter fit
  let good := cs.filter fun c => decide (0 ≤ (s.core c).deficit)
  if good.isEmpty then cs else good

theorem State.mem_placeChoices {s : State} {ring : List Nat} {fit : Nat → Bool} {p c : Nat} (h : c ∈ s.placeChoices ring fit p) :
    c ∈ ring ∧ fit c = true := by
  unfold State.placeChoices at h
  simp only at h
  split at h
  · obtain ⟨hc, hf⟩ := List.mem_filter.1 h
    exact ⟨mem_ringFrom.1 hc, hf⟩
  · obtain ⟨hc, hf⟩ := List.mem_filter.1 (List.mem_filter.1 h).1
    exact ⟨mem_ringFrom.1 hc, hf⟩

theorem State.placeChoices_ne_nil {s : State} {ring : List Nat} {fit : Nat → Bool} {c : Nat} (hc : c ∈ ring) (hf : fit c = true) (p : Nat) :
    s.placeChoices ring fit p ≠ [] := by
  unfold State.placeChoices
  simp only
  split
  · exact List.ne_nil_of_mem (List.mem_filter.2 ⟨mem_ringFrom.2 hc, hf⟩)
  · rename_i h
    simpa using h

theorem State.chooseCore_spec (s : State) (ring : List Nat) (fit : Nat → Bool) (p : Nat) :
    (∀ c, s.chooseCore ring fit p = some c → c ∈ ring ∧ fit c = true) ∧ (ring.any fit = true → (s.chooseCore ring fit p).isSome = true) := by
  have heq : ∀ q order, ringFrom ring p = q :: order → s.chooseCore ring fit p =
      if (s.core q).deficit = 2 && fit q then some q
      else match s.placeChoices ring fit p with | [] => none | c :: rest => some (rest.foldl (fun b x => if s.cooler x b then x else b) c) := by
    intro q order h
    unfold State.chooseCore State.placeChoices
    simp only [h] <;> rfl
  cases hr : ringFrom ring p with
  | nil =>
    have hn : s.chooseCore ring fit p = none := by
      unfold State.chooseCore
      simp only [hr]
    refine ⟨fun c h => (Option.some_ne_none c (h.symm.trans hn)).elim, fun h => ?_⟩
    obtain ⟨c, hc, -⟩ := List.any_eq_true.1 h
    have := mem_ringFrom (p := p).2 hc
    rw [hr] at this
    exact absurd this List.not_mem_nil
  | cons q order =>
    rw [heq q order hr]
    have hq : q ∈ ring := (mem_ringFrom (p := p)).1 (hr ▸ List.mem_cons_self)
    split
    · rename_i hd
      rw [Bool.and_eq_true] at hd
      refine ⟨fun c h => ?_, fun _ => rfl⟩
      obtain rfl := Option.some.inj h
      exact ⟨hq, hd.2⟩
    · cases hcs : s.placeChoices ring fit p with
      | nil =>
        refine ⟨fun c h => (nomatch h), fun h => ?_⟩
        obtain ⟨c, hc, hf⟩ := List.any_eq_true.1 h
        exact absurd hcs (State.placeChoices_ne_nil hc hf p)
      | cons c rest =>
        refine ⟨fun d h => ?_, fun _ => rfl⟩
        refine State.mem_placeChoices (s := s) (p := p) ?_
        rw [hcs, ← Option.some.inj h]
        exact foldl_choice_mem s.cooler rest c

theorem State.placeTeam_spec {s : State} {k : TeamKey} {t : Team} (ht : s.team? k = some t) (hm : t.move = none) (c : Nat) :
    ∃ r, (s.placeTeam k c).team? k = some r ∧ r.core = c ∧ r.saved = false ∧ r.slot = t.slot ∧ r.waves.length = t.waves.length ∧
      ∀ w ∈ r.waves, w.cls = .memory ∧ w.quarter < 4 := by
  unfold State.placeTeam
  simp only [ht, hm, Option.isSome_none, Bool.false_eq_true, if_false, State.modTeam_some ht]
  refine ⟨_, assocGet_put_same .., rfl, rfl, rfl, List.length_mapIdx, fun w hw => ?_⟩
  obtain ⟨i, hi, rfl⟩ := List.mem_mapIdx.1 hw
  exact ⟨rfl, Nat.mod_lt _ (by decide)⟩

/-- An event of one of n units that comes about. -/
theorem unitEvent_next {name : String} {s t : State} {n c : Nat} {f : State → Option State} (hc : c < n) (h : f s = some t) :
    (if n ≤ c then Host.Outcome.fault (.noSuchUnit name) else event name s f : Host.Outcome State Fault Refusal) = .next t := by
  rw [if_neg (Nat.not_le.2 hc)]
  exact event_next h

/-- Settles O56. -/
theorem placementEvents : Obligations.PlacementEvents := by
  unfold Obligations.PlacementEvents
  refine ⟨?_, ?_, ?_, ?_, ?_, ?_, ?_, ?_, ?_⟩
  · intro s p c d k g ns hp hc hh hs gs hf hb ht v die sent
    refine (show exec (.batchDispatch p) s = execBatchDispatch p s from rfl).trans (unitEvent_next hp ?_)
    unfold State.dispatch
    rw [State.nextBatch_some hc hh hs hf, hb]
    exact if_neg (by rw [ht]; decide)
  · intro s p hs hp
    unfold State.turnOf
    simp only [List.all_eq_true, List.mem_range, Bool.or_eq_true, decide_eq_true_eq, Option.isNone_iff_eq_none]
    refine ⟨fun h q hq => ?_, fun q hq h1 h2 hn1 hn2 => ?_⟩
    · by_cases hqp : q = p
      · exact .inl (by rw [hqp])
      · exact .inr (h q hq hqp)
    · have h1 := (h1 q hq).resolve_right hn2
      have h2 := (h2 p hp).resolve_right hn1
      omega
  · intro a b
    unfold gridBefore
    simp
  · intro s p g
    exact ⟨(Grid.batch_length ..).trans (Nat.min_le_left ..), (Grid.batch_length ..).trans (Nat.min_le_right ..), s.bestDie_spec p g⟩
  · intro s die c k ms g p ring hd hh hr hhalt hs hfit u hc v x
    refine (show exec (.teamPlacement die) s = execTeamPlacement die s from rfl).trans (unitEvent_next hd ?_)
    unfold State.placeHead
    simp only [hh, List.head?_cons, Option.map_some, Option.getD_some]
    refine (if_neg (by simp [hr, hhalt, hs, hfit])).trans ?_
    rw [show State.chooseCore _ _ _ _ = some c from hc]
    rfl
  · exact fun s ring fit p => s.chooseCore_spec ring fit p
  · exact fun s k c t ht hm => State.placeTeam_spec ht hm c
  · intro s die ms g p ring h rest hd hh hq hfit hw x v
    refine (show exec (.batchReturn die) s = execBatchReturn die s from rfl).trans (unitEvent_next hd ?_)
    simp only [hh, hq]
    rw [← hq]
    refine if_neg ?_
    rw [hfit, Bool.false_or, Bool.not_eq_true', ← Bool.not_eq_true, not_not, Bool.or_eq_true, decide_eq_true_eq, List.contains_iff_mem]
    exact hw
  · intro s u k g hg hr hh hs hne hmove hsave p d x new ahead v
    refine (show exec (.teamMove k) s = execTeamMove k s from rfl).trans (event_next ?_)
    unfold State.moveTeam
    simp only [hg]
    refine (if_neg ?_).trans ?_
    · have hall : (s.liveMembers k g).all s.canMove = true := List.all_eq_true.2 hmove
      simp [hall, hr, hh, hs, hne]
    · rw [hsave]
      simp only [List.isEmpty_iff]
      rfl

end Sys2Proof.Machine
end

section
/-! PROOF. What translations, L1 flushes, unit writes and saves of context lines keep: a property of states that their single steps keep. -/

namespace Sys2Proof.Machine

open Sys2Proof

/-- A property of states that no single update of a save takes away, nor one of the writes, translations and refusals that it makes. -/
structure State.KeptBySaves (P : State → Prop) : Prop where
  team    : ∀ s k t, P s → P (State.putTeam s k t)
  ctx     : ∀ s c x, P s → P (State.putCtx s c x)
  part    : ∀ s p x, P s → P (State.putPart s p x)
  core    : ∀ s c x, (x.gated = true → (s.core c).gated = true) → P s → P (State.putCore s c x)
  cluster : ∀ s k x, P s → P (State.putCluster s k x)
  memory  : ∀ (s : State) home llc poison, P s → P { s with home := home, llc := llc, poison := poison }
  out     : ∀ (s : State) out, P s → P { s with out := out }
  free    : ∀ (s : State) n, P s → P { s with freeCtr := n }
  held    : ∀ (s : State) l, P s → P { s with heldLag := l }

/-- An update of chosen cores one by one. -/
theorem State.kept_eachCore {P : State → Prop} (s : State) (m : State → Nat → Bool) (f : State → Nat → State) (hf : ∀ s c, P s → P (f s c))
    (cs : List Nat) (h : P s) : P (cs.foldl (fun s c => if m s c then f s c else s) s) := by
  refine State.Kept.foldl _ (fun s c hs => ?_) _ _ h
  split
  · exact hf _ _ hs
  · exact hs

/-- A cause stands in the way of a unit's write. -/
theorem State.kept_unitFails {P : State → Prop} {c : Cause} {va : DWord} {u : State} (hu : P u) :
    (∀ r, (Except.error (c, va, u) : Except (Cause × DWord × State) State) = .ok r → P r) ∧
      ∀ d at_ r, (Except.error (c, va, u) : Except (Cause × DWord × State) State) = .error (d, at_, r) → P r := by
  refine ⟨fun _ hr => (nomatch hr), fun _ _ r hr => ?_⟩
  have he : u = r := (Prod.mk.inj (Prod.mk.inj (Except.error.inj hr)).2).2
  exact he ▸ hu

namespace State.KeptBySaves
variable {P : State → Prop} (hP : State.KeptBySaves P)
include hP

theorem modTeam (s : State) (k : TeamKey) (f : Team → Team) (h : P s) : P (s.modTeam k f) := by
  unfold State.modTeam
  split
  · exact hP.team _ _ _ h
  · exact h

theorem putAgent (s : State) (a : Agent) (w : Wave) (h : P s) : P (s.putAgent a w) := by
  unfold State.putAgent State.putWave
  split
  · split
    · exact hP.team _ _ _ h
    · exact h
  · exact hP.ctx _ _ _ h

/-- The narrower closure of write-backs: all that it keeps is available here. -/
theorem kept : State.Kept P where
  team s k f _ := hP.modTeam s k f
  agent s a w _ := hP.putAgent s a w
  ctx := hP.ctx
  part := hP.part
  core := hP.core
  memory := hP.memory
  out := hP.out

theorem modAgent (s : State) (a : Agent) (f : Wave → Wave) (h : P s) : P (s.modAgent a f) := by
  unfold State.modAgent
  split
  · exact hP.putAgent _ _ _ h
  · exact h

theorem choose (s : State) (h : P s) : P s.choose.2 := hP.free _ _ h

theorem drainOne (s : State) (c : Nat) (h : P s) : P (s.drainOne c) := by
  unfold State.drainOne
  split
  · exact h
  · exact hP.kept.drainNow _ _ (hP.kept.promoteFor _ _ _ h)

theorem drainAll (s : State) (c : Nat) (h : P s) : P (s.drainAll c) :=
  State.Kept.foldl _ (fun s _ hs => hP.drainOne s c hs) _ _ h

theorem writeBack (s : State) (c a : Nat) (h : P s) : P (s.writeBack c a) := by
  refine hP.kept.writeBackNow _ _ _ (hP.kept.promoteFor _ _ _ ?_)
  unfold State.drainBefore
  split
  · exact hP.drainAll _ _ h
  · exact h

theorem writeBackAll (s : State) (c : Nat) (as : List Nat) (h : P s) : P (s.writeBackAll c as) :=
  State.Kept.foldl _ (fun s a hs => hP.writeBack s c a hs) _ _ h

theorem flushL1 (s : State) (c : Nat) (h : P s) : P (s.flushL1 c) :=
  hP.kept.modL1 _ c (fun l => { l with clean := [], recs := [] }) (hP.writeBackAll _ c _ (hP.drainAll _ c h))

theorem tlbFill (s : State) (core : Nat) (e : TlbEntry) (shared : Bool) (h : P s) : P (s.tlbFill core e shared) := hP.cluster _ _ _ h

theorem markA (s : State) (a : Nat) (h : P s) : P (s.markA a) := by
  unfold State.markA
  simp only
  split
  · exact h
  · exact hP.kept.recordWrites _ _ _ _ h

theorem markD (s : State) (a : Nat) (h : P s) : P (s.markD a) := by
  unfold State.markD
  simp only
  split
  · exact h
  · exact hP.kept.recordWrites _ _ _ _ h

theorem readPte (s : State) (a : Nat) (h : P s) : P (s.readPte a).2 := hP.kept.promoteFor _ _ _ h

theorem walkFrom (s : State) (va level tbl : Nat) (h : P s) : P (s.walkFrom va level tbl).2 := by
  induction level generalizing s tbl with
  | zero =>
    unfold State.walkFrom
    split
    · exact h
    · rename_i t _
      dsimp only
      have hx := hP.readPte s (t + 8 * (va / 2 ^ (12 + 9 * 0) % 512)) h
      generalize State.readPte s (t + 8 * (va / 2 ^ (12 + 9 * 0) % 512)) = x at hx ⊢
      cases hb : pteBit x.1 0 <;> exact hx
  | succ n ih =>
    unfold State.walkFrom
    split
    · exact h
    · rename_i t _
      dsimp only
      have hx := hP.readPte s (t + 8 * (va / 2 ^ (12 + 9 * (n + 1)) % 512)) h
      generalize State.readPte s (t + 8 * (va / 2 ^ (12 + 9 * (n + 1)) % 512)) = x at hx ⊢
      split
      · exact hx
      · split
        · exact hx
        · split
          · exact ih _ _ hx
          · exact hx

/-- A hit in a micro-TLB leaves the TLBs alone, and one in the cluster TLB fills one. -/
theorem tlbHit (s : State) (core : Nat) (e : TlbEntry) (h : P s) : P (if e.place = 0 then s.tlbFill core e false else s) := by
  split
  · exact hP.tlbFill _ _ _ _ h
  · exact h

theorem markLeaf (s : State) (a : Nat) (wr : Bool) (h : P s) : P (if wr then (s.markA a).markD a else s.markA a) := by
  split
  · exact hP.markD _ _ (hP.markA _ _ h)
  · exact hP.markA _ _ h

theorem translate (s : State) (ctx core level : Nat) (k : AccKind) (va : DWord) (h : P s) : P (s.translate ctx core level k va).2 := by
  unfold State.translate
  extract_lets v wr
  have hw := hP.walkFrom s v 4 (s.ptRoot ctx) h
  generalize s.walkFrom v 4 (s.ptRoot ctx) = found at hw ⊢
  generalize (if core < 320 then s.tlbFind core ctx v else none) = hit
  generalize State.checkFrame = check
  split
  · exact h
  · cases hit with
    | some e =>
      have hu := hP.tlbHit s core e h
      dsimp only
      cases check s ctx level k e.pte (pageAddr (pteFrame e.pte) e.bits v) with
      | none => exact h
      | some p =>
        dsimp only
        split
        · exact hP.cluster _ _ _ (hP.markD _ _ hu)
        · exact hu
    | none =>
      obtain ⟨w, u⟩ := found
      cases w with
      | page => exact hw
      | access => exact hw
      | leaf l =>
        have hm := hP.markLeaf u l.addr wr hw
        dsimp only
        cases check u ctx level k l.pte (pageAddr (l.base v) l.bits v) with
        | none => exact hw
        | some p =>
          dsimp only
          split
          · exact hP.tlbFill _ _ _ _ hm
          · exact hm

theorem cacheWrite (s : State) (f off : Nat) (bs : List Byte) (h : P s) : P (s.cacheWrite f off bs) :=
  hP.kept.recordWrites _ _ _ _ (hP.kept.promoteFor _ _ _ h)

theorem hubAnswer (s : State) (p : Nat) (place : Place) (kind len : Nat) (h : P s) : P (s.hubAnswer p place kind len).2 := by
  have hr : P (s.requestAt p place kind len) := by
    unfold State.requestAt
    split
    · exact hP.kept.request _ _ _ _ _ h
    · exact h
  unfold State.hubAnswer
  split
  · split
    · exact h
    · split
      · exact hP.kept.noRoute _ _ _ _ _ h
      · exact hr
      · exact hP.free _ _ hr
  · exact h

theorem unitXlat (s : State) (ctx core : Nat) (k : AccKind) (va : DWord) (h : P s) : P (s.unitXlat ctx core k va).2 :=
  hP.translate _ _ _ _ _ _ h

theorem putLagPoison (s : State) (t : TeamKey) (p : Tab Nat) (h : P s) : P (s.putLagPoison t p) := by
  unfold State.putLagPoison
  split
  · exact hP.held _ _ h
  · exact hP.modTeam _ _ _ h

theorem placePoisonAt (s : State) (p : Place) (code : Nat) (h : P s) : P (s.placePoisonAt p code) := by
  unfold State.placePoisonAt
  split
  · exact h
  · split
    · exact hP.kept.poison _ _ h
    · exact hP.putLagPoison _ _ _ h
    · exact h

/-- What a unit's write leaves, whether it is done or something stands in its way. -/
theorem unitWrite (bss : List (List Byte)) (s : State) (ctx : Nat) (va : DWord) (h : P s) :
    (∀ r, s.unitWrite ctx va bss = .ok r → P r) ∧ ∀ c at_ r, s.unitWrite ctx va bss = .error (c, at_, r) → P r := by
  induction bss generalizing s va with
  | nil => exact ⟨fun r hr => Except.ok.inj hr ▸ h, fun _ _ _ hr => (nomatch hr)⟩
  | cons bs rest ih =>
    have hx := hP.unitXlat s ctx 511 .write va h
    unfold State.unitWrite
    generalize s.unitXlat ctx 511 .write va = x at hx ⊢
    obtain ⟨x, u⟩ := x
    cases x with
    | page => exact State.kept_unitFails hx
    | access => exact State.kept_unitFails hx
    | ok p g e =>
      cases p with
      | mem a nc row =>
        dsimp only
        have hv := hP.hubAnswer u (partOf ctx) (.mem a nc row) 1 bs.length hx
        generalize u.hubAnswer (partOf ctx) (.mem a nc row) 1 bs.length = y at hv ⊢
        obtain ⟨c, v⟩ := y
        cases c with
        | some c =>
          dsimp only
          refine State.kept_unitFails ?_
          have hd : P (if c = Cause.remoteTimeout && decide (v.reachPlace (.mem a nc row) = .ok) then v.choose else (false, v)).2 := by
            split
            · exact hP.choose _ hv
            · exact hv
          generalize (if c = Cause.remoteTimeout && decide (v.reachPlace (.mem a nc row) = .ok) then v.choose else (false, v)) = y at hd ⊢
          split
          · exact hP.kept.recordWrites _ _ _ _ hd
          · exact hd
        | none =>
          dsimp only
          split
          · have := ih v (va + BitVec.ofNat 64 bs.length) hv
            generalize v.unitWrite ctx (va + BitVec.ofNat 64 bs.length) rest = z at this ⊢
            cases z with
            | ok w => exact State.kept_unitFails (this.1 w rfl)
            | error e => exact this
          · exact ih _ _ (hP.kept.homeWrites _ _ _ _ (hP.kept.promoteFor _ _ _ hv))
      | _ => exact State.kept_unitFails hx

theorem writeWhere (s : State) (ctx : Nat) (va : DWord) (bs : List Byte) (codes : Tab Nat) (h : P s) : P (s.writeWhere ctx va bs codes) := by
  refine State.Kept.foldl _ (fun s j hs => ?_) _ _ h
  have hw := hP.unitWrite [(bs.drop (64 * j)).take 64] s ctx (va + BitVec.ofNat 64 (64 * j)) hs
  dsimp only
  generalize s.unitWrite ctx (va + BitVec.ofNat 64 (64 * j)) [(bs.drop (64 * j)).take 64] = x at hw ⊢
  cases x with
  | error e => exact hs
  | ok u =>
    have hu := hw.1 u rfl
    dsimp only
    split
    · exact hu
    · have hx := hP.unitXlat u ctx 511 .write (va + BitVec.ofNat 64 (64 * j)) hu
      generalize u.unitXlat ctx 511 .write (va + BitVec.ofNat 64 (64 * j)) = x at hx ⊢
      obtain ⟨x, v⟩ := x
      cases x with
      | ok p g e => exact hP.placePoisonAt _ _ _ hx
      | _ => exact hu

theorem lineTarget (s : State) (k : WaveKey) (line : Nat) (h : P s) : ∀ f u, s.lineTarget k line = some (f, u) → P u := by
  intro f u hu
  unfold State.lineTarget at hu
  cases hl : (s.wave? k).bind (·.linePa line) with
  | some pa =>
    rw [hl] at hu
    exact (Prod.mk.inj (Option.some.inj hu)).2 ▸ h
  | none =>
    rw [hl] at hu
    dsimp only at hu
    have hx := hP.translate s k.team.grid.ctx (s.coreOf (.wave k)) (s.level (.wave k)) .read
      (BitVec.ofNat 64 ((s.waveSpan k).1 + 128 * line)) h
    generalize s.translate k.team.grid.ctx (s.coreOf (.wave k)) (s.level (.wave k)) .read
      (BitVec.ofNat 64 ((s.waveSpan k).1 + 128 * line)) = x at hx hu
    obtain ⟨x, v⟩ := x
    cases x with
    | ok p g e =>
      cases p with
      | mem a nc row => exact (Prod.mk.inj (Option.some.inj hu)).2 ▸ hP.translate _ _ _ _ _ _ hx
      | _ => exact nomatch hu
    | _ => exact nomatch hu

theorem writeLine (s : State) (k : WaveKey) (line : Nat) (h : P s) : P (s.writeLine k line) := by
  unfold State.writeLine
  extract_lets nr
  cases s.wave? k with
  | none => exact h
  | some w =>
    dsimp only
    split
    · exact h
    · have ht := hP.lineTarget s k line h
      generalize s.lineTarget k line = x at ht ⊢
      cases x with
      | none => exact h
      | some x =>
        obtain ⟨f, u⟩ := x
        refine hP.modAgent _ _ _ ?_
        have hu := ht f u rfl
        split
        · refine State.Kept.foldl _ (fun s j hs => ?_) _ _ hu
          split
          · exact hP.cacheWrite _ _ _ _ hs
          · exact hs
        · exact hP.kept.poison _ _ (hP.cacheWrite _ _ _ _ hu)

theorem flushWave (s : State) (k : WaveKey) (h : P s) : P (s.flushWave k) :=
  State.Kept.foldl _ (fun s l hs => hP.writeLine s k l hs) _ _ (hP.modAgent _ _ _ h)

theorem flushS (s : State) (k : TeamKey) (inv : Bool) (h : P s) : P (s.flushS k inv) := by
  have done : ∀ (u : State) (t : Team) (f : Nat) (g : Team → Team), P u →
      P ((if t.sSync = some t.s then u else u.cacheWrite f 0 ((List.range 128).map (sByte t.s))).modTeam k g) := by
    intro u t f g hu
    refine hP.modTeam _ _ _ ?_
    split
    · exact hu
    · exact hP.cacheWrite _ _ _ _ hu
  unfold State.flushS
  cases s.team? k with
  | none => exact h
  | some t =>
    dsimp only
    split
    · exact h
    · cases t.sFrame with
      | some f => exact done _ _ _ _ h
      | none =>
        cases s.grid? k.grid with
        | none => exact h
        | some g =>
          dsimp only
          have hx := hP.translate s k.grid.ctx t.core (if s.sys k.grid.ctx then 1 else 0) .write (g.teamBase t.slot) h
          generalize s.translate k.grid.ctx t.core (if s.sys k.grid.ctx then 1 else 0) .write (g.teamBase t.slot) = x at hx ⊢
          obtain ⟨x, v⟩ := x
          cases x with
          | ok p g e =>
            cases p with
            | mem a nc row => exact done _ _ _ _ hx
            | _ => exact h
          | _ => exact h

theorem saveBlock (s : State) (k : TeamKey) (h : P s) : P (s.saveBlock k) := by
  unfold State.saveBlock
  cases s.team? k with
  | none => exact h
  | some t =>
    cases s.grid? k.grid with
    | none => exact h
    | some g =>
      dsimp only
      split
      · exact hP.cacheWrite _ _ _ _ (hP.flushS _ _ _ h)
      · exact hP.writeWhere _ _ _ _ _ (hP.flushS _ _ _ h)

theorem putRow (s : State) (o : Op) (w base : Nat) (h : P s) : P (s.putRow o w base) := by
  unfold State.putRow
  cases o.teamKey with
  | none => exact h
  | some k =>
    dsimp -zeta only
    extract_lets u
    have hu : P u := by
      cases ht : s.team? k with
      | none => simpa only [u, ht] using h
      | some t => simpa only [u, ht] using hP.kept.reachRow s o.core (rowOf t.core (t.slotAt w)) h
    clear_value u
    cases u.team? k with
    | none => exact hu
    | some t =>
      dsimp -zeta only
      extract_lets r pa kept bs llc home code poison codes snap
      exact hP.team _ _ _ (hP.kept.modL1 _ _ _ (hP.memory u home llc poison hu))

end State.KeptBySaves
end Sys2Proof.Machine
end

section
/-! PROOF. Halts, swaps, program starts and pre-emption (O57). -/

namespace Sys2Proof.Machine

open Sys2Proof

/-- A change of the entries at some keys, which leaves the default as it is. -/
theorem Tab.get_map_where {α : Type} {d : α} (m : Nat → Bool) (g : α → α) (hd : g d = d) (t : Tab α) (n : Nat) :
    Tab.get d (List.map (fun q : Nat × α => if m q.1 then (q.1, g q.2) else q) t) n = if m n then g (Tab.get d t n) else Tab.get d t n := by
  induction t with
  | nil => simp [Tab.get, hd]
  | cons p t ih =>
    obtain ⟨k, v⟩ := p
    simp only [List.map_cons]
    by_cases hk : k = n
    · subst hk
      cases hm : m k <;> simp [Tab.get]
    · cases hm : m k <;> simp [Tab.get, hk, ih]

namespace State

theorem setPtReg_parts_length (s : State) (p i : Nat) (v : Word) : (s.setPtReg p i v).parts.length = s.parts.length := by simp [setPtReg, putPart]

theorem part_putPart {s : State} {p : Nat} (hp : p < s.parts.length) (y : Part) : (s.putPart p y).part p = y := by simp [part, putPart, hp]

theorem part_setPtReg_swap {s : State} (p i : Nat) (v : Word) : ((s.setPtReg p i v).part p).swap = (s.part p).swap := by
  by_cases hp : p < s.parts.length
  · rw [setPtReg, part_putPart hp]
  · rw [setPtReg, part, part, putPart, List.getElem?_eq_none (by simpa using hp), List.getElem?_eq_none (by simpa using hp)]

/-- An event changes no register of its partition. -/
theorem ptReg_raiseEvent (s : State) (p event c : Nat) (payload : List Byte) (q i : Nat) : (s.raiseEvent p event c payload).ptReg q i = s.ptReg q i := by
  have key : ∀ l, (s.putPart p { s.part p with evq := l }).ptReg q i = s.ptReg q i := by
    intro l
    unfold ptReg part putPart
    by_cases hq : q = p
    · subst hq
      by_cases hl : q < s.parts.length
      · simp [hl]
      · simp [hl]
    · simp [Ne.symm hq]
  unfold raiseEvent
  dsimp only
  split
  · split <;> exact key _
  · exact key _

theorem raiseEvent_ctxs (s : State) (p event c : Nat) (payload : List Byte) : (s.raiseEvent p event c payload).ctxs = s.ctxs := by
  unfold raiseEvent
  dsimp only
  split
  · split <;> rfl
  · rfl

theorem raiseEvent_ops (s : State) (p event c : Nat) (payload : List Byte) :
    (s.raiseEvent p event c payload).ops = s.ops ∧ (s.raiseEvent p event c payload).waiters = s.waiters := by
  unfold raiseEvent
  dsimp only
  split
  · split <;> exact ⟨rfl, rfl⟩
  · exact ⟨rfl, rfl⟩

/-! What a save leaves. -/

/-- No save adds or drops a context slot or a partition. -/
theorem kept_slots (m n : Nat) : KeptBySaves fun s => s.ctxs.length = m ∧ s.parts.length = n where
  team _ _ _ h := h
  ctx s c x h := ⟨(putCtx_ctxs_length s c x).trans h.1, h.2⟩
  part s p x h := ⟨h.1, (by simp [putPart] : (s.putPart p x).parts.length = s.parts.length).trans h.2⟩
  core _ _ _ _ h := h
  cluster _ _ _ h := h
  memory _ _ _ _ h := h
  out _ _ h := h
  free _ _ h := h
  held _ _ h := h

/-- No save gates a core. -/
theorem kept_awake (n t : Nat) (m : Nat → Bool) :
    KeptBySaves fun s => s.parts.length = n ∧ s.timeRef = t ∧ ∀ c, m c = true → (s.core c).gated = false where
  team _ _ _ h := h
  ctx _ _ _ h := h
  part s p x h := ⟨(by simp [putPart] : (s.putPart p x).parts.length = s.parts.length).trans h.1, h.2⟩
  core s c x hx h := by
    obtain ⟨hl, ht, hg⟩ := h
    refine ⟨hl, ht, fun d hd => ?_⟩
    rw [core_putCore]
    split
    · subst d
      exact Bool.eq_false_iff.2 fun ht => Bool.eq_false_iff.1 (hg c hd) (hx ht)
    · exact hg d hd
  cluster _ _ _ h := h
  memory _ _ _ _ h := h
  out _ _ h := h
  free _ _ h := h
  held _ _ h := h

namespace KeptBySaves
variable {P : State → Prop} (hP : State.KeptBySaves P)
include hP

theorem finishRowputs (s : State) (c : Nat) (h : P s) : P (s.finishRowputs c) := by
  refine State.Kept.foldl _ (fun s (o : Op) hs => ?_) _ _ h
  split
  · split
    · exact hP.putRow _ _ _ _ hs
    · exact hs
  · exact hs

theorem saveHalted (s : State) (c : Nat) (h : P s) : P (s.saveHalted c) := by
  refine State.Kept.foldl _ (fun s (p : TeamKey × Team) hs => ?_) _ _ ?_
  · obtain ⟨k, t⟩ := p
    dsimp only
    split
    · exact hs
    · exact hP.modTeam _ _ _ (hP.saveBlock _ _ (State.Kept.foldl _ (fun s i hs => hP.flushWave s ⟨k, i⟩ hs) _ _ hs))
  · exact State.kept_eachCore s (fun s d => s.inMask (partOf c) 0x001 (clusterOf d)) _
      (fun s d hs => hP.kept.wakeCore _ _ (hP.flushL1 _ _ hs)) _ h

theorem poisonState (s : State) (code : Nat) (x : ErrSite) (h : P s) : P (s.poisonState code x) := by
  unfold State.poisonState
  split
  · exact hP.putLagPoison _ _ _ h
  · exact hP.modTeam _ _ _ h
  · exact hP.modTeam _ _ _ h
  · exact hP.modAgent _ _ _ h
  · exact h

theorem poisonImage (s : State) (c d : Nat) (part : ImagePart) (code : Nat) (h : P s) : P (s.poisonImage c d part code) := by
  unfold State.poisonImage
  dsimp only
  split
  · exact hP.poisonState _ _ _ (hP.free _ _ (hP.free _ _ h))
  · exact hP.free _ _ h

theorem swapImages (s : State) (p : Nat) (o : Option Nat) (i : Nat) (h : P s) : P (s.swapImages p o i) := by
  refine State.Kept.foldl _ (fun s c hs => ?_) _ _ ?_
  · exact hP.core _ _ _ id hs
  refine State.Kept.foldl _ (fun s (q : Nat × Nat) hs => ?_) _ _ (hP.kept.poison _ _ h)
  obtain ⟨g, code⟩ := q
  dsimp only
  split
  · split
    · exact hP.poisonImage _ _ _ _ _ hs
    · exact hs
  · exact hs

end KeptBySaves

/-! The events of halts and swaps. -/

theorem ctx_setCtReg_halt {s : State} {c : Nat} (hc : c < s.ctxs.length) (i : Nat) (v : Word) :
    ((s.setCtReg c i v).ctx c).halt = (s.ctx c).halt := by
  rw [setCtReg, ctx_putCtx hc]

/-- The last part of a halt: the context's operations, waits and teams on their way go, and its registers are marked. -/
def markHalted (s : State) (c : Nat) (runs : Bool) : State :=
  let s : State := { s with
    ops := s.ops.filter (fun (o : Op) => ctxOf o.agent ≠ c),
    waiters := s.waiters.filter (fun (w : Waiter) => ctxOf w.agent ≠ c),
    dies := s.dies.map fun (d : Die) =>
      let left := d.queue.filter fun q => q.team.grid.ctx ≠ c
      { d with
        queue := left, wait := if left.head? = d.queue.head? then d.wait else 0,
        lost := d.lost.filter fun b => left.any fun q => q.batch = b } }
  let s := s.putCtx c { s.ctx c with halt := none, stopped := [] }
  let s := s.setCtReg c 0 (setBits (setBits (s.ctReg c 0) 2 1 0) 3 1 1)
  let s := s.setCtReg c 0x006 (setBits (s.ctReg c 0x006) 0 17 0)
  if runs then s.setPtReg (partOf c) 0 (setBits (setBits (s.ptReg (partOf c) 0) 5 1 1) 1 1 0) else s

/-- A halt marks what the saves and the writes of the stop area leave, and raises its event. -/
theorem completeHalt_eq {s : State} {c : Nat} {h : HaltHdr} (hh : (s.ctx c).halt = some h)
    (hw : ∀ w, (s.part (partOf c)).swap = some w → w.incoming ≠ c) :
    ∃ base area pl, s.completeHalt c = some (((((if s.running c then (s.free.2.finishRowputs c).saveHalted c else s.free.2).writeWhere c base area).markHalted c
      (s.running c))).raiseEvent (partOf c) 0x05 (c % 2) pl) := by
  have hin : ((match (s.part (partOf c)).swap with | some w => w.incoming == c | none => false) : Bool) = false := by
    cases hq : (s.part (partOf c)).swap with
    | none => rfl
    | some w => exact beq_eq_false_iff_ne.2 (hw w hq)
  rw [completeHalt, hh]
  exact ⟨_, _, _, if_neg (Bool.eq_false_iff.1 hin)⟩

theorem markHalted_spec {s : State} {c : Nat} {runs : Bool} (hc : c < s.ctxs.length) :
    ((s.markHalted c runs).ctx c).halt = none ∧ ((s.markHalted c runs).ctReg c 0).getLsbD 3 = true ∧
      ((s.markHalted c runs).ctReg c 0).getLsbD 2 = false ∧ (s.markHalted c runs).liveGrids c = 0 ∧
      (∀ o ∈ (s.markHalted c runs).ops, ctxOf o.agent ≠ c) ∧ (∀ w ∈ (s.markHalted c runs).waiters, ctxOf w.agent ≠ c) ∧
      (runs = true → partOf c < s.parts.length → ((s.markHalted c runs).ptReg (partOf c) 0).getLsbD 5 = true) := by
  unfold markHalted
  extract_lets u y v w x
  have hu : c < u.ctxs.length := hc
  have hv : c < v.ctxs.length := by rwa [putCtx_ctxs_length]
  have hw : c < w.ctxs.length := by rwa [setCtReg_ctxs_length]
  have halt : (v.ctx c).halt = none := by rw [ctx_putCtx hu]
  have ctx : ((if runs then x.setPtReg (partOf c) 0 (setBits (setBits (x.ptReg (partOf c) 0) 5 1 1) 1 1 0) else x).ctx c) = x.ctx c := by
    split <;> rfl
  have reg (i : Nat) : ((if runs then x.setPtReg (partOf c) 0 (setBits (setBits (x.ptReg (partOf c) 0) 5 1 1) 1 1 0) else x).ctReg c i) = x.ctReg c i := by
    split <;> rfl
  have r0 : x.ctReg c 0 = setBits (setBits (v.ctReg c 0) 2 1 0) 3 1 1 := by
    rw [ctReg_setCtReg hw, if_neg (by decide), ctReg_setCtReg hv, if_pos rfl]
  have r6 : x.ctReg c 6 = setBits (w.ctReg c 6) 0 17 0 := by rw [ctReg_setCtReg hw, if_pos rfl]
  refine ⟨?_, ?_, ?_, ?_, ?_, ?_, ?_⟩
  · rw [ctx, ctx_setCtReg_halt hw, ctx_setCtReg_halt hv]
    exact halt
  · rw [reg, r0, getLsbD_setBits _ _ (by decide)]
    rfl
  · rw [reg, r0, getLsbD_setBits _ _ (by decide), getLsbD_setBits _ _ (by decide)]
    rfl
  · rw [liveGrids, reg, r6]
    exact bits_setBits _ (by decide) (by decide)
  · intro o ho
    have ho : o ∈ u.ops := by
      cases runs <;> exact ho
    simpa using (List.mem_filter.1 ho).2
  · intro o ho
    have ho : o ∈ u.waiters := by
      cases runs <;> exact ho
    simpa using (List.mem_filter.1 ho).2
  · intro hr hp
    rw [if_pos hr, ptReg_setPtReg (show partOf c < x.parts.length from hp), if_pos rfl, getLsbD_setBits _ _ (by decide), getLsbD_setBits _ _ (by decide)]
    rfl

theorem completeHalt_occurs {s : State} {c : Nat} {h : HaltHdr} (hc : c < 16) (hl : s.ctxs.length = 16) (hh : (s.ctx c).halt = some h)
    (hw : ∀ w, (s.part (partOf c)).swap = some w → w.incoming ≠ c) : Occurs (.haltComplete c) s fun r =>
      (r.ctx c).halt = none ∧ (r.ctReg c 0).getLsbD 3 = true ∧ (r.ctReg c 0).getLsbD 2 = false ∧ r.liveGrids c = 0 ∧
        (∀ o ∈ r.ops, ctxOf o.agent ≠ c) ∧ (∀ w ∈ r.waiters, ctxOf w.agent ≠ c) ∧
        (s.running c = true → s.parts.length = 8 → (r.ptReg (partOf c) 0).getLsbD 5 = true) := by
  obtain ⟨base, area, pl, he⟩ := completeHalt_eq hh hw
  have hP := kept_slots 16 s.parts.length
  have hk := hP.writeWhere (if s.running c then (s.free.2.finishRowputs c).saveHalted c else s.free.2) c base area [] (by
    split
    · exact hP.saveHalted _ _ (hP.finishRowputs _ _ ⟨hl, rfl⟩)
    · exact ⟨hl, rfl⟩)
  generalize (if s.running c then (s.free.2.finishRowputs c).saveHalted c else s.free.2).writeWhere c base area = u at he hk
  obtain ⟨hu, hn⟩ := hk
  have hs := markHalted_spec (s := u) (c := c) (runs := s.running c) (by omega)
  refine ⟨_, unitEvent_next hc he, ?_⟩
  obtain ⟨halt, h3, h2, hlive, hops, hwait, hidle⟩ := hs
  generalize u.markHalted c (s.running c) = v at halt h3 h2 hlive hops hwait hidle
  have reg (i : Nat) : (v.raiseEvent (partOf c) 0x05 (c % 2) pl).ctReg c i = v.ctReg c i := by
    rw [ctReg, State.ctx, raiseEvent_ctxs]
    rfl
  refine ⟨?_, ?_, ?_, ?_, ?_, ?_, ?_⟩
  · rwa [State.ctx, raiseEvent_ctxs]
  · rwa [reg]
  · rwa [reg]
  · rwa [liveGrids, reg]
  · rwa [(raiseEvent_ops ..).1]
  · rwa [(raiseEvent_ops ..).2]
  · intro hr h8
    rw [ptReg_raiseEvent]
    exact hidle hr (by unfold partOf; omega)

/-- The cores of a partition that a swap wakes, before their L1s are written back. -/
def swapWoken (s : State) (p : Nat) : State :=
  { s with cores := s.cores.map (fun (q : Nat × Core) => if s.inMask p 0x001 (clusterOf q.1) then (q.1, { q.2 with gated := false }) else q) }

theorem exchange_eq {s : State} {p : Nat} {w : Swap} (hw : (s.part p).swap = some w) (he : w.exchanged = false)
    (hq : ∀ o, w.outgoing = some o → (s.ctReg o 0).getLsbD 3 = true ∨ (s.stopped o = true ∧ (s.ctx o).halt = none)) :
    let u := ((s.swapWoken p).cores.map (·.1)).foldl (fun s c => if s.inMask p 0x001 (clusterOf c) then s.flushL1 c else s) (s.swapWoken p)
    let v := (((match w.outgoing with | some o => u.imageOf o | none => u).swapImages p w.outgoing w.incoming).setEqual p fun c => c.ratio = 1)
    s.exchange p = some (v.chargeOpen.putPart p { v.part p with swap := some { w with exchanged := true, haltAt := some v.timeRef } }) := by
  intro u v
  rw [exchange, hw]
  refine if_neg ?_
  rw [he]
  cases ho : w.outgoing with
  | none => simp
  | some o =>
    rcases hq o ho with h | ⟨h, hn⟩
    · simp [h]
    · simp [h, hn]

theorem exchange_occurs {s : State} {p : Nat} {w : Swap} (hp : p < 8) (hl : s.parts.length = 8) (hw : (s.part p).swap = some w)
    (he : w.exchanged = false)
    (hq : ∀ o, w.outgoing = some o → (s.ctReg o 0).getLsbD 3 = true ∨ (s.stopped o = true ∧ (s.ctx o).halt = none)) :
    Occurs (.swapExchange p) s fun r =>
      (r.part p).swap = some { w with exchanged := true, haltAt := some s.timeRef } ∧
        ∀ c, s.inMask p 0x001 (clusterOf c) = true → (r.core c).gated = false := by
  have hP := kept_awake 8 s.timeRef fun c => s.inMask p 0x001 (clusterOf c)
  have hwoken : (s.swapWoken p).parts.length = 8 ∧ (s.swapWoken p).timeRef = s.timeRef ∧
      ∀ c, s.inMask p 0x001 (clusterOf c) = true → ((s.swapWoken p).core c).gated = false := by
    refine ⟨hl, rfl, fun c hc => ?_⟩
    rw [swapWoken, core, Tab.get_map_where (fun k => s.inMask p 0x001 (clusterOf k)) (fun x : Core => { x with gated := false }) rfl, if_pos hc]
  have hx := exchange_eq hw he hq
  refine ⟨_, unitEvent_next hp hx, ?_⟩
  have hu := kept_eachCore (s.swapWoken p) (fun s c => s.inMask p 0x001 (clusterOf c)) _ (fun s c hs => hP.flushL1 s c hs)
    ((s.swapWoken p).cores.map (·.1)) hwoken
  generalize ((s.swapWoken p).cores.map (·.1)).foldl (fun s c => if s.inMask p 0x001 (clusterOf c) then s.flushL1 c else s) (s.swapWoken p) = u at hu ⊢
  have hv : (match w.outgoing with | some o => u.imageOf o | none => u).parts.length = 8 ∧
      (match w.outgoing with | some o => u.imageOf o | none => u).timeRef = s.timeRef ∧
      ∀ c, s.inMask p 0x001 (clusterOf c) = true → ((match w.outgoing with | some o => u.imageOf o | none => u).core c).gated = false := by
    cases w.outgoing with
    | none => exact hu
    | some o => exact hu
  have hi := hP.swapImages _ p w.outgoing w.incoming hv
  generalize (match w.outgoing with | some o => u.imageOf o | none => u).swapImages p w.outgoing w.incoming = v at hi ⊢
  obtain ⟨hn, ht, hg⟩ := hi
  refine ⟨?_, hg⟩
  rw [part_putPart (show p < (v.setEqual p fun c => decide (c.ratio = 1)).chargeOpen.parts.length from hn ▸ hp)]
  rw [← ht]
  rfl

/-! The end of a swap. -/

/-- The registers of the two contexts and of the partition as a swap ends. -/
def restoreRegs (s : State) (p : Nat) (w : Swap) : State :=
  let s := match w.outgoing with | some o => s.setCtReg o 0 (setBits (s.ctReg o 0) 2 1 0) | none => s
  let s := s.setCtReg w.incoming 0 (setBits (s.ctReg w.incoming 0) 2 1 1)
  let s := s.setPtReg p 0 (setBits (setBits (setBits (s.ptReg p 0) 1 1 (w.incoming % 2)) 2 1 0) 5 1 0)
  s.setPtReg p 0x009 (setBits (s.ptReg p 0x009) 0 16 (min 65535 (s.timeRef - w.haltAt.getD s.timeRef)))

/-- The waves of the incoming context test their waits again. -/
def retestTeams (s : State) (c : Nat) : State :=
  { s with teams := s.teams.map (fun (q : TeamKey × Team) =>
    if q.1.grid.ctx = c then (q.1, { q.2 with waves := q.2.waves.map Wave.retest }) else q) }

/-- The state in which a swap has ended, before one back begins. -/
def restored (s : State) (p : Nat) (w : Swap) : State :=
  let s := (((s.restoreRegs p w).setEqual p fun _ => true).retestTeams w.incoming).modAgent (.cp w.incoming) Wave.retest
  s.putPart p { s.part p with swap := none }

theorem restore_eq {s : State} {p : Nat} {w : Swap} (hw : (s.part p).swap = some w) (he : w.exchanged = true) :
    s.restore p = match w.back, w.outgoing with
      | true, some o => some ((s.restored p w).swapRequest p (o % 2))
      | _, _ => some (s.restored p w) := by
  rw [restore, hw]
  dsimp only
  rw [he]
  rfl

theorem restoreRegs_incoming {s : State} (p : Nat) {w : Swap} (hi : w.incoming < s.ctxs.length) :
    ∃ x, (s.restoreRegs p w).ctReg w.incoming 0 = setBits x 2 1 1 := by
  unfold restoreRegs
  cases w.outgoing with
  | none => exact ⟨_, (ctReg_setCtReg hi ..).trans (if_pos rfl)⟩
  | some o => exact ⟨_, (ctReg_setCtReg (by rwa [setCtReg_ctxs_length]) ..).trans (if_pos rfl)⟩

theorem restoreRegs_outgoing {s : State} (p : Nat) {w : Swap} {o : Nat} (ho : o < s.ctxs.length) (hw : w.outgoing = some o) (hne : o ≠ w.incoming) :
    (s.restoreRegs p w).ctReg o 0 = setBits (s.ctReg o 0) 2 1 0 := by
  unfold restoreRegs
  rw [hw]
  exact (ctReg_setCtReg_other _ (fun h => hne (Prod.mk.inj h).1.symm) _).trans ((ctReg_setCtReg ho ..).trans (if_pos rfl))

theorem restoreRegs_ptReg {s : State} {p : Nat} (hp : p < s.parts.length) (w : Swap) :
    (s.restoreRegs p w).ptReg p 0 = setBits (setBits (setBits (s.ptReg p 0) 1 1 (w.incoming % 2)) 2 1 0) 5 1 0 := by
  unfold restoreRegs
  cases w.outgoing <;>
    exact (ptReg_setPtReg (by rwa [setPtReg_parts_length]) ..).trans ((if_neg (by decide)).trans ((ptReg_setPtReg (by exact hp) ..).trans (if_pos rfl)))

theorem restoreRegs_parts_length (s : State) (p : Nat) (w : Swap) : (s.restoreRegs p w).parts.length = s.parts.length := by
  unfold restoreRegs
  cases w.outgoing <;> simp only [setPtReg_parts_length] <;> rfl

theorem modAgent_parts (s : State) (a : Agent) (f : Wave → Wave) : (s.modAgent a f).parts = s.parts := by
  unfold modAgent
  split
  · cases a with
    | wave k =>
      unfold putAgent putWave
      simp only
      split <;> rfl
    | cp c => rfl
  · rfl

theorem modAgent_ctReg (s : State) (a : Agent) (f : Wave → Wave) (c i : Nat) : (s.modAgent a f).ctReg c i = s.ctReg c i := by
  unfold modAgent
  split
  · cases a with
    | wave k => exact ctReg_of_reg (by rw [ctx_of_ctxs (putAgent_wave_ctxs s k _)]) i
    | cp d =>
      refine ctReg_of_reg ?_ i
      unfold putAgent
      by_cases hd : c = d
      · subst hd
        by_cases hl : c < s.ctxs.length
        · rw [ctx_putCtx hl]
        · simp [State.ctx, putCtx, hl]
      · rw [ctx_putCtx_other _ hd]
  · rfl

theorem restored_ctReg (s : State) (p : Nat) (w : Swap) (c i : Nat) : (s.restored p w).ctReg c i = (s.restoreRegs p w).ctReg c i :=
  modAgent_ctReg ..

theorem restored_parts_length (s : State) (p : Nat) (w : Swap) : (s.restored p w).parts.length = s.parts.length := by
  unfold restored
  dsimp only
  rw [putPart, List.length_set, modAgent_parts]
  exact restoreRegs_parts_length s p w

theorem restored_part {s : State} {p : Nat} (hp : p < s.parts.length) (w : Swap) :
    ((s.restored p w).part p).swap = none ∧ ((s.restored p w).part p).reg = ((s.restoreRegs p w).part p).reg := by
  have hl : p < ((((s.restoreRegs p w).setEqual p fun _ => true).retestTeams w.incoming).modAgent (.cp w.incoming) Wave.retest).parts.length := by
    rw [modAgent_parts]
    exact (restoreRegs_parts_length s p w).symm ▸ hp
  unfold restored
  dsimp only
  rw [part_putPart hl]
  refine ⟨rfl, ?_⟩
  rw [part, modAgent_parts]
  rfl

theorem restored_ptReg {s : State} {p : Nat} (hp : p < s.parts.length) (w : Swap) :
    (s.restored p w).ptReg p 0 = setBits (setBits (setBits (s.ptReg p 0) 1 1 (w.incoming % 2)) 2 1 0) 5 1 0 := by
  rw [ptReg, (restored_part hp w).2]
  exact restoreRegs_ptReg hp w

theorem sameStore_restored (s : State) (p : Nat) (w : Swap) : s.SameStore (s.restored p w) := by
  have hr : s.SameStore (s.restoreRegs p w) := by
    unfold restoreRegs
    cases w.outgoing <;> exact SameStore.of_cores rfl rfl rfl
  refine hr.trans ?_
  have ht : (s.restoreRegs p w).SameStore (((s.restoreRegs p w).setEqual p fun _ => true).retestTeams w.incoming) := SameStore.of_cores rfl rfl rfl
  have hp (u : State) : u.SameStore (u.putPart p { u.part p with swap := none }) := SameStore.of_cores rfl rfl rfl
  exact ht.trans ((SameStore.modAgent _ (.cp w.incoming) Wave.retest).trans (hp _))

theorem restoreRegs_ctxs_length (s : State) (p : Nat) (w : Swap) : (s.restoreRegs p w).ctxs.length = s.ctxs.length := by
  unfold restoreRegs
  cases w.outgoing with
  | none => exact setCtReg_ctxs_length ..
  | some o => exact (setCtReg_ctxs_length ..).trans (setCtReg_ctxs_length ..)

/-! Requests of a swap. -/

theorem beginSwap_swap {s : State} {p : Nat} (hp : p < s.parts.length) (c : Nat) :
    ((s.beginSwap p c).part p).swap = some { incoming := 2 * p + c, outgoing := s.runningCtx p } := by
  have key : (((s.putPart p { s.part p with swap := some { incoming := 2 * p + c, outgoing := s.runningCtx p } }).setPtReg p 0
      ((s.putPart p { s.part p with swap := some { incoming := 2 * p + c, outgoing := s.runningCtx p } }).ptReg p 0 ||| 4)).part p).swap =
      some { incoming := 2 * p + c, outgoing := s.runningCtx p } := by
    rw [part_setPtReg_swap, part_putPart hp]
  unfold beginSwap
  cases hr : s.runningCtx p <;> rw [hr] at key <;> exact key

theorem swapRequest_begins {s : State} {p c : Nat} (hs : (s.part p).swap = none) (hr : s.runningCtx p ≠ some (2 * p + c)) :
    (s.valid (2 * p + c) = true → (s.ctReg (2 * p + c) 0).getLsbD 3 = false → s.swapRequest p c = s.beginSwap p c) ∧
    (s.valid (2 * p + c) = false ∨ (s.ctReg (2 * p + c) 0).getLsbD 3 = true → s.swapRequest p c = s.setPtReg p 0 (s.ptReg p 0 ||| 8)) := by
  unfold swapRequest
  rw [hs]
  dsimp only
  rw [if_neg hr]
  refine ⟨fun hv h3 => if_neg ?_, fun h => if_pos ?_⟩
  · rw [hv, h3]
    exact Bool.false_ne_true
  · rcases h with h | h <;> simp [h]

theorem restored_runs {s : State} {p : Nat} (hp : p < s.parts.length) {w : Swap} (hi : w.incoming / 2 = p) :
    (s.restored p w).runningCtx p = some w.incoming := by
  unfold runningCtx
  rw [restored_ptReg hp]
  have h5 : (setBits (setBits (setBits (s.ptReg p 0) 1 1 (w.incoming % 2)) 2 1 0) 5 1 0).getLsbD 5 = false := by
    rw [getLsbD_setBits _ _ (by decide)]
    rfl
  dsimp only
  rw [if_neg (Bool.eq_false_iff.1 h5), bits_setBits_of_disjoint _ (by decide) (by decide), bits_setBits_of_disjoint _ (by decide) (by decide),
    bits_setBits _ (by decide) (by omega)]
  exact congrArg some (by omega)

/-- A context that went out and was asked back goes in again. -/
theorem restored_swapBack {s : State} {p : Nat} (hp : p < s.parts.length) {w : Swap} {o : Nat} (hi : w.incoming / 2 = p) (hl : o < s.ctxs.length)
    (hw : w.outgoing = some o) (ho : o / 2 = p) (hne : o ≠ w.incoming) (hv : s.valid o = true) (h3 : (s.ctReg o 0).getLsbD 3 = false) :
    (((s.restored p w).swapRequest p (o % 2)).part p).swap = some { incoming := o, outgoing := some w.incoming } := by
  have hoe : 2 * p + o % 2 = o := by omega
  have hreg : (s.restored p w).ctReg o 0 = setBits (s.ctReg o 0) 2 1 0 := by rw [restored_ctReg, restoreRegs_outgoing p hl hw hne]
  have hrun := restored_runs hp hi
  have hb := (swapRequest_begins (s := s.restored p w) (p := p) (c := o % 2) (restored_part hp w).1
    (by rw [hrun, hoe]; exact fun h => hne (Option.some.inj h).symm)).1
  rw [hoe, valid, hreg, getLsbD_setBits _ _ (by decide), getLsbD_setBits _ _ (by decide)] at hb
  rw [hb hv h3, beginSwap_swap (by rwa [restored_parts_length]), hrun, hoe]


end State

/-- A write of a register with no write-one-to-clear bit. -/
theorem RegBits.write_rw {b : RegBits} (old v : Word) (h : b.w1c = 0#32) : b.write old v = (old &&& ~~~b.rw) ||| (v &&& b.rw) := by
  rw [RegBits.write, h, BitVec.zero_and, BitVec.not_zero, BitVec.and_allOnes]

namespace State

/-- A write of `PT_SWAPREQ` asks for the swap where GO is written in an enabled partition. -/
theorem writePt_swapreq (s : State) (p : Nat) (v : Word) : s.writePt p 0x01A v =
    if v.getLsbD 1 && (s.ptReg p 0).getLsbD 0 then
      (s.setPtReg p 0x01A ((ptBits 0x01A).write (s.ptReg p 0x01A) v)).swapRequest p (bits ((ptBits 0x01A).write (s.ptReg p 0x01A) v) 0 1)
    else s.setPtReg p 0x01A ((ptBits 0x01A).write (s.ptReg p 0x01A) v) := rfl

/-- A write of a vacation mask changes the mask's clusters. -/
theorem writePt_vac (s : State) (p : Nat) {d : Nat} (hd : d < 4) (v : Word) :
    s.writePt p (0x00E + d) v = s.writeVac p d ((s.ptReg p (0x00E + d) &&& 0xFFF00000) ||| (v &&& 0xFFFFF)) := by
  have hr : ptBits (0x00E + d) = { rw := 0xFFFFF } := by
    interval_cases d <;> rfl
  have hnew : (ptBits (0x00E + d)).write (s.ptReg p (0x00E + d)) v = (s.ptReg p (0x00E + d) &&& 0xFFF00000) ||| (v &&& 0xFFFFF) := by
    rw [hr, RegBits.write_rw _ _ rfl]
    rfl
  rw [← hnew]
  interval_cases d <;> rfl

/-- A write of GO to `CT_CPCTL` starts the program. -/
theorem writeCt_go (s : State) (g : RegAgent) (c : Nat) :
    s.writeCt g c 0x009 1 = (s.setCtReg c 9 ((ctBits 9).write (s.ctReg c 9) 1)).cpStart c := rfl

/-- RUN of `CT_CPCTL` is not written. -/
theorem cpctl_run (v : Word) : ((ctBits 9).write v 1).getLsbD 1 = v.getLsbD 1 := by
  rw [RegBits.write, show ctBits 9 = { w1c := 0xC } from rfl]
  simp

theorem cpStart_runs {s : State} {c : Nat} (hc : c < 16) (hl : s.ctxs.length = 16) (h : (s.ctReg c 0x009).getLsbD 1 = true) :
    Occurs (.cpStart c) s fun r => (r.ctx c).cp = (s.ctx c).cp := by
  have hlt : c < s.ctxs.length := by omega
  refine ⟨_, unitEvent_next hc rfl, ?_⟩
  rw [writeCt_go, cpStart, ctReg_setCtReg hlt, if_pos rfl, cpctl_run, h]
  exact ctx_setCtReg_cp hlt ..

/-- The thread of a command processor as its program starts. -/
def startAt (w : Wave) (pc : DWord) : Wave :=
  { w with
    threads := w.threads.mapIdx fun l t => if l = 0 then { t with pc := pc, cpos := 0, chdr := 0, stat := .running, kind := 0 } else t,
    groups := [1] }

theorem startAt_th {w : Wave} (h : 0 < w.threads.length) (pc : DWord) :
    ((startAt w pc).th 0).stat = .running ∧ ((startAt w pc).th 0).chdr = 0 ∧ ((startAt w pc).th 0).pc = pc := by
  simp [startAt, Wave.th, List.getElem?_mapIdx, List.getElem?_eq_getElem h]

theorem putCtx_startAt {u : State} {c : Nat} (hu : c < u.ctxs.length) (pc : DWord) (h : 0 < (u.ctx c).cp.threads.length) :
    let r := u.putCtx c { u.ctx c with cp := startAt (u.ctx c).cp pc }
    (∀ i, r.ctReg c i = u.ctReg c i) ∧ ((r.ctx c).cp.th 0).stat = .running ∧ ((r.ctx c).cp.th 0).chdr = 0 ∧ ((r.ctx c).cp.th 0).pc = pc ∧
      (r.ctx c).cp.k = (u.ctx c).cp.k := by
  intro r
  have hr : r.ctx c = { u.ctx c with cp := startAt (u.ctx c).cp pc } := ctx_putCtx hu _
  obtain ⟨hs, hh, hp⟩ := startAt_th h pc
  exact ⟨fun i => ctReg_of_reg (by rw [hr]) i, hr ▸ hs, hr ▸ hh, hr ▸ hp, by rw [hr]; rfl⟩

theorem ofNat_bits_25 (x : Word) : BitVec.ofNat 32 (bits x 0 25) = x &&& 0x01FFFFFF := by
  apply BitVec.eq_of_toNat_eq
  rw [BitVec.toNat_and, show (0x01FFFFFF : Word).toNat = 2 ^ 25 - 1 from rfl, Nat.and_two_pow_sub_one_eq_mod, BitVec.toNat_ofNat, bits]
  omega

theorem cpStart_starts {s : State} {c : Nat} (hc : c < 16) (hl : s.ctxs.length = 16) (h : (s.ctReg c 0x009).getLsbD 1 = false)
    (ht : 0 < (s.ctx c).cp.threads.length) : Occurs (.cpStart c) s fun r =>
      (r.ctReg c 0x009).getLsbD 1 = true ∧ ((r.ctx c).cp.th 0).stat = .running ∧ ((r.ctx c).cp.th 0).chdr = 0 ∧
        ((r.ctx c).cp.th 0).pc = pair (s.ctReg c 0x007) (s.ctReg c 0x008 &&& 0x01FFFFFF) ∧ (r.ctx c).cp.k = (s.ctx c).cp.k := by
  have hlt : c < s.ctxs.length := by omega
  have hlt' : c < (s.setCtReg c 9 ((ctBits 9).write (s.ctReg c 9) 1)).ctxs.length := by rwa [setCtReg_ctxs_length]
  refine ⟨_, unitEvent_next hc rfl, ?_⟩
  rw [writeCt_go, cpStart, ctReg_setCtReg hlt, if_pos rfl, cpctl_run, h]
  dsimp only
  rw [if_neg Bool.false_ne_true, modAgent_cp (by rwa [setCtReg_ctxs_length])]
  generalize (ctBits 9).write (s.ctReg c 9) 1 = v at hlt' ⊢
  have hu : c < ((s.setCtReg c 9 v).setCtReg c 9 (v ||| 2)).ctxs.length := by rwa [setCtReg_ctxs_length]
  have hth := ctx_setCtReg_cp hlt' 9 (v ||| 2) ▸ ctx_setCtReg_cp hlt 9 v
  have h7 : ((s.setCtReg c 9 v).setCtReg c 9 (v ||| 2)).ctReg c 7 = s.ctReg c 7 := by
    rw [ctReg_setCtReg hlt', if_neg (by decide), ctReg_setCtReg hlt, if_neg (by decide)]
  have h8 : ((s.setCtReg c 9 v).setCtReg c 9 (v ||| 2)).ctReg c 8 = s.ctReg c 8 := by
    rw [ctReg_setCtReg hlt', if_neg (by decide), ctReg_setCtReg hlt, if_neg (by decide)]
  have h9 : ((s.setCtReg c 9 v).setCtReg c 9 (v ||| 2)).ctReg c 9 = v ||| 2 := by
    rw [ctReg_setCtReg hlt', if_pos rfl]
  rw [h7, h8]
  generalize (s.setCtReg c 9 v).setCtReg c 9 (v ||| 2) = u at hu hth h9 ⊢
  rw [ofNat_bits_25]
  have h1 : (u.ctReg c 9).getLsbD 1 = true := by
    rw [h9]
    simp
  obtain ⟨hr, hs, hh, hp, hk⟩ := putCtx_startAt hu (pair (s.ctReg c 7) (s.ctReg c 8 &&& 0x01FFFFFF)) (hth ▸ ht) 
  exact ⟨(congrArg (·.getLsbD 1) (hr 9)).trans h1, hs, hh, hp, hk.trans (congrArg Wave.k hth)⟩

theorem preemptTimeout_occurs {s : State} {k : WaveKey} {v : Wave} {n : Nat} (hw : s.wave? k = some v) (hs : v.stopReq = some n) (hn : 16384 ≤ n)
    (htm : v.tm = true) (hd : v.done = false) (hc : k.team.grid.ctx < s.ctxs.length) :
    Occurs (.preemptTimeout k) s fun r => State.HaltsWith s r k.team.grid.ctx Cause.preemptTimeout ∧
      ∃ w, r.wave? k = some w ∧ w.code = 0x19 := by
  have he : exec (.preemptTimeout k) s = .next ((s.putWave k (v.setCause Cause.preemptTimeout 0)).raiseHalt k.team.grid.ctx
      (s.haltHeader (.wave k) Cause.preemptTimeout 0 0 (v.th (lowLane v.lead)).pc v.lead)) := by
    refine (show exec (.preemptTimeout k) s = execPreemptTimeout k s from rfl).trans (event_next ?_)
    simp only [hw, hs]
    exact if_neg (by simp [htm, hd, hn])
  refine ⟨_, he, fun hh => ?_, ?_⟩
  · have hctx := putAgent_wave_ctxs s k (v.setCause Cause.preemptTimeout 0)
    exact raiseHalt_halt (by rwa [show (s.putWave k (v.setCause Cause.preemptTimeout 0)).ctxs = s.ctxs from hctx])
      (by rw [← hh]; simp only [halted, ctReg, ctx_of_ctxs (t := s.putWave k (v.setCause Cause.preemptTimeout 0)) hctx]) _
  · refine ⟨v.setCause Cause.preemptTimeout 0, ?_, rfl⟩
    have hput := agent?_putAgent (a := .wave k) (v := v) hw (v.setCause Cause.preemptTimeout 0)
    simp only [wave?, team?, raiseHalt_teams]
    exact hput

end State

/-- Settles O57: what a halt, the exchange and the end of a swap leave, the requests of a swap, the start of a program, and pre-emption. -/
theorem swapEvents : Obligations.SwapEvents := by
  unfold Obligations.SwapEvents
  refine ⟨?_, ?_, ?_, ?_, ?_, ?_, ?_, ?_, ?_⟩
  · intro s c h hc hl hh hw
    exact State.completeHalt_occurs hc hl hh hw
  · intro s p w hp hl hw he hq
    exact State.exchange_occurs hp hl hw he hq
  · intro s p w hp hl hcl hi hw he hb
    refine ⟨s.restored p w, unitEvent_next hp ?_, ?_, ?_, ?_, ?_, ?_, ?_, ?_⟩
    · rw [State.restore_eq hw he, hb]
    · exact (State.restored_part (by omega) w).1
    · obtain ⟨x, hx⟩ := State.restoreRegs_incoming p (w := w) (hcl ▸ hi : w.incoming < s.ctxs.length)
      rw [State.restored_ctReg, hx, getLsbD_setBits _ _ (by decide)]
      rfl
    · intro o ho hne hlt
      rw [State.restored_ctReg, State.restoreRegs_outgoing p (by omega) ho hne, getLsbD_setBits _ _ (by decide)]
      rfl
    · rw [State.restored_ptReg (by omega), getLsbD_setBits _ _ (by decide), getLsbD_setBits _ _ (by decide), getLsbD_setBits _ _ (by decide)]
      rcases Nat.mod_two_eq_zero_or_one w.incoming with h | h <;> rw [h] <;> rfl
    · rw [State.restored_ptReg (by omega), getLsbD_setBits _ _ (by decide), getLsbD_setBits _ _ (by decide)]
      rfl
    · rw [State.restored_ptReg (by omega), getLsbD_setBits _ _ (by decide)]
      rfl
    · exact (State.sameStore_restored s p w).memory
  · intro s p w hp hl hcl hw he hb hi
    refine ⟨fun ho => ?_, fun o ho hpo hne hv h3 => ?_⟩
    · refine ⟨s.restored p w, unitEvent_next hp ?_, (State.restored_part (by omega) w).1⟩
      rw [State.restore_eq hw he, hb, ho]
    · refine ⟨_, unitEvent_next hp ?_, State.restored_swapBack (by omega) hi (by omega) ho hpo hne hv h3⟩
      rw [State.restore_eq hw he, hb, ho]
  · intro s p c hp v
    refine unitEvent_next hp (congrArg some ?_)
    have low : BitVec.ofNat 32 (2 + c.toNat) &&& (ptBits 0x01A).rw = c.setWidth 32 := by
      revert c
      decide
    have h1 : (BitVec.ofNat 32 (2 + c.toNat)).getLsbD 1 = true := by
      revert c
      decide
    have hnew : (ptBits 0x01A).write (s.ptReg p 0x01A) (BitVec.ofNat 32 (2 + c.toNat)) = v := by
      rw [RegBits.write_rw _ _ rfl, low]
      rfl
    have hb : bits v 0 1 = c.toNat := by
      have hw : v.setWidth 1 = c := by
        ext i hi
        obtain rfl : i = 0 := by omega
        simp [v]
      rw [bits, pow_zero, Nat.div_one, ← BitVec.toNat_setWidth, hw]
    rw [State.writePt_swapreq, hnew, h1, hb]
    rfl
  · intro s p c hs hr
    exact State.swapRequest_begins hs hr
  · intro s c hc hl
    exact ⟨fun h hth => State.cpStart_starts hc hl h hth, fun h => State.cpStart_runs hc hl h⟩
  · intro s p die cl hp hd hcl
    refine (show exec (.vacateCluster p die cl) s = execVacateCluster p die cl s from rfl).trans ?_
    rw [execVacateCluster, if_neg (by simp; omega)]
    refine event_next (congrArg some ?_)
    exact State.writePt_vac s p hd _
  · intro s k v n hw hs hn htm hd hc
    exact State.preemptTimeout_occurs hw hs hn htm hd hc

end Sys2Proof.Machine
end

section
/-! PROOF. Gating, ratios, droop, buckets, the governor, heat and power intents (O58). -/

namespace Sys2Proof.Machine

open Sys2Proof

theorem ratioChoice_rules (h e d : Nat) (old : BitVec 2) : ratioChoice 0 0 0 old = old ∧ (0 < e → h ≤ e → d ≤ e → ratioChoice h e d old = 2) ∧
    (e < h → d < h → ratioChoice h e d old = 1) ∧ (e < d → h < d → ratioChoice h e d old = 3) ∧
    (e < h → h = d → ratioChoice h e d old = 2) := by
  refine ⟨rfl, fun h0 h1 h2 => ?_, fun h1 h2 => ?_, fun h1 h2 => ?_, fun h1 h2 => ?_⟩
  · have hm : max h (max e d) = e := by omega
    simp [ratioChoice, hm, Nat.ne_of_gt h0]
  · have hm : max h (max e d) = h := by omega
    have h0 : h ≠ 0 := by omega
    simp [ratioChoice, hm, h0, Nat.ne_of_lt h1, Nat.ne_of_lt h2]
  · have hm : max h (max e d) = d := by omega
    have h0 : d ≠ 0 := by omega
    simp [ratioChoice, hm, h0, Nat.ne_of_lt h1, Nat.ne_of_lt h2]
  · have hm : max h (max e d) = h := by omega
    have h0 : h ≠ 0 := by omega
    subst h2
    have h3 : max e h = h := by omega
    simp [ratioChoice, h0, h3, Nat.ne_of_lt h1]

theorem Cluster.trip_stretched {c : Cluster} (h : c.stretched = true) (now : Nat) : c.trip now =
    { c with
      halved := if c.halfIssue then 66 else 65, trips := c.trips.filter (fun t => decide (now < t + 16000)) ++ [now]
      stretch := 6 + (if c.ratio = 3 then 2 else 1) } := if_pos h

theorem Cluster.trip_unstretched {c : Cluster} (h : c.stretched = false) (now : Nat) : c.trip now =
    { c with
      halved := if c.halfIssue then 66 else 65, trips := c.trips.filter (fun t => decide (now < t + 16000)) ++ [now]
      stretch := 6, stretchAt := if c.ratio = 1 then c.cyc + 2 - c.cyc % 2 else c.cyc + 1 } := if_neg (Bool.eq_false_iff.1 h)

theorem Cluster.trip_spec (c : Cluster) (now : Nat) :
    (c.stretched = false → (c.trip now).stretch = 6 ∧ (c.trip now).stretchAt = if c.ratio = 1 then 2 * (c.cyc / 2 + 1) else c.cyc + 1) ∧
    (c.stretched = true → (c.trip now).stretchAt = c.stretchAt ∧ (c.trip now).stretch = 6 + if c.ratio = 3 then 2 else 1) ∧
    (c.trip now).trips = (c.trips.filter fun t => decide (now < t + 16000)) ++ [now] ∧ 65 ≤ (c.trip now).halved ∧
    { (c.trip now) with stretch := c.stretch, stretchAt := c.stretchAt, halved := c.halved, trips := c.trips } = c := by
  have h65 : 65 ≤ if c.halfIssue then 66 else 65 := by split <;> decide
  cases h : c.stretched with
  | true =>
    rw [trip_stretched h]
    exact ⟨fun h => (nomatch h), fun _ => ⟨rfl, rfl⟩, rfl, h65, rfl⟩
  | false =>
    rw [trip_unstretched h]
    refine ⟨fun _ => ⟨rfl, ?_⟩, fun h => (nomatch h), rfl, h65, rfl⟩
    show (if c.ratio = 1 then c.cyc + 2 - c.cyc % 2 else c.cyc + 1) = _
    split
    · omega
    · rfl

theorem Cluster.edge_spec {c d : Cluster} {now till : Nat} (h : c.edge now till = some d) :
    d.cyc = c.cyc + 1 ∧ now ≤ d.edgeAt ∧ d.edgeAt < till ∧ c.edgeAt + (if c.ratio = 3 then 10 else 5) * (if c.stretched then 2 else 1) ≤ d.edgeAt ∧
      d.lclk = c.lclk + (if c.ratio = 3 then 2 else if c.ratio = 1 then c.cyc % 2 else 1) ∧
      d.stretch = (if c.stretched then c.stretch - (d.lclk - c.lclk) else c.stretch) ∧
      d.halved = if c.stretch ≠ 0 then min 65 c.halved else if 1 < c.halved then c.halved - 1 else c.halved := by
  unfold Cluster.edge at h
  dsimp only at h
  split at h
  · exact nomatch h
  · next ht =>
    obtain rfl := (Option.some.inj h).symm
    refine ⟨rfl, Nat.le_max_left .., Nat.not_le.1 ht, Nat.le_max_right .., rfl, ?_, rfl⟩
    rw [Nat.add_sub_cancel_left]

/-! Buckets. -/

/-- The remainder of a bucket over the proportional parts, given to the first requests that can take it. -/
def spread (l : List (Nat × Nat)) (acc : List Nat) (left : Nat) : List Nat × Nat :=
  l.foldl (fun (p : List Nat × Nat) q => (p.1 ++ [q.2 + min p.2 (q.1 - q.2)], p.2 - min p.2 (q.1 - q.2))) (acc, left)

theorem sum_map_le {f : Nat → Nat} {ws : List Nat} (hf : ∀ w ∈ ws, f w ≤ w) : (ws.map f).sum ≤ ws.sum := by
  induction ws with
  | nil => exact Nat.le_refl _
  | cons w ws ih =>
    have hw := hf w (.head _)
    have hs := ih fun v hv => hf v (.tail _ hv)
    simp only [List.map_cons, List.sum_cons]
    omega

/-- Every request gets its part and what is left for it, in order. -/
theorem spread_spec {f : Nat → Nat} {ws : List Nat} (hf : ∀ w ∈ ws, f w ≤ w) (acc : List Nat) (left : Nat) :
    ∃ r, (spread (ws.map fun w => (w, f w)) acc left).1 = acc ++ r ∧ r.length = ws.length ∧
      r.sum = (ws.map f).sum + min left (ws.sum - (ws.map f).sum) ∧ ∀ j : Nat, r[j]?.getD 0 ≤ ws[j]?.getD 0 := by
  induction ws generalizing acc left with
  | nil => exact ⟨[], by simp [spread], rfl, by simp, fun _ => Nat.le_refl _⟩
  | cons w ws ih =>
    have hw := hf w (.head _)
    have hs := sum_map_le fun v hv => hf v (.tail w hv)
    obtain ⟨r, hr, hl, hsum, hle⟩ := ih (fun v hv => hf v (.tail w hv)) (acc ++ [f w + min left (w - f w)]) (left - min left (w - f w))
    refine ⟨(f w + min left (w - f w)) :: r, ?_, ?_, ?_, ?_⟩
    · exact hr.trans (List.append_assoc ..)
    · exact congrArg (· + 1) hl
    · simp only [List.map_cons, List.sum_cons, hsum]
      omega
    · rintro (_ | j)
      · show f w + min left (w - f w) ≤ w
        omega
      · exact hle j

/-- The proportional parts do not exceed the bucket. -/
theorem sum_parts_le (b t : Nat) (ws : List Nat) : (ws.map fun w => b * w / t).sum * t ≤ b * ws.sum := by
  induction ws with
  | nil => simp
  | cons w ws ih =>
    simp only [List.map_cons, List.sum_cons, Nat.add_mul, Nat.mul_add]
    exact Nat.add_le_add (Nat.div_mul_le_self ..) ih

theorem grants_spec (b : Nat) (ws : List Nat) : (grants b ws).length = ws.length ∧ (grants b ws).sum = min b ws.sum ∧
    (ws.sum ≤ b → grants b ws = ws) ∧ ∀ j : Nat, (grants b ws)[j]?.getD 0 ≤ ws[j]?.getD 0 := by
  by_cases hle : ws.sum ≤ b
  · have h : grants b ws = ws := if_pos (by rwa [← List.sum_eq_foldl])
    rw [h]
    exact ⟨rfl, by omega, fun _ => rfl, fun _ => Nat.le_refl _⟩
  · have hlt : b < ws.sum := Nat.not_le.1 hle
    have hf : ∀ w ∈ ws, b * w / ws.sum ≤ w := fun w _ =>
      Nat.div_le_of_le_mul (Nat.mul_le_mul_right w (Nat.le_of_lt hlt))
    have hb : (ws.map fun w => b * w / ws.sum).sum ≤ b :=
      Nat.le_of_mul_le_mul_right (sum_parts_le b ws.sum ws) (by omega)
    have h : grants b ws = (spread (ws.map fun w => (w, b * w / ws.sum)) [] (b - (ws.map fun w => b * w / ws.sum).sum)).1 := by
      simp only [grants, ← List.sum_eq_foldl, List.map_prod_left_eq_zip]
      exact if_neg hle
    obtain ⟨r, hr, hl, hsum, hj⟩ := spread_spec hf [] (b - (ws.map fun w => b * w / ws.sum).sum)
    rw [h, hr, List.nil_append]
    refine ⟨hl, ?_, fun h => absurd h hle, hj⟩
    rw [hsum]
    omega

/-! Shares. -/

theorem sum_modify_add (l : List Int) {i : Nat} (hi : i < l.length) (n : Int) : (l.modify i (· + n)).sum = l.sum + n := by
  induction l generalizing i with
  | nil => exact absurd hi (Nat.not_lt_zero _)
  | cons x l ih =>
    cases i with
    | zero =>
      simp only [List.modify_zero_cons, List.sum_cons]
      omega
    | succ i =>
      simp only [List.modify_succ_cons, List.sum_cons, ih (Nat.lt_of_succ_lt_succ hi)]
      omega

theorem lowestShare_lt {sh : List Int} (h : 0 < sh.length) : lowestShare sh < sh.length := by
  have key : ∀ (l : List Nat) (b : Nat), b < sh.length → (∀ j ∈ l, j < sh.length) →
      l.foldl (fun b j => if sh[j]?.getD 0 < sh[b]?.getD 0 then j else b) b < sh.length := by
    intro l
    induction l with
    | nil => exact fun b hb _ => hb
    | cons j l ih =>
      intro b hb hl
      refine ih _ ?_ fun i hi => hl i (.tail _ hi)
      dsimp only
      split
      · exact hl j (.head _)
      · exact hb
  exact key _ 0 h fun j hj => List.mem_range.1 hj

theorem giveLowest_spec (n : Nat) {sh : List Int} (h : 0 < sh.length) : (giveLowest sh n).length = sh.length ∧ (giveLowest sh n).sum = sh.sum + n := by
  induction n generalizing sh with
  | zero => simp [giveLowest]
  | succ n ih =>
    obtain ⟨hl, hs⟩ := ih (sh := sh.modify (lowestShare sh) (· + 1)) (by simpa using h)
    refine ⟨by rw [giveLowest, hl, List.length_modify], ?_⟩
    rw [giveLowest, hs, sum_modify_add _ (lowestShare_lt h)]
    omega

theorem sum_set_int (l : List Int) {i : Nat} (hi : i < l.length) (v : Int) : (l.set i v).sum = l.sum - l[i]?.getD 0 + v := by
  induction l generalizing i with
  | nil => exact absurd hi (Nat.not_lt_zero _)
  | cons x l ih =>
    cases i with
    | zero =>
      simp only [List.set_cons_zero, List.sum_cons, List.getElem?_cons_zero, Option.getD_some]
      omega
    | succ i =>
      simp only [List.set_cons_succ, List.sum_cons, List.getElem?_cons_succ, ih (Nat.lt_of_succ_lt_succ hi)]
      omega

/-- What exceeds 16,384 in a share passes to the lowest. -/
def passExcess (sh : List Int) (j : Nat) : List Int :=
  if sh[j % 4]?.getD 0 - 16384 ≤ 0 then sh
  else (sh.set (j % 4) 16384).modify (lowestShare (sh.set (j % 4) 16384)) (· + (sh[j % 4]?.getD 0 - 16384))

theorem passExcess_spec {sh : List Int} (h : sh.length = 4) (j : Nat) : (passExcess sh j).length = 4 ∧ (passExcess sh j).sum = sh.sum := by
  unfold passExcess
  split
  · exact ⟨h, rfl⟩
  · refine ⟨by simpa using h, ?_⟩
    rw [sum_modify_add _ (lowestShare_lt (by simp [h])), sum_set_int _ (by omega)]
    omega

theorem divideGrant_sum (a b c d : Int) (g : Nat) : (divideGrant [a, b, c, d] g).sum = a + b + c + d + g := by
  have pass : ∀ (l : List Nat) (sh : List Int), sh.length = 4 → (l.foldl passExcess sh).sum = sh.sum := by
    intro l
    induction l with
    | nil => exact fun _ _ => rfl
    | cons j l ih =>
      intro sh hsh
      obtain ⟨hl, hs⟩ := passExcess_spec hsh j
      exact (ih _ hl).trans hs
  obtain ⟨hl, hs⟩ := giveLowest_spec (g % 4) (sh := [a, b, c, d].map (· + ((g / 4 : Nat) : Int))) (by simp)
  refine (pass (List.range 16) _ hl).trans ?_
  rw [hs]
  simp only [List.map_cons, List.map_nil, List.sum_cons, List.sum_nil]
  omega

/-! The governor. -/

namespace State

theorem pwReg_setPwReg (s : State) (i j : Nat) (v : Word) : (s.setPwReg i v).pwReg j = if j = i then v else s.pwReg j := Tab.get_put ..

theorem setRate_fields (s : State) (n : Nat) :
    (s.setRate n).rate = n ∧ (s.setRate n).govAt = s.govAt ∧ (∀ i, i ≠ 3 → (s.setRate n).pwReg i = s.pwReg i) ∧
      (n < 2 ^ 32 → ((s.setRate n).pwReg 3).toNat = n) ∧ s.SameStore (s.setRate n) := by
  unfold setRate
  by_cases hn : n < 2 ^ 32
  · rw [if_pos hn]
    refine ⟨rfl, rfl, fun i hi => ?_, fun _ => ?_, SameStore.of_cores rfl rfl rfl⟩
    · exact (Tab.get_put ..).trans (if_neg hi)
    · show ((s.pw.put 0 3 (BitVec.ofNat 32 n)).get 0 3).toNat = n
      rw [Tab.get_put, if_pos rfl, BitVec.toNat_ofNat, Nat.mod_eq_of_lt hn]
  · rw [if_neg hn]
    refine ⟨rfl, rfl, fun i hi => ?_, fun h => absurd h hn, SameStore.of_cores rfl rfl rfl⟩
    exact (Tab.get_put ..).trans (if_neg hi)

theorem sampleReserve_fields (s : State) :
    s.sampleReserve.rate = s.rate ∧ s.sampleReserve.govAt = s.govAt ∧ (∀ i, i ≠ 0x00B → s.sampleReserve.pwReg i = s.pwReg i) ∧
      s.SameStore s.sampleReserve :=
  ⟨rfl, rfl, fun _ hi => (Tab.get_put ..).trans (if_neg hi), SameStore.of_cores rfl rfl rfl⟩

theorem budget_of_pwReg {s t : State} (h : t.pwReg 1 = s.pwReg 1) : t.budget = s.budget := by rw [budget, h, budget]

/-- The check of the reserve after a step leaves RATE, or limits it to the budget. -/
theorem reserveEmpty_fields {s : State} (before : Nat) (hr : s.rate < 2 ^ 32 → (s.pwReg 3).toNat = s.rate) :
    (s.reserveEmpty before).govAt = s.govAt ∧ (∀ i, i ≠ 3 → (s.reserveEmpty before).pwReg i = s.pwReg i) ∧
      ((s.reserveEmpty before).reserve ≠ 0 → (s.reserveEmpty before).rate = s.rate) ∧
      ((s.reserveEmpty before).reserve = 0 → (s.reserveEmpty before).rate ≤ s.budget) ∧
      ((s.reserveEmpty before).rate < 2 ^ 32 → ((s.reserveEmpty before).pwReg 3).toNat = (s.reserveEmpty before).rate) ∧
      s.SameStore (s.reserveEmpty before) := by
  unfold reserveEmpty
  by_cases h : s.reserve = 0
  · rw [if_pos h]
    obtain ⟨hrate, hgov, hpw, h3, hm⟩ := setRate_fields s (if before = 0 then min s.rate s.budget else s.budget)
    refine ⟨hgov, hpw, fun hne => absurd ?_ hne, fun _ => ?_, ?_, hm⟩
    · rw [reserve, hpw 0x00B (by decide)]
      exact h
    · rw [hrate]
      split <;> omega
    · rw [hrate]
      exact h3
  · rw [if_neg h]
    exact ⟨rfl, fun _ _ => rfl, fun _ => rfl, fun h' => absurd h' h, hr, SameStore.refl s⟩

theorem budget_lt (s : State) : s.budget < 2 ^ 32 := by
  have h : bits (s.pwReg 1) 0 12 < 2 ^ 12 := Nat.mod_lt _ (by decide)
  unfold budget
  omega

theorem SameStore.putCore_gated (s : State) (c : Nat) (b : Bool) : s.SameStore (s.putCore c { s.core c with gated := b }) := by
  refine ⟨rfl, rfl, fun d => ?_⟩
  rw [core_putCore]
  split
  · next h => rw [h]
  · rfl

/-- A core that does not gate. -/
def wakened (x : Core) : Core := { x with gated := false }

theorem core_wakeAll (s : State) (c : Nat) : s.wakeAll.core c = wakened (s.core c) := Tab.get_map wakened {} s.cores c

/-- Clearing CGATE wakes every core. -/
theorem writePw_cgate (s : State) :
    ((s.writePw 0 (s.pwReg 0 &&& ~~~1)).pwReg 0).getLsbD 0 = false ∧ (∀ c, ((s.writePw 0 (s.pwReg 0 &&& ~~~1)).core c).gated = false) ∧
      s.SameStore (s.writePw 0 (s.pwReg 0 &&& ~~~1)) := by
  have hv : (s.pwReg 0 &&& ~~~1).getLsbD 0 = false := by simp
  have he : s.writePw 0 (s.pwReg 0 &&& ~~~1) = (s.setPwReg 0 ((pwBits 0).write (s.pwReg 0) (s.pwReg 0 &&& ~~~1))).wakeAll := by
    unfold writePw
    rw [hv]
    rfl
  rw [he]
  refine ⟨?_, ?_, ?_⟩
  · show ((s.pw.put 0 0 ((pwBits 0).write (s.pwReg 0) (s.pwReg 0 &&& ~~~1))).get 0 0).getLsbD 0 = false
    rw [Tab.get_put, if_pos rfl, RegBits.write_rw _ _ rfl, show (pwBits 0).rw = 0xF from rfl]
    simp
  · exact fun c => by rw [core_wakeAll]; rfl
  · refine ⟨rfl, rfl, fun c => ?_⟩
    rw [core_wakeAll]
    rfl

theorem cluster_putCluster (s : State) (k : Nat) (x : Cluster) : (s.putCluster k x).cluster k = x := (Tab.get_put ..).trans (if_pos rfl)

/-- The count of issued instructions of a cluster's waves begins again. -/
theorem votedTeams_issued {teams : List (TeamKey × Team)} {k : Nat} {p : TeamKey × Team}
    (hp : p ∈ teams.map (fun (p : TeamKey × Team) =>
      if clusterOf p.2.core = k then (p.1, { p.2 with waves := p.2.waves.map (fun (w : Wave) => { w with issued := 0 }) }) else p))
    (hc : clusterOf p.2.core = k) {w : Wave} (hw : w ∈ p.2.waves) : w.issued = 0 := by
  obtain ⟨q, -, rfl⟩ := List.mem_map.1 hp
  split at hw
  · obtain ⟨v, -, rfl⟩ := List.mem_map.1 hw
    rfl
  · next hn => exact absurd (by rwa [if_neg hn] at hc) hn

theorem govRate_spec (s : State) (demand : Nat) (boost : Bool) :
    s.govRate demand boost ≤ s.rate + s.slewStep ∧ s.rate ≤ s.govRate demand boost + s.slewStep ∧
      (s.rate ≤ s.govTarget demand boost → s.rate ≤ s.govRate demand boost ∧ s.govRate demand boost ≤ s.govTarget demand boost) ∧
      (s.govTarget demand boost ≤ s.rate → s.govTarget demand boost ≤ s.govRate demand boost ∧ s.govRate demand boost ≤ s.rate) := by
  unfold govRate
  extract_lets t r
  split
  · split <;> omega
  · omega

theorem slewStep_eq (s : State) : s.slewStep = bits (s.pwReg 2) 0 10 * bits (s.pwReg 1) 0 12 * 10 ^ 6 / 10 ^ 4 := by
  unfold slewStep
  generalize bits (s.pwReg 2) 0 10 * bits (s.pwReg 1) 0 12 = x
  omega

/-- The time of a governor step, and the time above the budget. -/
def stepTime (s : State) (n t : Nat) : State := { s with govAt := n, above := t }

/-- A governor step's change of RATE, with what ballast is charged. -/
def ramped (s : State) (demand : Nat) (boost : Bool) : State :=
  let trough := decide (s.govTarget demand boost + s.slewStep < s.rate)
  let s := s.setRate (s.govRate demand boost)
  let s := s.stepTime (s.govAt + 1000) (if s.budget < s.rate then s.above + 1 else 0)
  if trough && s.ballasts then s.chargeOpen else s

/-- Rows scrubbed as ballast are counted. -/
def countScrubbed (s : State) (rows : Nat) : State :=
  if rows = 0 then s else s.setPwReg 0x00C (BitVec.ofNat 32 (min 0xFFFFFFFF ((s.pwReg 0x00C).toNat + rows)))

theorem stepTime_fields (s : State) (n t : Nat) :
    (s.stepTime n t).rate = s.rate ∧ (s.stepTime n t).govAt = n ∧ (∀ i, (s.stepTime n t).pwReg i = s.pwReg i) ∧ s.SameStore (s.stepTime n t) :=
  ⟨rfl, rfl, fun _ => rfl, SameStore.of_cores rfl rfl rfl⟩

theorem chargeOpen_fields (s : State) :
    s.chargeOpen.rate = s.rate ∧ s.chargeOpen.govAt = s.govAt ∧ (∀ i, s.chargeOpen.pwReg i = s.pwReg i) ∧ s.SameStore s.chargeOpen :=
  ⟨rfl, rfl, fun _ => rfl, SameStore.of_cores rfl rfl rfl⟩

theorem ramped_fields (s : State) (demand : Nat) (boost : Bool) :
    (s.ramped demand boost).rate = s.govRate demand boost ∧ (s.ramped demand boost).govAt = s.govAt + 1000 ∧
      (∀ i, i ≠ 3 → (s.ramped demand boost).pwReg i = s.pwReg i) ∧
      (s.govRate demand boost < 2 ^ 32 → ((s.ramped demand boost).pwReg 3).toNat = s.govRate demand boost) ∧ s.SameStore (s.ramped demand boost) := by
  obtain ⟨hrate, hgov, hpw, h3, hm⟩ := setRate_fields s (s.govRate demand boost)
  unfold ramped
  generalize s.setRate (s.govRate demand boost) = u at hrate hgov hpw h3 hm ⊢
  dsimp only
  obtain ⟨hr, hg, hq, hs⟩ := stepTime_fields u (u.govAt + 1000) (if u.budget < u.rate then u.above + 1 else 0)
  generalize u.stepTime (u.govAt + 1000) (if u.budget < u.rate then u.above + 1 else 0) = v at hr hg hq hs ⊢
  obtain ⟨hr', hg', hq', hs'⟩ := chargeOpen_fields v
  split
  · refine ⟨hr'.trans (hr.trans hrate), hg'.trans (by rw [hg, hgov]), fun i hi => (hq' i).trans ((hq i).trans (hpw i hi)), fun h => ?_,
      hm.trans (hs.trans hs')⟩
    rw [hq', hq, h3 h]
  · refine ⟨hr.trans hrate, by rw [hg, hgov], fun i hi => (hq i).trans (hpw i hi), fun h => ?_, hm.trans hs⟩
    rw [hq, h3 h]

theorem countScrubbed_fields (s : State) (rows : Nat) :
    (s.countScrubbed rows).rate = s.rate ∧ (s.countScrubbed rows).govAt = s.govAt ∧ (∀ i, i ≠ 0x00C → (s.countScrubbed rows).pwReg i = s.pwReg i) ∧
      (s.countScrubbed rows).pwReg 0x00C =
        (if rows = 0 then s.pwReg 0x00C else BitVec.ofNat 32 (min (2 ^ 32 - 1) ((s.pwReg 0x00C).toNat + rows))) ∧
      s.SameStore (s.countScrubbed rows) := by
  unfold countScrubbed
  split
  · exact ⟨rfl, rfl, fun _ _ => rfl, rfl, SameStore.refl s⟩
  · exact ⟨rfl, rfl, fun _ hi => (pwReg_setPwReg ..).trans (if_neg hi), (pwReg_setPwReg ..).trans (if_pos rfl), SameStore.of_cores rfl rfl rfl⟩

theorem governorStep_occurs {s : State} {demand rows : Nat} {boost : Bool} (hr : s.ready = true) (ht : s.govAt + 1000 ≤ s.timeRef)
    (hp : s.govAt + 1000 ≤ s.pkgAt) (hrows : rows = 0 ∨ (s.govTarget demand boost + s.slewStep < s.rate ∧ (s.pwReg 0).getLsbD 1 = true)) :
    Occurs (.governorStep demand boost rows) s fun r => r.govAt = s.govAt + 1000 ∧ s.SameMemory r ∧
      (r.reserve ≠ 0 → r.rate = s.govRate demand boost) ∧ (r.reserve = 0 → r.rate ≤ s.budget) ∧
      (r.rate < 2 ^ 32 → (r.pwReg 3).toNat = r.rate) ∧
      r.pwReg 0x00C = (if rows = 0 then s.pwReg 0x00C else BitVec.ofNat 32 (min (2 ^ 32 - 1) ((s.pwReg 0x00C).toNat + rows))) := by
  have hno : ¬ (!s.ready || decide (s.timeRef < s.govAt + 1000) || decide (s.pkgAt < s.govAt + 1000) ||
      (decide (rows ≠ 0) && !(decide (s.govTarget demand boost + s.slewStep < s.rate) && (s.pwReg 0).getLsbD 1))) = true := by
    rw [hr, decide_eq_false (Nat.not_lt.2 ht), decide_eq_false (Nat.not_lt.2 hp)]
    rcases hrows with h | ⟨h, h1⟩
    · rw [decide_eq_false (not_not.2 h)]
      exact Bool.false_ne_true
    · rw [decide_eq_true h, h1]
      simp
  refine ⟨_, (show exec (.governorStep demand boost rows) s = execGovernorStep demand boost rows s from rfl).trans (event_next (if_neg hno)), ?_⟩
  obtain ⟨hrate0, hgov0, hpw0, h30, hm0⟩ := ramped_fields s demand boost
  obtain ⟨hrate1, hgov1, hpw1, hrow, hm1⟩ := countScrubbed_fields (s.ramped demand boost) rows
  have hrate := hrate1.trans hrate0
  have h12 : ((s.ramped demand boost).countScrubbed rows).pwReg 0x00C =
      (if rows = 0 then s.pwReg 0x00C else BitVec.ofNat 32 (min (2 ^ 32 - 1) ((s.pwReg 0x00C).toNat + rows))) := by
    rw [hrow, hpw0 0x00C (by decide)]
  obtain ⟨hrate', hgov', hpw', hm'⟩ := sampleReserve_fields ((s.ramped demand boost).countScrubbed rows)
  obtain ⟨hg, hq, hne, h0, h32, hm''⟩ := reserveEmpty_fields (s := ((s.ramped demand boost).countScrubbed rows).sampleReserve) ((s.ramped demand boost).countScrubbed rows).reserve
    (fun h => by rw [hpw' 3 (by decide), hpw1 3 (by decide), h30 (by rwa [hrate', hrate] at h), hrate', hrate])
  have hb : ((s.ramped demand boost).countScrubbed rows).sampleReserve.budget = s.budget :=
    budget_of_pwReg ((hpw' 1 (by decide)).trans ((hpw1 1 (by decide)).trans (hpw0 1 (by decide))))
  refine ⟨hg.trans (hgov'.trans (hgov1.trans hgov0)), (hm0.trans (hm1.trans (hm'.trans hm''))).memory, fun h => (hne h).trans (hrate'.trans hrate), fun h => (h0 h).trans_eq hb, h32, ?_⟩
  exact (hq 0x00C (by decide)).trans ((hpw' 0x00C (by decide)).trans h12)

/-- The heat of a cluster's cores. -/
def heatCores (s : State) (k h : Nat) : State :=
  (List.range 4).foldl (fun s j => let i := 4 * k + j; s.putCore i { s.core i with heat := h }) s

theorem heatCores_cluster (s : State) (k h n : Nat) : (s.heatCores k h).cluster n = s.cluster n := by
  have hr : (s.heatCores k h).clusters = s.clusters := rfl
  rw [cluster, hr, cluster]

theorem setPwReg_cluster (s : State) (i n : Nat) (v : Word) : (s.setPwReg i v).cluster n = s.cluster n := rfl
theorem setPwReg_core (s : State) (i n : Nat) (v : Word) : (s.setPwReg i v).core n = s.core n := rfl

theorem heatCores_heat (s : State) {k c : Nat} (h : Nat) (hc : clusterOf c = k) : ((s.heatCores k h).core c).heat = h := by
  have hj : c = 4 * k + 0 ∨ c = 4 * k + 1 ∨ c = 4 * k + 2 ∨ c = 4 * k + 3 := by
    unfold clusterOf at hc
    omega
  have hr : s.heatCores k h = [0, 1, 2, 3].foldl (fun s j => s.putCore (4 * k + j) { s.core (4 * k + j) with heat := h }) s := rfl
  rw [hr]
  simp only [List.foldl_cons, List.foldl_nil, core_putCore]
  rcases hj with rfl | rfl | rfl | rfl <;> simp

/-- What a heat update leaves of the cores' heat. -/
theorem heatUpdate_occurs {s : State} {k temp : Nat} (hk : k < 80) (htemp : temp < 256) (ht : (s.cluster k).heatAt + 1000 ≤ s.timeRef) :
    Occurs (.heatUpdate k temp) s fun r =>
      r.cluster k = { s.cluster k with temp := temp, heatAt := (s.cluster k).heatAt + 1000 } ∧
      ∀ c, clusterOf c = k → (r.core c).heat = min 7 ((temp - bits (s.pwReg 6) 0 8) / bits (s.pwReg 6) 8 4 +
        min 3 ((s.cluster k).trips.filter fun t => decide (s.timeRef < t + 16000)).length) := by
  have hno : ¬ (decide (80 ≤ k) || decide (256 ≤ temp)) = true := by
    rw [decide_eq_false (Nat.not_le.2 hk), decide_eq_false (Nat.not_le.2 htemp)]
    exact Bool.false_ne_true
  obtain ⟨i, w, he⟩ : ∃ i w, exec (.heatUpdate k temp) s =
      .next (((s.putCluster k { s.cluster k with temp := temp, heatAt := (s.cluster k).heatAt + 1000 }).heatCores k
        (s.heatOf temp (s.cluster k))).setPwReg i w) :=
    ⟨_, _, (if_neg hno).trans (event_next (if_neg (Nat.not_lt.2 ht)))⟩
  refine ⟨_, he, ?_, fun c hc => ?_⟩
  · rw [setPwReg_cluster, heatCores_cluster, cluster_putCluster]
  · rw [setPwReg_core, heatCores_heat _ _ hc]
    rfl

/-! Power intents. -/

theorem delayed_spec (s : State) (n : Nat) (x : Rise) :
    (s.delayed x n).since = x.since ∧ x.delay ≤ (s.delayed x n).delay ∧ (x.delay ≤ 15 → (s.delayed x n).delay ≤ 15) ∧
      (15 ≤ x.delay + n → (s.delayed x n).delay < 15 → s.timeRef ≤ s.riseStart (s.delayed x n) →
        s.intents.any (s.clashes (s.riseStart (s.delayed x n))) = false) := by
  induction n generalizing x with
  | zero => exact ⟨rfl, Nat.le_refl _, id, fun h h' => absurd h (by simp only [delayed] at h'; omega)⟩
  | succ n ih =>
    unfold delayed
    split
    · next hc =>
      obtain ⟨hs, hd, hle, hn⟩ := ih { x with delay := x.delay + 1 }
      simp only [Bool.and_eq_true, decide_eq_true_eq] at hc
      refine ⟨hs, by dsimp only at hd; omega, fun _ => hle ?_, fun h => hn ?_⟩
      · show x.delay + 1 ≤ 15
        omega
      · show 15 ≤ x.delay + 1 + n
        omega
    · next hc =>
      refine ⟨rfl, Nat.le_refl _, id, fun _ hlt ht => ?_⟩
      simpa [hlt, ht] using hc

theorem delayed_of_calm {s : State} (h : ∀ t, s.intents.any (s.clashes t) = false) (n : Nat) (x : Rise) : s.delayed x n = x := by
  cases n with
  | zero => rfl
  | succ n => exact if_neg (by simp [h])

/-- Once the own rises are delayed, none that may wait longer clashes with a received intent. -/
theorem delayRises_settled (s : State) :
    (∀ x ∈ s.delayRises.rises, x.delay < 15 → s.timeRef ≤ s.riseStart x → ∀ h ∈ s.intents, s.clashes (s.riseStart x) h = false) ∧
    ((∀ x ∈ s.rises, x.delay ≤ 15) → ∀ x ∈ s.delayRises.rises, x.delay ≤ 15) := by
  refine ⟨fun x hx hd ht h hh => ?_, fun hall x hx => ?_⟩
  · obtain ⟨y, -, rfl⟩ := List.mem_map.1 hx
    obtain ⟨-, -, -, hn⟩ := delayed_spec s 15 y
    exact Bool.eq_false_iff.2 (List.any_eq_false.1 (hn (by omega) hd ht) h hh)
  · obtain ⟨y, hy, rfl⟩ := List.mem_map.1 hx
    exact (delayed_spec s 15 y).2.2.1 (hall y hy)

/-- The intent that a module sends. -/
def intentOf (s : State) (plan : List Word) : Intent :=
  { chip := BitVec.ofNat 18 (bits (s.dvReg 1) 0 18), rank := BitVec.ofNat 16 (bits (s.pwReg 0x010) 16 16), seq := s.intentSeq, plan := plan }

/-- An intent is sent, and its interval begins; the rises are still to be delayed. -/
def sendIntent (s : State) (plan : List Word) : State :=
  { s.chargeOpen with
    out := s.out ++ ((List.range 6).filter fun p => (s.dvReg 0x013).getLsbD p).map fun p => .intent p (s.intentOf plan),
    intents := s.intents.map fun (h : Heard) => { h with age := h.age + 1 },
    intentSeq := s.intentSeq + 1, intentAt := s.intentAt + 20000, plan := plan,
    rises := (s.rises.filter fun x => decide (s.timeRef < s.riseStart x)) ++ if risesAt s.rate plan 0 then [{ since := s.intentAt + 20000 }] else [] }

/-- An intent is heard on a port, where it takes the place of the one before it. -/
def heardOn (s : State) (port : Nat) (i : Intent) : State :=
  { s with intents := (s.intents.filter fun h => h.port ≠ port) ++ [s.hear port i] }

theorem sendIntent_rises {s : State} {plan : List Word} {x : Rise} (h : x ∈ (s.sendIntent plan).rises) :
    (x.since = s.intentAt + 20000 ∧ risesAt s.rate plan 0 = true) ∨ ∃ y ∈ s.rises, x.since = y.since ∧ s.timeRef < s.riseStart y := by
  rcases List.mem_append.1 h with h | h
  · obtain ⟨hx, hlt⟩ := List.mem_filter.1 h
    exact .inr ⟨x, hx, rfl, of_decide_eq_true hlt⟩
  · split at h
    · next hr => exact .inl ⟨congrArg Rise.since (List.mem_singleton.1 h), hr⟩
    · exact nomatch h

theorem sendIntent_delays {s : State} (plan : List Word) (hall : ∀ x ∈ s.rises, x.delay ≤ 15) : ∀ x ∈ (s.sendIntent plan).rises, x.delay ≤ 15 := by
  intro x h
  rcases List.mem_append.1 h with h | h
  · exact hall x (List.mem_filter.1 h).1
  · split at h
    · rw [List.mem_singleton.1 h]
      exact Nat.zero_le _
    · exact nomatch h

theorem sendIntent_new {s : State} (plan : List Word) (h : risesAt s.rate plan 0 = true) :
    ({ since := s.intentAt + 20000 } : Rise) ∈ (s.sendIntent plan).rises := by
  refine List.mem_append_right _ ?_
  rw [if_pos h]
  exact .head _

theorem sendIntent_old {s : State} (plan : List Word) {y : Rise} (hy : y ∈ s.rises) (hlt : s.timeRef < s.riseStart y) : y ∈ (s.sendIntent plan).rises :=
  List.mem_append_left _ (List.mem_filter.2 ⟨hy, decide_eq_true hlt⟩)

theorem delayRises_mem {s : State} {y : Rise} (h : y ∈ s.rises) : ∃ x ∈ s.delayRises.rises, x.since = y.since ∧ y.delay ≤ x.delay := by
  obtain ⟨hs, hd, -⟩ := delayed_spec s 15 y
  exact ⟨_, List.mem_map.2 ⟨y, h, rfl⟩, hs, hd⟩

theorem mem_delayRises {s : State} {x : Rise} (h : x ∈ s.delayRises.rises) : ∃ y ∈ s.rises, x.since = y.since := by
  obtain ⟨y, hy, rfl⟩ := List.mem_map.1 h
  exact ⟨y, hy, (delayed_spec s 15 y).1⟩

end State

/-- Settles O58. -/
theorem powerEvents : Obligations.PowerEvents := by
  unfold Obligations.PowerEvents
  intro settled
  refine ⟨?_, ?_, ?_, ratioChoice_rules, ?_, Cluster.trip_spec, fun c d now till h => Cluster.edge_spec h, ?_, ?_, ?_, grants_spec, divideGrant_sum, ?_, ?_,
    ?_, ?_, ?_, ?_, ?_⟩
  · intro s c hc
    refine ⟨fun hg hp hi ht => ?_, fun hg hi => ?_, ?_⟩
    · refine unitEvent_next hc (if_pos ?_)
      simp [hg, hp, hi, ht]
    · refine unitEvent_next hc ((if_pos ?_).trans (congrArg some (if_pos hg)))
      simp [hg, hi]
    · exact (State.SameStore.putCore_gated s c true).memory
  · intro s h
    refine ⟨s.writePw 0 (s.pwReg 0 &&& ~~~1), (show exec .cgateClear s = execCgateClear s from rfl).trans (event_next (if_pos h)), ?_⟩
    obtain ⟨h0, hg, hm⟩ := State.writePw_cgate s
    exact ⟨h0, hg, hm.memory⟩
  · intro s k hk ht
    refine ⟨_, unitEvent_next hk (if_neg (Nat.not_lt.2 ht)), ?_, ?_⟩
    · exact State.cluster_putCluster s k _
    · exact fun p hp hc w hw => State.votedTeams_issued hp hc hw
  · intro s k mv hk
    refine ⟨fun h => unitEvent_next hk (if_pos ?_), fun h0 h1 => unitEvent_next hk (if_pos ?_)⟩
    · rw [State.droopAbove, Bool.or_eq_true]
      simpa using h
    · simp [h0, h1]
  · intro s c hc hr hm d due gs
    refine unitEvent_next hc (if_neg ?_)
    simp [hr, hm]
  · intro s d hd hr hp ht u due gs
    refine unitEvent_next hd (if_neg ?_)
    simp [hr, hp, ht, hd]
  · intro s
    refine ⟨fun q hq => by simpa using (List.mem_filter.1 hq).2, ?_⟩
    show s.pkg - (s.pkgDue.filter fun q => decide (q.1 ≤ s.pkgAt)).foldl (fun n q => n + q.2) 0 = _
    rw [List.sum_eq_foldl, List.foldl_map]
  · intro s n h
    exact (show exec (.packageRefill n) s = execPackageRefill n s from rfl).trans (event_next (if_pos h))
  · intro s demand rows boost hr ht hp hrows
    exact State.governorStep_occurs hr ht hp hrows
  · intro s demand boost rate
    obtain ⟨h1, h2, h3, h4⟩ := State.govRate_spec s demand boost
    exact ⟨h1, h2, h3, h4, State.slewStep_eq s⟩
  · intro s hr hres hrate hp
    have hb : s.budget < 2 ^ 32 := State.budget_lt s
    have hno : ¬ (!s.ready || decide (s.reserve = 0) || decide (s.rate ≤ 2400000000) || decide (s.pkgAt ≠ s.timeRef)) = true := by
      rw [hr, decide_eq_false hres, decide_eq_false (Nat.not_le.2 hrate), decide_eq_false (not_not.2 hp)]
      exact Bool.false_ne_true
    refine ⟨_, (show exec .capacitorReserveExhausted s = execCapacitorReserveExhausted s from rfl).trans (event_next (if_neg hno)), ?_⟩
    obtain ⟨hrate, -, hpw, h3, hm⟩ := State.setRate_fields (s.setPwReg 0x00B (setBits (s.pwReg 0x00B) 0 14 0)) s.budget
    refine ⟨?_, hrate, ?_, ((State.SameStore.of_cores rfl rfl rfl).trans hm).memory⟩
    · rw [State.reserve, hpw 0x00B (by decide), State.pwReg_setPwReg, if_pos rfl, bits_setBits _ (by decide) (by decide)]
    · rw [hrate]
      exact h3 hb
  · intro s k temp hk htemp ht
    exact State.heatUpdate_occurs hk htemp ht
  · intro s plan hon hl ht
    have hno : ¬ (!s.intentsOn || decide (plan.length ≠ 5) || decide (s.timeRef < s.intentAt + 20000)) = true := by
      rw [State.intentsOn, hon, decide_eq_false (not_not.2 hl), decide_eq_false (Nat.not_lt.2 ht)]
      exact Bool.false_ne_true
    refine ⟨(s.sendIntent plan).delayRises,
      (show exec (.powerIntentSend plan) s = execPowerIntentSend plan s from rfl).trans (event_next (if_neg hno)),
      rfl, rfl, rfl, ⟨(State.delayRises_settled _).1, fun hall => (State.delayRises_settled _).2 (State.sendIntent_delays plan hall)⟩,
      fun h => ?_, fun y hy hlt => ?_, fun x hx => ?_, s.intentOf plan, rfl, rfl, ?_, rfl⟩
    · exact (State.delayRises_mem (State.sendIntent_new plan h)).imp fun x hx => ⟨hx.1, hx.2.1⟩
    · exact State.delayRises_mem (State.sendIntent_old plan hy hlt)
    · obtain ⟨y, hy, hs⟩ := State.mem_delayRises hx
      rw [hs]
      exact State.sendIntent_rises hy
    · show (BitVec.ofNat 18 (bits (s.dvReg 1) 0 18)).toNat = _
      rw [BitVec.toNat_ofNat, bits, Nat.mod_mod]
  · intro s port i hp hup
    refine ⟨fun hoff => ?_, fun hon => ?_⟩
    · refine unitEvent_next hp ((if_neg ?_).trans (if_pos ?_))
      · rw [hup]
        exact Bool.false_ne_true
      · rw [State.intentsOn, hoff]
        rfl
    · have hoff : ¬ (!s.intentsOn) = true := by
        rw [State.intentsOn, hon]
        exact Bool.false_ne_true
      have hdown : ¬ (!(s.dvReg 0x013).getLsbD port) = true := by
        rw [hup]
        exact Bool.false_ne_true
      refine ⟨(s.heardOn port i).delayRises, unitEvent_next hp ((if_neg hdown).trans (if_neg hoff)), ?_, fun h hh hport => ?_,
        State.delayRises_settled _, List.length_map .., fun j y hy => ?_, fun hall => ?_, (State.SameStore.of_cores rfl rfl rfl).memory⟩
      · exact List.mem_append_right _ (.head _)
      · rcases List.mem_append.1 hh with h | h
        · exact absurd hport (by simpa using (List.mem_filter.1 h).2)
        · exact List.mem_singleton.1 h
      · obtain ⟨hs, hd, -⟩ := State.delayed_spec (s.heardOn port i) 15 y
        exact ⟨_, (List.getElem?_map ..).trans (congrArg (Option.map _) hy), hs, hd⟩
      · refine (List.map_congr_left fun x _ => State.delayed_of_calm (fun t => ?_) 15 x).trans (List.map_id' _)
        refine List.any_eq_false.2 fun h hh => Bool.eq_false_iff.1 ?_
        have hn : ¬ h.intent.chip.toNat < bits (s.dvReg 1) 0 18 := Nat.not_lt.2 (hall h hh)
        exact congrArg (· && _) (decide_eq_false hn)

end Sys2Proof.Machine
end

section
/-! PROOF. What writes at the home points leave in memory: the bytes, and the L1s. -/

namespace Sys2Proof.Machine

open Sys2Proof

/-- The value that the last of some cells gives to a location, else an old one. -/
def cellsByte (cells : List Host.Cell) (old : Byte) (x : Nat) : Byte := cells.foldl (fun b y => if x = y.1 then y.2 else b) old

theorem cellsByte_of_not_mem {cells : List Host.Cell} {x : Nat} (h : ∀ y ∈ cells, y.1 ≠ x) (old : Byte) : cellsByte cells old x = old := by
  induction cells generalizing old with
  | nil => rfl
  | cons y cells ih =>
    refine (ih (fun z hz => h z (.tail _ hz)) _).trans (if_neg fun hx => h y (.head _) hx.symm)

theorem cellsByte_of_mem {cells : List Host.Cell} {y : Host.Cell} (hy : y ∈ cells) (h : ∀ z ∈ cells, z.1 = y.1 → z.2 = y.2) (old : Byte) :
    cellsByte cells old y.1 = y.2 := by
  induction cells generalizing old with
  | nil => exact nomatch hy
  | cons z cells ih =>
    by_cases hin : y ∈ cells
    · exact ih hin (fun w hw => h w (.tail _ hw)) _
    · obtain rfl : y = z := (List.mem_cons.1 hy).resolve_right hin
      by_cases hk : ∃ w ∈ cells, w.1 = y.1
      · obtain ⟨w, hw, hwy⟩ := hk
        have : w = y := Prod.ext hwy (h w (.tail _ hw) hwy)
        exact absurd (this ▸ hw) hin
      · exact (cellsByte_of_not_mem (fun w hw hwy => hk ⟨w, hw, hwy⟩) _).trans (if_pos rfl)

/-- Bytes at consecutive locations. -/
def cellsAt (a : Nat) (bs : List Byte) : List Host.Cell := bs.mapIdx fun j b => (a + j, b)

theorem mem_cellsAt {a : Nat} {bs : List Byte} {y : Host.Cell} : y ∈ cellsAt a bs ↔ ∃ j, j < bs.length ∧ y = (a + j, bs[j]?.getD 0) := by
  unfold cellsAt
  rw [List.mem_mapIdx]
  constructor
  · rintro ⟨j, hj, rfl⟩
    exact ⟨j, hj, by rw [List.getElem?_eq_getElem hj]; rfl⟩
  · rintro ⟨j, hj, rfl⟩
    exact ⟨j, hj, by rw [List.getElem?_eq_getElem hj]; rfl⟩

/-- What those of the cells that pass a test leave at a location. -/
theorem cellsByte_cellsAt_filter (a : Nat) (bs : List Byte) (ok : Nat → Bool) (old : Byte) (x : Nat) :
    cellsByte ((cellsAt a bs).filter fun y => ok y.1) old x = if a ≤ x ∧ x < a + bs.length ∧ ok x = true then bs[x - a]?.getD 0 else old := by
  have hval : ∀ z ∈ (cellsAt a bs).filter fun y => ok y.1, a ≤ z.1 ∧ z.1 < a + bs.length ∧ ok z.1 = true ∧ z.2 = bs[z.1 - a]?.getD 0 := by
    intro z hz
    obtain ⟨hz, hok⟩ := List.mem_filter.1 hz
    obtain ⟨j, hj, rfl⟩ := mem_cellsAt.1 hz
    exact ⟨by dsimp only; omega, by dsimp only; omega, hok, by dsimp only; rw [Nat.add_sub_cancel_left]⟩
  split
  · next h =>
    obtain ⟨h1, h2, h3⟩ := h
    have hx : (x, bs[x - a]?.getD 0) ∈ (cellsAt a bs).filter fun y => ok y.1 :=
      List.mem_filter.2 ⟨mem_cellsAt.2 ⟨x - a, by omega, by rw [Nat.add_sub_cancel' h1]⟩, h3⟩
    refine cellsByte_of_mem hx (fun z hz hzx => ?_) old
    obtain ⟨-, -, -, hz⟩ := hval z hz
    rw [hz, hzx]
  · next h =>
    refine cellsByte_of_not_mem (fun z hz hzx => h ?_) old
    obtain ⟨h1, h2, h3, -⟩ := hval z hz
    exact hzx ▸ ⟨h1, h2, h3⟩

namespace State

theorem homeByte_of_tables {s t : State} (hh : t.home = s.home) (hl : t.llc = s.llc) (x : Nat) : t.homeByte x = s.homeByte x := by
  rw [homeByte, homeByte, hh, hl]

theorem countHeld_llc (s : State) (a : Nat) : (s.countHeld a).llc = s.llc := by
  unfold countHeld
  split
  · split
    · exact modTeam_llc ..
    · rfl
  · rfl

theorem homeByte_countHeld (s : State) (a x : Nat) : (s.countHeld a).homeByte x = s.homeByte x :=
  homeByte_of_tables (countHeld_home s a) (countHeld_llc s a) x

/-- Cells written one after another leave the last value of each location. -/
theorem homeByte_homeCells (s : State) (cells : List Host.Cell) (wt : Bool) (x : Nat) :
    (s.homeCells cells wt).homeByte x = cellsByte cells (s.homeByte x) x := by
  have key : ∀ (cells : List Host.Cell) (s : State),
      (cells.foldl (fun s y => s.homeWrite y.1 y.2 wt) s).homeByte x = cellsByte cells (s.homeByte x) x := by
    intro cells
    induction cells with
    | nil => exact fun _ => rfl
    | cons y cells ih =>
      intro s
      exact (ih _).trans (by rw [homeByte_homeWrite]; rfl)
  unfold homeCells
  split
  · rfl
  · exact (key _ _).trans (by rw [homeByte_countHeld])

theorem homeByte_homeWrites (s : State) (a : Nat) (bs : List Byte) (wt : Bool) (x : Nat) :
    (s.homeWrites a bs wt).homeByte x = if a ≤ x ∧ x < a + bs.length then bs[x - a]?.getD 0 else s.homeByte x := by
  refine (homeByte_homeCells s (cellsAt a bs) wt x).trans ?_
  have h := cellsByte_cellsAt_filter a bs (fun _ => true) (s.homeByte x) x
  simpa using h

/-- A record leaves its bytes, but for those of an object on which something waits. -/
theorem homeByte_recordWrites (s : State) (a : Nat) (bs : List Byte) (wt : Bool) (x : Nat) :
    (s.recordWrites a bs wt).homeByte x = if a ≤ x ∧ x < a + bs.length ∧ s.objWaited x = false then bs[x - a]?.getD 0 else s.homeByte x := by
  unfold recordWrites
  simp only
  split
  · refine (homeByte_homeCells ..).trans ?_
    simpa [cellsAt] using cellsByte_cellsAt_filter a bs (fun y => !s.objWaited y) (s.homeByte x) x
  · next h =>
    rw [homeByte_homeWrites]
    refine if_congr (and_congr_right fun h1 => ⟨fun h2 => ⟨h2, ?_⟩, fun h2 => h2.1⟩) rfl rfl
    have hx : (x, bs[x - a]?.getD 0) ∈ cellsAt a bs := mem_cellsAt.2 ⟨x - a, by omega, by rw [Nat.add_sub_cancel' h1]⟩
    exact Bool.eq_false_iff.2 fun hw => h (List.any_eq_true.2 ⟨_, hx, hw⟩)

/-! What else they leave. -/

/-- Only memory changed: bytes at home points, the poison there, and what row slots hold for their close. -/
def OnlyHome (s t : State) : Prop := t = { s with teams := t.teams, home := t.home, llc := t.llc, poison := t.poison }

namespace OnlyHome

theorem refl (s : State) : s.OnlyHome s := rfl

theorem trans {s t u : State} (h : s.OnlyHome t) (g : t.OnlyHome u) : s.OnlyHome u := by
  unfold OnlyHome at *
  rw [g, h]

theorem eq {s t : State} (h : s.OnlyHome t) : t = { s with teams := t.teams, home := t.home, llc := t.llc, poison := t.poison } := h
theorem cores {s t : State} (h : s.OnlyHome t) : t.cores = s.cores := (congrArg State.cores h.eq :)
theorem core {s t : State} (h : s.OnlyHome t) (c : Nat) : t.core c = s.core c := by rw [State.core, h.cores, State.core]
theorem waiters {s t : State} (h : s.OnlyHome t) : t.waiters = s.waiters := (congrArg State.waiters h.eq :)
theorem parts {s t : State} (h : s.OnlyHome t) : t.parts = s.parts := (congrArg State.parts h.eq :)
theorem ctxs {s t : State} (h : s.OnlyHome t) : t.ctxs = s.ctxs := (congrArg State.ctxs h.eq :)
theorem dv {s t : State} (h : s.OnlyHome t) : t.dv = s.dv := (congrArg State.dv h.eq :)
theorem out {s t : State} (h : s.OnlyHome t) : t.out = s.out := (congrArg State.out h.eq :)
theorem objWaited {s t : State} (h : s.OnlyHome t) (a : Nat) : t.objWaited a = s.objWaited a := by rw [State.objWaited, h.waiters, State.objWaited]
theorem ptReg {s t : State} (h : s.OnlyHome t) (p i : Nat) : t.ptReg p i = s.ptReg p i := by rw [State.ptReg, part, h.parts, State.ptReg, part]

theorem modTeam (s : State) (k : TeamKey) (f : Team → Team) : s.OnlyHome (s.modTeam k f) := by
  unfold State.modTeam
  split <;> rfl

theorem homeWrite (s : State) (a : Nat) (b : Byte) (wt : Bool) : s.OnlyHome (s.homeWrite a b wt) := by
  have put : ∀ u : State, s.OnlyHome u →
      s.OnlyHome (if wt then { u with llc := u.llc.del a, home := u.home.put 0 a b } else { u with llc := u.llc.ins a b }) := by
    intro u hu
    refine hu.trans ?_
    split <;> rfl
  unfold State.homeWrite
  split
  · apply put
    split
    · exact modTeam ..
    · exact refl s
  · rfl

theorem homeCells (s : State) (cells : List Host.Cell) (wt : Bool) : s.OnlyHome (s.homeCells cells wt) := by
  have key : ∀ (cells : List Host.Cell) (u : State), s.OnlyHome u → s.OnlyHome (cells.foldl (fun s y => s.homeWrite y.1 y.2 wt) u) := by
    intro cells
    induction cells with
    | nil => exact fun _ h => h
    | cons y cells ih => exact fun u h => ih _ (h.trans (homeWrite ..))
  unfold State.homeCells
  split
  · exact refl s
  · refine key _ _ ?_
    unfold countHeld
    split
    · split
      · exact modTeam ..
      · exact refl s
    · exact refl s

theorem homeWrites (s : State) (a : Nat) (bs : List Byte) (wt : Bool) : s.OnlyHome (s.homeWrites a bs wt) :=
  (homeCells s (cellsAt a bs) wt).trans rfl

theorem recordWrites (s : State) (a : Nat) (bs : List Byte) (wt : Bool) : s.OnlyHome (s.recordWrites a bs wt) := by
  unfold State.recordWrites
  simp only
  split
  · exact homeCells ..
  · exact homeWrites ..

end OnlyHome

end State

end Sys2Proof.Machine
end

section
/-! PROOF. Probes, flits, inbound requests, refusals at the initiator, and the host (O59). -/

namespace Sys2Proof.Machine

open Sys2Proof

theorem bits_setBits_mod {lo n : Nat} (w : Word) (v : Nat) (h : lo + n ≤ 32) : bits (setBits w lo n v) lo n = v % 2 ^ n :=
  bits_eq_of_getLsbD (Nat.mod_lt _ (Nat.two_pow_pos n)) fun i hi => by
    rw [getLsbD_setBits w v (by omega), if_pos (by omega), Nat.add_sub_cancel_left, Nat.testBit_mod_two_pow, decide_eq_true hi, Bool.true_and]

namespace State

/-! Internal queues. -/

theorem loadOf_queue (s : State) (q : QueueName) : (s.loadOf q).queue = q := by
  unfold loadOf
  cases h : s.loads.find? fun l => l.queue = q with
  | none => rfl
  | some l => simpa using List.find?_some h

theorem loadOf_putLoad (s : State) (l : QueueLoad) (q : QueueName) : (s.putLoad l).loadOf q = if q = l.queue then l else s.loadOf q := by
  unfold loadOf putLoad
  simp only [List.find?_append]
  split
  · next h =>
    subst h
    rw [List.find?_eq_none.2 fun x hx => ?_]
    · simp
    · simpa using (List.mem_filter.1 hx).2
  · next h =>
    rw [List.find?_filter]
    have hf : (fun a : QueueLoad => decide (decide (a.queue ≠ l.queue) = true ∧ decide (a.queue = q) = true)) = fun x => decide (x.queue = q) := by
      funext x
      by_cases hx : x.queue = q
      · simp [hx, h]
      · simp [hx]
    rw [hf]
    have hn : ([l].find? fun x => decide (x.queue = q)) = none := by simp [Ne.symm h]
    rw [hn, Option.or_none]

theorem queueLevel_loads (s : State) (q : QueueName) :
    (((s.queueLevel q 0).loadOf q).since = none ∧ ((s.queueLevel q 0).loadOf q).spent = false) ∧
    (((s.queueLevel q 1).loadOf q).since = none ∧ ((s.queueLevel q 1).loadOf q).spent = (s.loadOf q).spent) ∧
    ((s.loadOf q).since = none → ((s.queueLevel q 2).loadOf q).since = some (s.queueClock q)) ∧
    ∀ r l, r ≠ q → (s.queueLevel q l).loadOf r = s.loadOf r := by
  have hq := loadOf_queue s q
  have other (r : QueueName) (l : QueueLoad) (hl : l.queue = q) (hr : r ≠ q) : (s.putLoad l).loadOf r = s.loadOf r := by
    rw [loadOf_putLoad, if_neg (hl ▸ hr)]
  refine ⟨?_, ?_, fun hn => ?_, fun r l hr => ?_⟩
  · rw [queueLevel, loadOf_putLoad, if_pos hq.symm]
    exact ⟨rfl, rfl⟩
  · rw [queueLevel, loadOf_putLoad, if_pos hq.symm]
    exact ⟨rfl, rfl⟩
  · have hl : s.queueLevel q 2 = s.putLoad { s.loadOf q with since := some ((s.loadOf q).since.getD (s.queueClock q)) } := rfl
    rw [hl, loadOf_putLoad, if_pos hq.symm, hn]
    rfl
  · match l with
    | 0 => exact other r _ hq hr
    | 1 => exact other r _ hq hr
    | l + 2 => exact other r _ hq hr

theorem probeToken_sends {s : State} {o b : QueueName} {t : Nat} (ho : o.part < 8) (hs : (s.loadOf o).since = some t) (ht : t + 256 ≤ s.queueClock o)
    (hp : ∀ p ∈ s.probes, p.origin ≠ o) : exec (.probeToken o b) s = .next { s with probes := s.probes ++ [{ origin := o, at_ := b }] } := by
  refine unitEvent_next ho ?_
  rw [hs]
  refine if_neg ?_
  rw [decide_eq_false (Nat.not_lt.2 ht), Bool.false_or]
  exact Bool.eq_false_iff.1 (List.any_eq_false.2 fun p h => by simpa using hp p h)

theorem probePass_moves {s : State} {q r : QueueName} {p : Probe} {rest : List Probe} (hp : s.probes = p :: rest) (hat : p.at_ = q) :
    ((s.loadOf q).since = none → exec (.probePass q none) s = .next { s with probes := rest }) ∧
    ((s.loadOf q).since ≠ none → exec (.probePass q (some r)) s = .next (
      if r ≠ p.origin then { s with probes := { p with at_ := r } :: rest }
      else if (s.loadOf r).spent = true then { s with probes := rest }
      else (State.putLoad { s with probes := rest } { s.loadOf r with spent := true }).setPtReg r.part 0x00D (s.ptReg r.part 0x00D + 1))) := by
  have hi : (s.probes.findIdx? fun p => decide (p.at_ = q)) = some 0 := by rw [hp]; exact List.findIdx?_cons.trans (if_pos (decide_eq_true hat))
  have h0 : s.probes[0]?.getD { origin := q, at_ := q } = p := by rw [hp]; rfl
  have he : s.probes.eraseIdx 0 = rest := by rw [hp]; rfl
  have hset : ∀ x, s.probes.set 0 x = x :: rest := by rw [hp]; exact fun _ => rfl
  refine ⟨fun hs => ?_, fun hs => ?_⟩
  · refine (show exec (.probePass q none) s = execProbePass q none s from rfl).trans (event_next ?_)
    simp only [hi, he, hs]
    rfl
  · refine (show exec (.probePass q (some r)) s = execProbePass q (some r) s from rfl).trans (event_next ?_)
    have hn : (s.loadOf q).since.isNone = false := by
      cases h : (s.loadOf q).since with
      | none => exact absurd h hs
      | some _ => rfl
    simp only [hi, h0, he, hset, hn]
    by_cases hr : r = p.origin
    · rw [if_neg Bool.false_ne_true, if_pos hr, if_neg (not_not.2 hr)]
      split <;> rfl
    · rw [if_neg Bool.false_ne_true, if_neg hr, if_pos hr]

/-! Flits. -/

theorem flitForward_goes {s : State} {f : Flit} (hf : f.chip.toNat ≠ s.chip) : exec (.flitForward f) s = .next (match s.routeTo f.chip.toNat with
    | none => { s with out := s.out ++ [.refusal f] }
    | some p => if s.portUp p = true ∧ f.hops + 1 < 63 then { s with out := s.out ++ [.flit p { f with hops := f.hops + 1 }] } else s) := by
  refine (show exec (.flitForward f) s = execFlitForward f s from rfl).trans (event_next ?_)
  rw [if_neg hf]
  cases s.routeTo f.chip.toNat with
  | none => rfl
  | some p =>
    dsimp only
    by_cases hu : s.portUp p = true ∧ f.hops + 1 < 63
    · rw [if_pos hu, if_neg]
      rw [hu.1, decide_eq_false (Nat.not_le.2 hu.2)]
      exact Bool.false_ne_true
    · rw [if_neg hu, if_pos]
      rw [Bool.or_eq_true, decide_eq_true_eq, Bool.not_eq_true']
      by_contra h
      rw [not_or, Bool.not_eq_false, Nat.not_le] at h
      exact hu h

theorem routeTo_matches {s : State} {chip p : Nat} (h : s.routeTo chip = some p) : ∃ i, i < 64 ∧ (s.dvReg (0x040 + 2 * i)).getLsbD 31 = true ∧ p < 6 ∧
    bits (s.dvReg (0x041 + 2 * i)) 18 3 = p ∧ Nat.land chip (bits (s.dvReg (0x041 + 2 * i)) 0 18) =
      Nat.land (bits (s.dvReg (0x040 + 2 * i)) 0 18) (bits (s.dvReg (0x041 + 2 * i)) 0 18) := by
  obtain ⟨i, hi, hp⟩ := List.exists_of_findSome?_eq_some h
  dsimp only at hp
  split at hp
  · next hc =>
    obtain rfl := Option.some.inj hp
    simp only [Bool.and_eq_true, decide_eq_true_eq] at hc
    obtain ⟨⟨h31, h6⟩, hm⟩ := hc
    exact ⟨i, List.mem_range.1 hi, h31, h6, rfl, hm⟩
  · exact nomatch hp

/-! Requests of peers. -/

/-- What arrives for a partition with room on chip and nothing waiting in its ring is served at once. -/
theorem inboundRequest_serves {s : State} {r : InRequest}
    (h : ∀ p c, s.bound r.job = some (p, some c) → (s.part p).inFull = false ∧ (s.part p).inq = [] ∧ (s.part p).inHeld = none) :
    exec (.inboundRequest r) s = .next (s.serveRequest r) := by
  refine (show exec (.inboundRequest r) s = execInboundRequest r s from rfl).trans (event_next ?_)
  unfold inboundArrive
  rw [show (Inbound.request r).job = r.job from rfl]
  match hb : s.bound r.job with
  | none => rfl
  | some (p, none) => rfl
  | some (p, some c) =>
    obtain ⟨hf, hq, hh⟩ := h p c hb
    simp only [hf, hq, hh]
    rfl

theorem inboundRequest_unbound {s : State} {r : InRequest} (hb : s.bound r.job = none) :
    exec (.inboundRequest r) s = .next ((s.unboundFault r.addr r.chip r.job (inKindCode r) (inLen r)).nackRequest r) := by
  refine (inboundRequest_serves fun p c h => absurd (hb.symm.trans h) (by simp)).trans ?_
  rw [serveRequest, hb]

theorem inboundRequest_no_context {s : State} {r : InRequest} {p : Nat} (hb : s.bound r.job = some (p, none)) :
    exec (.inboundRequest r) s = .next ((s.inboundFault p 0xFF r.addr r.chip r.job 1 (inKindCode r) (inLen r)).nackRequest r) := by
  refine (inboundRequest_serves fun p c h => absurd (hb.symm.trans h) (by simp)).trans ?_
  rw [serveRequest, hb]

/-- A bound request, whose partition has room, is performed where its pieces lie, or refused. -/
theorem inboundRequest_bound {s : State} {r : InRequest} {p c : Nat} (hb : s.bound r.job = some (p, some c)) (hf : (s.part p).inFull = false)
    (hq : (s.part p).inq = []) (hh : (s.part p).inHeld = none) :
    (∀ n u, s.inboundPlaces p c r r.addr (inLen r) (inFuel r) = (.error n, u) → exec (.inboundRequest r) s =
      .next ((u.inboundFault p (c % 2) r.addr r.chip r.job n (inKindCode r) (inLen r)).nackRequest r)) ∧
    ∀ ps u, s.inboundPlaces p c r r.addr (inLen r) (inFuel r) = (.ok ps, u) → exec (.inboundRequest r) s = .next (u.inboundPerform r ps) := by
  have hs : exec (.inboundRequest r) s = .next (s.serveRequest r) := by
    refine inboundRequest_serves fun p' c' h => ?_
    cases hb.symm.trans h
    exact ⟨hf, hq, hh⟩
  rw [hs, serveRequest, hb]
  exact ⟨fun n u hp => by simp only [hp], fun ps u hp => by simp only [hp]⟩

theorem inboundPerform_read {u : State} {r : InRequest} {ps : List (Place × Nat)} {n : Nat} (h : r.kind = .read n) : u.inboundPerform r ps =
    { (u.readPieces ps).2 with out := (u.readPieces ps).2.out ++ [.response r (u.readPieces ps).1] } := by
  unfold inboundPerform
  rw [h]

theorem inboundPerform_write {u : State} {r : InRequest} {ps : List (Place × Nat)} {bs : List Byte} (h : r.kind = .write bs) :
    u.inboundPerform r ps = { u.writePieces ps bs with out := (u.writePieces ps bs).out ++ [.response r []] } := by
  unfold inboundPerform
  rw [h]

theorem inboundPerform_atomic {u : State} {r : InRequest} {ps : List (Place × Nat)} {op v c : _} (h : r.kind = .atomic op v c) :
    ∃ w, u.inboundPerform r ps = { w with out := w.out ++ [.response r (u.readPieces ps).1] } ∧
      w = (u.readPieces ps).2.writePieces ps
        (leBytes (atomSize op.toNat) (rmw op.toNat (ofLeBytes (u.readPieces ps).1) v.toNat c.toNat)) := by
  refine ⟨_, ?_, rfl⟩
  unfold inboundPerform
  rw [h]

/-- A recorded refusal of a request moves the PUT of its ring. -/
theorem inboundFault_put (s : State) {p : Nat} (hp : p < s.parts.length) (c : Nat) (addr : DWord) (chip job n kind len : Nat)
    (hroom : (bits (s.ptReg p 0x019) 0 8 + 256 - bits (s.ptReg p 0x019) 8 8) % 256 ≠ 64) :
    bits ((s.inboundFault p c addr chip job n kind len).ptReg p 0x019) 0 8 = (bits (s.ptReg p 0x019) 0 8 + 1) % 256 := by
  have hput (u : State) (hu : s.OnlyHome u) (pay : List Byte) : bits (((u.setPtReg p 0x019 (setBits (s.ptReg p 0x019) 0 8
      (bits (s.ptReg p 0x019) 0 8 + 1))).raiseEvent p 0x07 c pay).ptReg p 0x019) 0 8 = (bits (s.ptReg p 0x019) 0 8 + 1) % 256 := by
    rw [ptReg_raiseEvent, ptReg_setPtReg (hu.parts ▸ hp), if_pos rfl, bits_setBits_mod _ _ (Nat.le_of_ble_eq_true rfl)]
    rfl
  unfold inboundFault
  dsimp only
  rw [if_neg hroom]
  refine hput _ ?_ _
  generalize physKind _ = k
  cases k with
  | dram a => exact OnlyHome.recordWrites ..
  | _ => exact OnlyHome.refl s

/-! What a refusal or a timeout ends at the initiator. -/

/-- The record that a refusal by a module on the way makes. -/
def toldFar (far : Bool) (c : Nat) (va : DWord) (kind len : Nat) (s : State) : State := if far = true then s.noRoute (partOf c) va kind len else s

theorem toldFar_true (c : Nat) (va : DWord) (kind len : Nat) (s : State) : toldFar true c va kind len s = s.noRoute (partOf c) va kind len := if_pos rfl
theorem toldFar_false (c : Nat) (va : DWord) (kind len : Nat) (s : State) : toldFar false c va kind len s = s := if_neg Bool.false_ne_true

theorem remoteEnd_answered {s t : State} {op : Nat} {m q : LaneMask} {k : Cause} {far : Bool} {a : Parcel}
    (ha : s.awaiting.find? (fun p => p.id = op) = some a) (hown : a.own = none) (hl : a.lost = false ∨ decide (k = Cause.remoteTimeout) = true)
    (h : State.answered (match a.sent with | some (va, kind, len) => toldFar far (ctxOf a.agent) va kind len s | none => s) op (some k) = some t) :
    s.remoteEnd op m q k far = some t := by
  have hlost : ¬(a.lost && !decide (k = Cause.remoteTimeout)) = true := by
    rcases hl with hl | hl <;> rw [hl] <;> simp
  have hfind : ((s.awaiting.find? fun q => q.id = op).filter fun q => q.own.isNone) = some a := by rw [ha]; simp [hown]
  unfold remoteEnd
  simp only [hfind, if_neg hlost]
  cases far with
  | true =>
    simp only [toldFar_true] at h
    cases hs : a.sent with
    | none => simpa only [hs] using h
    | some x => simpa only [hs] using h
  | false =>
    simp only [toldFar_false] at h
    cases hs : a.sent with
    | none => simpa only [hs] using h
    | some x => simpa only [hs] using h

/-- The last answer of a parcel that nothing else waits for raises the cause in the wave that posted it. -/
theorem answered_pends {s : State} {op : Nat} {k : Cause} {a : Parcel} (ha : s.awaiting.find? (fun p => p.id = op) = some a) (hl : a.left ≤ 1)
    (hc : a.cause = none) (hr : a.rise = none) (ho : a.op = none) : s.answered op (some k) =
      some (State.pendCause { s with awaiting := s.awaiting.filter fun p => p.id ≠ op } a.agent k 1 a.who a.core a.quarter) := by
  unfold answered
  simp only [ha, if_neg (Nat.not_lt.2 hl), hc, hr, ho]
  rfl

theorem remoteEnd_transfer {s : State} {op : Nat} {m q : LaneMask} {k : Cause} {far : Bool} {o : Op} {p : Place}
    (ha : s.awaiting.find? (fun p => p.id = op) = none) (ho : s.op? op = some o) (ht : o.kind.transfer = true)
    (hp : s.transferAtPeer (decide (k = Cause.remoteTimeout)) o = some p) :
    s.remoteEnd op m q k far = some ((toldFar far (ctxOf o.agent) p.globalAddr o.kind.reqKind 64 s).endTransfer o (some k)) := by
  unfold remoteEnd
  simp only [ha, Option.filter_none, ho, if_pos ht, hp, Option.map_some]
  cases far with
  | true => rw [toldFar_true, if_pos rfl]
  | false => rw [toldFar_false, if_neg Bool.false_ne_true]

theorem remoteEnd_lanes {s : State} {op : Nat} {m : LaneMask} {k : Cause} {far : Bool} {o : Op}
    (ha : s.awaiting.find? (fun p => p.id = op) = none) (ho : s.op? op = some o) (ht : o.kind.transfer = false)
    (hp : o.lanesAtPeer (decide (k = Cause.remoteTimeout)) m = true) :
    s.remoteEnd op m 0 k far = some (((lanesOf m).foldl (fun s l => s.refuseAcc op l k) (o.accs.foldl (fun (s : State) a =>
      if m.getLsbD a.lane = true then toldFar far (ctxOf o.agent) a.place.globalAddr o.kind.reqKind o.kind.size s else s) s)).dropStores) := by
  have hf : ¬o.kind.transfer = true := by rw [ht]; exact Bool.false_ne_true
  have h0 : lanesOf (m &&& 0) = [] := by rw [show m &&& 0 = 0#32 from BitVec.and_zero]; rfl
  unfold remoteEnd
  simp only [ha, Option.filter_none, ho, if_neg hf, if_pos hp, h0, List.foldl_nil]
  cases far with
  | true => simp only [toldFar_true, if_true]
  | false =>
    have hid : ∀ l : List LaneAcc, l.foldl (fun (s : State) _ => s) s = s := by
      intro l
      induction l with
      | nil => rfl
      | cons a l ih => exact ih
    simp only [toldFar_false, ite_self, hid, Bool.false_eq_true, if_false]

theorem remote_exec {s t : State} {i : Instr} {op : Nat} {m q : LaneMask} {k : Cause} {far : Bool}
    (hi : (i = .remoteNack ⟨op, far⟩ m ∧ k = Cause.remote ∧ q = 0) ∨ (i = .remoteTimeout op m q ∧ k = Cause.remoteTimeout ∧ far = false))
    (h : s.remoteEnd op m q k far = some t) : exec i s = .next t := by
  rcases hi with ⟨rfl, rfl, rfl⟩ | ⟨rfl, rfl, rfl⟩
  · exact (show exec (.remoteNack ⟨op, far⟩ m) s = execRemoteNack ⟨op, far⟩ m s from rfl).trans (event_next h)
  · exact (show exec (.remoteTimeout op m q) s = execRemoteTimeout op m q s from rfl).trans (event_next h)

/-! Ports and the host. -/

theorem straitPortDown_ends {s : State} {p : Nat} (hp : p < 6) (hup : s.portUp p = true) : Occurs (.straitPortDown p) s fun r =>
    r.portUp p = false ∧ (∀ n, n ≠ p → r.portUp n = s.portUp n) ∧ s.SameMemory r := by
  refine ⟨_, unitEvent_next hp (if_pos hup), ?_, fun n hn => ?_, (SameStore.of_cores rfl rfl rfl).memory⟩
  · rw [portUp, dvReg_setDvReg _ (by decide), getLsbD_setBits _ _ (by omega), if_pos (by omega)]
    exact Nat.zero_testBit _
  · rw [portUp, portUp, dvReg_setDvReg _ (by decide)]
    by_cases h32 : n < 32
    · rw [getLsbD_setBits _ _ h32, if_neg (by omega)]
    · rw [BitVec.getLsbD_of_ge _ _ (by omega), BitVec.getLsbD_of_ge _ _ (by omega)]

theorem hostMemAccess_read {s : State} {a n : Nat} (hr : s.ready = true) (h : a + n ≤ usableTop) :
    Occurs (.hostMemAccess (.read a n)) s fun r =>
      r.out = (s.readBytes 511 a n true true).2.out ++ [.hostData (s.readBytes 511 a n true true).1] := by
  have hc : (s.ready && hdmOk a n) = true := by rw [hr, hdmOk, decide_eq_true h]; rfl
  exact ⟨_, (show exec (.hostMemAccess (.read a n)) s = execHostMemAccess (.read a n) s from rfl).trans (event_next (if_pos hc)), rfl⟩

/-- The bytes that a record leaves, location by location. -/
theorem recordWrites_leaves (s : State) (a : Nat) (bs : List Byte) (wt : Bool) :
    (∀ j, j < bs.length → (s.recordWrites a bs wt).homeByte (a + j) = if s.objWaited (a + j) = true then s.homeByte (a + j) else bs[j]?.getD 0) ∧
    ∀ b, b < a ∨ a + bs.length ≤ b → (s.recordWrites a bs wt).homeByte b = s.homeByte b := by
  refine ⟨fun j hj => ?_, fun b hb => ?_⟩
  · rw [homeByte_recordWrites]
    by_cases hw : s.objWaited (a + j) = true
    · rw [if_pos hw, if_neg fun h => absurd (hw.symm.trans h.2.2) (by decide)]
    · rw [if_neg hw, if_pos ⟨by omega, by omega, Bool.eq_false_iff.2 hw⟩, Nat.add_sub_cancel_left]
  · rw [homeByte_recordWrites, if_neg fun h => by omega]

theorem hostMemAccess_write {s : State} {a : Nat} {bs : List Byte} (hr : s.ready = true)
    (hn : ∀ c, ∀ r ∈ (s.core c).l1.recs, r.addr / 256 ≠ a / 256) (h : a + bs.length ≤ usableTop) :
    exec (.hostMemAccess (.write a bs)) s = .next (s.recordWrites a bs false) := by
  have hc : (s.ready && hdmOk a bs.length) = true := by rw [hr, hdmOk, decide_eq_true h]; rfl
  refine (show exec (.hostMemAccess (.write a bs)) s = execHostMemAccess (.write a bs) s from rfl).trans (event_next ((if_pos hc).trans ?_))
  rw [hostWrite, promoteFor_none fun c _ => hn c]

theorem hostMemAccess_own {s : State} {a : Nat} {bs : List Byte} (h : hostBase + a + bs.length ≤ 2 ^ 46) :
    exec (.hostMemAccess (.own a bs)) s = .next (s.recordWrites (hostBase + a) bs false) :=
  (show exec (.hostMemAccess (.own a bs)) s = execHostMemAccess (.own a bs) s from rfl).trans (event_next (if_pos (decide_eq_true h)))

theorem barOk_of {f p : Nat} (hf : f < 9) (hp : p < 8) (h : f = 0 ∨ f = p + 1) : ¬(!barOk f p) = true := by
  rw [barOk, decide_eq_true hf, decide_eq_true hp, ← Bool.decide_or, decide_eq_true h]
  exact Bool.false_ne_true

theorem hostMemAccess_regs {s : State} {f p n : Nat} (v : Word) (hf : f < 9) (hp : p < 8) (h : f = 0 ∨ f = p + 1) :
    exec (.hostMemAccess (.regWrite f p n v)) s = .next (s.windowWrite (hostAgent f) (0x40000 * p + 4 * n) v) ∧
    Occurs (.hostMemAccess (.regRead f p n)) s fun r => ∃ w u, s.windowRead (hostAgent f) (0x40000 * p + 4 * n) = (w, u) ∧
      r = { u with out := u.out ++ [.hostData (leBytes 4 w.toNat)] } := by
  have hb := barOk_of hf hp h
  refine ⟨(show exec (.hostMemAccess (.regWrite f p n v)) s = execHostMemAccess (.regWrite f p n v) s from rfl).trans (event_next (if_neg hb)), ?_⟩
  exact ⟨_, (show exec (.hostMemAccess (.regRead f p n)) s = execHostMemAccess (.regRead f p n) s from rfl).trans (event_next (if_neg hb)),
    _, _, rfl, rfl⟩

theorem hostMemAccess_mask {s : State} {f v : Nat} (hv : v < msixVectors f) (hm : (f, v) ∉ s.msixMask) :
    exec (.hostMemAccess (.maskVector f v)) s = .next { s with msixMask := s.msixMask ++ [(f, v)] } := by
  refine (show exec (.hostMemAccess (.maskVector f v)) s = execHostMemAccess (.maskVector f v) s from rfl).trans (event_next (if_neg ?_))
  simpa [hv] using hm

theorem msiXUnmask_unmasks {s : State} {f v : Nat} (hm : (f, v) ∈ s.msixMask) : Occurs (.msiXUnmask f v) s fun r =>
    (f, v) ∉ r.msixMask ∧ ((f, v) ∈ s.msixPend → r.out = s.out ++ [.msix f v] ∧ (f, v) ∉ r.msixPend) ∧
      ((f, v) ∉ s.msixPend → r.out = s.out ∧ r.msixPend = s.msixPend) := by
  have hno : ¬(!s.msixMask.contains (f, v)) = true := by simpa using hm
  have hgone (l : List (Nat × Nat)) : (f, v) ∉ l.filter (· ≠ (f, v)) := fun h => by simpa using (List.mem_filter.1 h).2
  by_cases hp : (f, v) ∈ s.msixPend
  · exact ⟨_, (show exec (.msiXUnmask f v) s = execMsiXUnmask f v s from rfl).trans
      (event_next ((if_neg hno).trans (if_pos (List.contains_iff_mem.2 hp)))), hgone _, fun _ => ⟨rfl, hgone _⟩, fun h => absurd hp h⟩
  · exact ⟨_, (show exec (.msiXUnmask f v) s = execMsiXUnmask f v s from rfl).trans
      (event_next ((if_neg hno).trans (if_neg (mt List.contains_iff_mem.1 hp)))), hgone _, fun h => absurd h hp, fun _ => ⟨rfl, rfl⟩⟩

end State

/-- Settles O59. -/
theorem fabricEvents : Obligations.FabricEvents := by
  unfold Obligations.FabricEvents
  refine ⟨?_, ?_, State.queueLevel_loads, ?_, ?_, ?_, ?_, ?_, ?_, ?_, ?_, ?_⟩
  · intro s o b t ho hs ht hp
    exact State.probeToken_sends ho hs ht hp
  · intro s q r p rest hp hat gone
    exact State.probePass_moves hp hat
  · intro s f hf
    exact State.flitForward_goes hf
  · intro s chip p h
    exact State.routeTo_matches h
  · intro s r nack
    refine ⟨State.inboundRequest_unbound, fun p => State.inboundRequest_no_context, fun p c ps u hb hf hq hh hps => ?_,
      fun p c n u hb hf hq hh hps => (State.inboundRequest_bound hb hf hq hh).1 n u hps⟩
    exact ⟨_, (State.inboundRequest_bound hb hf hq hh).2 ps u hps, fun n hk => State.inboundPerform_read hk, fun bs hk => State.inboundPerform_write hk,
      fun op v c hk => State.inboundPerform_atomic hk⟩
  · intro s p c addr chip job n kind len hp ptr hroom
    exact State.inboundFault_put s hp c _ chip job n kind len hroom
  · intro s i op m q k far hi late told
    refine ⟨fun a t ha hown hl h => State.remote_exec hi (State.remoteEnd_answered ha hown hl h), fun a ha hl hc hr ho => State.answered_pends ha hl hc hr ho,
      fun o p ha ho ht hp => State.remote_exec hi (State.remoteEnd_transfer ha ho ht hp), fun o ha ho ht hp hq => ?_⟩
    subst hq
    exact State.remote_exec hi (State.remoteEnd_lanes ha ho ht hp)
  · intro s p hp hup
    exact State.straitPortDown_ends hp hup
  · intro s a n bs
    refine ⟨State.hostMemAccess_read, fun hr hn h => ?_, fun h => ?_⟩
    · exact ⟨_, State.hostMemAccess_write hr hn h, State.recordWrites_leaves s a bs false⟩
    · exact ⟨_, State.hostMemAccess_own h, State.recordWrites_leaves s (hostBase + a) bs false⟩
  · intro s f p n v hf hp h
    exact State.hostMemAccess_regs v hf hp h
  · intro s f v
    exact ⟨State.hostMemAccess_mask, State.msiXUnmask_unmasks⟩

end Sys2Proof.Machine
end

section
/-! PROOF. Events, rings, LLC ways, storage errors, attestation and bring-up (O60). -/

namespace Sys2Proof.Machine

open Sys2Proof

theorem QueuePair.fire_held (q : QueuePair) : q.fire.held = q.held ∧ q.fire.stuck = q.stuck := ⟨rfl, rfl⟩

theorem getLsbD_high {i : Nat} (hi : i < 32) : (0xFFFF0000#32).getLsbD i = decide (16 ≤ i) := by
  interval_cases i <;> rfl

theorem getLsbD_shift16 (n : Nat) {i : Nat} (hi : i < 32) : (BitVec.ofNat 32 (65536 * n)).getLsbD i = (decide (16 ≤ i) && n.testBit (i - 16)) := by
  rw [BitVec.getLsbD_ofNat, show 65536 * n = 2 ^ 16 * n from rfl, Nat.testBit_two_pow_mul, decide_eq_true hi, Bool.true_and]

theorem and_get (n : Nat) : BitVec.ofNat 32 (65536 * n) &&& 0xFFFF0000#32 = BitVec.ofNat 32 (65536 * n) :=
  BitVec.eq_of_getLsbD_eq fun i hi => by
    rw [BitVec.getLsbD_and, getLsbD_high hi, getLsbD_shift16 n hi]
    cases decide (16 ≤ i) <;> cases n.testBit (i - 16) <;> rfl

/-- A write of a GET in the upper half of a register. -/
theorem write_get {b : RegBits} (w : Word) (n : BitVec 16) (h1 : b.w1c = 0#32) (h : b.rw = 0xFFFF0000#32) :
    b.write w (BitVec.ofNat 32 (65536 * n.toNat)) = setBits w 16 16 n.toNat := by
  rw [RegBits.write_rw _ _ h1, h, and_get]
  refine BitVec.eq_of_getLsbD_eq fun i hi => ?_
  rw [getLsbD_setBits w _ hi, BitVec.getLsbD_or, BitVec.getLsbD_and, BitVec.getLsbD_not, getLsbD_high hi, getLsbD_shift16 _ hi, decide_eq_true hi]
  by_cases h16 : 16 ≤ i
  · rw [if_pos ⟨h16, by omega⟩, decide_eq_true h16]
    simp
  · rw [if_neg (by omega), decide_eq_false h16]
    simp

namespace State

/-! Events and rings. -/

theorem raiseMsix_shape (s : State) (f v : Nat) : ∃ l o, s.raiseMsix f v = { s with msixPend := l, out := o } := by
  unfold raiseMsix
  split
  · split
    · exact ⟨_, _, rfl⟩
    · exact ⟨_, _, rfl⟩
  · exact ⟨_, _, rfl⟩

theorem raiseMsix_parts (s : State) (f v : Nat) : (s.raiseMsix f v).parts = s.parts := by
  obtain ⟨l, o, h⟩ := raiseMsix_shape s f v
  rw [h]

theorem raiseMsix_sameStore (s : State) (f v : Nat) : s.SameStore (s.raiseMsix f v) := by
  obtain ⟨l, o, h⟩ := raiseMsix_shape s f v
  rw [h]
  exact SameStore.of_cores rfl rfl rfl

theorem raiseMsix_unmasked {s : State} {f v : Nat} (h : (f, v) ∉ s.msixMask) : s.raiseMsix f v = { s with out := s.out ++ [.msix f v] } :=
  if_neg (mt List.contains_iff_mem.1 h)

theorem raiseMsix_twice {s : State} {f v g w : Nat} (h : (f, v) ∉ s.msixMask) (h' : (g, w) ∉ s.msixMask) :
    ((s.raiseMsix f v).raiseMsix g w).out = s.out ++ [.msix f v, .msix g w] := by
  rw [raiseMsix_unmasked h]
  exact (congrArg State.out (if_neg (mt List.contains_iff_mem.1 h'))).trans (List.append_assoc ..)

/-- The head of the event queue is written where the ring stands, if that is DRAM; PUT moves on, and the vectors are raised. -/
theorem eventRecord_goes {s : State} {p : Nat} {e : EvRec} {rest : List EvRec} (hp : p < 8) (hq : (s.part p).evq = e :: rest)
    (hf : s.evRingFull p = false) : ∃ u : State, exec (.eventRecord p) s =
        .next (((u.setPtReg p 0x015 (setBits (s.ptReg p 0x015) 0 16 (bits (s.ptReg p 0x015) 0 16 + 1))).raiseMsix (1 + p) 256).raiseMsix 0 p) ∧
      (s.putPart p { s.part p with evq := rest }).OnlyHome u ∧
      ∀ a, physKind (bits (s.ptReg p 0x013) 13 19 * 2 ^ 13 + bits (s.ptReg p 0x014) 0 14 * 2 ^ 32 +
        32 * (bits (s.ptReg p 0x015) 0 16 % 256)) = .dram a → u = (s.putPart p { s.part p with evq := rest }).recordWrites a (s.evBytes e) false := by
  have hx : exec (.eventRecord p) s = execEventRecord p s := rfl
  have hno : ¬s.evRingFull p = true := by rw [hf]; exact Bool.false_ne_true
  unfold execEventRecord at hx
  rw [if_neg (Nat.not_le.2 hp)] at hx
  unfold event at hx
  simp only [hq, if_neg hno] at hx
  generalize physKind _ = k at hx ⊢
  cases k with
  | dram a => exact ⟨_, hx, OnlyHome.recordWrites .., fun b hb => by cases hb; rfl⟩
  | _ => exact ⟨_, hx, OnlyHome.refl _, fun b hb => nomatch hb⟩

theorem eventRecord_records {s : State} {p : Nat} {e : EvRec} {rest : List EvRec} (hp : p < 8) (hlen : s.parts.length = 8)
    (hq : (s.part p).evq = e :: rest) (hf : s.evRingFull p = false) : Occurs (.eventRecord p) s fun r => (r.part p).evq = rest ∧
      bits (r.ptReg p 0x015) 0 16 = (bits (s.ptReg p 0x015) 0 16 + 1) % 2 ^ 16 ∧ bits (r.ptReg p 0x015) 16 16 = bits (s.ptReg p 0x015) 16 16 ∧
      (∀ a, physKind (bits (s.ptReg p 0x013) 13 19 * 2 ^ 13 + bits (s.ptReg p 0x014) 0 14 * 2 ^ 32 +
        32 * (bits (s.ptReg p 0x015) 0 16 % 256)) = .dram a → ∀ j, j < (s.evBytes e).length →
          r.homeByte (a + j) = if s.objWaited (a + j) = true then s.homeByte (a + j) else (s.evBytes e)[j]?.getD 0) ∧
      ((1 + p, 256) ∉ s.msixMask → (0, p) ∉ s.msixMask → r.out = s.out ++ [.msix (1 + p) 256, .msix 0 p]) := by
  obtain ⟨u, hx, hu, ha⟩ := eventRecord_goes hp hq hf
  have hl : p < u.parts.length := by
    rw [hu.parts]
    show p < (s.parts.set p _).length
    rw [List.length_set]
    omega
  have hup : u.part p = { s.part p with evq := rest } := by
    rw [part, hu.parts]
    exact part_putPart (hlen ▸ hp) _
  generalize hv : setBits (s.ptReg p 0x015) 0 16 (bits (s.ptReg p 0x015) 0 16 + 1) = v at hx
  have hpart (w : State) : (((w.setPtReg p 0x015 v).raiseMsix (1 + p) 256).raiseMsix 0 p).parts = (w.setPtReg p 0x015 v).parts := by
    rw [raiseMsix_parts, raiseMsix_parts]
  have hreg : (((u.setPtReg p 0x015 v).raiseMsix (1 + p) 256).raiseMsix 0 p).ptReg p 0x015 = v := by
    rw [ptReg, part, hpart]
    exact (ptReg_setPtReg hl _ _ _).trans (if_pos rfl)
  refine ⟨_, hx, ?_, ?_, ?_, fun a hk j hj => ?_, fun h1 h0 => ?_⟩
  · rw [part, hpart]
    refine (congrArg Part.evq (part_putPart hl _)).trans ?_
    exact congrArg Part.evq hup
  · rw [hreg, ← hv, bits_setBits_mod _ _ (by omega)]
  · rw [hreg, ← hv, bits_setBits_of_disjoint _ (by omega) (.inr (by omega))]
  · have hs : u.SameStore (((u.setPtReg p 0x015 v).raiseMsix (1 + p) 256).raiseMsix 0 p) :=
      ((SameStore.setPtReg ..).trans (raiseMsix_sameStore ..)).trans (raiseMsix_sameStore ..)
    rw [hs.homeByte, ha a hk]
    exact (recordWrites_leaves _ a (s.evBytes e) false).1 j hj
  · have hmask : u.msixMask = s.msixMask := (congrArg State.msixMask hu.eq :)
    have hout : u.out = s.out := hu.out
    rw [← hmask] at h1 h0
    rw [← hout]
    exact raiseMsix_twice (s := u.setPtReg p 0x015 v) h1 h0

/-- System software moves GET of an event ring, and nothing else. -/
theorem eventRingGet_moves {s : State} {p : Nat} (n : BitVec 16) (hp : p < 8) (hlen : s.parts.length = 8) (hr : s.ready = true) :
    Occurs (.eventRingGet p n) s fun r =>
      bits (r.ptReg p 0x015) 16 16 = n.toNat ∧ bits (r.ptReg p 0x015) 0 16 = bits (s.ptReg p 0x015) 0 16 ∧ s.SameMemory r := by
  have hno : ¬(!s.ready) = true := by rw [hr]; exact Bool.false_ne_true
  refine ⟨_, unitEvent_next hp (if_neg hno), ?_⟩
  have hw : s.writePt p 0x015 (BitVec.ofNat 32 (65536 * n.toNat)) = s.setPtReg p 0x015 (setBits (s.ptReg p 0x015) 16 16 n.toNat) := by
    rw [← write_get (b := ptBits 0x015) _ _ rfl rfl]
    rfl
  rw [hw]
  dsimp only
  rw [ptReg_setPtReg (hlen ▸ hp), if_pos rfl]
  exact ⟨bits_setBits _ (by omega) n.isLt, bits_setBits_of_disjoint _ (by omega) (.inl (by omega)), (SameStore.setPtReg ..).memory⟩

/-- System software moves GET of a fault ring, and waiting records are written. -/
theorem faultRingGet_records {s : State} {c : Nat} (n : BitVec 16) (hc : c < 16) (hr : s.ready = true) : exec (.faultRingGet c n) s =
    .next ((s.setCtReg c 0x012 ((s.ctReg c 0x012 &&& 0xFFFF) ||| BitVec.ofNat 32 (65536 * n.toNat))).recordFaults c 128) := by
  have hno : ¬(!s.ready) = true := by rw [hr]; exact Bool.false_ne_true
  refine unitEvent_next hc ((if_neg hno).trans (congrArg some ?_))
  have hv : (s.ctReg c 0x012 &&& 0xFFFF) ||| BitVec.ofNat 32 (65536 * n.toNat) = (ctBits 0x012).write (s.ctReg c 0x012) (BitVec.ofNat 32 (65536 * n.toNat)) := by
    rw [RegBits.write_rw _ _ rfl, show (ctBits 0x012).rw = 0xFFFF0000#32 from rfl, and_get]
    rfl
  rw [hv]
  rfl

/-- `CT_PFACK.RETRY` ends the waits for pages of the context. -/
theorem pfackRetry_ends {s : State} {c : Nat} (hc : c < 16) (hlen : s.ctxs.length = 16) (hr : s.ready = true) : Occurs (.pfackRetry c) s fun r =>
    (∀ o ∈ r.ops, ctxOf o.agent = c → o.held = none) ∧ (∀ q ∈ (r.ctx c).queues, q.held = none ∧ q.stuck = none) ∧
      (∀ p ∈ (r.ctx c).qps, p.2.held = none ∧ p.2.stuck = none) ∧
      (s.halted c = false → ∀ p ∈ (s.ctx c).qps, (p.1, QueuePair.fire { p.2 with held := none, stuck := none }) ∈ (r.ctx c).qps) ∧
      (∀ p ∈ r.grids, p.1.ctx = c → p.2.recHeld = false) ∧ s.SameMemory r := by
  have hno : ¬(!s.ready) = true := by rw [hr]; exact Bool.false_ne_true
  refine ⟨_, unitEvent_next hc (if_neg hno), ?_⟩
  unfold pfackRetry
  extract_lets u y v x
  have hv : v.ops = u.ops ∧ v.grids = u.grids ∧ v.ctxs = s.ctxs ∧ s.SameStore v := by
    show (if _ then _ else _ : State).ops = _ ∧ (if _ then _ else _ : State).grids = _ ∧ (if _ then _ else _ : State).ctxs = _ ∧ s.SameStore (if _ then _ else _)
    split
    · exact ⟨rfl, rfl, rfl, SameStore.of_cores rfl rfl rfl⟩
    · exact ⟨rfl, rfl, rfl, SameStore.of_cores rfl rfl rfl⟩
  clear_value v
  obtain ⟨hops, hgrids, hctxs, hstore⟩ := hv
  have hx : x = s.ctx c := ctx_of_ctxs hctxs c
  have hctx (z : Ctx) : (v.putCtx c z).ctx c = z := ctx_putCtx (by rw [hctxs, hlen]; exact hc) z
  refine ⟨fun o ho hoc => ?_, ?_, ?_, fun hh p hp => ?_, fun g hg hgc => ?_, (hstore.trans (SameStore.putCtx ..)).memory⟩
  · rw [show (v.putCtx c _).ops = v.ops from rfl, hops] at ho
    obtain ⟨o', -, rfl⟩ := List.mem_map.1 ho
    split
    · rfl
    · next hn =>
      rw [if_neg hn] at hoc
      exact absurd hoc hn
  · rw [hctx]
    intro a ha
    obtain ⟨b, -, rfl⟩ := List.mem_map.1 ha
    exact ⟨rfl, rfl⟩
  · rw [hctx]
    intro p hp
    obtain ⟨p', -, rfl⟩ := List.mem_map.1 hp
    dsimp only
    split
    · exact ⟨rfl, rfl⟩
    · exact ⟨rfl, rfl⟩
  · rw [hctx]
    refine List.mem_map.2 ⟨p, hx ▸ hp, ?_⟩
    have hn : ¬v.halted c = true := by
      rw [halted, ctReg, ctx_of_ctxs hctxs]
      exact Bool.eq_false_iff.1 hh
    exact congrArg (Prod.mk p.1) (if_neg hn)
  · rw [show (v.putCtx c _).grids = v.grids from rfl, hgrids] at hg
    obtain ⟨g', -, rfl⟩ := List.mem_map.1 hg
    split
    · rfl
    · next hn =>
      rw [if_neg hn] at hgc
      exact absurd hgc hn

/-! LLC ways. -/

theorem dvReg_setDvReg_other (s : State) {i j : Nat} (h : j ≠ i) (v : Word) : (s.setDvReg i v).dvReg j = s.dvReg j := by
  have ht (k : Nat) (hk : k ≠ i) : (s.setDvReg i v).dv.get 0 k = s.dv.get 0 k := Tab.get_put_other _ _ _ hk
  unfold dvReg
  by_cases hj : j = 0
  · rw [if_pos hj, if_pos hj, ht 0 (hj ▸ h)]
  · rw [if_neg hj, if_neg hj, ht j h]

theorem getLsbD_or_if (a b : Word) (p q : Prop) [Decidable p] [Decidable q] {w : Nat} (hw : w < 16) :
    ((a &&& 0x20000) ||| b ||| (if p then 0x10000 else 0) ||| (if q then 0x20000 else 0)).getLsbD w = b.getLsbD w := by
  have h1 : (0x20000 : Word).getLsbD w = false := by interval_cases w <;> rfl
  have h2 : (0x10000 : Word).getLsbD w = false := by interval_cases w <;> rfl
  have h0 : (0 : Word).getLsbD w = false := BitVec.getLsbD_zero
  rw [BitVec.getLsbD_or, BitVec.getLsbD_or, BitVec.getLsbD_or, BitVec.getLsbD_and]
  have hp : (if p then 0x10000 else 0 : Word).getLsbD w = false := by split <;> assumption
  have hq : (if q then 0x20000 else 0 : Word).getLsbD w = false := by split <;> assumption
  rw [hp, hq, h1, Bool.and_false, Bool.false_or, Bool.or_false, Bool.or_false]

theorem llcWayGate_gates {s : State} {d : Nat} (hd : d < 4) : Occurs (.llcWayGate d) s fun r => s.SameMemory r ∧ ∀ w, w < 16 →
    (r.dvReg (0x008 + d)).getLsbD w = ((s.dvReg (0x008 + d)).getLsbD w && (s.dvReg (0x004 + d) &&& ~~~(s.dvReg (0x004 + d) >>> 16) &&& 0xFFFF).getLsbD w) := by
  refine ⟨_, unitEvent_next hd rfl, (SameStore.of_cores rfl rfl rfl).memory, fun w hw => ?_⟩
  rw [llcWayGate, dvReg_setDvReg _ (by omega), getLsbD_or_if _ _ _ _ hw, BitVec.getLsbD_and]
  rfl

/-! A way goes dark. -/

theorem llcClean_find (s : State) (a b : Nat) : (s.llcClean a).llc.find b = if b = a then none else s.llc.find b := by
  unfold llcClean
  cases h : s.llc.find a with
  | none =>
    by_cases hb : b = a
    · rw [if_pos hb, hb]
      exact h
    · rw [if_neg hb]
  | some x => exact Tab.find_del ..

theorem find_none_of_not_mem {t : Tab Byte} {a : Nat} (h : a ∉ t.map (·.1)) : t.find a = none := by
  induction t with
  | nil => rfl
  | cons p t ih =>
    obtain ⟨k, v⟩ := p
    rw [List.map_cons, List.mem_cons, not_or] at h
    exact (if_neg (Ne.symm h.1)).trans (ih h.2)

/-- Cleaning the LLC of a die leaves none of its lines there, and every byte as it was. -/
theorem cleanDie_cleans (s : State) (d : Nat) : (∀ b, (s.cleanDie d).homeByte b = s.homeByte b) ∧
    ∀ a, shoalOf a / 80 = d → (s.cleanDie d).llc.find a = none := by
  have key : ∀ (l : List Nat) (u : State), (∀ b, (l.foldl (fun s a => if shoalOf a / 80 = d then s.llcClean a else s) u).homeByte b = u.homeByte b) ∧
      ∀ a, shoalOf a / 80 = d → (a ∈ l ∨ u.llc.find a = none) →
        (l.foldl (fun s a => if shoalOf a / 80 = d then s.llcClean a else s) u).llc.find a = none := by
    intro l
    induction l with
    | nil => exact fun u => ⟨fun _ => rfl, fun a _ h => h.resolve_left List.not_mem_nil⟩
    | cons x l ih =>
      intro u
      obtain ⟨ih1, ih2⟩ := ih (if shoalOf x / 80 = d then u.llcClean x else u)
      refine ⟨fun b => (ih1 b).trans ?_, fun a ha h => ih2 a ha ?_⟩
      · split
        · exact homeByte_llcClean ..
        · rfl
      · by_cases hax : a = x
        · subst hax
          rw [if_pos ha, llcClean_find, if_pos rfl]
          exact .inr rfl
        · refine h.imp (fun h => (List.mem_cons.1 h).resolve_left hax) fun h => ?_
          split
          · rw [llcClean_find, if_neg hax]
            exact h
          · exact h
  obtain ⟨h1, h2⟩ := key (s.llc.map (·.1)) s
  refine ⟨h1, fun a ha => h2 a ha ?_⟩
  by_cases hm : a ∈ s.llc.map (·.1)
  · exact .inl hm
  · exact .inr (find_none_of_not_mem hm)

theorem llcWayDark_goes {s : State} {d w : Nat} (hd : d < 4) (hw : w < 16) (hwant : (s.darkTarget d).getLsbD w = true)
    (hdark : (s.dvReg (0x008 + d)).getLsbD w = false) : Occurs (.llcWayDark d w) s fun r =>
      (r.dvReg (0x008 + d)).getLsbD w = true ∧ (∀ b, r.homeByte b = s.homeByte b) ∧
        ∀ a, isDram a = true → shoalOf a / 80 = d → r.llc.find a = none := by
  have hu : ¬(decide (4 ≤ d) || decide (16 ≤ w)) = true := by
    rw [decide_eq_false (Nat.not_le.2 hd), decide_eq_false (Nat.not_le.2 hw)]
    exact Bool.false_ne_true
  have hno : ¬(!(s.darkTarget d).getLsbD w || (s.dvReg (0x008 + d)).getLsbD w) = true := by
    rw [hwant, hdark]
    exact Bool.false_ne_true
  obtain ⟨h1, h2⟩ := cleanDie_cleans s d
  refine ⟨_, (show exec (.llcWayDark d w) s = execLlcWayDark d w s from rfl).trans ((if_neg hu).trans (event_next (if_neg hno))), ?_, h1, fun a _ => h2 a⟩
  rw [dvReg_setDvReg _ (by omega), getLsbD_setBits _ _ (by omega), if_neg (by omega), getLsbD_setBits _ _ (by omega), if_pos (by omega), Nat.sub_self]
  rfl

/-! Storage errors. -/

theorem raiseEvent_shape (s : State) (p event c : Nat) (payload : List Byte) : ∃ l, s.raiseEvent p event c payload = { s with parts := l } := by
  unfold raiseEvent
  dsimp only
  split
  · split
    · exact ⟨_, rfl⟩
    · exact ⟨_, rfl⟩
  · exact ⟨_, rfl⟩

theorem kept_dv (d : Tab Word) : State.KeptBySaves fun s => s.dv = d where
  team _ _ _ h := h
  ctx _ _ _ h := h
  part _ _ _ h := h
  core _ _ _ _ h := h
  cluster _ _ _ h := h
  memory _ _ _ _ h := h
  out _ _ h := h
  free _ _ h := h
  held _ _ h := h

theorem dvReg_of_dv {s t : State} (h : t.dv = s.dv) (i : Nat) : t.dvReg i = s.dvReg i := by rw [dvReg, dvReg, h]

theorem countError_trans (s : State) : bits ((s.countError false).dvReg 0x00C) 0 16 = min 65535 (bits (s.dvReg 0x00C) 0 16 + 1) ∧
    bits ((s.countError false).dvReg 0x00C) 16 16 = bits (s.dvReg 0x00C) 16 16 := by
  rw [countError, dvReg_setDvReg _ (by omega), if_neg Bool.false_ne_true]
  exact ⟨bits_setBits _ (by omega) (by omega), bits_setBits_of_disjoint _ (by omega) (.inr (by omega))⟩

theorem countError_last (s : State) : bits ((s.countError true).dvReg 0x00C) 16 16 = min 65535 (bits (s.dvReg 0x00C) 16 16 + 1) := by
  rw [countError, dvReg_setDvReg _ (by omega), if_pos rfl]
  exact bits_setBits _ (by omega) (by omega)

theorem dropLines_keeps (s : State) (k : WaveKey) (l : List Nat) : (s.dropLines k l).dv = s.dv ∧ (s.dropLines k l).poison = s.poison := by
  unfold dropLines
  obtain ⟨a, nr⟩ := s.waveSpan k
  dsimp only
  unfold modAgent
  split
  · exact ⟨by simp, by simp⟩
  · exact ⟨rfl, rfl⟩

theorem storageError_transient (s : State) (x : ErrSite) : Occurs (.storageError x .transient) s fun r =>
    bits (r.dvReg 0x00C) 0 16 = min 65535 (bits (s.dvReg 0x00C) 0 16 + 1) ∧ bits (r.dvReg 0x00C) 16 16 = bits (s.dvReg 0x00C) 16 16 := by
  have hx : ∃ r : State, exec (.storageError x .transient) s = .next r ∧ r.dv = (s.countError false).dv := by
    cases x with
    | regLine w g => exact ⟨_, rfl, (dropLines_keeps ..).1.trans ((kept_dv _).writeLine _ w (g / 2) rfl)⟩
    | _ => exact ⟨_, rfl, rfl⟩
  obtain ⟨r, hx, hdv⟩ := hx
  refine ⟨r, hx, ?_⟩
  dsimp only
  rw [dvReg_of_dv hdv]
  exact countError_trans s

theorem refetch_keeps (s : State) (x : ErrSite) : (s.refetch x).dv = s.dv ∧ (s.refetch x).poison = s.poison := by
  cases x with
  | regLine w g => exact dropLines_keeps ..
  | _ => exact ⟨rfl, rfl⟩

theorem storageError_clean {s : State} {x : ErrSite} (h : s.siteClean x = true) : Occurs (.storageError x .lastingClean) s fun r =>
    bits (r.dvReg 0x00C) 16 16 = min 65535 (bits (s.dvReg 0x00C) 16 16 + 1) ∧ r.poison = s.poison := by
  obtain ⟨h1, h2⟩ := refetch_keeps (s.countError true) x
  refine ⟨_, (show exec (.storageError x .lastingClean) s = execStorageError x .lastingClean s from rfl).trans (event_next (if_pos h)), ?_, h2⟩
  rw [dvReg_of_dv h1]
  exact countError_last s

/-- The poisoning of a granule changes no byte of the home points, and no register of the device. -/
def SameHome (s t : State) : Prop := t.dv = s.dv ∧ t.home = s.home ∧ t.llc = s.llc

theorem SameHome.trans {s t u : State} (h : s.SameHome t) (g : t.SameHome u) : s.SameHome u :=
  ⟨g.1.trans h.1, g.2.1.trans h.2.1, g.2.2.trans h.2.2⟩

theorem SameHome.raisePoison (s : State) (p a code : Nat) : s.SameHome (s.raisePoison p a code) := by
  obtain ⟨l, h⟩ := raiseEvent_shape s p 0x08 0xFF (leBytes 8 (a / 64 * 64) ++ [BitVec.ofNat 8 code])
  rw [State.raisePoison, h]
  exact ⟨rfl, rfl, rfl⟩

theorem SameHome.modTeam (s : State) (k : TeamKey) (f : Team → Team) : s.SameHome (s.modTeam k f) := by
  unfold State.modTeam
  split <;> exact ⟨rfl, rfl, rfl⟩

theorem SameHome.modAgent (s : State) (a : Agent) (f : Wave → Wave) : s.SameHome (s.modAgent a f) := by
  unfold State.modAgent
  split
  · exact ⟨by simp, by simp, by simp⟩
  · exact ⟨rfl, rfl, rfl⟩

theorem SameHome.putLagPoison (s : State) (k : TeamKey) (p : Tab Nat) : s.SameHome (s.putLagPoison k p) := by
  unfold State.putLagPoison
  split
  · exact ⟨rfl, rfl, rfl⟩
  · exact SameHome.modTeam ..

theorem poisonSite_sameHome (s : State) (x : ErrSite) : s.SameHome (s.poisonSite x) := by
  have direct (u : State) (h : s.SameHome u) (p a code : Nat) : s.SameHome (u.raisePoison p a code) := h.trans (SameHome.raisePoison ..)
  cases x with
  | dram a => exact direct _ (by exact ⟨rfl, rfl, rfl⟩) _ _ _
  | llc a => exact direct _ (by exact ⟨rfl, rfl, rfl⟩) _ _ _
  | l1 c a => exact direct _ (by exact ⟨rfl, rfl, rfl⟩) _ _ _
  | lagoon t off => exact direct _ (SameHome.putLagPoison s.free.2 ..) _ _ _
  | tile t off => exact direct _ (SameHome.modTeam s.free.2 ..) _ _ _
  | accum t off => exact direct _ (SameHome.modTeam s.free.2 ..) _ _ _
  | regLine w g => exact direct _ (SameHome.modAgent s.free.2 ..) _ _ _
  | busTile t off => exact direct _ (SameHome.modTeam s.free.2.free.2 ..) _ _ _
  | busRow a => exact direct _ (by exact ⟨rfl, rfl, rfl⟩) _ _ _
  | causeway a => exact direct _ (by exact ⟨rfl, rfl, rfl⟩) _ _ _
  | strait a => exact direct _ (by exact ⟨rfl, rfl, rfl⟩) _ _ _
  | hostLink a => exact direct _ (by exact ⟨rfl, rfl, rfl⟩) _ _ _

theorem raisePoison_poison (s : State) (p a code : Nat) : (s.raisePoison p a code).poison = s.poison := by
  obtain ⟨l, h⟩ := raiseEvent_shape s p 0x08 0xFF (leBytes 8 (a / 64 * 64) ++ [BitVec.ofNat 8 code])
  rw [State.raisePoison, h]

theorem storageError_dirty {s : State} {x : ErrSite} (h : s.siteClean x = false ∨ ErrSite.link x = true) :
    Occurs (.storageError x .lastingDirty) s fun r => bits (r.dvReg 0x00C) 16 16 = min 65535 (bits (s.dvReg 0x00C) 16 16 + 1) ∧
        (∀ a, x = .dram a → r.poison.get 0 (a / 64) = 1) ∧ (∀ a, x = .llc a → r.poison.get 0 (a / 64) = 2) ∧
        ∀ b, r.homeByte b = s.homeByte b := by
  have hno : ¬(s.siteClean x && !ErrSite.link x) = true := by
    rcases h with h | h
    · rw [h, Bool.false_and]
      exact Bool.false_ne_true
    · rw [h, Bool.not_true, Bool.and_false]
      exact Bool.false_ne_true
  obtain ⟨hdv, hhome, hllc⟩ := poisonSite_sameHome (s.countError true) x
  refine ⟨_, (show exec (.storageError x .lastingDirty) s = execStorageError x .lastingDirty s from rfl).trans (event_next (if_neg hno)), ?_,
    fun a ha => ?_, fun a ha => ?_, fun b => homeByte_of_tables hhome hllc b⟩
  · rw [dvReg_of_dv hdv]
    exact countError_last s
  · rw [ha, poisonSite, raisePoison_poison]
    exact Tab.get_put_same 0 (s.countError true).poison (a / 64) 1
  · rw [ha, poisonSite, raisePoison_poison]
    exact Tab.get_put_same 0 (s.countError true).poison (a / 64) 2

/-! Attestation. -/

theorem attestationStart_starts {s : State} (h0 : (s.dvReg 0x023).getLsbD 0 = false) (hr : s.ready = true) : Occurs .attestationStart s fun r =>
    (r.dvReg 0x023).getLsbD 0 = true ∧ bits (r.dvReg 0x023) 1 3 = 0 ∧ s.SameMemory r := by
  have hno : ¬((s.dvReg 0x023).getLsbD 0 || !s.ready) = true := by
    rw [h0, hr]
    exact Bool.false_ne_true
  have ha : s.attestationStart = s.setDvReg 0x023 (setBits (s.dvReg 0x023 ||| 1) 1 3 0) := if_neg (Bool.eq_false_iff.1 h0)
  refine ⟨_, (show exec .attestationStart s = execAttestationStart s from rfl).trans (event_next ((if_neg hno).trans (congrArg some ha))), ?_, ?_,
    (SameStore.of_cores rfl rfl rfl).memory⟩
  · rw [dvReg_setDvReg _ (by omega), getLsbD_setBits _ _ (by omega), if_neg (by omega), BitVec.getLsbD_or]
    exact Bool.or_true _
  · rw [dvReg_setDvReg _ (by omega)]
    exact bits_setBits _ (by omega) (by omega)

theorem kept_sec (x : Security) : State.KeptBySaves fun s => s.sec = x where
  team _ _ _ h := h
  ctx _ _ _ h := h
  part _ _ _ h := h
  core _ _ _ _ h := h
  cluster _ _ _ h := h
  memory _ _ _ _ h := h
  out _ _ h := h
  free _ _ h := h
  held _ _ h := h

/-- What the end of a report leaves in `DV_SCSTAT`, where the index is exhausted, the buffer bad, or flash has an error. -/
theorem attestationComplete_fails {s : State} {n : BitVec 3} {rep : List Byte} (hb : (s.dvReg 0x023).getLsbD 0 = true)
    (h : (2 ^ 30 ≤ s.sec.index ∧ n = 3) ∨ (s.sec.index < 2 ^ 30 ∧ s.reportBuffer = none ∧ n = 1) ∨
      (s.sec.index < 2 ^ 30 ∧ s.reportBuffer ≠ none ∧ n = 2)) :
    exec (.attestationComplete n rep) s = .next (s.setDvReg 0x023 (BitVec.ofNat 32 (2 * n.toNat))) := by
  have hno : ¬(!(s.dvReg 0x023).getLsbD 0) = true := by rw [hb]; exact Bool.false_ne_true
  refine (show exec (.attestationComplete n rep) s = execAttestationComplete n rep s from rfl).trans (event_next ((if_neg hno).trans ?_))
  rcases h with ⟨hi, hn⟩ | ⟨hi, hbuf, hn⟩ | ⟨hi, hbuf, hn⟩
  · exact (if_pos (decide_eq_true hi)).trans (if_pos hn)
  · refine (if_neg (Bool.eq_false_iff.1 (decide_eq_false (Nat.not_le.2 hi)))).trans ?_
    rw [hbuf]
    exact if_pos hn
  · refine (if_neg (Bool.eq_false_iff.1 (decide_eq_false (Nat.not_le.2 hi)))).trans ?_
    cases hr : s.reportBuffer with
    | none => exact absurd hr hbuf
    | some a => exact if_pos hn

theorem attestationComplete_reports {s : State} {a : Nat} {rep : List Byte} (hb : (s.dvReg 0x023).getLsbD 0 = true) (hi : s.sec.index < 2 ^ 30)
    (hbuf : s.reportBuffer = some a) (hok : s.reportOk a rep = true) : Occurs (.attestationComplete 0 rep) s fun r =>
        r.sec = { s.sec with index := s.sec.index + 1 } ∧ r.dvReg 0x023 = 0 ∧
          ((∀ c, ∀ q ∈ (s.core c).l1.recs, q.addr / 256 ≠ (a + 64) / 256) → ∀ j, j < rep.length →
            r.homeByte (a + 64 + j) = if s.objWaited (a + 64 + j) = true then s.homeByte (a + 64 + j) else rep[j]?.getD 0) := by
  have hno : ¬(!(s.dvReg 0x023).getLsbD 0) = true := by rw [hb]; exact Bool.false_ne_true
  have hx : exec (.attestationComplete 0 rep) s = .next ((((({ s with sec := { s.sec with index := s.sec.index + 1 } } : State).promoteFor 511
      (a + 64)).recordWrites (a + 64) rep false)).setDvReg 0x023 (BitVec.ofNat 32 (2 * (0 : BitVec 3).toNat))) := by
    refine (show exec (.attestationComplete 0 rep) s = execAttestationComplete 0 rep s from rfl).trans (event_next ((if_neg hno).trans ?_))
    refine (if_neg (Bool.eq_false_iff.1 (decide_eq_false (Nat.not_le.2 hi)))).trans ?_
    rw [hbuf]
    refine (if_neg (by decide)).trans (if_pos ?_)
    rw [hok]
    rfl
  refine ⟨_, hx, ?_, dvReg_setDvReg _ (by omega) _, fun hn j hj => ?_⟩
  · exact (kept_sec _).kept.recordWrites _ _ _ _ ((kept_sec _).kept.promoteFor _ _ _ rfl)
  · rw [promoteFor_none (s := { s with sec := { s.sec with index := s.sec.index + 1 } }) fun c _ => hn c]
    exact (recordWrites_leaves { s with sec := { s.sec with index := s.sec.index + 1 } } (a + 64) rep false).1 j hj

/-! Bring-up. -/

theorem bringUpFail_none {b : BringUp} {x : Security} (h : bringUpFail b x = none) :
    (x.blockFor b).isSome = true ∧ imageAccepted b.firmware x.firmware = true := by
  unfold bringUpFail at h
  extract_lets mine at h
  have hm : mine = 8 := by
    cases hf : b.fails.filter fun k => decide (1 ≤ k) && decide (k ≤ 7) with
    | some k =>
      rw [hf] at h
      exact nomatch h
    | none =>
      rw [hf] at h
      by_contra hn
      exact nomatch (if_neg hn).symm.trans h
  have hm : (if (!imageAccepted b.firmware x.firmware) = true then 2 else if (x.blockFor b).isNone = true then 3 else 8) = 8 := hm
  split at hm
  · exact absurd hm (by decide)
  · next ha =>
    split at hm
    · exact absurd hm (by decide)
    · next hn =>
      refine ⟨?_, ?_⟩
      · cases hx : x.blockFor b with
        | none => exact absurd (by rw [hx]; rfl) hn
        | some _ => rfl
      · exact Bool.not_eq_false _ ▸ fun hf => ha (by rw [hf]; rfl)

/-- The state in which bring-up has accepted firmware and block, and has zeroed the memory. -/
def prepared (s : State) (b : BringUp) (c : ConfigBlock) : State :=
  let u := State.setDvReg { s.powered with sec := (s.sec.takeFirmware b.firmware).takeBlock c } 0x013 (b.straitUp.setWidth 32)
  { u with home := u.home.filter fun q => decide (dramSize ≤ q.1), llc := [], poison := [] }

theorem bringUp_ends {s : State} {b : BringUp} {c : ConfigBlock} (hc : s.sec.blockFor b = some c) :
    s.bringUp b 7 = ((s.prepared b c).startClocks).setDvReg 0x00D 7 := by
  have hc' : (s.sec.takeFirmware b.firmware).blockFor b = some c := hc
  unfold bringUp
  extract_lets u0 u1 u2 u3 u4
  have h1 : u1 = { s.powered with sec := s.sec.takeFirmware b.firmware } := if_pos (by decide)
  have h2 : u2 = { s.powered with sec := (s.sec.takeFirmware b.firmware).takeBlock c } := by
    show (if 3 ≤ 7 then (match u1.sec.blockFor b with | some c => { u1 with sec := u1.sec.takeBlock c } | none => u1) else u1 : State) = _
    rw [if_pos (by decide), h1, hc']
  have h3 : u3 = State.setDvReg { s.powered with sec := (s.sec.takeFirmware b.firmware).takeBlock c } 0x013 (b.straitUp.setWidth 32) :=
    (if_pos (by decide)).trans (congrArg (fun u : State => u.setDvReg 0x013 (b.straitUp.setWidth 32)) h2)
  have h4 : u4 = s.prepared b c := by
    show (if 5 ≤ 7 then { u3 with home := u3.home.filter fun q => decide (dramSize ≤ q.1), llc := [], poison := [] } else u3 : State) = _
    rw [if_pos (by decide), h3]
    rfl
  rw [if_pos (by decide), h4]
  rfl

theorem powerGood_ready {s : State} {b : BringUp} {c : ConfigBlock} (h0 : s.dvReg 0x00D = 0) (hf : bringUpFail b s.sec = none)
    (hc : s.sec.blockFor b = some c) : Occurs (.powerGood b) s fun r => r.dvReg 0x00D = 7 ∧ r.ready = true ∧
      r.sec.enabled = c.enabledMask ∧ r.sec.ceiling = c.ceiling ∧ r.sec.block = some c ∧ r.sec.version = max s.sec.version c.image.version ∧
      r.sec.firmware = max s.sec.firmware b.firmware.version ∧
      r.sec.measures = [(sha256 b.firmware.bytes, b.firmware.version), (sha256 c.image.bytes, c.image.version)] ∧
      r.rate = 0 ∧ r.pkg = 0 ∧ r.govAt = s.timeRef ∧ ∀ d ∈ r.dies, d.bucket = 0 ∧ d.drawAt = s.timeRef := by
  have hx : exec (.powerGood b) s = .next (((s.prepared b c).startClocks).setDvReg 0x00D 7) := by
    refine (show exec (.powerGood b) s = execPowerGood b s from rfl).trans (event_next ((if_neg (not_not.2 h0)).trans ?_))
    rw [hf]
    exact congrArg some (bringUp_ends hc)
  have h7 : (((s.prepared b c).startClocks).setDvReg 0x00D 7).dvReg 0x00D = 7 := dvReg_setDvReg _ (by omega) _
  refine ⟨_, hx, h7, ?_, rfl, rfl, rfl, rfl, rfl, rfl, rfl, rfl, rfl, fun d hd => ?_⟩
  · rw [ready, h7]
    rfl
  · obtain ⟨e, he, rfl⟩ := List.mem_map.1 hd
    obtain rfl : e = {} := List.eq_of_mem_replicate he
    exact ⟨rfl, rfl⟩

theorem powerGood_fails {s : State} {b : BringUp} {k : Nat} (h0 : s.dvReg 0x00D = 0) (h1 : 1 ≤ k) (h7 : k ≤ 7) (hf : bringUpFail b s.sec = some k) :
    Occurs (.powerGood b) s fun r => r.ready = false ∧ bits (r.dvReg 0x00D) 0 4 = 15 ∧ bits (r.dvReg 0x00D) 8 8 = k - 1 := by
  have hx : exec (.powerGood b) s = .next ((s.bringUp b (min 7 (k - 1))).setDvReg 0x00D (BitVec.ofNat 32 (15 + 256 * min 7 (k - 1)))) := by
    refine (show exec (.powerGood b) s = execPowerGood b s from rfl).trans (event_next ((if_neg (not_not.2 h0)).trans ?_))
    rw [hf]
  have hv := dvReg_setDvReg (s.bringUp b (min 7 (k - 1))) (i := 0x00D) (by omega) (BitVec.ofNat 32 (15 + 256 * min 7 (k - 1)))
  have hb : bits (BitVec.ofNat 32 (15 + 256 * min 7 (k - 1))) 0 4 = 15 ∧ bits (BitVec.ofNat 32 (15 + 256 * min 7 (k - 1))) 8 8 = k - 1 := by
    have key : ∀ m ≤ 6, bits (BitVec.ofNat 32 (15 + 256 * m)) 0 4 = 15 ∧ bits (BitVec.ofNat 32 (15 + 256 * m)) 8 8 = m := by decide
    rw [show min 7 (k - 1) = k - 1 by omega]
    exact key (k - 1) (by omega)
  refine ⟨_, hx, ?_, (congrArg (bits · 0 4) hv).trans hb.1, (congrArg (bits · 8 8) hv).trans hb.2⟩
  rw [ready, hv, hb.1]
  rfl

theorem powerLoss_keeps (s : State) : Occurs .powerLoss s fun r =>
    r.sec.version = s.sec.version ∧ r.sec.firmware = s.sec.firmware ∧ r.sec.block = s.sec.block ∧ (r.sec.index = s.sec.index ∨
      (r.sec.index = s.sec.index + 1 ∧ s.sec.index < 2 ^ 30 ∧ (s.dvReg 0x023).getLsbD 0 = true)) ∧
    r.teams = [] ∧ r.grids = [] ∧ r.ops = [] ∧ r.dvReg 0x00D = 0 := by
  refine ⟨_, (show exec .powerLoss s = execPowerLoss s from rfl).trans (event_next rfl), rfl, rfl, rfl, ?_, rfl, rfl, rfl, rfl⟩
  dsimp only
  split
  · next h =>
    simp only [Bool.and_eq_true, decide_eq_true_eq] at h
    exact .inr ⟨rfl, h.2, h.1.1⟩
  · exact .inl rfl

end State

/-- Settles O60. -/
theorem deviceEvents : Obligations.DeviceEvents := by
  unfold Obligations.DeviceEvents
  refine ⟨?_, ?_, ?_, ?_, ?_, State.storageError_transient, fun s x => State.storageError_clean, fun s x => State.storageError_dirty,
    fun s => State.attestationStart_starts, ?_, ?_, State.powerLoss_keeps⟩
  · intro s p e rest hp hlen hq hf
    exact State.eventRecord_records hp hlen hq hf
  · intro s p n hp hlen hr
    exact State.eventRingGet_moves n hp hlen hr
  · intro s c n hc hr
    exact State.faultRingGet_records n hc hr
  · intro s c hc hlen hr
    exact State.pfackRetry_ends hc hlen hr
  · intro s d hd q want dark
    exact ⟨State.llcWayGate_gates hd, fun w hw hwant hdark => State.llcWayDark_goes hd hw hwant hdark⟩
  · intro s rep hb
    refine ⟨fun hi => ?_, fun hi hbuf => ?_, fun a hi hbuf => ⟨?_, State.attestationComplete_reports hb hi hbuf⟩⟩
    · exact ⟨_, State.attestationComplete_fails hb (.inl ⟨hi, rfl⟩), rfl, (State.SameStore.of_cores rfl rfl rfl).memory,
        State.dvReg_setDvReg _ (by omega) _⟩
    · exact ⟨_, State.attestationComplete_fails hb (.inr (.inl ⟨hi, hbuf, rfl⟩)), rfl, State.dvReg_setDvReg _ (by omega) _⟩
    · have hn : s.reportBuffer ≠ none := by rw [hbuf]; exact Option.some_ne_none a
      exact ⟨_, State.attestationComplete_fails hb (.inr (.inr ⟨hi, hn, rfl⟩)), rfl, (State.SameStore.of_cores rfl rfl rfl).memory,
        State.dvReg_setDvReg _ (by omega) _⟩
  · intro s b h0
    exact ⟨fun c hf hc => State.powerGood_ready h0 hf hc, State.bringUpFail_none, fun k h1 h7 hf => State.powerGood_fails h0 h1 h7 hf⟩

end Sys2Proof.Machine
end

section
/-! PROOF. Bytes and words at the home points, and what instructions on barrier and semaphore objects do there. -/

namespace Sys2Proof.Machine

open Sys2Proof

theorem length_leBytes (n w : Nat) : (leBytes n w).length = n := by
  induction n generalizing w with
  | zero => rfl
  | succ n ih => exact congrArg (· + 1) (ih _)

theorem ofLeBytes_leBytes (n w : Nat) : ofLeBytes (leBytes n w) = w % 256 ^ n := by
  induction n generalizing w with
  | zero => exact (Nat.mod_one w).symm
  | succ n ih =>
    rw [leBytes, ofLeBytes, ih, BitVec.toNat_ofNat]
    exact (Nat.mod_mul (x := w) (a := 256) (b := 256 ^ n)).symm.trans (congrArg (w % ·) Nat.pow_succ'.symm)

theorem leBytes_ofLeBytes (bs : List Byte) : leBytes bs.length (ofLeBytes bs) = bs := by
  induction bs with
  | nil => rfl
  | cons b bs ih =>
    rw [List.length_cons, leBytes, ofLeBytes]
    have hb := b.isLt
    have h1 : (b.toNat + 256 * ofLeBytes bs) / 256 = ofLeBytes bs := by omega
    rw [h1, ih]
    congr 1
    apply BitVec.eq_of_toNat_eq
    rw [BitVec.toNat_ofNat]
    omega

namespace State

theorem length_homeBytes (s : State) (a n : Nat) : (s.homeBytes a n).length = n := by
  induction n generalizing a with
  | zero => rfl
  | succ n ih => exact congrArg (· + 1) (ih _)

theorem getElem?_homeBytes (s : State) (a : Nat) {n j : Nat} (h : j < n) : (s.homeBytes a n)[j]? = some (s.homeByte (a + j)) := by
  induction n generalizing a j with
  | zero => omega
  | succ n ih =>
    cases j with
    | zero => rfl
    | succ j => exact (ih (a + 1) (by omega)).trans (by rw [show a + 1 + j = a + (j + 1) by omega])

theorem homeBytes_congr {s t : State} {a n : Nat} (h : ∀ b, a ≤ b → b < a + n → t.homeByte b = s.homeByte b) : t.homeBytes a n = s.homeBytes a n := by
  induction n generalizing a with
  | zero => rfl
  | succ n ih => exact congrArg₂ List.cons (h a (by omega) (by omega)) (ih fun b h1 h2 => h b (by omega) (by omega))

theorem homeBytes_append (s : State) (a m n : Nat) : s.homeBytes a (m + n) = s.homeBytes a m ++ s.homeBytes (a + m) n := by
  induction m generalizing a with
  | zero => rw [Nat.zero_add]; rfl
  | succ m ih =>
    rw [show m + 1 + n = (m + n) + 1 by omega]
    exact congrArg (s.homeByte a :: ·) ((ih (a + 1)).trans (by rw [show a + 1 + m = a + (m + 1) by omega]; rfl))

theorem drop_take_homeBytes (s : State) (a : Nat) {d m n : Nat} (h : d + m ≤ n) : ((s.homeBytes a n).drop d).take m = s.homeBytes (a + d) m := by
  obtain ⟨k, rfl⟩ : ∃ k, n = d + (m + k) := ⟨n - d - m, by omega⟩
  rw [homeBytes_append, List.drop_left' (length_homeBytes ..), homeBytes_append, List.take_left' (length_homeBytes ..)]

theorem homeBytes_homeWrites (s : State) (a : Nat) (bs : List Byte) (wt : Bool) : (s.homeWrites a bs wt).homeBytes a bs.length = bs := by
  refine List.ext_getElem? fun j => ?_
  by_cases hj : j < bs.length
  · rw [getElem?_homeBytes _ _ hj, homeByte_homeWrites, if_pos ⟨by omega, by omega⟩, Nat.add_sub_cancel_left, List.getElem?_eq_getElem hj]
    rfl
  · rw [List.getElem?_eq_none (by rw [length_homeBytes]; omega), List.getElem?_eq_none (by omega)]

theorem homeBytes_homeWrites_other (s : State) {a b n : Nat} {bs : List Byte} (h : b + n ≤ a ∨ a + bs.length ≤ b) (wt : Bool) :
    (s.homeWrites a bs wt).homeBytes b n = s.homeBytes b n :=
  homeBytes_congr fun c h1 h2 => by rw [homeByte_homeWrites, if_neg (by omega)]

/-! Words of objects in memory. -/

theorem objWord_mem (s : State) (a : Nat) {j : Nat} (hj : j < 4) : s.objWord (.mem a) j = BitVec.ofNat 32 (s.homeWord (a + 4 * j) 4) := by
  rw [objWord, objBytes, drop_take_homeBytes s a (by omega), homeWord]

theorem objWord_setObjWord_same (s : State) (a : Nat) (row : Bool) {j : Nat} (hj : j < 4) (v : Word) :
    (s.setObjWord (.mem a) row j v).objWord (.mem a) j = v := by
  have h := homeBytes_homeWrites s (a + 4 * j) (leBytes 4 v.toNat) row
  rw [length_leBytes] at h
  rw [objWord_mem _ _ hj, homeWord, setObjWord, h, ofLeBytes_leBytes]
  apply BitVec.eq_of_toNat_eq
  have := v.isLt
  rw [BitVec.toNat_ofNat]
  omega

theorem objWord_setObjWord_other (s : State) (a : Nat) (row : Bool) {i j : Nat} (hj : j < 4) (h : j ≠ i) (v : Word) :
    (s.setObjWord (.mem a) row i v).objWord (.mem a) j = s.objWord (.mem a) j := by
  rw [objWord_mem _ _ hj, objWord_mem _ _ hj, homeWord, homeWord, setObjWord, homeBytes_homeWrites_other _ (by rw [length_leBytes]; omega)]

theorem objWord_of_homeByte {s t : State} (h : ∀ b, t.homeByte b = s.homeByte b) (a : Nat) (j : Nat) : t.objWord (.mem a) j = s.objWord (.mem a) j := by
  rw [objWord, objWord, objBytes, objBytes, homeBytes_congr fun b _ _ => h b]

theorem setObjWord_waiters (s : State) (a : Nat) (row : Bool) (j : Nat) (v : Word) : (s.setObjWord (.mem a) row j v).waiters = s.waiters :=
  (OnlyHome.homeWrites s (a + 4 * j) (leBytes 4 v.toNat) row).waiters

theorem homeByte_setObjWord (s : State) (a : Nat) (row : Bool) (j : Nat) (v : Word) {b : Nat} (h : b < a + 4 * j ∨ a + 4 * j + 4 ≤ b) :
    (s.setObjWord (.mem a) row j v).homeByte b = s.homeByte b := by
  rw [setObjWord, homeByte_homeWrites, length_leBytes, if_neg (by omega)]

/-! Waiters that run on. -/

/-- The waiters, and the store of the home points, are as they were. -/
def KeepsWaiters (s t : State) : Prop := t.waiters = s.waiters ∧ t.home = s.home ∧ t.llc = s.llc

theorem KeepsWaiters.trans {s t u : State} (h : s.KeepsWaiters t) (g : t.KeepsWaiters u) : s.KeepsWaiters u :=
  ⟨g.1.trans h.1, g.2.1.trans h.2.1, g.2.2.trans h.2.2⟩

theorem KeepsWaiters.modAgent (s : State) (a : Agent) (f : Wave → Wave) : s.KeepsWaiters (s.modAgent a f) := by
  unfold State.modAgent
  split
  · exact ⟨by simp, by simp, by simp⟩
  · exact ⟨rfl, rfl, rfl⟩

theorem KeepsWaiters.acquire (s : State) (c n : Nat) : s.KeepsWaiters (s.acquire c n) := by
  unfold State.acquire
  split
  · exact ⟨rfl, rfl, rfl⟩
  · exact ⟨rfl, rfl, rfl⟩

theorem KeepsWaiters.releaseWaiter (s : State) (w : Waiter) (v : Word) : s.KeepsWaiters (s.releaseWaiter w v) := by
  unfold State.releaseWaiter
  split
  · exact ⟨rfl, rfl, rfl⟩
  · exact (modAgent s w.agent _).trans (acquire ..)

theorem releaseWaiters_spec (s : State) (o : ObjAddr) (p : Waiter → Bool) (v : Word) :
    (s.releaseWaiters o p v).waiters = s.waiters.filter (fun w => !(decide (w.obj = o) && p w)) ∧
      (s.releaseWaiters o p v).home = s.home ∧ (s.releaseWaiters o p v).llc = s.llc := by
  have key : ∀ (l : List Waiter) (u : State), u.KeepsWaiters (l.foldl (fun s w => s.releaseWaiter w v) u) := by
    intro l
    induction l with
    | nil => exact fun u => ⟨rfl, rfl, rfl⟩
    | cons w l ih => exact fun u => (KeepsWaiters.releaseWaiter u w v).trans (ih _)
  exact key _ { s with waiters := s.waiters.filter fun w => !(w.obj = o && p w) }

theorem homeByte_releaseWaiters (s : State) (o : ObjAddr) (p : Waiter → Bool) (v : Word) (b : Nat) :
    (s.releaseWaiters o p v).homeByte b = s.homeByte b :=
  homeByte_of_tables (releaseWaiters_spec s o p v).2.1 (releaseWaiters_spec s o p v).2.2 b

/-- No waiter of the object that the test picks is left. -/
theorem not_picked_of_mem_releaseWaiters {s : State} {o : ObjAddr} {p : Waiter → Bool} {v : Word} {w : Waiter}
    (h : w ∈ (s.releaseWaiters o p v).waiters) (ho : w.obj = o) : p w = false := by
  rw [(releaseWaiters_spec s o p v).1] at h
  have := (List.mem_filter.1 h).2
  rw [decide_eq_true ho, Bool.true_and] at this
  simpa using this

/-- An addition at a byte-counting barrier. -/
theorem objAdd_spec (s : State) (a : Nat) (row : Bool) (n : Word) :
    let o := ObjAddr.mem a
    let t := s.objAdd o row n
    let count := s.objWord o 1 + n
    t.objWord o 0 = s.objWord o 0 ∧
    (if (s.objWord o 0).toNat ≤ count.toNat then
      t.objWord o 1 = count - s.objWord o 0 ∧ t.objWord o 2 = s.objWord o 2 + 1 ∧ ∀ w ∈ t.waiters, w.obj = o → w.phase = false
    else t.objWord o 1 = count ∧ t.objWord o 2 = s.objWord o 2 ∧ t.waiters = s.waiters) ∧
    ∀ b, b < a ∨ a + 16 ≤ b → t.homeByte b = s.homeByte b := by
  intro o t count
  have h1 := setObjWord_waiters s a row
  by_cases hc : (s.objWord o 0).toNat ≤ count.toNat
  · have ht : t = ((s.setObjWord o row 1 (count - s.objWord o 0)).setObjWord o row 2 (s.objWord o 2 + 1)).releaseWaiters o (·.phase) (s.objWord o 2 + 1) :=
      if_pos hc
    rw [ht, if_pos hc]
    have hw (j : Nat) : (State.releaseWaiters ((s.setObjWord o row 1 (count - s.objWord o 0)).setObjWord o row 2 (s.objWord o 2 + 1)) o (·.phase)
        (s.objWord o 2 + 1)).objWord o j = ((s.setObjWord o row 1 (count - s.objWord o 0)).setObjWord o row 2 (s.objWord o 2 + 1)).objWord o j :=
      objWord_of_homeByte (fun b => homeByte_releaseWaiters ..) a j
    refine ⟨?_, ⟨?_, ?_, fun w hwm ho => not_picked_of_mem_releaseWaiters hwm ho⟩, fun b hb => ?_⟩
    · rw [hw, objWord_setObjWord_other _ _ _ (by omega) (by omega), objWord_setObjWord_other _ _ _ (by omega) (by omega)]
    · rw [hw, objWord_setObjWord_other _ _ _ (by omega) (by omega), objWord_setObjWord_same _ _ _ (by omega)]
    · rw [hw, objWord_setObjWord_same _ _ _ (by omega)]
    · rw [homeByte_releaseWaiters, homeByte_setObjWord _ _ _ _ _ (by omega), homeByte_setObjWord _ _ _ _ _ (by omega)]
  · have ht : t = s.setObjWord o row 1 count := if_neg hc
    rw [ht, if_neg hc]
    refine ⟨objWord_setObjWord_other _ _ _ (by omega) (by omega) _, ⟨objWord_setObjWord_same _ _ _ (by omega) _,
      objWord_setObjWord_other _ _ _ (by omega) (by omega) _, setObjWord_waiters ..⟩, fun b hb => homeByte_setObjWord _ _ _ _ _ (by omega)⟩

/-- An addition at a semaphore. -/
theorem semAdd_spec (s : State) (a : Nat) (row : Bool) (n : Word) :
    let t := s.semAdd (.mem a) row n
    t.objWord (.mem a) 0 = s.objWord (.mem a) 0 + n ∧
      (∀ w ∈ t.waiters, w.obj = .mem a → w.phase = false → ¬0 ≤ (s.objWord (.mem a) 0 + n - w.value).toInt) ∧
      ∀ b, b < a ∨ a + 4 ≤ b → t.homeByte b = s.homeByte b := by
  intro t
  refine ⟨?_, fun w hw ho hp h => ?_, fun b hb => ?_⟩
  · exact (objWord_of_homeByte (fun b => homeByte_releaseWaiters ..) a 0).trans (objWord_setObjWord_same s a row (by omega) _)
  · have := not_picked_of_mem_releaseWaiters hw ho
    rw [hp, semPasses, decide_eq_true h] at this
    exact absurd this (by decide)
  · exact (homeByte_releaseWaiters ..).trans (homeByte_setObjWord _ _ _ _ _ (by omega))

end State

/-! Instructions on an object. -/

section
variable {s u : State} {x : Issuer} {i : Instr} {o : ObjAddr} {p : Place}

/-- An object that passes its checks is acted on at its place. -/
theorem withObject_finds {k : BitVec 5} {wr : Bool} (h : s.Finds u x (x.w.kpair (2 * k.toNat)) wr o p) (atom rd : Bool) (rel : Option Nat)
    (go : State → ObjAddr → Place → Effect) :
    withObject x s (BitVec.ofNat 6 (32 + k.toNat)) wr atom rd rel go = atObject x u rd rel o p fun s => go s o p := by
  have hk : (BitVec.ofNat 6 (32 + k.toNat)).toNat - 32 = k.toNat := by
    have := k.isLt
    rw [BitVec.toNat_ofNat]
    omega
  unfold withObject
  rw [hk]
  rcases h with ⟨hva, a, nc, row, hg, rfl, rfl⟩ | ⟨hva, t, off, hl, rfl, rfl, rfl⟩
  · exact (if_neg hva).trans (memAccess_granted hg ..)
  · refine (if_pos hva).trans ?_
    rw [hl]

theorem atObject_reached (rel : Option Nat) {rd : Bool} (go : State → Effect)
    (hreach : (u.beforeObj x (rel.map (objScope x.a o)) p).reachPlace p = .ok)
    (hp : rd = false ∨ (u.reachedBy x rel o p).objPoison ((u.reachedBy x rel o p).coreOf x.a) o = 0) :
    atObject x u rd rel o p go = go (u.reachedBy x rel o p) := by
  unfold atObject
  simp only [hreach]
  refine if_neg fun hc => ?_
  obtain ⟨hrd, hne⟩ := Bool.and_eq_true_iff.1 hc
  rcases hp with hp | hp
  · exact absurd (hp.symm.trans hrd) (by decide)
  · exact of_decide_eq_true hne hp

theorem atObject_noRoute (rel : Option Nat) (rd : Bool) (go : State → Effect)
    (hreach : (u.beforeObj x (rel.map (objScope x.a o)) p).reachPlace p = .noRoute) :
    atObject x u rd rel o p go =
      .done (((u.beforeObj x (rel.map (objScope x.a o)) p).noRoute (partOf x.ctx) p.globalAddr 2 16).pendCause x.a Cause.remote 0) := by
  unfold atObject
  simp only [hreach]

theorem atObject_down (rel : Option Nat) (rd : Bool) (go : State → Effect)
    (hreach : (u.beforeObj x (rel.map (objScope x.a o)) p).reachPlace p = .down) :
    atObject x u rd rel o p go =
      .done (((u.beforeObj x (rel.map (objScope x.a o)) p).requestAt (partOf x.ctx) p 2 16).pendCause x.a Cause.remoteTimeout 0) := by
  unfold atObject
  simp only [hreach]

/-- An instruction of which the effect is what a test does at its object, where it is reached. -/
theorem onObject_of {eff : Issuer → State → Effect} {rd : Bool} {rel : Option Nat} {go : State → Effect} {P : State → Prop} (hr : Ready i s x)
    (he : exec i s = issue i s eff) (hf : eff x s = atObject x u rd rel o p go)
    (hgo : eff x s = go (u.reachedBy x rel o p) → Occurs i s P) : OnObject i s u x rd rel o p P := by
  refine ⟨fun hreach hp => hgo (hf.trans (atObject_reached rel go hreach hp)), fun hreach => ?_, fun hreach => ?_⟩
  · exact occurs_done hr he (hf.trans (atObject_noRoute rel rd go hreach))
  · exact occurs_done hr he (hf.trans (atObject_down rel rd go hreach))

end

/-! The team barrier. -/

/-- The mask of the places of a list that pass a test, with the bits of another. -/
theorem getLsbD_foldl_laneBit (q : Nat → Bool) (n : Nat) (m : LaneMask) {i : Nat} (hi : i < 32) :
    ((List.range n).foldl (fun m j => if q j then m ||| laneBit j else m) m).getLsbD i = (m.getLsbD i || (decide (i < n) && q i)) := by
  induction n with
  | zero => simp
  | succ n ih =>
    rw [List.range_succ, List.foldl_append, List.foldl_cons, List.foldl_nil]
    have hbit : (laneBit n).getLsbD i = decide (i = n) := by
      by_cases hn : n < 32
      · exact laneBit_getLsbD n i hn hi
      · rw [laneBit_high (Nat.not_lt.1 hn), decide_eq_false (by omega)]
        exact BitVec.getLsbD_zero
    by_cases hin : i = n
    · subst hin
      have hlt : decide (i < i + 1) = true := decide_eq_true (by omega)
      have hno : decide (i < i) = false := decide_eq_false (by omega)
      rw [hno, Bool.false_and, Bool.or_false] at ih
      cases hq : q i with
      | true => rw [if_pos rfl, BitVec.getLsbD_or, ih, hbit, hlt, decide_eq_true rfl]; rfl
      | false => rw [if_neg Bool.false_ne_true, ih, hlt]; simp
    · have hlt : decide (i < n + 1) = decide (i < n) := decide_eq_decide.2 (by omega)
      rw [hlt]
      split
      · rw [BitVec.getLsbD_or, ih, hbit, decide_eq_false hin, Bool.or_false]
      · exact ih

/-- The waves that have arrived at a barrier of their team. -/
def Team.arrivals (t : Team) (b : Nat) : LaneMask :=
  (List.range t.waves.length).foldl
    (fun m i => match t.waves[i]? with | some w => if w.atBar b then m ||| laneBit i else m | none => m) (t.bars.get 0 b)

/-- A wave stands at a barrier. -/
def Team.atBar (t : Team) (b i : Nat) : Bool := match t.waves[i]? with | some w => w.atBar b | none => false

theorem Team.getLsbD_arrivals (t : Team) (b : Nat) {i : Nat} (hi : i < 32) :
    (t.arrivals b).getLsbD i = ((t.bars.get 0 b).getLsbD i || (decide (i < t.waves.length) && t.atBar b i)) := by
  rw [← getLsbD_foldl_laneBit (t.atBar b) t.waves.length (t.bars.get 0 b) hi, arrivals]
  congr 2
  funext m j
  unfold atBar
  cases t.waves[j]? with
  | none => rfl
  | some w => rfl

theorem Team.barStep_eq (t : Team) (b : Nat) : t.barStep b =
    if t.arrivals b ≠ 0#32 &&
        (List.range t.waves.length).all (fun i => (t.arrivals b).getLsbD i || (match t.waves[i]? with | some w => w.exited | none => true)) then
      { t with bars := t.bars.put 0 b 0, waves := t.waves.map fun w => w.modLanes (w.waitingAt 2 b) Thread.resumeAfter }
    else { t with bars := t.bars.put 0 b (t.arrivals b) } := rfl

/-- A barrier at which every wave that has not exited stands completes. -/
theorem Team.barStep_completes {t : Team} {b : Nat} (hn : t.waves.length ≤ 32) (h1 : ∃ w ∈ t.waves, w.atBar b = true)
    (hall : ∀ w ∈ t.waves, w.atBar b = true ∨ w.exited = true) :
    (t.barStep b).waves = (t.waves.map fun w => w.modLanes (w.waitingAt 2 b) Thread.resumeAfter) ∧ (t.barStep b).bars.get 0 b = 0 := by
  have hbit {i : Nat} {w : Wave} (hw : t.waves[i]? = some w) (hb : w.atBar b = true) : (t.arrivals b).getLsbD i = true := by
    have hi := (List.getElem?_eq_some_iff.1 hw).1
    rw [getLsbD_arrivals t b (by omega), decide_eq_true hi, atBar, hw]
    simp [hb]
  rw [barStep_eq, if_pos]
  · exact ⟨rfl, Tab.get_put_same 0 t.bars b 0⟩
  · rw [Bool.and_eq_true]
    refine ⟨decide_eq_true fun h0 => ?_, List.all_eq_true.2 fun i hi => ?_⟩
    · obtain ⟨w, hw, hb⟩ := h1
      obtain ⟨i, hi⟩ := List.mem_iff_getElem?.1 hw
      have := hbit hi hb
      rw [h0, BitVec.getLsbD_zero] at this
      exact Bool.false_ne_true this
    · have hw := List.getElem?_eq_getElem (List.mem_range.1 hi)
      rcases hall _ (List.getElem_mem (List.mem_range.1 hi)) with hb | hx
      · rw [hbit hw hb, Bool.true_or]
      · simp only [hw, hx, Bool.or_true]

/-- A barrier that a wave has not reached lets none run on. -/
theorem Team.barStep_waits {t : Team} {b i : Nat} {w : Wave} (hi : i < 32) (hw : t.waves[i]? = some w) (hb : w.atBar b = false)
    (hx : w.exited = false) (hold : (t.bars.get 0 b).getLsbD i = false) : (t.barStep b).waves = t.waves := by
  have hbit : (t.arrivals b).getLsbD i = false := by
    rw [getLsbD_arrivals t b hi, hold, atBar, hw]
    simp [hb]
  rw [barStep_eq, if_neg]
  rw [Bool.and_eq_true]
  intro h
  have := List.all_eq_true.1 h.2 i (List.mem_range.2 (List.getElem?_eq_some_iff.1 hw).1)
  simp [hbit, hw, hx] at this

/-- Settles O39. -/
theorem barrierResults : Obligations.BarrierResults := by
  unfold Obligations.BarrierResults
  refine ⟨?_, fun t b hn h1 hall => Team.barStep_completes hn h1 hall, fun t b i w hi hw hb hx hold => Team.barStep_waits hi hw hb hx hold, ?_,
    State.objAdd_spec⟩
  · intro b s x k hk hr v
    refine occurs_moved hr rfl ?_
    rw [hk]
    rfl
  · intro d k sv s u x o p hr m arrives waits hf rel v a
    have ha : a = if arrives = true then v.objAdd o p.row (x.lanes.foldl (fun n l => n + x.w.vreg (2 * d.toNat) l) 0) else v := by
      rw [← List.foldl_map (f := x.w.vreg (2 * d.toNat)) (g := fun n y => n + y)]
    rw [ha]
    exact onObject_of hr rfl (withObject_finds hf ..) fun h => occurs_done hr rfl h

/-- What a group does whose semaphore test passes or not. -/
theorem semwait_ends {i : Instr} {s v t : State} {x : Issuer} {eff : Issuer → State → Effect} {value y : Word} (hr : Ready i s x)
    (he : exec i s = issue i s eff) (hf : eff x s = if semPasses value y = true then .done v else .moved t) :
    Occurs i s fun r => if 0 ≤ (value - y).toInt then Advances v r x i else Moves t r x := by
  by_cases hp : 0 ≤ (value - y).toInt
  · simp only [if_pos hp]
    exact occurs_done hr he (hf.trans (if_pos (decide_eq_true hp)))
  · simp only [if_neg hp]
    exact occurs_moved hr he (hf.trans (if_neg (Bool.eq_false_iff.1 (decide_eq_false hp))))

/-- Where nothing else holds bytes of a location's line, a read at the home point reads there and changes nothing. -/
theorem State.AtHome.readBytes {s : State} {c a : Nat} (h : s.AtHome c a) (n : Nat) (nc : Bool) : s.readBytes c a n nc true = (s.homeBytes a n, s) := by
  have hpro : s.promoteFor c a = s := promoteFor_none h.records
  have hdrain : s.drainAll c = s := by rw [drainAll, h.queued]; rfl
  have hlist : ((s.core c).l1.dirty.map (·.1)).filter (fun x => x / 256 = a / 256) = [] := by
    refine List.filter_eq_nil_iff.2 fun x hx => ?_
    obtain ⟨p, hp, rfl⟩ := List.mem_map.1 hx
    simpa using h.dirty p hp
  unfold State.readBytes
  split
  · rw [hpro]
  · rw [if_pos (Bool.true_or _)]
    dsimp only
    rw [hdrain, hlist]
    show (State.homeBytes (s.promoteFor c a) a n, s.promoteFor c a) = _
    rw [hpro]

theorem State.consume_clean (s : State) (o : Op) : s.consume o 0 = s := if_pos rfl

theorem State.AtHome.readPlace {s : State} {o : Op} {pa : Nat} (h : s.AtHome o.core pa) (hp : s.poisonAt o.core pa = 0) (n : Nat) (nc row : Bool) :
    s.readPlace o (.mem pa nc row) n true false = (s.homeBytes pa n, s) := by
  unfold State.readPlace
  dsimp only
  rw [hp, State.consume_clean, h.readBytes]
  rfl

/-- A write at a home point that no other core's release covers. -/
theorem State.AtHome.writeHome {s : State} {o : Op} {pa : Nat} (h : s.AtHome o.core pa) (nc row : Bool) (bs : List Byte) :
    s.writeHome o (.mem pa nc row) bs = (s.homeWrites pa bs row).dropSector o.core pa := by
  unfold State.writeHome
  dsimp only
  rw [promoteFor_none h.records]

theorem State.homeByte_dropSector (s : State) (c a b : Nat) : (s.dropSector c a).homeByte b = s.homeByte b := rfl

/-- What the taking of a ticket leaves. -/
def ticketBytes (bs : List Byte) : List Byte := bs.take 4 ++ leBytes 4 (ofLeBytes ((bs.drop 4).take 4) + 1) ++ bs.drop 8

theorem State.runAcc_semTake {s : State} {o : Op} {c : LaneAcc} {d pa : Nat} {nc row : Bool} (hk : o.kind = .semTake d) (hp : c.place = .mem pa nc row)
    (h : s.AtHome o.core pa) (hpois : s.poisonAt o.core pa = 0) : s.runAcc o c =
      (((s.homeBytes pa 16).drop 4).take 4, false, (s.homeWrites pa (ticketBytes (s.homeBytes pa 16)) row).dropSector o.core pa) := by
  unfold State.runAcc
  simp only [hk, hp, h.readPlace hpois, h.writeHome]
  rfl

/-- The bytes of a ticket's object are those that were there but for the ticket's. -/
theorem State.homeByte_ticket (s : State) (pa : Nat) (row : Bool) (b : Nat) :
    (s.homeWrites pa (ticketBytes (s.homeBytes pa 16)) row).homeByte b =
      if pa + 4 ≤ b ∧ b < pa + 8 then (leBytes 4 (s.homeWord (pa + 4) 4 + 1))[b - (pa + 4)]?.getD 0 else s.homeByte b := by
  have hbs : ticketBytes (s.homeBytes pa 16) = s.homeBytes pa 4 ++ (leBytes 4 (s.homeWord (pa + 4) 4 + 1) ++ s.homeBytes (pa + 8) 8) := by
    have h0 : (s.homeBytes pa 16).take 4 = s.homeBytes pa 4 := drop_take_homeBytes s pa (d := 0) (by omega)
    have h4 : ((s.homeBytes pa 16).drop 4).take 4 = s.homeBytes (pa + 4) 4 := drop_take_homeBytes s pa (by omega)
    have h8 : (s.homeBytes pa 16).drop 8 = s.homeBytes (pa + 8) 8 := by
      rw [← drop_take_homeBytes s pa (d := 8) (m := 8) (n := 16) (by omega), List.take_of_length_le]
      rw [List.length_drop, length_homeBytes]
    rw [ticketBytes, h0, h4, h8, List.append_assoc, homeWord]
  rw [homeByte_homeWrites, hbs]
  have hlen : (s.homeBytes pa 4 ++ (leBytes 4 (s.homeWord (pa + 4) 4 + 1) ++ s.homeBytes (pa + 8) 8)).length = 16 := by
    simp [length_homeBytes, length_leBytes]
  rw [hlen]
  by_cases h4 : b < pa + 4
  · rw [if_neg (show ¬(pa + 4 ≤ b ∧ b < pa + 8) by omega)]
    split
    · rw [List.getElem?_append_left (by rw [length_homeBytes]; omega), getElem?_homeBytes _ _ (by omega)]
      exact congrArg s.homeByte (by omega)
    · rfl
  · by_cases h8 : b < pa + 8
    · rw [if_pos (by omega), if_pos (by omega), List.getElem?_append_right (by rw [length_homeBytes]; omega), length_homeBytes,
        List.getElem?_append_left (by rw [length_leBytes]; omega), Nat.sub_sub]
    · rw [if_neg (show ¬(pa + 4 ≤ b ∧ b < pa + 8) by omega)]
      split
      · rw [List.getElem?_append_right (by rw [length_homeBytes]; omega), length_homeBytes,
          List.getElem?_append_right (by rw [length_leBytes]; omega), length_leBytes, getElem?_homeBytes _ _ (by omega)]
        exact congrArg s.homeByte (by omega)
      · rfl

theorem State.semTake_spec {s : State} {o : Op} {c : LaneAcc} {d pa : Nat} {nc row : Bool} (hk : o.kind = .semTake d) (hp : c.place = .mem pa nc row)
    (h : s.AtHome o.core pa) (hpois : s.poisonAt o.core pa = 0) : (s.runAcc o c).1 = s.homeBytes (pa + 4) 4 ∧
      (s.runAcc o c).2.2.homeWord (pa + 4) 4 = (s.homeWord (pa + 4) 4 + 1) % 2 ^ 32 ∧
      ∀ b, b < pa + 4 ∨ pa + 8 ≤ b → (s.runAcc o c).2.2.homeByte b = s.homeByte b := by
  rw [State.runAcc_semTake hk hp h hpois]
  refine ⟨drop_take_homeBytes s pa (by omega), ?_, fun b hb => ?_⟩
  · have hb : State.homeBytes ((s.homeWrites pa (ticketBytes (s.homeBytes pa 16)) row).dropSector o.core pa) (pa + 4) 4 =
        leBytes 4 (s.homeWord (pa + 4) 4 + 1) := by
      refine List.ext_getElem? fun j => ?_
      by_cases hj : j < 4
      · rw [getElem?_homeBytes _ _ hj, State.homeByte_dropSector, State.homeByte_ticket, if_pos (by omega), Nat.add_sub_cancel_left,
          List.getElem?_eq_getElem (by rw [length_leBytes]; exact hj)]
        rfl
      · rw [List.getElem?_eq_none (by rw [length_homeBytes]; omega), List.getElem?_eq_none (by rw [length_leBytes]; omega)]
    rw [State.homeWord, hb, ofLeBytes_leBytes]
    rfl
  · rw [State.homeByte_dropSector, State.homeByte_ticket, if_neg (by omega)]

/-- Settles O40. -/
theorem semaphoreResults : Obligations.SemaphoreResults := by
  unfold Obligations.SemaphoreResults
  refine ⟨?_, ?_, ?_, State.semAdd_spec, ?_⟩
  · intro d k sv s u x o p hr hf v sc
    refine onObject_of hr rfl (withObject_finds hf ..) fun h => ?_
    obtain ⟨t, ht, hP⟩ := semwait_ends hr rfl h
    refine ⟨t, ht, ?_⟩
    dsimp only at hP ⊢
    split
    · next hp => rwa [if_pos hp] at hP
    · next hp =>
      rw [if_neg hp] at hP
      exact ⟨_, rfl, hP⟩
  · intro d k sv s u x o p hr hf rel
    exact onObject_of hr rfl (withObject_finds hf ..) fun h => occurs_done hr rfl h
  · intro f d k sv s u x o p v
    exact ⟨fun hr hf => onObject_of hr rfl (withObject_finds hf ..) fun h => occurs_done hr rfl h,
      fun hr hf => onObject_of hr rfl (withObject_finds hf ..) fun h => occurs_done hr rfl h⟩
  · intro s o c d pa nc row hk hp hat hpois
    exact State.semTake_spec hk hp hat hpois

end Sys2Proof.Machine
end

section
/-! PROOF. The store to a lagoon whose core is reached while another core has recorded a release on a lagoon (O33). -/

namespace Sys2Proof.Machine

open Sys2Proof

/-- A team with a lagoon on core 0. -/
def lagoonTeam : TeamKey := ⟨⟨0, 0⟩, 0⟩

/-- Core 1 holds a dirty byte that its release on a lagoon covers. -/
def lagoonReleased : State :=
  { State.reset with
    teams := [(lagoonTeam, { core := 0 })]
    cores := [(1, { l1 := { dirty := [(0, 5)], recs := [{ addr := lagoonRecord, bytes := [0] }] } })] }

/-- An issuer of the team. -/
def lagoonIssuer : Issuer := { a := .wave ⟨lagoonTeam, 0⟩, w := {}, e := 1, th := {} }

/-- The store that it performs. -/
def lagoonStore : StoreId := { agent := lagoonIssuer.a, num := 0, who := 0, quarter := 0 }

/-- The store to the lagoon makes core 1 promote its release, so that core 2 sees the byte. -/
theorem lagoonReleased_promotes : lagoonReleased.coreByte 2 0 = 0 ∧
    (lagoonReleased.storeLane lagoonIssuer lagoonStore 0 (.lagoon lagoonTeam 0) [7]).coreByte 2 0 = 5 := by
  decide +kernel

/-- Refutes O33: a store to the own lagoon makes every other core promote a release that it recorded on a lagoon (R132), and the bytes that this
brings home are seen by third cores. -/
theorem not_storeResults : ¬ Obligations.StoreResults := by
  unfold Obligations.StoreResults
  rintro ⟨-, -, -, -, h⟩
  have hteam : (lagoonReleased.team? lagoonTeam).isSome = true ∧ lagoonReleased.lagoonCore lagoonTeam = lagoonReleased.coreOf lagoonIssuer.a ∧
      lagoonReleased.waited (.lagoon lagoonTeam 0) [(7 : Byte)].length = false := by
    decide +kernel
  obtain ⟨hk, hc, hw⟩ := hteam
  have hsame := (h lagoonReleased lagoonIssuer lagoonStore 0 lagoonTeam 0 [7] hk hc hw).1 2 0
  rw [lagoonReleased_promotes.1, lagoonReleased_promotes.2] at hsame
  exact absurd hsame (by decide)

end Sys2Proof.Machine
end

section
/-! PROOF. What a core sees through its L1: dirty bytes above queued ones above the clean copy or the home point (R102, R135). -/

namespace Sys2Proof.Machine

open Sys2Proof

/-- A queued write-through holds a location. -/
def Through.covers (t : Through) (a : Nat) : Bool := decide (t.addr ≤ a) && decide (a < t.addr + t.bytes.length)

/-- The byte that the newest queued write-through holds for a location. -/
def L1.queued (l : L1) (a : Nat) : Option Byte := (l.wtq.reverse.find? (·.covers a)).map fun t => t.bytes[a - t.addr]?.getD 0

/-- The byte below dirty and queued ones: of the clean copy, else of the home point. -/
def L1.below (l : L1) (h : Byte) (a : Nat) : Byte := ((l.clean.find (a / 64)).bind fun bs => bs[a % 64]?).getD h

/-- The byte that an L1 shows over one of the home point. -/
def L1.shows (l : L1) (h : Byte) (a : Nat) : Byte := (l.dirty.find a).getD ((l.queued a).getD (l.below h a))

namespace State

theorem coreByte_eq (s : State) (c a : Nat) : s.coreByte c a = (s.core c).l1.shows (s.homeByte a) a := by
  unfold coreByte L1.shows L1.queued L1.below
  generalize (s.core c).l1 = l
  dsimp only
  cases l.dirty.find a with
  | some b => rfl
  | none =>
    cases hq : l.wtq.reverse.find? fun t => decide (t.addr ≤ a) && decide (a < t.addr + t.bytes.length) with
    | some t =>
      have hq' : l.wtq.reverse.find? (·.covers a) = some t := hq
      rw [hq']
      rfl
    | none =>
      have hq' : l.wtq.reverse.find? (·.covers a) = none := hq
      rw [hq']
      cases l.clean.find (a / 64) with
      | none => rfl
      | some bs => rfl

theorem core_modL1 (s : State) (c d : Nat) (f : L1 → L1) :
    ((s.modL1 c f).core d).l1 = if d = c then f (s.core d).l1 else (s.core d).l1 := by
  unfold modL1
  rw [core_putCore]
  split
  · next h => rw [h]
  · rfl

theorem core_modL1_same (s : State) (c : Nat) (f : L1 → L1) : ((s.modL1 c f).core c).l1 = f (s.core c).l1 := (core_modL1 ..).trans (if_pos rfl)
theorem core_modL1_other (s : State) {c d : Nat} (h : d ≠ c) (f : L1 → L1) : ((s.modL1 c f).core d).l1 = (s.core d).l1 :=
  (core_modL1 ..).trans (if_neg h)

theorem coreByte_modL1_other (s : State) {c d : Nat} (h : d ≠ c) (f : L1 → L1) (a : Nat) : (s.modL1 c f).coreByte d a = s.coreByte d a := by
  rw [coreByte_eq, coreByte_eq, core_modL1_other s h]
  rfl

theorem coreByte_modL1_same (s : State) (c : Nat) (f : L1 → L1) (a : Nat) :
    (s.modL1 c f).coreByte c a = (f (s.core c).l1).shows (s.homeByte a) a := by
  rw [coreByte_eq, core_modL1_same]
  rfl

end State

/-! Clean copies. -/

theorem L1.below_takeClean (l : L1) (h : Byte) (a : Nat) (b : Byte) (x : Nat) :
    (l.takeClean a b).below (if x = a then b else h) x = if x = a then b else l.below h x := by
  have hc : (l.takeClean a b).clean.find (x / 64) =
      if x / 64 = a / 64 then (l.clean.find (a / 64)).map (·.set (a % 64) b) else l.clean.find (x / 64) := by
    unfold L1.takeClean
    dsimp only
    cases hf : l.clean.find (a / 64) with
    | some bs =>
      dsimp only
      rw [Tab.find_ins]
      rfl
    | none =>
      dsimp only
      split
      · next h => rw [h, hf]; rfl
      · rfl
  unfold L1.below
  rw [hc]
  by_cases hx : x = a
  · subst hx
    rw [if_pos rfl, if_pos rfl, if_pos rfl]
    cases l.clean.find (x / 64) with
    | none => rfl
    | some bs =>
      show ((bs.set (x % 64) b)[x % 64]?).getD b = b
      rw [List.getElem?_set_self']
      cases bs[x % 64]? <;> rfl
  · rw [if_neg hx, if_neg hx]
    split
    · next hs =>
      rw [hs]
      cases l.clean.find (a / 64) with
      | none => rfl
      | some bs =>
        show ((bs.set (a % 64) b)[x % 64]?).getD h = (bs[x % 64]?).getD h
        rw [List.getElem?_set_ne (by omega)]
    · rfl

/-- Cells that leave for their home points show in the clean copy as there. -/
theorem L1.below_takeCleans (cells : List Host.Cell) (l : L1) (h : Byte) (x : Nat) :
    (cells.foldl (fun l y => l.takeClean y.1 y.2) l).below (cellsByte cells h x) x = cellsByte cells (l.below h x) x := by
  induction cells generalizing l h with
  | nil => rfl
  | cons y cells ih =>
    refine (ih (l.takeClean y.1 y.2) (if x = y.1 then y.2 else h)).trans ?_
    rw [L1.below_takeClean]
    rfl

theorem L1.takeCleans_shape (cells : List Host.Cell) (l : L1) :
    ∃ t, cells.foldl (fun l y => l.takeClean y.1 y.2) l = { l with clean := t } := by
  induction cells generalizing l with
  | nil => exact ⟨l.clean, rfl⟩
  | cons y cells ih =>
    obtain ⟨t, ht⟩ := ih (l.takeClean y.1 y.2)
    exact ⟨t, ht⟩

/-- A filled sector shows what the home point does. -/
theorem State.sameMemory_fillSector (s : State) (c a : Nat) : s.SameMemory (s.fillSector c a) := by
  intro d x
  unfold State.fillSector
  split
  · rfl
  · split
    · rfl
    · next hf =>
      by_cases hd : d = c
      · subst hd
        rw [State.coreByte_modL1_same, State.coreByte_eq]
        unfold L1.shows
        congr 2
        unfold L1.below
        dsimp only
        rw [Tab.find_ins]
        split
        · next hx =>
          rw [hx, hf]
          show (((s.homeBytes (a / 64 * 64) 64)[x % 64]?).getD _) = _
          rw [State.getElem?_homeBytes _ _ (by omega)]
          exact congrArg s.homeByte (by omega)
        · rfl
      · exact State.coreByte_modL1_other s hd _ x

/-! Dirty bytes. -/

theorem L1.undirty_dirty (l : L1) (cells : List Host.Cell) (x : Nat) :
    (l.undirty cells).dirty.find x = if ∃ y ∈ cells, y.1 = x then none else l.dirty.find x := by
  have key : ∀ (cells : List Host.Cell) (d : Tab Byte),
      (cells.foldl (fun (d : Tab Byte) y => d.del y.1) d).find x = if ∃ y ∈ cells, y.1 = x then none else d.find x := by
    intro cells
    induction cells with
    | nil => exact fun d => (if_neg fun ⟨_, h, _⟩ => nomatch h).symm
    | cons y cells ih =>
      intro d
      refine (ih _).trans ?_
      rw [Tab.find_del]
      by_cases h : ∃ y ∈ cells, y.1 = x
      · obtain ⟨z, hz, hzx⟩ := h
        rw [if_pos ⟨z, hz, hzx⟩, if_pos ⟨z, .tail _ hz, hzx⟩]
      · rw [if_neg h]
        by_cases hy : x = y.1
        · rw [if_pos hy, if_pos ⟨y, .head _, hy.symm⟩]
        · rw [if_neg hy, if_neg]
          rintro ⟨z, hz, hzx⟩
          rcases List.mem_cons.1 hz with rfl | hz
          · exact hy hzx.symm
          · exact h ⟨z, hz, hzx⟩
  exact key cells l.dirty

/-- Bytes written to a table at consecutive locations. -/
theorem Tab.find_foldl_ins (a : Nat) (bs : List Byte) (d : Tab Byte) (x : Nat) :
    ((List.range bs.length).foldl (fun d j => d.ins (a + j) (bs[j]?.getD 0)) d).find x =
      if a ≤ x ∧ x < a + bs.length then some (bs[x - a]?.getD 0) else d.find x := by
  have key : ∀ n, ((List.range n).foldl (fun d j => d.ins (a + j) (bs[j]?.getD 0)) d).find x =
      if a ≤ x ∧ x < a + n then some (bs[x - a]?.getD 0) else d.find x := by
    intro n
    induction n with
    | zero => exact (if_neg (by omega)).symm
    | succ n ih =>
      rw [List.range_succ, List.foldl_append, List.foldl_cons, List.foldl_nil, Tab.find_ins, ih]
      by_cases hx : x = a + n
      · rw [if_pos hx, if_pos (by omega), hx, Nat.add_sub_cancel_left]
      · rw [if_neg hx]
        exact if_congr (by omega) rfl rfl
  exact key bs.length

/-! Queued write-throughs. -/

/-- The units of a write hold its bytes, and no others. -/
theorem unitsOf_holds (a : Nat) (bs : List Byte) :
    (∀ p ∈ State.unitsOf a bs, ∀ x, p.1 ≤ x → x < p.1 + p.2.length → a ≤ x ∧ x < a + bs.length ∧ p.2[x - p.1]? = bs[x - a]?) ∧
      ∀ x, a ≤ x → x < a + bs.length → ∃ p ∈ State.unitsOf a bs, p.1 ≤ x ∧ x < p.1 + p.2.length := by
  unfold State.unitsOf
  extract_lets n
  have hn : n = 8 - a % 8 := rfl
  clear_value n
  split
  · next h => exact ⟨fun p hp x h1 h2 => by rw [List.mem_singleton.1 hp] at h1 h2 ⊢; exact ⟨h1, h2, rfl⟩, fun x h1 h2 => ⟨_, .head _, h1, h2⟩⟩
  · next h =>
    refine ⟨fun p hp x h1 h2 => ?_, fun x h1 h2 => ?_⟩
    · rcases List.mem_cons.1 hp with rfl | hp
      · dsimp only at h1 h2 ⊢
        rw [List.length_take] at h2
        exact ⟨h1, by omega, List.getElem?_take_of_lt (by omega)⟩
      · obtain ⟨j, hj, rfl⟩ := List.mem_map.1 hp
        dsimp only at h1 h2 ⊢
        rw [List.length_take, List.length_drop] at h2
        refine ⟨by omega, by omega, ?_⟩
        rw [List.getElem?_take_of_lt (by omega), List.getElem?_drop]
        exact congrArg (bs[·]?) (by omega)
    · by_cases hx : x < a + n
      · refine ⟨_, .head _, h1, ?_⟩
        rw [List.length_take]
        omega
      · refine ⟨(a + n + 8 * ((x - a - n) / 8), (bs.drop (n + 8 * ((x - a - n) / 8))).take 8), .tail _ (List.mem_map.2 ⟨(x - a - n) / 8, List.mem_range.2 ?_, rfl⟩), ?_, ?_⟩
        · omega
        · dsimp only
          omega
        · dsimp only
          rw [List.length_take, List.length_drop]
          omega

/-- What newer write-throughs leave queued for a location. -/
theorem L1.queued_append (l : L1) (ts : List Through) (x : Nat) :
    L1.queued { l with wtq := l.wtq ++ ts } x =
      ((ts.reverse.find? (·.covers x)).map fun t => t.bytes[x - t.addr]?.getD 0).or (l.queued x) := by
  unfold L1.queued
  dsimp only
  rw [List.reverse_append, List.find?_append]
  cases ts.reverse.find? (·.covers x) <;> rfl

/-! The bytes of a store. -/

/-- The queued units of a write show its bytes. -/
theorem find_units (a : Nat) (bs : List Byte) (who : Option StoreId) (row : Bool) (x : Nat) :
    ((((State.unitsOf a bs).map fun p => ({ addr := p.1, bytes := p.2, who := who, row := row } : Through)).reverse.find? (·.covers x)).map
        fun t => t.bytes[x - t.addr]?.getD 0) =
      if a ≤ x ∧ x < a + bs.length then some (bs[x - a]?.getD 0) else none := by
  obtain ⟨hin, hall⟩ := unitsOf_holds a bs
  have cov (t : Through) : t.covers x = true ↔ t.addr ≤ x ∧ x < t.addr + t.bytes.length := by simp [Through.covers]
  cases hf : ((State.unitsOf a bs).map fun p => ({ addr := p.1, bytes := p.2, who := who, row := row } : Through)).reverse.find? (·.covers x) with
  | none =>
    rw [if_neg]
    · rfl
    · rintro ⟨h1, h2⟩
      obtain ⟨p, hp, hx⟩ := hall x h1 h2
      exact List.find?_eq_none.1 hf _ (List.mem_reverse.2 (List.mem_map.2 ⟨p, hp, rfl⟩)) ((cov _).2 hx)
  | some t =>
    have hc := (cov t).1 (by simpa using List.find?_some hf)
    obtain ⟨p, hp, rfl⟩ := List.mem_map.1 (List.mem_reverse.1 (List.mem_of_find?_eq_some hf))
    obtain ⟨h1, h2, h3⟩ := hin p hp x hc.1 hc.2
    rw [if_pos ⟨h1, h2⟩]
    exact congrArg some (congrArg (·.getD 0) h3)

theorem exists_mem_cellsAt {a : Nat} {bs : List Byte} {x : Nat} : (∃ y ∈ cellsAt a bs, y.1 = x) ↔ a ≤ x ∧ x < a + bs.length := by
  constructor
  · rintro ⟨y, hy, rfl⟩
    obtain ⟨j, hj, rfl⟩ := mem_cellsAt.1 hy
    exact ⟨Nat.le_add_right .., Nat.add_lt_add_left hj _⟩
  · rintro ⟨h1, h2⟩
    exact ⟨_, mem_cellsAt.2 ⟨x - a, by omega, rfl⟩, Nat.add_sub_cancel' h1⟩

theorem foldl_zipIdx_takeClean (a : Nat) (bs : List Byte) (l : L1) :
    bs.zipIdx.foldl (fun (l : L1) p => l.takeClean (a + p.2) p.1) l = (cellsAt a bs).foldl (fun l y => l.takeClean y.1 y.2) l := by
  rw [cellsAt, List.mapIdx_eq_zipIdx_map, List.foldl_map]

/-- Bytes written through show while they are queued. -/
theorem L1.shows_through (l : L1) (h : Byte) (who : Option StoreId) (a : Nat) (bs : List Byte) (row : Bool) (x : Nat) :
    L1.shows { bs.zipIdx.foldl (fun (l : L1) p => l.takeClean (a + p.2) p.1) (l.undirty (bs.mapIdx fun j b => (a + j, b))) with
      wtq := l.wtq ++ (State.unitsOf a bs).map fun p => { addr := p.1, bytes := p.2, who := who, row := row } } h x =
      if a ≤ x ∧ x < a + bs.length then bs[x - a]?.getD 0 else l.shows h x := by
  rw [foldl_zipIdx_takeClean]
  have hbelow := L1.below_takeCleans (cellsAt a bs) (l.undirty (cellsAt a bs)) h x
  obtain ⟨t, ht⟩ := L1.takeCleans_shape (cellsAt a bs) (l.undirty (cellsAt a bs))
  have hq := L1.queued_append l ((State.unitsOf a bs).map fun p => { addr := p.1, bytes := p.2, who := who, row := row }) x
  have hd := L1.undirty_dirty l (cellsAt a bs) x
  rw [find_units] at hq
  rw [show (bs.mapIdx fun j b => (a + j, b)) = cellsAt a bs from rfl, ht]
  rw [ht] at hbelow
  unfold L1.shows
  rw [show L1.queued { (l.undirty (cellsAt a bs)) with clean := t, wtq := l.wtq ++ (State.unitsOf a bs).map fun p =>
    { addr := p.1, bytes := p.2, who := who, row := row } } x = _ from hq]
  dsimp only
  rw [hd]
  by_cases hx : a ≤ x ∧ x < a + bs.length
  · rw [if_pos hx, if_pos hx, if_pos (exists_mem_cellsAt.2 hx)]
    rfl
  · rw [if_neg hx, if_neg hx, if_neg (mt exists_mem_cellsAt.1 hx), Option.none_or]
    have hno : ∀ y ∈ cellsAt a bs, y.1 ≠ x := fun y hy hyx => hx (exists_mem_cellsAt.1 ⟨y, hy, hyx⟩)
    rw [cellsByte_of_not_mem hno, cellsByte_of_not_mem hno] at hbelow
    exact congrArg (fun b => (l.dirty.find x).getD ((l.queued x).getD b)) hbelow

/-- A store to an L1 shows its bytes there, and every other byte as before. -/
theorem State.coreByte_writeBytes (s : State) {c : Nat} (hc : c < 320) (who : StoreId) (a : Nat) (bs : List Byte) (nc row : Bool) (x : Nat) :
    (s.writeBytes c who a bs nc row).coreByte c x = if a ≤ x ∧ x < a + bs.length then bs[x - a]?.getD 0 else s.coreByte c x := by
  unfold State.writeBytes
  rw [if_neg (Nat.not_le.2 hc)]
  split
  · rw [State.coreByte_modL1_same, State.coreByte_eq]
    exact L1.shows_through ..
  · rw [State.coreByte_modL1_same, State.coreByte_eq]
    unfold L1.shows
    dsimp only
    rw [Tab.find_foldl_ins]
    split
    · rfl
    · rfl

theorem State.writeBytes_others (s : State) {c : Nat} (hc : c < 320) (who : StoreId) (a : Nat) (bs : List Byte) (nc row : Bool) :
    (∀ d, d ≠ c → ∀ x, (s.writeBytes c who a bs nc row).coreByte d x = s.coreByte d x) ∧
      ∀ x, (s.writeBytes c who a bs nc row).homeByte x = s.homeByte x := by
  unfold State.writeBytes
  rw [if_neg (Nat.not_le.2 hc)]
  split
  · exact ⟨fun d hd x => State.coreByte_modL1_other s hd _ x, fun _ => rfl⟩
  · exact ⟨fun d hd x => State.coreByte_modL1_other s hd _ x, fun _ => rfl⟩

end Sys2Proof.Machine
end

section
/-! PROOF. Atomics in flight, at their home point and in the L1 (O38). -/

namespace Sys2Proof.Machine

open Sys2Proof

/-! Operands and results. -/

theorem ofNat_bits_16 (w : Word) : BitVec.ofNat 64 (bits w 0 16) = (w &&& 0xFFFF).setWidth 64 := by
  apply BitVec.eq_of_toNat_eq
  rw [BitVec.toNat_ofNat, BitVec.toNat_setWidth, BitVec.toNat_and, show (0xFFFF : Word).toNat = 2 ^ 16 - 1 from rfl, Nat.and_two_pow_sub_one_eq_mod, bits]
  simp

theorem atomOperands_eq (n : Nat) (r : Reader) (d : Nat) : atomOperands n r d =
    (if n = 0x03 ∨ n = 0x04 then (r d &&& 0xFFFF).setWidth 64 else if n = 0x13 then (r (d + 1)).setWidth 64 else if n = 0x14 then r.pair (d + 2)
      else if n ∈ [0x01, 0x0E, 0x0F, 0x10, 0x12] then r.pair d else (r d).setWidth 64,
     if n = 0x04 then (r (d + 1)).setWidth 64 else if n = 0x13 then (r d).setWidth 64 else if n = 0x14 then r.pair d else 0) := by
  unfold atomOperands
  split <;> simp_all [ofNat_bits_16]

theorem atomAccs_eq (x : Issuer) (n d : Nat) (ps : List (Nat × Place)) :
    let z (w : Word) : DWord := w.setWidth 64
    atomAccs x n d ps = ps.map fun p =>
      let r := x.w.reader p.1
      { lane := p.1, place := p.2,
        operand :=
          if n = 0x03 ∨ n = 0x04 then z (r d &&& 0xFFFF) else if n = 0x13 then z (r (d + 1)) else if n = 0x14 then r.pair (d + 2)
          else if n ∈ [0x01, 0x0E, 0x0F, 0x10, 0x12] then r.pair d else z (r d),
        compare := if n = 0x04 then z (r (d + 1)) else if n = 0x13 then z (r d) else if n = 0x14 then r.pair d else 0 } := by
  unfold atomAccs
  simp only [atomOperands_eq]

/-! At the home point. -/

theorem State.AtHome.acquire {s : State} {c a : Nat} (h : s.AtHome c a) (d n : Nat) : (s.acquire d n).AtHome c a := by
  have hl (e : Nat) : ((s.acquire d n).core e).l1.wtq = (s.core e).l1.wtq ∧ ((s.acquire d n).core e).l1.dirty = (s.core e).l1.dirty ∧
      ((s.acquire d n).core e).l1.recs = (s.core e).l1.recs := by
    unfold State.acquire
    split
    · exact ⟨rfl, rfl, rfl⟩
    · rw [core_modL1]
      split
      · exact ⟨rfl, rfl, rfl⟩
      · exact ⟨rfl, rfl, rfl⟩
  exact ⟨(hl c).1.trans h.queued, (hl c).2.1 ▸ h.dirty, fun e he => (hl e).2.2 ▸ h.records e he⟩

theorem State.homeByte_acquire (s : State) (c n b : Nat) : (s.acquire c n).homeByte b = s.homeByte b :=
  homeByte_of_tables (KeepsWaiters.acquire s c n).2.1 (KeepsWaiters.acquire s c n).2.2 b

theorem State.AtHome.readPlace_acq {s : State} {o : Op} {pa : Nat} (h : s.AtHome o.core pa) (hp : s.poisonAt o.core pa = 0) (n : Nat) (nc row acq : Bool) :
    s.readPlace o (.mem pa nc row) n true acq = (s.homeBytes pa n, if acq then s.acquire o.core 2 else s) := by
  unfold State.readPlace
  dsimp only
  rw [hp, State.consume_clean, h.readBytes, Bool.and_true]

/-- What an atomic at its home point returns and leaves. -/
theorem State.runAtomic_home {s : State} {o : Op} {a : LaneAcc} {op pa : Nat} {nc row : Bool} (acq rel : Bool) (hp : a.place = .mem pa nc row)
    (hw : s.waited a.place (atomSize op) = false) (h : s.AtHome o.core pa) (hpois : s.poisonAt o.core pa = 0) :
    ∃ u : State, (∀ b, u.homeByte b = s.homeByte b) ∧ s.runAtomic o a op true acq rel = (s.homeBytes pa (atomSize op), false,
      (u.homeWrites pa (leBytes (atomSize op) (rmw op (s.homeWord pa (atomSize op)) a.operand.toNat a.compare.toNat)) row).dropSector o.core pa) := by
  have hno : ¬s.waited a.place (atomSize op) = true := by rw [hw]; exact Bool.false_ne_true
  have hat : (if acq then s.acquire o.core 2 else s).AtHome o.core pa := by
    split
    · exact h.acquire ..
    · exact h
  refine ⟨if acq then s.acquire o.core 2 else s, fun b => ?_, ?_⟩
  · split
    · exact homeByte_acquire ..
    · rfl
  · unfold State.runAtomic
    rw [if_neg hno]
    simp only [hp, Bool.true_or, if_true, Bool.and_true, h.readPlace_acq hpois, hat.writeHome]
    rfl

theorem runAtomic_atHome {s : State} {o : Op} {a : LaneAcc} {op pa : Nat} {nc row : Bool} (acq rel : Bool) (hp : a.place = .mem pa nc row)
    (hw : s.waited a.place (atomSize op) = false) (h : s.AtHome o.core pa) (hpois : s.poisonAt o.core pa = 0) :
    let r := s.runAtomic o a op true acq rel
    r.1 = s.homeBytes pa (atomSize op) ∧ r.2.1 = false ∧
      r.2.2.homeBytes pa (atomSize op) = leBytes (atomSize op) (rmw op (s.homeWord pa (atomSize op)) a.operand.toNat a.compare.toNat) ∧
      ∀ b, b < pa ∨ pa + atomSize op ≤ b → r.2.2.homeByte b = s.homeByte b := by
  intro r
  obtain ⟨u, hu, hr⟩ := State.runAtomic_home acq rel hp hw h hpois
  have hr : r = _ := hr
  rw [hr]
  refine ⟨rfl, rfl, ?_, fun b hb => ?_⟩
  · have := State.homeBytes_homeWrites u pa (leBytes (atomSize op) (rmw op (s.homeWord pa (atomSize op)) a.operand.toNat a.compare.toNat)) row
    rw [length_leBytes] at this
    exact (State.homeBytes_congr fun b _ _ => State.homeByte_dropSector ..).trans this
  · rw [State.homeByte_dropSector, State.homeByte_homeWrites, length_leBytes, if_neg (by omega), hu]

/-! In the L1. -/

/-- A read through the L1 returns what the core sees, and changes no byte that any core sees. -/
theorem State.readBytes_cached {s : State} {c a n : Nat} (hc : c < 320) (hr : ∀ d, d ≠ c → ∀ r ∈ (s.core d).l1.recs, r.addr / 256 ≠ a / 256) :
    ∃ u : State, s.readBytes c a n false false = ((List.range n).map fun j => s.coreByte c (a + j), u) ∧ s.SameMemory u ∧
      ∀ b, u.homeByte b = s.homeByte b := by
  have hsee (j : Nat) : (s.fillSector c a).coreByte c (a + j) = s.coreByte c (a + j) := sameMemory_fillSector s c a c (a + j)
  refine ⟨s.fillSector c a, ?_, sameMemory_fillSector s c a, fun b => ?_⟩
  · unfold State.readBytes
    rw [if_neg (Nat.not_le.2 hc), if_neg (by decide)]
    cases (s.core c).l1.clean.find (a / 64) with
    | some bs =>
      dsimp only
      simp only [hsee]
    | none =>
      dsimp only
      rw [promoteFor_none hr]
      simp only [hsee]
  · unfold State.fillSector
    split
    · rfl
    · split
      · rfl
      · rfl

/-- What an atomic in the L1 returns and leaves. -/
theorem runAtomic_cached {s : State} {o : Op} {a : LaneAcc} {op pa : Nat} {row : Bool} (acq : Bool) (hp : a.place = .mem pa false row)
    (hw : s.waited a.place (atomSize op) = false) (hc : o.core < 320)
    (hr : ∀ c, c ≠ o.core → ∀ r ∈ (s.core c).l1.recs, r.addr / 256 ≠ pa / 256) (hpois : s.poisonAt o.core pa = 0) :
    let old := (List.range (atomSize op)).map fun j => s.coreByte o.core (pa + j)
    let r := s.runAtomic o a op false acq false
    r.1 = old ∧ r.2.1 = false ∧ (∀ b, r.2.2.homeByte b = s.homeByte b) ∧
      (∀ j, j < atomSize op → some (r.2.2.coreByte o.core (pa + j)) =
        (leBytes (atomSize op) (rmw op (ofLeBytes old) a.operand.toNat a.compare.toNat))[j]?) ∧
      ∀ c b, c ≠ o.core ∨ b < pa ∨ pa + atomSize op ≤ b → r.2.2.coreByte c b = s.coreByte c b := by
  intro old r
  obtain ⟨u, hu, hmem, hhome⟩ := State.readBytes_cached (n := atomSize op) hc hr
  have hno : ¬s.waited a.place (atomSize op) = true := by rw [hw]; exact Bool.false_ne_true
  generalize hnew : leBytes (atomSize op) (rmw op (ofLeBytes old) a.operand.toNat a.compare.toNat) = new
  have hlen : new.length = atomSize op := by rw [← hnew, length_leBytes]
  have hr : r = (old, false, u.writeBytes o.core o.storeId pa new false row) := by
    show s.runAtomic o a op false acq false = _
    unfold State.runAtomic
    rw [if_neg hno]
    simp only [hp, Bool.false_or, decide_eq_false (Nat.not_le.2 hc), Bool.false_eq_true, if_false, hpois, State.consume_clean, hu]
    rw [hnew]
  obtain ⟨hother, hh⟩ := State.writeBytes_others u hc o.storeId pa new false row
  rw [hr]
  refine ⟨rfl, rfl, fun b => (hh b).trans (hhome b), fun j hj => ?_, fun c b h => ?_⟩
  · dsimp only
    rw [State.coreByte_writeBytes u hc, if_pos (by omega), Nat.add_sub_cancel_left, List.getElem?_eq_getElem (by omega)]
    rfl
  · dsimp only
    by_cases hcc : c = o.core
    · subst hcc
      rw [State.coreByte_writeBytes u hc, if_neg (by omega), hmem]
    · rw [hother c hcc, hmem]

/-! Completions. -/

/-- The word or the words of a block go to the registers of a lane. -/
theorem Wave.writeBlock_one (w : Wave) (dst l : Nat) {bs : List Byte} (h : bs.length = 4) :
    w.writeBlock false dst l bs = w.setV dst l (BitVec.ofNat 32 (ofLeBytes bs)) := by
  unfold Wave.writeBlock
  rw [h, show List.range ((4 + 3) / 4) = [0] from rfl, List.foldl_cons, List.foldl_nil, if_neg Bool.false_ne_true, Nat.mul_zero, List.drop_zero,
    List.take_of_length_le (Nat.le_of_eq h), Nat.add_zero]

theorem Wave.writeBlock_two (w : Wave) (dst l : Nat) {bs : List Byte} (h : bs.length = 8) : w.writeBlock false dst l bs =
    (w.setV dst l (BitVec.ofNat 32 (ofLeBytes (bs.take 4)))).setV (dst + 1) l (BitVec.ofNat 32 (ofLeBytes (bs.drop 4))) := by
  have h4 : (bs.drop 4).take 4 = bs.drop 4 := List.take_of_length_le (by rw [List.length_drop]; omega)
  unfold Wave.writeBlock
  rw [h, show List.range ((8 + 3) / 4) = [0, 1] from rfl, List.foldl_cons, List.foldl_cons, List.foldl_nil, if_neg Bool.false_ne_true,
    if_neg Bool.false_ne_true, Nat.mul_zero, List.drop_zero, Nat.add_zero, Nat.mul_one, h4]

theorem ofLeBytes_append (as bs : List Byte) : ofLeBytes (as ++ bs) = ofLeBytes as + 256 ^ as.length * ofLeBytes bs := by
  induction as with
  | nil => simp [ofLeBytes]
  | cons a as ih =>
    rw [List.cons_append, ofLeBytes, ofLeBytes, ih, List.length_cons, Nat.pow_succ']
    ring

theorem ofLeBytes_replicate_zero (n : Nat) : ofLeBytes (List.replicate n 0) = 0 := by
  induction n with
  | zero => rfl
  | succ n ih => rw [List.replicate_succ, ofLeBytes, ih]; rfl

/-- A value of up to 4 bytes, extended by zeros. -/
theorem ofLeBytes_extend (bs : List Byte) : ofLeBytes (extendBytes false bs) = ofLeBytes bs := by
  unfold extendBytes
  split
  · rw [ofLeBytes_append]
    simp only [Bool.false_and, Bool.false_eq_true, if_false, ofLeBytes_replicate_zero, Nat.mul_zero, Nat.add_zero]
  · rfl

theorem length_extend (sext : Bool) (bs : List Byte) : (extendBytes sext bs).length = max 4 bs.length := by
  unfold extendBytes
  split
  · rw [List.length_append, List.length_replicate]
    omega
  · omega

theorem ofLeBytes_lt (bs : List Byte) : ofLeBytes bs < 256 ^ bs.length := by
  induction bs with
  | nil => exact Nat.one_pos
  | cons b bs ih =>
    have hb := b.isLt
    rw [ofLeBytes, List.length_cons, Nat.pow_succ']
    omega

theorem pair_ofLeBytes {bs : List Byte} (h : bs.length = 8) :
    pair (BitVec.ofNat 32 (ofLeBytes (bs.take 4))) (BitVec.ofNat 32 (ofLeBytes (bs.drop 4))) = BitVec.ofNat 64 (ofLeBytes bs) := by
  have hlo := ofLeBytes_lt (bs.take 4)
  have hhi := ofLeBytes_lt (bs.drop 4)
  have happ := ofLeBytes_append (bs.take 4) (bs.drop 4)
  rw [List.take_append_drop, List.length_take, h] at happ
  have happ : ofLeBytes bs = ofLeBytes (bs.take 4) + 2 ^ 32 * ofLeBytes (bs.drop 4) := happ
  rw [List.length_take, h] at hlo
  rw [List.length_drop, h] at hhi
  apply BitVec.eq_of_toNat_eq
  rw [pair, BitVec.toNat_append, BitVec.toNat_ofNat, BitVec.toNat_ofNat, BitVec.toNat_ofNat, happ,
    Nat.mod_eq_of_lt (show ofLeBytes (bs.take 4) < 2 ^ 32 from hlo), Nat.mod_eq_of_lt (show ofLeBytes (bs.drop 4) < 2 ^ 32 from hhi),
    ← Nat.shiftLeft_add_eq_or_of_lt (show ofLeBytes (bs.take 4) < 2 ^ 32 from hlo), Nat.shiftLeft_eq]
  have hlo : ofLeBytes (bs.take 4) < 2 ^ 32 := hlo
  have hhi : ofLeBytes (bs.drop 4) < 2 ^ 32 := hhi
  omega

/-- The old value of an atomic goes to the registers of its data block. -/
theorem writeResult_atomic {o : Op} {w : Wave} {a : LaneAcc} {bs : List Byte} {op dst home acq rel : _} (hk : o.kind = .atomic op (some dst) home acq rel)
    (hr : a.result = some bs) (hs : a.skip = false) (hl : bs.length = atomSize op.toNat) (hc : w.cpu = false) (ha : a.lane < 32) :
      (atomSize op.toNat < 8 → (o.writeResult w a).vreg dst a.lane = BitVec.ofNat 32 (ofLeBytes bs)) ∧
      (atomSize op.toNat = 8 → (o.writeResult w a).vpair dst a.lane = BitVec.ofNat 64 (ofLeBytes bs)) ∧
      ∀ m l, l < 32 → l ≠ a.lane ∨ m < dst ∨ dst + 2 ≤ m → (o.writeResult w a).vreg m l = w.vreg m l := by
  have hw : o.writeResult w a = w.writeBlock false dst a.lane (extendBytes false bs) := by
    unfold Op.writeResult
    simp only [hr, hs, hk, Bool.false_eq_true, if_false]
  have hsize : atomSize op.toNat = 2 ∨ atomSize op.toNat = 4 ∨ atomSize op.toNat = 8 := by
    unfold atomSize
    split
    · exact .inr (.inr rfl)
    · split
      · exact .inl rfl
      · exact .inr (.inl rfl)
  have hcc : ¬w.cpu = true := by rw [hc]; exact Bool.false_ne_true
  rw [hw]
  by_cases h8 : atomSize op.toNat = 8
  · have he : extendBytes false bs = bs := if_neg (by omega)
    rw [he, Wave.writeBlock_two _ _ _ (hl.trans h8)]
    have hv (m l : Nat) (hl : l < 32) : ((w.setV dst a.lane (BitVec.ofNat 32 (ofLeBytes (bs.take 4)))).setV (dst + 1) a.lane
        (BitVec.ofNat 32 (ofLeBytes (bs.drop 4)))).vreg m l = if m = dst + 1 ∧ l = a.lane then BitVec.ofNat 32 (ofLeBytes (bs.drop 4))
          else if m = dst ∧ l = a.lane then BitVec.ofNat 32 (ofLeBytes (bs.take 4)) else w.vreg m l := by
      rw [Wave.setV_vreg _ _ _ _ _ _ ha hl, Wave.setV_vreg _ _ _ _ _ _ ha hl, Wave.setV_cpu]
      simp only [hcc, Bool.false_eq_true, false_or]
    refine ⟨fun h => by omega, fun _ => ?_, fun m l hl h => ?_⟩
    · rw [Wave.vpair, hv _ _ ha, hv _ _ ha, if_neg (by omega), if_pos ⟨rfl, rfl⟩, if_pos ⟨rfl, rfl⟩]
      exact pair_ofLeBytes (hl.trans h8)
    · rw [hv _ _ hl, if_neg (by omega), if_neg (by omega)]
  · have he : (extendBytes false bs).length = 4 := by rw [length_extend]; omega
    rw [Wave.writeBlock_one _ _ _ he, ofLeBytes_extend]
    refine ⟨fun _ => ?_, fun h => absurd h h8, fun m l hl h => ?_⟩
    · rw [Wave.setV_vreg _ _ _ _ _ _ ha ha, if_pos ⟨rfl, .inr rfl⟩]
    · rw [Wave.setV_vreg _ _ _ _ _ _ ha hl, if_neg]
      rintro ⟨rfl, h' | rfl⟩
      · exact hcc h'
      · omega

/-! New values. -/

theorem ofNat_toNat_word (x : Word) : BitVec.ofNat 32 x.toNat = x := by rw [BitVec.ofNat_toNat, BitVec.setWidth_eq]

theorem rmw_words (p q : Word) (c : Nat) :
    rmw 0x00 p.toNat q.toNat c = (p + q).toNat ∧ rmw 0x02 p.toNat q.toNat c = (fadd false .rn p q).1.toNat ∧
    rmw 0x05 p.toNat q.toNat c = (BitVec.ofInt 32 (min p.toInt q.toInt)).toNat ∧ rmw 0x06 p.toNat q.toNat c = min p.toNat q.toNat ∧
    rmw 0x07 p.toNat q.toNat c = (BitVec.ofInt 32 (max p.toInt q.toInt)).toNat ∧ rmw 0x08 p.toNat q.toNat c = max p.toNat q.toNat ∧
    rmw 0x09 p.toNat q.toNat c = (fminmax false false p q).1.toNat ∧ rmw 0x0A p.toNat q.toNat c = (fminmax false true p q).1.toNat ∧
    rmw 0x0B p.toNat q.toNat c = (p &&& q).toNat ∧ rmw 0x0C p.toNat q.toNat c = (p ||| q).toNat ∧
    rmw 0x0D p.toNat q.toNat c = (p ^^^ q).toNat ∧ rmw 0x11 p.toNat q.toNat c = q.toNat ∧
    rmw 0x13 p.toNat q.toNat c = (if p.toNat = c then q.toNat else p.toNat) ∧
    rmw 0x15 p.toNat q.toNat c = (if q.toNat ≤ p.toNat then 0 else p.toNat + 1) ∧
    rmw 0x16 p.toNat q.toNat c = (if p.toNat = 0 ∨ q.toNat < p.toNat then q.toNat else p.toNat - 1) := by
  refine ⟨(BitVec.toNat_add p q).symm, ?_, ?_, rfl, ?_, rfl, ?_, ?_, (BitVec.toNat_and p q).symm, (BitVec.toNat_or p q).symm, (BitVec.toNat_xor p q).symm,
    rfl, rfl, rfl, ?_⟩
  · show (fadd false .rn (BitVec.ofNat 32 p.toNat) (BitVec.ofNat 32 q.toNat)).1.toNat = _
    rw [ofNat_toNat_word, ofNat_toNat_word]
  · show (minS (BitVec.ofNat 32 p.toNat) (BitVec.ofNat 32 q.toNat)).toNat = _
    rw [ofNat_toNat_word, ofNat_toNat_word, minS_eq_ofInt]
  · show (maxS (BitVec.ofNat 32 p.toNat) (BitVec.ofNat 32 q.toNat)).toNat = _
    rw [ofNat_toNat_word, ofNat_toNat_word, maxS_eq_ofInt]
  · show (fminmax false false (BitVec.ofNat 32 p.toNat) (BitVec.ofNat 32 q.toNat)).1.toNat = _
    rw [ofNat_toNat_word, ofNat_toNat_word]
  · show (fminmax false true (BitVec.ofNat 32 p.toNat) (BitVec.ofNat 32 q.toNat)).1.toNat = _
    rw [ofNat_toNat_word, ofNat_toNat_word]
  · show (if (decide (p.toNat = 0) || decide (q.toNat < p.toNat)) = true then q.toNat else p.toNat - 1) = _
    rw [← Bool.decide_or]
    exact if_congr decide_eq_true_iff rfl rfl

/-- Settles O38. -/
theorem atomicResults : Obligations.AtomicResults := by
  unfold Obligations.AtomicResults
  intro v
  refine ⟨?_, ?_, by decide, fun x n d ps => atomAccs_eq x n d ps, ?_, ?_, ?_, rmw_words, fun p q c => ?_, fun p q r => ?_⟩
  · intro f d b o sv s u x ps hg m y
    exact ⟨fun hr => occurs_done (units := 1) (price := none) hr rfl (memAccess_granted hg ..),
      fun hr => occurs_done (units := 1) (price := none) hr rfl (memAccess_granted hg ..)⟩
  · intro f d b o sv s x ps hp m y
    have hl (i : Instr) (dst : Option Nat) : lagoonAtom i o dst sv (atomBlock o d).1 b x s = issueAtom i o dst m true (atomBlock o d).1 x s ps := by
      unfold lagoonAtom
      simp only [hp]
      rfl
    exact ⟨fun hr => occurs_done (units := 1) (price := none) hr rfl (hl ..), fun hr => occurs_done (units := 1) (price := none) hr rfl (hl ..)⟩
  · intro s o a op pa nc row acq rel hp hw h hpois
    exact runAtomic_atHome acq rel hp hw h hpois
  · intro s o a op pa row acq hp hw hc _ hr hpois
    exact runAtomic_cached acq hp hw hc hr hpois
  · intro o w a bs op dst home acq rel hk hr hs hl hc ha
    exact writeResult_atomic hk hr hs hl hc ha
  · exact ⟨(BitVec.toNat_add p q).symm, (BitVec.toNat_and p q).symm, (BitVec.toNat_or p q).symm, (BitVec.toNat_xor p q).symm, rfl, rfl⟩
  · refine ⟨rfl, ?_⟩
    show (bf16.ofVal (srSum bf16 _ _ (BitVec.ofNat 32 r.toNat)) (FVal.add (srSum bf16 _ _ (BitVec.ofNat 32 r.toNat)) _ _)).1 = _
    rw [ofNat_toNat_word]

end Sys2Proof.Machine
end

section
/-! PROOF. The write-backs of a core on which nothing else depends: its L1 empties, its bytes come home, and it sees no change (O36, O37). -/

namespace Sys2Proof.Machine

open Sys2Proof

/-! Tables in order. -/

theorem Tab.mem_of_find {t : Tab Byte} {a : Nat} {b : Byte} (h : t.find a = some b) : (a, b) ∈ t := by
  induction t with
  | nil => exact nomatch h
  | cons p t ih =>
    obtain ⟨k, v⟩ := p
    unfold Tab.find at h
    split at h
    · next hk =>
      cases h
      exact hk ▸ List.mem_cons_self
    · exact .tail _ (ih h)

/-- In a table in order, each entry is found at its key. -/
theorem Tab.find_of_mem {t : Tab Byte} (hs : (t.map (·.1)).Pairwise (· < ·)) {y : Nat × Byte} (h : y ∈ t) : t.find y.1 = some y.2 := by
  induction t with
  | nil => exact nomatch h
  | cons p t ih =>
    obtain ⟨hlt, hs⟩ := List.pairwise_cons.1 hs
    rcases List.mem_cons.1 h with rfl | h
    · exact if_pos rfl
    · exact (if_neg (Nat.ne_of_lt (hlt y.1 (List.mem_map.2 ⟨y, h, rfl⟩)))).trans (ih hs h)

theorem Tab.del_sublist (t : Tab Byte) (n : Nat) : (t.del n).Sublist t := by
  induction t with
  | nil => exact .slnil
  | cons p t ih =>
    obtain ⟨k, v⟩ := p
    unfold Tab.del
    split
    · exact .cons _ ih
    · exact .cons_cons _ ih

theorem L1.undirty_sublist (l : L1) (cells : List Host.Cell) : (l.undirty cells).dirty.Sublist l.dirty := by
  have key : ∀ (cells : List Host.Cell) (d : Tab Byte), (cells.foldl (fun (d : Tab Byte) y => d.del y.1) d).Sublist d := by
    intro cells
    induction cells with
    | nil => exact fun d => List.Sublist.refl d
    | cons y cells ih => exact fun d => (ih _).trans (d.del_sublist y.1)
  exact key cells l.dirty

/-- Rising numbers rise by at least one a place. -/
theorem getElem_add_le {l : List Nat} (hs : l.Pairwise (· < ·)) {i j : Nat} (hij : i ≤ j) (hj : j < l.length) :
    l[i]'(by omega) + (j - i) ≤ l[j] := by
  induction j with
  | zero =>
    obtain rfl : i = 0 := by omega
    omega
  | succ j ih =>
    by_cases h : i = j + 1
    · subst h
      omega
    · have h1 := ih (by omega) (by omega)
      have h2 := List.pairwise_iff_getElem.1 hs j (j + 1) (by omega) hj (by omega)
      omega

/-- The 64 cells in order of one granule are its bytes. -/
theorem granule_cells {cells : List Host.Cell} {g : Nat} (hs : (cells.map (·.1)).Pairwise (· < ·)) (hg : ∀ y ∈ cells, y.1 / 64 = g)
    (hl : cells.length = 64) : cells = cellsAt (cells.headD (0, 0)).1 (cells.map (·.2)) := by
  have hkey : ∀ j (hj : j < cells.length), (cells[j]).1 = 64 * g + j := by
    intro j hj
    have hm : (cells.map (·.1)).length = 64 := by rw [List.length_map, hl]
    have hlow := getElem_add_le hs (Nat.zero_le j) (by rw [List.length_map]; exact hj)
    have hhigh := getElem_add_le hs (show j ≤ 63 by omega) (by omega)
    simp only [List.getElem_map] at hlow hhigh
    have h0 := hg _ (List.getElem_mem (show 0 < cells.length by omega))
    have h63 := hg _ (List.getElem_mem (show 63 < cells.length by omega))
    omega
  have hhead : (cells.headD (0, 0)).1 = 64 * g := by
    cases cells with
    | nil => exact absurd hl (by decide)
    | cons y cells => exact hkey 0 (Nat.zero_lt_succ _)
  rw [hhead, cellsAt]
  refine List.ext_getElem (by rw [List.length_mapIdx, List.length_map]) fun j h1 h2 => ?_
  rw [List.getElem_mapIdx, List.getElem_map]
  exact Prod.ext (hkey j h1) rfl

theorem cellsByte_cellsAt (a : Nat) (bs : List Byte) (old : Byte) (x : Nat) :
    cellsByte (cellsAt a bs) old x = if a ≤ x ∧ x < a + bs.length then bs[x - a]?.getD 0 else old := by
  have h := cellsByte_cellsAt_filter a bs (fun _ => true) old x
  simpa using h

theorem headD_cellsAt (a : Nat) (b : Byte) (bs : List Byte) : ((cellsAt a (b :: bs)).headD (0, 0)).1 = a := by
  rw [cellsAt, List.mapIdx_cons]
  rfl

theorem map_snd_cellsAt (a : Nat) (bs : List Byte) : (cellsAt a bs).map (·.2) = bs := by
  refine List.ext_getElem (by rw [List.length_map, cellsAt, List.length_mapIdx]) fun j h1 h2 => ?_
  rw [List.getElem_map]
  simp only [cellsAt, List.getElem_mapIdx]

/-! Bytes that arrive at their home points. -/

/-- Bytes of a core reached their home points, and nothing else that any L1 holds changed but clean copies and poison. -/
structure State.Lands (c : Nat) (cells : List Host.Cell) (s t : State) : Prop where
  waiters : t.waiters = s.waiters
  others  : ∀ d, d ≠ c → (t.core d).l1 = (s.core d).l1
  own     : ∃ clean poison, (t.core c).l1 = { (s.core c).l1 with clean := clean, poison := poison } ∧
    ∀ h x, (t.core c).l1.below (cellsByte cells h x) x = cellsByte cells ((s.core c).l1.below h x) x
  home    : ∀ x, t.homeByte x = cellsByte cells (s.homeByte x) x

namespace State

theorem carryPoison_spec (s : State) (c g : Nat) : (s.carryPoison c g).waiters = s.waiters ∧ (s.carryPoison c g).home = s.home ∧
    (s.carryPoison c g).llc = s.llc ∧ (∀ d, d ≠ c → ((s.carryPoison c g).core d).l1 = (s.core d).l1) ∧
    ∃ po, ((s.carryPoison c g).core c).l1 = { (s.core c).l1 with poison := po } := by
  unfold carryPoison
  dsimp only
  split
  · exact ⟨rfl, rfl, rfl, fun _ _ => rfl, _, rfl⟩
  · split
    · exact ⟨rfl, rfl, rfl, fun _ _ => rfl, _, rfl⟩
    · exact ⟨rfl, rfl, rfl, fun d hd => core_modL1_other _ hd _, _, core_modL1_same ..⟩

theorem request_shape (s : State) (p a kind len : Nat) : ∃ o, s.request p a kind len = { s with out := o } := by
  unfold request
  split
  · exact ⟨_, rfl⟩
  · exact ⟨_, rfl⟩

/-- What reaches the home points of this module, at no object that anything waits at. -/
theorem arriveHome_lands {s : State} {c : Nat} {cells : List Host.Cell} (who : Option StoreId) (wt : Bool) (hw : s.waiters = [])
    (hp : isPeer (cells.headD (0, 0)).1 = false) (h64 : cells.length = 64 → cells = cellsAt (cells.headD (0, 0)).1 (cells.map (·.2))) :
    s.Lands c cells (s.arriveHome c cells who wt) := by
  have hreach : s.reachPlace (.mem (cells.headD (0, 0)).1 false false) = .ok := if_neg (Bool.eq_false_iff.1 hp)
  have hgo : cells.filter (fun x => !s.objWaited x.1) = cells := List.filter_eq_self.2 fun x _ => by rw [objWaited, hw]; rfl
  have hu : ∃ u, (if cells.length = 64 then
        (s.modL1 c fun l => cells.foldl (fun l y => l.takeClean y.1 y.2) l).homeWrites (cells.headD (0, 0)).1 (cells.map (·.2)) wt
      else (s.modL1 c fun l => cells.foldl (fun l y => l.takeClean y.1 y.2) l).homeCells cells wt) = u ∧
      (s.modL1 c fun l => cells.foldl (fun l y => l.takeClean y.1 y.2) l).OnlyHome u ∧
      ∀ x, u.homeByte x = cellsByte cells (s.homeByte x) x := by
    have hsame : ∀ x, (s.modL1 c fun l => cells.foldl (fun l y => l.takeClean y.1 y.2) l).homeByte x = s.homeByte x :=
      homeByte_of_tables rfl rfl
    by_cases hl : cells.length = 64
    · refine ⟨_, if_pos hl, .homeWrites .., fun x => ?_⟩
      rw [homeByte_homeWrites, ← cellsByte_cellsAt, ← h64 hl, hsame]
    · exact ⟨_, if_neg hl, .homeCells .., fun x => (homeByte_homeCells ..).trans (by rw [hsame])⟩
  obtain ⟨u, hu, hhome, hbyte⟩ := hu
  obtain ⟨clean, hclean⟩ := L1.takeCleans_shape cells (s.core c).l1
  obtain ⟨hcw, hch, hcl, hco, po, hcc⟩ := carryPoison_spec u c ((cells.headD (0, 0)).1 / 64)
  have hown : ((u.carryPoison c ((cells.headD (0, 0)).1 / 64)).core c).l1 =
      { cells.foldl (fun l y => l.takeClean y.1 y.2) (s.core c).l1 with poison := po } := by
    rw [hcc, hhome.core, core_modL1_same]
  have hlands : s.Lands c cells (u.carryPoison c ((cells.headD (0, 0)).1 / 64)) :=
    { waiters := hcw.trans hhome.waiters
      others := fun d hd => (hco d hd).trans ((congrArg Core.l1 (hhome.core d)).trans (core_modL1_other s hd _))
      own := ⟨clean, po, by rw [hown, hclean], fun h x => by
        rw [hown]
        exact L1.below_takeCleans cells (s.core c).l1 h x⟩
      home := fun x => (homeByte_of_tables hch hcl x).trans (hbyte x) }
  unfold arriveHome
  dsimp only
  rw [hreach]
  dsimp only
  rw [hgo, hu]
  cases who with
  | none => exact hlands
  | some b =>
    obtain ⟨o, ho⟩ := request_shape (u.carryPoison c ((cells.headD (0, 0)).1 / 64)) (partOf (ctxOf b.agent)) (cells.headD (0, 0)).1 1 cells.length
    dsimp only
    rw [if_pos rfl, ho]
    exact { hlands with }

/-- Nothing that a core writes back meets an object that is waited at, a release of another core, or another module. -/
structure Calm (s : State) (c : Nat) : Prop where
  waiters : s.waiters = []
  records : ∀ d, d ≠ c → (s.core d).l1.recs = []
  dirty   : ∀ p ∈ (s.core c).l1.dirty, isPeer p.1 = false
  queued  : ∀ t ∈ (s.core c).l1.wtq, isPeer t.addr = false
  sorted  : ((s.core c).l1.dirty.map (·.1)).Pairwise (· < ·)

theorem core_mem_or (s : State) (d : Nat) : (d, s.core d) ∈ s.cores ∨ s.core d = {} := by
  unfold State.core
  generalize s.cores = t
  induction t with
  | nil => exact .inr rfl
  | cons p t ih =>
    obtain ⟨k, v⟩ := p
    by_cases hk : k = d
    · subst hk
      left
      have : Tab.get {} ((k, v) :: t) k = v := by simp [Tab.get]
      rw [this]
      exact List.mem_cons_self
    · have : Tab.get {} ((k, v) :: t) d = Tab.get {} t d := by simp [Tab.get, hk]
      rw [this]
      exact ih.imp_left (.tail _)

theorem Quiet.calm {s : State} {c : Nat} (h : s.Quiet c) : s.Calm c where
  waiters := h.waiters
  records d hd := (core_mem_or s d).elim (fun hm => h.records _ hm hd) fun he => by rw [he]
  dirty := h.dirty
  queued := h.queued
  sorted := h.sorted

/-- The oldest write-through came home, and the core sees no change. -/
structure Drains (c : Nat) (s t : State) : Prop where
  calm  : t.Calm c
  wtq   : (t.core c).l1.wtq = (s.core c).l1.wtq.tail
  dirty : (t.core c).l1.dirty = (s.core c).l1.dirty
  recs  : (t.core c).l1.recs = (s.core c).l1.recs
  sees  : ∀ x, t.coreByte c x = s.coreByte c x

end State

theorem L1.queued_cons (l : L1) (t : Through) (q : List Through) (x : Nat) :
    L1.queued { l with wtq := t :: q } x =
      (L1.queued { l with wtq := q } x).or (if t.covers x then some (t.bytes[x - t.addr]?.getD 0) else none) := by
  unfold L1.queued
  rw [List.reverse_cons, List.find?_append]
  cases (q.reverse.find? (·.covers x)) with
  | some _ => rfl
  | none => cases h : t.covers x <;> simp [h]

namespace State

theorem Calm.drainNow {s : State} {c : Nat} (hs : s.Calm c) : Drains c s (s.drainNow c) := by
  unfold State.drainNow
  split
  next hq => exact ⟨hs, by rw [hq]; rfl, rfl, rfl, fun _ => rfl⟩
  next t q hq =>
    have hl1 := core_modL1_same s c fun l => { l with wtq := q }
    have hhead : isPeer ((cellsAt t.addr t.bytes).headD (0, 0)).1 = false := by
      cases hb : t.bytes with
      | nil => exact (by decide : isPeer 0 = false)
      | cons b bs => exact (congrArg isPeer (headD_cellsAt t.addr b bs)).trans (hs.queued t (hq ▸ List.mem_cons_self))
    have h64 : (cellsAt t.addr t.bytes).length = 64 →
        cellsAt t.addr t.bytes = cellsAt ((cellsAt t.addr t.bytes).headD (0, 0)).1 ((cellsAt t.addr t.bytes).map (·.2)) := by
      intro _
      cases hb : t.bytes with
      | nil => rfl
      | cons b bs => rw [headD_cellsAt, map_snd_cellsAt]
    have hl := arriveHome_lands (s := s.modL1 c fun l => { l with wtq := q }) (c := c) t.who t.row hs.waiters hhead h64
    change Drains c s (State.arriveHome _ c (cellsAt t.addr t.bytes) t.who t.row)
    revert hl
    generalize State.arriveHome _ c (cellsAt t.addr t.bytes) t.who t.row = u
    rintro ⟨hw, ho, ⟨clean, po, hown, hbelow⟩, hhome⟩
    rw [hl1] at hown hbelow
    refine ⟨⟨hw.trans hs.waiters, fun d hd => ?_, ?_, ?_, ?_⟩, ?_, ?_, ?_, fun x => ?_⟩
    · rw [ho d hd, core_modL1_other s hd]
      exact hs.records d hd
    · rw [hown]
      exact hs.dirty
    · rw [hown]
      exact fun t' ht => hs.queued t' (hq ▸ .tail _ ht)
    · rw [hown]
      exact hs.sorted
    · rw [hown, hq]
      rfl
    · rw [hown]
    · rw [hown]
    · rw [coreByte_eq, coreByte_eq, L1.shows, L1.shows, hhome, hbelow, cellsByte_cellsAt]
      have hqu : (s.core c).l1.queued x = (L1.queued { (s.core c).l1 with wtq := q } x).or
          (if t.covers x then some (t.bytes[x - t.addr]?.getD 0) else none) := by
        rw [← L1.queued_cons, ← hq]
      have hqd : (u.core c).l1.queued x = L1.queued { (s.core c).l1 with wtq := q } x := by
        rw [hown]
        rfl
      have hdi : (u.core c).l1.dirty = (s.core c).l1.dirty := by rw [hown]
      rw [hqu, hqd, hdi]
      cases L1.queued { (s.core c).l1 with wtq := q } x with
      | some _ => rfl
      | none =>
        by_cases hx : t.addr ≤ x ∧ x < t.addr + t.bytes.length
        · rw [if_pos hx, if_pos (by simpa [Through.covers] using hx)]
          rfl
        · rw [if_neg hx, if_neg (by simpa [Through.covers] using hx)]
          rfl

/-- Dirty bytes came home, and the core sees no change. -/
structure Backs (c : Nat) (s t : State) : Prop where
  calm  : t.Calm c
  wtq   : (t.core c).l1.wtq = []
  recs  : (t.core c).l1.recs = (s.core c).l1.recs
  sees  : ∀ x, t.coreByte c x = s.coreByte c x
  dirty : (t.core c).l1.dirty.Sublist (s.core c).l1.dirty
  clean : ∀ x, (s.core c).l1.dirty.find x = none → t.homeByte x = s.homeByte x
  home  : ∀ x b, (s.core c).l1.dirty.find x = some b → (t.core c).l1.dirty.find x = some b ∨ (t.core c).l1.dirty.find x = none ∧ t.homeByte x = b

theorem Calm.find_iff {s : State} {c : Nat} (hs : s.Calm c) {x : Nat} {b : Byte} :
    (s.core c).l1.dirty.find x = some b ↔ (x, b) ∈ (s.core c).l1.dirty :=
  ⟨Tab.mem_of_find, fun h => Tab.find_of_mem hs.sorted h⟩

theorem Backs.refl {s : State} {c : Nat} (hs : s.Calm c) (hq : (s.core c).l1.wtq = []) : Backs c s s :=
  ⟨hs, hq, rfl, fun _ => rfl, .refl _, fun _ _ => rfl, fun _ _ h => .inl h⟩

/-- No location becomes dirty. -/
theorem Backs.find_none {s t : State} {c x : Nat} (h : Backs c s t) (hs : s.Calm c) (hx : (s.core c).l1.dirty.find x = none) :
    (t.core c).l1.dirty.find x = none := by
  cases ht : (t.core c).l1.dirty.find x with
  | none => rfl
  | some b => exact absurd (hs.find_iff.2 (h.dirty.subset (Tab.mem_of_find ht))) (by rw [hx]; nofun)

theorem Backs.trans {s t u : State} {c : Nat} (hs : s.Calm c) (h : Backs c s t) (g : Backs c t u) : Backs c s u where
  calm := g.calm
  wtq := g.wtq
  recs := g.recs.trans h.recs
  sees x := (g.sees x).trans (h.sees x)
  dirty := g.dirty.trans h.dirty
  clean x hx := (g.clean x (h.find_none hs hx)).trans (h.clean x hx)
  home x b hx := (h.home x b hx).elim (g.home x b) fun ht => .inr ⟨g.find_none h.calm ht.1, (g.clean x ht.1).trans ht.2⟩

/-- The write-back of a location's unit. -/
theorem Calm.writeBackNow {s : State} {c : Nat} (hs : s.Calm c) (hq : (s.core c).l1.wtq = []) (a : Nat) :
    Backs c s (s.writeBackNow c a) ∧ ((s.writeBackNow c a).core c).l1.dirty.find a = none := by
  have hsub : ((s.core c).l1.unit a).Sublist (s.core c).l1.dirty := List.filter_sublist
  have hgran : ∀ y ∈ (s.core c).l1.unit a, y.1 / 64 = a / 64 := by
    intro y hy
    have := (List.mem_filter.1 hy).2
    split at this <;> simp at this <;> omega
  have hself : ∀ y ∈ (s.core c).l1.dirty, y.1 = a → y ∈ (s.core c).l1.unit a := by
    rintro y hy rfl
    refine List.mem_filter.2 ⟨hy, ?_⟩
    split <;> simp
  unfold State.writeBackNow
  dsimp only
  split
  next hu =>
    refine ⟨.refl hs hq, ?_⟩
    cases hf : (s.core c).l1.dirty.find a with
    | none => rfl
    | some b => exact absurd (hu ▸ hself _ (Tab.mem_of_find hf) rfl) (List.not_mem_nil)
  next y cells hu =>
    rw [hu] at hsub hgran hself
    generalize hC : y :: cells = C at *
    have hsorted : (C.map (·.1)).Pairwise (· < ·) := hs.sorted.sublist (hsub.map _)
    have hhead : isPeer (C.headD (0, 0)).1 = false := by
      subst hC
      exact hs.dirty y (hsub.subset List.mem_cons_self)
    have hl1 := core_modL1_same s c (·.undirty C)
    have hl := arriveHome_lands (s := s.modL1 c (·.undirty C)) (c := c) ((s.core c).l1.owners.find (a / 8)) false hs.waiters hhead
      (granule_cells hsorted hgran)
    revert hl
    generalize State.arriveHome _ c C ((s.core c).l1.owners.find (a / 8)) false = u
    rintro ⟨hw, ho, ⟨clean, po, hown, hbelow⟩, hhome⟩
    rw [hl1] at hown hbelow
    have hdi : (u.core c).l1.dirty = ((s.core c).l1.undirty C).dirty := by rw [hown]
    have hfind (x : Nat) : (u.core c).l1.dirty.find x = if ∃ y ∈ C, y.1 = x then none else (s.core c).l1.dirty.find x := by
      rw [hdi, L1.undirty_dirty]
    have hdsub : (u.core c).l1.dirty.Sublist (s.core c).l1.dirty := hdi ▸ L1.undirty_sublist ..
    have hcell : ∀ z ∈ C, ∀ old, cellsByte C old z.1 = z.2 := fun z hz old => cellsByte_of_mem hz (fun z' hz' he => by
      have h1 := hs.find_iff.2 (hsub.subset hz)
      have h2 := hs.find_iff.2 (hsub.subset hz')
      rw [he, h1] at h2
      exact (Option.some.inj h2).symm) old
    have hother : ∀ x, (¬∃ y ∈ C, y.1 = x) → ∀ old, cellsByte C old x = old := fun x hx old =>
      cellsByte_of_not_mem (fun z hz he => hx ⟨z, hz, he⟩) old
    have hsame (x : Nat) : u.homeByte x = cellsByte C (s.homeByte x) x := hhome x
    refine ⟨⟨⟨hw.trans hs.waiters, fun d hd => ?_, fun z hz => hs.dirty z (hdsub.subset hz), ?_, hs.sorted.sublist (hdsub.map _)⟩,
      ?_, ?_, fun x => ?_, hdsub, fun x hx => ?_, fun x b hx => ?_⟩, ?_⟩
    · rw [ho d hd, core_modL1_other s hd]
      exact hs.records d hd
    · rw [hown]
      exact hs.queued
    · rw [hown]
      exact hq
    · rw [hown]
      rfl
    · rw [coreByte_eq, coreByte_eq, L1.shows, L1.shows, hfind, hsame, hbelow]
      have hqu : (u.core c).l1.queued x = none := by
        rw [hown]
        simp [L1.queued, L1.undirty, hq]
      have hqs : (s.core c).l1.queued x = none := by simp [L1.queued, hq]
      rw [hqu, hqs]
      by_cases hx : ∃ y ∈ C, y.1 = x
      · obtain ⟨z, hz, rfl⟩ := hx
        rw [if_pos ⟨z, hz, rfl⟩, hs.find_iff.2 (hsub.subset hz), hcell z hz]
        rfl
      · rw [if_neg hx, hother x hx]
        rfl
    · rw [hsame, hother]
      rintro ⟨z, hz, rfl⟩
      exact absurd (hs.find_iff.2 (hsub.subset hz)) (by rw [hx]; nofun)
    · rw [hfind, hsame]
      by_cases hx' : ∃ y ∈ C, y.1 = x
      · obtain ⟨z, hz, rfl⟩ := hx'
        have := hs.find_iff.2 (hsub.subset hz)
        rw [hx] at this
        exact .inr ⟨if_pos ⟨z, hz, rfl⟩, (hcell z hz _).trans (Option.some.inj this).symm⟩
      · exact .inl ((if_neg hx').trans hx)
    · rw [hfind]
      split
      · rfl
      · next hx =>
        cases hf : (s.core c).l1.dirty.find a with
        | none => rfl
        | some b => exact absurd ⟨_, hself _ (Tab.mem_of_find hf) rfl, rfl⟩ hx

/-- Each step of a loop over the queue drains one write-through. -/
theorem Calm.foldl_drains {α : Type} {f : State → α → State} {c : Nat} (hf : ∀ s a, s.Calm c → f s a = s.drainNow c) (l : List α) :
    ∀ s, s.Calm c → l.length = (s.core c).l1.wtq.length →
      (l.foldl f s).Calm c ∧ ((l.foldl f s).core c).l1.wtq = [] ∧ ((l.foldl f s).core c).l1.dirty = (s.core c).l1.dirty ∧
        ((l.foldl f s).core c).l1.recs = (s.core c).l1.recs ∧ ∀ x, (l.foldl f s).coreByte c x = s.coreByte c x := by
  induction l with
  | nil => exact fun s hs hl => ⟨hs, List.eq_nil_of_length_eq_zero hl.symm, rfl, rfl, fun _ => rfl⟩
  | cons a l ih =>
    intro s hs hl
    have h := hs.drainNow
    obtain ⟨hc, hq, hd, hr, hb⟩ := ih _ h.calm (by rw [h.wtq, List.length_tail, ← hl]; rfl)
    rw [List.foldl_cons, hf s a hs]
    exact ⟨hc, hq, hd.trans h.dirty, hr.trans h.recs, fun x => (hb x).trans (h.sees x)⟩

/-- Each step of a loop writes a unit back. -/
theorem Calm.foldl_backs {f : State → Nat → State} {c : Nat}
    (hf : ∀ s a, s.Calm c → (s.core c).l1.wtq = [] → f s a = s.writeBackNow c a) (l : List Nat) :
    ∀ s, s.Calm c → (s.core c).l1.wtq = [] →
      Backs c s (l.foldl f s) ∧ ∀ a ∈ l, ((l.foldl f s).core c).l1.dirty.find a = none := by
  induction l with
  | nil => exact fun s hs hq => ⟨.refl hs hq, fun _ h => nomatch h⟩
  | cons a l ih =>
    intro s hs hq
    rw [List.foldl_cons, hf s a hs hq]
    obtain ⟨h, ha⟩ := hs.writeBackNow hq a
    obtain ⟨hl, hn⟩ := ih _ h.calm h.wtq
    refine ⟨h.trans hs hl, fun b hb => ?_⟩
    rcases List.mem_cons.1 hb with rfl | hb
    · exact hl.find_none h.calm ha
    · exact hn b hb

theorem Calm.promoteFor {s : State} {c : Nat} (hs : s.Calm c) (a : Nat) : s.promoteFor c a = s :=
  promoteFor_none fun d hd _ hr => nomatch hs.records d hd ▸ hr

theorem Calm.drainOne {s : State} {c : Nat} (hs : s.Calm c) : s.drainOne c = s.drainNow c := by
  unfold State.drainOne
  split
  next hq =>
    unfold State.drainNow
    rw [hq]
  next => rw [hs.promoteFor]

theorem Calm.writeBack {s : State} {c : Nat} (hs : s.Calm c) (hq : (s.core c).l1.wtq = []) (a : Nat) :
    s.writeBack c a = s.writeBackNow c a := by
  rw [State.writeBack, drainBefore, hq, if_neg (by simp), hs.promoteFor]

/-- A release wider than a core. -/
theorem Calm.release {s : State} {c : Nat} (hs : s.Calm c) (hc : c < 320) :
    ((s.release c 2 none).core c).l1.dirty = [] ∧ ((s.release c 2 none).core c).l1.wtq = [] ∧
      (∀ x, (s.release c 2 none).coreByte c x = s.coreByte c x) ∧
      ∀ x b, (s.core c).l1.dirty.find x = some b → (s.release c 2 none).homeByte x = b := by
  have he : s.release c 2 none = (s.drainAll c).writeBackAll c (((s.drainAll c).core c).l1.dirty.map (·.1)) := by
    rw [State.release, if_neg (by simp; omega), if_neg (by decide)]
  obtain ⟨hdc, hdq, hdd, -, hdb⟩ :=
    Calm.foldl_drains (f := fun s _ => s.drainOne c) (fun _ _ h => h.drainOne) (s.core c).l1.wtq s hs rfl
  change (s.drainAll c).Calm c at hdc
  change ((s.drainAll c).core c).l1.wtq = [] at hdq
  change ((s.drainAll c).core c).l1.dirty = _ at hdd
  change ∀ x, (s.drainAll c).coreByte c x = _ at hdb
  rw [he, hdd]
  obtain ⟨hb, hn⟩ := Calm.foldl_backs (f := fun s a => s.writeBack c a) (fun _ a h hq => h.writeBack hq a)
    ((s.core c).l1.dirty.map (·.1)) _ hdc hdq
  change Backs c _ ((s.drainAll c).writeBackAll c ((s.core c).l1.dirty.map (·.1))) at hb
  change ∀ a ∈ _, (((s.drainAll c).writeBackAll c ((s.core c).l1.dirty.map (·.1))).core c).l1.dirty.find a = none at hn
  have hclear : ∀ x b, (x, b) ∈ (s.core c).l1.dirty →
      (((s.drainAll c).writeBackAll c ((s.core c).l1.dirty.map (·.1))).core c).l1.dirty.find x = none :=
    fun x b h => hn x (List.mem_map.2 ⟨_, h, rfl⟩)
  refine ⟨List.eq_nil_iff_forall_not_mem.2 fun y hy => ?_, hb.wtq, fun x => (hb.sees x).trans (hdb x), fun x b hx => ?_⟩
  · have := hb.calm.find_iff.2 hy
    rw [hclear y.1 y.2 (hdd ▸ hb.dirty.subset hy)] at this
    exact nomatch this
  · have h := hb.home x b (hdd ▸ hx)
    rw [hclear x b (hs.find_iff.1 hx)] at h
    exact (h.resolve_left nofun).2

/-- What a promotion makes the other cores promote. -/
def promoteOut (f : Nat) (c : Nat) (s : State) (a : Nat) : State :=
  s.cores.foldl
    (fun s (c', _) =>
      if c' = c then s
      else
        match ((s.core c').l1.recs.reverse.findIdx? fun r => r.addr / 256 = a / 256) with
        | some j => promoteTo f s c' ((s.core c').l1.recs.length - 1 - j)
        | none => s)
    s

theorem promoteTo_succ (f : Nat) (s : State) (c n : Nat) :
    promoteTo (f + 1) s c n =
      (((s.core c).l1.recs.take (n + 1)).flatMap (·.bytes)).foldl (fun s a => (promoteOut f c s a).writeBackNow c a)
        ((((s.modL1 c fun l => { l with recs := l.recs.drop (n + 1) }).wakeCore c).core c).l1.wtq.foldl
          (fun s t => (promoteOut f c s t.addr).drainNow c) ((s.modL1 c fun l => { l with recs := l.recs.drop (n + 1) }).wakeCore c)) := by
  rw [promoteTo]
  rfl

theorem Calm.promoteOut {s : State} {c : Nat} (hs : s.Calm c) (f a : Nat) : promoteOut f c s a = s := by
  unfold State.promoteOut
  generalize s.cores = l
  induction l with
  | nil => rfl
  | cons p l ih =>
    obtain ⟨c', x⟩ := p
    rw [List.foldl_cons]
    by_cases hc : c' = c
    · simp only [if_pos hc]
      exact ih
    · simp only [if_neg hc, hs.records c' hc]
      exact ih

theorem l1_wakeCore (s : State) (c d : Nat) : ((s.wakeCore c).core d).l1 = (s.core d).l1 := by
  unfold State.wakeCore
  split
  · rw [core_putCore]
    split
    · next h => rw [h]
    · rfl
  · rfl

theorem wakeCore_memory (s : State) (c : Nat) :
    (s.wakeCore c).waiters = s.waiters ∧ (s.wakeCore c).home = s.home ∧ (s.wakeCore c).llc = s.llc := by
  unfold State.wakeCore
  split
  · exact ⟨rfl, rfl, rfl⟩
  · exact ⟨rfl, rfl, rfl⟩

/-- Without some of its records, a core is as calm, and it sees what it saw. -/
theorem Calm.forget {s : State} {c : Nat} (hs : s.Calm c) (n : Nat) :
    ((s.modL1 c fun l => { l with recs := l.recs.drop n }).wakeCore c).Calm c ∧
      (((s.modL1 c fun l => { l with recs := l.recs.drop n }).wakeCore c).core c).l1.recs = (s.core c).l1.recs.drop n ∧
      ∀ x, ((s.modL1 c fun l => { l with recs := l.recs.drop n }).wakeCore c).coreByte c x = s.coreByte c x := by
  have hown := (l1_wakeCore (s.modL1 c fun l => { l with recs := l.recs.drop n }) c c).trans (core_modL1_same ..)
  have hother (d : Nat) (hd : d ≠ c) := (l1_wakeCore (s.modL1 c fun l => { l with recs := l.recs.drop n }) c d).trans (core_modL1_other s hd _)
  obtain ⟨hw, hh, hl⟩ := wakeCore_memory (s.modL1 c fun l => { l with recs := l.recs.drop n }) c
  have hbyte := homeByte_of_tables (s := s) hh hl
  generalize (s.modL1 c fun l => { l with recs := l.recs.drop n }).wakeCore c = u at *
  refine ⟨⟨hw.trans hs.waiters, fun d hd => ?_, ?_, ?_, ?_⟩, ?_, fun x => ?_⟩
  · rw [hother d hd]
    exact hs.records d hd
  · rw [hown]
    exact hs.dirty
  · rw [hown]
    exact hs.queued
  · rw [hown]
    exact hs.sorted
  · rw [hown]
  · rw [coreByte_eq, coreByte_eq, hown, hbyte]
    rfl

/-- The promotion of a core's oldest record. -/
theorem Calm.promote {s : State} {c : Nat} (hs : s.Calm c) :
    ((s.promote c 0).core c).l1.recs = (s.core c).l1.recs.drop 1 ∧ ∀ x, (s.promote c 0).coreByte c x = s.coreByte c x := by
  obtain ⟨hu, hur, hub⟩ := hs.forget 1
  rw [State.promote, promoteTo_succ]
  obtain ⟨hdc, hdq, -, hdr, hdb⟩ := Calm.foldl_drains (f := fun s' (t : Through) => (State.promoteOut s.cores.length c s' t.addr).drainNow c)
    (fun _ _ h => congrArg (fun v => State.drainNow v c) (h.promoteOut _ _)) _ _ hu rfl
  obtain ⟨hb, -⟩ := Calm.foldl_backs (f := fun s' a => (State.promoteOut s.cores.length c s' a).writeBackNow c a)
    (fun _ a h _ => congrArg (fun v => State.writeBackNow v c a) (h.promoteOut _ _))
    (((s.core c).l1.recs.take (0 + 1)).flatMap (·.bytes)) _ hdc hdq
  exact ⟨hb.recs.trans (hdr.trans hur), fun x => (hb.sees x).trans ((hdb x).trans (hub x))⟩

end State

end Sys2Proof.Machine
end

section
/-! PROOF. Fences and prefetches (O36). -/

namespace Sys2Proof.Machine

open Sys2Proof

/-- A strong write of a lane that a `FENCE.rel` at `.core` stands before is a release point there. -/
theorem State.recordRelease_fenced (s : State) {x : Issuer} {m : Sem} {lanes : LaneMask} {l : Nat} (pa : Nat) (nc row : Bool)
    (hs : m.strong = true) (hr : m.rel = false) (he : x.e.getLsbD l = true) (hlanes : lanes.getLsbD l = true)
    (hf : x.w.relFence.getLsbD l = true) : s.recordRelease x m lanes (.mem pa nc row) = s.release (s.coreOf x.a) 1 (some pa) := by
  refine if_pos fun h => ?_
  have hb := congrArg (fun v => BitVec.getLsbD v l) h
  simp [Issuer.coreReleases, hs, hr, he, hlanes, hf] at hb

theorem State.core_acquire (s : State) {c n : Nat} (hc : c < 320) (hn : 2 ≤ n) :
    s.acquire c n = s.modL1 c fun l => { l with clean := [] } := if_neg (by simp; omega)

theorem fence_occurs {sv : BitVec 5} {s : State} {x : Issuer} (hr : Ready (.fence sv) s x) :
    let m := semOf sv.toNat 3
    let u := s.forceAll x.a
    let v :=
      if m.rel = true ∧ m.scope = 1 then u.modAgent x.a fun w => { w with relFence := w.relFence ||| x.e }
      else if m.rel = true ∧ 2 ≤ m.scope then u.release (u.coreOf x.a) 2 none
      else u
    Occurs (.fence sv) s fun t => Advances (if m.acq then v.acquire (v.coreOf x.a) m.scope else v) t x (.fence sv) := by
  intro m u v
  refine occurs_done (units := 1) (price := none) hr (show _ = execFence sv s from rfl) ?_
  have hv : (if m.rel && m.scope = 1 then u.modAgent x.a fun w => { w with relFence := w.relFence ||| x.e }
      else if m.rel && decide (2 ≤ m.scope) then u.release (u.coreOf x.a) 2 none
      else u) = v := by
    simp only [v, Bool.and_eq_true, decide_eq_true_eq]
  rw [← hv]
  rfl

theorem pref_occurs {d b : BitVec 6} {o : BitVec 5} {s : State} {x : Issuer} (hr : Ready (.pref d b o) s x) :
    Occurs (.pref d b o) s fun t =>
      Advances (if d = 0 then x.lanes.foldl (fun v l => v.prefetch x l (x.base b l + BitVec.ofNat 64 (o.toNat * 256))) s else s)
        t x (.pref d b o) := by
  refine occurs_done (units := 1) (price := none) hr (show _ = execPref d b o s from rfl) ?_
  rw [Issuer.addrs, List.foldl_map]

/-- Settles O36. -/
theorem fenceResults : Obligations.FenceResults := by
  unfold Obligations.FenceResults
  refine ⟨fun _ _ _ hr => fence_occurs hr, ?_, ?_, ?_, fun _ _ _ _ _ hr => pref_occurs hr, State.sameMemory_fillSector⟩
  · exact fun s x m lanes l pa nc row _ hs hr he hlanes hf => s.recordRelease_fenced pa nc row hs hr he hlanes hf
  · exact fun s c hc hs => hs.calm.release hc
  · intro s c n hc hn
    rw [s.core_acquire hc hn]
    exact ⟨State.core_modL1_same .., fun c' b h => State.coreByte_modL1_other s h _ b⟩

end Sys2Proof.Machine
end

section
/-! PROOF. Loads complete, and releases are promoted (O37). -/

namespace Sys2Proof.Machine

open Sys2Proof

namespace State

/-- No access of an operation in flight is still to be performed. -/
def AllPerformed (s : State) : Prop := ∀ o ∈ s.ops, ∀ a ∈ o.accs, a.result.isSome = true ∨ a.skip = true

namespace AllPerformed
variable {s : State} (h : s.AllPerformed)
include h

theorem performOne (id lane : Nat) : s.performOne id lane = s := by
  unfold State.performOne
  split
  · rfl
  · next o ho =>
    have hf : (o.accs.find? fun a => a.lane = lane && a.result.isNone && !a.skip) = none := by
      refine List.find?_eq_none.2 fun a ha hp => ?_
      have := h o (List.mem_of_find?_eq_some ho) a ha
      simp only [Bool.and_eq_true, Option.isNone_iff_eq_none, Bool.not_eq_true'] at hp
      rw [hp.1.2, hp.2] at this
      simp at this
    rw [hf]

theorem performAfter (id lane : Nat) : s.performAfter id lane = s := by
  unfold State.performAfter
  split
  · rfl
  · split
    · rfl
    · split
      · refine List.foldl_fixed' (fun b => ?_) _
        split
        · exact h.performOne ..
        · rfl
      · exact h.performOne ..

theorem performAcc (id lane : Nat) : s.performAcc id lane = s := by
  unfold State.performAcc
  split
  · rfl
  · split
    · rfl
    · dsimp only
      refine (congrArg (fun v => State.performAfter v id lane) (List.foldl_fixed' (fun p => ?_) _)).trans (h.performAfter ..)
      refine List.foldl_fixed' (fun b => ?_) _
      split
      · exact h.performAfter ..
      · rfl

theorem performOp (id : Nat) : s.performOp id = s := by
  unfold State.performOp
  split
  · rfl
  · exact List.foldl_fixed' (fun a => h.performAcc ..) _

end AllPerformed

end State

/-! The value that a load of at most a word leaves. -/

/-- The number that some bytes stand for, with a sign or without one. -/
def signedValue (sext : Bool) (bs : List Byte) : Int :=
  if sext = true ∧ 2 ^ (8 * bs.length - 1) ≤ ofLeBytes bs then (ofLeBytes bs : Int) - 2 ^ (8 * bs.length) else ofLeBytes bs

theorem extendBytes_word (sext : Bool) {bs : List Byte} (h : bs.length = 1 ∨ bs.length = 2 ∨ bs.length = 4) :
    BitVec.ofNat 32 (ofLeBytes (extendBytes sext bs)) = BitVec.ofInt 32 (signedValue sext bs) := by
  have hsign (b : Byte) : b[7] = decide (128 ≤ b.toNat) := by
    rw [show b[7] = b.msb from (BitVec.msb_eq_getLsbD_last b).symm, BitVec.msb_eq_decide]
  refine BitVec.eq_of_toNat_eq ?_
  rw [BitVec.toNat_ofNat, BitVec.toNat_ofInt]
  unfold signedValue extendBytes
  rcases h with h | h | h
  · obtain ⟨b, rfl⟩ := List.length_eq_one_iff.1 h
    have hb := b.isLt
    cases sext <;> by_cases h7 : 128 ≤ b.toNat <;> simp [hsign, h7, ofLeBytes] <;> omega
  · obtain ⟨a, b, rfl⟩ := List.length_eq_two.1 h
    have ha := a.isLt
    have hb := b.isLt
    cases sext <;> by_cases h7 : 128 ≤ b.toNat <;> simp [hsign, h7, ofLeBytes] <;> omega
  · have hlt := ofLeBytes_lt bs
    rw [h] at hlt ⊢
    simp
    split <;> omega

/-- A load of at most a word writes the word to its destination alone. -/
theorem writeResult_load {o : Op} {w : Wave} {a : LaneAcc} {bs : List Byte} {n : Nat} {sext last home acq : Bool} {dst : Nat}
    (hk : o.kind = .load n sext dst false last home acq) (hr : a.result = some bs) (hs : a.skip = false) (hl : bs.length = n)
    (hn : n = 1 ∨ n = 2 ∨ n = 4) : o.writeResult w a = w.setV dst a.lane (BitVec.ofInt 32 (signedValue sext bs)) := by
  unfold Op.writeResult
  simp only [hr, hs, hk, Bool.false_eq_true, if_false]
  rw [Wave.writeBlock_one _ _ _ (by rw [length_extend]; omega), extendBytes_word sext (by omega)]

theorem loadCompletion_next {s : State} {op : Nat} {o : Op} (h : (s.performOp op).op? op = some o) (hr : o.kind.returns = true)
    (hs : o.settled = true) : exec (.loadCompletion op) s =
      .next ((((((s.performOp op).dropOp op).discardRead o).modAgent o.agent (o.deliver o.results)).dropFlags o.flags).pendOp o) := by
  refine (show exec (.loadCompletion op) s = execLoadCompletion op s from rfl).trans (event_next ?_)
  unfold State.completeLoad
  dsimp only
  rw [h]
  exact if_pos (by rw [hr, hs]; rfl)

/-- Settles O37. -/
theorem accessCompletions : Obligations.AccessCompletions := by
  unfold Obligations.AccessCompletions
  refine ⟨fun s op o h hr hs => loadCompletion_next h hr hs, fun o w he => ?_, fun s op h => State.AllPerformed.performOp h op, ?_, ?_⟩
  · rw [Op.deliver, he]
    rfl
  · intro o w a bs n sext dst last home acq hk hr hs hl hn hc ha
    subst hl
    rw [writeResult_load hk hr hs rfl hn]
    refine ⟨?_, fun m l hl h => ?_, fun m => ?_⟩
    · rw [Wave.setV_vreg _ _ _ _ _ _ ha ha, if_pos ⟨rfl, .inr rfl⟩]
      rfl
    · rw [Wave.setV_vreg _ _ _ _ _ _ ha hl, if_neg]
      simp [hc]
      tauto
    · rw [Wave.setV_kreg, if_neg (by simp [hc])]
  · intro s core hc hr hs
    refine ⟨_, (show exec (.releasePromotion core) s = execReleasePromotion core s from rfl).trans
      (unitEvent_next hc (if_neg (by rwa [List.isEmpty_iff]))), ?_⟩
    obtain ⟨h1, h2⟩ := hs.calm.promote
    exact ⟨h1.trans List.drop_one, h2⟩

end Sys2Proof.Machine
end

section
/-! PROOF. Fired entries and their deliveries (O48). -/

namespace Sys2Proof.Machine

open Sys2Proof

/-! What leaves the counters of a context as they are. -/

namespace State

theorem inboundFault_ctxs (s : State) (p ctx : Nat) (addr : DWord) (chip job reason kind len : Nat) :
    (s.inboundFault p ctx addr chip job reason kind len).ctxs = s.ctxs := by
  have key : ∀ (u : State) (v : Word) (pl : List Byte), u.ctxs = s.ctxs → ((u.setPtReg p 0x019 v).raiseEvent p 0x07 ctx pl).ctxs = s.ctxs :=
    fun u v pl hu => (raiseEvent_ctxs ..).trans hu
  unfold State.inboundFault
  simp only
  split
  · exact key _ _ _ rfl
  · apply key
    split
    · exact (OnlyHome.recordWrites ..).ctxs
    · rfl

theorem noRoute_ctxs (s : State) (p : Nat) (addr : DWord) (kind len : Nat) : (s.noRoute p addr kind len).ctxs = s.ctxs := inboundFault_ctxs ..

theorem counter_of_ctxs {s t : State} (h : t.ctxs = s.ctxs) (c n : Nat) : t.counter c n = s.counter c n := by
  rw [counter, counter, ctx_of_ctxs h]

/-- Contexts that differ in their halts alone have the same counters. -/
theorem counter_putCtx (s : State) {c : Nat} {x : Ctx} (h : x.counters = (s.ctx c).counters) (d n : Nat) :
    (s.putCtx c x).counter d n = s.counter d n := by
  unfold counter
  by_cases hd : d = c
  · subst hd
    by_cases hc : d < s.ctxs.length
    · rw [ctx_putCtx hc, h]
    · have : (s.putCtx d x).ctxs = s.ctxs := List.set_eq_of_length_le (Nat.le_of_not_lt hc)
      rw [ctx_of_ctxs this]
  · rw [ctx_putCtx_other s hd]

theorem counter_raiseHalt (s : State) (c : Nat) (h : HaltHdr) (d n : Nat) : (s.raiseHalt c h).counter d n = s.counter d n := by
  have key (o : Option HaltHdr) : (s.putCtx c { s.ctx c with halt := o }).counter d n = s.counter d n := by
    refine counter_putCtx s ?_ d n
    rfl
  unfold raiseHalt
  dsimp only
  split
  · rfl
  · split
    · split
      · exact key _
      · rfl
    · exact key _

theorem counter_pendCause (s : State) (k : WaveKey) (code : Cause) (src : Nat) (who : DWord) (core quarter : Nat) (d n : Nat) :
    (s.pendCause (.wave k) code src who core quarter).counter d n = s.counter d n := by
  unfold pendCause
  dsimp only
  split
  · exact counter_raiseHalt ..
  · split
    · exact counter_raiseHalt ..
    · exact counter_of_ctxs (putAgent_wave_ctxs ..) d n

/-! Sending. -/

theorem counter_rise {s u : State} {e : WorkEntry} {c : Nat} (hc : c < s.ctxs.length) (he : e.cnt 30 1 = 1) (hu : u.ctxs = s.ctxs) :
    (e.rise c u).counter c (e.cnt 10 10) = s.counter c (e.cnt 10 10) + 1 := by
  rw [WorkEntry.rise, if_pos he, bumpCounter, counter_setCounter (by rw [hu]; exact hc), if_pos rfl, counter_of_ctxs hu]

/-- The source completion counter rises at the sending of an entry that is no multicast. -/
theorem counter_sendEntry {s : State} {e : WorkEntry} {c : Nat} (q : Nat) (bs : List Byte) (codes : List Nat) (hc : c < s.ctxs.length)
    (hmc : e.ctl 20 1 = 0) (he : e.cnt 30 1 = 1) :
    (s.sendEntry c q e bs codes).counter c (e.cnt 10 10) = s.counter c (e.cnt 10 10) + 1 := by
  have hd : (s.deliveryOf c e bs codes).mc = false := decide_eq_false (by rw [hmc]; decide)
  unfold sendEntry
  dsimp only
  rw [hd, if_neg Bool.false_ne_true]
  split
  · exact counter_rise hc he rfl
  · split
    · rw [counter_pendCause]
      exact counter_rise hc he (noRoute_ctxs ..)
    · exact counter_rise hc he rfl

/-- The last answer of a parcel raises its counter. -/
theorem answered_last {s : State} {id c n : Nat} {p : Parcel} (hp : (s.awaiting.find? fun p => p.id = id) = some p) (hl : p.left ≤ 1)
    (hc : p.cause = none) (hr : p.rise = some (c, n)) :
    s.answered id none = some ({ s with awaiting := s.awaiting.filter fun q => q.id ≠ id }.bumpCounter c n 1) := by
  unfold answered
  rw [hp]
  dsimp only
  rw [if_neg (Nat.not_lt.2 hl), hr, hc]

/-! The source of an entry. -/

theorem entrySource_ok {s u : State} {c q n : Nat} {e : WorkEntry} {bs : List Byte} {codes : List Nat} (hh : s.halted c = false)
    (he : ((s.ctx c).qps.get {} q).firing[n]? = some e) (hq : ((s.ctx c).qps.get {} q).held = none)
    (hr : s.readSource c e.src e.len (e.len / 16 + 2) = .ok (bs, codes, u)) :
    s.entrySource c q n = some (((u.putPair c q { (s.ctx c).qps.get {} q with
      firing := ((s.ctx c).qps.get {} q).firing.eraseIdx n }).chargeOpen).sendEntry c q e bs codes) := by
  unfold entrySource
  dsimp only
  rw [he]
  dsimp only
  rw [if_neg (by rw [hq, hh]; decide), hr]

theorem entrySource_error {s u : State} {c q n : Nat} {e : WorkEntry} {k : Cause} {va : DWord} (hh : s.halted c = false)
    (he : ((s.ctx c).qps.get {} q).firing[n]? = some e) (hq : ((s.ctx c).qps.get {} q).held = none)
    (hr : s.readSource c e.src e.len (e.len / 16 + 2) = .error (k, va, u)) :
    s.entrySource c q n =
      if k = Cause.page then some ((u.putPair c q { (s.ctx c).qps.get {} q with held := some va }).pageFault c va 0 3 false false 511 3 0)
      else some ((u.putPair c q { (s.ctx c).qps.get {} q with firing := ((s.ctx c).qps.get {} q).firing.eraseIdx n }).pendCause
        (.wave e.wave) k 1 e.who e.core e.quarter) := by
  unfold entrySource
  dsimp only
  rw [he]
  dsimp only
  rw [if_neg (by rw [hq, hh]; decide), hr]

end State

theorem entrySourceRead_next {s t : State} {c q n : Nat} (hc : c < 16) (h : s.entrySource c q n = some t) :
    exec (.entrySourceRead c q n) s = .next t :=
  (show exec (.entrySourceRead c q n) s = execEntrySourceRead c q n s from rfl).trans (unitEvent_next hc h)

/-! Deliveries. -/

namespace State

theorem inboundArrive_unbound {s : State} {d : Delivery} (h : ∀ p c, s.bound d.job ≠ some (p, some c)) :
    s.inboundArrive (.delivery d) = s.inboundDelivery d := by
  unfold inboundArrive
  split
  · next p c hb => exact absurd hb (h p c)
  · rfl

theorem inboundArrive_room {s : State} {d : Delivery} {p c : Nat} (hb : s.bound d.job = some (p, some c)) (hw : s.arrive p c d ≠ .waits)
    (hf : (s.part p).inFull = false) (hq : (s.part p).inq = []) (hh : (s.part p).inHeld = none) :
    s.inboundArrive (.delivery d) = s.inboundDelivery d := by
  have hm : s.mustWait (.delivery d) = false := by
    unfold mustWait
    rw [show s.bound (Inbound.delivery d).job = _ from hb]
    dsimp only
    cases ha : s.arrive p c d with
    | waits => exact absurd ha hw
    | applied u => exact Bool.and_false _
    | refused n u => exact Bool.and_false _
  unfold inboundArrive
  rw [show s.bound (Inbound.delivery d).job = _ from hb]
  dsimp only
  rw [hm, hf, hq, hh, if_neg Bool.false_ne_true]
  rfl

theorem inboundDelivery_taken {s u : State} {d : Delivery} (h : s.takeDelivery d = some (true, u)) : s.inboundDelivery d = some u := by
  rw [inboundDelivery, h]
  rfl

theorem inboundDelivery_refused {s u : State} {d : Delivery} (h : s.takeDelivery d = some (false, u)) :
    s.inboundDelivery d = some { u with out := u.out ++ [.nack d.chip d.job d.addr] } := by
  rw [inboundDelivery, h]
  rfl

end State

/-- What a delivery leaves, with the message that goes on. -/
theorem delivery_next {s t : State} {d : Delivery} {i : Instr} (hi : (i = .collectiveDelivery d ∧ d.ord = false) ∨ (i = .orderedContribution d ∧ d.ord = true))
    (h : s.inboundArrive (.delivery d) = some t) :
    exec i s = .next (if d.ord = true ∨ d.hops = 0 ∨ t.portUp (bits (t.nbr d.axis) 18 3) = false then t else
      { t with out := t.out ++ [.delivery (bits (t.nbr d.axis) 0 18) { d with hops := d.hops - 1 }] }) := by
  rcases hi with ⟨rfl, ho⟩ | ⟨rfl, ho⟩
  · refine (show exec (.collectiveDelivery d) s = execCollectiveDelivery d s from rfl).trans (event_next ?_)
    rw [if_neg (by rw [ho]; exact Bool.false_ne_true), h]
    have hc : (d.hops = 0 || !t.portUp (bits (t.nbr d.axis) 18 3)) = true ↔
        (d.ord = true ∨ d.hops = 0 ∨ t.portUp (bits (t.nbr d.axis) 18 3) = false) := by simp [ho]
    rw [Option.map_some]
    exact congrArg some (if_congr hc rfl rfl)
  · refine (show exec (.orderedContribution d) s = execOrderedContribution d s from rfl).trans (event_next ?_)
    rw [if_pos ho, h, if_pos (.inl ho)]

theorem delivery_unbound {s : State} {d : Delivery} (h : s.bound d.job = none) :
    s.inboundArrive (.delivery d) =
      some { s.unboundFault d.addr d.chip d.job (if d.ord then 4 else 3) d.data.length with
        out := (s.unboundFault d.addr d.chip d.job (if d.ord then 4 else 3) d.data.length).out ++ [.nack d.chip d.job d.addr] } := by
  rw [State.inboundArrive_unbound (by rw [h]; nofun)]
  refine State.inboundDelivery_refused ?_
  rw [State.takeDelivery, h]

theorem delivery_absent {s : State} {d : Delivery} {p : Nat} (h : s.bound d.job = some (p, none)) :
    s.inboundArrive (.delivery d) =
      some { s.inboundFault p 0xFF d.addr d.chip d.job 1 (if d.ord then 4 else 3) d.data.length with
        out := (s.inboundFault p 0xFF d.addr d.chip d.job 1 (if d.ord then 4 else 3) d.data.length).out ++ [.nack d.chip d.job d.addr] } := by
  rw [State.inboundArrive_unbound (by rw [h]; nofun)]
  refine State.inboundDelivery_refused ?_
  rw [State.takeDelivery, h]

theorem delivery_applied {s u : State} {d : Delivery} {p c : Nat} (hb : s.bound d.job = some (p, some c)) (ha : s.arrive p c d = .applied u)
    (hf : (s.part p).inFull = false) (hq : (s.part p).inq = []) (hh : (s.part p).inHeld = none) :
    s.inboundArrive (.delivery d) = some u := by
  rw [State.inboundArrive_room hb (by rw [ha]; nofun) hf hq hh]
  refine State.inboundDelivery_taken ?_
  rw [State.takeDelivery, hb]
  dsimp only
  rw [ha]

theorem delivery_refused {s u : State} {d : Delivery} {p c n : Nat} (hb : s.bound d.job = some (p, some c)) (ha : s.arrive p c d = .refused n u)
    (hf : (s.part p).inFull = false) (hq : (s.part p).inq = []) (hh : (s.part p).inHeld = none) :
    s.inboundArrive (.delivery d) =
      some { u.inboundFault p (c % 2) d.addr d.chip d.job n (if d.ord then 4 else 3) d.data.length with
        out := (u.inboundFault p (c % 2) d.addr d.chip d.job n (if d.ord then 4 else 3) d.data.length).out ++
          [.nack d.chip d.job d.addr] } := by
  rw [State.inboundArrive_room hb (by rw [ha]; nofun) hf hq hh]
  refine State.inboundDelivery_refused ?_
  rw [State.takeDelivery, hb]
  dsimp only
  rw [ha]

/-- An unordered delivery that meets nothing is applied whole. -/
theorem arrive_unordered {d : Delivery} {s u : State} {c : Nat} (p : Nat) (ho : d.ord = false) (hm : d.mc = false)
    (h : (s.settleRange c d.addr d.op d.data.length (deliveryFuel d)).deliver c d.addr d.op d.fmt d.data d.codes 0 (deliveryFuel d) = (none, false, u)) :
    s.arrive p c d = .applied (match d.counter with | some n => u.setCounter c n (u.counter c n + 1) | none => u) := by
  rw [State.arrive, ho, if_neg Bool.false_ne_true, State.arriveNow, hm, if_neg Bool.false_ne_true]
  dsimp only
  rw [h]
  rfl

/-! Delivered bytes and the L1s. -/

/-- An L1 holds nothing of a range. -/
def L1.Empty (l : L1) (a n : Nat) : Prop :=
  ∀ x, a ≤ x → x < a + n → l.dirty.find x = none ∧ l.queued x = none ∧ l.clean.find (x / 64) = none

theorem Tab.find_none {α : Type} {t : Tab α} {n : Nat} (h : ∀ p ∈ t, p.1 ≠ n) : t.find n = none := by
  induction t with
  | nil => rfl
  | cons p t ih =>
    obtain ⟨k, v⟩ := p
    exact (if_neg (h _ (.head _))).trans (ih fun q hq => h q (.tail _ hq))

theorem outside_covers {t u : Through} {a n x : Nat} (hu : u ∈ State.Through.outside t a n) (h1 : a ≤ x) (h2 : x < a + n) : u.covers x = false := by
  unfold State.Through.outside at hu
  rw [Through.covers]
  split at hu
  · next h =>
    obtain rfl := List.mem_singleton.1 hu
    simp at h ⊢
    omega
  · obtain ⟨y, -, hy⟩ := List.mem_filterMap.1 hu
    split at hy
    · exact nomatch hy
    · next h =>
      obtain rfl := (Option.some.inj hy).symm
      simp at h ⊢
      omega

/-- What an L1 keeps when a range is invalidated. -/
def L1.without (a n : Nat) (l : L1) : L1 :=
  { (l.undirty (l.dirty.filter fun x => a ≤ x.1 && decide (x.1 < a + n))) with
    clean := l.clean.filter fun (x, _) => (x + 1) * 64 ≤ a || a + n ≤ x * 64
    wtq := l.wtq.flatMap fun t => State.Through.outside t a n }

theorem L1.without_empty (a n : Nat) (l : L1) : (l.without a n).Empty a n := by
  refine fun x h1 h2 => ⟨?_, ?_, ?_⟩
  · refine (L1.undirty_dirty ..).trans ?_
    split
    · rfl
    · next h =>
      cases hf : l.dirty.find x with
      | none => rfl
      | some b => exact absurd ⟨_, List.mem_filter.2 ⟨Tab.mem_of_find hf, by simp [h1, h2]⟩, rfl⟩ h
  · have hn : ((l.without a n).wtq.reverse.find? (·.covers x)) = none := by
      refine List.find?_eq_none.2 fun u hu => ?_
      obtain ⟨t, -, ht⟩ := List.mem_flatMap.1 (List.mem_reverse.1 hu)
      exact Bool.eq_false_iff.1 (outside_covers ht h1 h2)
    rw [L1.queued, hn]
    rfl
  · refine Tab.find_none fun p hp he => ?_
    have := (List.mem_filter.1 hp).2
    simp at this
    omega

namespace State

theorem invalidateRange_eq (s : State) (a n : Nat) :
    s.invalidateRange a n = (s.cores.map (·.1)).foldl (fun s c => s.modL1 c (L1.without a n)) s := rfl

/-- A change of the L1s of some cores changes nothing at the home points, and each of them is changed. -/
theorem foldl_modL1 (f : L1 → L1) (cs : List Nat) (s : State) :
    (∀ x, (cs.foldl (fun s c => s.modL1 c f) s).homeByte x = s.homeByte x) ∧
      ∀ d, (d ∉ cs → (cs.foldl (fun s c => s.modL1 c f) s).core d = s.core d) ∧
        (d ∈ cs → ∃ l, ((cs.foldl (fun s c => s.modL1 c f) s).core d).l1 = f l) := by
  induction cs generalizing s with
  | nil => exact ⟨fun _ => rfl, fun _ => ⟨fun _ => rfl, fun h => nomatch h⟩⟩
  | cons c cs ih =>
    obtain ⟨hh, hc⟩ := ih (s.modL1 c f)
    refine ⟨fun x => (hh x).trans (homeByte_of_tables rfl rfl x), fun d => ⟨fun hd => ?_, fun hd => ?_⟩⟩
    · exact ((hc d).1 (List.not_mem_of_not_mem_cons hd)).trans (by rw [modL1, core_putCore, if_neg (List.ne_of_not_mem_cons hd)])
    · by_cases hm : d ∈ cs
      · exact (hc d).2 hm
      · obtain rfl := (List.mem_cons.1 hd).resolve_right hm
        exact ⟨_, (congrArg Core.l1 ((hc d).1 hm)).trans (core_modL1_same ..)⟩

/-- After an invalidation every core sees the bytes of the range as they are at home. -/
theorem coreByte_invalidateRange (s : State) {a n x : Nat} (d : Nat) (h1 : a ≤ x) (h2 : x < a + n) :
    (s.invalidateRange a n).coreByte d x = s.homeByte x := by
  obtain ⟨hh, hc⟩ := foldl_modL1 (L1.without a n) (s.cores.map (·.1)) s
  have he : ((s.invalidateRange a n).core d).l1.Empty a n := by
    rw [invalidateRange_eq]
    by_cases hd : d ∈ s.cores.map (·.1)
    · obtain ⟨l, hl⟩ := (hc d).2 hd
      rw [hl]
      exact L1.without_empty a n l
    · rw [(hc d).1 hd, (core_mem_or s d).resolve_left fun hm => hd (List.mem_map.2 ⟨_, hm, rfl⟩)]
      exact fun _ _ _ => ⟨rfl, rfl, rfl⟩
  obtain ⟨hd, hq, hcl⟩ := he x h1 h2
  rw [coreByte_eq, L1.shows, hd, hq, L1.below, hcl]
  exact hh x

theorem homeByte_invalidateRange (s : State) (a n x : Nat) : (s.invalidateRange a n).homeByte x = s.homeByte x := by
  rw [invalidateRange_eq]
  exact (foldl_modL1 ..).1 x

theorem homeByte_placePoisonAt (s : State) (a : Nat) (nc row : Bool) (code x : Nat) :
    (s.placePoisonAt (.mem a nc row) code).homeByte x = s.homeByte x := by
  unfold placePoisonAt
  split
  · rfl
  · exact homeByte_of_tables rfl rfl x

/-- Delivered bytes stand at home and in every core's view. -/
theorem deliverAt_write {s : State} {a : Nat} {row : Bool} {bs : List Byte} (code : Nat)
    (hr : ∀ n, ∀ r ∈ (s.core n).l1.recs, r.addr / 256 ≠ a / 256) (hw : s.waited (.mem a true row) bs.length = false) :
    (∀ x, (s.deliverAt a row .write 0 bs code).homeByte x = if a ≤ x ∧ x < a + bs.length then bs[x - a]?.getD 0 else s.homeByte x) ∧
      ∀ x n, a ≤ x → x < a + bs.length →
        (s.deliverAt a row .write 0 bs code).coreByte n x = (s.deliverAt a row .write 0 bs code).homeByte x := by
  obtain ⟨t, ht, hbyte⟩ : ∃ t : State, s.deliverAt a row .write 0 bs code = t.invalidateRange a bs.length ∧
      ∀ x, t.homeByte x = if a ≤ x ∧ x < a + bs.length then bs[x - a]?.getD 0 else s.homeByte x := by
    unfold deliverAt
    rw [promoteFor_none fun c _ => hr c]
    dsimp only
    rw [if_pos rfl, hw, if_neg Bool.false_ne_true]
    exact ⟨_, rfl, fun x => (homeByte_placePoisonAt ..).trans (homeByte_homeWrites ..)⟩
  rw [ht]
  refine ⟨fun x => (homeByte_invalidateRange ..).trans (hbyte x), fun x n h1 h2 => ?_⟩
  rw [coreByte_invalidateRange _ n h1 h2, homeByte_invalidateRange]

end State

/-- Settles O48. -/
theorem collectiveEvents : Obligations.CollectiveEvents := by
  unfold Obligations.CollectiveEvents
  refine ⟨?_, ?_, ?_, ?_, ?_, ?_, ?_, ?_, ?_⟩
  · exact fun s u c q n e bs codes hc hh he hq hr => entrySourceRead_next hc (State.entrySource_ok hh he hq hr)
  · exact fun s c q e bs codes hc hmc he => State.counter_sendEntry q bs codes hc hmc he
  · exact fun s id c n p hp hl hc hr => State.answered_last hp hl hc hr
  · intro s u c q n e va hc hh qp he hq
    refine ⟨fun hr => entrySourceRead_next hc ((State.entrySource_error hh he hq hr).trans (if_pos rfl)), fun k hk hr => ?_⟩
    exact entrySourceRead_next hc ((State.entrySource_error hh he hq hr).trans (if_neg hk))
  · intro d s i hi pass kind nack
    refine ⟨fun hb => delivery_next hi (delivery_unbound hb), fun p hb => delivery_next hi (delivery_absent hb), ?_⟩
    intro p c hb hf hq hh
    exact ⟨fun u ha => delivery_next hi (delivery_applied hb ha hf hq hh), fun n u ha => delivery_next hi (delivery_refused hb ha hf hq hh)⟩
  · exact fun d s u p c ho hm h => arrive_unordered p ho hm h
  · intro s a row bs code hr hw t
    obtain ⟨hh, hc⟩ := State.deliverAt_write code hr hw
    have hin (j : Nat) (hj : j < bs.length) : t.homeByte (a + j) = bs[j]?.getD 0 := by
      rw [hh, if_pos ⟨Nat.le_add_right .., Nat.add_lt_add_left hj a⟩, Nat.add_sub_cancel_left]
    refine ⟨fun j hj => ⟨hin j hj, fun n => (hc _ n (Nat.le_add_right ..) (Nat.add_lt_add_left hj a)).trans (hin j hj)⟩, fun b hb => ?_⟩
    exact (hh b).trans (if_neg (by omega))
  · intro old v
    refine ⟨rfl, (BitVec.toNat_add old v).symm, ?_, ?_, ?_⟩
    · show (fadd false .rn (BitVec.ofNat 32 old.toNat) (BitVec.ofNat 32 v.toNat)).1.toNat = _
      rw [ofNat_toNat_word, ofNat_toNat_word]
    · show (maxS (BitVec.ofNat 32 old.toNat) (BitVec.ofNat 32 v.toNat)).toNat = _
      rw [ofNat_toNat_word, ofNat_toNat_word]
      rfl
    · show (fminmax false true (BitVec.ofNat 32 old.toNat) (BitVec.ofNat 32 v.toNat)).1.toNat = _
      rw [ofNat_toNat_word, ofNat_toNat_word]
  · exact fun old v => ⟨rfl, rfl⟩

end Sys2Proof.Machine
end

section
/-! PROOF. `FMIN`, `FMAX`, `FRND`, `FCLASS` and `FSCALE` (R195 to R198): a flushed operand read as it stands, and the rounding to an integer. -/
namespace Sys2Proof.Machine
open Sys2Proof

/-! Flushed operands (R89). -/

/-- The word as `.ftz` reads it: a subnormal is zero of its sign. -/
def flushed (z : BitVec 1) (w : Word) : Word := if z = 1 ∧ w.extractLsb' 23 8 = 0 then w &&& 0x80000000 else w

theorem exponent_eq_zero_iff (w : Word) : w.extractLsb' 23 8 = 0 ↔ w.toNat % 2147483648 < 8388608 := by
  rw [← BitVec.toNat_inj, BitVec.extractLsb'_toNat, Nat.shiftRight_eq_div_pow]
  simp; omega

theorem toNat_and_sign (w : Word) : (w &&& 0x80000000).toNat = w.toNat - w.toNat % 2147483648 := by
  have := w.isLt
  have h : (w &&& 0x80000000).toNat = w.toNat / 2147483648 % 2 * 2147483648 := by
    rw [BitVec.toNat_and, show (0x80000000 : Word).toNat = 2 ^ 31 from rfl, Nat.and_two_pow, Nat.toNat_testBit]; norm_num
  omega

theorem toNat_flushed (z : BitVec 1) (w : Word) : (flushed z w).toNat =
    if decide (z = 1) && decide (w.toNat % 2147483648 < 8388608) then w.toNat - w.toNat % 2147483648 else w.toNat := by
  simp only [flushed, exponent_eq_zero_iff, ← Bool.decide_and, decide_eq_true_eq]
  split
  · exact toNat_and_sign w
  · rfl

theorem flushed_msb (z : BitVec 1) (w : Word) : (flushed z w).msb = w.msb := by
  unfold flushed
  split
  · rw [BitVec.msb_and, show (0x80000000 : Word).msb = true by decide, Bool.and_true]
  · rfl

theorem rd32_eq_read_flushed (z : BitVec 1) (w : Word) : rd32 (decide (z = 1)) w = fp32.read (flushed z w).toNat := by
  rw [rd32, toNat_flushed]
  by_cases h : (decide (z = 1) && decide (w.toNat % 2147483648 < 8388608)) = true
  · rw [if_pos h]
    simp only [Bool.and_eq_true, decide_eq_true_eq] at h
    have hex : w.toNat / 8388608 % 256 = 0 := by omega
    have hfr : w.toNat % 8388608 < 8388608 := by omega
    have h1 : (w.toNat - w.toNat % 2147483648) / 8388608 % 256 = 0 := by omega
    have h2 : (w.toNat - w.toNat % 2147483648) % 8388608 = 0 := by omega
    have h3 : (w.toNat - w.toNat % 2147483648) / 2147483648 % 2 = w.toNat / 2147483648 % 2 := by omega
    rw [fp32_read, fp32_read, if_pos hex, if_pos h1, h2, h3]
    simp [FVal.ftzIn, h.1, fp32, hfr, Fmt.emin, Fmt.bias]
  · rw [if_neg h]
    by_cases hz : z = 1
    · have hex : w.toNat / 8388608 % 256 ≠ 0 := by simp [hz] at h; omega
      rw [fp32_read, if_neg hex]
      split
      · split <;> rfl
      · have hbig : ¬8388608 + w.toNat % 8388608 < 8388608 := by omega
        simp [FVal.ftzIn, fp32]
    · rw [decide_eq_false hz]; cases fp32.read w.toNat <;> rfl

theorem read_flushed_nan_iff (z : BitVec 1) (w : Word) : fp32.read (flushed z w).toNat = .nan ↔ fp32.read w.toNat = .nan := by
  rw [← rd32_eq_read_flushed, rd32]
  cases fp32.read w.toNat <;> simp only [FVal.ftzIn, reduceCtorEq]
  split <;> simp

/-! `FMIN` and `FMAX` (R195). -/

theorem fminmax_eq (z : BitVec 1) (g : Bool) (v w : Word) : fminmax (decide (z = 1)) g v w =
    if fp32.read v.toNat = .nan then (if fp32.read w.toNat = .nan then (0x7FC00000, fIV) else (flushed z w, 0))
    else if fp32.read w.toNat = .nan then (flushed z v, 0)
    else
      let x := fp32.read (flushed z v).toNat
      let y := fp32.read (flushed z w).toNat
      (if g then (if x.lt true y then flushed z w else flushed z v) else (if y.lt true x then flushed z w else flushed z v), 0) := by
  have hz (u : Word) : (if decide (z = 1) && decide (u.toNat % 2 ^ (fp32.eb + fp32.mb) < 2 ^ fp32.mb) then
      u.toNat - u.toNat % 2 ^ (fp32.eb + fp32.mb) else u.toNat) = (flushed z u).toNat := (toNat_flushed z u).symm
  simp only [fminmax, Fmt.minmax, hz, ← read_flushed_nan_iff z v, ← read_flushed_nan_iff z w]
  split
  · next hv hw => rw [if_pos hv, if_pos hw]; rfl
  · next hv hw => rw [if_pos hv, if_neg hw, BitVec.ofNat_toNat, BitVec.setWidth_eq]
  · next hw hv => rw [if_neg hv, if_pos hw, BitVec.ofNat_toNat, BitVec.setWidth_eq]
  · next hv hw _ => rw [if_neg hv, if_neg hw]; simp only [apply_ite (BitVec.ofNat 32), BitVec.ofNat_toNat, BitVec.setWidth_eq]

/-! The value of a word, and `FRND` (R196). -/

/-- The rational number that a finite value is. -/
def FVal.rat? : FVal → Option ℚ
  | .fin n k e => some ((if n then -1 else 1) * (k : ℚ) * (2 : ℚ) ^ e)
  | _ => none

/-- A natural number of at most 24 significant bits below 2^128 is an FP32 value. -/
theorem fp32_round_nat (neg : Bool) {n : Nat} (h0 : n ≠ 0) (hd : 2 ^ (Nat.log2 n - 23) ∣ n) (hlt : n < 2 ^ 128) :
    ∃ b, fp32.round .rn neg n 0 = (b, 0) ∧ b < 2 ^ 32 ∧ b % 2147483648 ≥ 8388608 ∧ decide (b / 2147483648 % 2 = 1) = neg ∧
      ∃ k e, fp32.read b = .fin neg k e ∧ (k : ℚ) * 2 ^ e = n := by
  obtain ⟨lg, hlg⟩ : ∃ lg, lg = Nat.log2 n := ⟨_, rfl⟩
  have hlg128 : lg < 128 := hlg ▸ (Nat.log2_lt h0).2 hlt
  have hpow : 2 ^ lg ≤ n ∧ n < 2 ^ (lg + 1) := hlg ▸ ⟨Nat.log2_self_le h0, Nat.lt_log2_self⟩
  rw [← hlg] at hd
  -- the significand, of 24 bits
  obtain ⟨k, hk⟩ : ∃ k, k * 2 ^ (lg - 23) = n * 2 ^ (23 - lg) := by
    obtain ⟨c, rfl⟩ := hd
    exact ⟨c * 2 ^ (23 - lg), by ring⟩
  have hk24 : 2 ^ 23 ≤ k ∧ k < 2 ^ 24 := by
    have hp (a : Nat) : 2 ^ (lg + a) * 2 ^ (23 - lg) = 2 ^ (23 + a) * 2 ^ (lg - 23) := by
      rw [← pow_add, ← pow_add]; congr 1; omega
    have hpos : 0 < 2 ^ (lg - 23) := Nat.two_pow_pos _
    constructor
    · refine Nat.le_of_mul_le_mul_right ?_ hpos
      rw [hk, ← hp 0]; exact Nat.mul_le_mul_right _ hpow.1
    · refine Nat.lt_of_mul_lt_mul_right (a := 2 ^ (lg - 23)) ?_
      rw [hk, ← hp 1]; exact Nat.mul_lt_mul_of_pos_right hpow.2 (Nat.two_pow_pos _)
  have hq : max ((lg : Int) + 0) fp32.emin - (fp32.mb : Int) = lg - 23 := by simp [fp32, Fmt.emin, Fmt.bias]
  have hsh : ((lg : Int) - 23 - 0).toNat = lg - 23 := by omega
  have hstep : (if (lg : Int) - 23 ≤ 0 then n * pow2 (0 - (lg - 23)) else n / 2 ^ (lg - 23)) = k := by
    split
    · rw [pow2, show (0 - ((lg : Int) - 23)).toNat = 23 - lg by omega, ← hk, show lg - 23 = 0 by omega]; simp
    · rw [show 23 - lg = 0 by omega, pow_zero, mul_one] at hk
      rw [← hk, Nat.mul_div_cancel _ (Nat.two_pow_pos _)]
  have hrem : (if (lg : Int) - 23 ≤ 0 then 0 else n % 2 ^ (lg - 23)) = 0 := by
    rw [Nat.mod_eq_zero_of_dvd hd, ite_self]
  have hmag : fp32.encodeMag k (lg - 23) = (lg + 126) * 8388608 + k := by
    rw [Fmt.encodeMag, show ((lg : Int) - 23 - (fp32.emin - (fp32.mb : Int))).toNat = lg + 126 by simp [fp32, Fmt.emin, Fmt.bias]; omega]; rfl
  have hround : fp32.round .rn neg n 0 = (fp32.signed neg ((lg + 126) * 8388608 + k), 0) := by
    unfold Fmt.round
    rw [if_neg h0]
    simp only [← hlg, hq, hsh, hstep, hrem]
    rw [if_neg (show ¬(lg : Int) + 0 < fp32.emin by simp [fp32, Fmt.emin, Fmt.bias])]
    simp only [ne_eq, not_true_eq_false, decide_false, Bool.false_and, Bool.false_eq_true, if_false, hmag]
    rw [if_neg (show ¬fp32.maxBits < (lg + 126) * 8388608 + k by simp [fp32, Fmt.maxBits]; omega)]
  refine ⟨_, hround, ?_, ?_, ?_, k, (lg : Int) - 23, ?_, ?_⟩
  · simp only [Fmt.signed, fp32]; split <;> omega
  · simp only [Fmt.signed, fp32]; split <;> omega
  · cases neg <;> simp [Fmt.signed, fp32] <;> omega
  · have hexp : fp32.signed neg ((lg + 126) * 8388608 + k) / 8388608 % 256 = lg + 127 := by
      cases neg <;> simp [Fmt.signed, fp32] <;> omega
    have hfrac : fp32.signed neg ((lg + 126) * 8388608 + k) % 8388608 = k - 8388608 := by
      cases neg <;> simp [Fmt.signed, fp32] <;> omega
    have hsign : decide (fp32.signed neg ((lg + 126) * 8388608 + k) / 2147483648 % 2 = 1) = neg := by
      cases neg <;> simp [Fmt.signed, fp32] <;> omega
    rw [fp32_read, hexp, hfrac, hsign, if_neg (by omega), if_neg (by omega), show 8388608 + (k - 8388608) = k by omega,
      show ((lg + 127 : Nat) : Int) - 150 = lg - 23 by omega]
  · rw [show (lg : Int) - 23 = ((lg - 23 : Nat) : Int) - ((23 - lg : Nat) : Int) by omega, zpow_sub₀ two_ne_zero, zpow_natCast,
      zpow_natCast, ← mul_div_assoc, div_eq_iff (by positivity)]
    exact_mod_cast hk

/-- Writing such a number, or zero, keeps its value and its sign. -/
theorem wr32_nat (z neg : Bool) {n : Nat} (hd : 2 ^ (Nat.log2 n - 23) ∣ n) (hlt : n < 2 ^ 128) :
    let v := (wr32 z .rn (.fin neg n 0)).1
    v.msb = neg ∧ (fp32.read v.toNat).rat? = some (((if neg then -n else n : Int)) : ℚ) := by
  by_cases h0 : n = 0
  · subst h0
    have hw : wr32 z .rn (.fin neg 0 0) = (BitVec.ofNat 32 (fp32.signed neg 0), 0) := by
      cases z <;> cases neg <;> decide +kernel
    have hread : fp32.read (BitVec.ofNat 32 (fp32.signed neg 0)).toNat = .fin neg 0 (-149) := by cases neg <;> rfl
    dsimp only
    rw [hw, hread]
    exact ⟨by cases neg <;> decide, by cases neg <;> simp [FVal.rat?]⟩
  · obtain ⟨b, hb, hlt32, hnorm, hneg, k, e, hread, hval⟩ := fp32_round_nat neg h0 hd hlt
    have hw : wr32 z .rn (.fin neg n 0) = (BitVec.ofNat 32 b, 0) := by
      rw [wr32, Fmt.ofVal, hb, ftzOut, if_neg]
      intro h
      simp only [Bool.and_eq_true, decide_eq_true_eq] at h
      exact absurd h.2 (Nat.not_lt.2 hnorm)
    have hto : (BitVec.ofNat 32 b).toNat = b := by rw [BitVec.toNat_ofNat, Nat.mod_eq_of_lt hlt32]
    rw [hw]
    refine ⟨?_, ?_⟩
    · rw [BitVec.msb_eq_decide, hto, ← hneg]; simp; omega
    · rw [hto, hread, FVal.rat?]
      cases neg <;> simp [← hval]

/-- How a rounding mode takes a rational number to an integer (R83, R196). -/
def RoundsInt (m : Rnd) (q : ℚ) (n : Int) : Prop :=
  match m with
  | .rz => |(n : ℚ)| ≤ |q| ∧ |q| < |(n : ℚ)| + 1
  | .ru => q ≤ n ∧ (n : ℚ) < q + 1
  | .rd => (n : ℚ) ≤ q ∧ q < n + 1
  | _ => |q - n| ≤ 1 / 2 ∧ (|q - n| = 1 / 2 → n % 2 = 0)

theorem RoundsInt.refl {m : Rnd} (n : Int) : RoundsInt m n n := by
  cases m <;> simp [RoundsInt]

/-- The whole steps that `n` steps and a remainder round to. -/
def steps (m : Rnd) (neg : Bool) (n r sh : Nat) : Nat := if r ≠ 0 && roundsUp m neg n r sh 0 then n + 1 else n

/-- The part of a step that a remainder is. -/
def stepPart (r sh : Nat) : ℚ := (r : ℚ) / 2 ^ sh

theorem stepPart_nonneg (r sh : Nat) : 0 ≤ stepPart r sh := div_nonneg (Nat.cast_nonneg r) (by positivity)
theorem stepPart_lt {r sh : Nat} (hr : r < 2 ^ sh) : stepPart r sh < 1 := by
  rw [stepPart, div_lt_one (by positivity)]
  exact_mod_cast hr
theorem stepPart_pos {r sh : Nat} (hr : r ≠ 0) : 0 < stepPart r sh := div_pos (by exact_mod_cast Nat.pos_of_ne_zero hr) (by positivity)
theorem stepPart_zero (sh : Nat) : stepPart 0 sh = 0 := by rw [stepPart, Nat.cast_zero, zero_div]

/-- To nearest, a half goes to the even step. -/
theorem steps_nearest {r sh : Nat} (hr : r < 2 ^ sh) (n : Nat) (neg : Bool) :
    |(n : ℚ) + stepPart r sh - steps .rn neg n r sh| ≤ 1 / 2 ∧
      (|(n : ℚ) + stepPart r sh - steps .rn neg n r sh| = 1 / 2 → steps .rn neg n r sh % 2 = 0) := by
  have hD : (0 : ℚ) < 2 ^ sh := by positivity
  have h0 := stepPart_nonneg r sh
  have h1 := stepPart_lt hr
  have hgt : 2 ^ sh < 2 * r ↔ 1 < 2 * stepPart r sh := by
    rw [stepPart, ← mul_div_assoc, one_lt_div hD]; exact_mod_cast Iff.rfl
  have heq : 2 * r = 2 ^ sh ↔ 2 * stepPart r sh = 1 := by
    rw [stepPart, ← mul_div_assoc, div_eq_one_iff_eq hD.ne']; exact_mod_cast Iff.rfl
  have hr0 : 1 ≤ 2 * stepPart r sh → r ≠ 0 := by
    rintro h rfl
    rw [stepPart_zero] at h
    norm_num at h
  have hlow : steps .rn neg n r sh = n → (n : ℚ) + stepPart r sh - steps .rn neg n r sh = stepPart r sh := fun h => by rw [h]; ring
  have hhigh : steps .rn neg n r sh = n + 1 → (n : ℚ) + stepPart r sh - steps .rn neg n r sh = -(1 - stepPart r sh) :=
    fun h => by rw [h]; push_cast; ring
  rcases lt_trichotomy (2 * stepPart r sh) 1 with h | h | h
  · have hN : steps .rn neg n r sh = n := if_neg (by simp [roundsUp, hgt, heq, h.not_gt, h.ne])
    rw [hlow hN, abs_of_nonneg h0]
    exact ⟨by linarith, fun he => by linarith⟩
  · by_cases hodd : n % 2 = 1
    · have hN : steps .rn neg n r sh = n + 1 := if_pos (by simp [roundsUp, heq, h, hodd, hr0 h.ge])
      rw [hhigh hN, abs_neg, abs_of_nonneg (by linarith), hN]
      exact ⟨by linarith, fun _ => by omega⟩
    · have hN : steps .rn neg n r sh = n := if_neg (by simp [roundsUp, hgt, h, hodd])
      rw [hlow hN, abs_of_nonneg h0, hN]
      exact ⟨by linarith, fun _ => by omega⟩
  · have hN : steps .rn neg n r sh = n + 1 := if_pos (by simp [roundsUp, hgt, h, hr0 h.le])
    rw [hhigh hN, abs_neg, abs_of_nonneg (by linarith)]
    exact ⟨by linarith, fun he => by linarith⟩

/-- A mode that goes away from zero takes the next step. -/
theorem steps_up {m : Rnd} {neg : Bool} {n r sh : Nat} (hr : r < 2 ^ sh) (h : roundsUp m neg n r sh 0 = true) :
    (n : ℚ) + stepPart r sh ≤ steps m neg n r sh ∧ (steps m neg n r sh : ℚ) < n + stepPart r sh + 1 := by
  have h1 := stepPart_lt hr
  rw [steps, h, Bool.and_true]
  by_cases h0 : r = 0
  · subst h0
    rw [stepPart_zero]
    simp
  · have hp := stepPart_pos (sh := sh) h0
    rw [if_pos (decide_eq_true h0)]
    push_cast
    exact ⟨by linarith, by linarith⟩

/-- A mode that goes towards zero keeps the whole steps. -/
theorem steps_down {m : Rnd} {neg : Bool} {n r sh : Nat} (hr : r < 2 ^ sh) (h : roundsUp m neg n r sh 0 = false) :
    (steps m neg n r sh : ℚ) ≤ n + stepPart r sh ∧ (n : ℚ) + stepPart r sh < steps m neg n r sh + 1 := by
  have h0 := stepPart_nonneg r sh
  have h1 := stepPart_lt hr
  rw [steps, h, Bool.and_false, if_neg Bool.false_ne_true]
  exact ⟨by linarith, by linarith⟩

/-- Whole steps and a part of a step round to an integer as the mode says. -/
theorem roundsInt_steps (c : Nat) (neg : Bool) {r sh : Nat} (n : Nat) (hr : r < 2 ^ sh) :
    RoundsInt (Rnd.ofCode c) (if neg then -((n : ℚ) + stepPart r sh) else n + stepPart r sh)
      (if neg then -(steps (Rnd.ofCode c) neg n r sh : Int) else steps (Rnd.ofCode c) neg n r sh) := by
  have hn : (0 : ℚ) ≤ n + stepPart r sh := add_nonneg (Nat.cast_nonneg n) (stepPart_nonneg ..)
  have hmode : Rnd.ofCode c = .rn ∨ Rnd.ofCode c = .rz ∨ Rnd.ofCode c = .ru ∨ Rnd.ofCode c = .rd := by
    unfold Rnd.ofCode
    split <;> simp
  rcases hmode with hm | hm | hm | hm <;> rw [hm]
  · obtain ⟨ha, hb⟩ := steps_nearest hr n neg
    cases neg with
    | false => exact ⟨ha, fun h => by have := hb h; simp; omega⟩
    | true =>
      have he : -((n : ℚ) + stepPart r sh) - ((-(steps .rn true n r sh : Int) : Int) : ℚ) = -(n + stepPart r sh - steps .rn true n r sh) := by
        push_cast; ring
      refine ⟨?_, fun h => ?_⟩
      · simp only [if_true, he, abs_neg]
        exact ha
      · simp only [if_true, he, abs_neg] at h
        have := hb h
        simp; omega
  · obtain ⟨ha, hb⟩ := steps_down (m := .rz) (neg := neg) (n := n) hr rfl
    have habs (y : ℚ) (hy : 0 ≤ y) : |if neg then -y else y| = y := by
      cases neg
      · exact abs_of_nonneg hy
      · exact (abs_neg y).trans (abs_of_nonneg hy)
    have hcast : (((if neg then -(steps .rz neg n r sh : Int) else steps .rz neg n r sh) : Int) : ℚ) =
        if neg then -(steps .rz neg n r sh : ℚ) else steps .rz neg n r sh := by cases neg <;> simp
    rw [RoundsInt, hcast, habs _ hn, habs _ (Nat.cast_nonneg _)]
    exact ⟨ha, hb⟩
  · cases neg with
    | false => exact steps_up hr rfl
    | true =>
      obtain ⟨ha, hb⟩ := steps_down (m := .ru) (neg := true) (n := n) hr rfl
      simp [RoundsInt]
      exact ⟨by linarith, by linarith⟩
  · cases neg with
    | false => exact steps_down hr rfl
    | true =>
      obtain ⟨ha, hb⟩ := steps_up (m := .rd) (neg := true) (n := n) hr rfl
      simp [RoundsInt]
      exact ⟨by linarith, by linarith⟩

/-- A finite FP32 word: its sign, at most 24 bits, and a power of two of at most 104. -/
theorem fp32_read_fin {w : Word} {neg : Bool} {k : Nat} {e : Int} (h : fp32.read w.toNat = .fin neg k e) :
    w.msb = neg ∧ k < 2 ^ 24 ∧ e ≤ 104 := by
  have hw := w.isLt
  have hm : w.msb = decide (w.toNat / 2147483648 % 2 = 1) := by
    rw [BitVec.msb_eq_decide]
    exact decide_eq_decide.2 (by omega)
  rw [fp32_read] at h
  split at h
  · obtain ⟨rfl, rfl, rfl⟩ := FVal.fin.inj h
    exact ⟨hm, by omega, by omega⟩
  · split at h
    · split at h <;> exact nomatch h
    · obtain ⟨rfl, rfl, rfl⟩ := FVal.fin.inj h
      exact ⟨hm, by omega, by omega⟩

theorem roundInt_whole (m : Rnd) (neg : Bool) (k : Nat) {e : Int} (he : 0 ≤ e) : (roundInt m neg k e).1 = k * 2 ^ e.toNat := by
  rw [roundInt, if_pos he, pow2]

theorem roundInt_part (m : Rnd) (neg : Bool) (k : Nat) {e : Int} (he : ¬0 ≤ e) :
    (roundInt m neg k e).1 = steps m neg (k / 2 ^ (-e).toNat) (k % 2 ^ (-e).toNat) (-e).toNat := by
  rw [roundInt, if_neg he]
  rfl

/-- The integer that a finite FP32 value rounds to has at most 24 significant bits. -/
theorem roundInt_fits (m : Rnd) (neg : Bool) {k : Nat} {e : Int} (hk : k < 2 ^ 24) (he : e ≤ 104) :
    2 ^ (Nat.log2 (roundInt m neg k e).1 - 23) ∣ (roundInt m neg k e).1 ∧ (roundInt m neg k e).1 < 2 ^ 128 := by
  by_cases h0 : 0 ≤ e
  · rw [roundInt_whole m neg k h0]
    have hlt : k * 2 ^ e.toNat < 2 ^ (24 + e.toNat) := by
      rw [pow_add]
      exact Nat.mul_lt_mul_of_pos_right hk (Nat.two_pow_pos _)
    refine ⟨?_, hlt.trans_le (Nat.pow_le_pow_right (by decide) (by omega))⟩
    by_cases hz : k * 2 ^ e.toNat = 0
    · rw [hz]
      exact dvd_zero _
    · have hlog := (Nat.log2_lt hz).2 hlt
      exact (pow_dvd_pow 2 (by omega)).trans (dvd_mul_left ..)
  · rw [roundInt_part m neg k h0]
    have hs : steps m neg (k / 2 ^ (-e).toNat) (k % 2 ^ (-e).toNat) (-e).toNat ≤ 2 ^ 23 := by
      have hd : k / 2 ^ (-e).toNat ≤ k / 2 ^ 1 := Nat.div_le_div_left (Nat.pow_le_pow_right (by decide) (by omega)) (by decide)
      rw [steps]
      split <;> omega
    generalize steps m neg (k / 2 ^ (-e).toNat) (k % 2 ^ (-e).toNat) (-e).toNat = n at hs
    refine ⟨?_, by omega⟩
    by_cases hz : n = 0
    · rw [hz]
      exact dvd_zero _
    · have hlog : n.log2 < 24 := (Nat.log2_lt hz).2 (by omega)
      rw [show n.log2 - 23 = 0 by omega]
      exact one_dvd n

/-- A finite value rounds to an integer as the mode says. -/
theorem roundInt_rounds (c : Nat) (neg : Bool) (k : Nat) (e : Int) :
    RoundsInt (Rnd.ofCode c) ((if neg then -1 else 1) * (k : ℚ) * (2 : ℚ) ^ e)
      (if neg then -((roundInt (Rnd.ofCode c) neg k e).1 : Int) else (roundInt (Rnd.ofCode c) neg k e).1) := by
  by_cases h0 : 0 ≤ e
  · rw [roundInt_whole _ neg k h0]
    have hq : (if neg then -1 else 1) * (k : ℚ) * (2 : ℚ) ^ e =
        (((if neg then -((k * 2 ^ e.toNat : Nat) : Int) else (k * 2 ^ e.toNat : Nat)) : Int) : ℚ) := by
      obtain ⟨n, rfl⟩ := Int.eq_ofNat_of_zero_le h0
      cases neg <;> simp
    rw [hq]
    exact RoundsInt.refl _
  · rw [roundInt_part _ neg k h0]
    have hq : (if neg then -1 else 1) * (k : ℚ) * (2 : ℚ) ^ e =
        if neg then -(((k / 2 ^ (-e).toNat : Nat) : ℚ) + stepPart (k % 2 ^ (-e).toNat) (-e).toNat)
        else ((k / 2 ^ (-e).toNat : Nat) : ℚ) + stepPart (k % 2 ^ (-e).toNat) (-e).toNat := by
      obtain ⟨sh, hsh⟩ : ∃ sh : Nat, e = -(sh : Int) := ⟨(-e).toNat, by omega⟩
      have hk : (k : ℚ) * (2 : ℚ) ^ e = ((k / 2 ^ sh : Nat) : ℚ) + stepPart (k % 2 ^ sh) sh := by
        rw [hsh, zpow_neg, zpow_natCast, ← div_eq_mul_inv, div_eq_iff (by positivity), stepPart, add_mul,
          div_mul_cancel₀ _ (by positivity)]
        exact_mod_cast (Nat.div_add_mod' k (2 ^ sh)).symm
      rw [show (-e).toNat = sh by omega, ← hk]
      cases neg <;> simp
    rw [hq]
    exact roundsInt_steps c neg _ (Nat.mod_lt _ (Nat.two_pow_pos _))

theorem wr32_nan (z : Bool) : wr32 z .rn .nan = (0x7FC00000, fIV) := by cases z <;> decide

/-- An infinity rounds to itself. -/
theorem frnd_inf (z : Bool) (m : Rnd) (neg : Bool) :
    frnd z m (if neg then 0xFF800000 else 0x7F800000) = (if neg then 0xFF800000 else 0x7F800000, 0) := by
  have hr : rd32 z (if neg then 0xFF800000 else 0x7F800000) = .inf neg := by cases z <;> cases neg <;> decide
  rw [frnd, hr]
  dsimp only
  cases z <;> cases neg <;> decide

theorem frnd_finite {z : BitVec 1} {w : Word} (c : Nat) {q : ℚ} (h : (fp32.read (flushed z w).toNat).rat? = some q) :
    (frnd (decide (z = 1)) (Rnd.ofCode c) w).2 = 0 ∧ (frnd (decide (z = 1)) (Rnd.ofCode c) w).1.msb = w.msb ∧
      ∃ n : Int, (fp32.read (frnd (decide (z = 1)) (Rnd.ofCode c) w).1.toNat).rat? = some (n : ℚ) ∧ RoundsInt (Rnd.ofCode c) q n := by
  cases hr : fp32.read (flushed z w).toNat with
  | nan => rw [hr] at h; exact nomatch h
  | inf _ => rw [hr] at h; exact nomatch h
  | fin neg k e =>
    rw [hr] at h
    obtain rfl := Option.some.inj h
    obtain ⟨hm, hk, he⟩ := fp32_read_fin hr
    obtain ⟨hd, hlt⟩ := roundInt_fits (Rnd.ofCode c) neg hk he
    obtain ⟨hmsb, hval⟩ := wr32_nat (decide (z = 1)) neg hd hlt
    have hf : frnd (decide (z = 1)) (Rnd.ofCode c) w =
        ((wr32 (decide (z = 1)) .rn (.fin neg (roundInt (Rnd.ofCode c) neg k e).1 0)).1, 0) := by
      rw [frnd, rd32_eq_read_flushed, hr]
    rw [hf]
    exact ⟨rfl, hmsb.trans ((flushed_msb z w).symm.trans hm).symm, _, hval, roundInt_rounds c neg k e⟩

/-! `FCLASS` and `FSCALE` (R197, R198). -/

/-- The number of the class of an FP32 word, by the range in which the word lies. -/
def classNumber (n : Nat) : Nat :=
  if n = 0xFF800000 then 0 else if 0x80800000 ≤ n ∧ n < 0xFF800000 then 1 else if 0x80000001 ≤ n ∧ n < 0x80800000 then 2
  else if n = 0x80000000 then 3 else if n = 0 then 4 else if 1 ≤ n ∧ n < 0x00800000 then 5
  else if 0x00800000 ≤ n ∧ n < 0x7F800000 then 6 else if n = 0x7F800000 then 7 else 8

/-- The number of the class of a value, by its sign and its significand. -/
def FVal.classNumber : FVal → Nat
  | .nan => 8
  | .inf neg => if neg then 0 else 7
  | .fin neg k _ =>
    if k = 0 then (if neg then 3 else 4) else if k < 2 ^ 23 then (if neg then 2 else 5) else (if neg then 1 else 6)

theorem fclass_classNumber (w : Word) : fclass w = BitVec.ofNat 32 (2 ^ (fp32.read w.toNat).classNumber) := by
  unfold fclass
  cases fp32.read w.toNat with
  | nan => rfl
  | inf neg => cases neg <;> rfl
  | fin neg k e =>
    dsimp only [FVal.classNumber]
    cases neg <;> simp only [Bool.false_eq_true, if_true, if_false, ← apply_ite (fun n => BitVec.ofNat 32 (2 ^ n))]

/-- A finite positive magnitude, zero, subnormal or normal; and the same with a sign. -/
theorem classNumber_fin {n : Nat} (neg : Bool) {k : Nat} (e : Int) (hlow : neg = false → n < 0x7F800000)
    (hhigh : neg = true → 0x80000000 ≤ n ∧ n < 0xFF800000) (h0 : k = 0 ↔ n % 0x80000000 = 0) (h1 : k < 2 ^ 23 ↔ n % 0x80000000 < 0x800000) :
    (FVal.fin neg k e).classNumber = classNumber n := by
  dsimp only [FVal.classNumber]
  simp only [h0, h1]
  unfold classNumber
  cases neg with
  | false =>
    have := hlow rfl
    rw [if_neg (show ¬n = 0xFF800000 by omega), if_neg (show ¬(0x80800000 ≤ n ∧ n < 0xFF800000) by omega),
      if_neg (show ¬(0x80000001 ≤ n ∧ n < 0x80800000) by omega), if_neg (show ¬n = 0x80000000 by omega), Nat.mod_eq_of_lt (by omega)]
    simp only [Bool.false_eq_true, if_false]
    split
    · rfl
    · split
      · rw [if_pos (by omega)]
      · rw [if_neg (by omega), if_pos (by omega)]
  | true =>
    obtain ⟨hlo, hhi⟩ := hhigh rfl
    have hm : n % 0x80000000 = n - 0x80000000 := by omega
    rw [if_neg (show ¬n = 0xFF800000 by omega), hm]
    simp only [if_true]
    split
    · rw [if_neg (by omega), if_neg (by omega), if_pos (by omega)]
    · split
      · rw [if_neg (by omega), if_pos (by omega)]
      · rw [if_pos (by omega)]

theorem classNumber_read {n : Nat} (h : n < 2 ^ 32) : (fp32.read n).classNumber = classNumber n := by
  obtain ⟨neg, hneg⟩ : ∃ neg, decide (n / 2147483648 % 2 = 1) = neg := ⟨_, rfl⟩
  have hlow : neg = false → n < 2147483648 := fun hf => by have := of_decide_eq_false (hneg.trans hf); omega
  have hhigh : neg = true → 2147483648 ≤ n := fun ht => by have := of_decide_eq_true (hneg.trans ht); omega
  rw [fp32_read, hneg]
  split
  · exact classNumber_fin neg _ (fun hf => by have := hlow hf; omega) (fun ht => by have := hhigh ht; omega) (by omega) (by omega)
  · split
    · split
      · cases neg with
        | false =>
          have hn : n = 0x7F800000 := by have := hlow rfl; omega
          rw [hn]
          decide
        | true =>
          have hn : n = 0xFF800000 := by have := hhigh rfl; omega
          rw [hn]
          decide
      · unfold classNumber
        rw [if_neg (by omega), if_neg (by omega), if_neg (by omega), if_neg (by omega), if_neg (by omega), if_neg (by omega),
          if_neg (by omega), if_neg (by omega)]
        rfl
    · exact classNumber_fin neg _ (fun hf => by have := hlow hf; omega) (fun ht => by have := hhigh ht; omega) (by omega) (by omega)

theorem wr32_zero (z : Bool) (m : Rnd) (neg : Bool) (e : Int) : wr32 z m (.fin neg 0 e) = (BitVec.ofNat 32 (fp32.signed neg 0), 0) := by
  have hr : fp32.ofVal m (.fin neg 0 e) = (fp32.signed neg 0, 0) := by
    rw [Fmt.ofVal, Fmt.round, if_pos rfl]
  rw [wr32, hr, ftzOut, if_neg (by cases z <;> cases neg <;> decide)]

theorem fscale_eq (z : Bool) (m : Rnd) (a b : Word) : fscale z m a b = wr32 z m
    (match rd32 z a with | .fin n k e => .fin n k (e + max (-300) (min 300 b.toInt)) | x => x) := by
  unfold fscale
  cases rd32 z a with
  | nan => rfl
  | inf _ => rfl
  | fin n k e =>
    dsimp only
    split
    · next h =>
      subst h
      rw [wr32_zero, wr32_zero]
    · rfl

/-- Settles O18. -/
theorem floatOtherResults : Obligations.FloatOtherResults := by
  unfold Obligations.FloatOtherResults
  intro z d a b m isNan flush less val rounds
  refine ⟨⟨fminmax (decide (z = 1)) false, fminmax (decide (z = 1)) true, .of fun _ => rfl, .of fun _ => rfl, fun v w => ?_⟩, by decide, by decide,
    ⟨frnd (decide (z = 1)) (Rnd.ofCode m.toNat), .of fun _ => rfl, fun w => ⟨fun h => ?_, ?_, fun q hq => ?_⟩⟩, ?_, ?_⟩
  · rw [fminmax_eq, fminmax_eq]
    refine ⟨fun hv hw => ?_, fun hv hw => ?_, fun hv hw => ?_, fun hv hw => ?_⟩
    · exact ⟨(if_pos hv).trans (if_pos hw), (if_pos hv).trans (if_pos hw)⟩
    · exact ⟨(if_pos hv).trans (if_neg hw), (if_pos hv).trans (if_neg hw)⟩
    · exact ⟨(if_neg hv).trans (if_pos hw), (if_neg hv).trans (if_pos hw)⟩
    · exact ⟨(if_neg hv).trans (if_neg hw), (if_neg hv).trans (if_neg hw)⟩
  · rw [frnd, rd32, h]
    exact wr32_nan _
  · rintro (rfl | rfl)
    · exact frnd_inf _ _ false
    · exact frnd_inf _ _ true
  · exact frnd_finite m.toNat hq
  · exact .of_eq (fun _ => rfl) fun r => (fclass_classNumber _).trans (by rw [classNumber_read (r a.toNat).isLt]; rfl)
  · exact .of_eq (fun _ => rfl) fun r => fscale_eq _ _ _ _

end Sys2Proof.Machine
end
